-- ==== Sys2Proof/Word.lean ====
section
/-! DEFINITION. Words, bytes and the small closed types that instructions and events carry: the operand
fields of an instruction word (R297, R301, R302), rails (R20), coolant loops (R24) and peer packets (R35). -/
namespace Sys2Proof

/-- One byte of memory, scratchpad or operand die (R227). -/
abbrev Byte := BitVec 8
/-- A 32-bit lane value, instruction word or 32-bit register. -/
abbrev W32 := BitVec 32
/-- A 64-bit register, address, mask or double-word. -/
abbrev W64 := BitVec 64
/-- A register code, predicate field or tile field of an instruction word (R297). -/
abbrev Code := BitVec 7

/-- The fields of an instruction: the base word's S, Q, D, A and B (R297), the extension word's C and FN
(R301), and the literal word (R302). A field whose word is absent holds 0. -/
structure Operands where
  s : Bool
  q : Bool
  d : Code
  a : Code
  b : Code
  c : Code
  fn : BitVec 5
  lit : W32
  deriving DecidableEq, Repr

/-- The power rails of R20. -/
inductive Rail where
  | vaux | vbase | vmem | vlas
  | vch (n : Nat)
  deriving DecidableEq, Repr

/-- The two coolant loops of R23. -/
inductive CoolLoop where
  | top | bottom
  deriving DecidableEq, Repr

/-- What a link monitor finds of one packet on an elevator port (R17), and the ECC of a sector (R161). -/
inductive PortCheck where
  | clean | correctable | uncorrectable
  deriving DecidableEq, Repr

/-- An image of Muyras (R81): the fields of its header and its body. The manual gives the header's fields and no layout. -/
structure Image where
  version : W32
  length : W32
  digest : BitVec 384
  signature : List Byte
  body : List Byte
  deriving DecidableEq, Repr

/-- What Muyras finds as it loads an image (R81): whether flash could be read. -/
structure ImageCheck where
  flashOk : Bool
  deriving DecidableEq, Repr

/-- What the Chiplet stage finds of a chiplet (R79 step 2): whether the scan of its cores passes, and the elevator ports, by
number in the chiplet, that have failed their check. -/
structure ChipletCheck where
  scanOk : Bool
  badPorts : BitVec 12
  deriving DecidableEq, Repr

/-- A chiplet that starts, and what its scan and port check find. -/
structure ChipletRun where
  chiplet : Nat
  check : ChipletCheck
  deriving DecidableEq, Repr

/-- A rail that reports, and for a VCH rail what its chiplet's scan and port check find. -/
structure RailReport where
  rail : Rail
  check : ChipletCheck
  deriving DecidableEq, Repr

/-- A cluster whose calibration ends, and whether it has succeeded. -/
structure Calibration where
  cluster : Nat
  ok : Bool
  deriving DecidableEq, Repr

/-- What Muyras reads in one sample: the 194 sensors in the order of R26, and the two inlets. -/
structure Readings where
  temps : List (BitVec 12)
  inletTop : BitVec 12
  inletBottom : BitVec 12
  deriving DecidableEq, Repr

/-- A place that a host access names: a BAR and an offset in it. -/
structure BarPlace where
  bar : Nat
  off : Nat
  deriving DecidableEq, Repr

/-- A message whose line is looked at, and whether the array that holds the line gives an uncorrectable error. -/
structure Delivery where
  message : Nat
  bad : Bool
  deriving DecidableEq, Repr

/-- A line that DRAM gives, and which of its sectors ECC finds uncorrectable. -/
structure LineRead where
  line : Nat
  bad : BitVec 4
  deriving DecidableEq, Repr

/-- Where ECC finds an error (R161, R193): in a sector's DRAM, in its place in a slice's arrays, or in the version line that a slice
holds of its line for a task and epoch. -/
inductive EccPlace where
  | dram
  | array
  | version (task : Nat) (epoch : Bool)
  deriving DecidableEq, Repr

/-- A sector that is read or found bad, what its ECC finds, and where. -/
structure Scrub where
  sector : Nat
  check : PortCheck
  place : EccPlace
  deriving DecidableEq, Repr

/-- A peer packet (R35): its transaction header, its destination device and its data bytes. -/
structure Packet where
  op : BitVec 8
  src : BitVec 14
  dst : BitVec 14
  tag : BitVec 12
  fn : BitVec 5
  stat : BitVec 3
  size : BitVec 6
  addr : BitVec 50
  tc : BitVec 3
  data : List Byte
  deriving DecidableEq, Repr

/-- The PRG Response codes of R72. -/
inductive PrgCode where
  | success | invalidRequest | responseFailure
  deriving DecidableEq, Repr

/-- The host's answer to an ATS translation request (R55): it returns no translation, or one without write permission, or a page
`shift` pages further. -/
structure AtsReply where
  refused : Bool
  readOnly : Bool
  shift : Nat
  deriving DecidableEq, Repr, Inhabited

/-- What a field of an instruction word holds in a form (R300, R326, R423). -/
inductive FieldKind where
  /-- Unused: must be 0. -/
  | zero
  /-- A destination register code. -/
  | dst
  /-- A destination that is always a pair. -/
  | dstPair
  /-- A source register code or the literal. -/
  | src
  /-- A source that is always a pair, or zr, exec or the literal. -/
  | srcPair
  /-- A predicate number in bits [2:0]. -/
  | pred
  /-- The literal, which the form always takes. -/
  | lit
  /-- A tile position in bits [3:0]. -/
  | tile
  /-- A counter operand plus one, or 0: 0 to 64 (R391). -/
  | count
  /-- The first of `n` consecutive registers, its code a multiple of 4. -/
  | block (n : Nat)
  /-- A destination register whose code is a multiple of `align` and which names `n` registers, or zr. -/
  | dstN (align n : Nat)
  /-- A data register whose code is a multiple of `align` and which names `n` registers, or zr. -/
  | dataN (align n : Nat)
  /-- A data register as `dataN`, where zr is not allowed (CAS, R388). -/
  | casN (align n : Nat)
  /-- The target selector B of BRA and CALL: 0 or 127 (R330). -/
  | target
  deriving DecidableEq, Repr

/-- Why a sequence of words is no instruction: too few words, or an Illegal Instruction with its SUB (R303). -/
inductive DecodeError where
  | truncated
  | illegal (sub : Nat)
  deriving DecidableEq, Repr

/-- A page walker of a chiplet (R144, R273). -/
structure WalkStep where
  chiplet : Nat
  walker : Nat
  deriving DecidableEq, Repr

end Sys2Proof
end

