-- ==== Sys2Proof/Config.lean ====
section
/-! DEFINITION. What the manual leaves open: constants with no body, each an uninterpreted function that nothing
in Lean can evaluate. DESIGN CHOICE, safe: a claim proved holds for every such function (log entries 4, 6, 19,
20, 28, 29, 39, 60, 87 and 126). -/
namespace Sys2Proof.Config

/-- A choice the manual leaves open between two outcomes: the `n`-th free value of the run, at index `k` (R216,
R228, R240, R242, R243, R189). -/
opaque freeBit (n k : Nat) : Bool

/-- Which of several allowed results a transcendental delivers: a fixed function of the operation, the format, the
operand bits, FTZ and SAT (R365). -/
opaque transChoice (op fmt bits : Nat) (ftz sat : Bool) : Nat

/-- The index of a line or page in a cluster TLB, slice array or version array, or of a directory entry, whose hash the
manual does not give (R156, R172, R185, R273). -/
opaque setIndex (structureId key : Nat) : Nat

/-- The way that a structure with no stated replacement rule gives up (R156, R172, R174). -/
opaque victimWay (structureId key n : Nat) : Nat

/-- The DRAM bank and row of a line at its controller, whose layout the manual does not give (R160). -/
opaque dramRow (line : Nat) : Nat × Nat

/-- A 32-bit value the manual leaves open, by free value number and index. -/
opaque freeW32 (n k : Nat) : BitVec 32

/-- A 64-bit value the manual leaves open, by free value number and index. -/
opaque freeW64 (n k : Nat) : BitVec 64

/-- The parity bits [639:600] that a flit sender computes over bits [599:0] (R28). -/
opaque fecCheck (flit : BitVec 600) : BitVec 40

/-- The receive buffers that a port has for a traffic class (R32; the manual gives no number). -/
opaque classBuffers (tc : Nat) : Nat

/-- A byte of host memory that the device has not written (R55). -/
opaque hostByte (n a : Nat) : BitVec 8

/-- The host's answer to the `n`-th of the requests that units make for a page of a PASID (R55, R57, R65). -/
opaque atsReply (n func : Nat) (pasid : BitVec 20) (page : Nat) : AtsReply

/-- Byte `i` of the attestation signature over a report (R83). -/
opaque attestSignature (report : List (BitVec 8)) (i : Nat) : BitVec 8

/-- The identity public key of the part, and its certificate (R83). -/
opaque identityKey : List (BitVec 8)
opaque tilquinCertificate : List (BitVec 8)

/-- The image that flash holds from manufacture (R81): version, body length, digest, signature and body. -/
opaque factoryImage : BitVec 32 × BitVec 32 × BitVec 384 × List (BitVec 8) × List (BitVec 8)

/-- The image that the bytes of a recovery window hold, in the same order (R82; the manual gives no layout of the header). -/
opaque windowImage (window : List (Nat × BitVec 8)) : BitVec 32 × BitVec 32 × BitVec 384 × List (BitVec 8) × List (BitVec 8)

/-- The bytes of an image, header and body, over which MR0 is the digest (R83). -/
opaque imageBytes (version length : BitVec 32) (digest : BitVec 384) (signature body : List (BitVec 8)) : List (BitVec 8)

/-- The digest of the root public key, fused into the part (R81). -/
opaque rootKeyDigest : BitVec 384

/-- Whether the signature over the rest of a header verifies under the root public key of a digest (R81). -/
opaque signatureVerifies (rootKeyDigest : BitVec 384) (version length : BitVec 32) (digest : BitVec 384) (signature : List (BitVec 8)) : Bool

/-- The minimum image version fused into the part (R81). -/
opaque minVersion : BitVec 32

/-- The fused configuration of the part (R83). -/
opaque fusedConfig : List (BitVec 8)

/-- The digest of a message under the digest function that R83 names. -/
opaque digest384 (message : List (BitVec 8)) : BitVec 384

end Sys2Proof.Config
end

