-- ==== Sys2Proof/Machine/Num.lean ====
section
/-! DEFINITION. Number formats and rounding (R278 to R296): the element formats, exact values, `Round`, the dual-shift
and E8M0 formats, conversions, and the results of the transcendentals (R365, R366). -/
namespace Sys2Proof.Machine

/-- Sticky flags of a lane: NV, DZ, OF, UF, NX from bit 0 up (R370). -/
abbrev Flags := BitVec 5
def fNV : Flags := 1#5
def fDZ : Flags := 2#5
def fOF : Flags := 4#5
def fUF : Flags := 8#5
def fNX : Flags := 16#5

/-- The width in bits of an element of format `et` (R278). -/
def elemWidth (et : Nat) : Nat :=
  match et with
  | 2 | 3 | 7 => 64
  | 4 | 8 | 9 => 16
  | 5 | 10 | 11 | 12 | 14 => 8
  | 13 => 4
  | _ => 32

/-- Whether format `et` occupies a register pair (R278). -/
def is64 (et : Nat) : Bool := et == 2 || et == 3 || et == 7

/-- The elements that one lane (or one pair) of format `et` holds (R278). -/
def elemCount (et : Nat) : Nat := if is64 et then 1 else 32 / elemWidth et

/-- Whether an integer format is signed (R343). -/
def isSigned (et : Nat) : Bool := et == 0 || et == 2 || et == 4 || et == 5

/-- Element `k` of `w` bits of a lane value, as an unsigned number (R278). -/
def elemBits (w x k : Nat) : Nat := (x / 2 ^ (w * k)) % 2 ^ w

/-- The lane value whose elements of `w` bits are those of a list, the first lowest. -/
def packElems (w : Nat) : List Nat → Nat
  | [] => 0
  | x :: xs => x % 2 ^ w + 2 ^ w * packElems w xs

/-- The value of a `w`-bit integer element, signed or unsigned. -/
def intVal (signed : Bool) (w x : Nat) : Int :=
  if signed && x ≥ 2 ^ (w - 1) then (x : Int) - 2 ^ w else x

/-- An integer reduced modulo 2 to the `w` (R286). -/
def wrapInt (w : Nat) (x : Int) : Nat := (x % (2 ^ w : Int)).toNat

def intMin (signed : Bool) (w : Nat) : Int := if signed then -(2 ^ (w - 1) : Int) else 0
def intMax (signed : Bool) (w : Nat) : Int := if signed then 2 ^ (w - 1) - 1 else 2 ^ w - 1

/-- An exact integer clamped to the range of its format (R286). -/
def clampInt (signed : Bool) (w : Nat) (x : Int) : Int := max (intMin signed w) (min (intMax signed w) x)

/-- The integer result of an operation whose entry names saturation: clamped under SAT, wrapped otherwise (R286). -/
def deliverInt (sat signed : Bool) (w : Nat) (x : Int) : Nat :=
  wrapInt w (if sat then clampInt signed w x else x)

/-- A binary floating-point format: width, fraction bits, exponent bits, bias; E4M3 has no infinity (R279, R280). -/
structure BinFmt where
  w : Nat
  m : Nat
  eb : Nat
  bias : Nat
  noInf : Bool
  deriving DecidableEq, Repr

/-- The six binary formats by ET code (R279). -/
def binFmt (et : Nat) : Option BinFmt :=
  match et with
  | 6 => some ⟨32, 23, 8, 127, false⟩
  | 7 => some ⟨64, 52, 11, 1023, false⟩
  | 8 => some ⟨16, 10, 5, 15, false⟩
  | 9 => some ⟨16, 7, 8, 127, false⟩
  | 10 => some ⟨8, 3, 4, 7, true⟩
  | 11 => some ⟨8, 2, 5, 15, false⟩
  | _ => none

def fp32 : BinFmt := ⟨32, 23, 8, 127, false⟩
def fp64 : BinFmt := ⟨64, 52, 11, 1023, false⟩

/-- An exact value: a NaN, an infinity, or ±(m · 2^e), plus less than one 2^e when `sticky`; zero keeps its sign. -/
inductive Val where
  | nan (signalling : Bool)
  | inf (neg : Bool)
  | fin (neg : Bool) (m : Nat) (e : Int) (sticky : Bool)
  deriving DecidableEq, Repr

def Val.isNan : Val → Bool | .nan _ => true | _ => false
def Val.isSNan : Val → Bool | .nan q => q | _ => false
def Val.isInf : Val → Bool | .inf _ => true | _ => false
def Val.isZero : Val → Bool | .fin _ 0 _ false => true | _ => false
def Val.neg? : Val → Bool | .nan _ => false | .inf n => n | .fin n _ _ _ => n
/-- The value with its sign inverted when `b`; a NaN is unchanged. -/
def Val.flip (b : Bool) : Val → Val
  | .nan q => .nan q
  | .inf n => .inf (n != b)
  | .fin n m e st => .fin (n != b) m e st

def BinFmt.emin (f : BinFmt) : Int := 1 - (f.bias : Int)
def BinFmt.signBit (f : BinFmt) : Nat := 2 ^ (f.w - 1)
def BinFmt.expOf (f : BinFmt) (x : Nat) : Nat := (x / 2 ^ f.m) % 2 ^ f.eb
def BinFmt.fracOf (f : BinFmt) (x : Nat) : Nat := x % 2 ^ f.m
def BinFmt.negOf (f : BinFmt) (x : Nat) : Bool := (x / f.signBit) % 2 == 1
/-- The largest exponent code of a finite value, and its largest fraction (R279). -/
def BinFmt.maxExp (f : BinFmt) : Nat := if f.noInf then 2 ^ f.eb - 1 else 2 ^ f.eb - 2
def BinFmt.maxFrac (f : BinFmt) : Nat := if f.noInf then 2 ^ f.m - 2 else 2 ^ f.m - 1
/-- The canonical NaN (R279). -/
def BinFmt.nan (f : BinFmt) : Nat :=
  if f.noInf then 2 ^ (f.w - 1) - 1 else (2 ^ f.eb - 1) * 2 ^ f.m + 2 ^ (f.m - 1)
def BinFmt.withSign (f : BinFmt) (neg : Bool) (x : Nat) : Nat := if neg then f.signBit + x else x
/-- Inf(fmt, s) of R287: for E4M3, the NaN of sign s. -/
def BinFmt.inf (f : BinFmt) (neg : Bool) : Nat :=
  f.withSign neg (if f.noInf then 2 ^ (f.w - 1) - 1 else (2 ^ f.eb - 1) * 2 ^ f.m)
def BinFmt.maxFinite (f : BinFmt) (neg : Bool) : Nat := f.withSign neg (f.maxExp * 2 ^ f.m + f.maxFrac)

/-- The value of an encoding of a binary format (R280, R281). -/
def BinFmt.decode (f : BinFmt) (x : Nat) : Val :=
  let e := f.expOf x
  let fr := f.fracOf x
  let n := f.negOf x
  if f.noInf then
    if e == 2 ^ f.eb - 1 && fr == 2 ^ f.m - 1 then .nan false
    else if e == 0 then .fin n fr (f.emin - f.m) false
    else .fin n (2 ^ f.m + fr) ((e : Int) - f.bias - f.m) false
  else if e == 2 ^ f.eb - 1 then
    if fr == 0 then .inf n else .nan (fr < 2 ^ (f.m - 1))
  else if e == 0 then .fin n fr (f.emin - f.m) false
  else .fin n (2 ^ f.m + fr) ((e : Int) - f.bias - f.m) false

/-- An operand encoding as R288 reads it: a denormal is a zero of its sign under FTZ. -/
def BinFmt.flushIn (f : BinFmt) (ftz : Bool) (x : Nat) : Nat :=
  if ftz && f.expOf x == 0 && f.fracOf x != 0 then f.withSign (f.negOf x) 0 else x

/-- Which way R287 rounds: rm, the sign, whether n is odd, the remainder `rem` of 2^d, sticky, and the stochastic z. -/
def roundUp (rm : Nat) (neg odd : Bool) (rem d : Nat) (sticky : Bool) (z : Nat) : Bool :=
  let pos := rem != 0 || sticky
  let twice := 2 * rem
  let half := twice == 2 ^ d && !sticky
  let above := twice > 2 ^ d || (twice == 2 ^ d && sticky)
  match rm with
  | 0 => above || (half && odd)
  | 1 => false
  | 2 => pos && !neg
  | 3 => pos && neg
  | 4 => above || half
  | _ => rem * 2 ^ 24 / 2 ^ d + z ≥ 2 ^ 24

/-- ToInf(rm, s) of R287. -/
def toInf (rm : Nat) (neg : Bool) : Bool :=
  rm == 0 || rm == 4 || rm == 5 || (rm == 2 && !neg) || (rm == 3 && neg)

/-- Whether m · 2^e is below 2^k. -/
def belowPow (m : Nat) (e k : Int) : Bool := m == 0 || (m.log2 : Int) + e < k

/-- The encoding of n · 2^q, n below 2^(m+1) + 1 and q at least Emin − m, or none where it exceeds MaxFinite. -/
def BinFmt.encode (f : BinFmt) (neg : Bool) (n : Nat) (q : Int) : Option Nat :=
  let n' := if n == 2 ^ (f.m + 1) then 2 ^ f.m else n
  let q' := if n == 2 ^ (f.m + 1) then q + 1 else q
  if n' < 2 ^ f.m then some (f.withSign neg n')
  else
    let e := (q' + f.m + f.bias).toNat
    let fr := n' - 2 ^ f.m
    if e > f.maxExp || (e == f.maxExp && fr > f.maxFrac) then none
    else some (f.withSign neg (e * 2 ^ f.m + fr))

/-- `Round(fmt, x, rm)` for a binary format (R287), with the stochastic value `z`: the encoding and the flags. -/
def BinFmt.round (f : BinFmt) (rm : Nat) (ftz sat : Bool) (z : Nat) (x : Val) : Nat × Flags :=
  match x with
  | .nan _ => (f.nan, 0)
  | .inf n => (f.inf n, 0)
  | .fin n m e st =>
    if m == 0 && !st then (f.withSign n 0, 0)
    else
      let tiny := belowPow m e f.emin
      if ftz && tiny then (f.withSign n 0, fUF ||| fNX)
      else
        let q := max ((m.log2 : Int) + e) f.emin - f.m
        let d := (q - e).toNat
        let n0 := if q ≥ e then m / 2 ^ d else m * 2 ^ (e - q).toNat
        let rem := if q ≥ e then m % 2 ^ d else 0
        let up := roundUp rm n (n0 % 2 == 1) rem d st z
        let n1 := if up then n0 + 1 else n0
        let inexact := rem != 0 || st
        let fl := (if inexact then fNX else 0) ||| (if inexact && tiny then fUF else 0)
        match f.encode n n1 q with
        | some b => (b, fl)
        | none =>
          (if !sat && toInf rm n then f.inf n else f.maxFinite n, fl ||| fOF ||| fNX)

/-- RoundM of R295: `Round(FP32, x, RNE)` without FTZ or SAT, its flags dropped. -/
def roundM (x : Val) : Nat := (fp32.round 0 false false 0 x).1

/-- The exact sum of two values; an exact zero is signed by R290 under rounding mode `rm`. ∞ − ∞ is a NaN. -/
def Val.add (rm : Nat) (a b : Val) : Val :=
  match a, b with
  | .nan q, .nan r => .nan (q || r)
  | .nan q, _ => .nan q
  | _, .nan q => .nan q
  | .inf n, .inf k => if n == k then .inf n else .nan false
  | .inf n, _ => .inf n
  | _, .inf n => .inf n
  | .fin n m e _, .fin k j g _ =>
    let lo := min e g
    let x : Int := (if n then -1 else 1) * ((m * 2 ^ (e - lo).toNat : Nat) : Int)
    let y : Int := (if k then -1 else 1) * ((j * 2 ^ (g - lo).toNat : Nat) : Int)
    let t := x + y
    if t == 0 then
      if m == 0 && j == 0 && n == k then .fin n 0 lo false else .fin (rm == 3) 0 lo false
    else .fin (t < 0) t.natAbs lo false

/-- The exact product of two values; 0 × ∞ is a NaN (R290, R292). -/
def Val.mul (a b : Val) : Val :=
  match a, b with
  | .nan q, .nan r => .nan (q || r)
  | .nan q, _ => .nan q
  | _, .nan q => .nan q
  | .inf n, .inf k => .inf (n != k)
  | .inf n, .fin k j _ _ => if j == 0 then .nan false else .inf (n != k)
  | .fin n m _ _, .inf k => if m == 0 then .nan false else .inf (n != k)
  | .fin n m e _, .fin k j g _ => .fin (n != k) (m * j) (e + g) false

/-- The comparison of two values that are no NaN: −1, 0 or 1; −0 and +0 are equal. -/
def Val.cmp (a b : Val) : Int :=
  match a, b with
  | .inf n, .inf k => if n == k then 0 else if n then -1 else 1
  | .inf n, _ => if n then -1 else 1
  | _, .inf n => if n then 1 else -1
  | .fin n m e _, .fin k j g _ =>
    let lo := min e g
    let x : Int := (if n then -1 else 1) * ((m * 2 ^ (e - lo).toNat : Nat) : Int)
    let y : Int := (if k then -1 else 1) * ((j * 2 ^ (g - lo).toNat : Nat) : Int)
    if x < y then -1 else if x == y then 0 else 1
  | _, _ => 0

/-- NV for a signalling NaN among the operands (R281). -/
def snanFlag (xs : List Val) : Flags := if xs.any Val.isSNan then fNV else 0

/-- NV and the value where an operation on operands `xs` gives `v`: an invalid operation is a NaN none of the operands is (R358). -/
def invalidFlag (xs : List Val) (v : Val) : Flags :=
  if v.isNan && !(xs.any Val.isNan) then fNV else 0

/-! ## The dual-shift and block-scale formats -/

/-- The value of a DS8 byte in units of 2^−7 (R283). -/
def ds8Units (x : Nat) : Int :=
  let t1 : Int := 2 ^ (7 - (x / 16) % 8)
  let t2 : Int := 2 ^ (7 - x % 8)
  (if x / 128 % 2 == 1 then -t1 else t1) + (if x / 8 % 2 == 1 then -t2 else t2)

/-- The value of a DS4 nibble in units of 2^−7 (R284). -/
def ds4Units (x : Nat) : Int :=
  let t : Int := 2 ^ (7 - x % 8)
  if x / 8 % 2 == 1 then -t else t

/-- The value of a count of units of 2^−7. -/
def unitsVal (u : Int) : Val := .fin (u < 0) u.natAbs (-7) false

/-- The two terms of a DS8 byte (R283, R285). -/
def ds8Terms (x : Nat) : List Val :=
  [.fin (x / 128 % 2 == 1) 1 (-((x / 16 % 8 : Nat) : Int)) false, .fin (x / 8 % 2 == 1) 1 (-((x % 8 : Nat) : Int)) false]

/-- The canonical DS8 code of a value in units: the smallest byte that denotes it (R283). -/
def ds8Code (u : Int) : Nat := ((List.range 256).find? fun b => ds8Units b == u).getD 8

/-- The code of a signed power of two in DS4, of units 1 to 128. -/
def ds4Code (u : Int) : Nat := ((List.range 16).find? fun b => ds4Units b == u).getD 7

/-- The magnitudes of DS8 or DS4, in units, ascending (R283, R284). -/
def dsMags (ds4 : Bool) : List Nat :=
  if ds4 then [1, 2, 4, 8, 16, 32, 64, 128]
  else (List.range 257).filter fun u => u != 0 && (List.range 256).any fun b => ds8Units b == (u : Int)

/-- Whether R291 takes hi: |x| = m · 2^e between magnitudes lo and hi of one unit 2^k. -/
def pickHi (rm : Nat) (neg : Bool) (m : Nat) (e : Int) (lo hi : Nat) (k : Int) (z : Nat) : Bool :=
  let b := min e k
  let x := m * 2 ^ (e - b).toNat
  let l := lo * 2 ^ (k - b).toNat
  let h := hi * 2 ^ (k - b).toNat
  match rm with
  | 0 => 2 * x > l + h
  | 4 => 2 * x ≥ l + h
  | 1 => false
  | 2 => !neg
  | 3 => neg
  | _ => (x - l) * 2 ^ 24 / (h - l) + z ≥ 2 ^ 24

/-- Whether m · 2^e and u · 2^k compare as below, equal or above. -/
def cmpMag (m : Nat) (e : Int) (u : Nat) (k : Int) : Ordering :=
  let b := min e k
  compare (m * 2 ^ (e - b).toNat) (u * 2 ^ (k - b).toNat)

/-- A value rounded into DS8 or DS4 (R291). -/
def roundDs (ds4 : Bool) (rm z : Nat) (x : Val) : Nat × Flags :=
  let code (u : Int) : Nat := if ds4 then ds4Code u else ds8Code u
  let top : Nat := if ds4 then 128 else 256
  match x with
  | .nan _ => (if ds4 then 7 else 8, fNV)
  | .inf n => (code (if n then -(top : Int) else top), fNV)
  | .fin n m e _ =>
    let sg (u : Nat) : Int := if n then -(u : Int) else u
    if m == 0 then if ds4 then (if n then 15 else 7, fUF ||| fNX) else (8, 0)
    else if cmpMag m e top (-7) == .gt then (code (sg top), fOF ||| fNX)
    else if cmpMag m e 1 (-7) == .lt then
      if ds4 then (code (sg 1), fUF ||| fNX)
      else
        let u := if pickHi rm n m e 0 1 (-7) z then 1 else 0
        (if u == 0 then 8 else code (sg u), fUF ||| fNX)
    else
      let mags := dsMags ds4
      match mags.find? fun u => cmpMag m e u (-7) == .eq with
      | some u => (code (sg u), 0)
      | none =>
        let lo := ((mags.filter fun u => cmpMag m e u (-7) == .gt).getLast?).getD 1
        let hi := (mags.find? fun u => cmpMag m e u (-7) == .lt).getD top
        (code (sg (if pickHi rm n m e lo hi (-7) z then hi else lo)), fNX)

/-- The value of an E8M0 code (R282). -/
def e8m0Val (x : Nat) : Val := if x == 255 then .nan false else .fin false 1 ((x : Int) - 127) false

/-- A value rounded into E8M0 (R291). -/
def roundE8m0 (rm z : Nat) (x : Val) : Nat × Flags :=
  match x with
  | .nan _ => (255, fNV)
  | .inf n => (if n then 255 else 254, fNV)
  | .fin n m e _ =>
    if m == 0 || n then (255, fNV)
    else
      let l := (m.log2 : Int) + e
      if cmpMag m e 1 127 == .gt then (254, fOF ||| fNX)
      else if l < -127 then (0, fUF ||| fNX)
      else if m == 2 ^ m.log2 then ((l + 127).toNat, 0)
      else
        let hi := pickHi rm false m e 1 2 l z
        ((l + 127).toNat + (if hi then 1 else 0), fNX)

/-! ## Conversions -/

/-- The value of an element of format `et` (R280 to R286). -/
def elemVal (et x : Nat) : Val :=
  match binFmt et with
  | some f => f.decode x
  | none =>
    match et with
    | 12 => unitsVal (ds8Units x)
    | 13 => unitsVal (ds4Units x)
    | 14 => e8m0Val x
    | _ =>
      let v := intVal (isSigned et) (elemWidth et) x
      .fin (v < 0) v.natAbs 0 false

/-- Whether a format is one of the integer formats. -/
def isIntFmt (et : Nat) : Bool := et ≤ 5

/-- An operand element as R288 reads it. -/
def flushElem (ftz : Bool) (et x : Nat) : Nat :=
  match binFmt et with
  | some f => f.flushIn ftz x
  | none => x

/-- A value rounded to an integer (R293, R287 at q = 0): the magnitude, and whether it is inexact. -/
def roundIntegral (rm z : Nat) (n : Bool) (m : Nat) (e : Int) (st : Bool) : Nat × Bool :=
  if e ≥ 0 then (m * 2 ^ e.toNat, st)
  else
    let d := (-e).toNat
    let n0 := m / 2 ^ d
    let rem := m % 2 ^ d
    let up := roundUp rm n (n0 % 2 == 1) rem d st z
    (if up then n0 + 1 else n0, rem != 0 || st)

/-- A floating value converted to an integer format (R293). -/
def toInt (dst rm z : Nat) (x : Val) : Nat × Flags :=
  let w := elemWidth dst
  let sg := isSigned dst
  match x with
  | .nan _ => (0, fNV)
  | .inf n => (wrapInt w (if n then intMin sg w else intMax sg w), fNV)
  | .fin n m e st =>
    let (r, inexact) := roundIntegral rm z n m e st
    let v : Int := if n then -(r : Int) else r
    if v < intMin sg w then (wrapInt w (intMin sg w), fNV)
    else if v > intMax sg w then (wrapInt w (intMax sg w), fNV)
    else (wrapInt w v, if inexact then fNX else 0)

/-- Whether every value of floating format `src` is held by format `dst` (R293, first row). DEDUCED: a conversion from DS4, DS8 or E8M0
to FP16, E4M3 or E5M2 takes the fifth row, Round, also where the first row fits; under FTZ = 1 it flushes DS4's ±2^-7 to zero in E4M3,
with UF and NX (log entry 139). -/
def holdsAll (src dst : Nat) : Bool :=
  match src with
  | 6 => dst == 6 || dst == 7
  | 7 => dst == 7
  | 8 => dst == 8 || dst == 6 || dst == 7
  | 9 => dst == 9 || dst == 6 || dst == 7
  | 10 => dst == 10 || dst == 6 || dst == 7 || dst == 8 || dst == 9
  | 11 => dst == 11 || dst == 6 || dst == 7 || dst == 8 || dst == 9
  | 12 | 13 | 14 => dst == 6 || dst == 7 || dst == 9
  | _ => false

/-- A conversion of element `x` of format `src` to format `dst` under the mode fields (R293, R367): the element and
its flags. A conversion to the format itself delivers the operand as read; what it delivers is a result as any other, so that a NaN is
canonical (R281), a DS8 code too (R283), and an E8M0 NaN raises NV (R291; log entry 138). -/
def convert (src dst rm : Nat) (ftz sat : Bool) (z x : Nat) : Nat × Flags :=
  if isIntFmt src && isIntFmt dst then
    let v := intVal (isSigned src) (elemWidth src) x
    (deliverInt (sat && elemWidth dst ≤ elemWidth src) (isSigned dst) (elemWidth dst) v, 0)
  else
    let x := flushElem ftz src x
    let v := elemVal src x
    let nv := snanFlag [v]
    if isIntFmt dst then toInt dst rm z v
    else
      match binFmt dst with
      | some f =>
        if src == dst then (if v.isNan then f.nan else x, nv)
        else if holdsAll src dst then
          ((f.round 0 false false 0 v).1, nv)
        else
          let (b, fl) := f.round rm ftz sat z v
          (b, fl ||| nv)
      | none => if dst == 14 then roundE8m0 rm z v else roundDs (dst == 13) rm z v

/-! ## Transcendentals -/

/-- floor of the square root, `fuel` bits of result. -/
def isqrtAux (n : Nat) : Nat → Nat → Nat
  | 0, r => r
  | k + 1, r => let c := r + 2 ^ k; isqrtAux n k (if c * c ≤ n then c else r)

/-- The floor of the square root of `n`. -/
def isqrt (n : Nat) : Nat := isqrtAux n (n.log2 / 2 + 1) 0

/-- The exact reciprocal of m · 2^e to 160 bits and a sticky bit. -/
def recipVal (n : Bool) (m : Nat) (e : Int) : Val :=
  let k := m.log2 + 160
  .fin n (2 ^ k / m) (-(k : Int) - e) (2 ^ k % m != 0)

/-- The exact square root of m · 2^e to about 160 bits and a sticky bit. -/
def sqrtVal (m : Nat) (e : Int) : Val :=
  let sh : Nat := 320 + (if (e % 2) == 0 then 0 else 1)
  let x := m * 2 ^ sh
  let r := isqrt x
  .fin false r ((e - sh) / 2) (r * r != x)

/-- Fixed-point precision of the series below. -/
def fxBits : Nat := 256

/-- pi in fixed point with `fxBits` fraction bits, by Machin's formula on integers. -/
def arctanInv (x : Nat) (one : Nat) : Nat → Nat → Nat → Int → Int
  | 0, _, _, acc => acc
  | k + 1, p, d, acc =>
    let t : Int := (p / d : Nat)
    arctanInv x one k (p / (x * x)) (d + 2) (if d / 2 % 2 == 0 then acc + t else acc - t)

/-- pi · 2^n, rounded to an integer close by. -/
def piFx (n : Nat) : Nat :=
  let one := 2 ^ (n + 32)
  let v := 16 * arctanInv 5 one (n / 4 + 12) (one / 5) 1 0 - 4 * arctanInv 239 one (n / 15 + 8) (one / 239) 1 0
  (v / 2 ^ 32).toNat

/-- The Taylor sum of sin (odd) or cos of x · 2^−fxBits. -/
def trigSeries (x : Nat) : Nat → Nat → Nat → Int → Int
  | 0, _, _, acc => acc
  | k + 1, i, t, acc =>
    let acc := if i / 2 % 2 == 0 then acc + t else acc - t
    trigSeries x k (i + 2) (t * x / 2 ^ fxBits * x / 2 ^ fxBits / ((i + 1) * (i + 2))) acc

/-- sin or cos of ±(m · 2^e), in fixed point with a sign: the argument is reduced exactly (R366). -/
def trigFx (cos n : Bool) (m : Nat) (e : Int) : Bool × Nat :=
  let p := fxBits + 160
  let pi2 := piFx p                    -- pi at precision p; the quadrant is of size pi/2
  let x := if e + p ≥ 0 then m * 2 ^ (e + p).toNat else m / 2 ^ (-(e + p)).toNat
  let quad := 2 * x / pi2
  let r := (2 * x - quad * pi2) / 2 / 2 ^ 160
  let q := if cos then quad + 1 else quad
  let s := if q % 2 == 0 then trigSeries r 60 1 r 0 else trigSeries r 60 0 (2 ^ fxBits) 0
  let neg := (q / 2 % 2 == 1)
  ((if cos then neg else neg != n), s.toNat)

/-- ln 2 in fixed point: the sum of 1 / (k 2^k). -/
def ln2Fx : Nat → Nat → Nat → Nat
  | 0, _, acc => acc
  | k + 1, i, acc => ln2Fx k (i + 1) (acc + 2 ^ fxBits / 2 ^ i / i)

/-- exp of x · 2^−fxBits by its series. -/
def expSeries (x : Nat) : Nat → Nat → Nat → Nat → Nat
  | 0, _, _, acc => acc
  | k + 1, i, t, acc => expSeries x k (i + 1) (t * x / 2 ^ fxBits / i) (acc + t)

/-- log2 of a mantissa in [1, 2), fixed point: one bit a squaring. -/
def log2Frac : Nat → Nat → Nat → Nat
  | 0, _, acc => acc
  | k + 1, y, acc =>
    let y2 := y * y / 2 ^ fxBits
    if y2 ≥ 2 ^ (fxBits + 1) then log2Frac k (y2 / 2) (2 * acc + 1) else log2Frac k y2 (2 * acc)

/-- The exact value of an inexact transcendental, to well over the bits that the choice of neighbours needs; the
argument is finite and none of the special operands of R366. -/
def transExact (op : Nat) (n : Bool) (m : Nat) (e : Int) : Val :=
  match op with
  | 1 =>   -- 1 / sqrt a
    let k := m.log2 + 400
    let k := if ((k : Int) + e) % 2 == 0 then k else k + 1
    let x := 2 ^ (k + 400) / m
    let r := isqrt x
    .fin false r (-(((k + 400 : Nat) : Int) + e) / 2) (r * r * m != 2 ^ (k + 400))
  | 3 =>   -- 2 ^ a
    let fx := if e + fxBits ≥ 0 then m * 2 ^ (e + fxBits).toNat else m / 2 ^ (-(e + fxBits)).toNat
    let v : Int := if n then -(fx : Int) else fx
    let i := v / 2 ^ fxBits
    let fr := (v % 2 ^ fxBits).toNat
    .fin false (expSeries (fr * ln2Fx 270 1 0 / 2 ^ fxBits) 70 1 (2 ^ fxBits) 0) (i - fxBits) true
  | 4 =>   -- log2 a
    let l := m.log2
    let y := m * 2 ^ fxBits / 2 ^ l
    let fr := log2Frac 200 y 0
    let v : Int := ((l : Int) + e) * 2 ^ 200 + fr
    .fin (v < 0) v.natAbs (-200) true
  | 5 => let (s, v) := trigFx false n m e; .fin s v (-(fxBits : Int)) true
  | _ => let (s, v) := trigFx true n m e; .fin s v (-(fxBits : Int)) true

/-- The encoding of the greatest magnitude not above `x` units of 2^`base`, and whether it is that magnitude; for one above MaxFinite, the
place after MaxFinite. -/
def BinFmt.below (f : BinFmt) (x : Nat) (base : Int) : Nat × Bool :=
  let q := max ((x.log2 : Int) + base) f.emin - f.m
  let n := if q ≥ base then x / 2 ^ (q - base).toNat else x * 2 ^ (base - q).toNat
  match f.encode false n q with
  | some b => (b, q ≤ base || x % 2 ^ (q - base).toNat == 0)
  | none => (f.maxExp * 2 ^ f.m + f.maxFrac + 1, true)

/-- The least and the greatest results that the bound of R366 allows for an exact magnitude of `mv` · 2^`ev`, or one just above it: as
magnitude encodings, negative for a result of the other sign, with the place after MaxFinite for a value above it. -/
def boundRange (op : Nat) (f : BinFmt) (mv : Nat) (ev : Int) (above : Bool) : Int × Int :=
  let q := max ((mv.log2 : Int) + ev) f.emin - f.m
  let abs' : Int := if f.w == 32 then -22 else -10
  let base := min ev (min q abs')
  let unit (e : Int) : Nat := 2 ^ (e - base).toNat
  let bound := max ((if f.w == 32 && op != 1 then 2 else 1) * unit q) (if op ≥ 4 then unit abs' else 0)
  let x := mv * unit ev
  let hi := (f.below (x + bound) base).1
  let l : Int := (x : Int) - bound + (if above then 1 else 0)
  let (b, same) := f.below l.natAbs base
  (if l < 0 then -(b : Int) else if same then b else b + 1, hi)

/-- The result of FRCP to FCOS (index 0 to 6) on an operand encoding (R365, R366). An inexact result of the last
five is one of the values within the bound, chosen by `Config.transChoice`. DEDUCED: FEXP2, whose value is never 0, raises UF where
it delivers 0 (log entry 137). -/
def transcendental (op : Nat) (et rm : Nat) (ftz sat : Bool) (z x : Nat) : Nat × Flags :=
  match binFmt et with
  | none => (0, 0)
  | some f =>
    let xr := f.flushIn ftz x
    let v := f.decode xr
    let invalid : Nat × Flags := (f.nan, fNV)
    let inexact (v : Val) : Nat × Flags :=
      match v with
      | .fin sg mv ev st =>
        let (lo, hi) := boundRange op f mv ev st
        let k := lo + (Config.transChoice op et x ftz sat % ((hi - lo).toNat + 1) : Nat)
        let sg := sg != (k < 0 : Bool)
        let r := k.natAbs
        if r > f.maxExp * 2 ^ f.m + f.maxFrac then
          (if sat then f.maxFinite sg else f.inf sg, fOF ||| fNX)
        else
          let isExact : Bool := match f.decode r with
            | .fin _ rm' re _ => !st && k ≥ 0 && cmpMag rm' re mv ev == .eq
            | _ => false
          let tiny := r < 2 ^ f.m && (r != 0 || op == 3)
          if isExact then (f.withSign sg r, 0)
          else if tiny then (if ftz then f.withSign sg 0 else f.withSign sg r, fUF ||| fNX)
          else (f.withSign sg r, fNX)
      | _ => (f.nan, 0)
    match v with
    | .nan q => (f.nan, if q then fNV else 0)
    | .inf n =>
      match op with
      | 0 => (f.withSign n 0, 0)
      | 1 => if n then invalid else (0, 0)
      | 2 => if n then invalid else (f.inf false, 0)
      | 3 => if n then (0, 0) else (f.inf false, 0)
      | 4 => if n then invalid else (f.inf false, 0)
      | _ => invalid
    | .fin n m e _ =>
      if m == 0 then
        match op with
        | 0 => (f.inf n, fDZ)
        | 1 => (f.inf n, fDZ)
        | 2 => (xr, 0)
        | 3 => (f.bias * 2 ^ f.m, 0)
        | 4 => (f.inf true, fDZ)
        | 5 => (xr, 0)
        | _ => (f.bias * 2 ^ f.m, 0)
      else
        match op with
        | 0 => f.round rm ftz sat z (recipVal n m e)
        | 1 =>
          if n then invalid
          else if cmpMag m e 1 0 == .eq then (f.bias * 2 ^ f.m, 0)
          else inexact (transExact 1 n m e)
        | 2 => if n then invalid else f.round rm ftz sat z (sqrtVal m e)
        | 3 =>
          if e ≥ 0 || m % 2 ^ (-e).toNat == 0 then
            let i : Nat := if e ≥ 0 then m * 2 ^ (min e.toNat 2000) else m / 2 ^ (-e).toNat
            let i : Int := if n then -(i : Int) else i
            if i > 2000 then ((if sat then f.maxFinite false else f.inf false), fOF ||| fNX)
            else if i < -2000 then (0, fUF ||| fNX)
            else if i < f.emin - f.m || i > (f.maxExp : Int) - f.bias then
              inexact (.fin false 1 i false)
            else
              let r := (f.round 0 false false 0 (.fin false 1 i false)).1
              if ftz && i < f.emin then (0, fUF ||| fNX) else (r, 0)
          else if (m.log2 : Int) + e > 16 then
            if n then (0, fUF ||| fNX) else ((if sat then f.maxFinite false else f.inf false), fOF ||| fNX)
          else inexact (transExact 3 n m e)
        | 4 =>
          if n then invalid
          else if m == 2 ^ m.log2 then
            let i : Int := (m.log2 : Int) + e
            f.round 0 ftz sat 0 (.fin (i < 0) i.natAbs 0 false)
          else inexact (transExact 4 n m e)
        | _ => inexact (transExact op n m e)

/-- One step of the stochastic-rounding state of a lane (R289); its low 24 bits are what an operation rounds with. -/
def stepSr (x : W32) : W32 :=
  let x := x ^^^ (x <<< 13)
  let x := x ^^^ (x >>> 17)
  x ^^^ (x <<< 5)

/-- One RNE add without flags, of the base die and of atomics (R296, R388). -/
def addM (f : BinFmt) (a b : Nat) : Nat :=
  (f.round 0 false false 0 ((f.decode a).add 0 (f.decode b))).1

end Sys2Proof.Machine
end

