-- ==== Sys2Proof/Syntax.lean ====
section
/-! DEFINITION. The steps of the part: one constructor for each row of spec/opcode_table.json. A Faleri
instruction carries its operand fields; an event of the device carries what names its agent and what the
outside world supplies with it (a written value, a measured power, a received flit). -/
namespace Sys2Proof

/-- The operations of the H8M-768: the Faleri instructions in the order of the opcode table, then the events of the device in its order. -/
inductive Instr where
  /-- NOP (R331): does nothing; with S it parks the group. -/
  | nop (o : Operands)
  /-- MODE (R332): writes the group's MODE register from a single source. -/
  | mode (o : Operands)
  /-- BRA (R333): branches the fragment to the address in a register pair. -/
  | bra (o : Operands)
  /-- BRA_LABEL (R333): branches the fragment to a PC-relative literal target. -/
  | braLabel (o : Operands)
  /-- BR (R335): divides a fragment by a predicate into taken and fall-through sides with a join address. -/
  | br (o : Operands)
  /-- JOIN (R336): sends the fragment to its record's join address, where it arrives. -/
  | join (o : Operands)
  /-- BRX (R338): branches each lane to its own 64-bit target through successive splits. -/
  | brx (o : Operands)
  /-- CALL (R334): writes the return address into a pair and branches to the target in a register pair. -/
  | call (o : Operands)
  /-- CALL_LABEL (R334): writes the return address into a pair and branches to a PC-relative literal target. -/
  | callLabel (o : Operands)
  /-- RET (R333): branches to the address in a register pair. -/
  | ret (o : Operands)
  /-- EXIT (R339): removes the lanes of the effective mask from their fragment. -/
  | exit (o : Operands)
  /-- YIELD (R331): leaves the fragment not ready for 32 cycles. -/
  | yield (o : Operands)
  /-- TRAP (R351): takes the Software trap with a code. -/
  | trap (o : Operands)
  /-- RFT (R352): returns from handler mode, restoring PC, MODE and EXEC and releasing stopped fragments. -/
  | rft (o : Operands)
  /-- RDSR (R353): reads a system register into a register. -/
  | rdsr (o : Operands)
  /-- WRSR (R353): writes a system register from a single source. -/
  | wrsr (o : Operands)
  /-- BOOST (R355): sets or clears the group's boost request. -/
  | boost (o : Operands)
  /-- SRSEED (R356): sets each lane's stochastic-rounding state. -/
  | srseed (o : Operands)
  /-- PSET (R341): sets predicate bits from a test of a register. -/
  | pset (o : Operands)
  /-- PLOG (R341): combines two predicates bitwise. -/
  | plog (o : Operands)
  /-- PMOV (R342): writes all 64 bits of a predicate from a single source. -/
  | pmov (o : Operands)
  /-- BALLOT (R342): writes a predicate masked by the effective mask into a register pair. -/
  | ballot (o : Operands)
  /-- POPM (R342): writes the population count of a masked predicate. -/
  | popm (o : Operands)
  /-- SHFL (R373): moves values between lanes by index, up, down or xor. -/
  | shfl (o : Operands)
  /-- BCAST (R374): broadcasts one lane's value to every lane of the effective mask. -/
  | bcast (o : Operands)
  /-- LRED (R376): reduces a register over the lanes of the effective mask. -/
  | lred (o : Operands)
  /-- LSCAN (R377): computes an inclusive or exclusive lane scan. -/
  | lscan (o : Operands)
  /-- VOTE (R378): writes an all, any or equal vote of a predicate. -/
  | vote (o : Operands)
  /-- MATCH (R379): writes to each lane the mask of lanes holding an equal value. -/
  | matchLanes (o : Operands)
  /-- PERM (R375): selects bytes within a lane from two sources. -/
  | perm (o : Operands)
  /-- IADD (R343): integer add of elements. -/
  | iadd (o : Operands)
  /-- ISUB (R343): integer subtract of elements. -/
  | isub (o : Operands)
  /-- IMUL (R343): integer multiply, low part. -/
  | imul (o : Operands)
  /-- IMULH (R343): integer multiply, high part. -/
  | imulh (o : Operands)
  /-- IMAD (R343): integer multiply-add. -/
  | imad (o : Operands)
  /-- IMIN (R343): integer minimum. -/
  | imin (o : Operands)
  /-- IMAX (R343): integer maximum. -/
  | imax (o : Operands)
  /-- IABS (R343): integer absolute value. -/
  | iabs (o : Operands)
  /-- INEG (R343): integer negation. -/
  | ineg (o : Operands)
  /-- ICMP (R344): integer comparison into a predicate. -/
  | icmp (o : Operands)
  /-- ICVT (R345): converts one integer element to another integer format. -/
  | icvt (o : Operands)
  /-- AND (R347): bitwise AND. -/
  | bitAnd (o : Operands)
  /-- OR (R347): bitwise OR. -/
  | bitOr (o : Operands)
  /-- XOR (R347): bitwise exclusive OR. -/
  | bitXor (o : Operands)
  /-- NOT (R347): bitwise complement. -/
  | bitNot (o : Operands)
  /-- SHL (R346): shift left of elements. -/
  | shl (o : Operands)
  /-- SHR (R346): logical shift right of elements. -/
  | shr (o : Operands)
  /-- SAR (R346): arithmetic shift right of elements. -/
  | sar (o : Operands)
  /-- ROT (R346): rotate left of elements. -/
  | rot (o : Operands)
  /-- FSHL (R348): funnel shift left of two words. -/
  | fshl (o : Operands)
  /-- FSHR (R348): funnel shift right of two words. -/
  | fshr (o : Operands)
  /-- BFX (R348): extracts a bit field, zero- or sign-extended. -/
  | bfx (o : Operands)
  /-- BFI (R348): inserts a bit field. -/
  | bfi (o : Operands)
  /-- POPC (R348): counts set bits. -/
  | popc (o : Operands)
  /-- CLZ (R348): counts leading zero bits. -/
  | clz (o : Operands)
  /-- BREV (R348): reverses the bits of a lane. -/
  | brev (o : Operands)
  /-- SEL (R347): selects between two sources by a predicate. -/
  | sel (o : Operands)
  /-- LEA (R349): adds a shifted index to a 64-bit address. -/
  | lea (o : Operands)
  /-- ADDA (R349): adds two 64-bit addresses. -/
  | adda (o : Operands)
  /-- AFF (R349): forms the affine value a + b × lane. -/
  | aff (o : Operands)
  /-- FADD (R358): floating-point add. -/
  | fadd (o : Operands)
  /-- FSUB (R358): floating-point subtract. -/
  | fsub (o : Operands)
  /-- FMUL (R358): floating-point multiply. -/
  | fmul (o : Operands)
  /-- FMA (R358): fused multiply-add with optional negations, rounded once. -/
  | fma (o : Operands)
  /-- FMIN (R359): floating-point minimum. -/
  | fmin (o : Operands)
  /-- FMAX (R359): floating-point maximum. -/
  | fmax (o : Operands)
  /-- FNEG (R360): inverts the sign bit. -/
  | fneg (o : Operands)
  /-- FABS (R360): clears the sign bit. -/
  | fabs (o : Operands)
  /-- FCMP (R361): floating-point comparison into a predicate. -/
  | fcmp (o : Operands)
  /-- FCLASS (R362): classifies floating-point elements. -/
  | fclass (o : Operands)
  /-- FRND (R363): rounds elements to integral values. -/
  | frnd (o : Operands)
  /-- FSCALE (R364): multiplies elements by a power of two. -/
  | fscale (o : Operands)
  /-- FRCP (R366): reciprocal, correctly rounded. -/
  | frcp (o : Operands)
  /-- FRSQ (R366): reciprocal square root. -/
  | frsq (o : Operands)
  /-- FSQRT (R366): square root, correctly rounded. -/
  | fsqrt (o : Operands)
  /-- FEXP2 (R366): base-2 exponential. -/
  | fexp2 (o : Operands)
  /-- FLOG2 (R366): base-2 logarithm. -/
  | flog2 (o : Operands)
  /-- FSIN (R366): sine. -/
  | fsin (o : Operands)
  /-- FCOS (R366): cosine. -/
  | fcos (o : Operands)
  /-- CVT (R367): converts element 0 to another format. -/
  | cvt (o : Operands)
  /-- PACK (R368): converts two elements into adjacent packed elements. -/
  | pack (o : Operands)
  /-- UNPACK (R369): converts two packed elements into two registers. -/
  | unpack (o : Operands)
  /-- FLGRD (R370): reads each lane's sticky flags. -/
  | flgrd (o : Operands)
  /-- FLGCLR (R370): clears selected sticky flags. -/
  | flgclr (o : Operands)
  /-- LD (R383): loads from memory into registers. -/
  | ld (o : Operands)
  /-- ST (R384): stores to memory, versioned or direct. -/
  | st (o : Operands)
  /-- LDS (R383): loads from the team's scratchpad. -/
  | lds (o : Operands)
  /-- STS (R384): stores to the team's scratchpad. -/
  | sts (o : Operands)
  /-- LDX (R386): loads from a district member's scratchpad. -/
  | ldx (o : Operands)
  /-- STX (R386): stores to a district member's scratchpad. -/
  | stx (o : Operands)
  /-- PREF (R387): hints that lines be placed in the L1. -/
  | pref (o : Operands)
  /-- ATOM (R389): atomic operation on memory. -/
  | atom (o : Operands)
  /-- ATOMS (R389): atomic operation on the team's scratchpad. -/
  | atoms (o : Operands)
  /-- RED (R389): atomic reduction on memory without return. -/
  | red (o : Operands)
  /-- WAITCNT (R391): blocks the fragment until the named counters fall to their operands. -/
  | waitcnt (o : Operands)
  /-- COMMIT (R392): flips the epoch and commits the team's versioned stores, resuming at commit complete. -/
  | commit (o : Operands)
  /-- BAR (R396): arrives at the team barrier and waits for its release. -/
  | bar (o : Operands)
  /-- DARRIVE (R397): arrives at the district barrier and writes the new arrival count. -/
  | darrive (o : Operands)
  /-- DWAIT (R397): waits until the district barrier reaches a generation. -/
  | dwait (o : Operands)
  /-- GARRIVE (R398): arrives at the grid barrier and writes the new arrival count. -/
  | garrive (o : Operands)
  /-- GWAIT (R398): waits until the grid barrier reaches a generation. -/
  | gwait (o : Operands)
  /-- EVSET (R405): sets or clears a context flag at the Plaza. -/
  | evset (o : Operands)
  /-- EVCLR (R406): clears pending event bits and invalidates descriptors. -/
  | evclr (o : Operands)
  /-- WAITANY (R402): loads event descriptors, arms them and waits, resuming at the handler of the lowest pending event. -/
  | waitany (o : Operands)
  /-- MSEND (R407): sends a message to a mailbox and returns a status. -/
  | msend (o : Operands)
  /-- MRECV (R408): waits for and removes the oldest message of a mailbox. -/
  | mrecv (o : Operands)
  /-- XSHF (R409): exchanges lane values with another group of the team. -/
  | xshf (o : Operands)
  /-- TRIG (R411): arrives at the team's trigger for early dependent launch. -/
  | trig (o : Operands)
  /-- LAUNCH (R412): appends a launch record from the scratchpad to a queue. -/
  | launch (o : Operands)
  /-- CPY (R424): copies bytes between memory and scratchpad through a copy engine. -/
  | cpy (o : Operands)
  /-- CPYM (R425): copies memory into several district members' scratchpads. -/
  | cpym (o : Operands)
  /-- GATH (R427): gathers indexed memory elements into the scratchpad. -/
  | gath (o : Operands)
  /-- SCAT (R427): scatters scratchpad elements to indexed memory. -/
  | scat (o : Operands)
  /-- GCSR (R428): walks compressed sparse rows into scratchpad pairs and offsets. -/
  | gcsr (o : Operands)
  /-- STAGE (R426): moves a two-dimensional block between memory and scratchpad. -/
  | stage (o : Operands)
  /-- CLOSE (R416): seals the open batch of an engine class and writes its number. -/
  | close (o : Operands)
  /-- WAITB (R417): blocks until a batch of a class reaches .r or .v. -/
  | waitb (o : Operands)
  /-- LDB (R429): loads a block of B elements into the operand die. -/
  | ldb (o : Operands)
  /-- MFENCE (R431): blocks until register writes are available and earlier STS are performed. -/
  | mfence (o : Operands)
  /-- MMA (R433): advances an accumulator tile by one K-step with A from registers. -/
  | mma (o : Operands)
  /-- MMAS (R433): advances an accumulator tile by one K-step with A from the scratchpad. -/
  | mmas (o : Operands)
  /-- ACCNEXT (R434): writes +0 into the masked elements of a tile. -/
  | accnext (o : Operands)
  /-- ACCRD (R435): reads a tile into 16 registers. -/
  | accrd (o : Operands)
  /-- ACCWR (R435): writes a tile from 16 registers. -/
  | accwr (o : Operands)
  /-- EPI (R438): scales, activates and converts a tile into a dense block. -/
  | epi (o : Operands)
  /-- COLL (R440): contributes to a junction, extended or Roundabout collective. -/
  | coll (o : Operands)
  /-- DPFX (R443): decodes prefix codes through a table into the scratchpad. -/
  | dpfx (o : Operands)
  /-- DRLE (R444): expands run-length records into the scratchpad. -/
  | drle (o : Operands)
  /-- DBIT (R445): splits a bit stream into fixed-width fields. -/
  | dbit (o : Operands)
  /-- DCHK (R446): checks a memory word and copies a staged chunk to memory when it matches. -/
  | dchk (o : Operands)
  /-- UNASSIGNED_OPCODE (R316): A group issues an instruction word whose major opcode is unassigned, and it takes the Illegal Instruction trap with SUB 1. -/
  | unassignedOpcode (op : BitVec 8) (s q : Bool)
  /-- POWER_ON_RESET (R76): VAUX is applied, all module-reset registers take their reset values, and the bring-up stages start from Boot. -/
  | powerOnReset
  /-- MODULE_RESET (R76): PERST# reruns the bring-up stages from Boot without removing VAUX, and registers take their module-reset values. -/
  | moduleReset
  /-- CHIPLET_RESET (R21): muyras switches VCHn off and on again, which reruns only the Chiplet stage for chiplet n. -/
  | chipletReset (run : ChipletRun)
  /-- RAIL_UP (R21): A rail reports within 3% of nominal, and the next rail in the power-up order is brought up. -/
  | railUp (report : RailReport)
  /-- RAIL_FAULT (R22): the final stage reports undervoltage or overcurrent on a rail, and Muyras takes the response the table gives for that rail. -/
  | railFault (rails : List Rail)
  /-- STANDBY_POWER_REMOVED (R87): the host removes standby power, and VMEM and the committed memory it holds go down. -/
  | standbyPowerRemoved
  /-- IMAGE_VERIFY_DONE (R81): muyras finishes checking the flash or recovery image; the image runs or BOOTST enters Recovery. -/
  | imageVerifyDone (image : ImageCheck)
  /-- RECOVERY_GO (R82): A write of BOOTST.GO in Recovery starts verification of the image in the recovery window. -/
  | recoveryGo (value : W32)
  /-- BASE_STAGE_DONE (R77): VBASE, the fabric and VMEM are up and all DRAM is zeroed, so the module enters the Memory stage. -/
  | baseStageDone
  /-- MEMORY_STAGE_DONE (R77): VLAS is up and the peer ports are trainable, so the Compute stage starts and the chiplets begin to join. -/
  | memoryStageDone
  /-- CLUSTER_CALIBRATION_DONE (R79): A cluster's thermal column finishes calibrating; the cluster moves to 1.6 GHz and full matrix rate and its CAL bit is set. -/
  | clusterCalibrationDone (done : Calibration)
  /-- ATTNONCE_WRITE (R83): A write of the 48-byte attestation nonce clears ATTDONE. -/
  | attnonceWrite (nonce : BitVec 384)
  /-- ATTESTATION_GO (R83): A write of 1 to ATTGO asks Muyras for a signed measurement report. -/
  | attestationGo
  /-- ATTESTATION_DONE (R83): muyras finishes the signed report and sets ATTDONE. -/
  | attestationDone
  /-- CLUSTER_RETENTION_ENTRY (R84): after 50 µs with no resident group, the cluster invalidates its L1s and enters retention. -/
  | clusterRetentionEntry (cluster : Nat)
  /-- CLUSTER_WAKE (R84): A retained cluster completes its 2 µs wake after the first dispatch to it. -/
  | clusterWake (cluster : Nat)
  /-- SLICE_RETENTION_ENTRY (R85): after 50 µs with no request and no pending work, the slice enters retention. -/
  | sliceRetentionEntry (slice : Nat)
  /-- SLICE_WAKE (R85): A retained slice completes its 600-bclk wake and serves the request that woke it. -/
  | sliceWake (slice : Nat)
  /-- LOOP_SAMPLE (R24): every 100 µs Muyras samples the two coolant-loss signals and decides the thermal table in force from the pair of loop states. -/
  | loopSample (lossTopN lossBottomN : Bool)
  /-- INLET_OUT_OF_RANGE (R24): A loop's inlet sensor has read outside range for 10 ms, and Muyras asserts loss of that loop. -/
  | inletOutOfRange (loop : CoolLoop)
  /-- LOOP_RESTORED (R25): A loop has been deasserted and in range continuously for 1 s, and the module returns to the table of the new loop pair. -/
  | loopRestored (loop : CoolLoop)
  /-- SENSOR_SAMPLE (R26): muyras reads every temperature sensor and acts on over-temperature readings of dies and stacks. -/
  | sensorSample (read : Readings)
  /-- LASER_MODULE_LOSS (R18): A laser source module is lost, which takes down its peer ports or removes the Avenue's redundancy. -/
  | laserModuleLoss (module : Nat)
  /-- BOOST_BOUNDARY (R91): at each 4 µs boundary the governor sets ceilings, updates ECAP, grants claims, charges permits, sets clocks and moves BPTR. -/
  | boostBoundary (watts : Nat)
  /-- PERMIT_REFILL (R92): A cluster with no resident group gains one permit after each 8 µs of unbroken idleness, up to its ceiling. -/
  | permitRefill (cluster : Nat)
  /-- EXCLUSION_SUBPERIOD_END (R95): the 1 µs sub-period ends, and doubled matrix intervals return to normal. -/
  | exclusionSubperiodEnd
  /-- REGISTER_WRITE (R7): A host write to a BAR0 register that has no behaviour of its own sets its fields under their access codes. -/
  | registerWrite (func : Nat) (place : BarPlace) (width : Nat) (value : BitVec 128)
  /-- READ_TO_CLEAR (R7): A read of a register holding an RC field returns the field and clears it in the same access. -/
  | readToClear (func : Nat) (place : BarPlace) (width : Nat)
  /-- PORT_ENABLE (R44): A write of PCTL.EN = 1 enables a peer port. -/
  | portEnable (port : Nat) (value : W32)
  /-- PORT_DISABLE (R44): A write of PCTL.EN = 0 takes a peer port Down with the effects of port loss. -/
  | portDisable (port : Nat) (value : W32)
  /-- PORT_RETRAIN (R31): A write of PCTL.RETRAIN trains a Down or Failed port, provided PDEVID.V is 1. -/
  | portRetrain (port : Nat) (value : W32)
  /-- PORT_TRAINING_DONE (R31): A port finishes training and goes Up. -/
  | portTrainingDone (port : Nat)
  /-- PWGT_WRITE (R44): A write of the arbitration weights is taken only when they add to 16 and none is 0. -/
  | pwgtWrite (port : Nat) (value : W32)
  /-- PDEVID_WRITE (R44): the one write allowed after each reset sets the device identifier, and later writes are ignored. -/
  | pdevidWrite (value : W32)
  /-- FLIT_SLOT (R33): in each flit slot the port sender takes a flit from replay, control, response or the weighted wheel of the other classes. -/
  | flitSlot (port : Nat)
  /-- FLIT_RECEIVE (R30): the receiver corrects a flit with the FEC, checks CRC and sequence, and either accepts it or discards it and asks for replay. -/
  | flitReceive (port : Nat) (flit : BitVec 640)
  /-- GO_BACK_N_REPLAY (R30): A control flit naming the expected SEQ makes the sender resend from that flit onward. -/
  | goBackNReplay (port : Nat) (seq : BitVec 12)
  /-- PORT_REPLAY_LIMIT (R31): A port has resent the same flit 8 times and is declared Failed. -/
  | portReplayLimit (port : Nat)
  /-- PORT_RECEIVE_TIMEOUT (R31): A port has accepted no flit for 10 µs and is declared Failed. -/
  | portReceiveTimeout (port : Nat)
  /-- PEER_REQUEST_SEND (R41): A remote request that waited for a free tag at its source port takes the tag and is sent. -/
  | peerRequestSend (port : Nat)
  /-- ROUTE_HOLD_RELEASE (R39): after a route change, held packets are released once every packet on the old route has completed or failed. -/
  | routeHoldRelease (device : Nat)
  /-- TRANSIT_PACKET (R42): A packet for another device is forwarded on its primary or alternate port, or answered FAILED. -/
  | transitPacket (port : Nat)
  /-- PEER_LOAD (R38): an inbound load is checked against the inbound window table and performed at its home slice as a direct access. -/
  | peerLoad (port : Nat)
  /-- PEER_STORE (R38): an inbound store is checked against the windows, performed as a direct store and answered. -/
  | peerStore (port : Nat)
  /-- PEER_ATOMIC (R38): an inbound atomic with return is checked, performed at the home and answered with the old value. -/
  | peerAtomic (port : Nat)
  /-- PEER_ATOMIC_NO_RETURN (R38): an inbound atomic without return is checked, performed at the home and completed. -/
  | peerAtomicNoReturn (port : Nat)
  /-- PEER_BULK_WRITE (R40): an inbound bulk write is checked against the windows and written as direct stores. -/
  | peerBulkWrite (port : Nat)
  /-- PEER_CHECKPOINT_PAGE (R45): an inbound checkpoint page is checked and written to DRAM by its home slices without allocation. -/
  | peerCheckpointPage (port : Nat)
  /-- PEER_COLLECTIVE_PACKET (R165): A junction-extension or Roundabout packet arrives and is added at a port adder, forwarded, or delivers the final sum. -/
  | peerCollectivePacket (port : Nat)
  /-- PEER_RESERVED_OP (R35): A packet with a reserved OP is answered with status DENIED. -/
  | peerReservedOp (port : Nat)
  /-- PEER_RESPONSE (R40): A response returns to the issuing device and takes effect for its group by status: result, counter, trap or abort. -/
  | peerResponse (port : Nat)
  /-- CKCTL_GO (R46): A write of CKCTL.GO in Idle or Done starts a checkpoint by entering Quiesce. -/
  | ckctlGo (value : W32)
  /-- CKCTL_ABORT (R46): A write of CKCTL.ABORT in Quiesce or Stream ends the checkpoint FAILED. -/
  | ckctlAbort (value : W32)
  /-- CKCTL_RESTORE (R47): A write of CKCTL.RESTORE in Idle or Done starts the restore of a device-state image. -/
  | ckctlRestore (value : W32)
  /-- CHECKPOINT_QUIESCE_DONE (R46): every team is saved, every version committed and the device-state image written, and the checkpoint enters Stream. -/
  | checkpointQuiesceDone
  /-- CHECKPOINT_STREAM_DONE (R46): every page's completion has returned, and the checkpoint passes through Resume to Done with status OK. -/
  | checkpointStreamDone
  /-- RESTORE_DONE (R47): the restore has loaded contexts, queues, tasks, grids and park state, and enters Resume. -/
  | restoreDone
  /-- BAR4_READ (R53): A host read through BAR4 is served as a direct load of committed data at the home slice. -/
  | bar4Read (off bytes : Nat)
  /-- BAR4_WRITE (R53): A host write through BAR4 is performed as a direct store in link order. -/
  | bar4Write (off : Nat) (data : List Byte)
  /-- CONTEXT_ENABLE (R54): A CXCTL write with EN = 1 makes a context resident after its checks, clears its flags, mailboxes and ring indices. -/
  | contextEnable (func ctx : Nat) (value : W32)
  /-- CONTEXT_DISABLE (R54): A CXCTL write with EN = 0 removes a context whose queues are all Off. -/
  | contextDisable (func ctx : Nat) (value : W32)
  /-- RECORD_RING_READ_INDEX_WRITE (R57): A host write of CXRRI moves the read index and sends MSI-X when records remain. -/
  | recordRingReadIndexWrite (func ctx : Nat) (value : W32)
  /-- HELD_RECORD_WRITE (R58): A record held for a stopped group is written once the ring has room, and the group may go on. -/
  | heldRecordWrite (ctx : Nat)
  /-- ATS_INVALIDATION (R56): the host invalidates ATS translations for a PASID and range, and the device removes them from its TLBs and walk caches. -/
  | atsInvalidation (func : Nat) (pasid : BitVec 20) (va : W64) (pages : Nat)
  /-- ATS_INVALIDATION_COMPLETION (R56): every access that used a removed translation has completed, and the device returns the Invalidation Completion. -/
  | atsInvalidationCompletion
  /-- PRG_RESPONSE (R72): A PRG Response frees its tag entry, and each waiting group retries or takes an unresolved Page Fault. -/
  | prgResponse (entry : Nat) (code : PrgCode)
  /-- PRI_TIMEOUT (R72): PRITO milliseconds pass without a response, the entry is freed and its waiters take Page Fault. -/
  | priTimeout (entry : Nat)
  /-- QWIN_WRITE (R62): A write of a queue's submission-page write index makes records available, or is an overrun. -/
  | qwinWrite (func queue : Nat) (value : W32)
  /-- QUEUE_CREATE (R65): A QCTL write with EN = 1 on an Off queue creates it Active with its indices at 0. -/
  | queueCreate (func queue : Nat) (value : W32)
  /-- QUEUE_DESTROY (R66): A QCTL write with EN = 0 destroys a Stopped queue, or a Faulted one with nothing in flight. -/
  | queueDestroy (func queue : Nat) (value : W32)
  /-- QUEUE_STOP (R65): QCTL.STOP ends fetch and takes the queue to Draining or Stopped. -/
  | queueStop (func queue : Nat) (value : W32)
  /-- QUEUE_ABORT (R65): QCTL.ABORT ends fetch and aborts the fault domains of every fetched record's unretired teams. -/
  | queueAbort (func queue : Nat) (value : W32)
  /-- QUEUE_RESUME (R65): QCTL.RESUME restarts fetch of a Stopped or Faulted queue. -/
  | queueResume (func queue : Nat) (value : W32)
  /-- RECORD_FETCH (R64): when QRI differs from QWI and INFL is below 16, the queue unit issues the aligned read of the next record. -/
  | recordFetch (queue : Nat)
  /-- RECORD_FETCH_COMPLETE (R67): the record read returns and is checked: it is consumed, or the queue enters Faulted. -/
  | recordFetchComplete (queue : Nat)
  /-- RECORD_START (R68): A fetched record whose order and wait conditions hold starts: a NOP completes, a GRID goes to the distributor. -/
  | recordStart (queue : Nat)
  /-- WAIT_ADDRESS_POLL (R69): every 2 µs or 10 µs the queue unit rereads a record's wait word as an acquire. -/
  | waitAddressPoll (queue : Nat)
  /-- RECORD_COMPLETION_ACTIONS (R70): after its predecessor's actions, a completed record writes its signal, raises QDONE, lowers INFL and sends MSI-X. -/
  | recordCompletionActions (queue : Nat)
  /-- FLR_VF (R74): A Function Level Reset of a virtual function aborts its queues, frees its tag entries and removes its contexts. -/
  | flrVf (vf : Nat)
  /-- FLR_PF (R74): A Function Level Reset of the physical function does the same for every context and resets BAR4OFF and the peer link registers. -/
  | flrPf
  /-- FLR_QUEUE_DESTROY (R74): under a Function Level Reset, a queue whose INFL reaches 0 is destroyed. -/
  | flrQueueDestroy (queue : Nat)
  /-- GRID_START (R122): A GRID record takes a distributor entry, resolves and checks its RCB chain, takes accounts and starts its pre and warm copies. -/
  | gridStart (queue : Nat)
  /-- GRID_READY (R122): every pre copy of a started grid is performed, and the grid joins the ready list of its priority. -/
  | gridReady (grid : Nat)
  /-- BUDGET_PERIOD_BOUNDARY (R115): every 10 µs every account returns to 0, over states clear and budget-preempted teams are readmitted. -/
  | budgetPeriodBoundary
  /-- ACCOUNT_CHARGE (R115): A charge reaches an account, which becomes over at its limit, with soft demotion or hard pre-emption. -/
  | accountCharge (index : Nat)
  /-- PLACEMENT_DECISION (R128): every 4 bclk cycles the distributor searches the ready lists and places one unit on a site. -/
  | placementDecision
  /-- PLACEMENT_RESERVATION (R128): an in-budget item's wait clock reaches 100 µs, and nothing of its level or below is placed before it. -/
  | placementReservation
  /-- GROUP_READY (R133): A created or restored group becomes ready to issue after its creation or restore delay. -/
  | groupReady (core slot : Nat)
  /-- REGISTER_RELEASE (R134): an exited group's outstanding register results have returned, and its registers are counted free. -/
  | registerRelease (core slot : Nat)
  /-- TEAM_RETIRE (R135): an exited team whose counters, batches and inbound counters are 0 commits its version and releases its resources. -/
  | teamRetire (team : Nat)
  /-- PARK_ELIGIBLE (R109): every waiting group of a team reaches PARKT, and the core sends Eligible to the Plaza. -/
  | parkEligible (team : Nat)
  /-- PLAZA_PARK_ARM (R136): the Plaza takes the lowest free park slot, arms the team's descriptors and sends Park-go. -/
  | plazaParkArm (team : Nat)
  /-- PARK_GO (R136): the core checks pending events and either cancels the park or commits to it and starts the spill. -/
  | parkGo (team : Nat)
  /-- PARK_SPILL_DONE (R136): the spill of the park slot finishes, the team's resources are freed and the team is parked. -/
  | parkSpillDone (team : Nat)
  /-- DSUSP_SET (R140): setting a context's DSUSP bit makes its items ineligible and pre-empts its resident teams. -/
  | dsuspSet (value : W64)
  /-- DSUSP_CLEAR (R140): clearing a context's DSUSP bit readmits its pre-empted teams, or cancels pre-emptions not yet taken. -/
  | dsuspClear (value : W64)
  /-- PREEMPTION (R259): A group named by a pre-emption cause reaches a boundary, and the monitor stops its team and starts the spill. -/
  | preemption (team : Nat)
  /-- PREEMPTION_SPILL_DONE (R259): the spill engine has written the team's groups and scratchpad, and its slots, registers and units are free. -/
  | preemptionSpillDone (team : Nat)
  /-- CHIPLET_FENCE_NOTICE (R245): A grid that lost a team to a fence takes the notice in its lowest live group at the next boundary. -/
  | chipletFenceNotice (team : Nat)
  /-- ELEVATOR_PACKET (R150): A packet crosses an elevator port; the link monitor checks it, duplicates are discarded and the far side acknowledges. -/
  | elevatorPacket (message : Nat) (check : PortCheck)
  /-- ELEVATOR_RETIRE_COMPLETE (R151): every held flow of a retiring port is empty; the port becomes Retired and held packets are released. -/
  | elevatorRetireComplete (port : Nat)
  /-- CUT_OFF_CHIPLET_RESET (R17): once no team is resident on a chiplet with a cut-off cluster, Muyras resets the chiplet to bring the cluster back. -/
  | cutOffChipletReset (run : ChipletRun)
  /-- AVENUE_TOKEN_GRANT (R147): A station with data takes a channel's optical token as it passes, sends up to 1,024 bytes and releases it. -/
  | avenueTokenGrant (toSlice : Bool) (channel station : Nat)
  /-- PIN_TABLE_WRITE (R155): A write to PINB or PINL is taken when no grid is held and sets BUSY while the homes move. -/
  | pinTableWrite (off width : Nat) (value : W64)
  /-- PIN_MOVE_DONE (R155): the dirty lines of the old and new ranges are written back and removed, and BUSY clears. -/
  | pinMoveDone
  /-- READ_REQUEST (R174): A read reaches its home slice and is served from the committed line or version, after any recall, split or miss. -/
  | readRequest (delivery : Delivery)
  /-- WRITE_REQUEST (R176): A direct store or atomic reaches its home, which recalls the token, invalidates sharers, applies the write and answers. -/
  | writeRequest (message : Nat)
  /-- WRITE_COMPLETION (R176): the requester receives a completion with any return value and any token grant, and its counter falls. -/
  | writeCompletion (message : Nat)
  /-- WRITE_THROUGH (R177): the holder's write-through reaches the home, which applies it and acknowledges it. -/
  | writeThrough (message : Nat)
  /-- WRITE_THROUGH_ACK (R177): the holder receives the acknowledgement of a write-through, which decrements its counter. -/
  | writeThroughAck (message : Nat)
  /-- TOKEN_RECALL (R178): fwdRd or FwdInv reaches the holder, which stops local writes and answers TokAck or Gone. -/
  | tokenRecall (message : Nat)
  /-- TOKACK (R178): the home takes TokAck after the holder's write-throughs and ends the draining hand-off. -/
  | tokack (message : Nat)
  /-- TOKRET (R178): the home takes back a token returned by the holder on eviction. -/
  | tokret (message : Nat)
  /-- GONE (R178): the home takes Gone for a recall of a token already returned. -/
  | gone (message : Nat)
  /-- INV (R176): an invalidation reaches a sharer cluster, which drops its copies and acknowledges. -/
  | inv (message : Nat)
  /-- INV_ACK (R176): an invalidation acknowledgement reaches the home. -/
  | invAck (message : Nat)
  /-- LINE_FREE (R158): A busy line frees, and the requests on its wait list are retried in arrival order. -/
  | lineFree (line : Nat)
  /-- DRAM_READ_RETURN (R161): A DRAM read returns corrected or poisoned data to its slice, which fills or bypasses and frees its miss register. -/
  | dramReadReturn (read : LineRead)
  /-- DRAM_WRITE_ACK (R157): A controller acknowledges a write, which leaves WQ and releases bypass reads held by the address filter. -/
  | dramWriteAck (slice : Nat)
  /-- PATROL_SCRUB (R161): the patrol scrub reads a sector in its 24-hour round and acts on corrected and uncorrectable sectors. -/
  | patrolScrub (scrub : Scrub)
  /-- BAD_LINE_CLEAR (R194): writing 1 to a bad-line entry's V zeroes the line with valid ECC in slice and DRAM, then clears V. -/
  | badLineClear (slice entry : Nat)
  /-- COPY_CHUNK (R163): A copy engine serves one 4 KiB chunk of an active stream, reading committed data and writing direct stores. -/
  | copyChunk (engine : Nat)
  /-- ENGINE_OPERATION_COMPLETE (R416): an engine operation reaches .r or .v, and the group's completion numbers advance over sealed batches. -/
  | engineOperationComplete (operation : Nat)
  /-- JUNCTION_ARRIVAL (R164): A contribution or partial reaches a junction adder, is added in positional order or held, and the device sum is written. -/
  | junctionArrival (coll pos : Nat)
  /-- PARTIAL_PARK_TIMEOUT (R166): A partial has waited 100 µs and parks at the home slice of the result address. -/
  | partialParkTimeout (coll level index : Nat)
  /-- ROUNDABOUT_TIMEOUT (R168): A held Roundabout packet passes the effective CTO; the device fails its waiters and sends a FAILED packet on. -/
  | roundaboutTimeout (coll : Nat)
  /-- COLLECTIVE_NAME_EXPIRY (R441): the CTO after a FAILED collective passes, and a later COLL to its DST starts a new collective. -/
  | collectiveNameExpiry (coll : Nat)
  /-- CMT_REQ (R189): A commit request reaches the task table, and the L1 sends its V lines and the marks to the slices. -/
  | cmtReq (message : Nat)
  /-- CMT_MARK (R189): A commit mark reaches a slice behind the version lines, and the slice sends CmtAck. -/
  | cmtMark (message : Nat)
  /-- CMT_ACK (R189): the task table takes a CmtAck; at the 96th the commit point is reached and the slices merge. -/
  | cmtAck (message : Nat)
  /-- MERGE_DONE (R189): the task table takes a MergeDone; at the 96th the commit is complete. -/
  | mergeDone (message : Nat)
  /-- VERSION_LINE_WRITE (R185): A V line reaches the slice's version ways, displacing the oldest to overflow or holding it when overflow is full. -/
  | versionLineWrite (delivery : Delivery)
  /-- VERSION_OVERFLOW_TRAP (R187): with OVF set, each group of the task takes the Version Overflow trap at its next boundary. -/
  | versionOverflowTrap (core slot : Nat)
  /-- DISCARD_REQUEST (R191): the task table starts a discard; L1s and slices drop the task's versions and its overflow blocks are freed. -/
  | discardRequest (slot : Nat)
  /-- DISCARD_COMPLETE (R191): every reachable L1 and slice has dropped the versions, and the slot returns to Free. -/
  | discardComplete (slot : Nat)
  /-- ICACHE_FILL (R209): an instruction-cache miss is filled from the line's home slice. -/
  | icacheFill (core slot entry : Nat)
  /-- SWITCH_MARKER_RELEASE (R215): A group parked by a switch marker sees its outstanding-result count reach 0 and becomes ready. -/
  | switchMarkerRelease (core slot : Nat)
  /-- LOAD_DATA_RETURN (R229): load or atomic data is written to its register, and the instruction leaves LDCNT. -/
  | loadDataReturn (access : Nat)
  /-- CHIPLET_ARRAY_UNCORRECTABLE (R250): an uncorrectable error in a chiplet array raises an asynchronous error trap that ends the task. -/
  | chipletArrayUncorrectable (core slot : Nat)
  /-- YIELD_WAIT_END (R331): the 32 cycles after a YIELD pass, and its fragment is ready again. -/
  | yieldWaitEnd (core slot entry : Nat)
  /-- MATRIX_ACCEPT (R222): the matrix array takes the next ready MMA, MMAS or ACCNEXT round-robin once the previous interval has elapsed. -/
  | matrixAccept (core : Nat)
  /-- TILE_COMPLETE (R222): A tile result completes 24 cycles after its interval ends, and the operation reaches .r and .v. -/
  | tileComplete (operation : Nat)
  /-- EPI_START (R225): the epilogue engine takes the next EPI from its queue once its tile is complete. -/
  | epiStart (core : Nat)
  /-- PAGE_WALK (R269): A walk takes the lowest free walker of the chiplet, reads the levels and sets A and M. -/
  | pageWalk (p : WalkStep)
  /-- DFRESP_SERVICED (R274): A DFRESP write with FAIL = 0 frees the DFT entry and its waiters issue their instructions again. -/
  | dfrespServiced (func ctx : Nat) (value : W32)
  /-- DFRESP_REFUSED (R274): A DFRESP write with FAIL = 1 frees the DFT entry and its waiters take Page Fault. -/
  | dfrespRefused (func ctx : Nat) (value : W32)
  /-- DFT_TIMEOUT (R274): PRITO elapses on a DFT entry, and its waiters take Page Fault with SUB 1. -/
  | dftTimeout (entry : Nat)
  /-- TLB_INVALIDATE (R276): TINVCTL.GO removes the context's overlapping TLB and walk-cache entries. -/
  | tlbInvalidate (func ctx : Nat) (value : W32)
  /-- TLB_INVALIDATE_DONE (R276): every access that used a removed translation is performed, and DONE is set. -/
  | tlbInvalidateDone (ctx : Nat)
  /-- DEBUG_HALT (R260): DBGCTL.HALT = 1 stops every group of the context at a boundary and the monitor writes snapshots. -/
  | debugHalt (func ctx : Nat) (value : W32)
  /-- DEBUG_SNAPSHOT_DONE (R260): every snapshot is written, and HALTED becomes 1. -/
  | debugSnapshotDone (ctx : Nat)
  /-- DEBUG_RELEASE (R260): DBGCTL.HALT = 0 reloads every snapshot and the groups resume. -/
  | debugRelease (func ctx : Nat) (value : W32)
  /-- BARRIER_RELEASE (R396): every live group of the team has arrived at BAR, and the waiting fragments resume. -/
  | barrierRelease (team : Nat)
  /-- DISTRICT_ARRIVAL (R397): A DARRIVE reaches the Plaza and may complete a district generation. -/
  | districtArrival (message : Nat)
  /-- GRID_ARRIVAL (R398): A GARRIVE reaches the Plaza and may complete a grid generation. -/
  | gridArrival (message : Nat)
  /-- EVENT_FIRING (R403): A descriptor's condition becomes true at the Plaza, its PEV bit is set or latched, and a wait may end. -/
  | eventFiring (core slot index : Nat)
  /-- TIMER_DEADLINE (R401): TIME reaches an armed timer descriptor's DEADLINE, and the descriptor fires. -/
  | timerDeadline (core slot index : Nat)
  /-- FLAG_SET (R405): an EVSET reaches the Plaza and sets or clears a context flag. -/
  | flagSet (message : Nat)
  /-- MAILBOX_MESSAGE_ARRIVAL (R408): A message reaches a mailbox; armed descriptors fire, then the oldest waiting MRECV takes it, or it is dropped when full. -/
  | mailboxMessageArrival (message : Nat)
  /-- XSHF_MATCH (R409): two groups' matching XSHFs pair, exchange lanes, and write D 24 cycles after the later issue. -/
  | xshfMatch (core slot : Nat)
  /-- XSHF_TIMEOUT (R410): no match arrives within 65,536 cycles, and the XSHF takes the Exchange Timeout trap. -/
  | xshfTimeout (core slot : Nat)
  /-- TRIG_TAKEN (R411): every live group of the team has arrived at TRIG; the epoch flips, a commit starts and the groups resume. -/
  | trigTaken (team : Nat)
  /-- TRIG_EFFECT (R190): the team's prior writes are performed and the TRIG commit is complete, so the TRIG counts for dependent launch. -/
  | trigEffect (team : Nat)
  /-- LAUNCH_APPEND (R412): once the release holds, the queue unit appends the 64-byte record to the queue or reports its failure. -/
  | launchAppend (message : Nat)
  /-- ATS_TRANSLATION_COMPLETION (R55): the host's ATS translation response for a host-managed address returns, and the TLBs take the entry or the access faults into a page request. -/
  | atsTranslationCompletion (index : Nat) (ok w x : Bool) (pa : Nat)
  /-- PRI_STOPPED_CLEAR (R72): the host clears the PRI capability's Stopped condition after a Response Failure, and the device may send Page Requests for that function again. -/
  | priStoppedClear (func : Nat)
  /-- EVENT_COUNTER_WRAP (R96): A 48-bit event counter passes its highest value, wraps to 0 and sets its OVF bit. -/
  | eventCounterWrap (block k : Nat)
  deriving DecidableEq, Repr

end Sys2Proof
end

