-- ==== Sys2Proof/Machine/State.lean ====
section
/-! DEFINITION. The state of the machine as plain data: everything the manual gives the module, and the model's own
schedule, issuing fragment and free-value number. -/
namespace Sys2Proof.Machine

/-! ## Groups and fragments -/

/-- A sparse table: number and entry, numbers rising. -/
abbrev Tbl (α : Type) := List (Nat × α)

/-- What a register holds (R202, R309): nothing yet, one value, an affine value (of which `hi` takes bits [63:32]), or
64 lanes. -/
inductive RegVal where
  | raw
  | uniform (v : W32)
  | affine (base stride : W64) (hi : Bool)
  | general (lanes : List W32)
  deriving DecidableEq, Repr

/-- A register with its tag: format, count code and value, whose kind is the tag's shape (R306). -/
structure VReg where
  fmt : Nat := 0
  cnt : Nat := 0
  val : RegVal := .raw
  since : Nat := 0
  deriving DecidableEq, Repr

/-- What an outstanding write of fixed latency writes (R215, R216): the old contents are kept until it is available. -/
inductive OutDst where
  | reg (n : Nat) (old : VReg)
  | pred (n : Nat) (old : W64)
  | exec (old : W64)
  | sr (old : List W32)
  | mode
  deriving DecidableEq, Repr

/-- An outstanding result of fixed latency: its lanes and, for each of the four beats, when it is available. `own` is the register as
the write by itself leaves it, with its tag (R204, R216). -/
structure Outst where
  dst : OutDst
  mask : W64
  avail : List Nat
  own : VReg := {}
  deriving DecidableEq, Repr

/-- A flag that a lane raises or clears at a time to come (R371). -/
structure FlagEvent where
  time : Nat
  lane : Nat
  bits : BitVec 5
  raise : Bool
  deriving DecidableEq, Repr

/-- What a fragment waits for before it issues again. -/
inductive Wait where
  | none
  /-- The 32 cycles of YIELD, to a time (R331). -/
  | yield (t : Nat)
  /-- WAITCNT (R230): bounds on LDCNT and STCNT. -/
  | cnt (ld st : Option Nat)
  /-- WAITB (R417). -/
  | batch (cls : Nat) (v : Bool) (n : BitVec 16)
  /-- A class of engine operations that has no room (R416, R418). -/
  | ops (cls : Nat)
  /-- MFENCE (R243), issued at `since`: the writes that were outstanding then are available from `free` on, and the loads that were
  under way are `accs`. -/
  | mfence (since free : Nat) (accs : List Nat)
  | bar
  | trig
  | dwait (t : W32)
  | gwait (t : W32)
  /-- A DARRIVE or GARRIVE that would count beyond Cd + 1 or Cg + 1 (R397). -/
  | darr
  | garr
  /-- COMMIT: draining the counters, then the commit with its number (R392). -/
  | drain
  | commit (id : Nat)
  /-- WAITANY, waiting at the Plaza, with D (R402). -/
  | event (d : Code)
  /-- WAITANY resuming or sampling at a time (R402, R413). -/
  | resume (d : Code) (t : Nat) (sample : Bool)
  /-- MSEND or LAUNCH: a message is on its way, its status goes to D (R407, R412). -/
  | status (msg : Nat) (d : Code)
  /-- MRECV on a mailbox, with D (R408). -/
  | mrecv (box : Nat) (d : Code) (since : Nat)
  /-- XSHF with its partner (R409). -/
  | xshf
  /-- A translation that walks (R273). -/
  | walk
  /-- A page fault in DFT entry `e`, in the DFT's queue, or in tag table entry `e` (R274, R71). -/
  | dft (e : Nat)
  | dftQueue
  | tag (e : Nat)
  deriving DecidableEq, Repr

/-- A split entry (R205), with the fragment's issue bookkeeping (R209, R210, R274). -/
structure Frag where
  mask : W64
  pc : W64
  jrec : Nat := 31
  lastIssue : Nat := 0
  lastPc : W64 := 0
  notBefore : Nat := 0
  wait : Wait := .none
  stopped : Bool := false
  faultVa : Nat := 0
  faultLane : Nat := 255
  faultKind : Nat := 0
  faultRun : Nat := 0
  deriving DecidableEq, Repr

/-- A join record (R205). `dfr` holds DPC and DMASK when DEF = 1. -/
structure JoinRec where
  join : W64
  pend : W64
  arr : W64 := 0
  up : Nat := 31
  dfr : Option (W64 × W64) := none
  deriving DecidableEq, Repr

/-- The batch numbers of one engine class (R416). -/
structure Batch where
  closed : BitVec 16 := 0
  doner : BitVec 16 := 0
  donev : BitVec 16 := 0
  deriving DecidableEq, Repr

/-- An exchange that waits (R409): the fragment, its partner, its values, its tag, and the issue time. -/
structure Exchange where
  entry : Nat
  partner : Nat
  rev : Bool
  dst : Code
  mask : W64
  src : VReg
  lanes : List W32
  next : W64
  since : Nat
  deriving DecidableEq, Repr

/-- Why a resident group issues nothing. -/
inductive Stop where
  | none
  /-- Stopped for pre-emption, parking, a debugger halt, or with its task (R250, R256, R260, R141). -/
  | preempt
  | park
  | halt
  | ended
  deriving DecidableEq, Repr

/-- A group (R199, R205, R247, R399, R416). -/
structure Group where
  uid : Nat := 0
  team : Nat := 0
  gix : Nat := 0
  g : Nat := 0
  c : Nat := 0
  split : Tbl Frag := []
  joins : Tbl JoinRec := []
  exec : W64 := BitVec.allOnes 64
  preds : List W64 := List.replicate 8 0
  mode : W32 := 0
  regs : Tbl VReg := []
  flags : List (BitVec 5) := List.replicate 64 0
  flagQueue : List FlagEvent := []
  ldcnt : Nat := 0
  stcnt : Nat := 0
  outs : List Outst := []
  pendRegs : List Nat := []
  sr : List W32 := []
  parkedAt : Option Nat := none
  ready : Bool := false
  readyAt : Nat := 0
  stop : Stop := .none
  handler : Bool := false
  heldNotice : Bool := false
  heldOverflow : Bool := false
  hpc : W64 := 0
  hmode : W32 := 0
  hexec : W64 := 0
  trec : List W64 := List.replicate 8 0
  batches : List Batch := List.replicate 8 {}
  evd : List (W64 × W64) := List.replicate 8 (0, 0)
  pev : BitVec 8 := 0
  evm : BitVec 8 := 0
  armed : Bool := false
  darr : W32 := 0
  garr : W32 := 0
  latch : BitVec 8 := 0
  badTags : Bool := false
  barSet : W64 := 0
  barHold : List Nat := []
  trigSet : W64 := 0
  darrSet : W64 := 0
  garrSet : W64 := 0
  exchange : Option Exchange := none
  boost : Bool := false
  parkSince : Option Nat := none
  exited : W64 := 0
  deriving DecidableEq, Repr

/-! ## Cores -/

/-- Who holds one unit of a local store (R217). -/
inductive UnitHold where
  | l1
  | team (t : Nat)
  deriving DecidableEq, Repr

/-- A version line's key: task and epoch (R182). -/
structure VKey where
  task : Nat
  epoch : Bool
  deriving DecidableEq, Repr

/-- The kind of an L1 line (R170, R182): a clean copy, an owned copy, or a version line with its word mask. -/
inductive LineKind where
  | clean
  | owned
  | version (k : VKey) (mask : W64)
  deriving DecidableEq, Repr

/-- A line of an L1: its physical line number, kind, valid sectors (one bit each), the bytes of a version line, the unit
that holds it, and when it was last used. The bytes of a clean or owned copy are those of committed memory and of the
holder's write-throughs in flight (R170). -/
structure L1Line where
  line : Nat
  kind : LineKind
  valid : Nat
  data : List Host.Cell := []
  unit : Nat
  used : Nat
  deriving DecidableEq, Repr

/-- A TLB entry (R273). -/
structure TlbEntry where
  ctx : Nat
  vpage : Nat
  size : Nat
  pa : Nat
  w : Bool
  x : Bool
  d : Bool
  nc : Bool
  pin : Bool
  peer : Bool
  devid : BitVec 14
  m : Bool
  ats : Bool
  used : Nat
  deriving DecidableEq, Repr

/-- A line of an instruction cache (R209, R299): the words of 256 bytes at a virtual line of a context. -/
structure ILine where
  ctx : Nat
  vline : Nat
  words : List W32
  filled : Nat
  used : Nat
  deriving DecidableEq, Repr

/-- The queue and timing of a core's matrix array and epilogue engine (R222, R225). -/
structure Matrix where
  busyUntil : Nat := 0
  lastQuad : Nat := 3
  waiting : List Nat := []
  epi : List Nat := []
  epiBusyUntil : Nat := 0
  accwr : Tbl Nat := []
  deriving DecidableEq, Repr

/-- A core (R217 to R225, R265, R430). -/
structure Core where
  units : List UnitHold := List.replicate 16 .l1
  l1 : List L1Line := []
  tlb : List TlbEntry := []
  icache : List ILine := []
  pipes : Tbl Nat := []
  ring : Tbl (List W32) := []
  die : List Host.Cell := []
  dieOwner : Tbl Nat := []
  matrix : Matrix := {}
  accown : Option Nat := none
  accspl : W32 := 0
  cycle : W64 := 0
  cycleAt : Nat := 0
  monitorUntil : Nat := 0
  deriving DecidableEq, Repr
/-! ## Memory, slices and coherence -/

/-- Where an access goes (R227, R268): device memory, host-managed memory, or a peer device's memory. -/
inductive Loc where
  | dev (pa : Nat)
  | host (va : Nat)
  | peer (dev : BitVec 14) (pa : Nat)
  deriving DecidableEq, Repr

/-- Who holds a write token (R172): a core, or a cluster whose L1s are fused. -/
inductive Holder where
  | core (n : Nat)
  | fused (cluster : Nat)
  deriving DecidableEq, Repr

/-- The directory states of R173. -/
inductive DirState where
  | i | s | t | p
  deriving DecidableEq, Repr

/-- A region or line entry of a directory (R172, R173). -/
structure DirEntry where
  state : DirState := .i
  sharers : BitVec 48 := 0
  holder : Option Holder := none
  deriving DecidableEq, Repr

/-- Why a line is busy at its home (R158, R174, R176): the message served, the acknowledgements it waits for, and
whether its invalidations have been sent; or `free`, that its directory entry is being freed for capacity, its region's where true;
for a miss of a unit of the base die, the grid that pays for it (R114). -/
structure Busy where
  msg : Option Nat
  tokens : List Holder
  invs : List Nat
  invSent : Bool := false
  free : Option Bool := none
  payer : Option Nat := none
  deriving DecidableEq, Repr

/-- A version line held at a slice (R185): its key, word mask, words, age, and the overflow block and entry that hold it
when it has overflowed. -/
structure VersionLine where
  line : Nat
  task : Nat
  epoch : Bool
  mask : W64
  data : List Host.Cell
  age : Nat
  place : Option (Nat × Nat) := none
  deriving DecidableEq, Repr

/-- An entry of a bad-line table (R194). -/
structure BadLine where
  cause : Nat
  line : Nat
  deriving DecidableEq, Repr

/-- A slice (R157, R171 to R173, R185 to R187, R194): sector states by line (0 I, 1 S, 2 D), the directory, busy lines and
their wait lists, miss registers, bypass reads (message, line, sectors that they wait for), writes to DRAM (line, sector), version ways, overflow map,
displacement buffer, bad-line table, retention. -/
structure Slice where
  sectors : Tbl (List Nat) := []
  regions : Tbl DirEntry := []
  lines : Tbl DirEntry := []
  busy : Tbl Busy := []
  waiting : Tbl (List Nat) := []
  misses : List Nat := []
  bypass : List (Nat × Nat × List Nat) := []
  writes : List (Nat × Nat) := []
  versions : List VersionLine := []
  overflow : List VersionLine := []
  displaced : List VersionLine := []
  blocks : Tbl Nat := []
  bad : Tbl BadLine := []
  badFull : Bool := false
  retained : Bool := false
  wakeAt : Option Nat := none
  lastUse : Nat := 0
  deriving DecidableEq, Repr

/-- What an access of a unit of the base die waits for: the wake of a slice (R85), the sectors of a line (R159), or what passes without
its doing, a busy line (R158), a move of homes (R155), a full queue (R157), or a tag of the host link (R49). -/
inductive Lack where
  | wake (slice : Nat)
  | fill (slice line : Nat)
  | pass
  deriving DecidableEq, Repr

/-- A request of a slice that a memory controller holds (R160): its line and sector, its slice, when it came, and which of
the requests that the controller has taken it is. -/
structure DramRequest where
  line : Nat
  sector : Nat
  slice : Nat
  came : Nat
  seq : Nat := 0
  deriving DecidableEq, Repr

/-- A memory controller (R156, R160): its read and write entries in the order in which they came, whether it is in drain, the slice
that its crossbar port serves next, the row that each bank has open, and how many requests it has taken. -/
structure Controller where
  reads : List DramRequest := []
  writes : List DramRequest := []
  drain : Bool := false
  pointer : Nat := 0
  rows : Tbl Nat := []
  taken : Nat := 0
  deriving DecidableEq, Repr

/-- The states of a task table slot (R181). -/
inductive TaskState where
  | free | running | committing | discarding
  deriving DecidableEq, Repr

/-- A commit in progress (R189): its number, epoch and cause, which slices have acknowledged and merged, and its place in the
order of commit points. -/
structure Commit where
  id : Nat
  epoch : Bool
  retire : Bool := false
  trig : Bool := false
  acks : List Nat := []
  decided : Bool := false
  merged : List Nat := []
  order : Nat := 0
  deriving DecidableEq, Repr

/-- A slot of the task table (R180, R181). -/
structure Task where
  state : TaskState := .free
  gen : BitVec 15 := 0
  ctx : Nat := 0
  fdid : BitVec 16 := 0
  e : Bool := false
  nr : Bool := false
  ovf : Bool := false
  acommit : Bool := false
  voBase : W64 := 0
  voBlocks : Nat := 0
  voUsed : List Nat := []
  commit : Option Commit := none
  discard : Bool := false
  free : Bool := false
  ovfSeen : List Nat := []
  deriving DecidableEq, Repr

/-! ## Accesses and messages -/

/-- What a memory instruction does at its location (R229, R388). -/
inductive AccOp where
  | load
  | store
  | atom (op : Nat) (w64 : Bool)
  deriving DecidableEq, Repr

/-- The space an access reaches: memory, the team's own scratchpad, or a district member's (R382, R386). -/
inductive Space where
  | mem | own | remote
  deriving DecidableEq, Repr

/-- One lane's element: its place (a physical location and the virtual address it came from, or a team and an offset), its data, whether its
page has NC, what it
returned, and what went wrong (0 nothing, 1 uncorrectable, 2 denied, 3 failed; R40, R193). A load's `data` and `data2` are the bytes
that its task's version lines gave as it issued, and which bytes those are (R183). -/
structure LaneAcc where
  lane : Nat
  loc : Loc
  va : Nat := 0
  team : Nat := 0
  data : Nat := 0
  data2 : Nat := 0
  nc : Bool := false
  got : Option Nat := none
  err : Nat := 0
  done : Bool := false
  deriving DecidableEq, Repr

/-- An instruction's accesses in flight (R229): its group, kind, lanes, destination, effective mask, fragment MASK (`own`), and
the counter it is in. `pend` are the lines whose part waits in the L1 (R175, R179), and `dead` holds once an error has ended it while
messages of it are still in flight. -/
structure Access where
  core : Nat
  slot : Nat
  guid : Nat
  team : Nat
  ctx : Nat
  task : Nat
  pc : W64
  op : AccOp
  space : Space
  bytes : Nat
  lanes : List LaneAcc
  dst : Code
  fmt : Nat := 0
  cnt : Nat := 0
  signed : Bool := false
  one : Bool := false
  mask : W64
  own : W64 := 0
  ldc : Bool
  issued : Nat
  readyAt : Nat := 0
  acks : Nat := 0
  pend : List Nat := []
  dead : Bool := false
  deriving DecidableEq, Repr

/-- Where a message stands: held back until accesses have left their counters (R394), in an elevator port, in a FIFO of
an Avenue channel, on the mesh at an input port of a router, from which it can go on at a time, at its receiver, or being served or
waiting there. -/
inductive Stage where
  | held (after : List Nat)
  | port
  | fifo
  | mesh (router input ready : Nat)
  | arrived
  | waiting
  deriving DecidableEq, Repr

/-- What a message is (R143, R176 to R178, R185, R189, and the messages to the Plaza and the queue unit). -/
inductive MsgKind where
  | read (acc line : Nat)
  | write (acc line : Nat) (wt : Bool)
  | completion (acc line : Nat)
  | stx (acc : Nat)
  | hostAcc (acc : Nat)
  | through (acc line : Nat) (cells : List (Nat × List Byte))
  | data (acc line bytes : Nat)
  | panel (op team off : Nat) (bytes : List Byte)
  | throughAck (acc line : Nat)
  | recall (line : Nat) (region inval : Bool)
  | tokAck (line : Nat) (region : Bool)
  | tokRet (line : Nat) (region : Bool)
  | gone (line : Nat) (region : Bool)
  | inv (line : Nat) (region : Bool) (exempt : Option Nat)
  | invAck (line cluster : Nat)
  | version (v : VersionLine)
  | cmtReq (team : Nat) (core slot entry : Nat)
  | cmtMark (task : Nat) (epoch : Bool) (slice : Nat)
  | cmtAck (task : Nat) (epoch : Bool) (slice : Nat)
  | mergeDone (task : Nat) (epoch : Bool) (slice : Nat)
  | district (team guid : Nat)
  | grid (team guid : Nat)
  | flag (ctx k : Nat) (v : Bool)
  | mail (ctx box : Nat) (v : W64) (core slot entry : Nat)
  | launch (team queue : Nat) (addr : Nat) (core slot entry : Nat)
  | reduce (coll level index : Nat) (data : List W32)
  | walk (id at' : Nat)
  | walkData (id at' pte : Nat)
  deriving DecidableEq, Repr

/-- A message in flight: the cluster and the slice (or the router's slice, or the Avenue station) whose path it takes, its kind and
its stage (R148, R149), when it came there, and its number in its flow once its elevator port has taken it (R150). -/
structure Msg where
  kind : MsgKind
  core : Nat
  slice : Nat
  toSlice : Bool
  avenue : Bool
  port : Nat := 0
  seq : Option (BitVec 12) := none
  sent : Nat
  stage : Stage
  came : Nat := 0
  deriving DecidableEq, Repr
/-- One node's fields, or a grid's fields in force (R99, R100). Budget words are in the order BISS, BMTX, BSLC, BDRM,
BLNK; areas keep their address. -/
structure Rcb where
  kind : Nat := 0
  fusel1 : Bool := false
  vmode : Nat := 0
  acommit : Bool := false
  prio : Nat := 0
  fdid : BitVec 16 := 0
  inh : BitVec 15 := 0
  parent : W64 := 0
  child : W64 := 0
  handler : W64 := 0
  entry : W64 := 0
  gx : Nat := 1
  gy : Nat := 1
  gz : Nat := 1
  groups : Nat := 1
  gregs : Nat := 4
  cregs : Nat := 0
  scr : Nat := 0
  acc : Nat := 0
  dist : Nat := 1
  pair : Bool := false
  parkt : Nat := 0
  parka : W64 := 0
  pslots : Nat := 0
  psz : Nat := 0
  vobase : W64 := 0
  vosize : Nat := 0
  cto : Nat := 0
  boosta : Nat := 0
  budgets : List W32 := [0, 0, 0, 0, 0]
  csptr : W64 := 0
  cscnt : Nat := 0
  deriving DecidableEq, Repr
/-! ## Grids, teams and the distributor -/

/-- Where a team stands (R133 to R142): offered as a fresh dispatch or a readmission, resident, writing its save, parked
or pre-empted, retired with its district's scratchpad held, or gone. -/
inductive TeamState where
  | queued
  | resident
  | parkEligible
  | parkArmed
  | parkSpilling
  | parked
  | preempting
  | preempted
  | committing
  | retired
  | ended
  deriving DecidableEq, Repr

/-- Why a team was pre-empted, or will be (R138). -/
inductive PreemptCause where
  | account (index : Nat)
  | suspend
  | quiesce
  /-- A member of the team's district was pre-empted before the cause ended: the district leaves and comes back as one. -/
  | district
  deriving DecidableEq, Repr

/-- A team of a grid (R126, R133 to R139, R262). `untouched` are the positions of its tiles that First-Use has still to zero (R449). `nrAt` is NR as it stood at the team's last commit point, and `prev` the team whose
place in its district it takes, while that team completes its commit (R142). -/
structure Team where
  grid : Nat := 0
  ctx : Nat := 0
  tix : W32 := 0
  task : Nat := 0
  tid : W32 := 0
  state : TeamState := .queued
  core : Nat := 0
  home : Option Nat := none
  placed : Nat := 0
  live : BitVec 16 := 0
  restore : Bool := false
  units : List Nat := []
  scratch : List Host.Cell := []
  tiles : List Nat := []
  tspill : BitVec 16 := 0
  save : Option Nat := none
  slot : Option Nat := none
  inbound : Nat := 0
  kept : Tbl Group := []
  snap : Bool := false
  causes : List PreemptCause := []
  spillUntil : Nat := 0
  stoppedAt : Nat := 0
  barAt : Option Nat := none
  trigAt : Option Nat := none
  triggered : Bool := false
  trigDone : Bool := false
  trigWait : Option (List Nat) := none
  errorRun : Bool := false
  nrAt : Bool := false
  prev : Option Nat := none
  fused : Bool := false
  untouched : List Nat := []
  deriving DecidableEq, Repr

/-- A district's barrier (R397), by grid and district index. -/
structure District where
  cd : W32 := 0
  cdAt : Nat := 0
  deriving DecidableEq, Repr

/-- A started grid (R122, R128). `needs` are the accounts it waits for (node, resource, budget word), and `copies` its
schedule until then (phase, source, destination, length). -/
structure Grid where
  queue : Nat := 0
  record : Nat := 0
  ctx : Nat := 0
  rcb : W64 := 0
  eff : Rcb := {}
  order : Nat := 0
  teams : Nat := 0
  next : Nat := 0
  retired : List Nat := []
  triggered : List Nat := []
  failed : Bool := false
  cg : W32 := 0
  cgAt : Nat := 0
  preLeft : List Nat := []
  postLeft : List Nat := []
  posted : Bool := false
  accounts : List Nat := []
  notices : List Nat := []
  ready : Bool := false
  started : Nat := 0
  needs : List (W64 × Nat × W32) := []
  copies : List (Nat × Nat × Nat × Nat) := []
  deriving DecidableEq, Repr

/-- An item of a ready list (R125): a grid, or a readmission of some teams; with its wait clock (R128), and the bclk cycle in which it
entered the head part. -/
structure Item where
  level : Nat
  head : Bool
  grid : Nat
  teams : List Nat := []
  clock : Nat := 0
  since : Option Nat := none
  deferUntil : Option Nat := none
  entered : Nat := 0
  deriving DecidableEq, Repr

/-- A budget account (R113, R115): context, node, resource, its share and hardness, its limit, count, users, whether it is
over, the number of the period it counts in, and when a charge took it to its limit. -/
structure Account where
  ctx : Nat
  node : W64
  res : Nat
  share : Nat := 0
  hard : Bool := false
  limit : Nat := 0
  count : Nat := 0
  users : List Nat := []
  isOver : Bool := false
  period : Nat := 0
  crossed : Option Nat := none
  deriving DecidableEq, Repr

/-- A registers' hold of an exited group (R134). -/
structure Withheld where
  core : Nat
  slot : Nat
  g : Nat
  c : Nat
  until' : Nat
  guid : Nat
  deriving DecidableEq, Repr
/-! ## Power, bring-up, management and boost -/

/-- The bring-up stages of R77. -/
inductive BringStage where
  | boot | base | memory | compute | full
  deriving DecidableEq, Repr

/-- BOOTST.STATE (R82). -/
inductive BootState where
  | verifying | running | recovery | recoveryVerifying
  deriving DecidableEq, Repr

/-- Muyras' boot, identity and measurement state (R81 to R83). `flash` is the image last written to flash, where one has been:
else flash holds the image of manufacture (`Config.factoryImage`). -/
structure Boot where
  fail : BitVec 8 := 0
  state : BootState := .verifying
  persist : Bool := false
  flashing : Bool := false
  window : List Host.Cell := []
  flash : Option Image := none
  version : W32 := 0
  mr0 : BitVec 384 := 0
  mr1 : BitVec 384 := 0
  nonce : BitVec 384 := 0
  attGo : Bool := false
  attDone : Bool := false
  report : List Byte := []
  deriving DecidableEq, Repr

/-- A coolant loop (R24, R25): lost, low samples of its signal in a row, since when it has been deasserted with its
sensors within range, since when its inlet sensor has read outside its range, and whether a die that it cools read above its limit
in the last sample. -/
structure Loop where
  lost : Bool := false
  lowRun : Nat := 0
  goodSince : Option Nat := none
  inletOut : Option Nat := none
  dieHot : Bool := false
  deriving DecidableEq, Repr

/-- Rails, ports, lasers, loops and sensors (R17 to R26, R88, R89). `down` holds from a power-down of the whole module to the
next reset (R22, R87); `portCorr` are the times of a port's correctable faults of the last millisecond (R17); `looked` and
`sensed` are the times of the last samples of the signals and of the sensors; `t3` holds once the orderly stop has begun, and
`stageFailed` once a chiplet has failed its Chiplet stage (R77); `drains` are the flows held on a Retiring port that still carries
packets, `reissues` those on one that does not (R151). -/
structure Power where
  vaux : Bool := true
  vbase : Bool := false
  vmem : Bool := false
  vlas : Bool := false
  vch : BitVec 8 := 0
  down : Bool := false
  portCorr : Tbl (List Nat) := []
  portState : Tbl Nat := []
  drains : Tbl (List Nat) := []
  reissues : Tbl (List Nat) := []
  portCount : Tbl Nat := []
  cutOff : BitVec 48 := 0
  fenced : BitVec 8 := 0
  lasersLost : BitVec 6 := 0
  top : Loop := {}
  bottom : Loop := {}
  sensors : Tbl (BitVec 12) := []
  hot : List Nat := []
  looked : Option Nat := none
  sensed : Option Nat := none
  t3 : Bool := false
  t3step : Nat := 0
  stageFailed : Bool := false
  deriving DecidableEq, Repr

/-- A cluster: clock step, claim, retention, permits and idleness (R79, R84, R90 to R94), vertical exclusion (R95), its
TLB (R273) and its elevator routing tables (R149): 2 x 96 entries changed from their reset values. -/
structure Cluster where
  cal : Bool := false
  kept : Bool := false
  step : Nat := 0
  claim : Bool := false
  ret : Bool := false
  wakeAt : Option Nat := none
  ceil : Nat := 0
  perm : Nat := 0
  idleSince : Nat := 0
  refillAt : Nat := 0
  doubled : Bool := false
  fused : Bool := false
  tlb : List TlbEntry := []
  route : Tbl (BitVec 3) := []
  deriving DecidableEq, Repr

/-- BGOV (R94), and the time of the last boundary. -/
structure Governor where
  ecap : Nat := 24
  bptr : Nat := 0
  en : Bool := true
  maxcl : Nat := 24
  last : Nat := 0
  deriving DecidableEq, Repr

/-- An event counter (R96). -/
structure EventCounter where
  en : Bool := false
  ovf : Bool := false
  src : Nat := 0
  count : BitVec 48 := 0
  since : Nat := 0
  deriving DecidableEq, Repr
/-! ## Peer links and the checkpoint -/

/-- PSTAT.STATE (R44). -/
inductive LinkState where
  | down | training | up | failed
  deriving DecidableEq, Repr

/-- Whose packet it is, as a source of R33: a cluster, a copy engine, a junction port adder, transit, or the home
slices that answer inbound requests. -/
inductive PktSource where
  | cluster (n : Nat)
  | engine (n : Nat)
  | junction
  | transit
  | answer
  deriving DecidableEq, Repr

/-- What a request of this device's own is for (R38, R40, R46, R165): a lane of an access, an engine operation, a
checkpoint page, or a collective packet. -/
inductive ReqOwner where
  | lane (access lane : Nat)
  | opRead (op va : Nat)
  | opWrite (op : Nat)
  | page (run : Nat)
  | collective (coll : Nat)
  | none
  deriving DecidableEq, Repr

/-- A packet that waits at a port, with its source and what it is for. A transit packet has the payloads of its flits that have
come in, and while more are to come, the port and class they come by (R42). -/
structure Outgoing where
  pkt : Packet
  source : PktSource
  owner : ReqOwner := .none
  pays : List (BitVec 512) := []
  more : Option (Nat × Nat) := none
  deriving DecidableEq, Repr

/-- A sent flit in the replay buffer (R30): its KIND, TC, SEQ, DST, payload, how often it was resent, for a flit in transit
the first payload of its packet (R43), and the grid it is charged to (R34). -/
structure SentFlit where
  kind : Nat
  tc : Nat
  seq : BitVec 12
  dst : BitVec 14
  pay : BitVec 512
  resends : Nat := 0
  head : Option (BitVec 512) := none
  grid : Option Nat := none
  deriving DecidableEq, Repr

/-- A packet that a class is sending flit by flit (R33). -/
structure OpenSend where
  item : Outgoing
  next : Nat
  deriving DecidableEq, Repr

/-- A packet that a receiver is taking in (R36), whose last flit may not come where `soft` is set: its first flit's TC and DST,
payloads so far, flits to come, and whether it is being forwarded (R42). -/
structure OpenRecv where
  tc : Nat
  dst : BitVec 14
  pays : List (BitVec 512)
  left : Nat
  soft : Bool := false
  fwd : Bool := false
  deriving DecidableEq, Repr

/-- An outstanding request of a port (R41). -/
structure Outstanding where
  tag : Nat
  op : BitVec 8 := 0
  dst : BitVec 14
  owner : ReqOwner
  size : Nat
  deriving DecidableEq, Repr

/-- A peer port (R27 to R36, R41, R44). `asked` is the SEQ that a control flit has named, from which to resend (R30). -/
structure Port where
  en : Bool := false
  state : LinkState := .down
  replays : BitVec 8 := 0
  corr : BitVec 16 := 0
  weights : List Nat := [4, 4, 4, 4]
  seq : BitVec 12 := 0
  sent : List SentFlit := []
  resend : Option Nat := none
  asked : Option (BitVec 12) := none
  credits : List Nat := [0, 0, 0, 0, 0, 0]
  owed : List Nat := [0, 0, 0, 0, 0, 0]
  slot : Nat := 0
  pointer : List Nat := [0, 0, 0, 0, 0, 0]
  queues : Tbl (List Outgoing) := []
  sending : Tbl OpenSend := []
  expect : BitVec 12 := 0
  nak : Bool := false
  recv : Tbl OpenRecv := []
  inbox : List Packet := []
  lastAccept : Nat := 0
  tags : List Outstanding := []
  waiting : List Outgoing := []
  trainedAt : Option Nat := none
  lastSent : Option (BitVec 640) := none
  deriving DecidableEq, Repr

/-- Packets held at the source while a destination's route changes (R39). -/
structure RouteHold where
  dst : BitVec 14
  oldPort : Nat
  held : List Outgoing := []
  deriving DecidableEq, Repr

/-- An inbound window entry (R40, R44). -/
structure Window where
  base : W64 := 0
  lim : W64 := 0
  src : W32 := 0
  perm : W32 := 0
  deriving DecidableEq, Repr

/-- CKCTL.STATE (R44). -/
inductive CkState where
  | idle | quiesce | stream | resume | done | restore
  deriving DecidableEq, Repr

/-- The checkpoint (R44 to R47): its registers, the pages that await completion, the ports of its list, whether the commits of
Quiesce have begun, and its number. -/
structure Checkpoint where
  state : CkState := .idle
  result : Nat := 0
  err : Bool := false
  list : W64 := 0
  image : W64 := 0
  pages : Nat := 0
  ports : List Nat := []
  committing : Bool := false
  run : Nat := 0
  deriving DecidableEq, Repr

/-- The peer side of the device. -/
structure Peer where
  ports : Tbl Port := []
  devid : BitVec 14 := 0
  devidV : Bool := false
  devidSet : Bool := false
  routes : Tbl W32 := []
  windows : Tbl Window := []
  holds : List RouteHold := []
  ck : Checkpoint := {}
  deriving DecidableEq, Repr

/-! ## Pins, copy engines, engine operations and collectives -/

/-- An entry of the pin table (R154, R155). -/
structure PinEntry where
  v : Bool := false
  chip : Nat := 0
  base : Nat := 0
  limit : Nat := 0
  deriving DecidableEq, Repr

/-- A copy engine (R163): its active streams in order of start, the streams that wait, the rotating pointer, and the stream that it is
serving with the bytes that its chunk has left. -/
structure CopyEngine where
  active : List Nat := []
  waiting : List Nat := []
  pointer : Nat := 0
  serving : Option (Nat × Nat) := none
  deriving DecidableEq, Repr

/-- The fields of an inline copy or entry of a copy schedule (R120, R121) or of CPY, CPYM, STAGE (R424 to R426). -/
inductive OpKind where
  /-- A schedule entry of a grid (R121), with its entry number and whether it is a post copy. -/
  | sched (grid entry : Nat) (post warm : Bool) (src dst len : Nat)
  | cpy (fromScr toScr : Bool) (dst src len : Nat)
  | cpym (off src len : Nat) (targets : List Nat)
  | stage (out : Bool) (mem scr rows rb mp sp : Nat)
  | gath (scat : Bool) (base idx data count size sh : Nat)
  | gcsr (rows count rowptr colidx vals out off cap : Nat)
  | ldb (src dieOff rows width : Nat) (col : Bool)
  | mma (tile : Nat) (et fmtB : Nat) (a : List W32) (ob os : Nat) (nsb : Bool) (scales : Option (List W32)) (mask : W64)
      (scr : Bool) (at' : Nat)
  | accnext (tile : Nat) (mask : W64)
  | epi (toScr : Bool) (tile dst pitch ofmt act : Nat) (sat : Bool) (scale : W32)
  | coll (desc : List Byte) (mode : Nat) (res : Bool) (dst : Nat)
  | decode (which fn : Nat) (desc : List Byte) (at' : Nat)
  | dchk (fn : Nat) (desc : List Byte) (at' : Nat)
  /-- An entry of the checkpoint list (R45). -/
  | page (src dst len : Nat) (dev : BitVec 14) (port : Nat)
  deriving DecidableEq, Repr

/-- An engine operation (R414 to R422): whose it is, its class and batch, how many units are done, what it has read and
written, and when. -/
structure EngineOp where
  kind : OpKind
  core : Nat := 0
  slot : Nat := 0
  guid : Nat := 0
  team : Nat := 0
  ctx : Nat
  task : Nat := 0
  pc : W64 := 0
  cls : Nat
  batch : BitVec 16 := 0
  engine : Option Nat := none
  units : Nat := 0
  rDone : Bool := false
  vDone : Bool := false
  ended : Bool := false
  accepted : Option Nat := none
  finish : Nat := 0
  stalled : Bool := false
  gix : Nat := 0
  page : Nat := 0
  pageWr : Bool := false
  bulk : Nat := 0
  reads : Nat := 0
  acc : Nat := 0
  buf : List Host.Cell := []
  early : List (Option Byte) := []
  held : List Byte := []
  half : Option (Nat × Nat) := none
  row : Option (Nat × Nat × Nat) := none
  issued : Nat := 0
  prior : List W32 := []
  overMask : W64 := 0
  deriving DecidableEq, Repr

/-- A contribution to a collective (R440): its position, its operation, its grid and its elements. -/
structure Contribution where
  pos : Nat
  op : Nat
  grid : Nat
  data : List W32
  deriving DecidableEq, Repr

/-- A node's sum that is ready at an adder of the tree (R164 to R166): its level and index, elements, when it came, and
whether it is parked at a slice. -/
structure NodeSum where
  level : Nat
  index : Nat
  data : List W32
  since : Nat
  parked : Bool := false
  deriving DecidableEq, Repr

/-- An output of a mesh router (R145): when it is free, and for each class the input port that it serves next. -/
structure MeshOutput where
  free : Nat := 0
  pointers : List Nat := [0, 0, 0, 0]
  deriving DecidableEq, Repr

/-- A collective of this device (R164 to R168, R439 to R441): its name and operands, the contributions, the sums that wait at
adders, whether it is parked, the device's sum, what peers have sent, whether a Roundabout packet has gone on, and how and when it
ended. -/
structure Coll where
  ctx : Nat
  dst : Nat
  n : Nat
  count : Nat
  m : Nat
  dpos : Nat
  list : List Nat
  fn : Nat
  contribs : List Contribution := []
  sums : List NodeSum := []
  parked : Bool := false
  device : Option (List W32) := none
  cto : Nat := 0
  passed : Bool := false
  ended : Bool := false
  ringSince : Option Nat := none
  fromPeers : Tbl (List W32) := []
  failedAt : Option Nat := none
  posSeen : List Nat := []
  started : Nat := 0
  deriving DecidableEq, Repr
/-! ## Contexts, records and queues -/

/-- A context's registers (R54, R258) and what it holds (R58, R257): host records that a stopped group waits for, the
save pool's reservations (first granule, granules, team), flags and mailboxes of the Plaza (R405, R407). -/
structure Context where
  en : Bool := false
  func : Nat := 0
  pasid : BitVec 20 := 0
  ptb : W64 := 0
  rcb : W64 := 0
  hbase : W64 := 0
  hlim : W64 := 0
  rqb : W64 := 0
  msiv : Nat := 0
  log2 : Nat := 6
  rwi : W32 := 0
  rri : W32 := 0
  lost : Nat := 0
  ovf : Bool := false
  err : Bool := false
  held : List (List Byte × Nat) := []
  spbase : W64 := 0
  spsize : Nat := 0
  reserved : List (Nat × Nat × Nat) := []
  tinvva : W64 := 0
  tinvn : W32 := 0
  tinvDone : Bool := true
  tinvPending : List Nat := []
  halt : Bool := false
  halted : Bool := false
  flags : List Nat := []
  boxes : Tbl (List W64) := []
  boxWaits : Tbl (List (Nat × Nat × Nat)) := []
  deriving DecidableEq, Repr

/-- The states of QSTAT.STATE (R61). -/
inductive QState where
  | off | active | draining | stopped | faulted
  deriving DecidableEq, Repr

/-- A fetched record of a queue (R64, R68, R70): its bytes, where it stands, whether it failed, and
whether its failure is QCTL.ABORT's own. -/
structure QRecord where
  index : W32
  bytes : List Byte
  started : Bool := false
  waitOk : Bool := false
  polled : Option Nat := none
  grid : Option Nat := none
  complete : Bool := false
  failed : Bool := false
  quiet : Bool := false
  deriving DecidableEq, Repr

/-- A record read in progress (R64): when it was issued, and what its address translated to, or none where that failed. -/
structure Fetch where
  since : Nat
  place : Option Loc
  deriving DecidableEq, Repr

/-- A queue (R61 to R66): its registers, its fetched records in order, whether the last one that left them had FAILED, a
fetch in progress, and whether a function reset is to destroy it. -/
structure Queue where
  ctx : Nat := 0
  state : QState := .off
  cause : Nat := 0
  qbase : W64 := 0
  log2 : Nat := 4
  qri : W32 := 0
  qwi : W32 := 0
  qdone : W32 := 0
  qfaddr : W64 := 0
  recs : List QRecord := []
  lastFailed : Bool := false
  fetching : Option Fetch := none
  resetOff : Bool := false
  deriving DecidableEq, Repr

/-- An entry of the page-request tag table (R71 to R73), with its waiters by slot key and split entry. -/
structure TagEntry where
  page : Nat
  w : Bool
  r : Bool
  ctx : Nat
  pasid : BitVec 20
  sent : Nat
  waiters : List (Nat × Nat) := []
  ops : List Nat := []
  deriving DecidableEq, Repr

/-- An entry of the device fault table (R274, R275). -/
structure DftEntry where
  page : Nat
  x : Bool
  w : Bool
  r : Bool
  ctx : Nat
  since : Nat
  waiters : List (Nat × Nat) := []
  ops : List Nat := []
  deriving DecidableEq, Repr

/-- Translations that a walker of a chiplet, or the ATS path, is to make (R273, R55), each with its lane: for a fragment
that waits, or for an engine operation; `both` is an atomic, which reads and writes. -/
structure Walk where
  chiplet : Nat
  core : Nat
  ctx : Nat
  vas : List (Nat × Nat)
  write : Bool
  fetch : Bool
  both : Bool := false
  ats : Bool
  frag : Option (Nat × Nat)
  op : Option Nat := none
  started : Nat
  walker : Option Nat := none
  seen : List (Nat × Nat) := []
  deriving DecidableEq, Repr

/-- An ATS invalidation under way (R56). -/
structure AtsInval where
  func : Nat
  pasid : BitVec 20
  va : W64
  pages : Nat
  since : Nat
  pending : List Nat
  deriving DecidableEq, Repr

/-- What the device has sent over the host link (R50, R55, R57, R59, R71): a read, an atomic, a posted write, a translation
request, an MSI-X message, a page request, or an invalidation completion. -/
inductive HostMsg where
  | read (func : Nat) (pasid : BitVec 20) (addr bytes : Nat)
  | atomic (func : Nat) (pasid : BitVec 20) (addr bytes : Nat)
  | write (func : Nat) (pasid : BitVec 20) (addr : Nat) (data : List Byte)
  | atsRequest (func : Nat) (pasid : BitVec 20) (page : Nat) (w : Bool)
  | msix (func : Nat) (pasid : BitVec 20) (vector : Nat)
  | pageRequest (func : Nat) (pasid : BitVec 20) (page index : Nat) (r w : Bool)
  | invalDone (func : Nat)
  deriving DecidableEq, Repr

/-- What a non-posted request waits to answer (R49): a walk's translation, a lane of an access, or a record fetch. -/
inductive HostOwner where
  | walk (id : Nat)
  | lane (access lane : Nat)
  | fetch (queue : Nat)
  deriving DecidableEq, Repr

/-- A non-posted request (R49, R50): its function, its message, what it is for, and whether one of the 768 tags of its function
is its own, so that it has been sent. -/
structure HostAsk where
  func : Nat
  owner : HostOwner
  msg : HostMsg
  issued : Bool := false
  deriving DecidableEq, Repr

/-- The host side of the device: BAR4OFF and the binary logarithm of BAR4's size, the page-request timeout, stopped page requests
by function, buffered records (R60), the tag table, the translations that units hold of host-managed pages (R55), non-posted
requests, invalidations, and what has been sent and last read. -/
structure HostLink where
  bar4off : W64 := 0
  bar4bits : Nat := 40
  prito : Nat := 1000
  priStopped : List Nat := []
  buffered : List (List Byte) := []
  tags : Tbl TagEntry := []
  tagWait : List Walk := []
  atc : List TlbEntry := []
  asks : List HostAsk := []
  invals : List AtsInval := []
  sent : List HostMsg := []
  readBytes : List Byte := []
  hostMem : List Host.Cell := []
  flr : List Nat := []
  deriving DecidableEq, Repr
/-! ## The machine -/

/-- An entry of a chiplet's walk cache (R273): a table address of a level, reached for an address of a context. -/
structure WalkEntry where
  ctx : Nat
  level : Nat
  pfx : Nat
  table : Nat
  used : Nat
  deriving DecidableEq, Repr

/-- A fragment: core, slot and split entry; with a shared issue slot, the active beats of the other candidate, whether it is the second
of the two (R211), and the cycles for which each of the other's beats holds the scratchpad (R219). -/
structure FragRef where
  core : Nat
  slot : Nat
  entry : Nat
  mate : BitVec 4 := 0
  second : Bool := false
  mateCyc : List Nat := []
  deriving DecidableEq, Repr

/-- An instruction with beats that have not entered their pipe when it issues, so that a later write may overtake their reads
(R314): its fragment, itself, its group, free value number, message number and scratchpad as it issued, its time, and when
each of the four beats enters. -/
structure Reader where
  cur : FragRef
  instr : Instr
  group : Group
  free : Nat
  ids : Nat
  scratch : List Host.Cell
  time : Nat
  enter : List Nat
  deriving DecidableEq, Repr

/-- What happens next: a quadrant's issue slot, or an event of the device. -/
inductive Act where
  | issue (core quad : Nat)
  | event (i : Instr)
  deriving DecidableEq, Repr

/-- The distributor (R122 to R131, R140): ready items, records that wait for an entry (queue, index, and the bclk cycle in which
they satisfied R68), the position pointer, the level that placement is reserved for, the suspended contexts, the number of the
budget period, and the bclk cycle of the last placement decision. -/
structure Distributor where
  items : List Item := []
  waiting : List (Nat × Nat × Nat) := []
  ptr : Nat := 0
  startOrder : Nat := 0
  reserved : Option Nat := none
  dsusp : W64 := 0
  period : Nat := 0
  decided : Option Nat := none
  deriving DecidableEq, Repr

/-- The module. `poison` are the DRAM sectors whose stored bits hold an uncorrectable error (R161). `flows` are, for each flow of an
elevator port, the number of its next packet and of the next that its receiver accepts (R150); `avenue` is, for each channel, the
station that the token comes to next, and when it does (R147).
`time` counts 72nds of a nanosecond since module reset. `sched`, `cur`, `uni`,
`free`, `ids` and `readers` are the model's own: what is to happen next and after how long, the fragment that issues, whether
the instruction just issued took the uniform path, the numbers of the next free value and of the next message, and the
instructions whose reads are not all made. -/
structure State where
  time : Nat := 0
  sched : List (Nat × Act) := []
  cur : Option FragRef := none
  uni : Bool := false
  free : Nat := 0
  ids : Nat := 0
  readers : List Reader := []
  stage : BringStage := .boot
  boot : Boot := {}
  power : Power := {}
  clusters : Tbl Cluster := []
  governor : Governor := {}
  counters : Tbl EventCounter := []
  mem : List Host.Cell := []
  poison : List Nat := []
  slices : Tbl Slice := []
  cores : Tbl Core := []
  groups : Tbl Group := []
  withheld : List Withheld := []
  teams : Tbl Team := []
  grids : Tbl Grid := []
  districts : Tbl District := []
  dist : Distributor := {}
  accounts : Tbl Account := []
  parkAreas : Tbl (List Nat) := []
  tasks : Tbl Task := []
  accs : Tbl Access := []
  msgs : Tbl Msg := []
  flows : Tbl (BitVec 12 × BitVec 12) := []
  avenue : Tbl (Nat × Nat) := []
  mesh : Tbl MeshOutput := []
  controllers : Tbl Controller := []
  walks : Tbl Walk := []
  walkCache : Tbl (List WalkEntry) := []
  dft : Tbl DftEntry := []
  dftWait : List Walk := []
  contexts : Tbl Context := []
  queues : Tbl Queue := []
  host : HostLink := {}
  pins : Tbl PinEntry := []
  pinBusy : Bool := false
  pinErr : Bool := false
  pinMove : List (Nat × Nat) := []
  needs : Option (List Lack) := none
  engines : Tbl CopyEngine := []
  ops : Tbl EngineOp := []
  colls : Tbl Coll := []
  peer : Peer := {}
  deriving DecidableEq, Repr

/-- Why the machine stops: nothing does, since the manual gives every stop of an instruction as a trap (DEDUCED, safe: log
entry 13). -/
inductive Fault where
  deriving DecidableEq, Repr

/-- An instruction with no meaning. -/
inductive Refusal where
  /-- Raised by an arm of `exec` whose instruction has no meaning yet; safe, since nothing is claimed of it. -/
  | notModelled (mnemonic : String)
  deriving DecidableEq, Repr

/-- The module right after reset (R76, R77): standby power is on, bring-up is at its Boot stage, memory lists nothing,
and every register holds its reset value. DESIGN CHOICE, unsafe, where the manual states none: log entries 5 (the model's own
fields), 10 (memory), 11 (rails) and 12 (other registers). -/
def State.reset : State := {}

end Sys2Proof.Machine
end

