-- ==== Sys2Proof/Machine/Table.lean ====
section
/-! DEFINITION. The named operations over sparse tables, lanes and masks. -/
namespace Sys2Proof.Machine

/-! ## Sparse tables -/

/-- The entry of a table at a number, if any. -/
def tget? {α : Type} (t : Tbl α) (k : Nat) : Option α :=
  match t with
  | [] => none
  | (j, x) :: r => if j == k then some x else tget? r k

/-- The entry of a table at a number, or a default. -/
def tgetD {α : Type} (t : Tbl α) (k : Nat) (d : α) : α := (tget? t k).getD d

/-- A table with the entry at a number set; the numbers keep rising. -/
def tset {α : Type} (t : Tbl α) (k : Nat) (x : α) : Tbl α :=
  match t with
  | [] => [(k, x)]
  | (j, y) :: r => if j == k then (k, x) :: r else if k < j then (k, x) :: (j, y) :: r else (j, y) :: tset r k x

/-- A table without the entry at a number. -/
def tdel {α : Type} (t : Tbl α) (k : Nat) : Tbl α := t.filter fun p => p.1 != k

/-- A table with a function applied to the entry at a number, where there is one. -/
def tmod {α : Type} (t : Tbl α) (k : Nat) (f : α → α) : Tbl α :=
  match tget? t k with
  | some x => tset t k (f x)
  | none => t

/-- The lowest number below `n` that a table does not hold. -/
def tfree {α : Type} (t : Tbl α) (n : Nat) : Option Nat :=
  (List.range n).find? fun k => (tget? t k).isNone

/-- A list with its element at a place replaced. -/
def lset {α : Type} (l : List α) (k : Nat) (x : α) : List α := l.set k x

/-! ## Lanes and masks -/

/-- Whether lane `l` is in a mask. -/
def inMask (m : W64) (l : Nat) : Bool := m.getLsbD l

/-- The lanes of a mask, ascending. -/
def lanesOf (m : W64) : List Nat := (List.range 64).filter fun l => inMask m l

/-- The lowest lane of a mask; 0 for the empty mask. -/
def lowLane (m : W64) : Nat := ((List.range 64).find? fun l => inMask m l).getD 0

/-- The mask of the lanes that satisfy a test. -/
def maskOf (p : Nat → Bool) : W64 := BitVec.ofNat 64 ((List.range 64).foldl (fun a l => if p l then a + 2 ^ l else a) 0)

/-- The active beats of a mask, ascending (R198). -/
def activeBeats (m : W64) : List Nat := (List.range 4).filter fun b => (m.extractLsb' (16 * b) 16) != 0#16

def fullMask : W64 := BitVec.allOnes 64

/-- The entries of a table, without their numbers. -/
def tvals {α : Type} (t : Tbl α) : List α := t.map fun p => p.2

/-- The numbers of the entries of a table that satisfy a test, ascending. -/
def tkeys {α : Type} (t : Tbl α) (p : Nat → α → Bool) : List Nat := (t.filter fun e => p e.1 e.2).map fun e => e.1

/-- A table with a function applied to every entry. -/
def tmap {α : Type} (t : Tbl α) (f : Nat → α → α) : Tbl α := t.map fun e => (e.1, f e.1 e.2)

/-- A table with only the entries that satisfy a test. -/
def tfilter {α : Type} (t : Tbl α) (p : Nat → α → Bool) : Tbl α := t.filter fun e => p e.1 e.2

/-! ## Bytes -/

/-- The byte of a cell list at an address; an address not listed reads as zero (R77; before the Memory stage
DESIGN CHOICE, unsafe, log entry 10). -/
def cget (m : List Host.Cell) (a : Nat) : Byte :=
  match m with
  | [] => 0
  | (j, b) :: r => if j == a then b else if a < j then 0 else cget r a

/-- A cell list with the byte at an address set, in canonical form: a zero byte is not listed. -/
def cset (m : List Host.Cell) (a : Nat) (b : Byte) : List Host.Cell :=
  match m with
  | [] => if b == 0 then [] else [(a, b)]
  | (j, x) :: r =>
    if j == a then (if b == 0 then r else (a, b) :: r)
    else if a < j then (if b == 0 then (j, x) :: r else (a, b) :: (j, x) :: r)
    else (j, x) :: cset r a b

/-- The canonical form of a cell list: addresses strictly rising, no zero byte. -/
def Memory.wf (m : List Host.Cell) : Bool :=
  match m with
  | [] => true
  | [(_, b)] => b != 0
  | (a, b) :: (a', b') :: r => b != 0 && a < a' && Memory.wf ((a', b') :: r)

/-- The `n` bytes from an address. -/
def cread (m : List Host.Cell) (a n : Nat) : List Byte := (List.range n).map fun i => cget m (a + i)

/-- A cell list with the bytes from an address on replaced. -/
def cwrite (m : List Host.Cell) (a : Nat) (bs : List Byte) : List Host.Cell :=
  bs.zipIdx.foldl (fun m (b, i) => cset m (a + i) b) m

/-- The number whose little-endian bytes are given. -/
def leNat (bs : List Byte) : Nat := bs.foldr (fun b n => b.toNat + 256 * n) 0

/-- The `n` little-endian bytes of a number. -/
def leBytes (n v : Nat) : List Byte := (List.range n).map fun i => BitVec.ofNat 8 (v / 256 ^ i)

/-- The little-endian number in `n` bytes from an address. -/
def cnat (m : List Host.Cell) (a n : Nat) : Nat := leNat (cread m a n)

/-- Bits [hi:lo] of a number. -/
def fld (v hi lo : Nat) : Nat := v / 2 ^ lo % 2 ^ (hi - lo + 1)

end Sys2Proof.Machine
end

