-- ==== Sys2Proof/Machine/Memory.lean ====
section
/-! DEFINITION. Memory operations: where an address lives (R152), the directory and the L1s (R169 to R178), versions
(R182 to R187), messages (R143 to R151), and how a home serves a request (R174, R176). -/
namespace Sys2Proof.Machine

/-! ## The parts of the machine -/

/-- Device memory ends at 768 GiB (R268). -/
def memTop : Nat := 0xC000000000

def State.slice (s : State) (n : Nat) : Slice := tgetD s.slices n {}
def State.setSlice (s : State) (n : Nat) (x : Slice) : State := { s with slices := tset s.slices n x }
def State.cluster (s : State) (n : Nat) : Cluster := tgetD s.clusters n {}
def State.setCluster (s : State) (n : Nat) (x : Cluster) : State := { s with clusters := tset s.clusters n x }
/-- A core of the device, as after reset where nothing has touched it. -/
def State.core (s : State) (n : Nat) : Core := tgetD s.cores n {}
/-- The state with a core replaced. -/
def State.setCore (s : State) (n : Nat) (c : Core) : State := { s with cores := tset s.cores n c }
def State.teamAt (s : State) (n : Nat) : Team := tgetD s.teams n {}
def State.setTeam (s : State) (n : Nat) (t : Team) : State := { s with teams := tset s.teams n t }
def State.gridAt (s : State) (n : Nat) : Grid := tgetD s.grids n {}
def State.setGrid (s : State) (n : Nat) (g : Grid) : State := { s with grids := tset s.grids n g }
def State.taskAt (s : State) (n : Nat) : Task := tgetD s.tasks n {}
def State.setTask (s : State) (n : Nat) (t : Task) : State := { s with tasks := tset s.tasks n t }
def State.ctxAt (s : State) (n : Nat) : Context := tgetD s.contexts n {}
def State.setCtx (s : State) (n : Nat) (c : Context) : State := { s with contexts := tset s.contexts n c }
def State.queueAt (s : State) (n : Nat) : Queue := tgetD s.queues n {}
def State.setQueue (s : State) (n : Nat) (q : Queue) : State := { s with queues := tset s.queues n q }

/-- A bclk cycle in 72nds of a nanosecond (R1). -/
def bclk : Nat := 60

/-- A microsecond in 72nds of a nanosecond. -/
def usec : Nat := 72000

/-- The length of a cclk cycle of a cluster at its clock step (R94): 1.6, 1.8, 2.0 and 1.0 GHz. -/
def stepCycle (step : Nat) : Nat :=
  match step with
  | 0 => 45
  | 1 => 40
  | 2 => 36
  | _ => 72

/-- The length of a cycle of a core. -/
def State.cyc (s : State) (core : Nat) : Nat := stepCycle (s.cluster (core / 8)).step

/-- cclk cycles of a core since module reset: the count stops in retention (R354). -/
def State.cycleOf (s : State) (core : Nat) : W64 :=
  let k := s.core core
  if (s.cluster (core / 8)).ret then k.cycle else k.cycle + BitVec.ofNat 64 ((s.time - k.cycleAt) / s.cyc core)

/-- The cycle counts of a cluster's cores brought up to the present. -/
def State.foldCycles (s : State) (cluster : Nat) : State :=
  (List.range 8).foldl (fun (s : State) i => s.setCore (8 * cluster + i) { s.core (8 * cluster + i) with
    cycle := s.cycleOf (8 * cluster + i), cycleAt := s.time }) s

/-- The time of a figure of `n` cycles at 1.6 GHz that is fixed in time (R460). -/
def fixedCycles (n : Nat) : Nat := 45 * n

/-- bclk cycles since module reset. -/
def State.bclks (s : State) : Nat := s.time / bclk

/-- The chiplet of a cluster (R3). -/
def chipOf (cluster : Nat) : Nat := cluster / 6

/-- The table in force for a pair of loop states (R86). -/
def Power.table (p : Power) : Nat :=
  if p.t3 || p.top.lost && p.bottom.lost then 3 else if p.bottom.lost then 2 else if p.top.lost then 1 else 0

/-- Whether a chiplet is online: CAP0.CHON (R80). -/
def State.chipOnline (s : State) (n : Nat) : Bool :=
  s.power.vch.getLsbD n && !s.power.fenced.getLsbD n &&
    (s.stage == .compute || s.stage == .full)

/-- Whether a cluster is online: its chiplet is, and it is not cut off (R17, R80). -/
def State.clusterOnline (s : State) (c : Nat) : Bool := c < 48 && s.chipOnline (chipOf c) && !s.power.cutOff.getLsbD c

/-- The clusters online. -/
def State.online (s : State) : List Nat := (List.range 48).filter s.clusterOnline

/-- Whether the host's link is up: standby power is on, and no power-down of the whole module has taken it down (R22). DESIGN CHOICE:
the power-down of R87 step 7 takes it down too, and with it the registers, though VAUX and VMEM stay up (log entry 147). -/
def State.linkUp (s : State) : Bool := s.power.vaux && !s.power.down

/-- Whether the rails of the base die, the stacks and the lasers are up, one upon the other (R21). -/
def Power.baseUp (p : Power) : Bool := p.vaux && p.vbase && p.vmem && p.vlas && !p.down && !p.t3

/-- Whether light for the Avenue is there (R18, R22). -/
def Power.avenueLit (p : Power) : Bool := p.vlas && !(p.lasersLost.getLsbD 4 && p.lasersLost.getLsbD 5)

/-- Whether the BAR0 registers and BAR4 are in service (R77): from stage 2 on, with the base die powered. -/
def State.bar0Open (s : State) : Bool := s.power.vaux && s.power.vbase && !(s.stage == .boot || s.stage == .base)

/-! ## Event counters (R96, R97) -/

/-- A counter with `n` counted: it wraps to 0 after its highest value and sets OVF (R96). -/
def EventCounter.add (c : EventCounter) (n : Nat) : EventCounter :=
  let v := c.count.toNat + n
  { c with count := BitVec.ofNat 48 v, ovf := c.ovf || v ≥ 2 ^ 48 }

/-- The blocks of counters: cores 0 to 383, slices from 384, ports from 480; counter `k` of block `b` has number 8b + k. -/
def State.tally (s : State) (block src n : Nat) : State :=
  if n == 0 || s.counters.isEmpty then s
  else { s with counters := tmap s.counters fun k c =>
    if k / 8 == block && c.en && c.src == src then c.add n else c }

/-! ## Where an address lives (R152, R153) -/

/-- The lowest-numbered valid pin entry that holds a granule. -/
def State.pinOf (s : State) (g : Nat) : Option PinEntry :=
  ((s.pins.filter fun p => p.2.v && p.2.base ≤ g && g ≤ p.2.limit).head?).map fun p => p.2

/-- The granule hash of R152. -/
def granuleHash (g : Nat) : Nat := (g % 65536) ^^^ (g / 65536 % 65536) ^^^ (g / 2 ^ 32 % 64)

/-- A retained slice wakes at once, for a unit of the base die or the calibration of its column (R85). -/
def State.rouseSlice (s : State) (n : Nat) : State :=
  let sl := s.slice n
  if sl.retained then (s.setSlice n { sl with retained := false, wakeAt := none, lastUse := s.time }).tally (384 + n) 9 1 else s

/-- The home slice of a physical address. -/
def State.homeOf (s : State) (pa : Nat) : Nat :=
  let g := pa / 4096
  match s.pinOf g with
  | some p => 12 * p.chip + granuleHash g % 12
  | none => granuleHash g % 96

/-- The partials of collectives that are parked at a slice (R166). -/
def State.partialsAt (s : State) (slice : Nat) : Nat :=
  s.colls.foldl (fun n e => if s.homeOf e.2.dst == slice then n + (e.2.sums.filter fun x => x.parked).length else n) 0

/-- The memory controller of a physical address. -/
def controllerOf (pa : Nat) : Nat := (pa / 4096 + pa / 4096 / 24) % 24

/-! ## Messages -/

/-- The state with a fresh number taken. -/
def State.fresh (s : State) : Nat × State := (s.ids, { s with ids := s.ids + 1 })

/-! ## Accounts (R113 to R115) -/

/-- The number of the budget period that a moment lies in (R112). -/
def periodAt (now : Nat) : Nat := now / (10 * usec)

/-- An account in the period of a moment (R115): at each boundary its count returns to 0 and its over state clears. -/
def Account.inPeriod (a : Account) (now : Nat) : Account :=
  if a.period == periodAt now then a else { a with count := 0, isOver := false, period := periodAt now, crossed := none }

/-- An account with a charge, which counts in the period it comes in (R115, R118). -/
def Account.add (a : Account) (now n : Nat) : Account :=
  let a := a.inPeriod now
  let count := a.count + n
  { a with count := count, crossed := if a.limit ≤ count then some (a.crossed.getD now) else a.crossed }

/-- Whether an account's over state has reached the cores and the distributor (R115): within 1 µs of the charge that set it. -/
def Account.over (a : Account) (now : Nat) : Bool :=
  let a := a.inPeriod now
  a.isOver || match a.crossed with | some t => t + usec ≤ now | none => false

/-- A charge reaches the accounts of a grid for a resource (R113 to R115). -/
def State.charge (s : State) (grid res n : Nat) : State :=
  if n == 0 then s
  else (s.gridAt grid).accounts.foldl (fun s k =>
    match tget? s.accounts k with
    | some a => if a.res == res then { s with accounts := tset s.accounts k (a.add s.time n) } else s
    | none => s) s

/-! ## Messages -/

/-- The network of a kind of message: the Avenue carries data, version lines and coherence responses toward the slices;
the rest takes the mesh (R143). -/
def MsgKind.avenue : MsgKind → Bool
  | .write _ _ _ => true
  | .stx _ => true
  | .through _ _ _ => true
  | .data _ _ _ => true
  | .panel _ _ _ _ => true
  | .hostAcc _ => true
  | .tokAck _ _ => true
  | .tokRet _ _ => true
  | .gone _ _ => true
  | .invAck _ _ => true
  | .version _ => true
  | .cmtMark _ _ _ => true
  | _ => false

/-- The access that a message in flight carries. -/
def MsgKind.access? : MsgKind → Option Nat
  | .read a _ | .write a _ _ | .completion a _ | .stx a | .hostAcc a | .through a _ _ | .throughAck a _ | .data a _ _ => some a
  | _ => none

/-- The elevator port that an entry of a cluster's routing table names (R149): its change, or its reset value. -/
def Cluster.portSel (c : Cluster) (up : Bool) (slice : Nat) : Nat :=
  match tget? c.route ((if up then 96 else 0) + slice) with
  | some r => (r.extractLsb' 0 1).toNat
  | none => slice % 2

/-- The next bclk edge. -/
def State.nextEdge (s : State) : Nat := (s.time + bclk - 1) / bclk * bclk

/-- A message is put on its way on a network: from a cluster it waits for its elevator port, from a slice on the Avenue for its
channel, from a slice on the mesh it stands at the slice's router. What a unit of the base die sends beyond the 8 buffers of its router's
input port waits in the unit, in order (R145). -/
def State.sendOn (s : State) (avenue : Bool) (kind : MsgKind) (core slice : Nat) (toSlice : Bool) (held : List Nat := []) : State :=
  let (id, s) := s.fresh
  let stage := if held != [] then .held held else if toSlice then .port else if avenue then .fifo else .mesh slice 4 s.nextEdge
  { s with msgs := tset s.msgs id { kind := kind, core := core, slice := slice, toSlice := toSlice, avenue := avenue
                                    port := 2 * (core / 8) + (s.cluster (core / 8)).portSel (!toSlice) slice
                                    sent := s.time, stage := stage, came := s.time } }

/-- The slices whose routers the Plaza, the queue unit and the work distributor attach to (R144). DESIGN CHOICE: the task table
attaches beside the distributor (log entry 120). -/
def plazaSlice : Nat := 23
def queueSlice : Nat := 32
def distributorSlice : Nat := 63

/-- A message is put on its way on the network of its kind. -/
def State.send (s : State) (kind : MsgKind) (core slice : Nat) (toSlice : Bool) (held : List Nat := []) : State :=
  s.sendOn kind.avenue kind core slice toSlice held

/-- A message between units of the base die, which crosses the mesh from the router of one slice to that of another (R143). -/
def State.sendBase (s : State) (kind : MsgKind) (source slice : Nat) : State :=
  let (id, s) := s.fresh
  { s with msgs := tset s.msgs id { kind := kind, core := 0, slice := slice, toSlice := true, avenue := false
                                    sent := s.time, stage := .mesh source 6 s.nextEdge, came := s.time } }

/-- A message has been consumed. -/
def State.dropMsg (s : State) (id : Nat) : State := { s with msgs := tdel s.msgs id }

/-- Whether no older message of the same path is still under way: the Avenue keeps the order of a cluster's messages to
a slice (R148). -/
def State.pathClear (s : State) (id : Nat) (m : Msg) : Bool :=
  !m.avenue || s.msgs.all fun (k, n) =>
    k ≥ id || !n.avenue || n.toSlice != m.toSlice || n.core / 8 != m.core / 8 || n.slice != m.slice ||
      (match n.stage with | .held _ => true | .waiting => true | _ => false)

/-! ## L1 caches (R170, R217, R220) -/

/-- The core whose L1 holds a line for a core: the core itself, or with fused L1s the core that the line names. -/
def State.l1Core (s : State) (core line : Nat) : Nat :=
  if (s.cluster (core / 8)).fused then core / 8 * 8 + line % 8 else core

/-- The set of a line (R217, R220). -/
def State.l1Set (s : State) (core line : Nat) : Nat :=
  if (s.cluster (core / 8)).fused then line / 8 % 128 else line % 128

/-- Who holds a token for a core (R172). -/
def State.holderOf (s : State) (core : Nat) : Holder :=
  if (s.cluster (core / 8)).fused then .fused (core / 8) else .core core

/-- The cluster of a holder. -/
def Holder.cluster : Holder → Nat
  | .core n => n / 8
  | .fused c => c

/-- The cores of a holder. -/
def Holder.cores : Holder → List Nat
  | .core n => [n]
  | .fused c => (List.range 8).map fun i => 8 * c + i

/-- The clean or owned copy of a line in a core's L1. -/
def State.copyOf (s : State) (core line : Nat) : Option L1Line :=
  (s.core (s.l1Core core line)).l1.find? fun x => x.line == line && match x.kind with | .version _ _ => false | _ => true

/-- Whether a core's L1 owns a line. -/
def State.owns (s : State) (core line : Nat) : Bool :=
  match s.copyOf core line with
  | some x => x.kind == .owned
  | none => false

/-- The version line of a task and epoch for a line in a core's L1. -/
def State.versionOf (s : State) (core line : Nat) (k : VKey) : Option L1Line :=
  (s.core (s.l1Core core line)).l1.find? fun x => x.line == line && match x.kind with | .version j _ => j == k | _ => false

/-- A core's L1 without the lines that a test names. -/
def State.l1Drop (s : State) (core : Nat) (p : L1Line → Bool) : State :=
  let k := s.core core
  if k.l1.any p then s.setCore core { k with l1 := k.l1.filter fun x => !p x } else s

/-- Whether a line's copy is clean or owned. -/
def L1Line.committed (x : L1Line) : Bool := match x.kind with | .version _ _ => false | _ => true

/-- The message that carries a version line of an L1 home (R185). -/
def L1Line.toVersion (x : L1Line) (k : VKey) (mask : W64) : VersionLine :=
  { line := x.line, task := k.task, epoch := k.epoch, mask := mask, data := x.data, age := 0 }

/-- Whether the token that a core's L1 gave up of a line, or of its region, is still on its way home (R178). -/
def State.returning (s : State) (core line : Nat) (region : Bool) : Bool :=
  s.msgs.any fun (_, m) => match m.kind with
    | .tokRet l r => r == region && s.holderOf m.core == s.holderOf core && (if region then l / 16 == line / 16 else l == line)
    | _ => false

/-- A line leaves a core's L1 (R172, R178, R185): a version line goes to its home; the token goes back with TokRet when an owned
copy held at line grain leaves, or the last line of a region held at region grain; else a copy leaves silently. -/
def State.evictLine (s : State) (core : Nat) (x : L1Line) : State :=
  let home := s.homeOf (256 * x.line)
  let k := s.core core
  let s := s.setCore core { k with l1 := k.l1.filter fun y => !(y.line == x.line && y.kind == x.kind) }
  match x.kind with
  | .version key mask => s.send (.version (x.toVersion key mask)) core home true
  | _ =>
    let region := tgetD (s.slice home).regions (x.line / 16) {}
    if region.state == .t && region.holder == some (s.holderOf core) then
      if s.returning core x.line true || (s.holderOf core).cores.any fun n => (s.core n).l1.any fun y => y.line / 16 == x.line / 16 && y.committed then s
      else s.send (.tokRet x.line true) core home true
    else if x.kind == .owned then s.send (.tokRet x.line false) core home true
    else s

/-- The lines of a core's L1 in the set of a line, and a unit of the set that is free. -/
def State.setOf (s : State) (core line : Nat) : List L1Line × Option Nat :=
  let k := s.core (s.l1Core core line)
  let same := k.l1.filter fun y => s.l1Set core y.line == s.l1Set core line
  (same, ((List.range 16).filter fun u => k.units.getD u .l1 == .l1).find? fun u => same.all fun y => y.unit != u)

/-- The least recently used line of a list (R217). -/
def oldestUsed (l : List L1Line) : Option L1Line :=
  l.foldl (fun b y => match b with | none => some y | some z => if y.used < z.used then some y else some z) none

/-- A line is put into a core's L1, in a unit of its set that is free, or in place of the set's least recently used line
(R217). -/
def State.installLine (s : State) (core : Nat) (x : L1Line) : State :=
  let n := s.l1Core core x.line
  let k := s.core n
  match s.setOf core x.line with
  | (_, some u) => s.setCore n { k with l1 := k.l1 ++ [{ x with unit := u, used := s.time }] }
  | (same, none) =>
    match oldestUsed same with
    | none => s
    | some v =>
      let s := s.evictLine n v
      let k := s.core n
      s.setCore n { k with l1 := k.l1 ++ [{ x with unit := v.unit, used := s.time }] }

/-- The lines of a core's L1 that match a test get new contents. -/
def State.l1Map (s : State) (core : Nat) (p : L1Line → Bool) (f : L1Line → L1Line) : State :=
  let k := s.core core
  if k.l1.any p then s.setCore core { k with l1 := k.l1.map fun x => if p x then f x else x } else s

/-- A core uses what its L1 holds of a line for a task: that becomes the most recently used of its set (R217). -/
def State.touchLine (s : State) (core line task : Nat) : State :=
  s.l1Map (s.l1Core core line) (fun x => x.line == line && match x.kind with | .version k _ => k.task == task | _ => true)
    fun x => { x with used := s.time }

/-- A clean copy of a sector comes into a core's L1: the copy gains the sector, or a new clean copy is made. -/
def State.installClean (s : State) (core line sector : Nat) : State :=
  let n := s.l1Core core line
  match s.copyOf core line with
  | some _ => s.l1Map n (fun x => x.line == line && x.committed)
      fun x => { x with valid := x.valid ||| 2 ^ sector, used := s.time }
  | none => s.installLine core { line := line, kind := .clean, valid := 2 ^ sector, unit := 0, used := s.time }

/-! ## The directory (R172 to R174) -/

/-- The directory's view of a line: its region's entry, or under P its line entry or the region's sharers. -/
def Slice.dir (sl : Slice) (line : Nat) : DirEntry :=
  let r := tgetD sl.regions (line / 16) {}
  match r.state with
  | .p =>
    match tget? sl.lines line with
    | some e => e
    | none => if r.sharers == 0 then {} else { state := .s, sharers := r.sharers }
  | _ => r

/-- The directory with a line's state changed: at line grain under P, else at region grain. -/
def Slice.setDir (sl : Slice) (line : Nat) (e : DirEntry) : Slice :=
  if (tgetD sl.regions (line / 16) {}).state == .p then { sl with lines := tset sl.lines line e }
  else { sl with regions := tset sl.regions (line / 16) e }

/-- The bit of a cluster in a sharer vector. -/
def clusterBit (c : Nat) : BitVec 48 := BitVec.ofNat 48 (2 ^ c)

/-- The clusters of a sharer vector, ascending. -/
def sharersOf (v : BitVec 48) : List Nat := (List.range 48).filter fun c => v.getLsbD c

/-- A region splits for a line (R174): its sharers keep their place, and the line gets an entry of its own. -/
def Slice.splitRegion (sl : Slice) (line : Nat) (sharers : BitVec 48) (e : DirEntry) : Slice :=
  { sl with regions := tset sl.regions (line / 16) { state := .p, sharers := sharers }
            lines := tset sl.lines line e }

/-- A reader's cluster is recorded as a sharer of a line: of one in T, whose holder reads it, where the holder's token is already
on its way home (R172, R178). -/
def Slice.addSharer (sl : Slice) (line cluster : Nat) (returning : Bool) : Slice :=
  let r := tgetD sl.regions (line / 16) {}
  let add (e : DirEntry) : DirEntry :=
    if e.state == .t then (if returning then { e with sharers := e.sharers ||| clusterBit cluster } else e)
    else { e with state := .s, sharers := e.sharers ||| clusterBit cluster }
  match r.state with
  | .p =>
    match tget? sl.lines line with
    | some e => { sl with lines := tset sl.lines line (add e) }
    | none => { sl with regions := tset sl.regions (line / 16) { r with sharers := r.sharers ||| clusterBit cluster } }
  | _ => { sl with regions := tset sl.regions (line / 16) (add r) }

/-- A token comes back to the home: the line or region that the holder had becomes shared by the holder's cluster, or
absent when its copies are dropped (R174, R178), but for what the cluster has read since it gave the token up (R172). A region that
another core asks about splits for that line. -/
def Slice.tokenBack (sl : Slice) (line : Nat) (h : Holder) (region keep split : Bool) : Slice :=
  let back (e : DirEntry) : DirEntry :=
    let left : BitVec 48 := e.sharers ||| if keep then clusterBit h.cluster else 0
    { state := if left == 0 then .i else .s, sharers := left }
  let r := tgetD sl.regions (line / 16) {}
  if region then
    if r.state == .t && r.holder == some h then
      if split then sl.splitRegion line (back r).sharers (back r)
      else { sl with regions := tset sl.regions (line / 16) (back r) }
    else sl
  else
    match tget? sl.lines line with
    | some e => if e.state == .t && e.holder == some h then { sl with lines := tset sl.lines line (back e) } else sl
    | none => sl

/-! ## Sectors of a slice (R157, R159, R171) -/

/-- The state of a sector: 0 I, 1 S, 2 D. -/
def Slice.sector (sl : Slice) (line q : Nat) : Nat := (tgetD sl.sectors line []).getD q 0

/-- A slice with a sector's state changed. -/
def Slice.setSector (sl : Slice) (line q v : Nat) : Slice :=
  let old := tgetD sl.sectors line [0, 0, 0, 0]
  { sl with sectors := tset sl.sectors line (lset old q v) }

/-- The line that leaves a slice's arrays for a line or a version line to come in, with its D sectors (R156, R157, R171, R185): none
where the line stands there or its set has a way free. A set has 16 ways, fewer by the version lines that stand in it. -/
def Slice.victim (sl : Slice) (line : Nat) (version : Bool := false) : Option (Nat × List Nat) :=
  if !version && (tget? sl.sectors line).isSome || sl.sectors.length + sl.versions.length < 16 then none
  else
    let set := Config.setIndex 0 line % 1024
    let same := sl.sectors.filter fun e => Config.setIndex 0 e.1 % 1024 == set
    let held := sl.versions.filter fun v => Config.setIndex 0 v.line % 1024 == set
    if same.length + held.length < 16 then none
    else (same[Config.victimWay 0 line same.length % max same.length 1]?).map fun v => (v.1, (List.range 4).filter fun q => v.2.getD q 0 == 2)

/-- The sectors in a slice's write queue WQ (R157). -/
def Slice.wq (sl : Slice) : Nat := sl.writes.length

/-- Whether WQ has no room for what a line would displace (R157). -/
def Slice.wqFull (sl : Slice) (line : Nat) : Bool :=
  match sl.victim line with
  | some v => v.2 != [] && sl.wq + v.2.length > 64
  | none => false

/-! ## Memory controllers (R156, R157, R160) -/

/-- A memory controller. -/
def State.controller (s : State) (mc : Nat) : Controller := tgetD s.controllers mc {}
def State.setController (s : State) (mc : Nat) (c : Controller) : State := { s with controllers := tset s.controllers mc c }

/-- The next sector that a slice writes, and the next that it reads, from a controller, of those that it has not sent there; a bypass read
waits for the write of its line that WQ holds (R159). A slice's writes to a controller go in their order. -/
def State.sliceAsks (s : State) (mc n : Nat) : Option DramRequest × Option DramRequest :=
  let sl := s.slice n
  let c := s.controller mc
  let sent := (c.writes.filter fun r => r.slice == n).length
  let w := (sl.writes.filter fun w => controllerOf (256 * w.1) == mc)[sent]?
  let fills := sl.misses.flatMap fun l =>
    let absent := (List.range 4).filter fun q => sl.sector l q == 0
    (if absent == [] then [0] else absent).map fun q => (l, q)
  let passing := (sl.bypass.filter fun b => !sl.writes.any fun w => w.1 == b.2.1).flatMap fun b => b.2.2.map fun q => (b.2.1, q)
  let r := (fills ++ passing).find? fun x => controllerOf (256 * x.1) == mc && !c.reads.any fun r => r.line == x.1 && r.sector == x.2
  let ask (x : Nat × Nat) : DramRequest := ⟨x.1, x.2, n, s.time, 0⟩
  (w.map ask, r.map ask)

/-- A controller with a sector's request taken, a write or a read, from the slice that its crossbar port served. It enters drain when it
holds 48 write entries (R160). -/
def Controller.take (c : Controller) (r : DramRequest) (write : Bool) : Controller :=
  let c := { c with pointer := (r.slice + 1) % 96, taken := c.taken + 1 }
  let r := { r with seq := c.taken }
  if write then { c with writes := c.writes ++ [r], drain := c.drain || c.writes.length ≥ 47 } else { c with reads := c.reads ++ [r] }

/-- A controller's crossbar port has one grant (R156): from the first slice from its pointer on that holds a sector's request for which it
has an entry free, of 64 for reads and 64 for writes (R160). DESIGN CHOICE: of a slice's write and read that are both pending, the write
crosses first where it has room (log entry 132). -/
def State.feedOnce (s : State) (mc : Nat) : Option State :=
  let c := s.controller mc
  let room (l : List DramRequest) (r : Option DramRequest) : Option DramRequest := r.filter fun _ => l.length < 64
  ((s.slices.filter fun e => c.pointer ≤ e.1) ++ s.slices.filter fun e => e.1 < c.pointer).findSome? fun (n, _) =>
    match room c.writes (s.sliceAsks mc n).1, room c.reads (s.sliceAsks mc n).2 with
    | some w, _ => some (s.setController mc (c.take w true))
    | none, some r => some (s.setController mc (c.take r false))
    | none, none => none

/-- A controller takes what the slices hold for it. -/
def State.feed (s : State) (mc : Nat) : Nat → State
  | 0 => s
  | fuel + 1 => match s.feedOnce mc with
    | some s' => s'.feed mc fuel
    | none => s

/-- Whether a controller holds no older request to the same sector (R160). -/
def Controller.mayIssue (c : Controller) (r : DramRequest) : Bool :=
  !(c.reads ++ c.writes).any fun x => x.line == r.line && x.sector == r.sector && x.seq < r.seq

/-- Whether a request's row is open in its bank. -/
def Controller.rowHit (c : Controller) (r : DramRequest) : Bool :=
  tget? c.rows (Config.dramRow r.line).1 == some (Config.dramRow r.line).2

/-- The request that goes first of two (R160): a row hit, where that counts, then the older, then the lower slice. -/
def Controller.before (c : Controller) (hits : Bool) (a b : DramRequest) : Bool :=
  if hits && c.rowHit a != c.rowHit b then c.rowHit a
  else if a.came != b.came then a.came < b.came
  else a.slice < b.slice

/-- The first of some requests. -/
def Controller.first (c : Controller) (hits : Bool) (l : List DramRequest) : Option DramRequest :=
  match l with
  | [] => none
  | r :: rest => some (rest.foldl (fun a b => if c.before hits b a then b else a) r)

/-- The request that a controller issues next, and whether it is a write (R160). -/
def Controller.next (c : Controller) (now : Nat) : Option (DramRequest × Bool) :=
  let old (l : List DramRequest) := l.filter fun r => r.came + 2 * usec < now && c.mayIssue r
  match c.first false (old c.reads), c.first false (old c.writes) with
  | some r, some w => some (if c.before false w r then (w, true) else (r, false))
  | some r, none => some (r, false)
  | none, some w => some (w, true)
  | none, none =>
    if c.drain then (c.first true (c.writes.filter c.mayIssue)).map fun w => (w, true)
    else (c.first true (c.reads.filter c.mayIssue)).map fun r => (r, false)

/-- A controller issues a request: its row is open from then on. It leaves drain when 16 or fewer write entries remain. -/
def Controller.issue (c : Controller) (r : DramRequest) (write : Bool) : Controller :=
  let c := { c with rows := tset c.rows (Config.dramRow r.line).1 (Config.dramRow r.line).2 }
  if write then
    let writes := c.writes.erase r
    { c with writes := writes, drain := c.drain && writes.length > 16 }
  else { c with reads := c.reads.erase r }

/-- A line's place in a slice's arrays is free for it, or for a version line of it: the line that stands there leaves, its D sectors
to DRAM. -/
def State.allocate (s : State) (n line : Nat) (version : Bool := false) : State :=
  let sl := s.slice n
  match sl.victim line version with
  | none => s
  | some (v, dirty) =>
    let sl := { sl with sectors := tdel sl.sectors v }
    if dirty == [] then s.setSlice n sl
    else (s.setSlice n { sl with writes := sl.writes ++ dirty.map fun q => (v, q) }).feed (controllerOf (256 * v)) 128

/-! ## Values -/

/-- The version lines of a task's epoch for a line at their home, the latest written first: the version ways, the displacement buffer,
the overflow map (R183). -/
def Slice.versionsAt (sl : Slice) (line task : Nat) (epoch : Bool) : List VersionLine :=
  (sl.versions ++ sl.displaced ++ sl.overflow).filter fun v => v.line == line && v.task == task && v.epoch == epoch

/-- A byte of a version, where its word is written. -/
def versionByte (mask : W64) (data : List Host.Cell) (off : Nat) : Option Byte :=
  if mask.getLsbD (off / 4) then some (cget data off) else none

/-- The byte that the version of a task's epoch has at its home. -/
def Slice.versionAt (sl : Slice) (line task : Nat) (epoch : Bool) (off : Nat) : Option Byte :=
  (sl.versionsAt line task epoch).findSome? fun v => versionByte v.mask v.data off

/-- Whether a task has a version of a line at its home. -/
def Slice.hasVersion (sl : Slice) (line task : Nat) : Bool :=
  (sl.versions ++ sl.displaced ++ sl.overflow).any fun v => v.line == line && v.task == task

/-- The version lines in the set of a line (R185). -/
def Slice.versionSet (sl : Slice) (line : Nat) : List VersionLine :=
  sl.versions.filter fun v => Config.setIndex 0 v.line % 1024 == Config.setIndex 0 line % 1024

/-- Whether a version line must wait for the displacement buffer of its home (R187). -/
def Slice.versionWaits (sl : Slice) (line task : Nat) (epoch : Bool) : Bool :=
  sl.displaced.length ≥ 8 && !(sl.versions.any fun v => v.line == line && v.task == task && v.epoch == epoch) &&
    (sl.versionSet line).length ≥ 4

/-- The write-throughs of a line in flight, oldest first: message, access and what it writes (R177). -/
def State.throughs (s : State) (line : Nat) : List (Nat × Nat × List (Nat × List Byte)) :=
  s.msgs.filterMap fun (id, m) => match m.kind with
    | .through acc l cells => if l == line then some (id, acc, cells) else none
    | _ => none

/-- The byte that an owned copy holds: the latest write-through in flight of the byte, else committed memory. -/
def State.ownedByte (s : State) (pa : Nat) : Byte :=
  (s.throughs (pa / 256)).foldl (fun b (_, _, cells) =>
    cells.foldl (fun b (p, bs) => if p ≤ pa && pa < p + bs.length then bs.getD (pa - p) 0 else b) b) (cget s.mem pa)

/-- The bytes that an owned copy holds. -/
def State.ownedRead (s : State) (pa n : Nat) : Nat := leNat ((List.range n).map fun i => s.ownedByte (pa + i))

/-- The bytes at the home for a reader of a task: its version's words, in the current epoch first, else committed
memory (R183). -/
def State.homeRead (s : State) (task : Option Nat) (pa n : Nat) : Nat :=
  let sl := s.slice (s.homeOf pa)
  let line := pa / 256
  leNat ((List.range n).map fun i =>
    let off := (pa + i) % 256
    let v := match task with
      | none => none
      | some t =>
        let e := (s.taskAt t).e
        (sl.versionAt line t e off).orElse fun _ => sl.versionAt line t (!e) off
    v.getD (cget s.mem (pa + i)))

/-- The state with committed bytes written, as their home applies a write: the sectors become D (R171, R176). -/
def State.homeStore (s : State) (pa : Nat) (bs : List Byte) : State :=
  let s := { s with mem := cwrite s.mem pa bs }
  let mark (s : State) (p : Nat) : State :=
    let n := s.homeOf p
    let s := s.allocate n (p / 256)
    s.setSlice n { ((s.slice n).setSector (p / 256) (p / 64 % 4) 2) with lastUse := s.time }
  (List.range ((pa + max bs.length 1 - 1) / 64 - pa / 64 + 1)).foldl (fun s i => mark s ((pa / 64 + i) * 64)) s

/-- The new value of an atomic's element (R388). -/
def atomNew (op : Nat) (w64 : Bool) (old c c2 : Nat) : Nat :=
  let w := if w64 then 64 else 32
  let sg (x : Nat) : Int := intVal true w x
  match op with
  | 0 => (old + c) % 2 ^ w
  | 1 => if sg old ≤ sg c then old else c
  | 2 => if sg old ≤ sg c then c else old
  | 3 => min old c
  | 4 => max old c
  | 5 => old &&& c
  | 6 => old ||| c
  | 7 => old ^^^ c
  | 8 => c
  | 9 => if old == c then c2 else old
  | _ => addM (if w64 then fp64 else fp32) old c

/-! ## Accesses -/

/-- The lines that a range of bytes touches. -/
def linesOf (pa n : Nat) : List Nat := (List.range ((pa + max n 1 - 1) / 256 - pa / 256 + 1)).map fun i => pa / 256 + i

/-- Whether two ranges of device memory meet. -/
def Loc.meets (a : Loc) (n : Nat) (b : Loc) (m : Nat) : Bool :=
  match a, b with
  | .dev p, .dev q => p < q + m && q < p + n
  | .host p, .host q => p < q + m && q < p + n
  | .peer d p, .peer e q => d == e && p < q + m && q < p + n
  | _, _ => false

/-- Whether an older access of the same group that is not performed yet meets an access (R232). -/
def State.olderMeets (s : State) (guid id : Nat) (loc : Loc) (n : Nat) : Bool :=
  s.accs.any fun (k, a) => k < id && a.guid == guid && a.space == .mem &&
    a.lanes.any fun x => !x.done && Loc.meets x.loc a.bytes loc n

/-- An access with its lanes changed. -/
def State.mapLanes (s : State) (acc : Nat) (f : LaneAcc → LaneAcc) : State :=
  { s with accs := tmod s.accs acc fun a => { a with lanes := a.lanes.map f } }

/-- Whether a lane's element lies in a line. -/
def LaneAcc.inLine (x : LaneAcc) (line : Nat) : Bool :=
  match x.loc with
  | .dev p => p / 256 == line
  | _ => false

/-- Whether a line of a range is in its slice's bad-line table, or a sector of it is poisoned (R161, R193). -/
def State.badRange (s : State) (pa n : Nat) : Bool :=
  (linesOf pa n).any fun l =>
    ((s.slice (s.homeOf (256 * l))).bad.any fun e => e.2.line == l) || s.poison.any fun q => q / 4 == l

/-- The lanes of an access in one line are applied to committed memory, in ascending lane order (R228, R389); an atomic reads
its line, and meets the error of a bad one (R193). -/
def State.applyLanes (s : State) (acc line : Nat) : State :=
  match tget? s.accs acc with
  | none => s
  | some a =>
    a.lanes.foldl (fun s x =>
      let lane (s : State) (f : LaneAcc → LaneAcc) : State := s.mapLanes acc fun y => if y.lane == x.lane then f y else y
      match x.loc with
      | .dev p =>
        if p / 256 != line || x.done then s
        else
          match a.op with
          | .load => s
          | .store => lane (s.homeStore p (leBytes a.bytes x.data)) fun y => { y with done := true }
          | .atom op w64 =>
            if s.badRange p a.bytes then lane s fun y => { y with done := true, err := 1 }
            else
              let old := leNat (cread s.mem p a.bytes)
              lane (s.homeStore p (leBytes a.bytes (atomNew op w64 old x.data x.data2))) fun y =>
                { y with done := true, got := some old }
      | _ => s) s

/-- A group in a slot, by its number. -/
def State.groupKey? (s : State) (guid : Nat) : Option Nat := (s.groups.find? fun e => e.2.uid == guid).map fun e => e.1

/-- The state with the group of a number changed, where it is resident or its team's save holds it. -/
def State.modGroup (s : State) (guid : Nat) (f : Group → Group) : State :=
  match s.groupKey? guid with
  | some k => { s with groups := tmod s.groups k f }
  | none =>
    match s.teams.find? fun e => e.2.kept.any fun x => x.2.uid == guid with
    | some (k, t) =>
      s.setTeam k { t with kept := tmap t.kept fun _ g => if g.uid == guid then f g else g }
    | none => s

/-- A group's park count starts, once it waits in WAITANY with no result outstanding (R109). -/
def Group.notePark (g : Group) (now : Nat) : Group :=
  let waits := g.split.any fun e => match e.2.wait with | .event _ => true | _ => false
  if waits && g.parkSince.isNone && g.ldcnt == 0 && g.stcnt == 0 && g.pendRegs == [] then
    { g with parkSince := some (g.outs.foldl (fun a w => w.avail.foldl max a) now) }
  else g

/-- A store or an atomic without return that has performed every lane and has its completions and acknowledgements leaves STCNT
(R229). -/
def State.leaveStore (s : State) (acc : Nat) : State :=
  match tget? s.accs acc with
  | none => s
  | some a =>
    let coming := s.msgs.any fun e => match e.2.kind with | .completion b _ => b == acc | _ => false
    if !a.ldc && a.acks == 0 && !coming && a.lanes.all fun x => x.done then
      { (s.modGroup a.guid fun g => { g with stcnt := g.stcnt - 1 }.notePark s.time) with accs := tdel s.accs acc }
    else s

/-! ## Recalls -/

/-- A write-through is applied on arrival at its home, which acknowledges it (R177). -/
def State.applyThrough (s : State) (id acc line core : Nat) (cells : List (Nat × List Byte)) : State :=
  let s := cells.foldl (fun s (p, bs) => s.homeStore p bs) s
  (s.dropMsg id).send (.throughAck acc line) core (s.homeOf (256 * line)) false

/-- Every write-through of a line in flight reaches its home. -/
def State.drainLine (s : State) (line : Nat) : State :=
  s.msgs.foldl (fun s (id, m) => match m.kind with
    | .through acc l cells => if l == line then s.applyThrough id acc line m.core cells else s
    | _ => s) s

/-- Every copy of a line in the L1s of a cluster is dropped, but in the L1 of an exempt core (R176). -/
def State.dropCopies (s : State) (cluster line : Nat) (region : Bool) (exempt : Option Nat) : State :=
  (List.range 8).foldl (fun s i =>
    let n := 8 * cluster + i
    let spared := match exempt with
      | some e => if (s.cluster cluster).fused then e / 8 == cluster else e == n
      | none => false
    if spared then s
    else s.l1Drop n fun x => x.committed && (if region then x.line / 16 == line / 16 else x.line == line)) s

/-- The line is brought home for a reader or a writer of the base die: its slice wakes (R85), the holder's writes are drained, its
token comes back, with no split, which R174 gives for a core's request, and for a writer every copy is dropped. -/
def State.settleLine (s : State) (line : Nat) (write : Bool) : State :=
  let home := s.homeOf (256 * line)
  let s := (s.rouseSlice home).drainLine line
  let sl := s.slice home
  let e := sl.dir line
  let region := (tgetD sl.regions (line / 16) {}).state == .t
  let s := match e.state, e.holder with
    | .t, some h =>
      let s := h.cores.foldl (fun s n =>
        s.l1Map n (fun x => x.committed && (if region then x.line / 16 == line / 16 else x.line == line))
          fun x => { x with kind := .clean }) s
      let s := if region then (List.range 16).foldl (fun s i => s.drainLine (line / 16 * 16 + i)) s else s
      s.setSlice home ((s.slice home).tokenBack line h region true false)
    | _, _ => s
  if !write then s
  else
    let sl := s.slice home
    let e := sl.dir line
    let s := (sharersOf e.sharers).foldl (fun s c => s.dropCopies c line false none) s
    let sl := s.slice home
    if (tgetD sl.regions (line / 16) {}).state == .p && (tget? sl.lines line).isSome then
      s.setSlice home { sl with lines := tset sl.lines line {} }
    else s

/-! ## Accesses of the units of the base die (R85, R155 to R160) -/

/-- Whether the home of a line is being moved (R155). -/
def State.moving (s : State) (line : Nat) : Bool := s.pinBusy && s.pinMove.any fun r => r.1 ≤ line / 16 && line / 16 ≤ r.2

/-- Whether an access waits because the home of one of its lines is being moved (R155). -/
def State.rangeMoving (s : State) (pa n : Nat) : Bool := s.pinBusy && (linesOf pa n).any s.moving

/-- Whether a directory entry is being freed: a region's, or a line's. -/
def Slice.freeing (sl : Slice) (line : Nat) (region : Bool) : Bool :=
  ((tget? sl.busy line).bind fun b => b.free) == some region

/-- A retained slice wakes for the first message that reaches it (R85). -/
def State.wakeSlice (s : State) (slice : Nat) : State :=
  let sl := s.slice slice
  match sl.wakeAt with
  | some _ => s
  | none => s.setSlice slice { sl with wakeAt := some (s.time + 600 * bclk) }

/-- Whether a read of a range passes a full set of miss registers by as a bypass read (R159), whose write, where WQ holds one of the line,
has been acknowledged. -/
def Slice.bypasses (sl : Slice) (line : Nat) : Bool := sl.misses.length ≥ 128 && !sl.writes.any fun w => w.1 == line

/-- The absent sectors of a line that an access to a range must have there: those that it reads, or writes in part. -/
def Slice.absent (sl : Slice) (line pa n : Nat) (write : Bool) : List Nat :=
  (List.range 4).filter fun q =>
    let at' := 256 * line + 64 * q
    at' < pa + n && pa < at' + 64 && !(write && pa ≤ at' && at' + 64 ≤ pa + n) && sl.sector line q == 0

/-- Whether a slice has an Avenue arrival that it takes before a request from the crossbar (R158). -/
def State.avenueFirst (s : State) (slice : Nat) : Bool :=
  s.msgs.any fun (_, m) => m.toSlice && m.avenue && m.slice == slice && m.stage == .arrived &&
    match m.kind with
    | .version _ | .hostAcc _ => false
    | _ => true

/-- What an access of a unit to the bytes of a range that lie in a line waits for, if for anything. -/
def State.lacks (s : State) (pa n : Nat) (write : Bool) (line : Nat) : Option Lack :=
  let home := s.homeOf (256 * line)
  let sl := s.slice home
  if sl.retained then some (.wake home)
  else if s.avenueFirst home || s.moving line || (tget? sl.busy line).isSome || sl.freeing (line / 16 * 16) true || tgetD sl.waiting line [] != [] then some .pass
  else if sl.absent line pa n write != [] && (write || !sl.bypasses line) then some (.fill home line)
  else none

/-- An access of a unit reaches a range: where the unit can wait (`State.attempt`), what it waits for is noted. -/
def State.reach (s : State) (pa n : Nat) (write : Bool) : State :=
  match s.needs with
  | none => s
  | some l => { s with needs := some (l ++ (linesOf pa n).filterMap (s.lacks pa n write)) }

/-- A unit that can wait waits for something that passes. -/
def State.hold (s : State) : State := { s with needs := s.needs.map fun l => l ++ [.pass] }

/-- A unit's access that must wait has what it waits for begun: a slice wakes (R85), an allocating miss takes a miss register, and the
line is busy with it (R158, R159). -/
def State.begin (s : State) (payer : Option Nat) (n : Lack) : State :=
  match n with
  | .wake k => if (s.slice k).retained then s.wakeSlice k else s
  | .fill k line =>
    let sl := s.slice k
    if (tget? sl.busy line).isSome || sl.misses.length ≥ 128 || sl.wqFull line then s
    else
      let s := s.allocate k line
      let sl := s.slice k
      (s.setSlice k { sl with misses := sl.misses ++ [line], lastUse := s.time
                              busy := tset sl.busy line { msg := none, tokens := [], invs := [], payer := payer } }).feed (controllerOf (256 * line)) 128
  | .pass => s

/-- Whether what an event has done leaves a slice's WQ over its 64 entries that held some before (R157). -/
def State.overfills (s t : State) : Bool := s.slices.any fun (k, sl) => sl.wq != 0 && sl.wq < (t.slice k).wq && (t.slice k).wq > 64

/-- An event of a unit of the base die takes place once everything that its accesses need is there: until then it only has that begun. -/
def State.attempt (s : State) (payer : Option Nat) (f : State → State) : State :=
  let t := f { s with needs := some [] }
  match t.needs with
  | some (n :: l) => (n :: l).foldl (fun s x => s.begin payer x) s
  | _ => if s.overfills t then s else { t with needs := none }

/-- Committed bytes are read at their home by a unit of the base die (R241). -/
def State.readNow (s : State) (pa n : Nat) : State × List Byte :=
  let s := (linesOf pa n).foldl (fun s l => s.settleLine l false) (s.reach pa n false)
  (s, cread s.mem pa n)

/-- A range's lines come home for a writer of the base die. -/
def State.claimRange (s : State) (pa n : Nat) : State := (linesOf pa n).foldl (fun s l => s.settleLine l true) (s.reach pa n true)

/-- Bytes are written at their home as a direct store by a unit of the base die (R182). -/
def State.writeNow (s : State) (pa : Nat) (bs : List Byte) : State := (s.claimRange pa bs.length).homeStore pa bs

/-! ## Serving a request at its home (R158, R159, R174, R176) -/

/-- The version lines of a task for a line that are on their way to its home, the latest sent first. -/
def State.versionsFlying (s : State) (task line : Nat) : List VersionLine :=
  (s.msgs.filterMap fun (_, m) => match m.kind with
    | .version v => if v.task == task && v.line == line then some v else none
    | _ => none).reverse

/-- The byte that the version lines of a task give near a core (R183): in its L1, the current epoch first, or on their way home. -/
def State.nearVersion (s : State) (core task pa : Nat) : Option Byte :=
  let e := (s.taskAt task).e
  let at' (k : VKey) : Option Byte := (s.versionOf core (pa / 256) k).bind fun x => match x.kind with
    | .version _ m => versionByte m x.data (pa % 256)
    | _ => none
  ((at' ⟨task, e⟩).orElse fun _ => at' ⟨task, !e⟩).orElse fun _ =>
    (s.versionsFlying task (pa / 256)).findSome? fun v => versionByte v.mask v.data (pa % 256)

/-- A load's element as it is performed (R183, R234, R240): of each byte, what its task's version lines near its core hold at that
moment, unless it is uncached, else what its home holds. -/
def State.laneRead (s : State) (a : Access) (x : LaneAcc) (pa : Nat) : Nat :=
  leNat ((List.range a.bytes).map fun i =>
    ((if x.nc then none else s.nearVersion a.core a.task (pa + i)).getD (BitVec.ofNat 8 (s.homeRead (some a.task) (pa + i) 1))))

/-- The lanes of a read in one line get their values (R183); a line of the bad-line table gives an
uncorrectable error (R193). -/
def State.fillLanes (s : State) (acc line : Nat) : State :=
  match tget? s.accs acc with
  | none => s
  | some a =>
    let bad := s.badRange (256 * line) 256
    s.mapLanes acc fun x =>
      if x.done || !x.inLine line then x
      else match x.loc with
        | .dev p => { x with done := true, err := if bad then 1 else 0, got := some (s.laneRead a x p) }
        | _ => x

/-- The sectors that an access names in a line. -/
def Access.sectors (a : Access) (line : Nat) : List Nat :=
  (a.lanes.filterMap fun x => match x.loc with
    | .dev p => if p / 256 == line && !x.done then some (p / 64 % 4) else none
    | _ => none).eraseDups

/-- A request takes hold of its line (R158). -/
def State.setBusy (s : State) (home line : Nat) (b : Option Busy) : State :=
  let sl := s.slice home
  s.setSlice home { sl with busy := match b with | some b => tset sl.busy line b | none => tdel sl.busy line }

/-- The holder of a token that a request from a core must recall. -/
def Slice.recallFrom (sl : Slice) (line : Nat) (mine : Option Holder) : Option (Holder × Bool) :=
  let e := sl.dir line
  match e.state, e.holder with
  | .t, some h => if some h == mine then none else some (h, (tgetD sl.regions (line / 16) {}).state == .t)
  | _, _ => none

/-- The clusters that a write must invalidate (R176). -/
def Slice.invalidate (sl : Slice) (line : Nat) : List Nat :=
  let e := sl.dir line
  if e.state == .s then sharersOf e.sharers else []

/-- The directory after a write request has been applied (R176 step 4, R174): without a grant the requester's cluster stays a sharer
where it was one, since its Inv exempted the requesting core (R172). -/
def Slice.afterWrite (sl : Slice) (line cluster : Nat) (h : Holder) (grant : Bool) : Slice :=
  let r := tgetD sl.regions (line / 16) {}
  let own := clusterBit cluster
  let mine : DirEntry := { state := .t, holder := some h }
  match r.state with
  | .t => sl
  | .p =>
    if grant then { sl with lines := tset sl.lines line mine }
    else
      let kept := (sl.dir line).sharers &&& own
      { sl with lines := tset sl.lines line { state := if kept == 0 then .i else .s, sharers := kept } }
  | _ =>
    if !grant then sl
    else if r.sharers &&& ~~~ own == 0 then { sl with regions := tset sl.regions (line / 16) mine }
    else sl.splitRegion line r.sharers mine

/-- Whether a granted token would cover the whole region (R176 step 4). -/
def Slice.grantsRegion (sl : Slice) (line cluster : Nat) : Bool :=
  let r := tgetD sl.regions (line / 16) {}
  r.state != .p && (r.sharers &&& ~~~ (clusterBit cluster)) == 0

/-! ## Room in the directory (R172, R174) -/

/-- The line at which an entry of the directory is busy while it is freed. -/
def entryLine (region : Bool) (key : Nat) : Nat := if region then 16 * key else key

/-- Whether a line of an entry is busy. -/
def Slice.entryBusy (sl : Slice) (region : Bool) (key : Nat) : Bool :=
  sl.busy.any fun b => if region then b.1 / 16 == key else b.1 == key || b.1 == key / 16 * 16 && sl.freeing b.1 true

/-- Where an entry that a request needs stands in a full set of 16 ways: whether the set is full, and the entry to free, where one of
the set is not busy (R172, R174). There are 2,048 sets of region entries and 512 of line entries. A line for whose request a region's token is
being recalled will have an entry, and counts. -/
def Slice.fullSet (sl : Slice) (region : Bool) (key : Nat) : Bool × Option Nat :=
  let keys := if region then tkeys sl.regions fun _ e => e.state != .i else
    (tkeys sl.lines fun _ _ => true) ++ tkeys sl.busy fun l b =>
      l != key && b.tokens != [] && b.free.isNone && (tgetD sl.regions (l / 16) {}).state == .t
  if keys.length < 16 then (false, none)
  else
    let sets := if region then 2048 else 512
    let which := if region then 4 else 5
    let same := keys.filter fun k => Config.setIndex which k % sets == Config.setIndex which key % sets
    if same.length < 16 then (false, none)
    else
      let can := same.filter fun k => !sl.entryBusy region k
      (true, can[Config.victimWay which key can.length % max can.length 1]?)

/-- The entry that a request of a core must wait for, and whether it is a region's: the request needs one that the directory does not
hold, in a full set (R174). -/
def Slice.needsRoom (sl : Slice) (line cluster : Nat) (mine : Holder) (isWrite token : Bool) : Option (Bool × Option Nat) :=
  let r := tgetD sl.regions (line / 16) {}
  if r.state == .i && token then
    let x := sl.fullSet true (line / 16)
    if x.1 then some (true, x.2) else none
  else
    let splits := match r.state with
      | .i => false
      | .t => r.holder != some mine
      | .s => isWrite && token && (r.sharers &&& ~~~ clusterBit cluster) != 0
      | .p => isWrite && (tget? sl.lines line).isNone
    if splits then
      let x := sl.fullSet false line
      if x.1 then some (false, x.2) else none
    else none

/-- An entry is freed (R174): the last line entry of a region takes it back to S or I. -/
def Slice.dropEntry (sl : Slice) (line : Nat) (region : Bool) : Slice :=
  let sl := { sl with busy := tdel sl.busy line }
  if region then { sl with regions := tdel sl.regions (line / 16) }
  else
    let sl := { sl with lines := tdel sl.lines line }
    let r := tgetD sl.regions (line / 16) {}
    if r.state != .p || sl.lines.any fun e => e.1 / 16 == line / 16 then sl
    else if r.sharers == 0 then { sl with regions := tdel sl.regions (line / 16) }
    else { sl with regions := tset sl.regions (line / 16) { r with state := .s } }

/-- The home frees an entry for capacity (R174): it recalls the token with FwdInv, invalidates every sharer, and waits for their
answers. A region in P first loses its line entries. -/
def State.freeEntry (s : State) (home : Nat) (region : Bool) (key : Nat) : State :=
  let one (s : State) (region : Bool) (key : Nat) : State :=
    let sl := s.slice home
    let line := entryLine region key
    let e := if region then tgetD sl.regions key {} else tgetD sl.lines key {}
    let tokens := if e.state == .t then e.holder.toList else []
    let invs := if e.state == .t then [] else sharersOf e.sharers
    if tokens == [] && invs == [] then s.setSlice home (sl.dropEntry line region)
    else
      let s := s.setSlice home { sl with busy := tset sl.busy line { msg := none, tokens := tokens, invs := invs, invSent := tokens == [], free := some region } }
      let s := tokens.foldl (fun s h => s.send (.recall line region true) (h.cores.headD 0) home false) s
      invs.foldl (fun s c => s.send (.inv line region none) (8 * c) home false) s
  let split := if region then tkeys (s.slice home).lines fun l _ => l / 16 == key else []
  if split != [] then split.foldl (fun s l => one s false l) s else one s region key

/-- A request waits behind others of its line, until the line frees (R158). -/
def State.deferLine (s : State) (home id line : Nat) : State :=
  let sl := s.slice home
  { (s.setSlice home { sl with waiting := tset sl.waiting line (tgetD sl.waiting line [] ++ [id]) }) with
    msgs := tmod s.msgs id fun m => { m with stage := .waiting } }

/-! ## The pipeline's service of a request -/

/-- Whether a cluster is fenced or cut off (R17, R195). -/
def State.fencedOff (s : State) (c : Nat) : Bool := s.power.fenced.getLsbD (chipOf c) || s.power.cutOff.getLsbD c

/-- The home answers an access. To a fenced cluster, whose accepted requests are still served (R195 step 2), nothing goes: the access is
forgotten with the last of its messages. -/
def State.reply (s : State) (avenue : Bool) (kind : MsgKind) (acc core home : Nat) : State :=
  if s.fencedOff (core / 8) then
    if s.msgs.any fun e => e.2.kind.access? == some acc then s else { s with accs := tdel s.accs acc }
  else s.sendOn avenue kind core home false

/-- Whether a version line of an L1 cannot leave, because the displacement buffer of its home is full (R187). -/
def State.versionStays (s : State) (x : L1Line) : Bool :=
  match x.kind with
  | .version k _ => (s.slice (s.homeOf (256 * x.line))).versionWaits x.line k.task k.epoch
  | _ => false

/-- Whether a line's place in an L1 is held by a version line that cannot leave (R187). -/
def State.placeStays (s : State) (core line : Nat) : Bool :=
  match s.setOf core line with
  | (_, some _) => false
  | (same, none) => match oldestUsed same with | some v => s.versionStays v | none => false

/-- A read goes on to wait for its data from DRAM without a place in the slice (R159): its value stands now, as the pipeline takes it. -/
def State.startBypass (s : State) (home id acc line cluster : Nat) : State :=
  let sl := s.slice home
  let lacking := (((tget? s.accs acc).map fun a => a.sectors line).getD []).filter fun q => sl.sector line q == 0
  let s := s.setSlice home { (if s.fencedOff cluster then sl else sl.addSharer line cluster false) with bypass := sl.bypass ++ [(id, line, lacking)] }
  let s := if sl.writes.any fun w => w.1 == line then s.tally (384 + home) 5 1 else s
  let s := s.mapLanes acc fun x => match x.loc, tget? s.accs acc with
    | .dev p, some a => if p / 256 == line && !x.done then { x with got := some (s.laneRead a x p) } else x
    | _, _ => x
  { s with msgs := tmod s.msgs id fun m => { m with stage := .waiting } }.feed (controllerOf (256 * line)) 128

/-- A read is served (R174, R183): its lanes take their values, the L1 a clean copy where the page may be cached, and the data goes
to the cluster on the Avenue; a fenced cluster is named no sharer (R195 step 3). -/
def State.serveRead (s : State) (home id acc line core : Nat) (a : Access) : State :=
  let nc := s.fencedOff (core / 8) || a.lanes.any fun x => x.nc && x.inLine line
  let qs := a.sectors line
  let s := s.fillLanes acc line
  let returning := s.returning core line ((tgetD (s.slice home).regions (line / 16) {}).state == .t)
  let s := if nc then s
    else qs.foldl (fun s q => s.installClean core line q) (s.setSlice home ((s.slice home).addSharer line (core / 8) returning))
  ((s.dropMsg id).setBusy home line none).reply true (.data acc line (64 * qs.length)) acc core home

/-- The grid that an access's team belongs to. -/
def State.gridOf (s : State) (acc : Nat) : Option Nat := (tget? s.accs acc).map fun a => (s.teamAt a.team).grid

/-- A charge to the accounts of an access's grid (R114). -/
def State.chargeAcc (s : State) (acc res n : Nat) : State :=
  match s.gridOf acc with
  | some g => s.charge g res n
  | none => s

/-- A write is applied, and charged as DRAM bytes where it is uncached (R114), its token granted where it asks for one, and its
requester answered (R176 steps 3 to 5): on the Avenue where the answer carries data, on the mesh otherwise (R143). A fenced cluster is
granted nothing (R195 step 3). -/
def State.serveWrite (s : State) (home id acc line core : Nat) (grant : Bool) : State :=
  let grant := grant && !s.fencedOff (core / 8)
  let uncached := match tget? s.accs acc with
    | some a => (a.lanes.filter fun x => x.nc && !x.done && x.inLine line).length * a.bytes
    | none => 0
  let data := grant || ((tget? s.accs acc).map fun a => a.ldc).getD false
  let s := (s.chargeAcc acc 3 uncached).applyLanes acc line
  let s := s.setSlice home ((s.slice home).afterWrite line (core / 8) (s.holderOf core) grant)
  let s := if grant then
      let s := (List.range 4).foldl (fun s q => s.installClean core line q) s
      s.l1Map (s.l1Core core line) (fun x => x.line == line && x.committed) fun x => { x with kind := .owned }
    else s
  ((s.dropMsg id).setBusy home line none).reply data (.completion acc line) acc core home

/-- The home goes on with the request that holds a line: it makes room in the directory (R174), brings in the sectors it needs
(R159), recalls the token (R174, R176 step 1), invalidates sharers (step 2), then reads or applies the write (step 3), grants the
token (step 4) and answers (step 5). Where it must wait, the line stays busy; where the copy it brings would displace a version line
that cannot leave its L1 it is taken later (R187). -/
def State.serveHome (s : State) (id : Nat) : State :=
  match tget? s.msgs id with
  | none => s
  | some m =>
    let go (acc line : Nat) (isWrite wt : Bool) : State :=
      let home := s.homeOf (256 * line)
      match tget? s.accs acc with
      | none => (s.dropMsg id).setBusy home line none
      | some a =>
        let s := s.setSlice home { s.slice home with lastUse := s.time }
        let sl := s.slice home
        let b : Busy := (tget? sl.busy line).getD { msg := some id, tokens := [], invs := [] }
        let mine := s.holderOf m.core
        let cached := if isWrite then wt else !(a.lanes.any fun x => x.nc && x.inLine line)
        let needs := (a.sectors line).filter fun q => sl.sector line q == 0
        if cached && (s.copyOf m.core line).isNone && s.placeStays m.core line then (s.setBusy home line none).deferLine home id line
        else
        match sl.needsRoom line (m.core / 8) mine isWrite cached with
        | some (region, some key) => ((s.setBusy home line none).freeEntry home region key).deferLine home id line
        | some (_, none) => (s.setBusy home line none).deferLine home id line
        | none =>
          if needs != [] then
            if sl.misses.contains line then s.setBusy home line (some b)
            else if sl.misses.length < 128 then
              if sl.wqFull line then (s.setBusy home line none).deferLine home id line
              else
                let s := s.allocate home line
                let sl := s.slice home
                ((s.setSlice home { sl with misses := sl.misses ++ [line] }).setBusy home line (some b)).feed (controllerOf (256 * line)) 128
            else if !isWrite && (sl.recallFrom line none).isNone && !sl.hasVersion line a.task then
              s.startBypass home id acc line (m.core / 8)
            else { s with msgs := tmod s.msgs id fun m => { m with stage := .waiting } }.setBusy home line (some b)
          else
            match sl.recallFrom line (some mine) with
            | some (h, region) =>
              if b.tokens.contains h then s.setBusy home line (some b)
              else
                (s.setBusy home line (some { b with tokens := b.tokens ++ [h] })).send
                  (.recall line region (isWrite && !region)) (h.cores.headD 0) home false
            | none =>
              if !isWrite then s.serveRead home id acc line m.core a
              else
                let targets := sl.invalidate line
                if b.invSent && b.invs == [] || targets == [] && b.invs == [] then s.serveWrite home id acc line m.core wt
                else if b.invSent then s.setBusy home line (some b)
                else
                  let region := wt && sl.grantsRegion line (m.core / 8)
                  let s := s.setBusy home line (some { b with invs := targets, invSent := true })
                  targets.foldl (fun s c => s.send (.inv line region (some m.core)) (8 * c) home false) s
    match m.kind with
    | .read acc line => go acc line false false
    | .write acc line wt => go acc line true wt
    | _ => s

/-- What holds a busy line goes on, once an answer that it waits for has come: its request is served (R176), or the directory entry
freed (R174), once what its holder has read since it gave the token up is invalidated too (R172). -/
def State.goOn (s : State) (slice line : Nat) : State :=
  match tget? (s.slice slice).busy line with
  | none => s
  | some b =>
    match b.free, b.msg with
    | some region, _ =>
      let sl := s.slice slice
      let left := sharersOf (if region then tgetD sl.regions (line / 16) {} else tgetD sl.lines line {}).sharers
      if b.tokens != [] || b.invs != [] then s
      else if b.invSent || left == [] then s.setSlice slice (sl.dropEntry line region)
      else left.foldl (fun s c => s.send (.inv line region none) (8 * c) slice false)
        (s.setBusy slice line (some { b with invs := left, invSent := true }))
    | none, some id => s.serveHome id
    | none, none => s

/-- Whether a message has arrived and nothing that must come before it is on its way. -/
def State.ready (s : State) (id : Nat) (m : Msg) : Bool := m.stage == .arrived && s.pathClear id m

/-- A request reaches its home (R158): a range whose home moves waits (R155), and a busy line, or one that others wait for, takes it
to its wait list. -/
def State.admitLine (s : State) (id line : Nat) : State :=
  let home := s.homeOf (256 * line)
  let sl := s.slice home
  if s.moving line then s
  else if (tget? sl.busy line).isSome || sl.freeing (line / 16 * 16) true || tgetD sl.waiting line [] != [] then s.deferLine home id line
  else s.serveHome id

/-! ## Versions (R182 to R187) -/

/-- The bytes of a store are merged into a version line: the words they touch are marked (R182, R184). -/
def mergeVersion (mask : W64) (data : List Host.Cell) (off : Nat) (bs : List Byte) (under : Nat → Byte) :
    W64 × List Host.Cell :=
  let words := (List.range ((off + max bs.length 1 - 1) / 4 - off / 4 + 1)).map fun i => off / 4 + i
  let data := words.foldl (fun d w =>
    if mask.getLsbD w then d else (List.range 4).foldl (fun d i => cset d (4 * w + i) (under (4 * w + i))) d) data
  (words.foldl (fun m w => m ||| BitVec.ofNat 64 (2 ^ w)) mask, cwrite data off bs)

/-- A versioned store of one element (R182): the current epoch's version line takes it; one of the other epoch is
written home first. A new version line takes what the L1's clean or owned copy holds. DEDUCED: the bytes so taken serve the words that a
store touches in part; a word that no store touches is read as R183 orders, and so is never stale (log entry 133). -/
def State.versionedStore (s : State) (core task pa : Nat) (bs : List Byte) : State :=
  let line := pa / 256
  let e := (s.taskAt task).e
  let n := s.l1Core core line
  let s := match s.versionOf core line ⟨task, !e⟩ with
    | some x => s.evictLine n x
    | none => s
  let under (off : Nat) : Byte :=
    let at' := 256 * line + off
    match (s.versionsFlying task line).findSome? fun v => versionByte v.mask v.data off with
    | some b => b
    | none =>
      if (s.copyOf core line).isSome && !(s.slice (s.homeOf at')).hasVersion line task then s.ownedByte at'
      else BitVec.ofNat 8 (s.homeRead (some task) at' 1)
  match s.versionOf core line ⟨task, e⟩ with
  | some x =>
    match x.kind with
    | .version k mask =>
      let r := mergeVersion mask x.data (pa % 256) bs under
      s.l1Map n (fun y => y.line == line && y.kind == x.kind) fun y =>
        { y with kind := .version k r.1, data := r.2, used := s.time }
    | _ => s
  | none =>
    let r := mergeVersion 0 [] (pa % 256) bs under
    s.installLine core { line := line, kind := .version ⟨task, e⟩ r.1, valid := 15, data := r.2, unit := 0, used := s.time }

/-- Whether a versioned store waits for a version line that cannot leave the L1 (R187): its line's of the other epoch, or the one whose
place a new version line would take. -/
def State.storeWaits (s : State) (core task pa : Nat) : Bool :=
  let line := pa / 256
  let e := (s.taskAt task).e
  (match s.versionOf core line ⟨task, !e⟩ with | some x => s.versionStays x | none => false) ||
    ((s.versionOf core line ⟨task, e⟩).isNone && s.placeStays core line)

/-- Whether another group's write-through of a word from an L1 is still unacknowledged: a reader of the L1 waits for it (R179). -/
def State.foreignWrite (s : State) (core guid pa n : Nat) : Bool :=
  s.msgs.any fun (_, m) => match (match m.kind with
      | .through acc l _ | .throughAck acc l => if l == pa / 256 then tget? s.accs acc else none
      | _ => none) with
    | some a => s.holderOf a.core == s.holderOf core && a.guid != guid && a.lanes.any fun y => Loc.meets y.loc a.bytes (.dev (pa / 4 * 4)) (max n 4)
    | none => false

/-- The value that an L1 holds of an element for a reader, or none where it must wait or go home (R175, R179, R183): the words of
its task's version lines, else a clean or owned copy's sector. -/
def State.l1Read (s : State) (core guid task pa n : Nat) : Option Nat :=
  let line := pa / 256
  let near := (List.range n).map fun i => s.nearVersion core task (pa + i)
  let value (under : Nat → Byte) : Nat := leNat (near.zipIdx.map fun (b, i) => b.getD (under (pa + i)))
  if near.all Option.isSome then some (value fun _ => 0)
  else if (s.slice (s.homeOf pa)).hasVersion line task || s.versionsFlying task line != [] then none
  else
    match s.copyOf core line with
    | none => none
    | some c => if !c.valid.testBit (pa / 64 % 4) || s.foreignWrite core guid pa n then none else some (value s.ownedByte)

end Sys2Proof.Machine
end

