-- ==== Sys2Proof/Machine/Device.lean ====
section
/-! DEFINITION. Operations of the device that several steps share: page tables and TLBs (R268 to R273), event counters
and accounts (R96, R114), host records and MSI-X (R57 to R60), completion of grids and records (R70), aborts and
discards (R104, R141, R191), and the commit request (R188, R189). -/
namespace Sys2Proof.Machine

/-! ## Translation (R268 to R273) -/

/-- What a walk finds (R272). -/
inductive WalkResult where
  | fault
  | malformed
  | leaf (e : TlbEntry) (pte : Nat)
  deriving DecidableEq, Repr

/-- Whether a virtual address is host-managed in a context (R55). -/
def Context.hostManaged (c : Context) (va : Nat) : Bool :=
  fld c.hbase.toNat 51 12 ≤ va / 4096 && va / 4096 ≤ fld c.hlim.toNat 51 12

/-- The translation of a leaf of level `lv` with value `pte` for an address (R269, R270). -/
def leafOf (ctx va lv pte : Nat) : Option TlbEntry :=
  let size := fld pte 10 9
  let ok := match lv with
    | 1 => size ≤ 1
    | 2 => size == 2
    | 3 => size == 3
    | _ => false
  let pageBits := match size with | 0 => 12 | 1 => 16 | 2 => 21 | _ => 30
  let pa := fld pte 49 12 * 4096
  let peer := pte.testBit 6
  if !ok || pa % 2 ^ pageBits != 0 || (!peer && pa + 2 ^ pageBits > memTop) then none
  else some { ctx := ctx, vpage := va / 2 ^ pageBits, size := pageBits, pa := pa, w := pte.testBit 1, x := pte.testBit 2
              d := pte.testBit 3, nc := pte.testBit 4, pin := pte.testBit 5, peer := peer
              devid := BitVec.ofNat 14 (fld pte 63 50), m := pte.testBit 8, ats := false, used := 0 }

/-- The walk of the levels from `lv` down, from a table base, with memory as committed at its homes (R269, R272). -/
def State.walkFrom (s : State) (ctx va : Nat) (base : Nat) : Nat → WalkResult
  | 0 => .malformed
  | lv + 1 =>
    let index := if lv == 3 then fld va 51 39 else fld va (12 + 9 * lv + 8) (12 + 9 * lv)
    let at' := base + 8 * index
    let pte := cnat s.mem at' 8
    if !pte.testBit 0 then .fault
    else
      let size := fld pte 10 9
      if lv == 0 || size != 0 then
        if lv == 3 then .malformed
        else match leafOf ctx va (lv + 1) pte with
          | some e => .leaf e at'
          | none => .malformed
      else s.walkFrom ctx va (fld pte 49 12 * 4096) lv

/-- The walk of a context's table for an address (R269). -/
def State.walk (s : State) (ctx va : Nat) : WalkResult :=
  s.walkFrom ctx va (fld (s.ctxAt ctx).ptb.toNat 49 16 * 65536) 4

/-- Whether an entry translates an address of a context. -/
def TlbEntry.covers (e : TlbEntry) (ctx va : Nat) : Bool := e.ctx == ctx && e.vpage == va / 2 ^ e.size

/-- The physical or host address that an entry gives. -/
def TlbEntry.target (e : TlbEntry) (va : Nat) : Nat := e.pa + va % 2 ^ e.size

/-- The location that an entry gives an address (R37, R227, R277). -/
def TlbEntry.loc (e : TlbEntry) (va : Nat) : Loc :=
  if e.ats then .host (e.target va) else if e.peer then .peer e.devid (e.target va) else .dev (e.target va)

/-- The entry of a core's TLB, or of its cluster's, for an address (R273). -/
def State.tlbFind (s : State) (core ctx va : Nat) : Option TlbEntry :=
  match (s.core core).tlb.find? fun e => e.covers ctx va with
  | some e => some e
  | none => (s.cluster (core / 8)).tlb.find? fun e => e.covers ctx va

/-- A list of TLB entries with one added in place of the least recently used where `n` are held. -/
def tlbAdd (l : List TlbEntry) (n : Nat) (e : TlbEntry) : List TlbEntry :=
  let l := l.filter fun x => !(x.ctx == e.ctx && x.vpage == e.vpage && x.size == e.size)
  if l.length < n then l ++ [e]
  else
    let oldest := l.foldl (fun b x => min b x.used) e.used
    (l.eraseP fun x => x.used == oldest) ++ [e]

/-- A cluster TLB with an entry added: 8 ways of 256 sets (R273). -/
def clusterTlbAdd (l : List TlbEntry) (e : TlbEntry) : List TlbEntry :=
  if l.length < 8 then tlbAdd l 8 e
  else
    let set := Config.setIndex 1 e.vpage % 256
    let same := l.filter fun x => Config.setIndex 1 x.vpage % 256 == set
    (l.filter fun x => Config.setIndex 1 x.vpage % 256 != set) ++ tlbAdd same 8 e

/-- A translation comes into a core's TLB and its cluster's. -/
def State.tlbFill (s : State) (core : Nat) (e : TlbEntry) : State :=
  let e := { e with used := s.time }
  let k := s.core core
  let s := s.setCore core { k with tlb := tlbAdd k.tlb 64 e }
  let c := s.cluster (core / 8)
  s.setCluster (core / 8) { c with tlb := clusterTlbAdd c.tlb e }

/-- A use of a translation: it comes into the core's TLB, as its most recently used, and is the cluster TLB's (R273). -/
def State.tlbTouch (s : State) (core ctx va : Nat) : State :=
  match s.tlbFind core ctx va with
  | none => s
  | some e =>
    let k := s.core core
    let c := s.cluster (core / 8)
    let s := if c.tlb.any fun x => x.covers ctx va then
        s.setCluster (core / 8) { c with tlb := c.tlb.map fun x => if x.covers ctx va then { x with used := s.time } else x }
      else s
    s.setCore core { k with tlb := tlbAdd k.tlb 64 { e with used := s.time } }

/-- Every TLB without the entries that a test names. -/
def State.tlbRemove (s : State) (p : TlbEntry → Bool) : State :=
  { s with cores := tmap s.cores fun _ k => { k with tlb := k.tlb.filter fun e => !p e }
           clusters := tmap s.clusters fun _ c => { c with tlb := c.tlb.filter fun e => !p e } }

/-- The permission and place checks of R272 on a translation: the SUB of the Protection trap, or 0. `cls` picks one check
of the order. -/
def State.xlateFails (s : State) (e : TlbEntry) (va : Nat) (write fetch : Bool) (cls : Nat) : Bool :=
  match cls with
  | 6 => e.peer && e.devid == s.peer.devid
  | 1 => write && !e.w
  | 2 => fetch && !e.x
  | _ => !e.ats && !e.peer && (e.pin != (s.pinOf (e.target va / 4096)).isSome)

/-- Why a translation fails: the cause and SUB of R245 and R246. -/
structure XFault where
  cause : Nat
  sub : Nat
  deriving DecidableEq, Repr

/-- The translation that a unit holds of a host-managed address (R55). -/
def State.atcFind (s : State) (ctx va : Nat) : Option TlbEntry := s.host.atc.find? fun e => e.covers ctx va

/-- The entry of a 4 KiB page that the host's answer gives (R277). -/
def atsEntry (ctx va pa : Nat) (w x : Bool) (now : Nat) : TlbEntry :=
  { ctx := ctx, vpage := va / 4096, size := 12, pa := pa / 4096 * 4096, w := w, x := x, d := false, nc := false, pin := false
    peer := false, devid := 0, m := true, ats := true, used := now }

/-- The units' translations with one added. -/
def State.atcFill (s : State) (e : TlbEntry) : State :=
  { s with host := { s.host with atc := (s.host.atc.filter fun x => !(x.ctx == e.ctx && x.vpage == e.vpage)) ++ [e] } }

/-- A message leaves over the host link. -/
def State.tellHost (s : State) (m : HostMsg) : State := { s with host := { s.host with sent := s.host.sent ++ [m] } }

/-! ## Non-posted requests (R49, R50) -/

/-- The non-posted requests that a function may have outstanding (R49). -/
def hostTags : Nat := 768

/-- Whether what a request is for still waits. -/
def State.askLives (s : State) : HostOwner → Bool
  | .walk id => (tget? s.walks id).isSome
  | .lane a l => match tget? s.accs a with
    | some x => x.lanes.any fun y => y.lane == l && !y.done
    | none => false
  | .fetch q => (s.queueAt q).fetching.isSome

/-- The outstanding requests of a function. -/
def asksOut (l : List HostAsk) (func : Nat) : Nat := (l.filter fun a => a.issued && a.func == func).length

/-- Requests leave in the order they arose, as far as their functions have tags. -/
def State.sendAsks (s : State) (kept : List HostAsk) : List HostAsk → State
  | [] => { s with host := { s.host with asks := kept } }
  | a :: rest =>
    if a.issued || asksOut (kept ++ a :: rest) a.func ≥ hostTags then s.sendAsks (kept ++ [a]) rest
    else (s.tellHost a.msg).sendAsks (kept ++ [{ a with issued := true }]) rest

/-- The requests whose answers nothing waits for any more give up their tags, and others are sent. -/
def State.hostPump (s : State) : State := s.sendAsks [] (s.host.asks.filter fun a => s.askLives a.owner)

/-- Requests are made. -/
def State.hostAsk (s : State) (l : List HostAsk) : State :=
  { s with host := { s.host with asks := s.host.asks ++ l } }.hostPump

/-- Whether a request has been sent. -/
def State.asked (s : State) (o : HostOwner) : Bool := s.host.asks.any fun a => a.owner == o && a.issued

/-- Whether a request of a function must wait for a tag, of a unit that can wait (R49). -/
def State.tagsOut (s : State) (func : Nat) : Bool := s.needs.isSome && asksOut s.hostPump.host.asks func ≥ hostTags

/-- A unit's read leaves over the link (R50), once its function has a tag for it (R49). -/
def State.tellRead (s : State) (ctx addr n : Nat) : State :=
  let c := s.ctxAt ctx
  if s.tagsOut c.func then s.hold else s.tellHost (.read c.func c.pasid addr n)

/-- Each walk of a table of its chiplet that has no walker takes the lowest of the 16 that is free, in the order of arrival (R144, R273). -/
def State.giveWalkers (s : State) : State :=
  { s with walks := s.walks.foldl (fun l (id, w) =>
      if w.ats || w.walker.isSome then l
      else
        let free := (List.range 16).find? fun n => !l.any fun e => e.2.chiplet == w.chiplet && e.2.walker == some n
        tset l id { w with walker := free }) s.walks }

/-- A walk begins: one that goes to the host sends its translation request (R55). -/
def State.beginWalk (s : State) (w : Walk) : State :=
  let (id, s) := s.fresh
  let s := { s with walks := tset s.walks id w }.giveWalkers
  let c := s.ctxAt w.ctx
  match w.ats, w.vas with
  | true, (_, va) :: _ => s.hostAsk [{ func := c.func, owner := .walk id, msg := .atsRequest c.func c.pasid (va / 4096) w.write }]
  | _, _ => s

/-- The lanes of a load or an atomic that reach host memory are asked for (R55). -/
def State.askLanes (s : State) (id : Nat) (a : Access) : State :=
  let c := s.ctxAt a.ctx
  s.hostAsk (a.lanes.filterMap fun x => match x.loc with
    | .host v => if x.done || a.op == .store then none
      else some { func := c.func, owner := .lane id x.lane
                  msg := if a.op == .load then .read c.func c.pasid v a.bytes else .atomic c.func c.pasid v a.bytes }
    | _ => none)

/-! ## Translation by units (R55, R57, R271) -/

/-- A unit asks the host for the translation of a host-managed address, where it holds none that allows the access (R55). -/
def State.atsAsk (s : State) (ctx va : Nat) (write : Bool) : State :=
  let c := s.ctxAt ctx
  if !c.hostManaged va || (s.atcFind ctx va).any (fun e => !write || e.w) then s
  else if s.tagsOut c.func then s.hold
  else
    let r := Config.atsReply s.free c.func c.pasid (va / 4096)
    let s := { s with free := s.free + 1 }.tellHost (.atsRequest c.func c.pasid (va / 4096) write)
    if r.refused then s else s.atcFill (atsEntry ctx va (va + 4096 * r.shift) (!r.readOnly) false s.time)

/-- An address as a unit of the base die translates it, for a read or a write: its place, or none for a fault (R55, R57, R64,
R101, R421). `walk` reads memory as committed, A and M are set by `touchPte`, and a host-managed page is one that the host has
answered for. -/
def State.xlateNow (s : State) (ctx va : Nat) (write : Bool) : Except XFault Loc :=
  if va ≥ 2 ^ 52 then .error ⟨8, 3⟩
  else if (s.ctxAt ctx).hostManaged va then
    match s.atcFind ctx va with
    | some e => if write && !e.w then .error ⟨7, 2⟩ else .ok (.host (e.target va))
    | none => .error ⟨7, 2⟩
  else
    match s.walk ctx va with
    | .fault => .error ⟨7, 1⟩
    | .malformed => .error ⟨8, 4⟩
    | .leaf e _ =>
      if s.xlateFails e va write false 6 then .error ⟨8, 6⟩
      else if s.xlateFails e va write false 1 then .error ⟨8, 1⟩
      else if s.xlateFails e va write false 5 then .error ⟨8, 5⟩
      else .ok (e.loc va)

/-- The entry of the page table that maps an address, with A set, and M for a write (R271). -/
def State.touchPte (s : State) (pte : Nat) (write : Bool) : State :=
  let v := (cget s.mem pte).toNat
  let w := (cget s.mem (pte + 1)).toNat
  let s := if v.testBit 7 then s else s.writeNow pte [BitVec.ofNat 8 (v + 128)]
  if write && !w.testBit 0 then s.writeNow (pte + 1) [BitVec.ofNat 8 (w + 1)] else s

/-- The state after a unit's translation: A and M as R271 gives. -/
def State.xlateTouch (s : State) (ctx va : Nat) (write : Bool) : State :=
  if (s.ctxAt ctx).hostManaged va then s
  else match s.walk ctx va with
    | .leaf _ pte => s.touchPte pte write
    | _ => s

/-- A byte of host memory as the device reads it: what the device itself wrote there, else a free value (R55). -/
def State.hostRead (s : State) (va n : Nat) : List Byte :=
  (List.range n).map fun i =>
    match s.host.hostMem.find? fun c => c.1 == va + i with
    | some c => c.2
    | none => Config.hostByte s.free (va + i)

/-- Host memory with bytes set, listed whatever their value, addresses rising. -/
def hostSet (m : List Host.Cell) (a : Nat) (b : Byte) : List Host.Cell :=
  match m with
  | [] => [(a, b)]
  | (j, x) :: r => if j == a then (a, b) :: r else if a < j then (a, b) :: (j, x) :: r else (j, x) :: hostSet r a b

/-- Host memory with bytes that the device has written (R55). -/
def State.hostPut (s : State) (addr : Nat) (bs : List Byte) : State :=
  { s with host := { s.host with hostMem := bs.zipIdx.foldl (fun m (b, i) => hostSet m (addr + i) b) s.host.hostMem } }

/-- A posted write of a context leaves the device (R55). -/
def State.hostWrite (s : State) (ctx addr : Nat) (bs : List Byte) : State :=
  (s.tellHost (.write (s.ctxAt ctx).func (s.ctxAt ctx).pasid addr bs)).hostPut addr bs

/-- Bytes that a unit reads at a virtual address (R57, R69, R101): their value, or why the translation fails. -/
def State.unitRead (s : State) (ctx va n : Nat) : State × Except XFault (List Byte) :=
  let s := s.atsAsk ctx va false
  match s.xlateNow ctx va false with
  | .error e => (s, .error e)
  | .ok (.dev pa) => let (s, bs) := (s.xlateTouch ctx va false).readNow pa n; (s, .ok bs)
  | .ok (.host a) =>
    let s := s.tellRead ctx a n
    ({ s with free := s.free + 1 }, .ok (s.hostRead a n))
  | .ok (.peer _ _) => (s, .error ⟨8, 6⟩)

/-- Bytes that a unit writes at a virtual address (R57, R70, R412), or why the translation fails. DESIGN CHOICE: the queue unit is no
source of peer packets (R33), so a peer window, of a SADDR too, fails with cause 8 of SUB 6 (log entry 36). -/
def State.unitWrite (s : State) (ctx va : Nat) (bs : List Byte) : State × Option XFault :=
  let s := s.atsAsk ctx va true
  match s.xlateNow ctx va true with
  | .error e => (s, some e)
  | .ok (.dev pa) => ((s.xlateTouch ctx va true).writeNow pa bs, none)
  | .ok (.host a) => (s.hostWrite ctx a bs, none)
  | .ok (.peer _ _) => (s, some ⟨8, 6⟩)

/-! ## Event counters and accounts (R96, R97, R112 to R118) -/

/-- The cycles since a time that a core's groups have been parked by their switch markers (R97, R215). -/
def State.markerCycles (s : State) (core since : Nat) : Nat :=
  let len := s.cyc core
  s.groups.foldl (fun n (k, g) => if k / 128 == core then match g.parkedAt with
    | some t => n + (s.time / len - max t since / len)
    | none => n
    else n) 0

/-- A counter of cycles brought up to the present: source 0x01 of a core or a slice counts cycles, and on a core 0x0E those
above 1.6 GHz and 0x0C those of parked groups (R97). A cluster that is offline or in retention has no cycles. -/
def State.cycleCount (s : State) (k : Nat) (c : EventCounter) : EventCounter :=
  let block := k / 8
  let cl := s.cluster (block / 8)
  let all (len : Nat) : Nat := s.time / len - c.since / len
  let n :=
    if !c.en || block ≥ 480 then 0
    else if block ≥ 384 then if c.src == 1 then all bclk else 0
    else if cl.ret || !s.clusterOnline (block / 8) then 0
    else if c.src == 1 || c.src == 14 && (cl.step == 1 || cl.step == 2) then all (s.cyc block)
    else if c.src == 12 then s.markerCycles block c.since
    else 0
  { c.add n with since := s.time }

/-- Every cycle counter brought up to the present. -/
def State.foldCounters (s : State) : State :=
  { s with counters := tmap s.counters fun k c => s.cycleCount k c }

/-- The capacity of a resource per period (R112). -/
def capOf (res : Nat) : Nat :=
  match res with
  | 0 => 24576000
  | 1 => 6144000
  | 2 => 860160000
  | 3 => 164352000
  | _ => 512000

/-- Whether a grid has an account over of some hardness. -/
def State.overOf (s : State) (grid : Nat) (hard : Bool) : Bool :=
  (s.gridAt grid).accounts.any fun k => match tget? s.accounts k with
    | some a => a.over s.time && a.hard == hard
    | none => false

/-- Whether a team has a soft account over (R116). -/
def State.overSoft (s : State) (grid : Nat) : Bool := s.overOf grid false

/-- Whether a grid has a hard account over (R117). -/
def State.overHard (s : State) (grid : Nat) : Bool := s.overOf grid true

/-! ## Host records (R57 to R60, R255) -/

/-- A record of R255. -/
structure Record where
  cause : Nat
  flags : Nat := 0
  sub : Nat := 0
  lane : Nat := 255
  tid : Nat := 0
  pc : Nat := 0
  addr : Nat := 0
  rcb : Nat := 0
  fdid : Nat := 0
  ctx : Nat := 0
  gix : Nat := 255
  tix : Nat := 0
  core : Nat := 65535
  slot : Nat := 0
  info : Nat := 0
  info2 : Nat := 0
  deriving DecidableEq, Repr

/-- The 64 bytes of a record (R255). -/
def Record.bytes (r : Record) (time : Nat) : List Byte :=
  leBytes 1 r.cause ++ leBytes 1 r.flags ++ leBytes 1 r.sub ++ leBytes 1 r.lane ++ leBytes 4 r.tid ++ leBytes 8 r.pc ++
  leBytes 8 r.addr ++ leBytes 8 r.rcb ++ leBytes 2 r.fdid ++ leBytes 1 r.ctx ++ leBytes 1 r.gix ++ leBytes 4 r.tix ++
  leBytes 2 r.core ++ leBytes 1 r.slot ++ leBytes 1 0 ++ leBytes 4 r.info ++ leBytes 8 r.info2 ++ leBytes 8 time

/-- The device sends an MSI-X message for a context (R50, R59). -/
def State.msix (s : State) (ctx vector : Nat) : State := s.tellHost (.msix (s.ctxAt ctx).func (s.ctxAt ctx).pasid vector)

/-- Whether a context's ring is full (R57). -/
def Context.ringFull (c : Context) : Bool := (c.rwi - c.rri).toNat == 2 ^ c.log2

/-- A record's bytes go into a context's ring (R57, R59), or are told to be without room: the ring is full, or its page
faults. -/
def State.ringWrite (s : State) (ctx : Nat) (bs : List Byte) : Except State State :=
  let c := s.ctxAt ctx
  if c.ringFull then .error s
  else
    match s.unitWrite ctx ((fld c.rqb.toNat 51 12) * 4096 + 64 * (c.rwi.toNat % 2 ^ c.log2)) bs with
    | (s, some _) => .error (s.setCtx ctx { s.ctxAt ctx with err := true })
    | (s, none) =>
      let s := s.setCtx ctx { s.ctxAt ctx with rwi := c.rwi + 1 }
      .ok (if c.rwi == c.rri then s.msix ctx c.msiv else s)

/-- A record bound for a context (R57, R58): one that stands for a stopped group waits for room, in the order the records
arose; any other is dropped when there is no room. DESIGN CHOICE: one for a context that is not resident is dropped and not counted
(log entry 112). -/
def State.postBytes (s : State) (ctx : Nat) (bs : List Byte) (stopped : Option Nat) : State :=
  let c := s.ctxAt ctx
  if !c.en then s
  else
    match stopped with
    | some guid =>
      if c.held != [] then s.setCtx ctx { c with held := c.held ++ [(bs, guid)] }
      else match s.ringWrite ctx bs with
        | .ok s => s
        | .error s => s.setCtx ctx { s.ctxAt ctx with held := [(bs, guid)] }
    | none =>
      match s.ringWrite ctx bs with
      | .ok s => s
      | .error s =>
        let c := s.ctxAt ctx
        s.setCtx ctx { c with lost := min 255 (c.lost + 1), ovf := true }

/-- A record is written to its context's ring. -/
def State.post (s : State) (r : Record) (stopped : Option Nat := none) : State :=
  s.postBytes r.ctx (r.bytes s.bclks) stopped

/-- Whether a context is resident and of the physical function. -/
def Context.physical (c : Context) : Bool := c.en && c.func == 0

/-- A record of Peer Port Failed or Checkpoint goes to every resident context of the physical function, or into
Muyras' buffer of 16 (R60). -/
def State.postPhysical (s : State) (r : Record) : State :=
  match tkeys s.contexts fun _ c => c.physical with
  | [] =>
    let b := s.host.buffered ++ [r.bytes s.bclks]
    { s with host := { s.host with buffered := b.drop (b.length - 16) } }
  | cs => cs.foldl (fun s c => s.post { r with ctx := c }) s

/-- A record goes to every resident context. -/
def State.postAll (s : State) (r : Record) : State :=
  (tkeys s.contexts fun _ c => c.en).foldl (fun s c => s.post { r with ctx := c }) s

/-! ## Groups of a team -/

/-- The task identifier of a team (R180). -/
def State.tid (s : State) (t : Team) : Nat := (s.taskAt t.task).gen.toNat * 2 ^ 17 + t.task

/-- The keys of a team's resident groups, ascending. -/
def State.teamGroups (s : State) (team : Nat) : List Nat := tkeys s.groups fun _ g => g.team == team

/-- What identifies a group in a record. -/
def State.groupRecord (s : State) (core slot : Nat) (g : Group) (cause : Nat) : Record :=
  let t := s.teamAt g.team
  let gr := s.gridAt t.grid
  { cause := cause, tid := s.tid t, rcb := gr.rcb.toNat, fdid := gr.eff.fdid.toNat, ctx := t.ctx, gix := g.gix
    tix := t.tix.toNat, core := core, slot := slot }

/-! ## Queues, records and grids complete (R65, R70) -/

/-- A queue enters Faulted and a record tells the host (R65). -/
def State.queueFault (s : State) (q : Nat) (cause : Nat) (addr : W64) : State :=
  let x := s.queueAt q
  let s := s.setQueue q { x with state := .faulted, cause := cause, qfaddr := addr }
  s.post { cause := 0x40, ctx := x.ctx, info := q, info2 := addr.toNat }

/-- The record of an index of a queue. -/
def Queue.rec? (q : Queue) (index : Nat) : Option QRecord := q.recs.find? fun r => r.index.toNat == index

/-- The records of a queue that are not complete: QSTAT.INFL (R61, R64). -/
def Queue.infl (q : Queue) : Nat := q.recs.length

/-- A Draining queue whose last record has gone is Stopped (R65); under a function reset it is then destroyed (R74). -/
def Queue.settle (q : Queue) : Queue :=
  if q.state == .draining && q.recs.isEmpty then { q with state := .stopped } else q

/-- A record of a queue completes (R70): its completion actions wait for the records before it. A FAILED grid of a queue
that runs or drains makes the queue Faulted (R65), unless QCTL.ABORT took it. -/
def State.recordDone (s : State) (queue index : Nat) (failed raise : Bool) : State :=
  let q := s.queueAt queue
  let s := s.setQueue queue { q with recs := q.recs.map fun r =>
    if r.index.toNat == index then { r with complete := true, failed := failed } else r }
  let quiet := match q.rec? index with | some r => r.quiet | none => true
  if failed && raise && !quiet && (q.state == .active || q.state == .draining) then s.queueFault queue 4 q.qfaddr else s

/-- Accounts that no started grid uses any more are released (R113). -/
def State.releaseAccounts (s : State) (grid : Nat) : State :=
  let left := tmap s.accounts fun _ a => { a with users := a.users.filter fun g => g != grid }
  { s with accounts := tfilter left fun _ a => a.users != [] }

/-- Whether a team no longer stands in its grid's way: retired, discarded or ended. -/
def TeamState.over : TeamState → Bool
  | .retired => true
  | .ended => true
  | _ => false

/-- The stream of an operation at a copy engine (R163): a group's class, or a schedule or checkpoint entry of its own. -/
def EngineOp.stream (o : EngineOp) (id : Nat) : Nat :=
  match o.kind with
  | .sched _ _ _ _ _ _ _ => 2 * id + 1
  | .page _ _ _ _ _ => 2 * id + 1
  | _ => 2 * (o.guid * 8 + o.cls)

/-- A stream comes to a copy engine (R163): it is active, or waits while 256 are. -/
def State.joinStream (s : State) (engine key : Nat) : State :=
  let x := tgetD s.engines engine {}
  if x.active.contains key || x.waiting.contains key then s
  else if x.active.length < 256 then { s with engines := tset s.engines engine { x with active := x.active ++ [key] } }
  else { s with engines := tset s.engines engine { x with waiting := x.waiting ++ [key] } }

/-- The schedule entries of a grid that an operation serves, with their phase. -/
def OpKind.ofGrid (k : OpKind) (grid : Nat) : Bool := match k with | .sched g _ _ _ _ _ _ => g == grid | _ => false
def OpKind.isPost (k : OpKind) : Bool := match k with | .sched _ _ p _ _ _ _ => p | _ => false

/-- The post entries of a grid start in list order (R121). -/
def State.openPosts (s : State) (grid : Nat) : State :=
  (tkeys s.ops fun _ o => o.kind.ofGrid grid && o.kind.isPost).foldl (fun s id =>
    match tget? s.ops id with
    | some o => ({ s with ops := tset s.ops id { o with engine := some (grid % 8) } }).joinStream (grid % 8) (o.stream id)
    | none => s) s

/-- The number of no grid: what a team whose grid is over, or whose place another team has taken, belongs to. -/
def noGrid : Nat := 2048

/-- Whether a stopped team still holds scratchpad, tiles or its reservation, until its accesses have drained (R141). -/
def Team.lingers (t : Team) : Bool := t.state == .ended && (t.units != [] || t.tiles != [] || t.save.isSome)

/-- A grid completes when every team has retired, or, failed, when every team has stopped, retired or been discarded
(R70, R141). Its post copies come first (R121). The entry, its accounts and the names of failed collectives are given up
(R122, R113, R441). -/
def State.gridCheck (s : State) (grid : Nat) : State :=
  match tget? s.grids grid with
  | none => s
  | some g =>
    let mine := s.teams.filter fun e => e.2.grid == grid
    if !(mine.all fun e => e.2.state.over) then s
    else
      let finish (s : State) (failed : Bool) : State :=
        let s := s.recordDone g.queue g.record failed true
        let s := s.releaseAccounts grid
        let items := s.dist.items.filter fun i => i.grid != grid
        let teams := tmap (tfilter s.teams fun _ t => t.grid != grid || t.lingers) fun _ t => if t.grid == grid then { t with grid := noGrid } else t
        let grids := tdel s.grids grid
        let gone (c : Coll) : Bool :=
          c.failedAt.isSome && c.n != 0 && (c.passed || c.m ≤ 1 || c.fn % 4 == 0) && c.contribs.all fun x => (tget? grids x.grid).isNone
        { s with grids := grids, teams := teams, dist := { s.dist with items := items }
                 colls := tfilter s.colls fun _ c => !gone c }
      if g.failed then finish s true
      else if g.next < g.teams || !g.ready then s
      else if g.postLeft != [] && !g.posted then (s.setGrid grid { g with posted := true }).openPosts grid
      else if g.postLeft != [] then s
      else finish s false

/-! ## Ending teams (R141, R191, R244) -/

/-- A discard of a task's version is asked for (R191); a commit past its commit point goes on. -/
def State.askDiscard (s : State) (task : Nat) : State :=
  s.setTask task { s.taskAt task with discard := true }

/-- The lines that a team's scratchpad and ring hold are given back: units become L1 ways, tiles are free (R135, R217). -/
def State.freeUnits (s : State) (team : Nat) : State :=
  let t := s.teamAt team
  let k := s.core t.core
  let s := s.setCore t.core { k with units := k.units.map fun u => if u == .team team then .l1 else u }
  s.setTeam team { t with units := [], scratch := [] }

/-- Whether a team is pre-empted, waiting for its cause to end or for its readmission. -/
def Team.away (t : Team) : Bool := t.state == .preempted || (t.state == .queued && t.restore && t.home.isSome)

/-- The positions of a pre-empted team's tiles that are not spilled: it comes back to their numbers (R265). -/
def Team.formerTiles (t : Team) : List Nat :=
  if t.away then (List.range t.tiles.length).filter fun j => !t.tspill.getLsbD j else []

/-- The positions of a team's tiles that are lazily held: it is pre-empted, they are not spilled, and they hold its data (R265):
a tile that was left to First-Use and not reached does not. -/
def Team.lazyTiles (t : Team) : List Nat := t.formerTiles.filter fun j => !t.untouched.contains j

/-- Whether a team is on a core, with what its shape takes there (R129). -/
def TeamState.here : TeamState → Bool
  | .resident | .parkEligible | .parkArmed | .parkSpilling | .preempting | .committing => true
  | _ => false

/-- Whether what a team holds of its core is not free there (R129, R141). -/
def Team.onCore (t : Team) : Bool := t.state.here || t.lingers

/-- ACCOWN becomes NONE once no resident or pre-empted team of the owner holds a tile on the core (R265). -/
def State.releaseRing (s : State) (core : Nat) : State :=
  let k := s.core core
  let holds (t : Team) : Bool := t.core == core && some t.ctx == k.accown && (t.formerTiles != [] || (t.onCore && t.tiles != []))
  if k.accown.isNone || s.teams.any fun e => holds e.2 then s else s.setCore core { k with accown := none }

/-- Tiles of the ring are released (R135, R265). -/
def State.freeTiles (s : State) (team : Nat) : State :=
  let t := s.teamAt team
  (s.setTeam team { t with tiles := [] }).releaseRing t.core

/-- A context's reservation of a team is given back (R257). -/
def State.freeReservation (s : State) (team : Nat) : State :=
  let t := s.teamAt team
  let c := s.ctxAt t.ctx
  let left := c.reserved.filter fun r => r.2.2 != team
  (s.setCtx t.ctx { c with reserved := left }).setTeam team { t with save := none }

/-- A park slot is free again (R108). Slots are kept by context and park area. -/
def State.freePark (s : State) (team : Nat) : State :=
  let t := s.teamAt team
  let key := t.ctx * 2 ^ 64 + (s.gridAt t.grid).eff.parka.toNat
  match t.slot with
  | none => s
  | some i =>
    let left := (tgetD s.parkAreas key []).filter fun j => j != i
    { (s.setTeam team { t with slot := none }) with parkAreas := tset s.parkAreas key left }

/-- The key of a group slot: 128 slots a core (R3). -/
def slotKey (core slot : Nat) : Nat := core * 128 + slot

/-- What the mesh carries for a walk that is over goes. -/
def State.dropStrays (s : State) : State :=
  { s with msgs := tfilter s.msgs fun _ m => match m.kind with
      | .walk id _ | .walkData id _ _ => (tget? s.walks id).isSome
      | _ => true }

/-- A group's fragments leave the waiters of a page fault and the order of a mailbox (R256, R408). -/
def State.leaveWaiters (s : State) (key : Nat) : State :=
  let off (l : List (Nat × Nat)) : List (Nat × Nat) := l.filter fun x => x.1 != key
  let mine (w : Walk) : Bool := match w.frag with | some (k, _) => k == key | none => false
  { s with
    dft := tmap s.dft fun _ d => { d with waiters := off d.waiters }
    dftWait := s.dftWait.filter fun w => !mine w
    walks := tfilter s.walks fun _ w => !mine w
    host := { s.host with tags := tmap s.host.tags fun _ t => { t with waiters := off t.waiters }
                          tagWait := s.host.tagWait.filter fun w => !mine w }
    contexts := tmap s.contexts fun _ c => { c with boxWaits := tmap c.boxWaits fun _ l => l.filter fun x => slotKey x.1 x.2.1 != key } }.dropStrays

/-- A group gives up its slot at once, and its registers stay withheld until its results have returned (R134). -/
def State.dropGroup (s : State) (key : Nat) : State :=
  match tget? s.groups key with
  | none => s
  | some g =>
    let last := g.outs.foldl (fun a w => w.avail.foldl max a) s.time
    let w : Withheld := { core := key / 128, slot := key % 128, g := g.g, c := g.c, until' := last, guid := g.uid }
    let s := if g.parkedAt.isSome then s.foldCounters else s
    let cl := s.cluster (key / 1024)
    { s with groups := tdel s.groups key
             clusters := tset s.clusters (key / 1024) { cl with idleSince := s.time }
             withheld := if g.outs == [] && g.pendRegs == [] then s.withheld else s.withheld ++ [w] }

/-- Whether every access that a team has made is over, and every STX and CPYM toward its scratchpad (R141, R422). -/
def State.drained (s : State) (team : Nat) : Bool :=
  (s.teamAt team).inbound == 0 && !(s.accs.any fun (_, a) => a.team == team) && !(s.ops.any fun (_, o) => o.team == team && !o.vDone)

/-- What a stopped team held is free; a team that no grid has is forgotten. -/
def State.releaseTeam (s : State) (team : Nat) : State :=
  let s := ((s.freeUnits team).freeTiles team).freeReservation team
  if (s.teamAt team).grid == noGrid then { s with teams := tdel s.teams team } else s

/-- The stopped teams of a core whose accesses have drained give up what they held (R134, R141 step 4). -/
def State.releaseDrained (s : State) (core : Nat) : State :=
  (tkeys s.teams fun _ t => t.core == core && t.lingers).foldl (fun s k => if s.drained k then s.releaseTeam k else s) s

/-- Whether a cause still names a team: a hard account's does while the account is over (R117, R118). -/
def State.causeStands (s : State) (c : PreemptCause) : Bool :=
  match c with
  | .account k => ((tget? s.accounts k).map fun a => a.over s.time).getD false
  | _ => true

/-- Whether a team is to be pre-empted at the next boundaries of its groups, and no debugger's halt stands before that (R138, R253). -/
def State.preemptDue (s : State) (t : Team) : Bool :=
  (t.state == .resident || t.state == .parkEligible) && (t.causes.any s.causeStands || s.overHard t.grid) && !(s.ctxAt t.ctx).halt

/-- A team stops without being saved: its groups go, its version is discarded, its loads reach no register, its engine
operations end at their next chunk, and what it held is given back once its accesses have drained (R141, R191, R244). Of a retired member of a district the scratchpad is
given back (R135, R142). -/
def State.endTeam (s : State) (team : Nat) : State :=
  let t := s.teamAt team
  if t.state == .ended then s
  else if t.state == .retired then
    let s := s.setTeam team { t with state := .ended }
    if s.drained team then s.releaseTeam team else s
  else
    let s := (s.teamGroups team).foldl (fun s k => (s.leaveWaiters k).dropGroup k) s
    let s := { s with ops := tmap s.ops fun _ o => if o.team == team then { o with ended := true } else o }
    let s := if t.state == .queued && !t.restore then s else s.askDiscard t.task
    let s := s.freePark team
    let s := s.setTeam team { s.teamAt team with state := .ended, live := 0, kept := [] }
    if s.drained team then s.releaseTeam team else s

/-- Whether a retiring team is past its commit point, the decision of its retire commit (R135): it is not undone (R141, R142). -/
def State.pastCommit (s : State) (t : Team) : Bool :=
  t.state == .committing && (match (s.taskAt t.task).commit with | some c => c.retire && c.decided | none => false)

/-- A collective fails (R167, R441): every contributor's status word will read FAILED, and the name is kept. -/
def State.failColl (s : State) (k : Nat) : State :=
  { s with colls := tmod s.colls k fun c =>
      if c.failedAt.isSome || c.ended then c
      else { c with failedAt := some s.time, sums := [], device := none, fromPeers := [], passed := false } }

/-- A started grid is aborted (R141): it leaves the ready lists, its teams stop, its saves are discarded. -/
def State.abortGrid (s : State) (grid : Nat) : State :=
  match tget? s.grids grid with
  | none => s
  | some g =>
    let s := s.setGrid grid { g with failed := true }
    let items := s.dist.items.filter fun i => i.grid != grid
    let s := { s with dist := { s.dist with items := items } }
    let ops := tfilter s.ops fun _ o => !(o.kind.ofGrid grid && o.engine.isNone)
    let s := { s with ops := tmap ops fun _ o => if o.kind.ofGrid grid then { o with ended := true } else o }
    let s := (tkeys s.teams fun _ t => t.grid == grid).foldl (fun s k =>
      if s.pastCommit (s.teamAt k) then s else s.endTeam k) s
    let s := (tkeys s.colls fun _ c => c.failedAt.isNone && !c.ended && c.contribs.any fun x => x.grid == grid).foldl
      (fun s k => s.failColl k) s
    s.gridCheck grid

/-- A fault domain is aborted (R104, R141): every started and unfinished grid of the context with that FDID; one record
tells the host. -/
def State.abortDomain (s : State) (ctx : Nat) (fdid : BitVec 16) : State :=
  let s := (tkeys s.grids fun _ g => g.ctx == ctx && g.eff.fdid == fdid && !g.failed).foldl (fun s k => s.abortGrid k) s
  s.post { cause := 0x48, ctx := ctx, fdid := fdid.toNat }

/-- The fault domain of a team is aborted. -/
def State.abortTeam (s : State) (team : Nat) : State :=
  let t := s.teamAt team
  s.abortDomain t.ctx (s.gridAt t.grid).eff.fdid

/-! ## Ready lists (R125) -/

/-- The key by which items that enter the head part in one cycle are ordered: context, start order, TIX. -/
def State.headKey (s : State) (i : Item) : Nat × Nat × Nat :=
  let g := s.gridAt i.grid
  (g.ctx, g.order, (i.teams.map fun k => (s.teamAt k).tix.toNat).foldl min (2 ^ 32))

/-- Whether one key of the head part's order stands no later than another. -/
def keyLe (a b : Nat × Nat × Nat) : Bool := a.1 < b.1 || a.1 == b.1 && (a.2.1 < b.2.1 || a.2.1 == b.2.1 && a.2.2 ≤ b.2.2)

/-- Teams enter the head part of their level as one readmission, behind those of earlier bclk cycles and in the order of R125 among
those of this one (R125, R126). -/
def State.readmit (s : State) (grid : Nat) (teams : List Nat) (deferTo : Option Nat := none) : State :=
  let g := s.gridAt grid
  let item : Item := { level := g.eff.prio, head := true, grid := grid, teams := teams, deferUntil := deferTo, entered := s.bclks }
  let items := s.dist.items
  let heads := items.filter fun i => i.head && i.level == item.level
  let rest := items.filter fun i => !(i.head && i.level == item.level)
  let before (i : Item) : Bool := i.entered < item.entered || keyLe (s.headKey i) (s.headKey item)
  { s with dist := { s.dist with items := rest ++ heads.takeWhile before ++ [item] ++ heads.dropWhile before } }

/-- The members of a team's district that the distributor handles with it: all of them when D > 1 (R126, R142). -/
def State.districtOf (s : State) (team : Nat) : List Nat :=
  let t := s.teamAt team
  let d := max 1 (s.gridAt t.grid).eff.dist
  if d == 1 then [team]
  else tkeys s.teams fun _ x => x.grid == t.grid && x.tix.toNat / d == t.tix.toNat / d

/-- The number of a team's district. -/
def State.districtKey (s : State) (t : Team) : Nat :=
  t.grid * 2 ^ 32 + t.tix.toNat / max 1 (s.gridAt t.grid).eff.dist

/-- The members of a team's district that a readmission takes (R138): those that have been pre-empted, or have groups to stop; one whose
groups have all exited retires where it is. -/
def State.awayUnit (s : State) (team : Nat) : List Nat :=
  (s.districtOf team).filter fun k =>
    let t := s.teamAt k
    !(t.state.over || t.state == .committing || (t.state == .resident && s.teamGroups k == []))

/-- Whether a team is pre-empted and no cause of its own holds it. -/
def Team.released (t : Team) : Bool := t.state == .preempted && t.causes.all (· == .district)

/-- A pre-empted team whose causes have ended is readmitted, a district as one once every member is saved (R126): for the first member. -/
def State.readmitUnit (s : State) (team : Nat) : State :=
  let u := s.awayUnit team
  if u.head? == some team && u.all fun j => (s.teamAt j).released then
    let s := u.foldl (fun s k => s.setTeam k { s.teamAt k with state := .queued, restore := true, causes := [] }) s
    s.readmit (s.teamAt team).grid u
  else s

/-- Pre-empted teams whose causes have ended are readmitted, in the order of R125. -/
def State.readmitPreempted (s : State) : State := (tkeys s.teams fun _ t => t.released).foldl (fun s k => s.readmitUnit k) s

/-- A member of a district that is dispatched again (R142): it is stopped, where its commit point has not passed, and a new team
takes its place; the old one stays while it commits or while its accesses drain. -/
def State.replaceTeam (s : State) (team : Nat) (errorRun : Bool) : State × Nat :=
  let past := s.pastCommit (s.teamAt team)
  let s := if past then s else s.endTeam team
  let x := s.teamAt team
  let (n, s) := s.fresh
  let s := s.setTeam n { grid := x.grid, ctx := x.ctx, tix := x.tix, errorRun := errorRun, prev := if past then some team else none }
  (if past || x.lingers then s.setTeam team { x with grid := noGrid, fused := (s.gridAt x.grid).eff.fusel1 } else { s with teams := tdel s.teams team }, n)

/-- A discarded team, or its district as one, is dispatched again from ENTRY (R142): a fresh dispatch, with the district
barrier at 0. Readmissions of the teams it replaces leave the ready lists. -/
def State.redispatch (s : State) (team : Nat) (errorRun : Bool) : State :=
  let members := s.districtOf team
  let t := s.teamAt team
  let key := s.districtKey t
  let tixs := members.map fun k => (s.teamAt k).tix.toNat
  let items := (s.dist.items.map fun i => { i with teams := i.teams.filter fun k => !members.contains k }).filter fun i => !i.head || i.teams != []
  let s := { s with dist := { s.dist with items := items }, districts := tset s.districts key {} }
  let g := s.gridAt t.grid
  let s := s.setGrid t.grid { g with retired := g.retired.filter fun i => !tixs.contains i }
  let (s, again) := members.foldl (fun (st : State × List Nat) k =>
    let (s, n) := st.1.replaceTeam k errorRun
    (s, st.2 ++ [n])) (s, [])
  s.readmit t.grid again

/-- Whether a team that an error trap or a fence discards is dispatched again: every member of its district is replayable. A member that
has retired or is past its commit point is judged by its NR at that point (R142, R250). -/
def State.replays (s : State) (team : Nat) (errorTrap : Bool) : Bool :=
  let nr (k : Nat) : Bool :=
    let t := s.teamAt k
    if t.state == .retired || s.pastCommit t then t.nrAt
    else if t.state == .queued && !t.restore then false
    else (s.taskAt t.task).nr
  !(s.districtOf team).any nr && !(errorTrap && (s.teamAt team).errorRun) && !(s.gridAt (s.teamAt team).grid).failed

/-- A team that an error trap or a fence discards (R142, R250) is dispatched again, or its fault domain is aborted. -/
def State.discardTeam (s : State) (team : Nat) (errorTrap : Bool) : State :=
  if s.replays team errorTrap then s.redispatch team errorTrap else (s.endTeam team).abortTeam team

/-- An error trap ends a team's task (R250): a record is written, its groups stop, its version is discarded, and the team is dispatched
again or its fault domain is aborted, whose record comes after. -/
def State.errorTrap (s : State) (core slot : Nat) (g : Group) (r : Record) : State :=
  if (s.teamAt g.team).state.over then s
  else
    let base := s.groupRecord core slot g r.cause
    let how := if s.replays g.team true then 1 else 2
    let r := { base with flags := how + r.flags, sub := r.sub, lane := r.lane, pc := r.pc, addr := r.addr, info := r.info, info2 := r.info2 }
    (s.post r (some g.uid)).discardTeam g.team true

/-! ## Commit requests (R188, R189) -/

/-- A core of a team's L1, from which its version lines are sent. -/
def State.askCommit (s : State) (team core : Nat) (held : List Nat) (slot entry : Nat) : State :=
  s.send (.cmtReq team core slot entry) core distributorSlice true held

/-- NR of a team's task is set (R192). -/
def State.setNr (s : State) (team : Nat) : State :=
  let t := s.teamAt team
  s.setTask t.task { s.taskAt t.task with nr := true }

end Sys2Proof.Machine
end

