-- ==== Sys2Proof/Machine/Peering.lean ====
section
/-! DEFINITION. Peer packets, routes and requests (R32 to R42). -/
namespace Sys2Proof.Machine

def State.port (s : State) (n : Nat) : Port := tgetD s.peer.ports n {}
def State.setPort (s : State) (n : Nat) (p : Port) : State := { s with peer := { s.peer with ports := tset s.peer.ports n p } }

/-- The traffic class of an operation (R32). -/
def packetClass (op : BitVec 8) : Nat :=
  if op == 0x80#8 then 2 else if op == 0x10#8 then 3 else if op == 0x20#8 then 4 else if op == 0x30#8 then 5 else 1

/-- Whether an OP is one of R35. -/
def opKnown (op : BitVec 8) : Bool := [0x01#8, 0x02#8, 0x03#8, 0x04#8, 0x10#8, 0x20#8, 0x30#8, 0x80#8].contains op

/-- The flits of a packet with L data bytes (R36). -/
def flitsOf (op : BitVec 8) (len : Nat) : Nat :=
  if op == 0x30#8 then 65 else if len > 48 then 1 + (len - 48 + 63) / 64 else 1

/-- The element bytes of an atomic function (R388). -/
def atomBytes (fn : Nat) : Nat := if fn < 16 then 4 else 8

/-- The port that a packet for a device takes (R42): the primary port when its route is valid and it is Up, else the
alternate. -/
def State.routePort (s : State) (dst : BitVec 14) : Option Nat :=
  let w := tgetD s.peer.routes dst.toNat 0
  let pri := (w.extractLsb' 8 4).toNat
  let alt := (w.extractLsb' 0 4).toNat
  if w.getLsbD 31 && (s.port pri).state == .up then some pri
  else if w.getLsbD 7 && (s.port alt).state == .up then some alt
  else none

/-- The port whose route a destination names first, whether or not it is up. -/
def State.homePort (s : State) (dst : BitVec 14) : Nat :=
  (s.routePort dst).getD ((tgetD s.peer.routes dst.toNat 0).extractLsb' 8 4).toNat

/-- A request of this device waits at its source port for a tag (R41), or at the source while its destination's route
changes (R39). -/
def State.peerAsk (s : State) (source : PktSource) (owner : ReqOwner) (pkt : Packet) : State :=
  let item : Outgoing := { pkt := { pkt with src := s.peer.devid }, source := source, owner := owner }
  if s.peer.holds.any fun h => h.dst == pkt.dst then
    { s with peer := { s.peer with holds := s.peer.holds.map fun h =>
        if h.dst == pkt.dst then { h with held := h.held ++ [item] } else h } }
  else
    let n := s.homePort pkt.dst
    let p := s.port n
    s.setPort n { p with waiting := p.waiting ++ [item] }

/-- The class in which a packet leaves (R32): in transit the class it came in; what a copy engine writes to a peer window is bulk
traffic, whole units or not. -/
def Outgoing.tc (i : Outgoing) : Nat :=
  match i.source with
  | .transit => i.pkt.tc.toNat
  | .engine _ => if i.pkt.op == 0x02#8 then 3 else packetClass i.pkt.op
  | _ => packetClass i.pkt.op

/-- A packet joins its class queue at a port. -/
def Port.enqueue (p : Port) (item : Outgoing) : Port :=
  let tc := item.tc
  { p with queues := tset p.queues tc (tgetD p.queues tc [] ++ [item]) }

end Sys2Proof.Machine
end

