-- ==== Sys2Proof/Decode.lean ====
section
/-! DEFINITION. From words to instructions and back: the field kinds of every form (R300, R315, R326 and the
encoding tables R330, R340, R343 to R350, R358 to R379, R381, R388, R391, R393, R423), the decoder with the
SUB of every illegal encoding (R303), and the encoder written from the same tables. -/
namespace Sys2Proof
open FieldKind

/-- The fields of one form: whether it requires the extension word, and what D, A, B and C hold. -/
abbrev Form := Bool × FieldKind × FieldKind × FieldKind × FieldKind

/-- D of a load, by its size (R382). -/
def loadDst (fn : Nat) : FieldKind := if fn == 1 then dstN 2 2 else if fn == 2 then dstN 4 4 else dst

/-- C of a store, by its size (R382). -/
def storeData (fn : Nat) : FieldKind := if fn == 1 then dataN 2 2 else if fn == 2 then dataN 4 4 else dataN 1 1

/-- D of an atomic: a pair in a 64-bit form (R388). -/
def atomDst (fn : Nat) : FieldKind := if fn < 16 then dst else dstN 2 2

/-- C of an atomic: CAS takes its two operands in consecutive registers or pairs (R388). -/
def atomData (fn : Nat) : FieldKind :=
  if fn == 9 then casN 2 2 else if fn == 25 then casN 4 4 else if fn < 16 then dataN 1 1 else dataN 2 2

/-- The form of major opcode `op` under selector `fn`; none for an unassigned opcode (R315, R316). -/
def opForm (op fn : Nat) : Option Form :=
  match op with
  | 0x01 => some (false, zero, zero, zero, zero)  -- NOP
  | 0x02 => some (false, zero, src, zero, zero)  -- MODE
  | 0x03 => some (false, zero, srcPair, target, zero)  -- BRA
  | 0x04 => some (true, zero, pred, lit, zero)  -- BR
  | 0x05 => some (false, zero, zero, zero, zero)  -- JOIN
  | 0x06 => some (false, zero, srcPair, lit, zero)  -- BRX
  | 0x07 => some (false, dstPair, srcPair, target, zero)  -- CALL
  | 0x08 => some (false, zero, srcPair, zero, zero)  -- RET
  | 0x09 => some (false, zero, zero, zero, zero)  -- EXIT
  | 0x0A => some (false, zero, zero, zero, zero)  -- YIELD
  | 0x0B => some (false, zero, src, zero, zero)  -- TRAP
  | 0x0C => some (false, zero, zero, zero, zero)  -- RFT
  | 0x0D => some (false, dst, lit, zero, zero)  -- RDSR
  | 0x0E => some (false, zero, src, lit, zero)  -- WRSR
  | 0x0F => some (false, zero, src, zero, zero)  -- BOOST
  | 0x10 => some (false, zero, src, zero, zero)  -- SRSEED
  | 0x20 => some (true, pred, src, zero, zero)  -- PSET
  | 0x21 => some (true, pred, pred, pred, zero)  -- PLOG
  | 0x22 => some (false, pred, srcPair, zero, zero)  -- PMOV
  | 0x23 => some (false, dstPair, pred, zero, zero)  -- BALLOT
  | 0x24 => some (false, dst, pred, zero, zero)  -- POPM
  | 0x28 => some (true, dst, src, src, zero)  -- SHFL
  | 0x29 => some (false, dst, src, src, zero)  -- BCAST
  | 0x2A => some (true, dst, src, zero, zero)  -- LRED
  | 0x2B => some (true, dst, src, zero, zero)  -- LSCAN
  | 0x2C => some (true, pred, pred, zero, zero)  -- VOTE
  | 0x2D => some (false, dstPair, src, zero, zero)  -- MATCH
  | 0x2E => some (true, dst, src, src, src)  -- PERM
  | 0x40 => some (false, dst, src, src, zero)  -- IADD
  | 0x41 => some (false, dst, src, src, zero)  -- ISUB
  | 0x42 => some (false, dst, src, src, zero)  -- IMUL
  | 0x43 => some (false, dst, src, src, zero)  -- IMULH
  | 0x44 => some (true, dst, src, src, src)  -- IMAD
  | 0x45 => some (false, dst, src, src, zero)  -- IMIN
  | 0x46 => some (false, dst, src, src, zero)  -- IMAX
  | 0x47 => some (false, dst, src, zero, zero)  -- IABS
  | 0x48 => some (false, dst, src, zero, zero)  -- INEG
  | 0x50 => some (false, dst, src, src, zero)  -- AND
  | 0x51 => some (false, dst, src, src, zero)  -- OR
  | 0x52 => some (false, dst, src, src, zero)  -- XOR
  | 0x53 => some (false, dst, src, zero, zero)  -- NOT
  | 0x54 => some (false, dst, src, src, zero)  -- SHL
  | 0x55 => some (false, dst, src, src, zero)  -- SHR
  | 0x56 => some (false, dst, src, src, zero)  -- SAR
  | 0x57 => some (false, dst, src, src, zero)  -- ROT
  | 0x58 => some (true, dst, src, src, src)  -- FSHL
  | 0x59 => some (true, dst, src, src, src)  -- FSHR
  | 0x5A => some (true, dst, src, src, zero)  -- BFX
  | 0x5B => some (true, dst, src, src, src)  -- BFI
  | 0x5C => some (false, dst, src, zero, zero)  -- POPC
  | 0x5D => some (false, dst, src, zero, zero)  -- CLZ
  | 0x5E => some (false, dst, src, zero, zero)  -- BREV
  | 0x5F => some (true, dst, src, src, pred)  -- SEL
  | 0x60 => some (true, pred, src, src, zero)  -- ICMP
  | 0x61 => some (true, (if fn % 8 == 2 || fn % 8 == 3 then dstPair else dst), src, zero, zero)  -- ICVT
  | 0x68 => some (true, dstPair, srcPair, src, zero)  -- LEA
  | 0x69 => some (false, dstPair, srcPair, srcPair, zero)  -- ADDA
  | 0x6A => some (false, dst, src, src, zero)  -- AFF
  | 0x70 => some (false, dst, src, src, zero)  -- FADD
  | 0x71 => some (false, dst, src, src, zero)  -- FSUB
  | 0x72 => some (false, dst, src, src, zero)  -- FMUL
  | 0x73 => some (true, dst, src, src, src)  -- FMA
  | 0x74 => some (false, dst, src, src, zero)  -- FMIN
  | 0x75 => some (false, dst, src, src, zero)  -- FMAX
  | 0x76 => some (false, dst, src, zero, zero)  -- FNEG
  | 0x77 => some (false, dst, src, zero, zero)  -- FABS
  | 0x78 => some (true, pred, src, src, zero)  -- FCMP
  | 0x79 => some (false, dst, src, zero, zero)  -- FCLASS
  | 0x7A => some (false, dst, src, zero, zero)  -- FRND
  | 0x7B => some (false, dst, src, src, zero)  -- FSCALE
  | 0x80 => some (false, dst, src, zero, zero)  -- FRCP
  | 0x81 => some (false, dst, src, zero, zero)  -- FRSQ
  | 0x82 => some (false, dst, src, zero, zero)  -- FSQRT
  | 0x83 => some (false, dst, src, zero, zero)  -- FEXP2
  | 0x84 => some (false, dst, src, zero, zero)  -- FLOG2
  | 0x85 => some (false, dst, src, zero, zero)  -- FSIN
  | 0x86 => some (false, dst, src, zero, zero)  -- FCOS
  | 0x90 => some (true, (if fn == 2 || fn == 3 || fn == 7 then dstPair else dst), src, zero, zero)  -- CVT
  | 0x91 => some (true, dst, src, src, (if fn ≤ 2 then zero else src))  -- PACK
  | 0x92 => some (true, (dstN 2 2), src, zero, zero)  -- UNPACK
  | 0x93 => some (false, dst, zero, zero, zero)  -- FLGRD
  | 0x94 => some (false, zero, src, zero, zero)  -- FLGCLR
  | 0xA0 => some (true, (loadDst fn), srcPair, src, zero)  -- LD
  | 0xA1 => some (true, zero, srcPair, src, (storeData fn))  -- ST
  | 0xA2 => some (true, (loadDst fn), src, src, zero)  -- LDS
  | 0xA3 => some (true, zero, src, src, (storeData fn))  -- STS
  | 0xA4 => some (true, (loadDst fn), src, src, zero)  -- LDX
  | 0xA5 => some (true, zero, src, src, (storeData fn))  -- STX
  | 0xA6 => some (false, zero, srcPair, src, zero)  -- PREF
  | 0xA8 => some (true, (atomDst fn), srcPair, src, (atomData fn))  -- ATOM
  | 0xA9 => some (true, (atomDst fn), src, src, (atomData fn))  -- ATOMS
  | 0xAA => some (true, zero, srcPair, src, (atomData fn))  -- RED
  | 0xB0 => some (false, zero, count, count, zero)  -- WAITCNT
  | 0xB1 => some (false, zero, zero, zero, zero)  -- COMMIT
  | 0xC0 => some (false, zero, zero, zero, zero)  -- BAR
  | 0xC1 => some (false, dst, zero, zero, zero)  -- DARRIVE
  | 0xC2 => some (false, zero, src, zero, zero)  -- DWAIT
  | 0xC3 => some (false, dst, zero, zero, zero)  -- GARRIVE
  | 0xC4 => some (false, zero, src, zero, zero)  -- GWAIT
  | 0xC8 => some (false, zero, src, src, zero)  -- EVSET
  | 0xC9 => some (false, zero, src, zero, zero)  -- EVCLR
  | 0xCA => some (false, dst, src, src, zero)  -- WAITANY
  | 0xCC => some (false, dst, src, srcPair, zero)  -- MSEND
  | 0xCD => some (false, dstPair, src, zero, zero)  -- MRECV
  | 0xCE => some (true, dst, src, src, zero)  -- XSHF
  | 0xD0 => some (false, zero, zero, zero, zero)  -- TRIG
  | 0xD1 => some (false, dst, src, src, zero)  -- LAUNCH
  | 0xE0 => some (true, zero, (if fn == 0 || fn == 2 then srcPair else src), (if fn ≤ 1 then srcPair else src), src)  -- CPY
  | 0xE1 => some (true, zero, src, srcPair, src)  -- CPYM
  | 0xE2 => some (true, zero, src, zero, zero)  -- GATH
  | 0xE3 => some (true, zero, src, zero, zero)  -- SCAT
  | 0xE4 => some (true, zero, src, zero, zero)  -- GCSR
  | 0xE5 => some (true, zero, src, zero, zero)  -- STAGE
  | 0xE6 => some (true, dst, zero, zero, zero)  -- CLOSE
  | 0xE7 => some (true, zero, src, zero, zero)  -- WAITB
  | 0xE8 => some (true, zero, srcPair, src, src)  -- LDB
  | 0xE9 => some (false, zero, zero, zero, zero)  -- MFENCE
  | 0xEA => some (true, tile, (block 8), src, src)  -- MMA
  | 0xEB => some (true, tile, src, src, src)  -- MMAS
  | 0xEC => some (false, zero, src, zero, zero)  -- ACCNEXT
  | 0xED => some (true, (block 16), src, zero, zero)  -- ACCRD
  | 0xEE => some (true, zero, src, zero, (block 16))  -- ACCWR
  | 0xEF => some (true, zero, (if fn == 0 then srcPair else src), src, src)  -- EPI
  | 0xF0 => some (true, zero, src, zero, zero)  -- COLL
  | 0xF4 => some (true, zero, src, zero, zero)  -- DPFX
  | 0xF5 => some (true, zero, src, zero, zero)  -- DRLE
  | 0xF6 => some (true, zero, src, zero, zero)  -- DBIT
  | 0xF7 => some (true, zero, src, zero, zero)  -- DCHK
  | _ => none

/-- The FN values that opcode `op` accepts: those of its entry's FN table, and 0 alone where it has none (R301). -/
def fnAccepted (op fn : Nat) : Bool :=
  match op with
  | 0x04 => fn ≤ 1  -- BR
  | 0x20 => fn ≤ 3  -- PSET
  | 0x21 => fn ≤ 7  -- PLOG
  | 0x28 => fn ≤ 3  -- SHFL
  | 0x2A => fn ≤ 8  -- LRED
  | 0x2B => fn ≤ 8 || (16 ≤ fn && fn ≤ 24)  -- LSCAN
  | 0x2C => fn ≤ 2  -- VOTE
  | 0x2E => fn ≤ 1  -- PERM
  | 0x58 => fn ≤ 1  -- FSHL
  | 0x59 => fn ≤ 1  -- FSHR
  | 0x5A => fn ≤ 1  -- BFX
  | 0x5F => fn ≤ 1  -- SEL
  | 0x60 => fn ≤ 5  -- ICMP
  | 0x61 => fn % 8 ≤ 5  -- ICVT
  | 0x68 => fn ≤ 31  -- LEA
  | 0x73 => fn ≤ 3  -- FMA
  | 0x78 => fn ≤ 15  -- FCMP
  | 0x90 => fn ≤ 14  -- CVT
  | 0x91 => fn ≤ 16  -- PACK
  | 0x92 => fn ≤ 15 && fn % 4 != 3  -- UNPACK
  | 0xA0 => fn ≤ 6  -- LD
  | 0xA1 => fn ≤ 4  -- ST
  | 0xA2 => fn ≤ 6  -- LDS
  | 0xA3 => fn ≤ 4  -- STS
  | 0xA4 => fn ≤ 6  -- LDX
  | 0xA5 => fn ≤ 4  -- STX
  | 0xA8 => fn % 16 ≤ 10  -- ATOM
  | 0xA9 => fn % 16 ≤ 10  -- ATOMS
  | 0xAA => fn % 16 ≤ 10 && fn % 16 != 8 && fn % 16 != 9  -- RED
  | 0xCE => fn ≤ 1  -- XSHF
  | 0xE0 => fn ≤ 3  -- CPY
  | 0xE5 => fn ≤ 1  -- STAGE
  | 0xE6 => fn ≤ 7  -- CLOSE
  | 0xE7 => fn ≤ 15  -- WAITB
  | 0xE8 => fn ≤ 3 || (8 ≤ fn && fn ≤ 11)  -- LDB
  | 0xEA => fn ≤ 4  -- MMA
  | 0xEB => fn ≤ 4  -- MMAS
  | 0xEF => fn ≤ 1  -- EPI
  | 0xF0 => fn % 4 ≤ 2 && fn ≤ 6  -- COLL
  | 0xF4 => fn == 0 || fn == 2  -- DPFX
  | 0xF5 => fn ≤ 3  -- DRLE
  | 0xF6 => fn ≤ 3  -- DBIT
  | 0xF7 => fn ≤ 2  -- DCHK
  | _ => fn == 0

/-- The SUB, 4 or 5, of one field whose code is not one its kind allows; 0 when the code is allowed (R303).
`cField` is true for C, where 127 never names the literal. DESIGN CHOICE (log entry 145): a field fixed at 127 gives 5 for 126 and 4 for
any other code, and a block field, which both wordings meet, gives 5 for 126 and 4 for any other code that names no block. -/
def fieldSub (k : FieldKind) (cField : Bool) (x : Nat) : Nat :=
  let source := if x == 126 then 5 else if cField && x == 127 then 4 else 0
  let dest := if x == 126 then 5 else if x == 121 || x == 122 || x == 124 || x == 125 || x == 127 then 4 else 0
  match k with
  | zero => if x == 0 then 0 else 4
  | dst => dest
  | dstPair => if x < 120 && x % 2 == 1 then 4 else dest
  | src => source
  | srcPair => if x < 120 && x % 2 == 1 then 4 else source
  | pred => if x < 8 then 0 else 4
  | lit => if x == 127 then 0 else if x == 126 then 5 else 4
  | tile => if x < 16 then 0 else 4
  | count => if x ≤ 64 then 0 else 4
  | block _ => if x == 126 then 5 else if x < 120 && x % 4 == 0 then 0 else 4
  | dstN align _ => if x < 120 && x % align != 0 then 4 else dest
  | dataN align _ => if x < 120 && x % align != 0 then 4 else source
  | casN align _ => if x == 126 then 5 else if x < 120 && x % align == 0 then 0 else 4
  | target => if x == 0 || x == 127 then 0 else 4

/-- The lowest nonzero of two SUB values (R303: the lowest SUB is recorded). -/
def lowSub (x y : Nat) : Nat := if x == 0 then y else if y == 0 then x else min x y

/-- The SUB of the operand fields `o` of opcode `op` in form `f`, whose extension word is present when `ext`;
0 when the words of the fields are legal (R303, conditions 2 to 5; R330 for the literal form of BRA and CALL). -/
def formSub (op : Nat) (f : Form) (ext : Bool) (o : Operands) : Nat :=
  let (e, kd, ka, kb, kc) := f
  if e && ext && !fnAccepted op o.fn.toNat then 2
  else if o.a == 127#7 && o.b == 127#7 then 3
  else if ext != e then 4
  else
    let lit := if kb == target && o.b == 127#7 && o.a != 0#7 then 4 else 0
    lowSub lit (lowSub (fieldSub kd false o.d.toNat) (lowSub (fieldSub ka false o.a.toNat)
      (lowSub (fieldSub kb false o.b.toNat) (fieldSub kc true o.c.toNat))))

/-- The instruction of an assigned opcode. BRA and CALL with B = 127 are the literal forms (R330). -/
def ofOp (op : Nat) (o : Operands) : Option Instr :=
  match op with
  | 0x01 => some (.nop o)
  | 0x02 => some (.mode o)
  | 0x03 => some (if o.b == 127#7 then .braLabel o else .bra o)
  | 0x04 => some (.br o)
  | 0x05 => some (.join o)
  | 0x06 => some (.brx o)
  | 0x07 => some (if o.b == 127#7 then .callLabel o else .call o)
  | 0x08 => some (.ret o)
  | 0x09 => some (.exit o)
  | 0x0A => some (.yield o)
  | 0x0B => some (.trap o)
  | 0x0C => some (.rft o)
  | 0x0D => some (.rdsr o)
  | 0x0E => some (.wrsr o)
  | 0x0F => some (.boost o)
  | 0x10 => some (.srseed o)
  | 0x20 => some (.pset o)
  | 0x21 => some (.plog o)
  | 0x22 => some (.pmov o)
  | 0x23 => some (.ballot o)
  | 0x24 => some (.popm o)
  | 0x28 => some (.shfl o)
  | 0x29 => some (.bcast o)
  | 0x2A => some (.lred o)
  | 0x2B => some (.lscan o)
  | 0x2C => some (.vote o)
  | 0x2D => some (.matchLanes o)
  | 0x2E => some (.perm o)
  | 0x40 => some (.iadd o)
  | 0x41 => some (.isub o)
  | 0x42 => some (.imul o)
  | 0x43 => some (.imulh o)
  | 0x44 => some (.imad o)
  | 0x45 => some (.imin o)
  | 0x46 => some (.imax o)
  | 0x47 => some (.iabs o)
  | 0x48 => some (.ineg o)
  | 0x50 => some (.bitAnd o)
  | 0x51 => some (.bitOr o)
  | 0x52 => some (.bitXor o)
  | 0x53 => some (.bitNot o)
  | 0x54 => some (.shl o)
  | 0x55 => some (.shr o)
  | 0x56 => some (.sar o)
  | 0x57 => some (.rot o)
  | 0x58 => some (.fshl o)
  | 0x59 => some (.fshr o)
  | 0x5A => some (.bfx o)
  | 0x5B => some (.bfi o)
  | 0x5C => some (.popc o)
  | 0x5D => some (.clz o)
  | 0x5E => some (.brev o)
  | 0x5F => some (.sel o)
  | 0x60 => some (.icmp o)
  | 0x61 => some (.icvt o)
  | 0x68 => some (.lea o)
  | 0x69 => some (.adda o)
  | 0x6A => some (.aff o)
  | 0x70 => some (.fadd o)
  | 0x71 => some (.fsub o)
  | 0x72 => some (.fmul o)
  | 0x73 => some (.fma o)
  | 0x74 => some (.fmin o)
  | 0x75 => some (.fmax o)
  | 0x76 => some (.fneg o)
  | 0x77 => some (.fabs o)
  | 0x78 => some (.fcmp o)
  | 0x79 => some (.fclass o)
  | 0x7A => some (.frnd o)
  | 0x7B => some (.fscale o)
  | 0x80 => some (.frcp o)
  | 0x81 => some (.frsq o)
  | 0x82 => some (.fsqrt o)
  | 0x83 => some (.fexp2 o)
  | 0x84 => some (.flog2 o)
  | 0x85 => some (.fsin o)
  | 0x86 => some (.fcos o)
  | 0x90 => some (.cvt o)
  | 0x91 => some (.pack o)
  | 0x92 => some (.unpack o)
  | 0x93 => some (.flgrd o)
  | 0x94 => some (.flgclr o)
  | 0xA0 => some (.ld o)
  | 0xA1 => some (.st o)
  | 0xA2 => some (.lds o)
  | 0xA3 => some (.sts o)
  | 0xA4 => some (.ldx o)
  | 0xA5 => some (.stx o)
  | 0xA6 => some (.pref o)
  | 0xA8 => some (.atom o)
  | 0xA9 => some (.atoms o)
  | 0xAA => some (.red o)
  | 0xB0 => some (.waitcnt o)
  | 0xB1 => some (.commit o)
  | 0xC0 => some (.bar o)
  | 0xC1 => some (.darrive o)
  | 0xC2 => some (.dwait o)
  | 0xC3 => some (.garrive o)
  | 0xC4 => some (.gwait o)
  | 0xC8 => some (.evset o)
  | 0xC9 => some (.evclr o)
  | 0xCA => some (.waitany o)
  | 0xCC => some (.msend o)
  | 0xCD => some (.mrecv o)
  | 0xCE => some (.xshf o)
  | 0xD0 => some (.trig o)
  | 0xD1 => some (.launch o)
  | 0xE0 => some (.cpy o)
  | 0xE1 => some (.cpym o)
  | 0xE2 => some (.gath o)
  | 0xE3 => some (.scat o)
  | 0xE4 => some (.gcsr o)
  | 0xE5 => some (.stage o)
  | 0xE6 => some (.close o)
  | 0xE7 => some (.waitb o)
  | 0xE8 => some (.ldb o)
  | 0xE9 => some (.mfence o)
  | 0xEA => some (.mma o)
  | 0xEB => some (.mmas o)
  | 0xEC => some (.accnext o)
  | 0xED => some (.accrd o)
  | 0xEE => some (.accwr o)
  | 0xEF => some (.epi o)
  | 0xF0 => some (.coll o)
  | 0xF4 => some (.dpfx o)
  | 0xF5 => some (.drle o)
  | 0xF6 => some (.dbit o)
  | 0xF7 => some (.dchk o)
  | _ => none

/-- The opcode and the operand fields of a Faleri instruction; none for an event of the device. -/
def Instr.word? (i : Instr) : Option (Nat × Operands) :=
  match i with
  | .nop o => some (0x01, o)
  | .mode o => some (0x02, o)
  | .bra o => some (0x03, o)
  | .braLabel o => some (0x03, o)
  | .br o => some (0x04, o)
  | .join o => some (0x05, o)
  | .brx o => some (0x06, o)
  | .call o => some (0x07, o)
  | .callLabel o => some (0x07, o)
  | .ret o => some (0x08, o)
  | .exit o => some (0x09, o)
  | .yield o => some (0x0A, o)
  | .trap o => some (0x0B, o)
  | .rft o => some (0x0C, o)
  | .rdsr o => some (0x0D, o)
  | .wrsr o => some (0x0E, o)
  | .boost o => some (0x0F, o)
  | .srseed o => some (0x10, o)
  | .pset o => some (0x20, o)
  | .plog o => some (0x21, o)
  | .pmov o => some (0x22, o)
  | .ballot o => some (0x23, o)
  | .popm o => some (0x24, o)
  | .shfl o => some (0x28, o)
  | .bcast o => some (0x29, o)
  | .lred o => some (0x2A, o)
  | .lscan o => some (0x2B, o)
  | .vote o => some (0x2C, o)
  | .matchLanes o => some (0x2D, o)
  | .perm o => some (0x2E, o)
  | .iadd o => some (0x40, o)
  | .isub o => some (0x41, o)
  | .imul o => some (0x42, o)
  | .imulh o => some (0x43, o)
  | .imad o => some (0x44, o)
  | .imin o => some (0x45, o)
  | .imax o => some (0x46, o)
  | .iabs o => some (0x47, o)
  | .ineg o => some (0x48, o)
  | .icmp o => some (0x60, o)
  | .icvt o => some (0x61, o)
  | .bitAnd o => some (0x50, o)
  | .bitOr o => some (0x51, o)
  | .bitXor o => some (0x52, o)
  | .bitNot o => some (0x53, o)
  | .shl o => some (0x54, o)
  | .shr o => some (0x55, o)
  | .sar o => some (0x56, o)
  | .rot o => some (0x57, o)
  | .fshl o => some (0x58, o)
  | .fshr o => some (0x59, o)
  | .bfx o => some (0x5A, o)
  | .bfi o => some (0x5B, o)
  | .popc o => some (0x5C, o)
  | .clz o => some (0x5D, o)
  | .brev o => some (0x5E, o)
  | .sel o => some (0x5F, o)
  | .lea o => some (0x68, o)
  | .adda o => some (0x69, o)
  | .aff o => some (0x6A, o)
  | .fadd o => some (0x70, o)
  | .fsub o => some (0x71, o)
  | .fmul o => some (0x72, o)
  | .fma o => some (0x73, o)
  | .fmin o => some (0x74, o)
  | .fmax o => some (0x75, o)
  | .fneg o => some (0x76, o)
  | .fabs o => some (0x77, o)
  | .fcmp o => some (0x78, o)
  | .fclass o => some (0x79, o)
  | .frnd o => some (0x7A, o)
  | .fscale o => some (0x7B, o)
  | .frcp o => some (0x80, o)
  | .frsq o => some (0x81, o)
  | .fsqrt o => some (0x82, o)
  | .fexp2 o => some (0x83, o)
  | .flog2 o => some (0x84, o)
  | .fsin o => some (0x85, o)
  | .fcos o => some (0x86, o)
  | .cvt o => some (0x90, o)
  | .pack o => some (0x91, o)
  | .unpack o => some (0x92, o)
  | .flgrd o => some (0x93, o)
  | .flgclr o => some (0x94, o)
  | .ld o => some (0xA0, o)
  | .st o => some (0xA1, o)
  | .lds o => some (0xA2, o)
  | .sts o => some (0xA3, o)
  | .ldx o => some (0xA4, o)
  | .stx o => some (0xA5, o)
  | .pref o => some (0xA6, o)
  | .atom o => some (0xA8, o)
  | .atoms o => some (0xA9, o)
  | .red o => some (0xAA, o)
  | .waitcnt o => some (0xB0, o)
  | .commit o => some (0xB1, o)
  | .bar o => some (0xC0, o)
  | .darrive o => some (0xC1, o)
  | .dwait o => some (0xC2, o)
  | .garrive o => some (0xC3, o)
  | .gwait o => some (0xC4, o)
  | .evset o => some (0xC8, o)
  | .evclr o => some (0xC9, o)
  | .waitany o => some (0xCA, o)
  | .msend o => some (0xCC, o)
  | .mrecv o => some (0xCD, o)
  | .xshf o => some (0xCE, o)
  | .trig o => some (0xD0, o)
  | .launch o => some (0xD1, o)
  | .cpy o => some (0xE0, o)
  | .cpym o => some (0xE1, o)
  | .gath o => some (0xE2, o)
  | .scat o => some (0xE3, o)
  | .gcsr o => some (0xE4, o)
  | .stage o => some (0xE5, o)
  | .close o => some (0xE6, o)
  | .waitb o => some (0xE7, o)
  | .ldb o => some (0xE8, o)
  | .mfence o => some (0xE9, o)
  | .mma o => some (0xEA, o)
  | .mmas o => some (0xEB, o)
  | .accnext o => some (0xEC, o)
  | .accrd o => some (0xED, o)
  | .accwr o => some (0xEE, o)
  | .epi o => some (0xEF, o)
  | .coll o => some (0xF0, o)
  | .dpfx o => some (0xF4, o)
  | .drle o => some (0xF5, o)
  | .dbit o => some (0xF6, o)
  | .dchk o => some (0xF7, o)
  | .unassignedOpcode op s q => some (op.toNat, ⟨s, q, 0#7, 0#7, 0#7, 0#7, 0#5, 0#32⟩)
  | _ => none

/-- Bits [hi:lo] of a word, `w` of them from `lo` up. -/
def bits (x : W32) (lo w : Nat) : BitVec w := x.extractLsb' lo w

/-- The base word (R297): S, Q, OP, D, A, B, E from bit 31 down. -/
def baseWord (op : Nat) (ext : Bool) (o : Operands) : W32 :=
  BitVec.ofBool o.s ++ BitVec.ofBool o.q ++ BitVec.ofNat 8 op ++ o.d ++ o.a ++ o.b ++ BitVec.ofBool ext

/-- The extension word (R301): C, FN, and 20 reserved bits. -/
def extWord (o : Operands) : W32 := o.c ++ o.fn ++ 0#20

/-- Whether an instruction takes a literal word: A or B holds 127 (R298, R302). -/
def hasLit (o : Operands) : Bool := o.a == 127#7 || o.b == 127#7

/-- The operand fields that a base word, an extension word and a literal word give. -/
def fieldsOf (w : W32) (ext : Option W32) (lit : W32) : Operands :=
  ⟨(bits w 31 1) == 1#1, (bits w 30 1) == 1#1, bits w 15 7, bits w 8 7, bits w 1 7,
    match ext with | some x => bits x 25 7 | none => 0#7,
    match ext with | some x => bits x 20 5 | none => 0#5, lit⟩

/-- The instruction that stands at the head of a list of words, with its length in words; or why there is none.
Total on any words. The literal word follows the extension word where both stand (R302). -/
def decode (ws : List W32) : Except DecodeError (Instr × Nat) :=
  match ws with
  | [] => .error .truncated
  | w :: rest =>
    let op := (bits w 22 8).toNat
    let ext := bits w 0 1 == 1#1
    let (x, rest) := match ext, rest with
      | true, x :: rest => (some x, rest)
      | true, [] => (none, [])
      | false, rest => (none, rest)
    let o := fieldsOf w x 0#32
    let form := opForm op o.fn.toNat
    match form with
    | none => .ok (.unassignedOpcode (bits w 22 8) o.s o.q, 1)
    | some f =>
      if ext && x.isNone then .error .truncated
      else
        let reserved := match x with | some x => bits x 0 20 != 0#20 | none => false
        let sub := formSub op f ext o
        let sub := if reserved && (sub == 0 || sub == 5) then 4 else sub
        if sub != 0 then .error (.illegal sub)
        else
          let n := 1 + (if ext then 1 else 0)
          if hasLit o then
            match rest with
            | [] => .error .truncated
            | l :: _ =>
              match ofOp op { o with lit := l } with
              | some i => .ok (i, n + 1)
              | none => .error (.illegal 1)
          else
            match ofOp op o with
            | some i => .ok (i, n)
            | none => .error (.illegal 1)

/-- The words of a Faleri instruction (R297, R301, R302); no words for an event of the device. -/
def encode (i : Instr) : List W32 :=
  match i.word? with
  | none => []
  | some (op, o) =>
    match opForm op o.fn.toNat with
    | none => [baseWord op false o]
    | some (e, _) =>
      baseWord op e o :: ((if e then [extWord o] else []) ++ (if hasLit o then [o.lit] else []))

/-- The length in words of an instruction that stands in memory (R298). -/
def lengthWords (i : Instr) : Nat := (encode i).length

/-- The instruction the decoder reads from an instruction of `nbits` bits `w`, its later words 0. Bit 0 is the
least significant bit of the first word. -/
def decodeTableWord (nbits w : Nat) : Option Instr :=
  let w := w % 2 ^ nbits
  match decode [BitVec.ofNat 32 w, BitVec.ofNat 32 (w / 2 ^ 32), BitVec.ofNat 32 (w / 2 ^ 64)] with
  | .ok (i, _) => some i
  | .error _ => none

end Sys2Proof
end

