-- ==== Sys2Proof/Machine/Ops.lean ====
section
/-! DEFINITION. The named operations over registers, fragments and groups, taking a trap and returning from one, and the
issue of an instruction. -/
namespace Sys2Proof.Machine

/-! ## Registers -/

/-- Lane `l` of a register's contents, expanded (R202). -/
def RegVal.lane (v : RegVal) (l : Nat) : W32 :=
  match v with
  | .raw => 0
  | .uniform x => x
  | .affine b st hi =>
    let x := b + st * BitVec.ofNat 64 l
    if hi then x.extractLsb' 32 32 else x.extractLsb' 0 32
  | .general xs => xs.getD l 0

/-- A register of a group (R199: reset-raw until written). -/
def Group.reg (g : Group) (n : Nat) : VReg := tgetD g.regs n {}

/-- When beat `b` of an outstanding write is available. -/
def Outst.at (w : Outst) (b : Nat) : Nat := w.avail.getD b 0

/-- Whether a write is outstanding in some lane at a time. -/
def Outst.busy (w : Outst) (t : Nat) : Bool :=
  (List.range 4).any fun b => w.at b > t && (w.mask.extractLsb' (16 * b) 16) != 0#16

/-- A lane through the outstanding writes of one destination, the latest first: where a write is not yet available at
time `t`, the old contents or the new, as a free bit says (R216). -/
def throughOuts (ws : List Outst) (old : Outst → W64) (free : Nat → Bool) (l t : Nat) (v : W64) : W64 :=
  match ws with
  | [] => v
  | w :: r =>
    if inMask w.mask l && w.at (l / 16) > t then
      if free ws.length then v else throughOuts r old free l t (old w)
    else throughOuts r old free l t v

/-- The outstanding writes of register `n`, the latest first. -/
def Group.regOuts (g : Group) (n : Nat) : List Outst :=
  (g.outs.filter fun w => match w.dst with | .reg k _ => k == n | _ => false).reverse

/-- When the first beat of a write of the lanes of `mask` takes effect. -/
def firstBeat (mask : W64) (avail : List Nat) : Nat :=
  (activeBeats mask).foldl (fun a b => min a (avail.getD b 0)) (avail.getD (lowLane mask / 16) 0)

/-- The tag that a reader finds of register `n` at a time (R204, R216): that of the write whose first beat has taken effect last. -/
def Group.regSeen (g : Group) (n t : Nat) : VReg :=
  match g.regOuts n with
  | [] => g.reg n
  | ws =>
    let held := ws.reverse.flatMap fun w => match w.dst with
      | .reg _ old => [old, w.own]
      | _ => []
    (held ++ [g.reg n]).foldl (fun a v => if v.since ≤ t && a.since ≤ v.since then v else a) (held.headD {})

/-- Register `n` of a group in lane `l`, read at time `t` (R202, R216); `seed` names the free choices of the reader. -/
def Group.regLane (g : Group) (seed n l t : Nat) : W32 :=
  let v := (g.reg n).val.lane l
  match g.regOuts n with
  | [] => v
  | ws =>
    (throughOuts ws (fun w => match w.dst with | .reg _ o => (o.val.lane l).setWidth 64 | _ => 0)
      (fun k => Config.freeBit seed (1024 * n + 16 * l + k)) l t (v.setWidth 64)).setWidth 32

/-- Bit mask `x` read through its outstanding writes at time `t` (R216), lane by lane. -/
def throughMask (ws : List Outst) (old : Outst → W64) (seed base t : Nat) (x : W64) : W64 :=
  match ws with
  | [] => x
  | ws => maskOf fun l =>
      (throughOuts ws (fun w => if inMask (old w) l then 1 else 0)
        (fun k => Config.freeBit seed (base + 16 * l + k)) l t (if inMask x l then 1 else 0)) == 1

/-- Predicate `k` of a group, read at time `t`. -/
def Group.predAt (g : Group) (seed k t : Nat) : W64 :=
  throughMask ((g.outs.filter fun w => match w.dst with | .pred j _ => j == k | _ => false).reverse)
    (fun w => match w.dst with | .pred _ o => o | _ => 0) seed (200000 + 2048 * k) t (g.preds.getD k 0)

/-- EXEC of a group, read at time `t`. -/
def Group.execAt (g : Group) (seed t : Nat) : W64 :=
  throughMask ((g.outs.filter fun w => match w.dst with | .exec _ => true | _ => false).reverse)
    (fun w => match w.dst with | .exec o => o | _ => 0) seed 300000 t g.exec

/-- The flags of a group's lanes as of time `t` (R371): in one cycle a raise wins over a clear. -/
def flagsAt (fl : List (BitVec 5)) (q : List FlagEvent) (t : Nat) : List (BitVec 5) :=
  let due := q.filter fun e => e.time ≤ t
  let ts := (due.map fun e => e.time).eraseDups.mergeSort (· ≤ ·)
  ts.foldl (fun fl u =>
    let now := due.filter fun e => e.time == u
    let cl := now.foldl (fun fl e => if e.raise then fl else lset fl e.lane (fl.getD e.lane 0 &&& ~~~ e.bits)) fl
    now.foldl (fun fl e => if e.raise then lset fl e.lane (fl.getD e.lane 0 ||| e.bits) else fl) cl) fl

/-- A group with the results and flags that are available by time `t` no longer pending. -/
def Group.settle (g : Group) (t : Nat) : Group :=
  { g with
    outs := g.outs.filter fun w => w.busy t || (w.dst == .mode && w.at 0 > t)
    flags := match g.flagQueue with | [] => g.flags | q => flagsAt g.flags q t
    flagQueue := g.flagQueue.filter fun e => e.time > t }

/-- Whether a fragment's wait is for a value of D that is to be written (R394). WAITANY's is not counted: R109 gives a group that waits
there no result outstanding. -/
def Wait.writes : Wait → Bool
  | .status _ d => d != 120#7
  | .mrecv _ d _ => d != 120#7
  | _ => false

/-- Whether an exchange is to write its D. -/
def Exchange.writes (x : Exchange) : Bool := x.dst != 120#7

/-- The results that a group's waiting fragments are to write. -/
def Group.awaited (g : Group) : Nat :=
  (g.split.filter fun e => e.2.wait.writes).length + (if g.exchange.any Exchange.writes then 1 else 0)

/-- The results of issued instructions that are not written yet. -/
def Group.pending (g : Group) (t : Nat) : Nat := (g.settle t).outs.length + g.pendRegs.length

/-- The count of outstanding register results of R215. -/
def Group.outstanding (g : Group) (t : Nat) : Nat := g.pending t + g.awaited

/-- The contents of a register after a write of `new` in the lanes of `mask`: as written under a full mask, unchanged under
an empty one, lane by lane otherwise (R203). -/
def mergeVal (old new : RegVal) (mask : W64) : RegVal :=
  if mask == fullMask then new
  else if mask == 0 then old
  else .general ((List.range 64).map fun l => if inMask mask l then new.lane l else old.lane l)

/-- One register write of an instruction: the register, its tag, its contents, the lanes written, and when each beat is
available; `fixed` is false where the data has just been written (R216). -/
structure RegOut where
  n : Nat
  fmt : Nat
  cnt : Nat
  val : RegVal
  mask : W64

/-- A write beneath the outstanding writes of its destination that take effect later (R216): in each lane it becomes what lies beneath
the first of them. The lanes of `m` that are left take the write on top. `mine` names the writes of the destination, and `put` puts the
write's lanes into old contents. -/
def slipUnder (mine : OutDst → Bool) (put : OutDst → W64 → OutDst) (avail : List Nat) : W64 → List Outst → List Outst × W64
  | m, [] => ([], m)
  | m, x :: r =>
    if !mine x.dst then
      let (r', m') := slipUnder mine put avail m r
      (x :: r', m')
    else
      let hit := maskOf fun l => inMask (x.mask &&& m) l && x.at (l / 16) > avail.getD (l / 16) 0
      let (r', m') := slipUnder mine put avail (m &&& ~~~ hit) r
      ((if hit == 0 then x else { x with dst := put x.dst hit }) :: r', m')

/-- A group after a register write whose beats are available at `avail` (R216). Where an earlier write takes effect later, that write
stays on top and this one becomes what lies beneath it; the tag is that of the write whose first beat takes effect last. -/
def Group.writeReg (g : Group) (w : RegOut) (avail : List Nat) : Group :=
  let old := g.reg w.n
  let first := firstBeat w.mask avail
  let own : VReg := ⟨w.fmt, w.cnt, mergeVal old.val w.val w.mask, first⟩
  match g.regOuts w.n with
  | [] =>
    { g with
      regs := tset g.regs w.n own
      outs := g.outs ++ [⟨.reg w.n old, w.mask, avail, own⟩] }
  | _ =>
    let (outs, m) := slipUnder (fun d => match d with | .reg k _ => k == w.n | _ => false)
      (fun d hit => match d with | .reg k o => .reg k { o with val := mergeVal o.val w.val hit } | d => d) avail w.mask g.outs
    let val := mergeVal old.val w.val m
    { g with
      regs := tset g.regs w.n (if old.since > first then { old with val := val } else { own with val := val })
      outs := outs ++ [⟨.reg w.n old, m, avail, own⟩] }

/-- The data of a write without a fixed moment takes effect now (R216): nothing stays outstanding for it. -/
def Group.writeData (g : Group) (w : RegOut) (now : Nat) : Group :=
  let g' := g.writeReg w [now, now, now, now]
  { g' with outs := g'.outs.dropLast }

/-- A predicate write in some lanes, available at `avail`: a lane that an earlier write overtakes keeps that one (R216). -/
def Group.writePred (g : Group) (k : Nat) (x mask : W64) (avail : List Nat) : Group :=
  let old := g.preds.getD k 0
  let mine (d : OutDst) : Bool := match d with | .pred j _ => j == k | _ => false
  match g.outs.filter fun w => mine w.dst with
  | [] =>
    { g with
      preds := lset g.preds k ((old &&& ~~~ mask) ||| (x &&& mask))
      outs := g.outs ++ [⟨.pred k old, mask, avail, {}⟩] }
  | _ =>
    let (outs, m) := slipUnder mine
      (fun d hit => match d with | .pred j o => .pred j ((o &&& ~~~ hit) ||| (x &&& hit)) | d => d) avail mask g.outs
    { g with
      preds := lset g.preds k ((old &&& ~~~ m) ||| (x &&& m))
      outs := outs ++ [⟨.pred k old, m, avail, {}⟩] }

/-- A write of EXEC by a fragment changes only the bits in its own MASK (R200), and what takes effect later stays (R216). -/
def Group.writeExec (g : Group) (x mask : W64) (avail : List Nat) : Group :=
  let mine (d : OutDst) : Bool := match d with | .exec _ => true | _ => false
  match g.outs.filter fun w => mine w.dst with
  | [] => { g with exec := (g.exec &&& ~~~ mask) ||| (x &&& mask), outs := g.outs ++ [⟨.exec g.exec, mask, avail, {}⟩] }
  | _ =>
    let (outs, m) := slipUnder mine
      (fun d hit => match d with | .exec o => .exec ((o &&& ~~~ hit) ||| (x &&& hit)) | d => d) avail mask g.outs
    { g with exec := (g.exec &&& ~~~ m) ||| (x &&& m), outs := outs ++ [⟨.exec g.exec, m, avail, {}⟩] }

/-! ## Traps and effects -/

/-- What a trap carries (R245, R255): cause, SUB, lane, address, INFO, INFO2, and the flags WR and FETCH. -/
structure Trap where
  cause : Nat
  sub : Nat := 0
  lane : Nat := 255
  addr : W64 := 0
  info : W32 := 0
  info2 : W64 := 0
  wr : Bool := false
  fetch : Bool := false
  deriving DecidableEq, Repr

def Trap.illegal (sub : Nat) : Trap := { cause := 1, sub := sub }
def Trap.format : Trap := { cause := 2 }
def Trap.shape : Trap := { cause := 3 }
def Trap.mode : Trap := { cause := 4 }
def Trap.hazard : Trap := { cause := 5 }
def Trap.misaligned (lane : Nat) (addr : W64) : Trap := { cause := 6, lane := lane, addr := addr }
def Trap.protection (sub lane : Nat) (addr : W64) : Trap := { cause := 8, sub := sub, lane := lane, addr := addr }

/-- The pipes of a quadrant (R212). -/
inductive Pipe where
  | valu | xu | mem | ctl
  deriving DecidableEq, Repr

def Pipe.num : Pipe → Nat | .valu => 0 | .xu => 1 | .mem => 2 | .ctl => 3

/-- A row of the latency table (R213): pipe, L, o, and whether the instruction takes one beat. -/
structure Timing where
  pipe : Pipe
  lat : Nat
  occ : Nat := 1
  oneBeat : Bool := false
  deriving DecidableEq, Repr

/-- What an instruction does to its group: register, predicate, EXEC and MODE writes, flags raised and cleared, the
stepped stochastic states, and whether it took the uniform path. -/
structure Effect where
  regs : List RegOut := []
  preds : List (Nat × W64 × W64) := []
  exec : Option W64 := none
  mode : Option W32 := none
  flags : List (Nat × BitVec 5) := []
  clears : List (Nat × BitVec 5) := []
  sr : Option (Nat → W32 → W32) := none
  srOut : Bool := false
  uniform : Bool := false

/-- What an instruction sees as it issues: where it runs, its group settled at the time of issue, its fragment, its
view of EXEC and effective mask (R312), the time, the length of a core cycle, and a number for its free choices. -/
structure Ctx where
  core : Nat
  slot : Nat
  entry : Nat
  g : Group
  f : Frag
  view : W64
  mask : W64
  now : Nat
  cyc : Nat
  seed : Nat
  tm : Timing
  tix : W32
  gix : W32
  mate : BitVec 4 := 0
  second : Bool := false
  mateCyc : List Nat := []

def Ctx.et (c : Ctx) : Nat := (c.g.mode.extractLsb' 5 4).toNat
def Ctx.rm (c : Ctx) : Nat := (c.g.mode.extractLsb' 9 3).toNat
def Ctx.sat (c : Ctx) : Bool := c.g.mode.getLsbD 12
def Ctx.ftz (c : Ctx) : Bool := c.g.mode.getLsbD 13

/-- The beats of the issue slot: those of the effective mask, with those of the other candidate of a shared slot (R198,
R211). -/
def Ctx.slotBeats (c : Ctx) : List Nat :=
  if c.mate == 0 then activeBeats c.mask
  else (List.range 4).filter fun b => (activeBeats c.mask).contains b || c.mate.getLsbD b

/-- The place of lane `l`'s beat among the beats of its issue slot (R198, R211). -/
def Ctx.beatIndex (c : Ctx) (l : Nat) : Nat := (c.slotBeats.findIdx? fun b => b == l / 16).getD 0

/-- When lane `l`'s beat enters the pipe (R213). -/
def Ctx.laneTime (c : Ctx) (l : Nat) : Nat :=
  if c.tm.oneBeat then c.now else c.now + c.beatIndex l * c.tm.occ * c.cyc

/-- When each beat's result is available (R213). -/
def Ctx.avail (c : Ctx) (uniform : Bool) : List Nat :=
  (List.range 4).map fun b =>
    (if uniform then c.now else c.laneTime (16 * b)) + c.tm.lat * c.cyc

/-- The stochastic state of a lane, read at a time (R216, R356). -/
def Ctx.srAt (c : Ctx) (l t : Nat) : W32 :=
  let ws := (c.g.outs.filter fun w => match w.dst with | .sr _ => true | _ => false).reverse
  (throughOuts ws (fun w => match w.dst with | .sr o => (o.getD l 0).setWidth 64 | _ => 0)
    (fun k => Config.freeBit c.seed (400000 + 16 * l + k)) l t ((c.g.sr.getD l 0).setWidth 64)).setWidth 32

/-- A group after the effect of an instruction, each result outstanding until it is available (R215, R216, R371). -/
def Effect.apply (e : Effect) (c : Ctx) (q : Bool) (g : Group) : Group :=
  let av := c.avail e.uniform
  let g := e.regs.foldl (fun g w => g.writeReg w av) g
  let g := e.preds.foldl (fun g p => if p.2.2 == 0 then g else g.writePred p.1 p.2.1 p.2.2 av) g
  let g := match e.exec with | some x => g.writeExec x c.f.mask av | none => g
  let g := match e.mode with
    | some m => { g with mode := m, outs := g.outs ++ [Outst.mk .mode c.f.mask av {}] }
    | none => g
  let g := match e.sr with
    | some f =>
      let sr := g.sr.zipIdx.map fun (x, l) => f l x
      { g with sr := sr, outs := if e.srOut then g.outs ++ [Outst.mk (.sr g.sr) c.mask av {}] else g.outs }
    | none => g
  let raised := if q then [] else e.flags.map fun (l, b) => FlagEvent.mk (av.getD (l / 16) 0) l b true
  let cleared := e.clears.map fun (l, b) => FlagEvent.mk (av.getD (l / 16) 0) l b false
  { g with flagQueue := g.flagQueue ++ raised ++ cleared }

/-! ## Fragments, splits and joins -/

/-- The fragment of entry `e` arrives at its record while its PC is the record's JOIN (R207, R337). -/
def Group.arrive (g : Group) (e : Nat) : Nat → Group
  | 0 => g
  | fuel + 1 =>
    match tget? g.split e with
    | none => g
    | some f =>
      match tget? g.joins f.jrec with
      | none => g
      | some k =>
        if f.pc != k.join then g
        else
          let arr := k.arr ||| f.mask
          if arr == k.pend then
            { g with split := tset g.split e { f with mask := k.pend, pc := k.join, jrec := k.up }
                     joins := tdel g.joins f.jrec }.arrive e fuel
          else
            match k.dfr with
            | some (dpc, dmask) =>
              { g with split := tset g.split e { f with mask := dmask, pc := dpc }
                       joins := tset g.joins f.jrec { k with arr := arr, dfr := none } }.arrive e fuel
            | none =>
              { g with split := tdel g.split e, joins := tset g.joins f.jrec { k with arr := arr } }

/-- The fragment of entry `e` stands at an address, without an arrival. -/
def Group.standAt (g : Group) (e : Nat) (pc : W64) : Group := { g with split := tmod g.split e fun f => { f with pc := pc } }

/-- The fragment of entry `e` goes on at an address, and arrives where that is its record's JOIN (R207). -/
def Group.goTo (g : Group) (e : Nat) (pc : W64) : Group :=
  (g.standAt e pc).arrive e 40

/-- The split of R206: taken set `t` at `tpc`, fall-through set `n` at `npc`, join address `j`, in the cycle `now`;
none where no record is free (Split Depth). An empty set is no split. -/
def Group.splitAt (g : Group) (e : Nat) (t n tpc npc j : W64) (now : Nat) : Option Group :=
  match tget? g.split e with
  | none => some g
  | some f =>
    if n == 0 then some (g.goTo e tpc)
    else if t == 0 then some (g.goTo e npc)
    else
      match tfree g.joins 16 with
      | none => none
      | some k =>
        let rec0 : JoinRec := { join := j, pend := t ||| n, up := f.jrec }
        let taken := { f with mask := t, pc := tpc, jrec := k }
        match tfree g.split 8 with
        | some h =>
          let g1 : Group := { g with split := tset (tset g.split e taken) h
                                      { taken with mask := n, pc := npc, lastIssue := now }
                                     joins := tset g.joins k rec0 }
          some ((g1.arrive e 40).arrive h 40)
        | none =>
          some ({ g with split := tset g.split e taken
                         joins := tset g.joins k { rec0 with dfr := some (npc, n) } }.arrive e 40)

/-- The chain of records of a fragment: its REC and their UPs (R208). -/
def Group.chain (g : Group) (r : Nat) : Nat → List Nat
  | 0 => []
  | fuel + 1 =>
    match tget? g.joins r with
    | none => []
    | some k => r :: g.chain k.up fuel

/-- The records with PEND = 0 at the head of a fragment's chain close (R208, step 1). -/
def Group.closeEmpty (g : Group) (e : Nat) : Nat → Group
  | 0 => g
  | fuel + 1 =>
    match tget? g.split e with
    | none => g
    | some f =>
      match tget? g.joins f.jrec with
      | none => g
      | some k =>
        if k.pend == 0 then
          { g with joins := tdel g.joins f.jrec, split := tset g.split e { f with jrec := k.up } }.closeEmpty e fuel
        else g

/-- Lanes exit from the fragment of entry `e` (R208). -/
def Group.exitLanes (g : Group) (e : Nat) (lanes : W64) : Group :=
  match tget? g.split e with
  | none => g
  | some f =>
    let recs := g.chain f.jrec 17
    let g1 : Group := { g with
      exited := g.exited ||| (f.mask &&& lanes)
      joins := g.joins.map fun (k, j) => if recs.contains k then (k, { j with pend := j.pend &&& ~~~ lanes }) else (k, j)
      split := tset g.split e { f with mask := f.mask &&& ~~~ lanes } }
    let g2 := g1.closeEmpty e 17
    match tget? g2.split e with
    | none => g2
    | some f' =>
      if f'.mask != 0 then g2
      else
        match tget? g2.joins f'.jrec with
        | none => { g2 with split := tdel g2.split e }
        | some k => { g2 with split := tset g2.split e { f' with pc := k.join } }.arrive e 40

/-- Whether a group has exited: no valid entry and no deferred side remains (R208). -/
def Group.gone (g : Group) : Bool := g.split.isEmpty && g.joins.all fun (_, k) => k.dfr.isNone

/-- Whether a group is converged: one valid split entry and no open record (R245). -/
def Group.converged (g : Group) : Bool := g.split.length == 1 && g.joins.isEmpty

/-- The lanes of a group that have not exited. -/
def Group.live (g : Group) : W64 := ~~~ g.exited

/-- Whether a code names a register. -/
def isReg (x : Code) : Bool := x.toNat < 120

/-- A field of a form that names registers, with how many from its code on. -/
def fieldRegs : FieldKind → Nat
  | .dst | .src => 1
  | .dstPair | .srcPair => 2
  | .block n => n
  | .dstN _ n | .dataN _ n | .casN _ n => n
  | _ => 0

/-- Illegal Instruction with SUB 5 where a field names a register from G + C up (R201, R303). -/
def fieldsPast (op : Nat) (o : Operands) (lim : Nat) : Bool :=
  match opForm op o.fn.toNat with
  | none => false
  | some (_, d, a, b, c) =>
    [(d, o.d), (a, o.a), (b, o.b), (c, o.c)].any fun (k, x) =>
      x.toNat < 120 && fieldRegs k != 0 && x.toNat + fieldRegs k > lim

/-- The length in bytes of an instruction of opcode `op` (R298). -/
def instrBytes (op : Nat) (o : Operands) : Nat :=
  4 * (1 + (match opForm op o.fn.toNat with | some (true, _) => 1 | _ => 0) + (if hasLit o then 1 else 0))

/-! ## Taking a trap and returning from one (R247 to R252) -/

/-- The group in a slot. -/
def State.group? (s : State) (core slot : Nat) : Option Group := tget? s.groups (slotKey core slot)

/-- The state with the group of a slot replaced. -/
def State.setGroup (s : State) (core slot : Nat) (g : Group) : State :=
  { s with groups := tset s.groups (slotKey core slot) g }

/-- The team of a group. -/
def State.teamOf (s : State) (g : Group) : Team := s.teamAt g.team

/-- The flags of a trap's record: that its cause is asynchronous (R245), and how the access failed (R255). -/
def Trap.flagBits (t : Trap) : Nat := (if t.cause == 0x22 then 8 else 0) + (if t.wr then 16 else 0) + (if t.fetch then 32 else 0)

/-- The record of a trap of a group (R255). -/
def State.trapRecord (s : State) (core slot : Nat) (g : Group) (t : Trap) (pc : W64) : Record :=
  { s.groupRecord core slot g t.cause with
    flags := t.flagBits, sub := t.sub, lane := t.lane, pc := pc.toNat, addr := t.addr.toNat, info := t.info.toNat
    info2 := t.info2.toNat }

/-- The eight double-words of a record (R247 step 3). -/
def recordWords (bs : List Byte) : List W64 := (List.range 8).map fun i => BitVec.ofNat 64 (leNat ((bs.drop (8 * i)).take 8))

/-- A group enters handler mode in the fragment of entry `e` (R247): HPC, HMODE and HEXEC save the PC, MODE and EXEC,
TREC0 to TREC7 take the record, the fragment goes to the handler with MODE 0 and EXEC all ones, and the group's other
fragments stop. -/
def Group.enterHandler (g : Group) (e : Nat) (hpc handler : W64) (rec' : List Byte) : Group :=
  { g with
    hpc := hpc, hmode := g.mode, hexec := g.exec, trec := recordWords rec'
    mode := 0, exec := BitVec.allOnes 64, handler := true, badTags := false
    outs := g.outs.filter fun w => match w.dst with | .exec _ => false | .mode => false | _ => true
    split := g.split.map fun (k, f) =>
      if k == e then (k, { f with pc := handler, wait := .none }) else (k, { f with stopped := true }) }

/-- Return from a trap (R247): PC from HPC, MODE from HMODE, EXEC from HEXEC; the group leaves handler mode and its
other fragments go on. -/
def Group.leaveHandler (g : Group) (e : Nat) : Group :=
  { g with
    mode := g.hmode, exec := g.hexec, handler := false
    outs := g.outs.filter fun w => match w.dst with | .exec _ => false | .mode => false | _ => true
    split := g.split.map fun (k, f) =>
      if k == e then (k, { f with pc := g.hpc, stopped := false }) else (k, { f with stopped := false }) }

/-- A trap bound for the context handler is taken in a group's fragment (R247), with `pc` for HPC. In handler mode it is
a record with HM, and without a handler a record, and either aborts the fault domain (R248, R251). -/
def State.trapTo (s : State) (core slot entry : Nat) (t : Trap) (pc : W64) : State :=
  match s.group? core slot with
  | none => s
  | some g =>
    let s := s.tally core 13 1
    let handler := (s.gridAt (s.teamOf g).grid).eff.handler
    let r := s.trapRecord core slot g t pc
    if g.handler then
      let s := s.abortTeam g.team
      s.post { r with flags := r.flags + 2 + 4 + 64 } (some g.uid)
    else if handler == 0 then
      let s := s.abortTeam g.team
      s.post { r with flags := r.flags + 2 + 4 } (some g.uid)
    else s.setGroup core slot ((g.settle s.time).enterHandler entry pc handler (r.bytes s.bclks))

/-- The fragment in which a cause taken at a boundary is taken: the lowest-numbered valid split entry (R247). -/
def Group.boundaryEntry (g : Group) : Option (Nat × Frag) := g.split.head?

/-- A Chiplet-Fence Notice or a Version Overflow at a boundary (R247, R248): held in handler mode. -/
def State.boundaryTrap (s : State) (core slot cause : Nat) : State :=
  match s.group? core slot with
  | none => s
  | some g =>
    if g.handler then
      s.setGroup core slot (if cause == 0x22 then { g with heldNotice := true } else { g with heldOverflow := true })
    else
      match g.boundaryEntry with
      | none => s
      | some (e, f) => s.trapTo core slot e { cause := cause } f.pc

/-! ## Issue -/

/-- The effective mask of a fragment whose view of EXEC is `view` (R312). -/
def effMask (g : Group) (seed now : Nat) (view : W64) : W64 :=
  if g.mode.getLsbD 3 then
    let p := g.predAt seed (g.mode.extractLsb' 0 3).toNat now
    view &&& (if g.mode.getLsbD 4 then ~~~ p else p)
  else view

/-- What the current fragment sees as an instruction with timing `tm` issues; none where there is no such fragment. -/
def State.ctx? (s : State) (tm : Timing) : Option Ctx :=
  match s.cur with
  | none => none
  | some r =>
    match s.group? r.core r.slot with
    | none => none
    | some g0 =>
      match tget? g0.split r.entry with
      | none => none
      | some f =>
        let g := g0.settle s.time
        let view := g.execAt s.free s.time &&& f.mask
        some { core := r.core, slot := r.slot, entry := r.entry, g := g, f := f, view := view
               mask := effMask g s.free s.time view, now := s.time, cyc := s.cyc r.core, seed := s.free, tm := tm
               tix := (s.teamOf g).tix, gix := BitVec.ofNat 32 g.gix, mate := r.mate, second := r.second, mateCyc := r.mateCyc }

/-- The beats that an instruction takes (R198): one on the uniform path or in a one-beat class. -/
def Ctx.beats (c : Ctx) (uniform : Bool) : Nat :=
  if uniform || c.tm.oneBeat then 1 else (activeBeats c.mask).length

/-- The group of an issued instruction, with the fragment's last issue, its fault count restarted (R274), and the
group parked when S is set and a result is outstanding (R215). -/
def Ctx.issued (c : Ctx) (o : Operands) (g : Group) : Group :=
  { g with split := tmod g.split c.entry fun f => { f with lastIssue := c.now, lastPc := c.f.pc, faultRun := 0 }
           parkedAt := if o.s && g.outstanding c.now != 0 then some c.now else none }

/-- The beats of the other candidate of a shared issue slot. -/
def Ctx.mateBeats (c : Ctx) : Nat := ((List.range 4).filter fun b => c.mate.getLsbD b).length

/-- What an issued instruction counts as on its core (R97, R114, R211): an issue slot, charged once for a shared slot, its
skipped beats, its pipe's cycles. -/
def State.onIssue (s : State) (c : Ctx) (beats : Nat) : State :=
  let s := if c.second then s.tally c.core 3 1 else s.charge (s.teamOf c.g).grid 0 1
  let s := s.tally c.core 2 1
  let s := s.tally c.core 4 (if c.tm.oneBeat || c.second then 0 else 4 - min 4 (beats + c.mateBeats))
  match c.tm.pipe with
  | .valu => s.tally c.core 5 (beats * c.tm.occ)
  | .xu => s.tally c.core 6 (beats * c.tm.occ)
  | _ => s

/-- A synchronous trap of the instruction that issues (R247, R252): none of its effects is made. A Software trap saves
the address after it. -/
def State.takeTrap (s : State) (c : Ctx) (t : Trap) : State := s.trapTo c.core c.slot c.entry t c.f.pc

/-- The state after an instruction has issued: its group, the pipe it holds (R212), the counts and the account it is
charged to (R96, R114), and a fresh number for free choices. -/
def State.afterIssue (s : State) (c : Ctx) (o : Operands) (beats : Nat) (g : Group) : State :=
  let s1 := s.setGroup c.core c.slot (c.issued o g)
  let q := c.slot / 32
  let k := s1.core c.core
  let s2 := s1.setCore c.core
    { k with pipes := tset k.pipes (4 * q + c.tm.pipe.num) (c.now + (beats + c.mateBeats) * c.tm.occ * c.cyc) }
  { (s2.onIssue c beats) with free := s.free + 1 }

/-- The fragment after an instruction that does not branch: the next sequential PC, with the arrival of R207. -/
def Ctx.advance (c : Ctx) (op : Nat) (o : Operands) (g : Group) : Group :=
  g.goTo c.entry (c.f.pc + BitVec.ofNat 64 (instrBytes op o))

/-- A fragment that a branch leaves at a new PC issues 4 cycles after it (R329). -/
def Ctx.branchDelay (c : Ctx) (entries : List Nat) (g : Group) : Group :=
  { g with split := g.split.map fun (k, f) =>
      if entries.contains k then (k, { f with notBefore := max f.notBefore (c.now + 4 * c.cyc) }) else (k, f) }

/-- A group with the wait of an entry's fragment set. -/
def Group.setWait (g : Group) (e : Nat) (w : Wait) : Group :=
  { g with split := tmod g.split e fun f => { f with wait := w } }

/-- A group whose fragment of an entry issues from a time on. -/
def Group.delay (g : Group) (e at' : Nat) : Group :=
  { g with split := tmod g.split e fun f => { f with notBefore := max f.notBefore at' } }

/-- A fragment that an instruction holds: it stands at the next sequential PC and waits. Where that is its record's JOIN it arrives once
the wait is over (R207, R230, R394). -/
def Ctx.blocked (c : Ctx) (op : Nat) (o : Operands) (g : Group) (w : Wait) : Group :=
  (g.standAt c.entry (c.f.pc + BitVec.ofNat 64 (instrBytes op o))).setWait c.entry w

/-- Whether a system register number is in the map, whether it is 64 bits wide, and whether WRSR may write it (R354). -/
def srInfo (n : Nat) : Option (Bool × Bool) :=
  if n ≤ 3 || n == 0x18 || n == 0x19 || n == 0x30 then some (false, false)
  else if n == 0x10 || n == 0x11 || (0x20 ≤ n && n ≤ 0x27) || (0x48 ≤ n && n ≤ 0x4F) then some (true, false)
  else if n == 0x40 || n == 0x42 then some (true, true)
  else if n == 0x41 then some (false, true)
  else none

/-- Whether the words of RDSR or WRSR name no register that it takes, or an odd register as a pair (R353). -/
def srBad (op : Nat) (o : Operands) : Bool :=
  let odd (x : Code) : Bool := isReg x && x.toNat % 2 == 1
  match op, srInfo o.lit.toNat with
  | 0x0D, none => true
  | 0x0D, some (w64, _) => w64 && odd o.d
  | 0x0E, some (w64, true) => w64 && odd o.a
  | 0x0E, _ => true
  | _, _ => false

/-- The SUB of an instruction that names a register from G + C up: the lowest that its words meet (R303). -/
def pastSub (op : Nat) (o : Operands) : Nat := if srBad op o then 4 else 5

/-- The trap of an instruction of a group whose restored tags are broken (R262): Shape, after the checks of R252 that stand before it.
Illegal Instruction with SUB 4 stands at check 7 unless it is decided from the words. -/
def brokenTrap {α : Type} (op : Nat) (o : Operands) (r : Except Trap α) : Trap :=
  match r with
  | .ok _ => .shape
  | .error t => if t.cause == 2 || t.cause == 4 || t.cause == 5 || (t.cause == 1 && (t.sub != 4 || srBad op o)) then t else .shape

/-- An instruction that changes only its group: the declared-register check of R303, then `body`; a trap leaves none of
its effects (R252). -/
def runGroup (op : Nat) (o : Operands) (tm : Ctx → Timing) (s : State) (body : Ctx → Except Trap (Group × Bool)) :
    Host.Outcome State Fault Refusal :=
  match s.ctx? ⟨.ctl, 1, 1, true⟩ with
  | none => .next s
  | some c0 =>
    let c := { c0 with tm := tm c0 }
    if fieldsPast op o (c.g.g + c.g.c) then .next (s.takeTrap c (.illegal (pastSub op o)))
    else if c.g.badTags then .next (s.takeTrap c (brokenTrap op o (body c)))
    else
      match body c with
      | .error t => .next (s.takeTrap c t)
      | .ok (g, uni) => .next { (s.afterIssue c o (c.beats uni) g) with uni := uni }

/-- An instruction whose effect is a list of writes to its group, and which goes on at the next instruction. -/
def runAlu (op : Nat) (o : Operands) (tm : Ctx → Timing) (s : State) (body : Ctx → Except Trap Effect) :
    Host.Outcome State Fault Refusal :=
  runGroup op o tm s fun c =>
    match body c with
    | .error t => .error t
    | .ok e => .ok (c.advance op o (e.apply c o.q c.g), e.uniform)

/-- How an instruction that acts beyond its group ends: issued, with the state and the group it goes on with and whether
it took the uniform path; or not ready, with the state in which its fragment waits. -/
inductive Done where
  | issued (s : State) (g : Group) (uniform : Bool)
  | stall (s : State)

/-- An instruction that acts beyond its group. -/
def runState (op : Nat) (o : Operands) (tm : Ctx → Timing) (s : State) (body : Ctx → Except Trap Done) :
    Host.Outcome State Fault Refusal :=
  match s.ctx? ⟨.ctl, 1, 1, true⟩ with
  | none => .next s
  | some c0 =>
    let c := { c0 with tm := tm c0 }
    if fieldsPast op o (c.g.g + c.g.c) then .next (s.takeTrap c (.illegal (pastSub op o)))
    else if c.g.badTags then .next (s.takeTrap c (brokenTrap op o (body c)))
    else
      match body c with
      | .error t => .next (s.takeTrap c t)
      | .ok (.stall s') => .next s'
      | .ok (.issued s' g uni) => .next { (s'.afterIssue c o (c.beats uni) g) with uni := uni }

/-- The fragment of an instruction that is not ready waits. -/
def State.waitFrag (s : State) (c : Ctx) (w : Wait) : State :=
  s.setGroup c.core c.slot { c.g with split := tmod c.g.split c.entry fun f => { f with wait := w } }

/-- A value written to D in the lanes of a fragment's MASK: uniform when MASK is all ones, else general (R394). -/
def Ctx.maskWrite (c : Ctx) (d : Code) (v : W32) : Option RegOut :=
  if d.toNat < 120 then some { n := d.toNat, fmt := 1, cnt := 0, val := .uniform v, mask := c.f.mask } else none

/-- A fragment waits, or no longer, in the group of a slot. -/
def State.setWait (s : State) (core slot entry : Nat) (w : Wait) : State :=
  match s.group? core slot with
  | some g => s.setGroup core slot (g.setWait entry w)
  | none => s

/-- Whether a fragment's wait is over without an event of its own: it does not wait, or its WAITCNT (R230) or MFENCE (R243)
has come to its end. -/
def Group.waitOver (g : Group) (w : Wait) (now : Nat) : Bool :=
  match w with
  | .none => true
  | .cnt ld st => (match ld with | some n => g.ldcnt ≤ n | none => true) && (match st with | some n => g.stcnt ≤ n | none => true)
  | .mfence since free accs => free ≤ now && accs == [] && (g.split.all fun e => !e.2.wait.writes || e.2.lastIssue > since) &&
      g.exchange.all fun x => !x.writes || x.since > since
  | _ => false

/-- A fragment of the group is to have its D written from `at'` on: an MFENCE that a fragment issued after it waits until then (R243). -/
def Group.fenceAt (g : Group) (issued at' : Nat) : Group :=
  { g with split := tmap g.split fun _ f => match f.wait with
      | .mfence since free accs => if issued ≤ since then { f with wait := .mfence since (max free at') accs } else f
      | _ => f }

/-- A load has written its data: an MFENCE waits for it no longer (R243). -/
def Group.loaded (g : Group) (acc : Nat) : Group :=
  { g with split := tmap g.split fun _ f => match f.wait with
      | .mfence since free accs => { f with wait := .mfence since free (accs.filter fun k => k != acc) }
      | _ => f }

/-- The fragments that have come to an end of their waits at their records' JOIN arrive there (R207, R394). -/
def Group.arriveDue (g : Group) (now : Nat) : Group :=
  g.split.foldl (fun (x : Group) (e, _) =>
    match tget? x.split e with
    | none => x
    | some f =>
      match tget? x.joins f.jrec with
      | none => x
      | some k =>
        if f.pc == k.join && g.waitOver f.wait now && !f.stopped && f.notBefore ≤ now then
          { x with split := tset x.split e { f with wait := .none } }.arrive e 40
        else x) g

/-- The arrivals that have come due in the groups of a quadrant (R207, R394). -/
def State.settleJoins (s : State) (core quad : Nat) : State :=
  { s with groups := tmap s.groups fun key g =>
      if key / 128 == core && key % 128 / 32 == quad && g.joins != [] then g.arriveDue s.time else g }

/-- The fragment of an entry, where its group is still the one of a number. -/
def State.frag? (s : State) (core slot entry : Nat) : Option (Group × Frag) :=
  match s.group? core slot with
  | none => none
  | some g => (tget? g.split entry).map fun f => (g, f)

end Sys2Proof.Machine
end

