-- ==== Sys2Proof/Machine/Operands.lean ====
section
/-! DEFINITION. Operand forms: what a source field reads (R302, R304, R305, R327), the checks of formats (R307), the
shape and tag of a result (R308, R309), and the common course of an element-wise instruction (R203, R343, R357). -/
namespace Sys2Proof.Machine

/-- How a 64-bit operand reads the literal (R302). -/
inductive LitRole where
  | sext | zext | fp
  deriving DecidableEq, Repr

/-- A source as its entry describes it: its code, whether it is 64 bits wide, the formats it is checked against (none
for a raw operand) and how it takes the literal. -/
structure Src where
  code : Code
  w64 : Bool := false
  fmts : List Nat := []
  role : LitRole := .zext
  deriving DecidableEq, Repr

/-- Whether a tag's format passes for an expected one (R307). -/
def fmtOk (have' want : Nat) : Bool :=
  have' == want || (have' ≤ 1 && want ≤ 1) || ((have' == 2 || have' == 3) && (want == 2 || want == 3))

/-- The format and count that a source field shows (R304, R307); none where any passes: zr, the literal, reset-raw. -/
def Ctx.tag (c : Ctx) (x : Code) : Option (Nat × Nat) :=
  match x.toNat with
  | 120 | 127 => none
  | 121 => some (0, 0)
  | 122 | 124 | 125 => some (1, 0)
  | 123 => some (3, 0)
  | n => let r := c.g.regSeen n c.now; if r.val == .raw then none else some (r.fmt, r.cnt)

/-- Whether a source is uniform in the sense of R203. -/
def Ctx.isUniform (c : Ctx) (x : Code) : Bool :=
  if isReg x then
    match (c.g.regSeen x.toNat c.now).val with
    | .raw | .uniform _ => true
    | _ => false
  else x != 121#7

/-- Whether every register that a source reads is uniform (R203, R305). -/
def Ctx.uniformSrc (c : Ctx) (s : Src) : Bool := c.isUniform s.code && (!(s.w64 && isReg s.code) || c.isUniform (s.code + 1))

/-- Base and stride of a source that is affine or uniform (R202). -/
def Ctx.affineOf (c : Ctx) (s : Src) (o : Operands) : Option (W64 × W64) :=
  if isReg s.code then
    let lo := c.g.regSeen s.code.toNat c.now
    let hi := c.g.regSeen (s.code.toNat + 1) c.now
    if s.w64 then
      match lo.val, hi.val with
      | .affine b t false, .affine b' t' true => if b == b' && t == t' then some (b, t) else none
      | l, h =>
        if (match l with | .raw | .uniform _ => true | _ => false) && (match h with | .raw | .uniform _ => true | _ => false)
        then some (h.lane 0 ++ l.lane 0, 0) else none
    else
      match lo.val with
      | .raw => some (0, 0)
      | .uniform v => some (v.setWidth 64, 0)
      | .affine b t false => some ((b.setWidth 32).setWidth 64, (t.setWidth 32).setWidth 64)
      | _ => none
  else
    match s.code.toNat with
    | 120 => some (0, 0)
    | 121 => some (0, 1)
    | 122 => some (c.gix.setWidth 64, 0)
    | 123 => some (c.view, 0)
    | 124 => some (c.g.mode.setWidth 64, 0)
    | 125 => some (c.tix.setWidth 64, 0)
    | _ =>
      some (if s.w64 then
          match s.role with
          | .sext => o.lit.signExtend 64
          | .zext => o.lit.setWidth 64
          | .fp => BitVec.ofNat 64 (convert 6 7 0 false false 0 o.lit.toNat).1
        else o.lit.setWidth 64, 0)

/-- The value of a source in a lane, read at time `t` (R202, R216, R302, R304, R305). -/
def Ctx.value (c : Ctx) (s : Src) (o : Operands) (l t : Nat) : Nat :=
  if isReg s.code then
    let n := s.code.toNat
    if s.w64 then (c.g.regLane c.seed (n + 1) l t ++ c.g.regLane c.seed n l t).toNat
    else (c.g.regLane c.seed n l t).toNat
  else if s.code == 121#7 then l
  else
    match c.affineOf s o with
    | some (b, _) => if s.w64 then b.toNat else b.toNat % 2 ^ 32
    | none => 0

/-- A single operand (R327): the value in the lowest lane of the fragment's MASK. -/
def Ctx.single (c : Ctx) (o : Operands) (x : Code) (w64 : Bool := false) (role : LitRole := .zext) : Nat :=
  c.value ⟨x, w64, [], role⟩ o (lowLane c.f.mask) c.now

/-- NV where a signalling NaN literal is widened to FP64 (R302). -/
def litFlag (o : Operands) (ss : List Src) : Flags :=
  if (ss.any fun s => s.code == 127#7 && s.w64 && s.role == .fp) && (elemVal 6 o.lit.toNat).isSNan then fNV else 0

/-- Whether a source fails the checks of R307 and R326: its format, a special source at a width it does not serve, or an
odd register as a pair. -/
def Ctx.formatFails (c : Ctx) (s : Src) : Bool :=
  let x := s.code.toNat
  if x == 120 || x == 127 then false
  else if s.w64 && (x == 121 || x == 122 || x == 124 || x == 125) then true
  else if !s.w64 && x == 123 then true
  else if s.w64 && isReg s.code && x % 2 == 1 then true
  else if s.fmts.isEmpty then false
  else
    match c.tag s.code with
    | none => false
    | some (f, _) => !(s.fmts.any fun w => fmtOk f w)

/-- The registers that a source reads. -/
def Src.regs (s : Src) : List Nat :=
  if isReg s.code then (if s.w64 then [s.code.toNat, s.code.toNat + 1] else [s.code.toNat]) else []

/-- The Hazard check (R216): MODE.HZ is 1 and a register, a predicate or EXEC that is read has a write outstanding. An instruction that
acts on the whole MASK reads neither EXEC nor the guard but as a source (R328): `own` is false for it. -/
def Ctx.hazard (c : Ctx) (regs preds : List Nat) (own : Bool := true) : Bool :=
  let exec := own || regs.contains 123
  c.g.mode.getLsbD 14 &&
    ((regs.any fun n => c.g.pendRegs.contains n) || (exec && c.g.pendRegs.contains 123) ||
      c.g.outs.any fun w => w.busy c.now &&
        match w.dst with
        | .reg n _ => regs.contains n
        | .pred n _ => preds.contains n || (own && c.g.mode.getLsbD 3 && n == (c.g.mode.extractLsb' 0 3).toNat)
        | .exec _ => exec
        | _ => false)

/-- Illegal Instruction with SUB 5 where an even register that is a pair by the ET in force reaches past the group's registers (R201);
an odd one fails the Format check (R326). -/
def Ctx.pairPast (c : Ctx) (x : Code) (w64 : Bool) : Bool :=
  w64 && isReg x && x.toNat % 2 == 0 && x.toNat + 1 ≥ c.g.g + c.g.c

/-- The checks of R252 up to Format over the register operands of an instruction, in their order; `own` is false where it acts on the
whole MASK (R328). -/
def Ctx.check (c : Ctx) (modeOk : Bool) (ss : List Src) (dst : Code) (dst64 : Bool) (preds : List Nat := []) (own : Bool := true) :
    Except Trap Unit :=
  let exec := if !own && ss.any fun s => s.code == 123#7 then [123] else []
  if (ss.any fun s => c.pairPast s.code s.w64) || c.pairPast dst dst64 then .error (.illegal 5)
  else if !modeOk then .error .mode
  else if c.hazard (ss.flatMap Src.regs ++ exec) preds own then .error .hazard
  else if ss.any c.formatFails then .error .format
  else if dst64 && isReg dst && dst.toNat % 2 == 1 then .error .format
  else if dst == 123#7 && !dst64 then .error .format
  else .ok ()

/-- The count code of a packed result: the smallest among its packed sources (R308); zr, the literal and reset-raw
sources count as full, and a source of one element has no count. -/
def Ctx.count (c : Ctx) (et : Nat) (ss : List Src) : Nat :=
  let full := (elemCount et).log2
  ss.foldl (fun m s => match c.tag s.code with
    | none => m
    | some (f, k) => if elemCount f > 1 then min m k else m) full

/-- How a result's value is given: one value, an affine one, or a value for each lane. -/
inductive ResVal where
  | uni (v : Nat)
  | aff (base stride : W64)
  | lanes (f : Nat → Nat)

/-- The contents of the registers of a result of 32 or 64 bits, in the shape given (R202, R305). -/
def ResVal.regs (r : ResVal) (w64 : Bool) : List RegVal :=
  match r with
  | .uni v =>
    if w64 then [.uniform (BitVec.ofNat 32 v), .uniform (BitVec.ofNat 32 (v / 2 ^ 32))] else [.uniform (BitVec.ofNat 32 v)]
  | .aff b t =>
    if w64 then [.affine b t false, .affine b t true]
    else [.affine ((b.setWidth 32).setWidth 64) ((t.setWidth 32).setWidth 64) false]
  | .lanes f =>
    let vs := (List.range 64).map f
    if w64 then [.general (vs.map fun v => BitVec.ofNat 32 v), .general (vs.map fun v => BitVec.ofNat 32 (v / 2 ^ 32))]
    else [.general (vs.map fun v => BitVec.ofNat 32 v)]

/-- A result value in a lane. -/
def ResVal.at (r : ResVal) (l : Nat) : Nat :=
  match r with
  | .uni v => v
  | .aff b t => (b + t * BitVec.ofNat 64 l).toNat
  | .lanes f => f l

/-- Whether a result is general: it is not one value or affine, or the mask is partial (R309). -/
def ResVal.isGeneral (r : ResVal) (mask : W64) : Bool :=
  mask != fullMask || (match r with | .lanes _ => true | _ => false)

/-- A result written to destination `dst` in the lanes of `mask` (R308, R309): discarded for zr, checked for exec, and
the Shape trap where a general result meets a compact register. DEDUCED: where no lane is written there is no result, and so no Shape
trap (log entry 76). -/
def Ctx.result (c : Ctx) (dst : Code) (w64 : Bool) (fmt cnt : Nat) (r : ResVal) (mask : W64) : Except Trap Effect :=
  if dst == 120#7 || mask == 0 then .ok {}
  else if dst == 123#7 then
    match r with
    | .uni v => .ok { exec := some (BitVec.ofNat 64 v) }
    | _ => .error .shape
  else
    let n := dst.toNat
    let top := if w64 then n + 1 else n
    if r.isGeneral mask && top ≥ c.g.g then .error .shape
    else
      let vals := if r.isGeneral mask then (ResVal.lanes r.at).regs w64 else r.regs w64
      .ok { regs := vals.zipIdx.map fun (v, k) => ⟨n + k, fmt, cnt, v, mask⟩ }

/-- What one lane of an element-wise instruction computes: from the lane, its stochastic values and its source values,
the result and the flags. -/
abbrev LaneFn := Nat → List Nat → List Nat → Nat × Flags

/-- `k` steps of a lane's stochastic-rounding state: the values and the state after them (R289). -/
def srRun (x : W32) : Nat → List Nat × W32
  | 0 => ([], x)
  | k + 1 =>
    let y := stepSr x
    let (zs, z) := srRun y k
    (y.toNat % 2 ^ 24 :: zs, z)

/-- The common course of an element-wise instruction after its checks: the uniform path or each lane of the effective
mask (R203, R216, R289, R309, R357). `affine` is the affine result where the entry allows one; `steps` counts the
stochastic steps of a lane. DESIGN CHOICE: where an SRSEED write of the lane is outstanding, a rounding that reads the old state steps
the new one (R289, R356, log entry 69). -/
def Ctx.elementwise (c : Ctx) (o : Operands) (ss : List Src) (dst : Code) (dst64 : Bool) (fmt cnt : Nat)
    (affine : Option (W64 × W64)) (uniformOk : Bool) (steps : Nat) (fn : LaneFn) : Except Trap Effect :=
  let uni := uniformOk && ss.all c.uniformSrc
  let one := uni || affine.isSome
  let at' (l : Nat) : Nat := if one then c.now else c.laneTime l
  let run (l : Nat) (zs : List Nat) : Nat × Flags := fn l zs (ss.map fun s => c.value s o l (at' l))
  let zsOf (l : Nat) : List Nat := (srRun (c.srAt l (at' l)) steps).1
  let sr := if steps == 0 then none else some fun l x => if inMask c.mask l then (srRun x steps).2 else x
  let l0 := lowLane c.mask
  if uni then do
    let (v, fl) := run l0 (zsOf l0)
    let e ← c.result dst dst64 fmt cnt (.uni v) c.mask
    .ok { e with sr := sr, uniform := true, flags := if fl == 0 then [] else (lanesOf c.mask).map fun l => (l, fl) }
  else
    match affine with
    | some (b, t) => do
      let e ← c.result dst dst64 fmt cnt (.aff b t) c.mask
      .ok { e with sr := sr, uniform := true }
    | none => do
      let rs := (List.range 64).map fun l => if inMask c.mask l then run l (zsOf l) else (0, 0)
      let e ← c.result dst dst64 fmt cnt (.lanes fun l => (rs.getD l (0, 0)).1) c.mask
      .ok { e with sr := sr, flags := (lanesOf c.mask).filterMap fun l =>
              let f := (rs.getD l (0, 0)).2
              if f == 0 then none else some (l, f) }

/-- A predicate write in the lanes of the effective mask, from a test of each lane (R341, R344, R361). -/
def Ctx.predResult (c : Ctx) (o : Operands) (ss : List Src) (k : Nat) (uniformOk : Bool)
    (fn : Nat → List Nat → Bool × Flags) : Effect :=
  let uni := uniformOk && ss.all c.uniformSrc
  let l0 := lowLane c.mask
  let rs := (List.range 64).map fun l =>
    if inMask c.mask l then
      let l' := if uni then l0 else l
      fn l' (ss.map fun s => c.value s o l' (if uni then c.now else c.laneTime l))
    else (false, 0)
  { preds := [(k, maskOf fun l => (rs.getD l (false, 0)).1, c.mask)]
    uniform := uni
    flags := (lanesOf c.mask).filterMap fun l =>
      let f := (rs.getD l (false, 0)).2
      if f == 0 then none else some (l, f) }

/-- When an exchange of lanes reads every source lane that it needs: as its first beat enters (R372). -/
def Ctx.readAt (c : Ctx) : Nat := c.laneTime (lowLane c.mask)

/-- W of R347: 64 bits under INT64, UINT64 and FP64, 32 otherwise. -/
def Ctx.wide (c : Ctx) : Bool := is64 c.et

/-- The format and count of a raw operation's result: those of the first tag source, or else the given format (R347). -/
def Ctx.rawTag (c : Ctx) (xs : List Src) (w64 : Bool) (dflt : Nat) : Nat × Nat :=
  let src := xs.findSome? fun s =>
    match c.tag s.code with
    | some (f, k) => if is64 f == w64 then some (f, k) else none
    | none => none
  src.getD (dflt, 0)

end Sys2Proof.Machine
end

