-- ==== Sys2Proof/Machine/Flags.lean ====
section
/-! DEFINITION. The sticky flags (R292, R370, R371): which flags each operation raises, element by element, with the value
that it delivers (R287, R288, R290, R294, R358 to R364). -/
namespace Sys2Proof.Machine

/-- The mode fields that a floating operation rounds under (R310). -/
structure FMode where
  rm : Nat
  ftz : Bool
  sat : Bool
  deriving DecidableEq, Repr

def Ctx.fmode (c : Ctx) : FMode := ⟨c.rm, c.ftz, c.sat⟩

/-- An operand element of format `f`, as R288 reads it. -/
def BinFmt.operand (f : BinFmt) (m : FMode) (x : Nat) : Val := f.decode (f.flushIn m.ftz x)

/-- The delivery of an arithmetic result (R358): NV for a signalling or invalid operation, the canonical NaN for a NaN,
and otherwise the rounded value with its flags. -/
def deliver (f : BinFmt) (m : FMode) (z : Nat) (ops : List Val) (v : Val) (invalid : Bool) : Nat × Flags :=
  let nv := snanFlag ops ||| (if invalid then fNV else 0)
  if invalid || ops.any Val.isNan then (f.nan, nv)
  else
    let (b, fl) := f.round m.rm m.ftz m.sat z v
    (b, fl ||| nv)

/-- FADD, and FSUB with its second operand's sign inverted (R294, R358). -/
def fAdd (f : BinFmt) (m : FMode) (z : Nat) (sub : Bool) (a b : Nat) : Nat × Flags :=
  let x := f.operand m a
  let y := (f.operand m b).flip sub
  deliver f m z [x, y] (x.add m.rm y) (x.isInf && y.isInf && x.neg? != y.neg?)

/-- FMUL (R358). -/
def fMul (f : BinFmt) (m : FMode) (z : Nat) (a b : Nat) : Nat × Flags :=
  let x := f.operand m a
  let y := f.operand m b
  deliver f m z [x, y] (x.mul y) ((x.isInf && y.isZero) || (x.isZero && y.isInf))

/-- FMA with the signs of FN (R358): one rounding of ±a·b ± c. -/
def fMa (f : BinFmt) (m : FMode) (z : Nat) (np nc : Bool) (a b c : Nat) : Nat × Flags :=
  let x := (f.operand m a).flip np
  let y := f.operand m b
  let w := (f.operand m c).flip nc
  let zeroInf := (x.isInf && y.isZero) || (x.isZero && y.isInf)
  let p := x.mul y
  let clash := !x.isNan && !y.isNan && p.isInf && w.isInf && p.neg? != w.neg?
  deliver f m z [x, y, w] (p.add m.rm w) (zeroInf || clash)

/-- FMIN and FMAX of two elements as read (R359). -/
def fMinMax (f : BinFmt) (ftz isMax : Bool) (a b : Nat) : Nat × Flags :=
  let a := f.flushIn ftz a
  let b := f.flushIn ftz b
  let x := f.decode a
  let y := f.decode b
  let nv := snanFlag [x, y]
  if x.isNan && y.isNan then (f.nan, nv)
  else if x.isNan then (b, nv)
  else if y.isNan then (a, nv)
  else
    let less := x.cmp y < 0 || (x.cmp y == 0 && x.neg? && !y.neg?)
    (if less != isMax then a else b, nv)

/-- FNEG and FABS of an element as read (R360). -/
def fSign (f : BinFmt) (ftz neg : Bool) (a : Nat) : Nat :=
  let a := f.flushIn ftz a
  if neg then (if f.negOf a then a - f.signBit else a + f.signBit) else a % f.signBit

/-- The relations of FCMP (R361), with NV for a signalling NaN or an ordered relation on a NaN. -/
def fCmp (f : BinFmt) (ftz : Bool) (r a b : Nat) : Bool × Flags :=
  let x := f.decode (f.flushIn ftz a)
  let y := f.decode (f.flushIn ftz b)
  let un := x.isNan || y.isNan
  let nv := snanFlag [x, y] ||| (if un && 2 ≤ r && r ≤ 5 then fNV else 0)
  let k := x.cmp y
  (match r with
    | 0 => !un && k == 0
    | 1 => un || k != 0
    | 2 => !un && k < 0
    | 3 => !un && k ≤ 0
    | 4 => !un && k > 0
    | 5 => !un && k ≥ 0
    | 6 => un
    | _ => !un, nv)

/-- The class bit of an element's stored encoding (R362). -/
def fClass (f : BinFmt) (a : Nat) : Nat :=
  let n := f.negOf a
  match f.decode a with
  | .inf _ => if n then 0 else 7
  | .nan q => if q then 8 else 9
  | .fin _ m _ _ =>
    if m == 0 then (if n then 3 else 4)
    else if f.expOf a == 0 then (if n then 2 else 5)
    else if n then 1 else 6

/-- FRND of an element (R363). -/
def fRnd (f : BinFmt) (m : FMode) (z : Nat) (a : Nat) : Nat × Flags :=
  let a := f.flushIn m.ftz a
  match f.decode a with
  | .nan q => (f.nan, if q then fNV else 0)
  | .inf _ => (a, 0)
  | .fin n k e st =>
    if k == 0 || (k.log2 : Int) + e ≥ f.m then (a, 0)
    else
      let (r, inexact) := roundIntegral m.rm z n k e st
      ((f.round 1 false false 0 (.fin n r 0 false)).1, if inexact then fNX else 0)

/-- FSCALE of an element by 2 to the `n` (R364). -/
def fScale (f : BinFmt) (m : FMode) (z : Nat) (a : Nat) (n : Int) : Nat × Flags :=
  let a := f.flushIn m.ftz a
  match f.decode a with
  | .nan q => (f.nan, if q then fNV else 0)
  | .inf _ => (a, 0)
  | .fin s k e st => if k == 0 then (a, 0) else f.round m.rm m.ftz m.sat z (.fin s k (e + n) st)

/-- The elements of a packed result below count `n`, each with its stochastic value, and the OR of their flags (R292);
the elements from `n` up are 0. -/
def packed (w n : Nat) (zs : List Nat) (fn : Nat → Nat → Nat × Flags) : Nat × Flags :=
  let rs := (List.range n).map fun k => fn (zs.getD k 0) k
  (packElems w (rs.map (·.1)), rs.foldl (fun a r => a ||| r.2) 0)

/-- The flags that FLGRD reads in a lane at a time (R370, R371). -/
def Ctx.flagBits (c : Ctx) (l : Nat) : Nat :=
  ((flagsAt c.g.flags c.g.flagQueue (c.laneTime l)).getD l 0).toNat

end Sys2Proof.Machine
end

