-- ==== Sys2Proof/Machine/IntArith.lean ====
section
/-! DEFINITION. The integer instructions (R343 to R346): arithmetic on the elements of the ET in force, ICMP, ICVT and
the shifts. -/
namespace Sys2Proof.Machine

/-- An integer source under the ET in force (R302, R307, R343). -/
def Ctx.intSrc (c : Ctx) (x : Code) : Src := ⟨x, c.wide, [c.et], if c.et == 3 then .zext else .sext⟩

/-- The same source where any tag is accepted (R346). -/
def Ctx.anySrc (c : Ctx) (x : Code) : Src := ⟨x, c.wide, [], if c.et == 3 then .zext else .sext⟩

/-- The timing of the first integer row, and of its 64-bit form (R213). -/
def intTiming (c : Ctx) : Timing := if c.et == 2 || c.et == 3 then ⟨.valu, 4, 2, false⟩ else ⟨.valu, 4, 1, false⟩

/-- The timing of the multiply rows (R213). -/
def mulTiming (c : Ctx) : Timing := if c.et == 2 || c.et == 3 then ⟨.valu, 8, 4, false⟩ else ⟨.valu, 6, 1, false⟩

/-- The elements below the count of the exact function `f` of the signed or unsigned source elements, wrapped or
clamped; the others are 0 (R343). -/
def intLanes (et : Nat) (clamp : Bool) (n : Nat) (f : List Int → Int) (vals : List Nat) : Nat :=
  let w := elemWidth et
  let sg := isSigned et
  packElems w ((List.range n).map fun k =>
    deliverInt clamp sg w (f (vals.map fun v => intVal sg w (elemBits w v k))))

/-- An affine result, under a full mask, ET 0 to 3 and SAT = 0 (R309); none where the sources are all uniform or not
all affine or uniform. -/
def Ctx.affine2 (c : Ctx) (o : Operands) (a b : Src)
    (f : W64 × W64 → W64 × W64 → Option (W64 × W64)) : Option (W64 × W64) :=
  if c.mask != fullMask || c.et > 3 || c.sat || (c.uniformSrc a && c.uniformSrc b) then none
  else
    match c.affineOf a o, c.affineOf b o with
    | some x, some y => f x y
    | _, _ => none

/-- An arithmetic instruction of R343. -/
def Ctx.arith (c : Ctx) (o : Operands) (xs : List Code) (clamps : Bool) (affine : Option (W64 × W64))
    (f : List Int → Int) : Except Trap Effect := do
  let ss := xs.map c.intSrc
  c.check (c.et ≤ 5) ss o.d c.wide
  let n := c.count c.et ss
  c.elementwise o ss o.d c.wide c.et n affine true 0 fun _ _ vals =>
    (intLanes c.et (clamps && c.sat) (2 ^ n) f vals, 0)

def int0 (l : List Int) : Int := l.getD 0 0
def int1 (l : List Int) : Int := l.getD 1 0
def int2 (l : List Int) : Int := l.getD 2 0

/-- IADD (R343). -/
def execIadd (o : Operands) (s : State) : Host.Outcome State Fault Refusal :=
  runAlu 0x40 o intTiming s fun c =>
    c.arith o [o.a, o.b] true
      (c.affine2 o (c.intSrc o.a) (c.intSrc o.b) fun x y => some (x.1 + y.1, x.2 + y.2)) fun l => int0 l + int1 l

/-- ISUB (R343). -/
def execIsub (o : Operands) (s : State) : Host.Outcome State Fault Refusal :=
  runAlu 0x41 o intTiming s fun c =>
    c.arith o [o.a, o.b] true
      (c.affine2 o (c.intSrc o.a) (c.intSrc o.b) fun x y => some (x.1 - y.1, x.2 - y.2)) fun l => int0 l - int1 l

/-- IMUL (R343); affine times uniform is affine (R309). -/
def execImul (o : Operands) (s : State) : Host.Outcome State Fault Refusal :=
  runAlu 0x42 o mulTiming s fun c =>
    c.arith o [o.a, o.b] true
      (c.affine2 o (c.intSrc o.a) (c.intSrc o.b) fun x y =>
        if c.isUniform o.b then some (x.1 * y.1, x.2 * y.1)
        else if c.isUniform o.a then some (x.1 * y.1, x.1 * y.2) else none) fun l => int0 l * int1 l

/-- IMULH: the high half of the product (R343). -/
def execImulh (o : Operands) (s : State) : Host.Outcome State Fault Refusal :=
  runAlu 0x43 o mulTiming s fun c =>
    c.arith o [o.a, o.b] false none fun l => (int0 l * int1 l) / (2 ^ elemWidth c.et : Int)

/-- IMAD (R343). -/
def execImad (o : Operands) (s : State) : Host.Outcome State Fault Refusal :=
  runAlu 0x44 o mulTiming s fun c =>
    c.arith o [o.a, o.b, o.c] true none fun l => int0 l * int1 l + int2 l

/-- IMIN (R343). -/
def execImin (o : Operands) (s : State) : Host.Outcome State Fault Refusal :=
  runAlu 0x45 o intTiming s fun c => c.arith o [o.a, o.b] false none fun l => min (int0 l) (int1 l)

/-- IMAX (R343). -/
def execImax (o : Operands) (s : State) : Host.Outcome State Fault Refusal :=
  runAlu 0x46 o intTiming s fun c => c.arith o [o.a, o.b] false none fun l => max (int0 l) (int1 l)

/-- IABS (R343). -/
def execIabs (o : Operands) (s : State) : Host.Outcome State Fault Refusal :=
  runAlu 0x47 o intTiming s fun c => c.arith o [o.a] true none fun l => if int0 l < 0 then - int0 l else int0 l

/-- INEG (R343). -/
def execIneg (o : Operands) (s : State) : Host.Outcome State Fault Refusal :=
  runAlu 0x48 o intTiming s fun c => c.arith o [o.a] true none fun l => - int0 l

/-- The relations of ICMP (R344). -/
def intRel (r : Nat) (a b : Int) : Bool :=
  match r with
  | 0 => a == b
  | 1 => a != b
  | 2 => a < b
  | 3 => a ≤ b
  | 4 => a > b
  | _ => a ≥ b

/-- ICMP (R344). -/
def execIcmp (o : Operands) (s : State) : Host.Outcome State Fault Refusal :=
  runAlu 0x60 o intTiming s fun c => do
    let ss := [o.a, o.b].map c.intSrc
    c.check (c.et ≤ 3) ss 120#7 false
    let w := elemWidth c.et
    let sg := isSigned c.et
    .ok (c.predResult o ss o.d.toNat true fun _ v =>
      (intRel o.fn.toNat (intVal sg w (v.getD 0 0)) (intVal sg w (v.getD 1 0)), 0))

/-- ICVT (R345): element k of the source to element 0 of the destination. -/
def execIcvt (o : Operands) (s : State) : Host.Outcome State Fault Refusal :=
  runAlu 0x61 o intTiming s fun c => do
    let dst := o.fn.toNat % 8
    let k := o.fn.toNat / 8
    let ss := [c.intSrc o.a]
    c.check (c.et ≤ 5 && k < elemCount c.et) ss o.d (is64 dst)
    c.elementwise o ss o.d (is64 dst) dst 0 none true 0 fun _ _ v =>
      (wrapInt (elemWidth dst) (convert c.et dst c.rm c.ftz c.sat 0 (elemBits (elemWidth c.et) (v.getD 0 0) k)).1, 0)

/-- The element result of a shift by `s` (R346): SHL, SHR, SAR, ROT. -/
def shiftElem (op w a s : Nat) : Nat :=
  match op with
  | 0 => if s ≥ w then 0 else a * 2 ^ s % 2 ^ w
  | 1 => if s ≥ w then 0 else a / 2 ^ s
  | 2 => wrapInt w (intVal true w a / (2 ^ (min s w) : Int))
  | _ => let r := s % w; (a * 2 ^ r % 2 ^ w) + a / 2 ^ (w - r)

/-- A shift of R346. -/
def Ctx.shift (c : Ctx) (o : Operands) (op : Nat) (affine : Option (W64 × W64)) : Except Trap Effect := do
  let ss := [o.a, o.b].map c.anySrc
  c.check (c.et ≤ 5) ss o.d c.wide
  let n := c.count c.et ss
  let w := elemWidth c.et
  c.elementwise o ss o.d c.wide c.et n affine true 0 fun _ _ v =>
    (packElems w ((List.range (2 ^ n)).map fun k =>
      shiftElem op w (elemBits w (v.getD 0 0) k) (elemBits w (v.getD 1 0) k % 256)), 0)

/-- SHL (R346); affine by a uniform amount is affine (R309). -/
def execShl (o : Operands) (s : State) : Host.Outcome State Fault Refusal :=
  runAlu 0x54 o intTiming s fun c =>
    c.shift o 0 (c.affine2 o (c.anySrc o.a) (c.anySrc o.b) fun x y =>
      if c.isUniform o.b then
        let n := y.1.toNat % 256
        if n ≥ elemWidth c.et then some (0, 0) else some (x.1 <<< n, x.2 <<< n)
      else none)

/-- SHR (R346). -/
def execShr (o : Operands) (s : State) : Host.Outcome State Fault Refusal :=
  runAlu 0x55 o intTiming s fun c => c.shift o 1 none

/-- SAR (R346). -/
def execSar (o : Operands) (s : State) : Host.Outcome State Fault Refusal :=
  runAlu 0x56 o intTiming s fun c => c.shift o 2 none

/-- ROT (R346). -/
def execRot (o : Operands) (s : State) : Host.Outcome State Fault Refusal :=
  runAlu 0x57 o intTiming s fun c => c.shift o 3 none

end Sys2Proof.Machine
end

