-- ==== Sys2Proof/Machine/BitOps.lean ====
section
/-! DEFINITION. The logic and bit instructions (R347, R348) and the address instructions (R349). -/
namespace Sys2Proof.Machine

/-- A raw source of W bits (R347). -/
def Ctx.rawSrc (c : Ctx) (x : Code) : Src := ⟨x, c.wide, [], .zext⟩

/-- A raw 32-bit source. -/
def raw32 (x : Code) : Src := ⟨x, false, [], .zext⟩

/-- A logic operation of R347 on W bits. -/
def Ctx.logic (c : Ctx) (o : Operands) (xs : List Code) (f : List Nat → Nat) : Except Trap Effect := do
  let ss := xs.map c.rawSrc
  c.check true ss o.d c.wide
  let (fmt, _) := c.rawTag ss c.wide c.et
  let cnt := c.count fmt (ss.filter fun s => match c.tag s.code with | some (g, _) => is64 g == c.wide | none => false)
  c.elementwise o ss o.d c.wide fmt cnt none true 0 fun _ _ v => (f v, 0)

/-- AND (R347). -/
def execBitAnd (o : Operands) (s : State) : Host.Outcome State Fault Refusal :=
  runAlu 0x50 o intTiming s fun c => c.logic o [o.a, o.b] fun v => v.getD 0 0 &&& v.getD 1 0

/-- OR (R347). -/
def execBitOr (o : Operands) (s : State) : Host.Outcome State Fault Refusal :=
  runAlu 0x51 o intTiming s fun c => c.logic o [o.a, o.b] fun v => v.getD 0 0 ||| v.getD 1 0

/-- XOR (R347). -/
def execBitXor (o : Operands) (s : State) : Host.Outcome State Fault Refusal :=
  runAlu 0x52 o intTiming s fun c => c.logic o [o.a, o.b] fun v => v.getD 0 0 ^^^ v.getD 1 0

/-- NOT (R347). -/
def execBitNot (o : Operands) (s : State) : Host.Outcome State Fault Refusal :=
  runAlu 0x53 o intTiming s fun c => c.logic o [o.a] fun v => 2 ^ (if c.wide then 64 else 32) - 1 - v.getD 0 0

/-- SEL (R347): the bit of P[C] in each lane chooses. -/
def execSel (o : Operands) (s : State) : Host.Outcome State Fault Refusal :=
  runAlu 0x5F o intTiming s fun c => do
    let ss := [o.a, o.b].map c.rawSrc
    let tagged := ss.filterMap fun x => match c.tag x.code with
      | some (g, _) => if is64 g == c.wide then some g else none
      | none => none
    if (ss.any fun x => c.pairPast x.code x.w64) || c.pairPast o.d c.wide then .error (.illegal 5)
    else if c.hazard (ss.flatMap Src.regs) [o.c.toNat] then .error .hazard
    else if tagged.length == 2 && tagged.getD 0 0 != tagged.getD 1 0 then .error .format
    else do
      c.check true ss o.d c.wide
      let (fmt, _) := c.rawTag ss c.wide c.et
      let cnt := c.count fmt (ss.filter fun x => match c.tag x.code with | some (g, _) => is64 g == c.wide | none => false)
      let inv := o.fn == 1#5
      let bitAt (l t : Nat) : Bool := inMask (c.g.predAt c.seed o.c.toNat t) l != inv
      let p := maskOf fun l => bitAt l c.now
      let same := p &&& c.mask == c.mask || p &&& c.mask == 0
      let uni := c.mask == fullMask && same
      c.elementwise o ss o.d c.wide fmt cnt none uni 0 fun l _ v =>
        (if bitAt l (if uni && ss.all c.uniformSrc then c.now else c.laneTime l)
          then v.getD 0 0 else v.getD 1 0, 0)

/-- The FMT and CNT of a bit instruction's value operand; UINT32 where it has none (R348). -/
def Ctx.fmtOf (c : Ctx) (x : Code) : Nat × Nat := (c.tag x).getD (1, 0)

/-- A bit instruction on 32 bits (R348). -/
def Ctx.bit (c : Ctx) (o : Operands) (xs : List Code) (tag : Nat × Nat) (f : List Nat → Nat) : Except Trap Effect := do
  let ss := xs.map raw32
  c.check true ss o.d false
  c.elementwise o ss o.d false tag.1 tag.2 none true 0 fun _ _ v => (f v, 0)

/-- FSHL (R348). -/
def execFshl (o : Operands) (s : State) : Host.Outcome State Fault Refusal :=
  runAlu 0x58 o intTiming s fun c => c.bit o [o.a, o.b, o.c] (1, 0) fun v =>
    let n := if o.fn == 0#5 then v.getD 2 0 % 32 else min (v.getD 2 0) 32
    (v.getD 0 0 * 2 ^ 32 + v.getD 1 0) * 2 ^ n / 2 ^ 32 % 2 ^ 32

/-- FSHR (R348). -/
def execFshr (o : Operands) (s : State) : Host.Outcome State Fault Refusal :=
  runAlu 0x59 o intTiming s fun c => c.bit o [o.a, o.b, o.c] (1, 0) fun v =>
    let n := if o.fn == 0#5 then v.getD 2 0 % 32 else min (v.getD 2 0) 32
    (v.getD 0 0 * 2 ^ 32 + v.getD 1 0) / 2 ^ n % 2 ^ 32

/-- The field of BFX (R348): position and length from the control word, sign-extended under `.sx`. -/
def bfx (sx : Bool) (a ctl : Nat) : Nat :=
  let pos := ctl % 256
  let len := min (ctl / 256 % 256) 32
  let f := a / 2 ^ pos % 2 ^ len
  if sx && len ≥ 1 && f ≥ 2 ^ (len - 1) then 2 ^ 32 + f - 2 ^ len else f

/-- BFX (R348). -/
def execBfx (o : Operands) (s : State) : Host.Outcome State Fault Refusal :=
  runAlu 0x5A o intTiming s fun c =>
    c.bit o [o.a, o.b] (if o.fn == 1#5 then (0, 0) else (1, 0)) fun v => bfx (o.fn == 1#5) (v.getD 0 0) (v.getD 1 0) % 2 ^ 32

/-- The insertion of BFI (R348). -/
def bfi (a b ctl : Nat) : Nat :=
  let pos := ctl % 256
  let len := min (ctl / 256 % 256) 32
  let m := (2 ^ len - 1) * 2 ^ pos % 2 ^ 32
  (a &&& (2 ^ 32 - 1 - m)) ||| (b * 2 ^ pos % 2 ^ 32 &&& m)

/-- BFI (R348). -/
def execBfi (o : Operands) (s : State) : Host.Outcome State Fault Refusal :=
  runAlu 0x5B o intTiming s fun c =>
    c.bit o [o.a, o.b, o.c] (c.fmtOf o.a) fun v => bfi (v.getD 0 0) (v.getD 1 0) (v.getD 2 0)

/-- The number of set bits of a 32-bit value. -/
def popCount (n x : Nat) : Nat := ((List.range n).filter fun i => x.testBit i).length

/-- POPC (R348). -/
def execPopc (o : Operands) (s : State) : Host.Outcome State Fault Refusal :=
  runAlu 0x5C o intTiming s fun c => c.bit o [o.a] (1, 0) fun v => popCount 32 (v.getD 0 0)

/-- CLZ (R348). -/
def execClz (o : Operands) (s : State) : Host.Outcome State Fault Refusal :=
  runAlu 0x5D o intTiming s fun c =>
    c.bit o [o.a] (1, 0) fun v => if v.getD 0 0 == 0 then 32 else 31 - (v.getD 0 0).log2

/-- BREV (R348). -/
def execBrev (o : Operands) (s : State) : Host.Outcome State Fault Refusal :=
  runAlu 0x5E o intTiming s fun c =>
    c.bit o [o.a] (c.fmtOf o.a) fun v => ((BitVec.ofNat 32 (v.getD 0 0)).reverse).toNat

/-! ## Addresses -/

/-- LEA (R349). -/
def execLea (o : Operands) (s : State) : Host.Outcome State Fault Refusal :=
  runAlu 0x68 o intTiming s fun c => do
    let a : Src := ⟨o.a, true, [2, 3], .zext⟩
    let b : Src := ⟨o.b, false, [0, 1], .zext⟩
    c.check true [a, b] o.d true
    let sh := o.fn.toNat % 16
    let ext (x : Nat) : Int := if o.fn.toNat ≥ 16 then intVal true 32 x else x
    let aff :=
      if c.mask == fullMask && !c.isUniform o.a && c.isUniform o.b then
        match c.affineOf a o with
        | some (base, st) =>
          some (BitVec.ofInt 64 ((base.toNat : Int) + ext (c.value b o 0 c.now) * 2 ^ sh), st)
        | none => none
      else none
    c.elementwise o [a, b] o.d true 3 0 aff true 0 fun _ _ v =>
      (wrapInt 64 ((v.getD 0 0 : Int) + ext (v.getD 1 0) * 2 ^ sh), 0)

/-- ADDA (R349). -/
def execAdda (o : Operands) (s : State) : Host.Outcome State Fault Refusal :=
  runAlu 0x69 o intTiming s fun c => do
    let a : Src := ⟨o.a, true, [2, 3], .zext⟩
    let b : Src := ⟨o.b, true, [2, 3], .zext⟩
    c.check true [a, b] o.d true
    let aff :=
      if c.mask == fullMask && !(c.isUniform o.a && c.isUniform o.b) then
        match c.affineOf a o, c.affineOf b o with
        | some x, some y => some (x.1 + y.1, x.2 + y.2)
        | _, _ => none
      else none
    c.elementwise o [a, b] o.d true 3 0 aff true 0 fun _ _ v => ((v.getD 0 0 + v.getD 1 0) % 2 ^ 64, 0)

/-- AFF (R349): base plus stride times the lane. -/
def execAff (o : Operands) (s : State) : Host.Outcome State Fault Refusal :=
  runAlu 0x6A o intTiming s fun c => do
    let a : Src := ⟨o.a, false, [c.et], .zext⟩
    let b : Src := ⟨o.b, false, [c.et], .zext⟩
    c.check (c.et ≤ 1) [a, b] o.d false
    let aff :=
      if c.mask == fullMask && c.isUniform o.a && c.isUniform o.b then
        match c.affineOf a o, c.affineOf b o with
        | some x, some y => some (x.1, y.1)
        | _, _ => none
      else none
    c.elementwise o [a, b] o.d false c.et 0 aff false 0 fun l _ v => ((v.getD 0 0 + v.getD 1 0 * l) % 2 ^ 32, 0)

end Sys2Proof.Machine
end

