-- ==== Sys2Proof/Machine/Predicate.lean ====
section
/-! DEFINITION. The predicate instructions (R340 to R342). -/
namespace Sys2Proof.Machine

/-- The timing of the predicate row (R213). -/
def predTiming (_ : Ctx) : Timing := ⟨.ctl, 2, 1, true⟩

/-- The timing of VOTE, BALLOT and POPM (R213). -/
def voteTiming (_ : Ctx) : Timing := ⟨.valu, 6, 1, false⟩

/-- PSET (R341). -/
def execPset (o : Operands) (s : State) : Host.Outcome State Fault Refusal :=
  runAlu 0x20 o predTiming s fun c => do
    c.check true [raw32 o.a] 120#7 false
    .ok (c.predResult o [raw32 o.a] o.d.toNat true fun _ v =>
      let x := v.getD 0 0
      (match o.fn.toNat with | 0 => x != 0 | 1 => x == 0 | 2 => x ≥ 2 ^ 31 | _ => x % 2 == 1, 0))

/-- The operations of PLOG on one bit (R341). -/
def plogBit (fn : Nat) (a b : Bool) : Bool :=
  match fn with
  | 0 => a && b
  | 1 => a || b
  | 2 => a != b
  | 3 => a && !b
  | 4 => a || !b
  | 5 => !(a && b)
  | 6 => !(a || b)
  | _ => a == b

/-- PLOG (R341). -/
def execPlog (o : Operands) (s : State) : Host.Outcome State Fault Refusal :=
  runAlu 0x21 o predTiming s fun c =>
    if c.hazard [] [o.a.toNat, o.b.toNat] then .error .hazard
    else
      let a := c.g.predAt c.seed o.a.toNat c.now
      let b := c.g.predAt c.seed o.b.toNat c.now
      .ok (c.predResult o [] o.d.toNat false fun l _ => (plogBit o.fn.toNat (inMask a l) (inMask b l), 0))

/-- PMOV (R342): all 64 bits of the predicate from a single source. -/
def execPmov (o : Operands) (s : State) : Host.Outcome State Fault Refusal :=
  runAlu 0x22 o predTiming s fun c => do
    c.check true [⟨o.a, true, [], .zext⟩] 120#7 false [] false
    .ok { preds := [(o.d.toNat, BitVec.ofNat 64 (c.single o o.a true), fullMask)], uniform := true }

/-- The bits of P[A] under the effective mask (R342). -/
def Ctx.ballot (c : Ctx) (o : Operands) : W64 := c.g.predAt c.seed o.a.toNat c.now &&& c.mask

/-- BALLOT (R342). -/
def execBallot (o : Operands) (s : State) : Host.Outcome State Fault Refusal :=
  runAlu 0x23 o voteTiming s fun c =>
    if c.hazard [] [o.a.toNat] then .error .hazard
    else c.result o.d true 3 0 (.uni (c.ballot o).toNat) c.mask

/-- POPM (R342). -/
def execPopm (o : Operands) (s : State) : Host.Outcome State Fault Refusal :=
  runAlu 0x24 o voteTiming s fun c => do
    if c.hazard [] [o.a.toNat] then .error .hazard
    else do
      c.check true [] o.d false
      c.result o.d false 1 0 (.uni (popCount 64 (c.ballot o).toNat)) c.mask

end Sys2Proof.Machine
end

