-- ==== Sys2Proof/Machine/Access.lean ====
section
/-! DEFINITION. The memory instructions (R380 to R391), the return of load data (R229) and WAITCNT, and what they share:
addresses, translation at issue (R272 to R274), and the L1's part of a store or an atomic (R175, R179). -/
namespace Sys2Proof.Machine

/-! ## Addresses (R380) -/

/-- The timing of a memory instruction: its results have no fixed moment, and it holds MEM for one cycle per beat. -/
def memTiming (_ : Ctx) : Timing := ⟨.mem, 1, 1, false⟩

def basePair (o : Operands) : Src := ⟨o.a, true, [2, 3], .zext⟩
def baseWord32 (o : Operands) : Src := ⟨o.a, false, [0, 1], .zext⟩
def offWord (o : Operands) : Src := ⟨o.b, false, [0, 1], .zext⟩

/-- Whether both address operands are uniform (R385). -/
def Ctx.uniformAddress (c : Ctx) (o : Operands) (pair : Bool) : Bool :=
  c.isUniform o.a && c.isUniform o.b && (!pair || !isReg o.a || c.isUniform (o.a + 1))

/-- The memory address of a lane (R380). -/
def Ctx.memAddr (c : Ctx) (o : Operands) (t l : Nat) : Nat :=
  let base := BitVec.ofNat 64 (c.value (basePair o) o l t)
  let off := BitVec.ofNat 32 (c.value (offWord o) o l t)
  (base + off.signExtend 64).toNat

/-- The scratchpad address of a lane (R380). -/
def Ctx.scratchAddr (c : Ctx) (o : Operands) (t l : Nat) : Nat :=
  (c.value (baseWord32 o) o l t + c.value (offWord o) o l t) % 2 ^ 32

/-- The bytes of a load and of a store by FN (R382). -/
def loadBytes (fn : Nat) : Nat := match fn with | 0 => 4 | 1 => 8 | 2 => 16 | 3 | 4 => 1 | _ => 2
def storeBytes (fn : Nat) : Nat := match fn with | 0 => 4 | 1 => 8 | 2 => 16 | 3 => 1 | _ => 2

/-- The format and count of a load's result (R382). -/
def Ctx.loadTag (c : Ctx) (fn : Nat) : Nat × Nat :=
  let wide := is64 c.et
  match fn with
  | 0 => if wide then (1, 0) else (c.et, (elemCount c.et).log2)
  | 1 => if wide then (c.et, 0) else (3, 0)
  | 2 => if wide then (c.et, 0) else (c.et, (elemCount c.et).log2)
  | 3 | 5 => (1, 0)
  | _ => (0, 0)

/-- The data sources of a store's element: registers or pairs from C up (R382). -/
def storeSrcs (o : Operands) (n : Nat) : List Src :=
  if n == 16 then
    if isReg o.c then [⟨o.c, true, [], .zext⟩, ⟨o.c + 2, true, [], .zext⟩] else [⟨o.c, true, [], .zext⟩]
  else [⟨o.c, n == 8, [], .zext⟩]

/-- The data that a lane stores (R382). -/
def Ctx.storeData (c : Ctx) (o : Operands) (n l : Nat) (t : Nat := c.laneTime l) : Nat :=
  let xs := (storeSrcs o n).map fun s => c.value s o l t
  (xs.headD 0 + 2 ^ 64 * xs.getD 1 0) % 256 ^ n

/-! ## Traps of check 7, and translation at issue -/

/-- The lowest lane whose address fails a test. -/
def firstLane (lanes : List (Nat × Nat)) (p : Nat → Bool) : Option (Nat × Nat) := lanes.find? fun x => p x.2

/-- Misaligned, then Protection with SUB 3, over the lanes of a memory instruction (R252, R380). -/
def memChecks (lanes : List (Nat × Nat)) (n : Nat) (wr : Bool) : Except Trap Unit :=
  match firstLane lanes fun a => a % n != 0 with
  | some (l, a) => .error { (Trap.misaligned l (BitVec.ofNat 64 a)) with wr := wr }
  | none =>
    match firstLane lanes fun a => a ≥ 2 ^ 52 with
    | some (l, a) => .error { (Trap.protection 3 l (BitVec.ofNat 64 a)) with wr := wr }
    | none => .ok ()

/-- Misaligned, then Protection with SUB 7, over the lanes of a scratchpad instruction. -/
def scratchChecks (lanes : List (Nat × Nat)) (n : Nat) (wr : Bool) (bad : Nat → Bool) : Except Trap Unit :=
  match firstLane lanes fun a => a % n != 0 with
  | some (l, a) => .error { (Trap.misaligned l (BitVec.ofNat 64 a)) with wr := wr }
  | none =>
    match firstLane lanes bad with
    | some (l, a) => .error { (Trap.protection 7 l (BitVec.ofNat 64 a)) with wr := wr }
    | none => .ok ()

/-- Whether an address lacks a usable TLB entry (R271, R273): none covers it, an ATS entry lacks the permission, or a write that
the entry allows meets M = 0. -/
def State.tlbMiss (s : State) (core ctx va : Nat) (write fetch : Bool) : Bool :=
  match s.tlbFind core ctx va with
  | none => true
  | some e =>
    e.ats != (s.ctxAt ctx).hostManaged va ||
      (if e.ats then write && !e.w || fetch && !e.x
       else write && !e.m && !([6, 1, 5].any fun cls => s.xlateFails e va true false cls))

/-- What the translation of an instruction's lanes gives: walks to make first, or an entry for each lane. -/
inductive Xlated where
  | walk (w : Walk)
  | lanes (ls : List (Nat × Nat × TlbEntry))

/-- The translation of an instruction's lanes (R228, R272): what misses walks first; then the checks in their order, each
over every lane. -/
def State.translate (s : State) (core ctx slotK entry : Nat) (lanes : List (Nat × Nat)) (write fetch : Bool)
    (both : Bool := false) : Except Trap Xlated :=
  let miss := lanes.filter fun x => s.tlbMiss core ctx x.2 write fetch
  let host := miss.filter fun x => (s.ctxAt ctx).hostManaged x.2
  let walk (vas : List (Nat × Nat)) (ats : Bool) : Walk :=
    { chiplet := chipOf (core / 8), core := core, ctx := ctx, vas := vas, write := write, fetch := fetch, both := both, ats := ats
      frag := some (slotK, entry), started := s.time }
  let own := miss.filter fun x => !(s.ctxAt ctx).hostManaged x.2
  if own != [] then .ok (.walk (walk own false))
  else if host != [] then .ok (.walk (walk (host.take 1) true))
  else
    let es := lanes.filterMap fun (l, a) => (s.tlbFind core ctx a).map fun e => (l, a, e)
    let fails (cls : Nat) := es.find? fun (_, a, e) => s.xlateFails e a write fetch cls
    let trap (sub l a : Nat) : Trap := { (Trap.protection sub l (BitVec.ofNat 64 a)) with wr := write, fetch := fetch }
    match fails 6 with
    | some (l, a, _) => .error (trap 6 l a)
    | none =>
      match fails 1 with
      | some (l, a, _) => .error (trap 1 l a)
      | none =>
        match fails 2 with
        | some (l, a, _) => .error (trap 2 l a)
        | none =>
          match fails 5 with
          | some (l, a, _) => .error (trap 5 l a)
          | none => .ok (.lanes es)

/-- The fragment that issues waits for its walks. -/
def State.startWalk (s : State) (c : Ctx) (w : Walk) : State :=
  (s.beginWalk w).waitFrag c .walk

/-- The pages of an instruction's lanes become the most recently used of the core's TLB (R273). -/
def State.touchPages (s : State) (core ctx : Nat) (es : List (Nat × Nat × TlbEntry)) : State :=
  (es.map fun x => x.2.1 / 4096).eraseDups.foldl (fun s p => s.tlbTouch core ctx (p * 4096)) s

/-! ## Accesses -/

/-- A lane's element as an access begins. -/
def LaneAcc.start (l : Nat) (e : TlbEntry) (va data data2 : Nat) : LaneAcc :=
  { lane := l, loc := e.loc va, va := va, data := data, data2 := data2, nc := e.nc || e.ats || e.peer }

/-- The access of an instruction, without its lanes. -/
def Ctx.access (c : Ctx) (s : State) (op : AccOp) (space : Space) (n : Nat) (dst : Code) (ldc : Bool) : Access :=
  let t := s.teamOf c.g
  { core := c.core, slot := c.slot, guid := c.g.uid, team := c.g.team, ctx := t.ctx, task := t.task, pc := c.f.pc, op := op
    space := space, bytes := n, lanes := [], dst := dst, mask := c.mask, own := c.f.mask, ldc := ldc, issued := c.now }

/-- The lines of device memory that the lanes of an access that are not done lie in. -/
def Access.openLines (a : Access) : List Nat :=
  (a.lanes.filterMap fun x => match x.loc with
    | .dev p => if x.done then none else some (p / 256)
    | _ => none).eraseDups

/-- A store whose lanes meet at one element of peer or host memory writes the highest lane's value alone (R228). -/
def Access.prevail (a : Access) : Access :=
  if a.op != .store then a
  else { a with lanes := a.lanes.map fun x => match x.loc with
    | .dev _ => x
    | _ => if a.lanes.any fun y => x.lane < y.lane && y.loc == x.loc then { x with done := true } else x }

/-- The accesses of an instruction to peer memory leave as requests, one for each lane (R37, R38). -/
def State.sendPeers (s : State) (id : Nat) (a : Access) : State :=
  a.lanes.foldl (fun s x => match x.loc with
    | .peer d p =>
      if x.done then s
      else
      let (op, fn, len, data) : BitVec 8 × Nat × Nat × Nat := match a.op with
        | .load => (0x01#8, 0, 0, 0)
        | .store => (0x02#8, 0, a.bytes, x.data)
        | .atom op w64 =>
          let cas := op == 9
          (if a.ldc then 0x03#8 else 0x04#8, op + (if w64 then 16 else 0), if cas then 2 * a.bytes else a.bytes,
            x.data + (if cas then x.data2 * 256 ^ a.bytes else 0))
      s.peerAsk (.cluster (a.core / 8)) (.lane id x.lane)
        { op := op, src := 0, dst := d, tag := 0, fn := BitVec.ofNat 5 fn, stat := 0, size := BitVec.ofNat 6 (a.bytes - 1)
          addr := BitVec.ofNat 50 p, tc := 1, data := leBytes len data }
    | _ => s) s

/-- Whether a lane of an access reaches host memory and is not done. -/
def Access.hasHost (a : Access) : Bool := a.lanes.any fun x => !x.done && match x.loc with | .host _ => true | _ => false

/-- The register numbers that an access's result takes (R382, R388). -/
def Access.dstRegs (a : Access) : List Nat :=
  if a.dst.toNat ≥ 120 then [] else (List.range (max 1 (a.bytes / 4))).map fun k => a.dst.toNat + k

/-- What an access's result keeps outstanding (R215): its registers, or EXEC. -/
def Access.pending (a : Access) : List Nat := if a.dst == 123#7 then [123] else a.dstRegs

/-- A group with an access's destination registers pending and its counter raised (R215, R229). -/
def Group.begin (g : Group) (a : Access) : Group :=
  if a.ldc then { g with ldcnt := g.ldcnt + 1, pendRegs := g.pendRegs ++ a.pending } else { g with stcnt := g.stcnt + 1 }

/-- The Shape and Format checks on a destination that a load or an atomic writes (R308, R309, R383): a general result and
a compact register, or exec. Where no lane is written there is no result (log entry 76). -/
def Ctx.dstCheck (c : Ctx) (dst : Code) (n : Nat) (one : Bool) : Except Trap Unit :=
  if dst == 123#7 then (if n != 8 then .error .format else if one || c.mask == 0 then .ok () else .error .shape)
  else if c.mask != 0 && isReg dst && !(one && c.mask == fullMask) && dst.toNat + max 1 (n / 4) - 1 ≥ c.g.g then .error .shape
  else .ok ()

/-- An instruction that would raise a counter above 63 is not ready (R229). -/
def Ctx.counterFull (c : Ctx) (ldc : Bool) : Bool := if ldc then c.g.ldcnt ≥ 63 else c.g.stcnt ≥ 63

/-- The state in which the fragment waits for its counter to fall below 63. -/
def State.waitCounter (s : State) (c : Ctx) (ldc : Bool) : State :=
  s.waitFrag c (if ldc then .cnt (some 62) none else .cnt none (some 62))

/-! ## LD (R383, R385) -/

/-- The lanes of a load in one line: those that its L1 holds get their values. Where another group's write to an owned word is not
acknowledged the line's part waits in the L1 (R179); what is left else goes home (R175, R183). -/
def State.readLine (s : State) (id line : Nat) : State :=
  match tget? s.accs id with
  | none => s
  | some a =>
    let value (x : LaneAcc) : Option Nat := match x.loc with
      | .dev p =>
        if x.nc || x.done || !x.inLine line || s.olderMeets a.guid id x.loc a.bytes || s.badRange p a.bytes then none
        else s.l1Read a.core a.guid a.task p a.bytes
      | _ => none
    let waits := a.lanes.any fun x => x.inLine line && !x.done && !x.nc && match x.loc with
      | .dev p => s.foreignWrite a.core a.guid p a.bytes
      | _ => false
    let a := { a with lanes := a.lanes.map fun x => match value x with
      | some v => { x with got := some v, done := true }
      | none => x }
    let left := a.lanes.any fun x => x.inLine line && !x.done
    let s := if a.lanes.any fun x => x.inLine line && x.done then s.touchLine a.core line a.task else s
    if left && waits then { s with accs := tset s.accs id { a with pend := a.pend ++ [line] } }
    else
      let s := ({ s with accs := tset s.accs id a }).tally a.core (if left then 11 else 10) 1
      if left then s.send (.read id line) a.core (s.homeOf (256 * line)) true else s

/-- The lanes of a load in device memory go on their ways. -/
def State.readLines (s : State) (id : Nat) : State :=
  match tget? s.accs id with
  | none => s
  | some a => a.openLines.foldl (fun s l => s.readLine id l) s

/-- LD (R383). -/
def execLd (o : Operands) (s : State) : Host.Outcome State Fault Refusal :=
  runState 0xA0 o memTiming s fun c =>
    let n := loadBytes o.fn.toNat
    let one := c.uniformAddress o true
    if c.counterFull true then .ok (.stall (s.waitCounter c true))
    else do
      c.check true [basePair o, offWord o] 120#7 false
      c.dstCheck o.d n one
      if c.mask == 0 then .ok (.issued s (c.advance 0xA0 o c.g) one)
      else
        let ls := if one then [lowLane c.mask] else lanesOf c.mask
        let lanes := ls.map fun l => (l, c.memAddr o (if one then c.now else c.laneTime l) l)
        memChecks lanes n false
        let ctx := (s.teamOf c.g).ctx
        match ← s.translate c.core ctx (slotKey c.core c.slot) c.entry lanes false false with
        | .walk w => .ok (.stall (s.startWalk c w))
        | .lanes es =>
          let s := s.touchPages c.core ctx es
          let (id, s) := s.fresh
          let (fmt, cnt) := c.loadTag o.fn.toNat
          let a := { (c.access s .load .mem n o.d true) with
            fmt := fmt, cnt := cnt, signed := o.fn == 4#5 || o.fn == 6#5, one := one
            lanes := es.map fun (l, va, e) => LaneAcc.start l e va 0 0 }
          let s := ({ s with accs := tset s.accs id a }).readLines id
          let s := if a.hasHost then s.askLanes id a else s
          .ok (.issued (s.sendPeers id a) (c.advance 0xA0 o (c.g.begin a)) one)

/-! ## ST (R182, R384) -/

/-- The lanes of an access in one line are applied in the L1 that holds its token, and a write-through goes home (R175,
R179, R228). -/
def State.applyInL1 (s : State) (id line : Nat) : State :=
  match tget? s.accs id with
  | none => s
  | some a =>
    let apply (st : List (Nat × Nat) × List LaneAcc) (x : LaneAcc) : List (Nat × Nat) × List LaneAcc :=
      match x.loc with
      | .dev p =>
        if p / 256 != line || x.done then (st.1, st.2 ++ [x])
        else
          match a.op with
          | .atom op w64 =>
            let old := ((st.1.find? fun v => v.1 == p).map fun v => v.2).getD (s.ownedRead p a.bytes)
            let new := atomNew op w64 old x.data x.data2
            ((p, new) :: st.1, st.2 ++ [{ x with data := new, got := some old, done := true }])
          | _ => ((p, x.data) :: st.1, st.2 ++ [{ x with done := true }])
      | _ => (st.1, st.2 ++ [x])
    let r := a.lanes.foldl apply ([], [])
    let s := { s.touchLine a.core line a.task with accs := tset s.accs id { a with lanes := r.2, acks := a.acks + 1 } }
    s.send (.through id line (r.1.reverse.map fun v => (v.1, leBytes a.bytes v.2))) a.core (s.homeOf (256 * line)) true

/-- Whether an L1 that owns a line may apply an access to it now: no older access of the group meets it (R232), and an atomic reads
no word that another group's unacknowledged write has made (R179). -/
def State.mayApply (s : State) (id : Nat) (a : Access) (line : Nat) : Bool :=
  a.lanes.all fun x => !x.inLine line || x.done ||
    (!s.olderMeets a.guid id x.loc a.bytes &&
      (a.op == .store || match x.loc with | .dev p => !s.foreignWrite a.core a.guid p a.bytes | _ => true))

/-- The lanes of a direct store or an atomic in one line: applied in the L1 that owns the line, where they may have to wait, or sent
home as a write request, with WT = 1 for an atomic or a store to a line held (R175); NC lines, and an atomic of a line whose data is
bad, always go home (R193, R390). -/
def State.writeLine (s : State) (id line : Nat) : State :=
  match tget? s.accs id with
  | none => s
  | some a =>
    let nc := a.lanes.any fun x => x.inLine line && x.nc
    let bad := a.op != .store && s.badRange (256 * line) 256
    if !nc && !bad && s.owns a.core line then
      if s.mayApply id a line then s.applyInL1 id line
      else { s with accs := tset s.accs id { a with pend := a.pend ++ [line] } }
    else
      let wt := !nc && (a.op != .store || (s.copyOf a.core line).isSome)
      s.send (.write id line wt) a.core (s.homeOf (256 * line)) true

/-- The lines of a direct store or an atomic go on their ways. -/
def State.writeLines (s : State) (id : Nat) : State :=
  match tget? s.accs id with
  | none => s
  | some a => a.openLines.foldl (fun s l => s.writeLine id l) s

/-- What waits in the L1s is tried again (R175, R179). -/
def State.retryPending (s : State) : State :=
  s.accs.foldl (fun s (id, a) =>
    if a.pend == [] then s
    else
      let s := { s with accs := tmod s.accs id fun a => { a with pend := [] } }
      a.pend.foldl (fun s l => if a.op == .load then s.readLine id l else s.writeLine id l) s) s

/-- The lanes of a store or an atomic that are not versioned go on their ways. -/
def State.startWrites (s : State) (id : Nat) (a : Access) : State :=
  let a := a.prevail
  let s := ({ s with accs := tset s.accs id a }).setNr a.team
  let s := (s.writeLines id).sendPeers id a
  if a.hasHost then (s.askLanes id a).send (.hostAcc id) a.core (s.homeOf 0) true else s

/-- ST (R182, R384): versioned lanes are merged into the task's version line at once, or wait while an older access of the group to their
bytes is not performed (R232); the others are direct. -/
def execSt (o : Operands) (s : State) : Host.Outcome State Fault Refusal :=
  runState 0xA1 o memTiming s fun c =>
    let n := storeBytes o.fn.toNat
    if c.counterFull false then .ok (.stall (s.waitCounter c false))
    else do
      c.check true ([basePair o, offWord o] ++ storeSrcs o n) 120#7 false
      if c.mask == 0 then .ok (.issued s (c.advance 0xA1 o c.g) false)
      else
        let lanes := (lanesOf c.mask).map fun l => (l, c.memAddr o (c.laneTime l) l)
        memChecks lanes n true
        let t := s.teamOf c.g
        match ← s.translate c.core t.ctx (slotKey c.core c.slot) c.entry lanes true false with
        | .walk w => .ok (.stall (s.startWalk c w))
        | .lanes es =>
          let s := s.touchPages c.core t.ctx es
          let vmode := (s.gridAt t.grid).eff.vmode
          let ver (e : TlbEntry) : Bool := vmode == 0 && !e.d && !e.nc && !e.ats && !e.peer
          if es.any fun (_, va, e) => ver e && (s.storeWaits c.core t.task (e.target va) || s.olderMeets c.g.uid s.ids (e.loc va) n) then
            .ok (.stall (s.waitFrag c (.yield (s.time + bclk))))
          else
          let s := es.foldl (fun s (l, va, e) =>
            if ver e then s.versionedStore c.core t.task (e.target va) (leBytes n (c.storeData o n l)) else s) s
          let direct := es.filter fun x => !ver x.2.2
          if direct == [] then .ok (.issued s (c.advance 0xA1 o c.g) false)
          else
            let (id, s) := s.fresh
            let a := { (c.access s .store .mem n 120#7 false) with
              lanes := direct.map fun (l, va, e) => LaneAcc.start l e va (c.storeData o n l) 0 }
            let s := s.startWrites id a
            .ok (.issued s (c.advance 0xA1 o (c.g.begin a)) false)

/-! ## Atomics (R388 to R390) -/

/-- The formats that C is checked against, by op and width (R388). -/
def atomFmts (op : Nat) (w64 : Bool) : List Nat :=
  if op ≤ 4 then (if w64 then [2, 3] else [0, 1]) else if op == 10 then (if w64 then [7] else [6]) else []

/-- The data sources of an atomic (R388): C, and for CAS the second operand. -/
def atomSrcs (o : Operands) (op : Nat) (w64 : Bool) : List Src :=
  let role := if op == 10 then LitRole.fp else .zext
  let s1 : Src := ⟨o.c, w64, atomFmts op w64, role⟩
  if op == 9 then [s1, ⟨o.c + (if w64 then 2 else 1), w64, [], .zext⟩] else [s1]

/-- The format and count of an atomic's return (R388). -/
def Ctx.atomTag (c : Ctx) (o : Operands) (op : Nat) (w64 : Bool) : Nat × Nat :=
  let uint := if w64 then 3 else 1
  if op == 1 || op == 2 then (if w64 then 2 else 0, 0)
  else if op == 3 || op == 4 then (uint, 0)
  else if op == 10 then (if w64 then 7 else 6, 0)
  else match c.tag o.c with
    | some (f, k) => if is64 f == w64 then (f, k) else (uint, 0)
    | none => (uint, 0)

/-- The operands of an atomic's lane. -/
def Ctx.atomData (c : Ctx) (o : Operands) (op : Nat) (w64 : Bool) (l : Nat) (t : Nat := c.laneTime l) : Nat × Nat :=
  let xs := (atomSrcs o op w64).map fun s => c.value s o l t
  (xs.headD 0, xs.getD 1 0)

/-- ATOM and RED (R389, R390): applied in the L1 that owns the line, at the home, at a peer, or over the link. -/
def atomMem (code : Nat) (dst : Code) (o : Operands) (s : State) : Host.Outcome State Fault Refusal :=
  runState code o memTiming s fun c =>
    let op := o.fn.toNat % 16
    let w64 := o.fn.toNat ≥ 16
    let n := atomBytes o.fn.toNat
    let ldc := dst != 120#7
    if c.counterFull ldc then .ok (.stall (s.waitCounter c ldc))
    else do
      c.check true ([basePair o, offWord o] ++ atomSrcs o op w64) 120#7 false
      c.dstCheck dst n false
      if c.mask == 0 then .ok (.issued s (c.advance code o c.g) false)
      else
        let lanes := (lanesOf c.mask).map fun l => (l, c.memAddr o (c.laneTime l) l)
        memChecks lanes n true
        let ctx := (s.teamOf c.g).ctx
        match ← s.translate c.core ctx (slotKey c.core c.slot) c.entry lanes true false true with
        | .walk w => .ok (.stall (s.startWalk c w))
        | .lanes es =>
          let s := s.touchPages c.core ctx es
          let (id, s) := s.fresh
          let (fmt, cnt) := c.atomTag o op w64
          let a := { (c.access s (.atom op w64) .mem n dst ldc) with
            fmt := fmt, cnt := cnt
            lanes := es.map fun (l, va, e) => LaneAcc.start l e va (c.atomData o op w64 l).1 (c.atomData o op w64 l).2 }
          let s := s.startWrites id a
          .ok (.issued s (c.advance code o (c.g.begin a)) false)

/-- ATOM (R389). -/
def execAtom (o : Operands) (s : State) : Host.Outcome State Fault Refusal := atomMem 0xA8 o.d o s

/-- RED (R389): an atomic without return. -/
def execRed (o : Operands) (s : State) : Host.Outcome State Fault Refusal := atomMem 0xAA 120#7 o s

/-! ## The scratchpad (R219, R239) -/

/-- The bytes of a team's scratchpad (R217). -/
def State.scratchSize (s : State) (team : Nat) : Nat := (s.gridAt (s.teamAt team).grid).eff.scr * 32768

/-- The conflict degree of a beat (R219): the most distinct double-words that its lanes touch in one of 32 banks. -/
def conflictDegree (addrs : List Nat) (n : Nat) : Nat :=
  let words := (addrs.flatMap fun a => (List.range ((n + 7) / 8)).map fun i => a / 8 + i).eraseDups
  max 1 ((List.range 32).foldl (fun m b => max m (words.filter fun w => w % 32 == b).length) 0)

/-- The lanes of a scratchpad instruction with their addresses, the cycles of MEM they take, and, per beat, when its
results are available: each beat enters once those before it are served (R219). -/
def Ctx.scratchBeats (c : Ctx) (o : Operands) (n lat : Nat) (one : Bool) : List (Nat × Nat) × Nat × Nat :=
  if one then
    let l := lowLane c.mask
    ([(l, c.scratchAddr o c.now l)], 1, c.now + lat * c.cyc)
  else
    c.slotBeats.foldl (fun (st : List (Nat × Nat) × Nat × Nat) b =>
      let (ls, cyc, last) := st
      let t := c.now + cyc * c.cyc
      let mine := ((List.range 16).map fun i => 16 * b + i).filter fun l => inMask c.mask l
      if mine == [] then (ls, cyc + c.mateCyc.getD b 1, last)
      else
        let as' := mine.map fun l => (l, c.scratchAddr o t l)
        (ls ++ as', cyc + conflictDegree (as'.map fun x => x.2) n, t + lat * c.cyc)) ([], 0, c.now)

/-- When each of the four beats of a scratchpad instruction enters (R219). -/
def Ctx.scratchTimes (c : Ctx) (o : Operands) (n : Nat) : List Nat :=
  (c.slotBeats.foldl (fun (st : List Nat × Nat) b =>
    let t := c.now + st.2 * c.cyc
    let mine := ((List.range 16).map fun i => 16 * b + i).filter fun l => inMask c.mask l
    (lset st.1 b t, st.2 + if mine == [] then c.mateCyc.getD b 1 else conflictDegree (mine.map fun l => c.scratchAddr o t l) n))
    (List.replicate 4 c.now, 0)).1

/-- The cycles for which each of the four beats of a scratchpad instruction holds MEM (R219). -/
def Ctx.beatCycles (c : Ctx) (o : Operands) (n : Nat) : List Nat :=
  (List.range 4).map fun b =>
    let mine := ((List.range 16).map fun i => 16 * b + i).filter fun l => inMask c.mask l
    conflictDegree (mine.map fun l => c.scratchAddr o c.now l) n

/-- The cycles for which the beats of the other candidate of a shared slot hold MEM. -/
def Ctx.mateCycles (c : Ctx) : Nat := ((List.range 4).filter fun b => c.mate.getLsbD b).foldl (fun a b => a + c.mateCyc.getD b 1) 0

/-- MEM stays held for the cycles that bank conflicts add to the issue slot; source 0x09 counts the instruction's own (R97, R219). -/
def State.holdMem (s : State) (c : Ctx) (cycles beats : Nat) : State :=
  let s := if cycles ≤ beats + c.mateBeats then s
    else
      let k := s.core c.core
      s.setCore c.core { k with pipes := tset k.pipes (4 * (c.slot / 32) + 2) (c.now + cycles * c.cyc) }
  if cycles ≤ beats + c.mateCycles then s else s.tally c.core 9 (cycles - beats - c.mateCycles)

/-- A team's scratchpad bytes. -/
def State.scratchRead (s : State) (team off n : Nat) : Nat := cnat (s.teamAt team).scratch off n

/-- A team's scratchpad with bytes written. -/
def State.scratchWrite (s : State) (team off : Nat) (bs : List Byte) : State :=
  let t := s.teamAt team
  s.setTeam team { t with scratch := cwrite t.scratch off bs }

/-- The state after an instruction of the scratchpad has issued: MEM is held for its bank conflicts. -/
def State.issueScratch (s : State) (c : Ctx) (o : Operands) (one : Bool) (cycles : Nat) (g : Group) : State :=
  let beats := c.beats one
  (s.afterIssue c o beats g).holdMem c cycles beats

/-- Whether an older STX or LDX of a group to its own team's scratchpad is not performed on bytes that an instruction's lanes name
(R232, R239): the instruction waits for it. -/
def State.ownRemote (s : State) (c : Ctx) (lanes : List (Nat × Nat)) (n : Nat) : Bool :=
  s.accs.any fun (_, b) => b.guid == c.g.uid && b.space == .remote && b.lanes.any fun y => !y.done && y.team == c.g.team &&
    match y.loc with
    | .dev off => lanes.any fun x => x.2 < off + b.bytes && off < x.2 + n
    | _ => false

/-- The state in which the fragment tries its instruction again a cycle later. -/
def State.waitCycle (s : State) (c : Ctx) : State := s.setGroup c.core c.slot (c.g.delay c.entry (c.now + c.cyc))

/-- LDS (R383): the value is read from the banks as the beat enters, in program order (R232). -/
def execLds (o : Operands) (s : State) : Host.Outcome State Fault Refusal :=
  runState 0xA2 o memTiming s fun c =>
    let n := loadBytes o.fn.toNat
    let one := c.uniformAddress o false
    if c.counterFull true then .ok (.stall (s.waitCounter c true))
    else do
      c.check true [baseWord32 o, offWord o] 120#7 false
      c.dstCheck o.d n one
      if c.mask == 0 then .ok (.issued s (c.advance 0xA2 o c.g) one)
      else
        let (lanes, cycles, avail) := c.scratchBeats o n 22 one
        let size := s.scratchSize c.g.team
        scratchChecks lanes n false fun a => a ≥ size
        if s.ownRemote c lanes n then .ok (.stall (s.waitCycle c))
        else
        let (id, s) := s.fresh
        let (fmt, cnt) := c.loadTag o.fn.toNat
        let a := { (c.access s .load .own n o.d true) with
          fmt := fmt, cnt := cnt, signed := o.fn == 4#5 || o.fn == 6#5, one := one, readyAt := avail
          lanes := lanes.map fun (l, a) => { lane := l, loc := .dev a, team := c.g.team, done := true
                                             got := some (s.scratchRead c.g.team a n) } }
        let s := { s with accs := tset s.accs id a }
        .ok (.stall ({ (s.issueScratch c o one cycles (c.advance 0xA2 o (c.g.begin a))) with uni := one }))

/-- The bytes of a store's lanes go into the team's banks in ascending order, so that the highest lane of a byte prevails (R228). -/
def State.storeScratch (s : State) (c : Ctx) (o : Operands) (n : Nat) (lanes : List (Nat × Nat)) : State :=
  let ts := c.scratchTimes o n
  lanes.foldl (fun s (l, a) => s.scratchWrite c.g.team a (leBytes n (c.storeData o n l (ts.getD (l / 16) 0)))) s

/-- STS (R384): written into its banks as it issues; the highest lane of a byte prevails (R228). -/
def execSts (o : Operands) (s : State) : Host.Outcome State Fault Refusal :=
  runState 0xA3 o memTiming s fun c =>
    let n := storeBytes o.fn.toNat
    if c.counterFull false then .ok (.stall (s.waitCounter c false))
    else do
      c.check true ([baseWord32 o, offWord o] ++ storeSrcs o n) 120#7 false
      if c.mask == 0 then .ok (.issued s (c.advance 0xA3 o c.g) false)
      else
        let (lanes, cycles, _) := c.scratchBeats o n 22 false
        let size := s.scratchSize c.g.team
        scratchChecks lanes n true fun a => a ≥ size
        if s.ownRemote c lanes n then .ok (.stall (s.waitCycle c))
        else .ok (.stall ((s.storeScratch c o n lanes).issueScratch c o false cycles (c.advance 0xA3 o c.g)))

/-- The lanes of an atomic on the team's banks, in ascending order, each with the value its word had (R228, R389). -/
def State.atomScratch (s : State) (c : Ctx) (o : Operands) (lanes : List (Nat × Nat)) : State × List LaneAcc :=
  let op := o.fn.toNat % 16
  let w64 := o.fn.toNat ≥ 16
  let n := atomBytes o.fn.toNat
  let ts := c.scratchTimes o n
  lanes.foldl (fun (st : State × List LaneAcc) (l, a) =>
    let old := st.1.scratchRead c.g.team a n
    let (x, y) := c.atomData o op w64 l (ts.getD (l / 16) 0)
    (st.1.scratchWrite c.g.team a (leBytes n (atomNew op w64 old x y)),
      st.2 ++ [{ lane := l, loc := .dev a, team := c.g.team, done := true, got := some old }])) (s, [])

/-- ATOMS (R389): applied in the team's banks in ascending lane order. -/
def execAtoms (o : Operands) (s : State) : Host.Outcome State Fault Refusal :=
  runState 0xA9 o memTiming s fun c =>
    let op := o.fn.toNat % 16
    let w64 := o.fn.toNat ≥ 16
    let n := atomBytes o.fn.toNat
    let ldc := o.d != 120#7
    if c.counterFull ldc then .ok (.stall (s.waitCounter c ldc))
    else do
      c.check true ([baseWord32 o, offWord o] ++ atomSrcs o op w64) 120#7 false
      c.dstCheck o.d n false
      if c.mask == 0 then .ok (.issued s (c.advance 0xA9 o c.g) false)
      else
        let (lanes, cycles, avail) := c.scratchBeats o n 26 false
        let size := s.scratchSize c.g.team
        scratchChecks lanes n true fun a => a ≥ size
        if s.ownRemote c lanes n then .ok (.stall (s.waitCycle c))
        else
        let (s, done) := s.atomScratch c o lanes
        if ldc then
          let (id, s) := s.fresh
          let (fmt, cnt) := c.atomTag o op w64
          let a := { (c.access s (.atom op w64) .own n o.d true) with
            fmt := fmt, cnt := cnt, readyAt := avail, lanes := done }
          let s := { s with accs := tset s.accs id a }
          .ok (.stall (s.issueScratch c o false cycles (c.advance 0xA9 o (c.g.begin a))))
        else .ok (.stall (s.issueScratch c o false cycles (c.advance 0xA9 o c.g)))

/-! ## Remote scratchpads (R386) -/

/-- The team at a place of a team's district, where its scratchpad stands (R135, R386). -/
def State.placeOf (s : State) (team place : Nat) : Option Nat :=
  let t := s.teamAt team
  let d := max 1 (s.gridAt t.grid).eff.dist
  if place ≥ d then none
  else
    let tix := t.tix.toNat / d * d + place
    (s.teams.find? fun e => e.2.grid == t.grid && e.2.tix.toNat == tix &&
      (e.2.state == .resident || e.2.state == .retired || e.2.state == .committing || e.2.state == .parkEligible ||
        e.2.state == .parkArmed || e.2.state == .preempting)).map fun e => e.1

/-- Whether a remote scratchpad address names no byte (R386). -/
def State.remoteBad (s : State) (team sa : Nat) : Bool :=
  sa / 2 ^ 22 != 0 ||
    match s.placeOf team (sa / 2 ^ 19 % 8) with
    | none => true
    | some m => sa % 2 ^ 19 ≥ s.scratchSize m

/-- A remote lane: its target team and the offset there. -/
def State.remoteLane (s : State) (team l sa data : Nat) : LaneAcc :=
  { lane := l, loc := .dev (sa % 2 ^ 19), team := (s.placeOf team (sa / 2 ^ 19 % 8)).getD 0, data := data }

/-- The cycles that bank conflicts at the most conflicted target core add (R386). -/
def State.remoteExtra (s : State) (lanes : List LaneAcc) (n : Nat) : Nat :=
  let cores := (lanes.map fun x => (s.teamAt x.team).core).eraseDups
  let at' (k : Nat) : Nat :=
    conflictDegree ((lanes.filter fun x => (s.teamAt x.team).core == k).map fun x => match x.loc with | .dev a => a | _ => 0) n
  cores.foldl (fun m k => max m (at' k)) 1 - 1

/-- LDX (R383, R386): read at the target when its data returns, in order with the group's other accesses to the target. -/
def execLdx (o : Operands) (s : State) : Host.Outcome State Fault Refusal :=
  runState 0xA4 o memTiming s fun c =>
    let n := loadBytes o.fn.toNat
    let one := c.uniformAddress o false
    if c.counterFull true then .ok (.stall (s.waitCounter c true))
    else do
      c.check true [baseWord32 o, offWord o] 120#7 false
      c.dstCheck o.d n one
      if c.mask == 0 then .ok (.issued s (c.advance 0xA4 o c.g) one)
      else
        let ls := if one then [lowLane c.mask] else lanesOf c.mask
        let lanes := ls.map fun l => (l, c.scratchAddr o (if one then c.now else c.laneTime l) l)
        scratchChecks lanes n false fun a => s.remoteBad c.g.team a
        let (id, s) := s.fresh
        let (fmt, cnt) := c.loadTag o.fn.toNat
        let xs := lanes.map fun (l, a) => s.remoteLane c.g.team l a 0
        let a := { (c.access s .load .remote n o.d true) with
          fmt := fmt, cnt := cnt, signed := o.fn == 4#5 || o.fn == 6#5, one := one, lanes := xs
          readyAt := c.now + (c.beats one - 1 + 48 + s.remoteExtra xs n) * c.cyc }
        .ok (.issued { s with accs := tset s.accs id a } (c.advance 0xA4 o (c.g.begin a)) one)

/-- STX (R384, R386): it counts in its targets' inbound counters until it is written there. -/
def execStx (o : Operands) (s : State) : Host.Outcome State Fault Refusal :=
  runState 0xA5 o memTiming s fun c =>
    let n := storeBytes o.fn.toNat
    if c.counterFull false then .ok (.stall (s.waitCounter c false))
    else do
      c.check true ([baseWord32 o, offWord o] ++ storeSrcs o n) 120#7 false
      if c.mask == 0 then .ok (.issued s (c.advance 0xA5 o c.g) false)
      else
        let lanes := (lanesOf c.mask).map fun l => (l, c.scratchAddr o (c.laneTime l) l)
        scratchChecks lanes n true fun a => s.remoteBad c.g.team a
        let (id, s) := s.fresh
        let xs := lanes.map fun (l, a) => s.remoteLane c.g.team l a (c.storeData o n l)
        let a := { (c.access s .store .remote n 120#7 false) with lanes := xs }
        let targets := (xs.map fun x => x.team).eraseDups
        let s := targets.foldl (fun s k => s.setTeam k { s.teamAt k with inbound := (s.teamAt k).inbound + 1 }) s
        let s := { s with accs := tset s.accs id a }
        let s := s.send (.stx id) c.core (2 * (c.core / 8)) true
        .ok (.issued s (c.advance 0xA5 o (c.g.begin a)) false)

/-! ## PREF (R387) -/

/-- PREF: for lanes whose address a TLB entry covers, a clean copy of committed data is asked for. -/
def execPref (o : Operands) (s : State) : Host.Outcome State Fault Refusal :=
  runState 0xA6 o memTiming s fun c => do
    c.check true [basePair o, offWord o] 120#7 false
    let ctx := (s.teamOf c.g).ctx
    let uni := c.uniformAddress o true
    let lanes := (lanesOf c.mask).filterMap fun l =>
      let va := c.memAddr o (c.laneTime l) l
      if va ≥ 2 ^ 52 || (s.ctxAt ctx).hostManaged va then none
      else match s.tlbFind c.core ctx va with
        | none => none
        | some e =>
          if e.nc || e.peer || e.ats || s.xlateFails e va false false 5 then none
          else some (e.target va / 256 * 256)
    let lines := lanes.eraseDups.filter fun p => (s.copyOf c.core (p / 256)).isNone
    if lines == [] then .ok (.issued s (c.advance 0xA6 o c.g) uni)
    else
      let (id, s) := s.fresh
      let xs := lines.flatMap fun p => (List.range 4).map fun q => ({ lane := q, loc := .dev (p + 64 * q) } : LaneAcc)
      let a := { (c.access s .load .own 1 120#7 false) with lanes := xs }
      let s := { s with accs := tset s.accs id a }
      let s := lines.foldl (fun s p => s.send (.read id (p / 256)) c.core (s.homeOf p) true) s
      .ok (.issued s (c.advance 0xA6 o c.g) uni)

/-! ## WAITCNT (R391) -/

/-- WAITCNT: the fragment is blocked until the counters named have fallen to their operands (R230). -/
def execWaitcnt (o : Operands) (s : State) : Host.Outcome State Fault Refusal :=
  runGroup 0xB0 o (fun _ => ⟨.ctl, 1, 1, true⟩) s fun c =>
    let bound (x : Code) : Option Nat := if x == 0#7 then none else some (x.toNat - 1)
    let w : Wait := if o.a == 0#7 && o.b == 0#7 then .none else .cnt (bound o.a) (bound o.b)
    .ok (if c.g.waitOver w c.now then c.advance 0xB0 o c.g else c.blocked 0xB0 o c.g w, true)

/-! ## Data returns (R229) -/

/-- What went wrong with an access as its response returns (R40, R193): the cause and SUB. -/
def errCause (err : Nat) : Nat × Nat := match err with | 1 => (0x0F, 0) | 2 => (0x08, 8) | _ => (0x43, 0)

/-- A load or an atomic with return meets an error: an error trap on its group (R40, R193, R250); any other access aborts
its team's fault domain and a record tells why. -/
def State.accError (s : State) (acc lane err : Nat) (info : Nat := 0) : State :=
  match tget? s.accs acc with
  | none => s
  | some a =>
    let (cause, sub) := errCause err
    let addr := ((a.lanes.find? fun x => x.lane == lane).map fun x => x.va).getD 0
    let wr := match a.op with | .atom _ _ => 16 | _ => 0
    let g := (s.groupKey? a.guid).bind fun k => tget? s.groups k
    let g := g.getD { uid := a.guid, team := a.team }
    let flying := a.acks != 0 || s.msgs.any fun e => e.2.kind.access? == some acc
    let s := { s with accs := if flying then tset s.accs acc { a with dead := true, lanes := a.lanes.map fun x => if x.lane == lane then { x with done := true } else x }
                              else tdel s.accs acc }
    let r : Record := { cause := cause, sub := sub, lane := lane, pc := a.pc.toNat, addr := addr, info := info }
    if a.ldc then s.errorTrap a.core a.slot g { r with flags := wr }
    else if (s.teamAt a.team).state == .ended then s
    else
      let base := s.groupRecord a.core a.slot g cause
      (s.abortTeam a.team).post { base with flags := 2 + 16, sub := sub, lane := lane, pc := a.pc.toNat, addr := addr, info := info }

/-- Whether an older access of the group to one of the same remote scratchpads is not performed (R232). -/
def State.remoteOlder (s : State) (id : Nat) (a : Access) : Bool :=
  s.accs.any fun (k, b) => k < id && b.guid == a.guid && b.space == .remote &&
    b.lanes.any fun y => !y.done && a.lanes.any fun x => x.team == y.team

/-- The lanes of a load that read a remote scratchpad or host memory as its data comes back. -/
def State.lateReads (s : State) (id : Nat) (a : Access) : Access :=
  { a with lanes := a.lanes.map fun x =>
      if x.done then x
      else if a.space == .remote then
        match x.loc with
        | .dev off => { x with done := true, got := some (s.scratchRead x.team off a.bytes) }
        | _ => x
      else match x.loc with
        | .host va =>
          if s.olderMeets a.guid id x.loc a.bytes || !s.asked (.lane id x.lane) then x
          else { x with done := true, got := some (leNat (s.hostRead va a.bytes)) }
        | _ => x }

/-- The value that a load or an atomic delivers for an element (R382). -/
def Access.extend (a : Access) (v : Nat) : Nat :=
  if a.signed then wrapInt 32 (intVal true (8 * a.bytes) (v % 256 ^ a.bytes)) else v

/-- The registers of an access's result, as written to a group when the data is there (R216, R383, R385, R389). -/
def Access.write (a : Access) (g : Group) (now : Nat) : Group :=
  let val (l : Nat) : Nat :=
    let x := if a.one then a.lanes.head? else a.lanes.find? fun x => x.lane == l
    (x.map fun x => a.extend (x.got.getD 0)).getD 0
  let whole := a.one && a.mask == fullMask
  let part (k : Nat) : RegVal :=
    if whole then .uniform (BitVec.ofNat 32 (val 0 / 2 ^ (32 * k)))
    else .general ((List.range 64).map fun l => if inMask a.mask l then BitVec.ofNat 32 (val l / 2 ^ (32 * k)) else 0)
  let g := { g with pendRegs := a.pending.foldl (fun ps r => ps.erase r) g.pendRegs, ldcnt := g.ldcnt - 1 }
  if a.dst == 123#7 then
    if a.mask == 0 then g
    else
      let g' := g.writeExec (BitVec.ofNat 64 (val 0)) a.own [now, now, now, now]
      { g' with outs := g'.outs.dropLast }
  else
    a.dstRegs.zipIdx.foldl (fun g (r, k) =>
      g.writeData { n := r, fmt := a.fmt, cnt := a.cnt, val := part k, mask := a.mask } now) g

/-- Whether data or a completion of an access is still on its way on the Avenue (R143, R176). -/
def State.dataComing (s : State) (acc : Nat) : Bool :=
  s.msgs.any fun (_, m) => match m.kind with
    | .data a _ _ => a == acc && m.stage != .arrived
    | .completion a _ => a == acc
    | _ => false

/-- The messages that have brought an access its data are consumed. -/
def State.takeData (s : State) (acc : Nat) : State :=
  { s with msgs := tfilter s.msgs fun _ m => match m.kind with | .data a _ _ => a != acc | _ => true }

/-- LOAD_DATA_RETURN (R229): once every lane has its value, its data has come, and the home has acknowledged what the L1 applied, the
data is written and the instruction leaves LDCNT. A prefetch ends as its sectors have come (R387): it counts in neither counter. -/
def execLoadDataReturn (access : Nat) (s : State) : Host.Outcome State Fault Refusal :=
  match tget? s.accs access with
  | none => .next s
  | some a =>
    let pref := !a.ldc && a.op == .load
    if !(a.ldc || pref) || a.readyAt > s.time || s.dataComing access || (a.space == .remote && s.remoteOlder access a) then .next s
    else
      let s := if a.hasHost then s.hostPump else s
      let b := s.lateReads access a
      let s := { s with accs := tset s.accs access b, free := if a.hasHost then s.free + 1 else s.free }
      if !(b.lanes.all fun x => x.done) || b.acks != 0 then .next s
      else
        let s := s.takeData access
        if pref || b.dead then .next { s with accs := tdel s.accs access }
        else
          match b.lanes.find? fun x => x.err != 0 with
          | some x => .next (s.accError access x.lane x.err).retryPending
          | none =>
            let s := { s with accs := tdel s.accs access }
            .next (s.modGroup b.guid fun g => ((b.write (g.settle s.time) s.time).loaded access).notePark s.time).retryPending

end Sys2Proof.Machine
end

