-- ==== Sys2Proof/Machine/Barrier.lean ====
section
/-! DEFINITION. What the Plaza keeps and does: the groups of a team, arrivals at barriers (R395 to R398), the conditions and
firings of events (R401 to R404), and the readmission of parked teams (R136, R137). -/
namespace Sys2Proof.Machine

/-! ## The groups of a team -/

/-- The groups of a team that have not exited: those that are resident and those that its save holds. -/
def State.liveGroups (s : State) (team : Nat) : List Group :=
  tvals (s.groups.filter fun e => e.2.team == team) ++ tvals (s.teamAt team).kept

/-- The state with the groups of a team changed, those that its save holds among them. -/
def State.mapTeam (s : State) (team : Nat) (f : Group → Group) : State :=
  let s := { s with groups := tmap s.groups fun _ g => if g.team == team then f g else g }
  let t := s.teamAt team
  if t.kept == [] then s else s.setTeam team { t with kept := tmap t.kept fun _ g => f g }

/-- A group with every fragment's wait of one kind ended; the fragments issue from a time on. -/
def Group.release (g : Group) (p : Wait → Bool) (at' : Nat) : Group :=
  let free (f : Frag) : Frag := if p f.wait then { f with wait := .none, notBefore := max f.notBefore at' } else f
  { g with split := tmap g.split fun _ f => free f }

/-! ## BAR and TRIG (R395, R396, R411) -/

/-- Whether every lane of a group has arrived or exited (R395). -/
def Group.arrived (g : Group) (set : W64) : Bool := (set ||| g.exited) == fullMask

/-- The moment at which a team's last group has arrived at BAR or at TRIG is kept (R214, R396, R411). -/
def State.noteArrivals (s : State) (team : Nat) : State :=
  let gs := s.liveGroups team
  let t := s.teamAt team
  let bar := gs.any (fun g => g.barSet != 0) && gs.all fun g => g.arrived g.barSet
  let trig := gs.any (fun g => g.trigSet != 0) && gs.all fun g => g.arrived g.trigSet
  s.setTeam team { t with
    barAt := if bar then some (t.barAt.getD s.time) else none
    trigAt := if trig then some (t.trigAt.getD s.time) else none }

/-! ## District and grid barriers (R397, R398) -/

/-- The arrivals of a group that are still on their way to the Plaza. -/
def State.arrivalsInFlight (s : State) (guid : Nat) (grid : Bool) : Nat :=
  (s.msgs.filter fun e => match e.2.kind with
    | .district _ k => !grid && k == guid
    | .grid _ k => grid && k == guid
    | _ => false).length

/-- Whether a team has arrived at the generation after `c` (R397): its groups that have not exited each have; a team that
has retired counts as arrived, one that was not placed has made no arrival. -/
def State.teamArrived (s : State) (team : Nat) (grid : Bool) (c : W32) : Bool :=
  let t := s.teamAt team
  if t.state.over || t.state == .committing then true
  else if t.state == .queued && !t.restore then false
  else (s.liveGroups team).all fun g =>
    (if grid then g.garr else g.darr) - BitVec.ofNat 32 (s.arrivalsInFlight g.uid grid) == c + 1

/-- A barrier's waits that its count satisfies end (R397): `t0` is the time of the completing arrival. -/
def Group.wakeBarrier (g : Group) (grid : Bool) (c : W32) (at' : Nat) : Group :=
  let g := g.release (fun w => match w with | .darr => !grid | .garr => grid | _ => false) 0
  g.release (fun w => match w with
    | .dwait t => !grid && (c - t).toNat < 2 ^ 31
    | .gwait t => grid && (c - t).toNat < 2 ^ 31
    | _ => false) at'

/-- The district of a team completes a generation, where every member has arrived at it (R397); the last district of a grid may
hold fewer teams (R106). -/
def State.districtCheck (s : State) (team t0 : Nat) : State :=
  let t := s.teamAt team
  let key := s.districtKey t
  let d := tgetD s.districts key {}
  let members := tkeys s.teams fun _ x => x.grid == t.grid && s.districtKey x == key
  let d' := max 1 (s.gridAt t.grid).eff.dist
  let size := min d' ((s.gridAt t.grid).teams - t.tix.toNat / d' * d')
  if members.length == size && members.any (fun k => s.liveGroups k != []) && members.all fun k => s.teamArrived k false d.cd then
    let c := d.cd + 1
    let s := { s with districts := tset s.districts key { cd := c, cdAt := t0 } }
    members.foldl (fun s k => s.mapTeam k fun g => g.wakeBarrier false c (t0 + fixedCycles 320)) s
  else s

/-- A grid completes a generation, where every one of its teams has arrived at it (R398). -/
def State.gridBarrierCheck (s : State) (grid t0 : Nat) : State :=
  let g := s.gridAt grid
  let members := tkeys s.teams fun _ x => x.grid == grid
  if g.next == g.teams && members.any (fun k => s.liveGroups k != []) && members.all fun k => s.teamArrived k true g.cg then
    let c := g.cg + 1
    let s := s.setGrid grid { g with cg := c, cgAt := t0 }
    members.foldl (fun s k => s.mapTeam k fun x => x.wakeBarrier true c (t0 + fixedCycles 2560)) s
  else s

/-- The accesses of a group that are in its counters: what a release waits for (R237, R394). -/
def State.accessesOf (s : State) (guid : Nat) : List Nat := tkeys s.accs fun _ a => a.guid == guid && (a.ldc || a.op != .load)

/-- A group's round at DARRIVE or GARRIVE takes a fragment's lanes; the last of them raises its count and tells the Plaza
(R395, R397). -/
def State.arriveAt (s : State) (grid : Bool) (g : Group) (lanes : W64) (core : Nat) : State × Group :=
  let set := (if grid then g.garrSet else g.darrSet) ||| lanes
  if !g.arrived set then (s, if grid then { g with garrSet := set } else { g with darrSet := set })
  else
    let held := s.accessesOf g.uid
    if grid then (s.send (.grid g.team g.uid) core plazaSlice true held, { g with garr := g.garr + 1, garrSet := 0 })
    else (s.send (.district g.team g.uid) core plazaSlice true held, { g with darr := g.darr + 1, darrSet := 0 })

/-- A group's arrivals that an exit of lanes completes (R395). -/
def State.lateArrivals (s : State) (core slot : Nat) : State :=
  match s.group? core slot with
  | none => s
  | some g =>
    let (s, g) := if g.darrSet != 0 then s.arriveAt false g 0 core else (s, g)
    let (s, g) := if g.garrSet != 0 then s.arriveAt true g 0 core else (s, g)
    s.setGroup core slot g

/-- A team's barriers after a group of it has exited or it has retired. -/
def State.barrierCheck (s : State) (team : Nat) : State :=
  let s := s.noteArrivals team
  if (s.liveGroups team).any (fun g => g.darr != 0 || g.garr != 0) || (s.teamAt team).state.over || (s.liveGroups team).isEmpty then
    (s.districtCheck team s.time).gridBarrierCheck (s.teamAt team).grid s.time
  else s

/-! ## Events (R400 to R404) -/

/-- A batch number of a class that is complete, for reading or for both (R416). -/
def Batch.number (b : Batch) (v : Bool) : BitVec 16 := if v then b.donev else b.doner

/-- Whether the condition of a descriptor holds (R401). -/
def State.eventTrue (s : State) (team : Nat) (g : Group) (d : W64) : Bool :=
  let t := s.teamAt team
  let p := d.toNat
  match fld p 63 60 with
  | 1 => ((tgetD s.districts (s.districtKey t) {}).cd - d.extractLsb' 0 32).toNat < 2 ^ 31
  | 2 => ((s.gridAt t.grid).cg - d.extractLsb' 0 32).toNat < 2 ^ 31
  | 3 => ((g.batches.getD (fld p 18 16) {}).number (p.testBit 19) - d.extractLsb' 0 16).toNat < 2 ^ 15
  | 4 => tgetD (s.ctxAt t.ctx).boxes (fld p 7 0) [] != []
  | 5 => p % 2 ^ 56 ≤ s.bclks % 2 ^ 56
  | 6 => (s.ctxAt t.ctx).flags.contains (fld p 9 0)
  | _ => false

/-- The bits of a group's descriptors whose conditions hold. -/
def State.eventsTrue (s : State) (team : Nat) (g : Group) : BitVec 8 :=
  BitVec.ofNat 8 ((List.range 8).foldl (fun a k => if s.eventTrue team g (g.evd.getD k (0, 0)).1 then a + 2 ^ k else a) 0)

/-- Whether the Plaza latches a team's firings, from step 2 of R136 on, or while the team is pre-empted (R404). -/
def TeamState.latches : TeamState → Bool
  | .parkArmed | .parkSpilling | .parked | .preempting | .preempted | .queued => true
  | _ => false

/-- The moment at which a fired WAITANY resumes: 800 cycles after its firing (R214). -/
def wakeDelay : Nat := fixedCycles 800

/-- Firings of an armed group's descriptors (R402, R403): PEV takes them, or the Plaza's latch; the first unmasked one ends
the wait, and those of the same bclk cycle are latched with it. -/
def Group.fire (g : Group) (bits : BitVec 8) (latch : Bool) (now : Nat) : Group :=
  if !g.armed then g
  else if latch then { g with latch := g.latch ||| bits }
  else
    let waits := g.split.any fun e => match e.2.wait with
      | .event _ => true
      | .resume _ t _ => (t - wakeDelay) / bclk == now / bclk
      | _ => false
    if !waits then g
    else
      let pev := g.pev ||| bits
      let woken := pev &&& g.evm != 0
      { g with
        pev := pev
        parkSince := if woken then none else g.parkSince
        split := if woken then tmap g.split fun _ f => match f.wait with
          | .event d => { f with wait := .resume d (now + wakeDelay) false }
          | _ => f
        else g.split }

/-- When the next budget period begins (R112). -/
def State.nextPeriod (s : State) : Nat := (periodAt s.time + 1) * (10 * usec)

/-- A parked team, or its district, is offered for readmission once an armed event of it has fired (R136, R137); under a
hard account that is over it waits for the next period boundary (R118). -/
def State.wakeParked (s : State) (team : Nat) : State :=
  let t := s.teamAt team
  let members := (s.districtOf team).filter fun k => !(s.teamAt k).state.over
  if t.state == .parked && (members.all fun k => (s.teamAt k).state == .parked) &&
      members.any (fun k => (s.teamAt k).kept.any fun e => e.2.latch != 0) then
    let s := members.foldl (fun s k => s.setTeam k { s.teamAt k with state := .queued, restore := true }) s
    s.readmit t.grid members (if s.overHard t.grid then some s.nextPeriod else none)
  else s

/-- Every armed descriptor whose condition holds fires (R403). -/
def State.firePlaza (s : State) : State :=
  let one (g : Group) : Group :=
    if g.armed then g.fire (s.eventsTrue g.team g) (s.teamAt g.team).state.latches s.time else g
  let fired := { s with
    groups := tmap s.groups fun _ g => one g
    teams := tmap s.teams fun _ t => { t with kept := tmap t.kept fun _ g => one g } }
  (tkeys fired.teams fun _ t => t.state == .parked).foldl (fun s k => s.wakeParked k) fired

end Sys2Proof.Machine
end

