-- ==== Sys2Proof/Machine/Control.lean ====
section
/-! DEFINITION. The control and system instructions (R327 to R339, R350 to R356). -/
namespace Sys2Proof.Machine

/-- The timing of an instruction that takes CTL for one cycle (R213, R330). -/
def ctlTiming (_ : Ctx) : Timing := ⟨.ctl, 1, 1, true⟩

/-- The address after an instruction. -/
def Ctx.next (c : Ctx) (op : Nat) (o : Operands) : W64 := c.f.pc + BitVec.ofNat 64 (instrBytes op o)

/-- NOP (R331). -/
def execNop (o : Operands) (s : State) : Host.Outcome State Fault Refusal :=
  runGroup 0x01 o ctlTiming s fun c => .ok (c.advance 0x01 o c.g, true)

/-- Whether MODE takes a value (R311). -/
def modeAllowed (v : Nat) : Bool := fld v 8 5 != 15 && fld v 11 9 < 6 && v / 2 ^ 15 == 0

/-- MODE (R332). -/
def execMode (o : Operands) (s : State) : Host.Outcome State Fault Refusal :=
  runAlu 0x02 o ctlTiming s fun c => do
    let v := c.single o o.a
    if !modeAllowed v then .error .mode
    else do
      c.check true [raw32 o.a] 120#7 false [] false
      .ok { mode := some (BitVec.ofNat 32 v), uniform := true }

/-- The group after a branch: every fragment that it leaves at a new PC issues 4 cycles later (R329). -/
def Ctx.branched (c : Ctx) (g : Group) : Group :=
  c.branchDelay ((g.split.filter fun (k, f) =>
    match tget? c.g.split k with
    | some f0 => k == c.entry || f0.pc != f.pc || f0.mask != f.mask
    | none => true).map fun e => e.1) g

/-- The target of a branch to an address read from a register, after the checks before Shape (R329). -/
def Ctx.target (c : Ctx) (o : Operands) : Except Trap W64 := do
  c.check true [⟨o.a, true, [], .zext⟩] 120#7 false [] false
  .ok (BitVec.ofNat 64 (c.single o o.a true))

/-- Misaligned where bits [1:0] of a branch's target are set (R329). -/
def jumpCheck (t : W64) (lane : Nat := 255) : Except Trap Unit := if t.extractLsb' 0 2 != 0#2 then .error (.misaligned lane t) else .ok ()

/-- A branch of the whole fragment to an address read from a register (R333). -/
def jumpTo (op : Nat) (o : Operands) (s : State) : Host.Outcome State Fault Refusal :=
  runGroup op o ctlTiming s fun c => do
    let t ← c.target o
    jumpCheck t
    .ok (c.branched (c.g.goTo c.entry t), true)

/-- BRA, register form (R333). -/
def execBra (o : Operands) (s : State) : Host.Outcome State Fault Refusal := jumpTo 0x03 o s

/-- The target of a literal branch: PC + 4 × literal (R333). -/
def Ctx.literalTarget (c : Ctx) (o : Operands) : W64 := c.f.pc + 4#64 * o.lit.signExtend 64

/-- BRA, literal form (R333). -/
def execBraLabel (o : Operands) (s : State) : Host.Outcome State Fault Refusal :=
  runGroup 0x03 o ctlTiming s fun c => .ok (c.branched (c.g.goTo c.entry (c.literalTarget o)), true)

/-- RET (R333). -/
def execRet (o : Operands) (s : State) : Host.Outcome State Fault Refusal := jumpTo 0x08 o s

/-- The timing of CALL: it takes CTL for one cycle, and its link is available when the fragment may next issue (R329, R334). -/
def callTiming (_ : Ctx) : Timing := ⟨.ctl, 4, 1, true⟩

/-- The return address of CALL in pair D, in every lane of MASK (R334). -/
def Ctx.link (c : Ctx) (o : Operands) : Except Trap Effect :=
  c.result o.d true 3 0 (.uni (c.next 0x07 o).toNat) c.f.mask

/-- CALL to a target: Shape before Misaligned (R252); the return address is written (R334). -/
def Ctx.call (c : Ctx) (o : Operands) (t : W64) : Except Trap (Group × Bool) := do
  let e ← c.link o
  jumpCheck t
  .ok (c.branched ((e.apply c o.q c.g).goTo c.entry t), true)

/-- CALL, register form (R334). -/
def execCall (o : Operands) (s : State) : Host.Outcome State Fault Refusal :=
  runGroup 0x07 o callTiming s fun c => do
    let t ← c.target o
    c.call o t

/-- CALL, literal form (R334). -/
def execCallLabel (o : Operands) (s : State) : Host.Outcome State Fault Refusal :=
  runGroup 0x07 o callTiming s fun c => do
    c.check true [] o.d true [] false
    c.call o (c.literalTarget o)

/-- BR (R335): the taken and fall-through sets, split under R206. -/
def execBr (o : Operands) (s : State) : Host.Outcome State Fault Refusal :=
  runGroup 0x04 o ctlTiming s fun c =>
    if c.hazard [] [o.a.toNat] false then .error .hazard
    else
      let t := c.f.pc + 4#64 * (o.lit.extractLsb' 0 16).signExtend 64
      let j := c.f.pc + 4#64 * (o.lit.extractLsb' 16 16).signExtend 64
      let p := c.g.predAt c.seed o.a.toNat c.now
      let p := if o.fn == 1#5 then ~~~ p else p
      match c.g.splitAt c.entry (c.f.mask &&& p) (c.f.mask &&& ~~~ p) t (c.next 0x04 o) j c.now with
      | none => .error { cause := 0x0D }
      | some g => .ok (c.branched g, true)

/-- JOIN (R336). -/
def execJoin (o : Operands) (s : State) : Host.Outcome State Fault Refusal :=
  runGroup 0x05 o ctlTiming s fun c =>
    match tget? c.g.joins c.f.jrec with
    | none => .ok (c.advance 0x05 o c.g, true)
    | some k => .ok (c.branched (c.g.goTo c.entry k.join), true)

/-- BRX (R338). -/
def execBrx (o : Operands) (s : State) : Host.Outcome State Fault Refusal :=
  runGroup 0x06 o ctlTiming s fun c => do
    let src : Src := ⟨o.a, true, [], .zext⟩
    c.check true [src] 120#7 false
    if c.mask == 0 then .ok (c.branched (c.advance 0x06 o c.g), true)
    else
      let target (l : Nat) : W64 := BitVec.ofNat 64 (c.value src o l c.now)
      let l0 := lowLane c.mask
      let t := target l0
      let taken := (c.f.mask &&& ~~~ c.mask) ||| maskOf fun l => inMask c.mask l && target l == t
      match c.g.splitAt c.entry taken (c.f.mask &&& ~~~ taken) t c.f.pc (c.literalTarget o) c.now with
      | none => .error { cause := 0x0D }
      | some g => do
        jumpCheck t l0
        .ok (c.branched g, true)

/-- A group that has exited gives up its slot (R134), and its team's barriers count its lanes as arrived (R395). -/
def State.exitGroup (s : State) (core slot : Nat) : State :=
  match s.group? core slot with
  | none => s
  | some g =>
    let s := s.dropGroup (slotKey core slot)
    let t := s.teamAt g.team
    (s.setTeam g.team { t with live := t.live &&& ~~~ BitVec.ofNat 16 (2 ^ g.gix) }).barrierCheck g.team

/-- EXIT (R339): lanes leave, and a group with none left exits. Lanes that leave have arrived at a BAR under way, with what the group
has issued (R237, R395). -/
def execExit (o : Operands) (s : State) : Host.Outcome State Fault Refusal :=
  runState 0x09 o ctlTiming s fun c =>
    if c.mask == 0 then .ok (.issued s (c.advance 0x09 o c.g) true)
    else
      let g := if c.g.handler then { c.g with split := [], joins := [], exited := fullMask }
        else c.g.exitLanes c.entry c.mask
      if g.gone then
        let s' := s.afterIssue c o 1 g
        .ok (.stall (s'.exitGroup c.core c.slot))
      else
        let g := if g.barSet == 0 then g else { g with barHold := (g.barHold ++ s.accessesOf g.uid).eraseDups }
        let g := match tget? g.split c.entry with
          | some _ => if c.f.mask &&& ~~~ c.mask != 0 then c.advance 0x09 o g else g
          | none => g
        .ok (.stall (((s.afterIssue c o 1 g).lateArrivals c.core c.slot).noteArrivals g.team))

/-- YIELD (R331). -/
def execYield (o : Operands) (s : State) : Host.Outcome State Fault Refusal :=
  runGroup 0x0A o ctlTiming s fun c =>
    .ok (c.blocked 0x0A o c.g (.yield (c.now + 32 * c.cyc)), true)

/-- YIELD_WAIT_END (R331): the 32 cycles after a YIELD have passed. -/
def execYieldWaitEnd (core slot entry : Nat) (s : State) : Host.Outcome State Fault Refusal :=
  match s.frag? core slot entry with
  | some (_, f) =>
    match f.wait with
    | .yield t => if t ≤ s.time then .next (s.setWait core slot entry .none) else .next s
    | _ => .next s
  | none => .next s

/-- TRAP (R351). -/
def execTrap (o : Operands) (s : State) : Host.Outcome State Fault Refusal :=
  runState 0x0B o ctlTiming s fun c => do
    c.check true [raw32 o.a] 120#7 false
    if c.mask == 0 then .ok (.issued s (c.advance 0x0B o c.g) true)
    else
      let t : Trap := { cause := 0x0E, lane := lowLane c.mask, info := BitVec.ofNat 32 (c.single o o.a) }
      .ok (.stall ((s.afterIssue c o 1 c.g).trapTo c.core c.slot c.entry t (c.next 0x0B o)))

/-- The traps that R248 held are taken at the boundary after RFT, in the order of R253: a Version Overflow that still
stands, then a Chiplet-Fence Notice. -/
def State.takeHeld (s : State) (core slot : Nat) : State :=
  match s.group? core slot with
  | none => s
  | some g =>
    let ovf := g.heldOverflow && (s.taskAt (s.teamOf g).task).ovf
    let s := s.setGroup core slot { g with heldOverflow := false, heldNotice := g.heldNotice && ovf }
    if ovf then s.boundaryTrap core slot 0x0A
    else if g.heldNotice then s.boundaryTrap core slot 0x22
    else s

/-- RFT (R247, R352): the branch to HPC may be an arrival at the fragment's join (R207). -/
def execRft (o : Operands) (s : State) : Host.Outcome State Fault Refusal :=
  runState 0x0C o ctlTiming s fun c =>
    if !c.g.handler then .error (.illegal 6)
    else
      let g := (c.g.leaveHandler c.entry).arrive c.entry 40
      let g := c.branchDelay (g.split.map fun e => e.1) g
      .ok (.stall ((s.afterIssue c o 1 g).takeHeld c.core c.slot))

/-! ## System registers (R353, R354) -/

/-- BCL of a cluster (R94). -/
def Cluster.bcl (c : Cluster) : Nat :=
  c.step * 2 ^ 30 + (if c.claim then 2 ^ 29 else 0) + (if c.ret then 2 ^ 28 else 0) + c.ceil * 2 ^ 16 + c.perm

/-- The register of a sensor (R89). -/
def State.sensorReg (s : State) (i : Nat) : Nat :=
  match tget? s.power.sensors i with
  | some v => 2 ^ 31 + v.toNat
  | none => 0

/-- The count of an event counter (R96). -/
def State.counterValue (s : State) (k : Nat) : Nat :=
  match tget? s.counters k with
  | some c => (s.cycleCount k c).count.toNat
  | none => 0

/-- The value of a system register but SRS (R354); outside handler mode the banked registers read 0 (R353). -/
def State.srValue (s : State) (c : Ctx) (n : Nat) : Nat :=
  let t := s.teamOf c.g
  let d := (s.gridAt t.grid).eff.dist
  let bank (v : Nat) : Nat := if c.g.handler then v else 0
  match n with
  | 0 => c.core * 128 + c.slot
  | 1 => t.ctx
  | 2 => s.tid t
  | 3 => d * 16 + t.tix.toNat % max 1 d
  | 0x10 => (s.cycleOf c.core).toNat
  | 0x11 => s.bclks
  | 0x18 => s.sensorReg (c.core / 8)
  | 0x19 => (s.cluster (c.core / 8)).bcl
  | 0x40 => bank c.g.hpc.toNat
  | 0x41 => bank c.g.hmode.toNat
  | 0x42 => bank c.g.hexec.toNat
  | _ => if n ≥ 0x48 then bank (c.g.trec.getD (n - 0x48) 0).toNat else s.counterValue (8 * c.core + (n - 0x20))

/-- The timing of RDSR (R213, R350): 20 cycles on an unloaded path; its data is written at no fixed moment (R216, log entry 78). -/
def rdsrTiming (c : Ctx) : Timing := ⟨.ctl, 20 + (Config.freeW32 c.seed 600000).toNat, 1, true⟩

/-- RDSR (R353). -/
def execRdsr (o : Operands) (s : State) : Host.Outcome State Fault Refusal :=
  runAlu 0x0D o rdsrTiming s fun c =>
    if srBad 0x0D o then .error (.illegal 4)
    else do
      let w64 := match srInfo o.lit.toNat with | some (w, _) => w | none => false
      c.check true [] o.d w64
      if c.mask == 0 then .ok {}
      else if o.lit == 0x30#32 then
        c.result o.d false 1 0 (.lanes fun l => (c.srAt l c.now).toNat) c.mask
      else do
        let e ← c.result o.d w64 (if w64 then 3 else 1) 0 (.uni (s.srValue c o.lit.toNat)) c.mask
        .ok { e with uniform := true }

/-- The timing of WRSR (R350). -/
def wrsrTiming (_ : Ctx) : Timing := ⟨.ctl, 4, 1, true⟩

/-- WRSR (R353): the banked registers of handler mode. -/
def execWrsr (o : Operands) (s : State) : Host.Outcome State Fault Refusal :=
  runGroup 0x0E o wrsrTiming s fun c =>
    if srBad 0x0E o then .error (.illegal 4)
    else do
      let w64 := match srInfo o.lit.toNat with | some (w, _) => w | none => false
      let v := c.single o o.a w64
      if c.mask != 0 && c.g.handler && o.lit == 0x41#32 && !modeAllowed v then .error .mode
      else do
        c.check true [⟨o.a, w64, [], .zext⟩] 120#7 false
        let g := if c.mask == 0 || !c.g.handler then c.g
          else if o.lit == 0x40#32 then { c.g with hpc := BitVec.ofNat 64 (v / 4 * 4) }
          else if o.lit == 0x41#32 then { c.g with hmode := BitVec.ofNat 32 v }
          else { c.g with hexec := BitVec.ofNat 64 v }
        .ok (c.advance 0x0E o g, true)

/-- BOOST (R355). -/
def execBoost (o : Operands) (s : State) : Host.Outcome State Fault Refusal :=
  runGroup 0x0F o ctlTiming s fun c => do
    c.check true [raw32 o.a] 120#7 false
    let g := if c.mask == 0 then c.g else { c.g with boost := c.single o o.a != 0 }
    .ok (c.advance 0x0F o g, true)

/-- The timing of SRSEED (R350). -/
def srseedTiming (_ : Ctx) : Timing := ⟨.valu, 4, 1, false⟩

/-- SRSEED (R203, R356). -/
def execSrseed (o : Operands) (s : State) : Host.Outcome State Fault Refusal :=
  runAlu 0x10 o srseedTiming s fun c => do
    c.check true [raw32 o.a] 120#7 false
    let uni := c.isUniform o.a
    if c.mask == 0 then .ok { uniform := uni }
    else .ok { sr := some fun l x =>
                 if inMask c.mask l then BitVec.ofNat 32 (c.value (raw32 o.a) o l (if uni then c.now else c.laneTime l)) else x
               srOut := true, uniform := uni }

/-- An unassigned opcode takes Illegal Instruction with SUB 1 (R316). -/
def execUnassignedOpcode (_op : BitVec 8) (_s' _q : Bool) (s : State) : Host.Outcome State Fault Refusal :=
  match s.ctx? ⟨.ctl, 1, 1, true⟩ with
  | none => .next s
  | some c => .next (s.takeTrap c (.illegal 1))

end Sys2Proof.Machine
end

