-- ==== Sys2Proof/Machine/Float.lean ====
section
/-! DEFINITION. The floating-point instructions, the transcendentals and the sticky-flag instructions (R357 to R366,
R370, R371). -/
namespace Sys2Proof.Machine

/-- A floating source under the ET in force (R302, R357). -/
def Ctx.fSrc (c : Ctx) (x : Code) : Src := ⟨x, c.et == 7, [c.et], .fp⟩

/-- The timing of the FP32 and FP64 rows (R213). -/
def fpTiming (c : Ctx) : Timing := if c.et == 7 then ⟨.valu, 12, 4, false⟩ else ⟨.valu, 6, 1, false⟩

/-- The format of the ET in force. -/
def Ctx.bfmt (c : Ctx) : BinFmt := (binFmt c.et).getD fp32

/-- The stochastic steps of an operation that rounds `n` elements (R289). -/
def Ctx.srSteps (c : Ctx) (n : Nat) : Nat := if c.rm == 5 then n else 0

/-- An element-wise floating instruction (R357): `f` gives each element from its stochastic value and source elements;
`rounds` says whether it rounds, and `lit` whether a literal that is a signalling NaN raises NV (R302). `extra` are sources of a fixed
format that are the same for all elements. -/
def Ctx.floating (c : Ctx) (o : Operands) (xs : List Code) (extra : List Src) (modeOk rounds : Bool)
    (f : BinFmt → Nat → List Nat → Nat × Flags) (lit : Bool := true) : Except Trap Effect := do
  let fs := xs.map c.fSrc
  let ss := fs ++ extra
  c.check modeOk ss o.d (c.et == 7)
  let cnt := c.count c.et fs
  let n := 2 ^ cnt
  let w := elemWidth c.et
  c.elementwise o ss o.d (c.et == 7) c.et cnt none true (if rounds then c.srSteps n else 0) fun _ zs v =>
    let (x, fl) := packed w n zs fun z k =>
      f c.bfmt z ((v.take fs.length).map (elemBits w · k) ++ v.drop fs.length)
    (x, if lit then fl ||| litFlag o fs else fl)

/-- The ETs of the arithmetic forms (R358). -/
def Ctx.fpEt (c : Ctx) : Bool := 6 ≤ c.et && c.et ≤ 9

/-- FADD (R358). -/
def execFadd (o : Operands) (s : State) : Host.Outcome State Fault Refusal :=
  runAlu 0x70 o fpTiming s fun c =>
    c.floating o [o.a, o.b] [] c.fpEt true fun f z v => fAdd f c.fmode z false (v.getD 0 0) (v.getD 1 0)

/-- FSUB (R358). -/
def execFsub (o : Operands) (s : State) : Host.Outcome State Fault Refusal :=
  runAlu 0x71 o fpTiming s fun c =>
    c.floating o [o.a, o.b] [] c.fpEt true fun f z v => fAdd f c.fmode z true (v.getD 0 0) (v.getD 1 0)

/-- FMUL (R358). -/
def execFmul (o : Operands) (s : State) : Host.Outcome State Fault Refusal :=
  runAlu 0x72 o fpTiming s fun c =>
    c.floating o [o.a, o.b] [] c.fpEt true fun f z v => fMul f c.fmode z (v.getD 0 0) (v.getD 1 0)

/-- FMA (R358). -/
def execFma (o : Operands) (s : State) : Host.Outcome State Fault Refusal :=
  runAlu 0x73 o fpTiming s fun c =>
    c.floating o [o.a, o.b, o.c] [] c.fpEt true fun f z v =>
      fMa f c.fmode z (o.fn.getLsbD 0) (o.fn.getLsbD 1) (v.getD 0 0) (v.getD 1 0) (v.getD 2 0)

/-- FMIN (R359). -/
def execFmin (o : Operands) (s : State) : Host.Outcome State Fault Refusal :=
  runAlu 0x74 o fpTiming s fun c =>
    c.floating o [o.a, o.b] [] c.fpEt false fun f _ v => fMinMax f c.ftz false (v.getD 0 0) (v.getD 1 0)

/-- FMAX (R359). -/
def execFmax (o : Operands) (s : State) : Host.Outcome State Fault Refusal :=
  runAlu 0x75 o fpTiming s fun c =>
    c.floating o [o.a, o.b] [] c.fpEt false fun f _ v => fMinMax f c.ftz true (v.getD 0 0) (v.getD 1 0)

/-- FNEG (R360). DEDUCED: it raises no flag, for a literal that is a signalling NaN either (log entry 136). -/
def execFneg (o : Operands) (s : State) : Host.Outcome State Fault Refusal :=
  runAlu 0x76 o fpTiming s fun c =>
    c.floating o [o.a] [] c.fpEt false (lit := false) fun f _ v => (fSign f c.ftz true (v.getD 0 0), 0)

/-- FABS (R360), without flags as FNEG (log entry 136). -/
def execFabs (o : Operands) (s : State) : Host.Outcome State Fault Refusal :=
  runAlu 0x77 o fpTiming s fun c =>
    c.floating o [o.a] [] c.fpEt false (lit := false) fun f _ v => (fSign f c.ftz false (v.getD 0 0), 0)

/-- FCMP (R361): bit `lane` of the predicate takes the relation of element k, or 0 past the count of a source. -/
def execFcmp (o : Operands) (s : State) : Host.Outcome State Fault Refusal :=
  runAlu 0x78 o fpTiming s fun c => do
    let ss := [o.a, o.b].map c.fSrc
    let k := o.fn.toNat / 8
    c.check (c.fpEt && (c.et ≥ 8 || k == 0)) ss 120#7 false
    let n := 2 ^ c.count c.et ss
    let w := elemWidth c.et
    .ok (c.predResult o ss o.d.toNat true fun _ v =>
      if k ≥ n then (false, 0)
      else
        let (b, fl) := fCmp c.bfmt c.ftz (o.fn.toNat % 8) (elemBits w (v.getD 0 0) k) (elemBits w (v.getD 1 0) k)
        (b, fl ||| litFlag o ss))

/-- FCLASS (R362): ten class bits for each element, on the stored encoding, without flags (log entry 136). -/
def execFclass (o : Operands) (s : State) : Host.Outcome State Fault Refusal :=
  runAlu 0x79 o fpTiming s fun c => do
    let ss := [c.fSrc o.a]
    c.check c.fpEt ss o.d false
    let n := 2 ^ c.count c.et ss
    let w := elemWidth c.et
    c.elementwise o ss o.d false 1 0 none true 0 fun _ _ v =>
      ((List.range n).foldl (fun a k => a + 2 ^ (16 * k + fClass c.bfmt (elemBits w (v.getD 0 0) k))) 0, 0)

/-- FRND (R363). -/
def execFrnd (o : Operands) (s : State) : Host.Outcome State Fault Refusal :=
  runAlu 0x7A o fpTiming s fun c =>
    c.floating o [o.a] [] c.fpEt true fun f z v => fRnd f c.fmode z (v.getD 0 0)

/-- FSCALE (R364): B is an INT32 per lane. -/
def execFscale (o : Operands) (s : State) : Host.Outcome State Fault Refusal :=
  runAlu 0x7B o fpTiming s fun c =>
    c.floating o [o.a] [⟨o.b, false, [0], .sext⟩] c.fpEt true fun f z v =>
      fScale f c.fmode z (v.getD 0 0) (intVal true 32 (v.getD 1 0))

/-- The timing of the transcendentals (R213, R366). -/
def xuTiming (_ : Ctx) : Timing := ⟨.xu, 20, 4, false⟩

/-- A transcendental of index `op` (R365, R366): only FRCP and FSQRT round under RM and step the state. -/
def Ctx.transc (c : Ctx) (o : Operands) (op : Nat) : Except Trap Effect :=
  c.floating o [o.a] [] (c.et == 6 || c.et == 8 || c.et == 9) (op == 0 || op == 2) fun _ z v =>
    transcendental op c.et c.rm c.ftz c.sat z (v.getD 0 0)

/-- FRCP (R366). -/
def execFrcp (o : Operands) (s : State) : Host.Outcome State Fault Refusal := runAlu 0x80 o xuTiming s fun c => c.transc o 0
/-- FRSQ (R366). -/
def execFrsq (o : Operands) (s : State) : Host.Outcome State Fault Refusal := runAlu 0x81 o xuTiming s fun c => c.transc o 1
/-- FSQRT (R366). -/
def execFsqrt (o : Operands) (s : State) : Host.Outcome State Fault Refusal := runAlu 0x82 o xuTiming s fun c => c.transc o 2
/-- FEXP2 (R366). -/
def execFexp2 (o : Operands) (s : State) : Host.Outcome State Fault Refusal := runAlu 0x83 o xuTiming s fun c => c.transc o 3
/-- FLOG2 (R366). -/
def execFlog2 (o : Operands) (s : State) : Host.Outcome State Fault Refusal := runAlu 0x84 o xuTiming s fun c => c.transc o 4
/-- FSIN (R366). -/
def execFsin (o : Operands) (s : State) : Host.Outcome State Fault Refusal := runAlu 0x85 o xuTiming s fun c => c.transc o 5
/-- FCOS (R366). -/
def execFcos (o : Operands) (s : State) : Host.Outcome State Fault Refusal := runAlu 0x86 o xuTiming s fun c => c.transc o 6

/-- The timing of the flag row (R213). -/
def flagTiming (_ : Ctx) : Timing := ⟨.valu, 4, 1, false⟩

/-- FLGRD (R370): each lane's flags as of the cycle its beat enters the pipe (R371). -/
def execFlgrd (o : Operands) (s : State) : Host.Outcome State Fault Refusal :=
  runAlu 0x93 o flagTiming s fun c => do
    c.check true [] o.d false
    c.elementwise o [] o.d false 1 0 none false 0 fun l _ _ => (c.flagBits l, 0)

/-- FLGCLR (R370): clears the flags that a lane's value names. -/
def execFlgclr (o : Operands) (s : State) : Host.Outcome State Fault Refusal :=
  runAlu 0x94 o flagTiming s fun c => do
    c.check true [raw32 o.a] 120#7 false
    let uni := c.isUniform o.a
    .ok { uniform := uni
          clears := (lanesOf c.mask).map fun l =>
            (l, BitVec.ofNat 5 (c.value (raw32 o.a) o l (if uni then c.now else c.laneTime l))) }

end Sys2Proof.Machine
end

