-- ==== Sys2Proof/Machine/Convert.lean ====
section
/-! DEFINITION. The conversions between formats: CVT, PACK and UNPACK (R367 to R369). -/
namespace Sys2Proof.Machine

/-- The timing of the conversion row (R213). -/
def cvtTiming (_ : Ctx) : Timing := ⟨.valu, 6, 1, false⟩

/-- A source under the ET in force that a conversion reads (R302, R367). -/
def Ctx.cvtSrc (c : Ctx) (x : Code) : Src :=
  ⟨x, c.wide, [c.et], if c.et == 7 then .fp else if c.et == 3 then .zext else .sext⟩

/-- An element of the ET in force converted to format `dst` under MODE (R293). -/
def Ctx.conv (c : Ctx) (dst z x : Nat) : Nat × Flags := convert c.et dst c.rm c.ftz c.sat z x

/-- CVT (R367). -/
def execCvt (o : Operands) (s : State) : Host.Outcome State Fault Refusal :=
  runAlu 0x90 o cvtTiming s fun c => do
    let dst := o.fn.toNat
    let ss := [c.cvtSrc o.a]
    c.check (c.et ≤ 14) ss o.d (is64 dst)
    c.elementwise o ss o.d (is64 dst) dst 0 none true (c.srSteps 1) fun _ zs v =>
      let (x, fl) := c.conv dst (zs.getD 0 0) (elemBits (elemWidth c.et) (v.getD 0 0) 0)
      (x, fl ||| litFlag o ss)

/-- The destination format and first element position of a PACK selector (R368). -/
def packDst (fn : Nat) : Nat × Nat :=
  match fn with
  | 0 => (8, 0)
  | 1 => (9, 0)
  | 2 => (4, 0)
  | 3 => (10, 0)
  | 4 => (10, 2)
  | 5 => (11, 0)
  | 6 => (11, 2)
  | 7 => (12, 0)
  | 8 => (12, 2)
  | 9 => (14, 0)
  | 10 => (14, 2)
  | 11 => (5, 0)
  | 12 => (5, 2)
  | n => (13, 2 * (n - 13))

/-- The count code of a PACK result: the smallest whose count is at least `n` (R368). -/
def countCode (n : Nat) : Nat := if n ≤ 1 then 0 else if n ≤ 2 then 1 else if n ≤ 4 then 2 else 3

/-- PACK (R368). -/
def execPack (o : Operands) (s : State) : Host.Outcome State Fault Refusal :=
  runAlu 0x91 o cvtTiming s fun c => do
    let (dst, pos) := packDst o.fn.toNat
    let w := elemWidth dst
    let merge := o.fn.toNat ≥ 3
    let ab := [c.cvtSrc o.a, c.cvtSrc o.b]
    let ss := ab ++ (if merge then [⟨o.c, false, [dst], .zext⟩] else [])
    c.check (c.et ≤ 14 && !c.wide) ss o.d false
    let held := if merge then (match c.tag o.c with | some (_, k) => 2 ^ k | none => 0) else 0
    let cnt := countCode (max (pos + 2) held)
    let n := elemCount dst
    c.elementwise o ss o.d false dst cnt none true (c.srSteps 2) fun _ zs v =>
      let e := elemWidth c.et
      let (x, fx) := c.conv dst (zs.getD 0 0) (elemBits e (v.getD 0 0) 0)
      let (y, fy) := c.conv dst (zs.getD 1 0) (elemBits e (v.getD 1 0) 0)
      (packElems w ((List.range n).map fun k =>
        if k == pos then x else if k == pos + 1 then y else elemBits w (v.getD 2 0) k), fx ||| fy)

/-- UNPACK (R369): elements 2P and 2P + 1 into two registers of one element each. -/
def execUnpack (o : Operands) (s : State) : Host.Outcome State Fault Refusal :=
  runAlu 0x92 o cvtTiming s fun c => do
    let t := match o.fn.toNat % 4 with | 0 => 0 | 1 => 1 | _ => 6
    let p := o.fn.toNat / 4
    let ss := [c.cvtSrc o.a]
    c.check (elemCount c.et ≥ 2 && c.et ≤ 14 && 2 * p < elemCount c.et) ss o.d (o.d != 123#7)
    let w := elemWidth c.et
    c.elementwise o ss o.d true t 0 none true (c.srSteps 2) fun _ zs v =>
      let (x, fx) := c.conv t (zs.getD 0 0) (elemBits w (v.getD 0 0) (2 * p))
      let (y, fy) := c.conv t (zs.getD 1 0) (elemBits w (v.getD 0 0) (2 * p + 1))
      (x % 2 ^ 32 + 2 ^ 32 * y, fx ||| fy)

end Sys2Proof.Machine
end

