-- ==== Sys2Proof/Machine/Home.lean ====
section
/-! DEFINITION. Coherence events: requests at their home, recalls and invalidations, write-throughs, misses, and DRAM
(R157 to R161, R174 to R178, R193, R194). -/
namespace Sys2Proof.Machine

/-! ## Charges and records -/

/-- The data bytes that an access writes in a line. -/
def State.bytesIn (s : State) (acc line : Nat) : Nat :=
  match tget? s.accs acc with
  | some a => (a.lanes.filter fun x => x.inLine line).length * a.bytes
  | none => 0

/-- The line that a message to a slice concerns. -/
def MsgKind.line? : MsgKind → Option Nat
  | .read _ l | .write _ l _ | .through _ l _ | .tokAck l _ | .tokRet l _ | .gone l _ | .invAck l _ => some l
  | .version v => some v.line
  | _ => none

/-- Whether a message is at its slice, in order, the slice is awake, and the home of its line is not being moved (R155). -/
def State.readyHome (s : State) (id : Nat) (m : Msg) : Bool :=
  s.ready id m && !(s.slice m.slice).retained && !(match m.kind.line? with | some l => s.moving l | none => false)

/-- The state in which a message waits: its slice wakes where it is retained. -/
def State.waitHome (s : State) (id : Nat) (m : Msg) : State :=
  if s.ready id m && (s.slice m.slice).retained then s.wakeSlice m.slice else s

/-- A sector that its ECC finds uncorrectable is poisoned. -/
def State.poisonSector (s : State) (sector : Nat) : State :=
  if s.poison.contains sector then s else { s with poison := s.poison ++ [sector] }

/-- A line whose data is uncorrectable enters its slice's bad-line table, and every context with a started grid is told
(R193, R194). Where the table is full the line stays poisoned, so that each later read traps in the same way. -/
def State.addBad (s : State) (slice line cause : Nat) : State :=
  let sl := s.slice slice
  if sl.bad.any fun e => e.2.line == line then s
  else
    match tfree sl.bad 64 with
    | none =>
      let s := s.setSlice slice { sl with badFull := true }
      if cause == 2 then (List.range 4).foldl (fun s q => s.poisonSector (4 * line + q)) s else s
    | some e =>
      let s := s.setSlice slice { sl with bad := tset sl.bad e { cause := cause, line := line } }
      let cs := (s.grids.map fun g => g.2.ctx).eraseDups.mergeSort (· ≤ ·)
      cs.foldl (fun s c => s.post { cause := 0x47, ctx := c, info := slice, info2 := 256 * line }) s

/-! ## Requests at the home -/

/-- Whether a request's line waits for its own group's side: an older access of the group that is not performed meets its lanes (R232),
or a write-through that its L1 sent before it is on its way (R179). -/
def State.lineBlocked (s : State) (id acc line : Nat) : Bool :=
  match tget? s.accs acc with
  | none => false
  | some a =>
    a.space == .mem && a.lanes.any (fun x => x.inLine line && !x.done && s.olderMeets a.guid acc x.loc a.bytes) ||
      s.msgs.any fun (k, m) => k < id && match m.kind with
        | .through _ l _ => l == line && s.holderOf m.core == s.holderOf a.core
        | _ => false

/-- Whether a read finds its sectors in the slice: counters 0x02 and 0x03 (R97). -/
def State.hitAt (s : State) (acc line : Nat) : Bool :=
  match tget? s.accs acc with
  | none => true
  | some a => (a.sectors line).all fun q => (s.slice (s.homeOf (256 * line))).sector line q != 0

/-- A request comes to its home: it is counted as it arrives, and then admitted (R97, R158). -/
def State.arrive (s : State) (id acc line : Nat) : State :=
  let home := s.homeOf (256 * line)
  let s := s.tally (384 + home) (if s.hitAt acc line then 2 else 3) 1
  (s.setSlice home { s.slice home with lastUse := s.time }).admitLine id line

/-! ## The pipeline's choice (R158) -/

/-- Whether a slice has an Avenue arrival ready: one in the order of its path, which waits for nothing (R158). -/
def State.avenueWaits (s : State) (slice : Nat) : Bool :=
  s.msgs.any fun (id, m) => m.toSlice && m.avenue && m.slice == slice && s.readyHome id m &&
    match m.kind with
    | .write acc line _ => !s.lineBlocked id acc line
    | .version v => !(s.slice slice).versionWaits v.line v.task v.epoch
    | .hostAcc _ => false
    | _ => true

/-- Whether a request of RQ is the first that can be taken: no Avenue arrival is ready, and those of RQ that came before it wait
(R158). -/
def State.rqTurn (s : State) (id : Nat) (m : Msg) : Bool :=
  !s.avenueWaits m.slice && s.msgs.all fun (k, n) => match n.kind with
    | .read acc line => !(n.slice == m.slice && s.readyHome k n && (n.came < m.came || n.came == m.came && k < id)) || s.lineBlocked k acc line
    | _ => true

/-! ## Vertical exclusion (R95) -/

/-- Whether the thermal column of a cluster is flagged (R86). -/
def State.flagged (s : State) (cluster : Nat) : Bool :=
  match s.power.table with
  | 0 => (s.cluster cluster).step == 2
  | 2 => true
  | _ => false

/-- Whether a message is a mesh request to a slice, which RQ holds (R143, R157). -/
def MsgKind.inRq : MsgKind → Bool
  | .read _ _ | .walk _ _ => true
  | _ => false

/-- The entries of a slice's request queue RQ (R157). -/
def State.queued (s : State) (slice : Nat) : Nat :=
  (s.msgs.filter fun e => e.2.kind.inRq && e.2.slice == slice && e.2.stage == .arrived).length

/-- Whether a core has an operation of its matrix array ready at its issue interval. -/
def State.arrayReady (s : State) (core : Nat) : Bool :=
  let m := (s.core core).matrix
  m.waiting != [] && m.busyUntil ≤ s.time

/-- A slice and the matrix arrays of a flagged column both request full rate: the slice is served, and the cluster's matrix
intervals are doubled for the rest of the sub-period (R95). It is judged wherever one of the two requests may begin: as RQ gains
an entry and before it loses one, as an MMA issues and before one is accepted, and as a sub-period begins. -/
def State.exclude (s : State) (cluster : Nat) : State :=
  let slices := [2 * cluster, 2 * cluster + 1].filter fun n => s.queued n ≥ 8
  if !s.flagged cluster || slices == [] || !((List.range 8).any fun i => s.arrayReady (8 * cluster + i)) then s
  else
    let s := s.setCluster cluster { s.cluster cluster with doubled := true }
    slices.foldl (fun s n => s.tally (384 + n) 8 1) s

/-- READ_REQUEST (R95, R158, R174, R183): the request that RQ offers is taken; where the slice's own arrays hold an uncorrectable error
in the line, the line enters the bad-line table (R193). -/
def execReadRequest (delivery : Delivery) (s : State) : Host.Outcome State Fault Refusal :=
  match tget? s.msgs delivery.message with
  | none => .next s
  | some m =>
    match m.kind with
    | .read acc line =>
      if !s.readyHome delivery.message m then .next (s.waitHome delivery.message m)
      else if s.lineBlocked delivery.message acc line || !s.rqTurn delivery.message m then .next s
      else
        let s := s.exclude (m.slice / 2)
        let s := if delivery.bad && s.hitAt acc line then s.addBad m.slice line 2 else s
        .next (s.arrive delivery.message acc line)
    | _ => .next s

/-- The element of a host-managed access is read, written, or both (R55, R390). -/
def State.hostLane (s : State) (acc : Nat) (a : Access) (x : LaneAcc) : State :=
  match x.loc with
  | .host va =>
    if x.done then s
    else
      let done (s : State) (got : Option Nat) : State :=
        s.mapLanes acc fun y => if y.lane == x.lane then { y with done := true, got := got } else y
      match a.op with
      | .load => s
      | .store => done (s.hostWrite a.ctx va (leBytes a.bytes x.data)) none
      | .atom op w64 =>
        let old := leNat (s.hostRead va a.bytes)
        done (s.hostPut va (leBytes a.bytes (atomNew op w64 old x.data x.data2))) (some old)
  | _ => s

/-- WRITE_REQUEST (R176); for host-managed memory, the posted write, or an atomic whose requests have been sent (R49, R55, R390). -/
def execWriteRequest (message : Nat) (s : State) : Host.Outcome State Fault Refusal :=
  match tget? s.msgs message with
  | none => .next s
  | some m =>
    match m.kind with
    | .write acc line _ =>
      if !s.readyHome message m then .next (s.waitHome message m)
      else if s.lineBlocked message acc line then .next s
      else .next (s.arrive message acc line)
    | .hostAcc acc =>
      if !s.ready message m then .next s
      else
        match tget? s.accs acc with
        | none => .next (s.dropMsg message)
        | some a =>
          let s := s.hostPump
          if a.lanes.any fun x => !x.done && (match x.loc with | .host _ => true | _ => false) &&
              (s.olderMeets a.guid acc x.loc a.bytes || a.op != .store && !s.asked (.lane acc x.lane)) then .next s
          else
            let n := (a.lanes.filter fun x => match x.loc with | .host _ => true | _ => false).length * a.bytes
            let s := (s.chargeAcc acc 2 n).chargeAcc acc 3 n
            let s := a.lanes.foldl (fun s x => s.hostLane acc a x) s
            .next ({ (s.dropMsg message) with free := s.free + 1 }.leaveStore acc)
    | _ => .next s

/-- The bytes of an STX reach their targets' scratchpads (R239, R386). -/
def State.performStx (s : State) (acc : Nat) (a : Access) : State :=
  let s := a.lanes.foldl (fun s x => match x.loc with
    | .dev off => if (s.teamAt x.team).state.over && (s.teamAt x.team).state != .retired then s
      else s.scratchWrite x.team off (leBytes a.bytes x.data)
    | _ => s) s
  let s := (a.lanes.map fun x => x.team).eraseDups.foldl (fun s k =>
    s.setTeam k { s.teamAt k with inbound := (s.teamAt k).inbound - 1 }) s
  (s.mapLanes acc fun x => { x with done := true }).leaveStore acc

/-- A completion reaches its requester (R176 step 5): the store leaves its counter, and what waited in the L1s goes on. A RED that met
a bad line ends in its error (R193). -/
def State.completeWrite (s : State) (acc : Nat) : State :=
  match (tget? s.accs acc).bind fun a => if a.ldc || a.dead then none else a.lanes.find? fun x => x.err != 0 with
  | some x => (s.accError acc x.lane x.err).retryPending
  | none => (s.leaveStore acc).retryPending

/-- WRITE_COMPLETION (R176 step 5): the requester's counter falls; an STX is written at its target and acknowledged, and so is a
CPYM's data (R162). -/
def execWriteCompletion (message : Nat) (s : State) : Host.Outcome State Fault Refusal :=
  match tget? s.msgs message with
  | none => .next s
  | some m =>
    match m.kind with
    | .completion acc _ => if s.ready message m then .next ((s.dropMsg message).completeWrite acc) else .next s
    | .stx acc =>
      if !s.ready message m then .next s
      else
        match tget? s.accs acc with
        | none => .next (s.dropMsg message)
        | some a => if s.remoteOlder acc a then .next s else .next ((s.dropMsg message).performStx acc a)
    | .panel op team off bytes =>
      if !s.ready message m then .next s
      else if (tget? s.ops op).isNone then .next (s.dropMsg message)
      else .next { (s.dropMsg message).scratchWrite team off bytes with ops := tmod s.ops op fun o => { o with bulk := o.bulk - 1 } }
    | _ => .next s

/-! ## Write-throughs and tokens (R177, R178) -/

/-- WRITE_THROUGH (R177). -/
def execWriteThrough (message : Nat) (s : State) : Host.Outcome State Fault Refusal :=
  match tget? s.msgs message with
  | none => .next s
  | some m =>
    match m.kind with
    | .through acc line cells =>
      if s.readyHome message m then .next (s.applyThrough message acc line m.core cells)
      else .next (s.waitHome message m)
    | _ => .next s

/-- WRITE_THROUGH_ACK (R177): the acknowledgement decrements STCNT, or LDCNT for an atomic with return. -/
def execWriteThroughAck (message : Nat) (s : State) : Host.Outcome State Fault Refusal :=
  match tget? s.msgs message with
  | none => .next s
  | some m =>
    match m.kind with
    | .throughAck acc _ =>
      if s.ready message m then
        let s := { (s.dropMsg message) with accs := tmod s.accs acc fun a => { a with acks := a.acks - 1 } }
        .next (s.leaveStore acc).retryPending
      else .next s
    | _ => .next s

/-- Whether a holder still has the token of a line, or of its region: it is its holder and has not given it back (R178). -/
def State.holdsToken (s : State) (core line : Nat) (region : Bool) : Bool :=
  let sl := s.slice (s.homeOf (256 * line))
  let e := if region then tgetD sl.regions (line / 16) {} else tgetD sl.lines line {}
  e.state == .t && e.holder == some (s.holderOf core) && !s.returning core line region

/-- The holder gives up its token (R178): its copies stay as clean copies, or are dropped. -/
def State.yieldToken (s : State) (core line : Nat) (region inval : Bool) : State :=
  let mine (x : L1Line) : Bool := x.committed && (if region then x.line / 16 == line / 16 else x.line == line)
  (s.holderOf core).cores.foldl (fun s n =>
    if inval then s.l1Drop n mine else s.l1Map n mine fun x => { x with kind := .clean }) s

/-- TOKEN_RECALL (R178): FwdRd or FwdInv reaches the holder, which answers TokAck behind its write-throughs, or Gone. -/
def execTokenRecall (message : Nat) (s : State) : Host.Outcome State Fault Refusal :=
  match tget? s.msgs message with
  | none => .next s
  | some m =>
    match m.kind with
    | .recall line region inval =>
      if !s.ready message m then .next s
      else
        let has := s.holdsToken m.core line region
        let s := s.dropMsg message
        if has then .next ((s.yieldToken m.core line region inval).send (.tokAck line region) m.core m.slice true).retryPending
        else .next (s.send (.gone line region) m.core m.slice true)
    | _ => .next s

/-- The home no longer waits for a holder's answer about a line, and goes on with the request (R176). -/
def State.answered (s : State) (slice line : Nat) (h : Holder) : State :=
  let sl := s.slice slice
  match tget? sl.busy line with
  | none => s
  | some b =>
    (s.setSlice slice { sl with busy := tset sl.busy line { b with tokens := b.tokens.filter fun x => x != h } }).goOn slice line

/-- TOKACK (R178): the token is at the home, behind the holder's write-throughs. -/
def execTokack (message : Nat) (s : State) : Host.Outcome State Fault Refusal :=
  match tget? s.msgs message with
  | none => .next s
  | some m =>
    match m.kind with
    | .tokAck line region =>
      if !s.readyHome message m then .next (s.waitHome message m)
      else
        let h := s.holderOf m.core
        let sl := s.slice m.slice
        let write := match (tget? sl.busy line).bind fun b => b.msg.bind fun id => tget? s.msgs id with
          | some q => (match q.kind with | .write _ _ _ => true | _ => false)
          | none => false
        let freed := ((tget? sl.busy line).bind fun b => b.free).isSome
        let s := (s.dropMsg message).setSlice m.slice (sl.tokenBack line h region (!freed && (region || !write)) (region && !freed))
        .next (s.answered m.slice line h)
    | _ => .next s

/-- TOKRET (R178): the holder's token comes back by itself. -/
def execTokret (message : Nat) (s : State) : Host.Outcome State Fault Refusal :=
  match tget? s.msgs message with
  | none => .next s
  | some m =>
    match m.kind with
    | .tokRet line region =>
      if !s.readyHome message m then .next (s.waitHome message m)
      else .next ((s.dropMsg message).setSlice m.slice
        ((s.slice m.slice).tokenBack line (s.holderOf m.core) region false false))
    | _ => .next s

/-- GONE (R178): the token was on its way already; its TokRet came first, on the same path. -/
def execGone (message : Nat) (s : State) : Host.Outcome State Fault Refusal :=
  match tget? s.msgs message with
  | none => .next s
  | some m =>
    match m.kind with
    | .gone line _ =>
      if !s.readyHome message m then .next (s.waitHome message m)
      else .next ((s.dropMsg message).answered m.slice line (s.holderOf m.core))
    | _ => .next s

/-- INV (R176 step 2): the cluster drops its copies, but for an exempt core's, and acknowledges. -/
def execInv (message : Nat) (s : State) : Host.Outcome State Fault Refusal :=
  match tget? s.msgs message with
  | none => .next s
  | some m =>
    match m.kind with
    | .inv line region exempt =>
      if !s.ready message m then .next s
      else
        let s := (s.dropMsg message).dropCopies (m.core / 8) line region exempt
        .next (s.send (.invAck line (m.core / 8)) m.core m.slice true)
    | _ => .next s

/-- The home has an invalidation acknowledgement for a line (R176 step 2). -/
def State.invDone (s : State) (slice line cluster : Nat) : State :=
  let sl := s.slice slice
  match tget? sl.busy line with
  | none => s
  | some b =>
    let left := b.invs.filter fun c => c != cluster
    let s := s.setSlice slice { sl with busy := tset sl.busy line { b with invs := left } }
    if left == [] then s.goOn slice line else s

/-- INV_ACK (R176). -/
def execInvAck (message : Nat) (s : State) : Host.Outcome State Fault Refusal :=
  match tget? s.msgs message with
  | none => .next s
  | some m =>
    match m.kind with
    | .invAck line cluster =>
      if !s.readyHome message m then .next (s.waitHome message m)
      else .next ((s.dropMsg message).invDone m.slice line cluster)
    | _ => .next s

/-- LINE_FREE (R158): the wait list of a line that is no longer busy is retried in arrival order. -/
def execLineFree (line : Nat) (s : State) : Host.Outcome State Fault Refusal :=
  let home := s.homeOf (256 * line)
  let sl := s.slice home
  match tget? sl.busy line, tget? sl.waiting line with
  | none, some ids =>
    if sl.freeing (line / 16 * 16) true then .next s else
    let s := s.setSlice home { sl with waiting := tdel sl.waiting line }
    let s := { s with msgs := tmap s.msgs fun k m => if ids.contains k then { m with stage := .arrived } else m }
    .next (ids.foldl (fun s id => s.admitLine id line) s)
  | _, _ => .next s

/-! ## DRAM (R157, R159, R161) -/

/-- A DRAM read of a sector, whose data its ECC has corrected where it could: a poisoned sector enters its line in the bad-line table
(R161, R193). -/
def State.readSector (s : State) (sector : Nat) : State :=
  if s.poison.contains sector then s.addBad (s.homeOf (64 * sector)) (sector / 4) 1 else s

/-- The first request, in arrival order, that waits for a miss register of a slice (R159). -/
def State.nextMiss (s : State) (slice : Nat) : Option Nat :=
  let sl := s.slice slice
  let ids := sl.busy.filterMap fun (line, b) =>
    if sl.misses.contains line || b.tokens != [] || b.invs != [] then none
    else match b.msg with
      | some id => match tget? s.msgs id with
        | some m => if m.stage == .waiting then some (m.came, id) else none
        | none => none
      | none => none
  (ids.foldl (fun b x => match b with
    | none => some x
    | some y => some (if x.1 < y.1 || x.1 == y.1 && x.2 < y.2 then x else y)) none).map fun x => x.2

/-- A sector of bypass reads of a line has come; the lanes of those for which it was the last get the data that stood when the pipeline took
them (R159), which goes to their clusters. -/
def State.endBypass (s : State) (slice line sector : Nat) : State :=
  let sl := s.slice slice
  let left := sl.bypass.map fun b => if b.2.1 == line then (b.1, line, b.2.2.filter fun q => q != sector) else b
  let s := s.setSlice slice { sl with bypass := left.filter fun b => b.2.2 != [] }
  (left.filter fun b => b.2.2 == []).foldl (fun s b =>
    let id := b.1
    match tget? s.msgs id with
    | some m => match m.kind with
      | .read acc _ =>
        let bad := s.badRange (256 * line) 256
        let n := match tget? s.accs acc with | some a => 64 * (a.sectors line).length | none => 0
        let s := s.mapLanes acc fun x => if x.inLine line && !x.done then { x with done := true, err := if bad then 1 else 0 } else x
        (((s.dropMsg id).tally (384 + slice) 4 1).chargeAcc acc 3 n).send (.data acc line n) m.core slice false
      | _ => s
    | none => s) s

/-- A read of a line leaves its controller, which takes what the slices hold for it. -/
def State.issueDram (s : State) (mc : Nat) (r : DramRequest) (write : Bool) : State :=
  s.setController mc ((s.controller mc).issue r write)

/-- The sector of a fill is there, charged to the request's grid (R114). With the last absent one of its line the miss register is free,
the request goes on, and another that waits for a register takes it (R159). -/
def State.fillSector (s : State) (home line q : Nat) : State :=
  let sl := s.slice home
  let b := tget? sl.busy line
  let acc := b.bind fun b => b.msg.bind fun id => (tget? s.msgs id).bind fun m => m.kind.access?
  let n := if sl.sector line q == 0 then 64 else 0
  let s := match acc, b.bind fun b => b.payer with
    | some a, _ => s.chargeAcc a 3 n
    | none, some g => s.charge g 3 n
    | none, none => s
  let sl := if n == 0 then s.slice home else (s.slice home).setSector line q 1
  if (List.range 4).any fun q => sl.sector line q == 0 then s.setSlice home sl
  else
    let s := s.setSlice home { sl with misses := sl.misses.filter fun l => l != line }
    let s := match b.bind fun b => b.msg with
      | some id => s.serveHome id
      | none => s.setBusy home line none
    match s.nextMiss home with
    | some id => s.serveHome id
    | none => s

/-- DRAM_READ_RETURN (R159, R160, R161): the read of a line's sector that its controller issues next gives its data, which its ECC may find
uncorrectable: a sector of a fill, or of bypass reads, which pass to their requesters. -/
def execDramReadReturn (read : LineRead) (s : State) : Host.Outcome State Fault Refusal :=
  let home := s.homeOf (256 * read.line)
  let mc := controllerOf (256 * read.line)
  match (s.controller mc).next s.time with
  | some (r, false) =>
    if r.line != read.line then .next s
    else
      let sl := s.slice home
      let s := s.issueDram mc r false
      let s := if sl.sector r.line r.sector == 0 then
          (if read.bad.getLsbD r.sector then s.poisonSector (4 * r.line + r.sector) else s).readSector (4 * r.line + r.sector)
        else s
      .next ((if sl.misses.contains r.line then s.fillSector home r.line r.sector else s.endBypass home r.line r.sector).feed mc 128)
  | _ => .next s

/-- DRAM_WRITE_ACK (R157, R160): the write of a slice that its controller issues next leaves the slice's write queue. -/
def execDramWriteAck (slice : Nat) (s : State) : Host.Outcome State Fault Refusal :=
  match (List.range 24).findSome? fun mc => match (s.controller mc).next s.time with
      | some (r, true) => if r.slice == slice then some (mc, r) else none
      | _ => none with
  | none => .next s
  | some (mc, r) =>
    let sl := s.slice slice
    .next (((s.issueDram mc r true).setSlice slice { sl with writes := sl.writes.erase (r.line, r.sector) }).feed mc 128)

/-- BAD_LINE_CLEAR (R194): zeros with valid ECC go to the line in slice and DRAM, and then V is cleared. -/
def execBadLineClear (slice entry : Nat) (s : State) : Host.Outcome State Fault Refusal :=
  if !s.bar0Open then .next s else
  let sl := s.slice slice
  match tget? sl.bad entry with
  | none => .next s
  | some b =>
    let s := s.writeNow (256 * b.line) (List.replicate 256 0)
    let s := { s with poison := s.poison.filter fun q => q / 4 != b.line }
    let home := s.homeOf (256 * b.line)
    let s := s.setSlice home ((List.range 4).foldl (fun sl q => sl.setSector b.line q 1) (s.slice home))
    let sl := s.slice slice
    .next (s.setSlice slice { sl with bad := tdel sl.bad entry })

/-! ## Retention of slices (R85) -/

/-- Whether a slice holds no pending work: no write, no version line being committed, no parked partial (R85). -/
def State.sliceIdle (s : State) (slice : Nat) : Bool :=
  let sl := s.slice slice
  sl.busy.isEmpty && sl.waiting.isEmpty && sl.misses == [] && sl.bypass == [] && sl.writes == [] && s.partialsAt slice == 0 &&
    !((sl.versions ++ sl.displaced ++ sl.overflow).any fun v => (s.taskAt v.task).commit.isSome) &&
    s.msgs.all fun (_, m) => !(m.toSlice && m.slice == slice && m.stage == .arrived && (m.kind.avenue || m.kind.inRq))

/-- SLICE_RETENTION_ENTRY (R85): after 50 µs without a request and without pending work; the slices of a column that is being
calibrated stay awake. -/
def execSliceRetentionEntry (slice : Nat) (s : State) : Host.Outcome State Fault Refusal :=
  let sl := s.slice slice
  let cl := slice / 2
  let calibrating := s.chipOnline (chipOf cl) && !(s.cluster cl).cal
  if sl.retained || calibrating || s.time < sl.lastUse + 50 * usec || !s.sliceIdle slice then .next s
  else .next (s.setSlice slice { sl with retained := true, wakeAt := none })

/-- SLICE_WAKE (R85): the 600 bclk cycles have passed, and the request that woke the slice can be served. -/
def execSliceWake (slice : Nat) (s : State) : Host.Outcome State Fault Refusal :=
  let sl := s.slice slice
  match sl.wakeAt with
  | some t =>
    if t ≤ s.time then
      .next ((s.setSlice slice { sl with retained := false, wakeAt := none, lastUse := s.time }).tally (384 + slice) 9 1)
    else .next s
  | none => .next s

end Sys2Proof.Machine
end

