-- ==== Sys2Proof/Machine/Mesh.lean ====
section
/-! DEFINITION. The mesh of the base die (R143 to R145): its routers, the way of a packet, and what moves as time passes. -/
namespace Sys2Proof.Machine

/-! ## Routers (R144) -/

/-- The row and the column of the router of a slice. -/
def meshRow (slice : Nat) : Nat := 3 * (slice / 12 / 4) + slice % 12 / 4
def meshCol (slice : Nat) : Nat := 4 * (slice / 12 % 4) + slice % 12 % 4

/-- The slice whose router stands at a row and a column. -/
def routerAt (row col : Nat) : Nat := 12 * (4 * (row / 3) + col / 4) + 4 * (row % 3) + col % 4

/-- The outputs of a router: 0 to 3 along the row, up and down, and along the column, up and down; 4 its slice, 5 an elevator port,
6 what else attaches to it. An input port has the number of the output that feeds it, and 4 to 6 are those of the same units. -/
def meshOut (here there local' : Nat) : Nat :=
  if meshCol here < meshCol there then 0
  else if meshCol there < meshCol here then 1
  else if meshRow here < meshRow there then 2
  else if meshRow there < meshRow here then 3
  else local'

/-- The router that an output leads to. -/
def meshNext (here out : Nat) : Nat :=
  match out with
  | 0 => routerAt (meshRow here) (meshCol here + 1)
  | 1 => routerAt (meshRow here) (meshCol here - 1)
  | 2 => routerAt (meshRow here + 1) (meshCol here)
  | _ => routerAt (meshRow here - 1) (meshCol here)

/-! ## Packets (R145) -/

/-- The class of a message on the mesh: 0 control, 1 coherence, 2 reduction, 3 request. -/
def MsgKind.meshClass : MsgKind → Nat
  | .recall _ _ _ | .inv _ _ _ | .throughAck _ _ | .completion _ _ => 1
  | .reduce _ _ _ _ => 2
  | .read _ _ | .walk _ _ => 3
  | _ => 0

/-- The unit at which a message leaves the mesh: an elevator port; the Plaza, the queue unit, the task table, the page walkers
or the junction adder; or the slice. -/
def Msg.lands (m : Msg) : Nat :=
  if !m.toSlice then 5
  else match m.kind with
    | .cmtReq _ _ _ _ | .cmtAck _ _ _ | .mergeDone _ _ _ | .district _ _ | .grid _ _ | .flag _ _ _ | .mail _ _ _ _ _ _
    | .launch _ _ _ _ _ _ | .reduce _ _ _ _ | .walkData _ _ _ => 6
    | _ => 4

/-- The slice at whose router a message leaves the mesh: elevator port p of the module attaches at the router of slice p. -/
def Msg.target (m : Msg) : Nat := if m.toSlice then m.slice else m.port

/-- A packet on the mesh: its message, the router and input port where it stands, when it can go on, its class and its output. -/
structure MeshPacket where
  id : Nat
  router : Nat
  input : Nat
  ready : Nat
  cls : Nat
  out : Nat

/-- The packet of a message, where it is on the mesh. -/
def Msg.packet? (id : Nat) (m : Msg) : Option MeshPacket :=
  match m.stage with
  | .mesh router input ready => some ⟨id, router, input, ready, m.kind.meshClass, meshOut router m.target m.lands⟩
  | _ => none

/-- The packets on the mesh. -/
def State.packets (s : State) : List MeshPacket := s.msgs.filterMap fun e => e.2.packet? e.1

/-- The number of an output. -/
def MeshPacket.output (p : MeshPacket) : Nat := 8 * p.router + p.out

/-- The packets of one class in one input port's buffers. -/
def buffered (ps : List MeshPacket) (router input cls : Nat) : List MeshPacket :=
  ps.filter fun p => p.router == router && p.input == input && p.cls == cls

/-- Whether a packet stands first in its buffers, and there is room where it goes: 8 buffers for a class at a router's input port, 64
entries in a slice's RQ (R145, R157). -/
def State.meshAble (s : State) (ps : List MeshPacket) (p : MeshPacket) : Bool :=
  (buffered ps p.router p.input p.cls).all (fun q => p.ready < q.ready || p.ready == q.ready && p.id ≤ q.id) &&
    if p.out < 4 then (buffered ps (meshNext p.router p.out) p.out p.cls).length < 8
    else p.out != 4 || p.cls != 3 || s.queued p.router < 64

/-- When a packet can go on at the earliest: at a bclk edge at which it is ready and its output is free. -/
def State.meshTime (s : State) (p : MeshPacket) : Nat := max (max p.ready (tgetD s.mesh p.output {}).free) s.nextEdge

/-- The packet that an output serves of those that contend for it: the lowest class, and in it the first input port from the pointer
on (R145). -/
def MeshOutput.choose (o : MeshOutput) (ps : List MeshPacket) : Option MeshPacket :=
  let rank (p : MeshPacket) : Nat := 8 * p.cls + (p.input + 8 - o.pointers.getD p.cls 0) % 8
  match ps with
  | [] => none
  | p :: r => some (r.foldl (fun a b => if rank b < rank a then b else a) p)

/-- A packet goes through its output at a time: to the next router in 2 bclk cycles, or to its unit. -/
def State.meshMove (s : State) (p : MeshPacket) (t : Nat) : State :=
  let o := tgetD s.mesh p.output {}
  let s := { s with time := max s.time t
                    mesh := tset s.mesh p.output { free := t + bclk, pointers := lset o.pointers p.cls ((p.input + 1) % 8) } }
  let stage : Stage := if p.out < 4 then .mesh (meshNext p.router p.out) p.out (t + 2 * bclk) else if p.out == 5 then .port else .arrived
  let s := { s with msgs := tmod s.msgs p.id fun m => { m with stage := stage, came := t } }
  if p.out == 4 then (s.setSlice p.router { s.slice p.router with lastUse := t }).exclude (p.router / 2) else s

/-- The next packet that moves, and when: one of those that can go on earliest, no later than a limit. -/
def State.meshFirst (s : State) (limit : Nat) : Option (MeshPacket × Nat) :=
  let all := s.packets
  let ps := all.filter fun p => s.meshAble all p
  match ps with
  | [] => none
  | p :: r =>
    let t := r.foldl (fun m q => min m (s.meshTime q)) (s.meshTime p)
    if limit < t then none
    else
      match ps.find? fun q => s.meshTime q ≤ t with
      | none => none
      | some f =>
        let o := f.output
        ((tgetD s.mesh o {}).choose (ps.filter fun q => q.output == o && s.meshTime q ≤ t)).map fun q => (q, t)

/-- The packets move that can up to a time. -/
def State.meshRun (s : State) (limit : Nat) : Nat → State
  | 0 => s
  | fuel + 1 =>
    match s.meshFirst limit with
    | some (p, t) => (s.meshMove p t).meshRun limit fuel
    | none => s

/-- Whether any packet is on the mesh. -/
def State.meshBusy (s : State) : Bool := s.msgs.any fun e => match e.2.stage with | .mesh _ _ _ => true | _ => false

/-- Time passes, and the mesh carries its packets: a packet takes at most 22 outputs. -/
def State.elapse (s : State) (dt : Nat) : State :=
  let till := s.time + dt
  if s.meshBusy then { s.meshRun till (24 * s.msgs.length) with time := till } else { s with time := till }

/-- The input buffers of an elevator port's router have room for a packet of a class (R145). -/
def State.meshRoom (s : State) (port cls : Nat) : Bool := (buffered s.packets port 5 cls).length < 8

end Sys2Proof.Machine
end

