-- ==== Sys2Proof/Machine/Task.lean ====
section
/-! DEFINITION. Versions at the slices, commits, discards and retirement (R135, R185 to R191). -/
namespace Sys2Proof.Machine

/-! ## Teams and tasks -/

/-- The team that a task slot belongs to (R180, R181). -/
def State.taskTeam (s : State) (task : Nat) : Option Nat :=
  (s.teams.find? fun e => e.2.task == task && !e.2.state.over && (e.2.state != .queued || e.2.restore)).map fun e => e.1

/-- The causes of a commit that no fragment waits for (R188), as the entry number of its request. -/
def causeRetire : Nat := 8
def causeTrig : Nat := 9
def causeAuto : Nat := 10
def causeQuiesce : Nat := 11

/-- A commit that the base die starts: its request goes to the task table (R187, R188). -/
def State.commitFromBase (s : State) (team cause : Nat) : State :=
  s.sendBase (.cmtReq team (s.teamAt team).core 0 cause) distributorSlice distributorSlice

/-! ## Overflow (R185 to R187) -/

/-- The blocks of an overflow area that are taken, by every task that shares the area (R110, R186). -/
def State.areaUsed (s : State) (ctx : Nat) (base : W64) : List Nat :=
  s.tasks.flatMap fun (_, t) => if t.ctx == ctx && t.voBase == base then t.voUsed else []

/-- The block and entry that take one more line of a slice and a task: a block of theirs with room, else the lowest free
block of the area (R186). -/
def State.overflowPlace (s : State) (slice task : Nat) : Option (Nat × Nat) :=
  let sl := s.slice slice
  let k := s.taskAt task
  let mine := (sl.overflow.filter fun v => v.task == task).filterMap fun v => v.place
  let blocks := (mine.map fun p => p.1).eraseDups.mergeSort (· ≤ ·)
  let freeEntry (b : Nat) : Option Nat := ((List.range 15).map fun i => i + 1).find? fun e => !mine.contains (b, e)
  match blocks.findSome? fun b => (freeEntry b).map fun e => (b, e) with
  | some p => some p
  | none =>
    let used := s.areaUsed k.ctx k.voBase
    if used.length ≥ k.voBlocks then none
    else ((List.range (used.length + 1)).find? fun b => !used.contains b && b < k.voBlocks).map fun b => (b, 1)

/-- A block of an overflow area is written to DRAM as R186 lays it out: its header, and of each entry in use its index and its line. -/
def State.writeBlock (s : State) (slice task block : Nat) : State :=
  let k := s.taskAt task
  let va := k.voBase.toNat + 4096 * block
  match s.xlateNow k.ctx va true with
  | .ok (.dev pa) =>
    let s := s.xlateTouch k.ctx va true
    let held := (s.slice slice).overflow.filter fun x => x.task == task && (x.place.map fun p => p.1) == some block
    let index (v : VersionLine) : Nat := v.mask.toNat + 2 ^ 64 * task + (if v.epoch then 2 ^ 81 else 0) + 2 ^ 82 * v.line
    let entry (e : Nat) : Option VersionLine := held.find? fun v => v.place == some (block, e)
    let head := leBytes 4 (k.gen.toNat * 2 ^ 17 + task) ++ leBytes 2 slice ++ leBytes 1 held.length ++ leBytes 9 0 ++
      (List.range 15).flatMap fun i => leBytes 16 (match entry (i + 1) with | some v => index v | none => 0)
    let m := cwrite s.mem pa head
    { s with mem := held.foldl (fun m v => match v.place with
        | some (_, e) => cwrite m (pa + 256 * e) (cread v.data 0 256)
        | none => m) m }
  | _ => s

/-- The blocks of a task at a slice are written again after lines have left them; a block without lines is free (R186). -/
def State.rewriteBlocks (s : State) (slice task : Nat) (blocks : List Nat) : State :=
  let used (s : State) (b : Nat) : Bool := (s.slice slice).overflow.any fun v => v.task == task && (v.place.map fun p => p.1) == some b
  let s := blocks.foldl (fun s b => s.writeBlock slice task b) s
  let k := s.taskAt task
  s.setTask task { k with voUsed := k.voUsed.filter fun b => !blocks.contains b || used s b }

/-- The words of a later write of a version line over those of an earlier one. -/
def VersionLine.over (new old : VersionLine) : VersionLine :=
  let data := (List.range 64).foldl (fun d w =>
    if new.mask.getLsbD w then (List.range 4).foldl (fun d i => cset d (4 * w + i) (cget new.data (4 * w + i))) d else d) old.data
  { old with mask := old.mask ||| new.mask, data := data }

/-- Whether two version lines are of one line, task and epoch. -/
def VersionLine.same (a b : VersionLine) : Bool := a.line == b.line && a.task == b.task && a.epoch == b.epoch

/-- The version overflow writes of a task are charged to its grid's DRAM bytes (R114). -/
def State.chargeOverflow (s : State) (task : Nat) : State :=
  match s.taskTeam task with
  | some t => s.charge (s.teamAt t).grid 3 272
  | none => s

/-- A version line goes to its task's overflow area, over what the area holds of the line, or, where the area is full, to the
displacement buffer: then the task commits under ACOMMIT, or takes OVF (R185 to R187). -/
def State.displace (s : State) (slice : Nat) (v : VersionLine) : State :=
  let k := s.taskAt v.task
  let sl := s.slice slice
  match sl.overflow.find? fun x => x.same v with
  | some old =>
    let s := s.setSlice slice { sl with overflow := sl.overflow.map fun x => if x == old then v.over x else x }
    (s.writeBlock slice v.task (old.place.getD (0, 0)).1).chargeOverflow v.task
  | none =>
    if sl.displaced.any fun x => x.same v then
      s.setSlice slice { sl with displaced := sl.displaced.map fun x => if x.same v then v.over x else x }
    else
      match (if sl.overflow.length < 8192 then s.overflowPlace slice v.task else none) with
      | some (b, e) =>
        let s := s.setSlice slice { sl with overflow := sl.overflow ++ [{ v with place := some (b, e) }] }
        let s := s.setTask v.task { k with voUsed := if k.voUsed.contains b then k.voUsed else k.voUsed ++ [b] }
        ((s.writeBlock slice v.task b).chargeOverflow v.task).tally (384 + slice) 7 1
      | none =>
        let s := s.setSlice slice { sl with displaced := sl.displaced ++ [v] }
        if k.acommit then
          match s.taskTeam v.task with
          | some t => (s.setTask v.task { k with nr := true }).commitFromBase t causeAuto
          | none => s
        else s.setTask v.task { k with ovf := true }

/-- A version line comes into its home's version ways, where a committed line may make room for it; a fifth of a set displaces the
oldest (R185). -/
def State.takeVersion (s : State) (slice : Nat) (v : VersionLine) : State :=
  let sl := s.slice slice
  if sl.versions.any fun x => x.same v then
    s.setSlice slice { sl with versions := sl.versions.map fun x => if x.same v then v.over x else x }
  else
    let (age, s) := s.fresh
    let put (s : State) : State :=
      let s := s.allocate slice v.line true
      let sl := s.slice slice
      (s.setSlice slice { sl with versions := sl.versions ++ [{ v with age := age }] }).tally (384 + slice) 6 1
    let set := sl.versionSet v.line
    if set.length < 4 then put s
    else
      match set.foldl (fun b x => match b with | none => some x | some y => if x.age < y.age then some x else some y) none with
      | none => put s
      | some old =>
        let s := s.setSlice slice { sl with versions := sl.versions.filter fun x => x != old }
        (put s).displace slice old

/-- A version line proves uncorrectable (R193): its task takes the Uncorrectable-error trap, and the version is discarded. The trap's
group is the team's lowest resident one, or the lowest of its save (log entry 121). -/
def State.versionBad (s : State) (v : VersionLine) : State :=
  match s.taskTeam v.task with
  | none => s
  | some team =>
    let key := (s.teamGroups team).head?
    let saved := ((s.teamAt team).kept.head?.map fun x => x.2).getD { uid := 0, team := team }
    let g := (key.bind fun k => tget? s.groups k).getD saved
    s.errorTrap (s.teamAt team).core ((key.getD 0) % 128) g { cause := 0x0F, lane := 255, addr := 256 * v.line }

/-- A version line that a slice holds leaves it, from its version ways, its displacement buffer or its overflow map. -/
def State.takeOut (s : State) (slice : Nat) (v : VersionLine) : State :=
  let sl := s.slice slice
  let s := s.setSlice slice { sl with versions := sl.versions.filter (· != v), displaced := sl.displaced.filter (· != v)
                                      overflow := sl.overflow.filter (· != v) }
  match v.place with
  | some (b, _) => s.rewriteBlocks slice v.task [b]
  | none => s

/-- PATROL_SCRUB (R161, R193): a sector is read in the round; a corrected one is written back, and an uncorrectable one is acted on. So
is an uncorrectable error that a slice meets in its own arrays, in a committed line or in a version line that it holds. -/
def execPatrolScrub (scrub : Scrub) (s : State) : Host.Outcome State Fault Refusal :=
  let line := scrub.sector / 4
  let home := s.homeOf (256 * line)
  let found := scrub.check == .uncorrectable
  match scrub.place with
  | .dram => .next ((if found then s.poisonSector scrub.sector else s).readSector scrub.sector)
  | .array => .next (if found && (s.slice home).sector line (scrub.sector % 4) != 0 then s.addBad home line 2 else s)
  | .version task epoch =>
    match (if found then (s.slice home).versionsAt line task epoch else []) with
    | v :: _ => .next ((s.takeOut home v).versionBad v)
    | [] => .next s

/-- VERSION_LINE_WRITE (R185): a line that must displace another waits while the displacement buffer is full (R187); one whose data is
uncorrectable is not entered (R193). -/
def execVersionLineWrite (delivery : Delivery) (s : State) : Host.Outcome State Fault Refusal :=
  match tget? s.msgs delivery.message with
  | none => .next s
  | some m =>
    match m.kind with
    | .version v =>
      if !s.readyHome delivery.message m then .next (s.waitHome delivery.message m)
      else
        let live := match s.taskAt v.task with
          | t => t.state == .running || t.state == .committing
        if !live then .next (s.dropMsg delivery.message)
        else if delivery.bad then .next ((s.dropMsg delivery.message).versionBad v)
        else if (s.slice m.slice).versionWaits v.line v.task v.epoch then .next s
        else .next ((s.dropMsg delivery.message).takeVersion m.slice v)
    | _ => .next s

/-! ## Retirement (R135) -/

/-- A team has retired (steps 5 and 6 of R135): its tiles are free, its scratchpad too once its whole district has retired,
its task slot is free, its grid counts it, and members of its district that are pre-empted wait for it no more. -/
def State.retired (s : State) (team : Nat) : State :=
  let t := s.teamAt team
  let s := s.setTask t.task { s.taskAt t.task with state := .free, commit := none, voUsed := [], ovf := false, ovfSeen := [] }
  let s := (s.freeTiles team).freeReservation team
  let s := s.setTeam team { s.teamAt team with state := .retired }
  if t.grid == noGrid then { (s.freeUnits team) with teams := tdel s.teams team } else
  let members := s.districtOf team
  let s := if members.all fun k => (s.teamAt k).state.over then members.foldl (fun s k => s.freeUnits k) s else s
  let g := s.gridAt t.grid
  let s := s.setGrid t.grid { g with retired := g.retired ++ [t.tix.toNat] }
  ((s.barrierCheck team).readmitPreempted).gridCheck t.grid

/-- TEAM_RETIRE (R135): every group has exited, the counters, batches and inbound counters are 0, and the team's version is
committed under a request of its own. -/
def execTeamRetire (team : Nat) (s : State) : Host.Outcome State Fault Refusal :=
  let t := s.teamAt team
  let quiet := (s.teamGroups team).isEmpty && t.inbound == 0 &&
    !(s.accs.any fun (_, a) => a.team == team && (a.space == .mem || a.space == .remote || a.ldc)) &&
    !(s.ops.any fun (_, o) => o.team == team && !o.vDone)
  if t.state == .resident && quiet then
    .next ((s.setTeam team { t with state := .committing }).askCommit team t.core [] 0 causeRetire)
  else .next s

/-! ## Commit (R188, R189) -/

/-- Every version line of a key in a core's L1, or its cluster's fused L1, is sent home (R185, R189 step 2). -/
def State.sendVersions (s : State) (core : Nat) (p : VKey → Bool) : State :=
  (s.holderOf core).cores.foldl (fun s n =>
    ((s.core n).l1.filter fun x => match x.kind with | .version k _ => p k | _ => false).foldl (fun s x => s.evictLine n x) s) s

/-- Whether a team's L1 may hold version lines of its task: it is placed and not being spilled, or has ended before its discard. -/
def Team.inL1 (t : Team) : Bool :=
  match t.state with
  | .resident | .committing | .parkEligible | .parkArmed | .ended => true
  | _ => false

/-- A commit of a task starts (R189 steps 1 to 3): its epoch flips, its L1 sends the epoch's version lines, and the marks
follow them. Core, slot and entry name the fragment that waits for it; an entry from 8 up names its cause. -/
def State.startCommit (s : State) (team core slot entry : Nat) : State :=
  let t := s.teamAt team
  let k := s.taskAt t.task
  let (id, s) := s.fresh
  let c : Commit := { id := id, epoch := k.e, retire := entry == causeRetire, trig := entry == causeTrig }
  let s := s.setTask t.task { k with e := !k.e, nr := k.nr || entry != causeRetire, commit := some c }
  let waits := entry < 8 && ((s.group? core slot).map fun g => g.team) == some team
  let s := if waits then s.setWait core slot entry (.commit id) else s
  let s := if t.inL1 then s.sendVersions core fun v => v.task == t.task && v.epoch == k.e else s
  (List.range 96).foldl (fun s n =>
    if t.inL1 then s.send (.cmtMark t.task k.e n) core n true else s.sendBase (.cmtMark t.task k.e n) distributorSlice n) s

/-- Whether a commit request is the first of its task's that stand at the task table: they are taken in the order in which they reached
it (R181). -/
def State.cmtFirst (s : State) (id : Nat) (m : Msg) (task : Nat) : Bool :=
  s.msgs.all fun (k, n) => match n.kind with
    | .cmtReq t _ _ _ =>
      !((tget? s.teams t).any (fun t => t.task == task) && s.ready k n && (n.came < m.came || n.came == m.came && k < id))
    | _ => true

/-- CMT_REQ (R181, R189): a request waits for those of its task that came before it, for the task's previous commit, and for the version lines of a spilled team to reach their
slices; one that follows a discard request is dropped. -/
def execCmtReq (message : Nat) (s : State) : Host.Outcome State Fault Refusal :=
  match tget? s.msgs message with
  | none => .next s
  | some m =>
    match m.kind with
    | .cmtReq team core slot entry =>
      if !s.ready message m then .next s
      else
        let t := s.teamAt team
        let k := s.taskAt t.task
        let coming := !t.inL1 && s.msgs.any fun e => match e.2.kind with | .version v => v.task == t.task | _ => false
        if (tget? s.teams team).isNone || t.state.over && !k.discard || k.state == .discarding || k.state == .free then .next (s.dropMsg message)
        else if k.commit.isSome || coming || !s.cmtFirst message m t.task then .next s
        else .next ((s.dropMsg message).startCommit team core slot entry)
    | _ => .next s

/-- CMT_MARK (R189 step 4): behind the version lines, the slice answers the task table. -/
def execCmtMark (message : Nat) (s : State) : Host.Outcome State Fault Refusal :=
  match tget? s.msgs message with
  | none => .next s
  | some m =>
    match m.kind with
    | .cmtMark task epoch slice =>
      if !s.readyHome message m then .next (s.waitHome message m)
      else .next ((s.dropMsg message).sendBase (.cmtAck task epoch slice) slice distributorSlice)
    | _ => .next s

/-- A version line is merged: its masked words become committed words, as a home write with WT = 0 (R176, R189 step 6). -/
def State.mergeWords (s : State) (v : VersionLine) : State :=
  let s := s.settleLine v.line true
  (List.range 64).foldl (fun s w =>
    if v.mask.getLsbD w then s.homeStore (256 * v.line + 4 * w) (cread v.data (4 * w) 4) else s) s

/-- A slice merges lines of a task's epoch, the oldest writes first, and gives up their places; overflow blocks are written again
(R186, R189 step 6). -/
def State.mergeSlice (s : State) (slice task : Nat) (epoch : Bool) (which : Nat → Bool := fun _ => true) : State :=
  let sl := s.slice slice
  let mine (v : VersionLine) : Bool := v.task == task && v.epoch == epoch && which v.line
  let lines := (sl.overflow ++ sl.displaced ++ sl.versions).filter mine
  let blocks := ((sl.overflow.filter mine).filterMap fun v => v.place.map fun p => p.1).eraseDups
  let s := lines.foldl (fun s v => s.mergeWords v) s
  let sl := s.slice slice
  let s := s.setSlice slice { sl with versions := sl.versions.filter fun v => !mine v, displaced := sl.displaced.filter fun v => !mine v
                                      overflow := sl.overflow.filter fun v => !mine v }
  if blocks == [] then s else s.rewriteBlocks slice task blocks

/-- The decided commits, in the order of their commit points. -/
def State.decidedBefore (s : State) (order : Nat) : List (Nat × Bool) :=
  let cs := s.tasks.filterMap fun (k, t) => match t.commit with
    | some c => if c.decided && c.order < order then some (c.order, k, c.epoch) else none
    | none => none
  (cs.mergeSort fun a b => a.1 ≤ b.1).map fun x => (x.2.1, x.2.2)

/-- A slice merges lines of a commit, after those of the commits whose commit points came before it (R189). -/
def State.mergeInOrder (s : State) (slice task : Nat) (epoch : Bool) (which : Nat → Bool := fun _ => true) : State :=
  let order := match (s.taskAt task).commit with | some c => c.order | none => 0
  let s := (s.decidedBefore order).foldl (fun s x => s.mergeSlice slice x.1 x.2 which) s
  s.mergeSlice slice task epoch which

/-- The slices are asked to merge a commit past its commit point (R189 steps 6 and 7). Each line merges by its slice's MergeDone at the
latest, and, as a free bit says, at once (log entry 4). -/
def State.askMerges (s : State) (seed task : Nat) (epoch : Bool) : State :=
  (List.range 96).foldl (fun (s : State) n =>
    (s.mergeInOrder n task epoch (Config.freeBit seed)).sendBase (.mergeDone task epoch n) n distributorSlice) s

/-- CMT_ACK (R189 step 5): the 96th acknowledgement is the commit point. Each line merges between it and its slice's MergeDone, at a
moment the manual leaves open. -/
def execCmtAck (message : Nat) (s : State) : Host.Outcome State Fault Refusal :=
  match tget? s.msgs message with
  | none => .next s
  | some m =>
    match m.kind with
    | .cmtAck task epoch slice =>
      if !s.ready message m then .next s
      else
        let s := s.dropMsg message
        let k := s.taskAt task
        match k.commit with
        | none => .next s
        | some c =>
          if c.epoch != epoch || c.decided then .next s
          else
            let acks := if c.acks.contains slice then c.acks else c.acks ++ [slice]
            if acks.length < 96 then .next (s.setTask task { k with commit := some { c with acks := acks } })
            else
              let (order, s) := s.fresh
              let s := s.setTask task { k with state := .committing
                                               commit := some { c with acks := acks, decided := true, order := order } }
              let s := match s.taskTeam task with
                | some t => s.setTeam t { s.teamAt t with nrAt := k.nr }
                | none => s
              let seed := s.free
              let s := { s with free := s.free + 1 }
              .next (s.askMerges seed task epoch)
    | _ => .next s

/-- The fragments that wait for a commit issue again (R392 step 4). -/
def State.wakeCommit (s : State) (id : Nat) : State :=
  { s with groups := tmap s.groups fun _ g =>
      { g with split := tmap g.split fun _ f => if f.wait == .commit id then { f with wait := .none } else f } }

/-- A commit is complete (R189 step 8). OVF clears (R248); a retirement frees the slot, and a TRIG's commit is noted. -/
def State.commitDone (s : State) (task : Nat) (c : Commit) : State :=
  let k := s.taskAt task
  let s := s.setTask task { k with state := if k.state == .discarding then .discarding else .running
                                   commit := none, ovf := false, ovfSeen := [] }
  let s := s.wakeCommit c.id
  match s.taskTeam task with
  | none => if c.retire && k.state != .discarding then s.setTask task { s.taskAt task with state := .free, voUsed := [] } else s
  | some t =>
    if c.retire then s.retired t
    else if c.trig then s.setTeam t { s.teamAt t with trigDone := true }
    else s

/-- MERGE_DONE (R189 steps 7 and 8). -/
def execMergeDone (message : Nat) (s : State) : Host.Outcome State Fault Refusal :=
  match tget? s.msgs message with
  | none => .next s
  | some m =>
    match m.kind with
    | .mergeDone task epoch slice =>
      if !s.ready message m then .next s
      else
        let s := s.dropMsg message
        match (s.taskAt task).commit with
        | none => .next s
        | some c =>
          let s := s.mergeInOrder slice task epoch
          let merged := if c.merged.contains slice then c.merged else c.merged ++ [slice]
          let c := { c with merged := merged }
          if merged.length < 96 then .next (s.setTask task { s.taskAt task with commit := some c })
          else .next (s.commitDone task c)
    | _ => .next s

/-- COMMIT (R392): the request is held until the accesses that the group issued before it have left their counters. -/
def execCommit (o : Operands) (s : State) : Host.Outcome State Fault Refusal :=
  runState 0xB1 o (fun _ => ⟨.ctl, 1, 1, true⟩) s fun c =>
    let before := tkeys s.accs fun _ a => a.guid == c.g.uid
    let s := (s.setNr c.g.team).askCommit c.g.team c.core before c.slot c.entry
    .ok (.issued s (c.blocked 0xB1 o c.g .drain) true)

/-! ## Version overflow traps (R187) -/

/-- Whether a group stands at a boundary at which a trap of its own can be taken: its lowest fragment does not wait. -/
def Group.atBoundary (g : Group) (now : Nat) : Bool :=
  g.ready && g.stop == .none && match g.boundaryEntry with
    | some (_, f) => g.waitOver f.wait now && !f.stopped
    | none => false

/-- VERSION_OVERFLOW_TRAP (R187, R248): each group of a task with OVF takes the trap once, at its next boundary. -/
def execVersionOverflowTrap (core slot : Nat) (s : State) : Host.Outcome State Fault Refusal :=
  match s.group? core slot with
  | none => .next s
  | some g =>
    let k := (s.teamOf g).task
    let t := s.taskAt k
    if !t.ovf || t.ovfSeen.contains g.uid || !g.atBoundary s.time then .next s
    else .next ((s.setTask k { t with ovfSeen := t.ovfSeen ++ [g.uid] }).boundaryTrap core slot 0x0A)

/-! ## Discard (R191) -/

/-- Whether a message belongs to a task's uncommitted version, or asks to commit it. -/
def State.discardsMsg (s : State) (task : Nat) (keep : Option Bool) (m : Msg) : Bool :=
  match m.kind with
  | .version v => v.task == task && some v.epoch != keep
  | .cmtReq t _ _ _ => (tget? s.teams t).any fun t => t.task == task
  | .cmtMark k e _ => k == task && some e != keep
  | .cmtAck k e _ => k == task && some e != keep
  | _ => false

/-- DISCARD_REQUEST (R191): the slot is Discarding; the L1s and the slices drop the task's versions of every epoch not past
its commit point, and its overflow blocks are free. -/
def execDiscardRequest (slot : Nat) (s : State) : Host.Outcome State Fault Refusal :=
  let k := s.taskAt slot
  if !k.discard then .next s
  else
    let keep := match k.commit with
      | some c => if c.decided then some c.epoch else none
      | none => none
    let mine (t : Nat) (e : Bool) : Bool := t == slot && some e != keep
    let drop (l : List VersionLine) : List VersionLine := l.filter fun v => !mine v.task v.epoch
    let s := { s with
      msgs := tfilter s.msgs fun _ m => !s.discardsMsg slot keep m
      cores := tmap s.cores fun _ c => { c with l1 := c.l1.filter fun x => match x.kind with
        | .version v _ => !mine v.task v.epoch
        | _ => true }
      slices := tmap s.slices fun _ sl => { sl with versions := drop sl.versions, displaced := drop sl.displaced
                                                    overflow := drop sl.overflow } }
    .next (s.setTask slot { k with state := .discarding, discard := false, ovf := false, ovfSeen := []
                                   voUsed := if keep.isSome then k.voUsed else []
                                   commit := if keep.isSome then k.commit else none })

/-- DISCARD_COMPLETE (R191 step 5): the slot is Free, behind a commit that was past its commit point. -/
def execDiscardComplete (slot : Nat) (s : State) : Host.Outcome State Fault Refusal :=
  let k := s.taskAt slot
  if k.state == .discarding && k.commit.isNone then .next (s.setTask slot { k with state := .free, voUsed := [], nr := false })
  else .next s

end Sys2Proof.Machine
end

