-- ==== Sys2Proof/Machine/Fabric.lean ====
section
/-! DEFINITION. Elevator ports and the Avenue (R17, R143 to R151), fences (R142, R195), and the pin table (R153 to R155). -/
namespace Sys2Proof.Machine

/-! ## Fences (R195) -/

/-- Whether a message is lost with fenced clusters: one of theirs that the base die has not accepted, or one toward them
(R195 step 2). -/
def lostMsg (cs : List Nat) (m : Msg) : Bool :=
  cs.contains (m.core / 8) &&
    (if m.toSlice then (match m.stage with | .held _ | .port => true | _ => false) else true)

/-- A directory entry without fenced clusters: their sharer bits go, and their tokens return to the home (R195 step 3). -/
def DirEntry.fence (cs : List Nat) (e : DirEntry) : DirEntry :=
  let gone := cs.foldl (fun v c => v ||| clusterBit c) (0#48)
  match e.holder with
  | some h => if cs.contains h.cluster then {} else { e with sharers := e.sharers &&& ~~~ gone }
  | none => { e with sharers := e.sharers &&& ~~~ gone }

/-- A busy line no longer waits for fenced clusters (R195 step 3). -/
def Busy.fence (cs : List Nat) (b : Busy) : Busy :=
  { b with tokens := b.tokens.filter fun h => !cs.contains h.cluster, invs := b.invs.filter fun c => !cs.contains c }

/-- The slices and messages after a fence (R195 steps 2 and 3): the write-throughs that the base die has accepted are applied, and what
waited for the fenced clusters goes on. -/
def State.fenceFabric (s : State) (cs : List Nat) : State :=
  let s := { s with msgs := tfilter s.msgs fun _ m => !lostMsg cs m }
  let s := s.msgs.foldl (fun s (id, m) => match m.kind with
    | .through _ _ cells => if cs.contains (m.core / 8) then (cells.foldl (fun s (p, bs) => s.homeStore p bs) s).dropMsg id else s
    | _ => s) s
  let carried := s.msgs.filterMap fun (_, m) => m.kind.access?
  let s := { s with accs := tfilter s.accs fun k a => !cs.contains (a.core / 8) || carried.contains k }
  let s := { s with
    flows := tfilter s.flows fun k _ => !cs.contains (k / 2 / 97)
    slices := tmap s.slices fun _ sl =>
      { sl with regions := tmap sl.regions fun _ e => e.fence cs, lines := tmap sl.lines fun _ e => e.fence cs
                busy := tmap sl.busy fun _ b => b.fence cs } }
  let work := s.slices.flatMap fun (n, sl) => sl.busy.filterMap fun (line, b) =>
    if b.tokens == [] && b.invs == [] && !sl.misses.contains line then some (n, line) else none
  work.foldl (fun s (n, line) => s.goOn n line) s

/-- Whether a team is handled by a fence of some clusters (R142): it is resident there, its home core is there, or it has
retired and holds its scratchpad there. -/
def State.fencesTeam (s : State) (cs : List Nat) (t : Team) : Bool :=
  let there (core : Nat) : Bool := cs.contains (core / 8)
  match t.state with
  | .resident | .parkEligible | .parkArmed | .parkSpilling | .preempting | .committing => there t.core && !s.pastCommit t
  | .preempted | .queued => t.away && (match t.home with | some c => there c | none => false)
  | .retired => t.units != [] && there t.core && (s.gridAt t.grid).eff.dist > 1
  | _ => false

/-- What a cluster keeps as its chiplet is fenced or reset: its calibration values (R79), its permit ceiling (R90), and its
routing tables, which the base die holds (R15, R149). -/
def Cluster.lost (c : Cluster) : Cluster := { kept := c.kept || c.cal, ceil := c.ceil, route := c.route }

/-- The clusters of a chiplet, or one cut-off cluster, are fenced (R17, R142, R195): nothing is placed there, their packets and
tokens go, each team is dispatched again or its fault domain aborted, grids that lost a team are to be told, and a record
goes to every resident context. -/
def State.fenceClusters (s : State) (cs : List Nat) (info : Nat) : State :=
  let s := cs.foldl (fun (s : State) c => s.foldCycles c) (s.fenceFabric cs).foldCounters
  let hit := tkeys s.teams fun _ t => s.fencesTeam cs t
  let grids := (hit.map fun k => (s.teamAt k).grid).eraseDups
  let s := hit.foldl (fun s k => if s.fencesTeam cs (s.teamAt k) then s.discardTeam k false else s) s
  let s := { s with
    cores := tmap s.cores fun k c => if cs.contains (k / 8) then { cycle := s.cycleOf k, cycleAt := s.time, accspl := c.accspl } else c
    clusters := tmap s.clusters fun k c => if cs.contains k then c.lost else c
    withheld := s.withheld.filter fun w => !cs.contains (w.core / 8)
    walks := tfilter s.walks fun _ w => !(cs.contains (w.core / 8) && w.frag.isSome) }.dropStrays
  let s := grids.foldl (fun s g =>
    match tget? s.grids g with
    | some x =>
      if x.eff.handler == 0 then s
      else s.setGrid g { x with notices := tkeys s.teams fun k t => t.grid == g && t.state.here && (s.teamGroups k != [] || t.kept != []) }
    | none => s) s
  s.postAll { cause := 0x45, ctx := 0, info := info }

/-- A chiplet is fenced (R195 step 1). -/
def State.fenceChiplet (s : State) (n : Nat) : State :=
  if s.power.fenced.getLsbD n then s
  else
    let s := s.foldCounters
    let s := { s with power := { s.power with fenced := s.power.fenced ||| BitVec.ofNat 8 (2 ^ n) } }
    s.fenceClusters ((List.range 6).map fun i => 6 * n + i) n

/-- A cluster is cut off (R17). -/
def State.cutOff (s : State) (c : Nat) : State :=
  let s := s.foldCounters
  let s := { s with power := { s.power with cutOff := s.power.cutOff ||| clusterBit c } }
  s.fenceClusters [c] (chipOf c + 256 * (c + 1))

/-- CHIPLET_FENCE_NOTICE (R245, R248): the lowest live group of a team of a grid that lost a team takes the notice at its next
boundary, after its return where the team has been saved before that. -/
def execChipletFenceNotice (team : Nat) (s : State) : Host.Outcome State Fault Refusal :=
  let t := s.teamAt team
  let g := s.gridAt t.grid
  if !g.notices.contains team then .next s
  else
    let keys := (s.teamGroups team).mergeSort fun a b =>
      ((tget? s.groups a).map Group.gix).getD 16 ≤ ((tget? s.groups b).map Group.gix).getD 16
    let drop (s : State) : State := s.setGrid t.grid { s.gridAt t.grid with notices := (s.gridAt t.grid).notices.filter fun k => k != team }
    if t.state.over || t.state == .committing then .next (drop s)
    else if t.state != .resident && t.state != .parkEligible then .next s
    else
      match keys with
      | [] => .next (drop s)
      | k :: _ =>
        match tget? s.groups k with
        | none => .next s
        | some x => if x.atBoundary s.time then .next ((drop s).boundaryTrap (k / 128) (k % 128) 0x22) else .next s

/-! ## The Chiplet stage (R21, R79) -/

/-- The step of a cluster that is neither boosted nor falling: 1.0 GHz before calibration and in T1, else 1.6 GHz (R79, R86). -/
def State.restStep (s : State) (cal : Bool) : Nat := if cal && s.power.table != 1 then 0 else 3

/-- A chiplet starts (R79): its rail comes up, its ports are Up, and its clusters run at the bring-up clock, or at 1.6 GHz where
their calibration values are kept; the slices of a column that is to be calibrated wake (R85). Nothing of it is held any more by
the directory. -/
def State.chipletStart (s : State) (n : Nat) : State :=
  let mine := (List.range 6).map fun i => 6 * n + i
  let was := s.chipOnline n
  let s := (s.fenceFabric mine).foldCounters
  let p := s.power
  let off := mine.foldl (fun v c => v ||| clusterBit c) (0#48)
  let p := { p with
    vch := p.vch ||| BitVec.ofNat 8 (2 ^ n), fenced := p.fenced &&& ~~~ BitVec.ofNat 8 (2 ^ n)
    cutOff := p.cutOff &&& ~~~ off
    portState := tfilter p.portState fun k _ => k / 12 != n, drains := tfilter p.drains fun k _ => k / 12 != n
    reissues := tfilter p.reissues fun k _ => k / 12 != n, portCorr := tfilter p.portCorr fun k _ => k / 12 != n }
  let cycles (k : Nat) : W64 := if was then s.cycleOf k else (s.core k).cycle
  let s := { s with power := p }
  let s := ((List.range 48).map fun i => 48 * n + i).foldl (fun (s : State) k =>
    s.setCore k { cycle := cycles k, cycleAt := s.time, accspl := (s.core k).accspl }) s
  mine.foldl (fun (s : State) c =>
    let l := (s.cluster c).lost
    let s := s.setCluster c { l with cal := l.kept, step := s.restStep l.kept, idleSince := s.time, refillAt := s.time }
    if l.kept then s else (s.rouseSlice (2 * c)).rouseSlice (2 * c + 1)) s

/-- Whether every chiplet is online and every column calibrated: stage 4, which is never reached once a chiplet has failed its
Chiplet stage (R77). -/
def State.checkFull (s : State) : State :=
  if s.stage == .compute && !s.power.stageFailed && (List.range 48).all fun c => s.clusterOnline c && (s.cluster c).cal then
    { s with stage := .full }
  else s

/-- Whether a chiplet has done with its Chiplet stage: it is fenced, or every cluster of it is calibrated or cut off. -/
def State.chipletDone (s : State) (n : Nat) : Bool :=
  s.power.fenced.getLsbD n ||
    (s.chipOnline n && (List.range 6).all fun i => (s.cluster (6 * n + i)).cal || s.power.cutOff.getLsbD (6 * n + i))

/-- A fault ends a chiplet's Chiplet stage, where it is in it (R77). -/
def State.failStage (s : State) (n : Nat) : State :=
  if s.stage == .compute && !s.chipletDone n then { s with power := { s.power with stageFailed := true } } else s

/-- Whether a group is resident on a chiplet. -/
def State.chipletBusy (s : State) (n : Nat) : Bool := s.groups.any fun e => e.1 / 128 / 48 == n

/-! ## Elevator ports (R17, R149 to R151) -/

/-- The state of a port: 0 Up, 1 Retiring, 2 Retired. -/
def State.elevatorState (s : State) (p : Nat) : Nat := tgetD s.power.portState p 0

/-- A routing entry of R149 as it stands: ALTV, ALT, PRI. -/
def Cluster.routeEntry (c : Cluster) (key : Nat) : BitVec 3 :=
  (tget? c.route key).getD (BitVec.ofNat 3 (4 + 2 * (1 - key % 2) + key % 2))

/-- The number of a flow. -/
def Msg.flow (m : Msg) : Nat := (m.core / 8 * 97 + min m.slice 96) * 2 + (if m.toSlice then 0 else 1)

/-- A port is declared failed (R17, R151 step 1): every entry whose PRI names it changes to the other port, and the flows with packets on
it are held. One with an uncorrectable fault carries no more packets. Where the cluster has no port left, it is cut off, or with every
port of its chiplet failed the chiplet is fenced. -/
def State.failElevator (s : State) (p : Nat) (carries : Bool) : State :=
  if s.elevatorState p != 0 then s
  else
    let flows := (s.msgs.filterMap fun (_, m) => if m.port == p && m.stage == .port then some m.flow else none).eraseDups
    let w := { s.power with portState := tset s.power.portState p 1 }
    let s := { s with power := if carries then { w with drains := tset w.drains p flows } else { w with reissues := tset w.reissues p flows } }
    let c := p / 2
    let other := 2 * c + (1 - p % 2)
    if s.elevatorState other == 0 then
      let cl := s.cluster c
      let route := (List.range 192).foldl (fun r k =>
        let e := cl.routeEntry k
        if (e.extractLsb' 0 1).toNat == p % 2 then tset r k (BitVec.ofNat 3 ((e.extractLsb' 1 1).toNat * 2 + (1 - p % 2))) else r)
        cl.route
      s.setCluster c { cl with route := route }
    else
      let chip := chipOf c
      if (List.range 12).all fun i => s.elevatorState (12 * chip + i) != 0 then s.fenceChiplet chip else s.cutOff c

/-- The correctable faults of a port within the last millisecond, with one more now (R17). -/
def recentFaults (old : List Nat) (now : Nat) : List Nat := (old.filter fun t => now ≤ t + 1000 * usec) ++ [now]

/-- A correctable fault on a port is counted; more than 16 within 1 ms declare it failed (R17, R150). -/
def State.correctable (s : State) (p : Nat) : State :=
  let w := recentFaults (tgetD s.power.portCorr p []) s.time
  let total := min 65535 (tgetD s.power.portCount p 0 + 1)
  let s := { s with power := { s.power with portCorr := tset s.power.portCorr p w, portCount := tset s.power.portCount p total } }
  if w.length > 16 then s.failElevator p true else s

/-! ## The Chiplet stage and chiplet resets (R17, R21, R79) -/

/-- The Chiplet stage of a chiplet (R77, R79): it starts, and its cores are scanned and its ports checked. A failed scan, or no
port left, fences it. -/
def State.chipletStage (s : State) (n : Nat) (check : ChipletCheck) : State :=
  let s := s.chipletStart n
  if !check.scanOk || check.badPorts == BitVec.allOnes 12 then (s.failStage n).fenceChiplet n
  else (((List.range 12).filter fun i => check.badPorts.getLsbD i).foldl (fun s i => s.failElevator (12 * n + i) false) s).checkFull

/-- A chiplet is reset, with no group resident on it (R17, R21): the teams that are homed there go as in R142, and it runs its
Chiplet stage. -/
def State.rejoin (s : State) (n : Nat) (check : ChipletCheck) : State :=
  let cs := (List.range 6).map fun i => 6 * n + i
  let hit := tkeys s.teams fun _ t => s.fencesTeam cs t
  (hit.foldl (fun s k => if s.fencesTeam cs (s.teamAt k) then s.discardTeam k false else s) s).chipletStage n check

/-- CUT_OFF_CHIPLET_RESET (R17, R21): with no resident group left on it, the chiplet of a cut-off cluster is reset. -/
def execCutOffChipletReset (run : ChipletRun) (s : State) : Host.Outcome State Fault Refusal :=
  let cut := (List.range 6).any fun i => s.power.cutOff.getLsbD (6 * run.chiplet + i)
  if !cut || !s.power.baseUp || s.chipletBusy run.chiplet || s.power.fenced.getLsbD run.chiplet then .next s
  else .next (s.rejoin run.chiplet run.check)

/-! ## Packets on elevator ports (R150, R151) -/

/-- Whether a message stands at its elevator port: it was sent, and what it was held for has left its counters (R394). -/
def State.atPort (s : State) (m : Msg) : Bool :=
  match m.stage with
  | .port => true
  | .held after => after.all fun a => (tget? s.accs a).isNone
  | _ => false

/-- Whether two messages are packets of one flow: between one cluster and one slice, in one direction (R150). -/
def Msg.sameFlow (m n : Msg) : Bool := n.toSlice == m.toSlice && n.core / 8 == m.core / 8 && n.slice == m.slice

/-- Whether an older packet of a message's flow still waits at a port (R150, R151: a flow keeps its order). -/
def State.flowBlocked (s : State) (id : Nat) (m : Msg) : Bool :=
  s.msgs.any fun (k, n) => n.stage == .port && m.sameFlow n && (n.came < m.came || n.came == m.came && k < id)

/-- A message's packet takes the next number of its flow as it enters its port's replay buffer, where it keeps it (R150). -/
def State.numberPacket (s : State) (id : Nat) : State :=
  match tget? s.msgs id with
  | none => s
  | some m =>
    if m.seq.isSome then s
    else
      let f := tgetD s.flows m.flow (0, 0)
      { s with flows := tset s.flows m.flow (f.1 + 1, f.2), msgs := tset s.msgs id { m with seq := some f.1, stage := .port } }

/-- Whether the receiver of a flow has accepted a packet's number already (R150). -/
def State.accepted (s : State) (m : Msg) : Bool :=
  match m.seq with
  | some q => (q - (tgetD s.flows m.flow (0, 0)).2).toNat ≥ 2048
  | none => false

/-- Where a message stands once it has crossed its port (R143, R144): an STX turns to the channel of its target's cluster; what goes to
a slice enters its Avenue FIFO or the mesh; what has come up is at its cluster. -/
def State.landed (s : State) (m : Msg) (port : Nat) : Msg :=
  match m.kind, m.toSlice with
  | .stx acc, true =>
    let target := ((tget? s.accs acc).bind fun a => a.lanes.head?).map fun x => (s.teamAt x.team).core
    let core := target.getD m.core
    { m with core := core, slice := port, toSlice := false, port := 2 * (core / 8) + (s.cluster (core / 8)).portSel true port, seq := none
             stage := .fifo, came := s.time }
  | _, true => { m with stage := if m.avenue then .fifo else .mesh port 5 s.nextEdge, came := s.time }
  | _, false => { m with stage := .arrived, came := s.time }

/-- A packet is accepted at the far side of its port and acknowledged, which releases it from the replay buffer; one whose number was
accepted before is discarded (R150). Data for an access that is over is dropped. -/
def State.crossPort (s : State) (id port : Nat) : State :=
  match tget? s.msgs id with
  | none => s
  | some m =>
    if s.accepted m then s.dropMsg id
    else
      let f := tgetD s.flows m.flow (0, 0)
      let s := { s with flows := tset s.flows m.flow (f.1, m.seq.getD 0 + 1) }
      match m.kind with
      | .data acc _ _ => if (tget? s.accs acc).isNone then s.dropMsg id else { s with msgs := tset s.msgs id (s.landed m port) }
      | _ => { s with msgs := tset s.msgs id (s.landed m port) }

/-- The port that a packet crosses (R151): its own, also where that is Retiring and drains the packet's flow; otherwise the other one. -/
def State.portOf (s : State) (m : Msg) : Nat :=
  if s.elevatorState m.port == 0 || (tgetD s.power.drains m.port []).contains m.flow then m.port else m.port / 2 * 2 + (1 - m.port % 2)

/-- Whether a new packet of a flow is held at its source, until the port that the flow is held on is Retired (R151 steps 2 and 4). -/
def State.flowHeld (s : State) (m : Msg) : Bool :=
  let other := m.port / 2 * 2 + (1 - m.port % 2)
  (tgetD s.power.drains other []).contains m.flow || (tgetD s.power.reissues other []).contains m.flow

/-- ELEVATOR_PACKET (R17, R150): the packet crosses its port, or the other port where its own has been retired, once the mesh has room
for it; the monitor counts a correctable fault, and an uncorrectable one fails the port, from which the packet is sent again. -/
def execElevatorPacket (message : Nat) (check : PortCheck) (s : State) : Host.Outcome State Fault Refusal :=
  match tget? s.msgs message with
  | none => .next s
  | some m =>
    let port := s.portOf m
    if !s.atPort m || s.flowBlocked message m || s.flowHeld m || (m.toSlice && !m.avenue && !s.meshRoom port m.kind.meshClass) then .next s
    else
      let s := s.numberPacket message
      match check with
      | .clean => .next (s.crossPort message port)
      | .correctable => .next ((s.crossPort message port).correctable port)
      | .uncorrectable =>
        let w := s.power
        let s := if (tget? w.drains port).isNone then s
          else { s with power := { w with drains := tdel w.drains port, reissues := tset w.reissues port (tgetD w.drains port []) } }
        .next (s.failElevator port false)

/-- ELEVATOR_RETIRE_COMPLETE (R151 step 4): every held flow of the retired port is empty, and what was held is released. -/
def execElevatorRetireComplete (port : Nat) (s : State) : Host.Outcome State Fault Refusal :=
  let left := s.msgs.any fun (_, m) => m.port == port && m.stage == .port
  if s.elevatorState port == 1 && !left then
    let w := s.power
    .next { s with power := { w with portState := tset w.portState port 2, drains := tdel w.drains port, reissues := tdel w.reissues port } }
  else .next s

/-! ## The Avenue (R146 to R148) -/

/-- The data bytes of a message, and the grid whose team they are carried for (R114). Those of engines and of host-managed memory are
charged where they are read and written. -/
def State.dataOf (s : State) (m : Msg) : Option Nat × Nat :=
  match m.kind with
  | .write a l _ => (s.gridOf a, s.bytesIn a l)
  | .through a _ cells => (s.gridOf a, cells.foldl (fun n c => n + c.2.length) 0)
  | .data a _ n => (s.gridOf a, n)
  | .completion a l => match tget? s.accs a with
    | some x => (s.gridOf a, if x.ldc then s.bytesIn a l else 0)
    | none => (none, 0)
  | .stx a => match tget? s.accs a with
    | some x => (s.gridOf a, x.lanes.length * x.bytes)
    | none => (none, 0)
  | .version v => ((s.taskTeam v.task).map fun t => (s.teamAt t).grid, 256)
  | .panel _ _ _ bytes => (none, bytes.length)
  | _ => (none, 0)

/-- The bytes of a message on the Avenue: a header of 16 bytes and its data. -/
def State.msgBytes (s : State) (m : Msg) : Nat := min 1024 (16 + (s.dataOf m).2)

/-- The number of a channel: slices' home channels, then clusters' receive channels (R146). -/
def channelNo (toSlice : Bool) (channel : Nat) : Nat := channel + (if toSlice then 0 else 96)

/-- The writer stations of a channel (R146). -/
def stationsOf (toSlice : Bool) : Nat := if toSlice then 48 else 97

/-- The station at which a message waits for a channel, where it waits for that one. -/
def Msg.stationOf (m : Msg) (toSlice : Bool) (channel : Nat) : Option Nat :=
  if !m.avenue || m.stage != .fifo || m.toSlice != toSlice then none
  else if toSlice then (if m.slice == channel then some (m.core / 8) else none)
  else if m.core / 8 == channel then some (min m.slice 96) else none

/-- When the token of a channel first passes a station that has had data pending since a time: an unheld token makes one revolution in 6
bclk cycles (R147). -/
def tokenPass (n pos at' station since : Nat) : Nat :=
  let first := at' + (station + n - pos) % n * (6 * bclk) / n
  if since ≤ first then first else first + (since - first + 6 * bclk - 1) / (6 * bclk) * (6 * bclk)

/-- The station that takes a channel's token next, and when (R147): the first that it passes with data pending. -/
def State.tokenTurn (s : State) (toSlice : Bool) (channel : Nat) : Option (Nat × Nat) :=
  let (pos, at') := tgetD s.avenue (channelNo toSlice channel) (0, 0)
  s.msgs.foldl (fun b (_, m) => match m.stationOf toSlice channel with
    | none => b
    | some st =>
      let t := tokenPass (stationsOf toSlice) pos at' st m.came
      match b with
      | none => some (st, t)
      | some (st', t') => if t < t' || t == t' && st < st' then some (st, t) else some (st', t')) none

/-- A message joins a FIFO's list behind those that came before it. -/
def joinFifo (e : Nat × Nat) : List (Nat × Nat) → List (Nat × Nat)
  | [] => [e]
  | x :: r => if e.1 < x.1 || e.1 == x.1 && e.2 < x.2 then e :: x :: r else x :: joinFifo e r

/-- The messages of a station's FIFO for a channel, in the order in which they entered it (R148). -/
def State.fifoOf (s : State) (toSlice : Bool) (channel station : Nat) : List Nat :=
  ((s.msgs.filter fun e => e.2.stationOf toSlice channel == some station).foldl (fun l e => joinFifo (e.2.came, e.1) l) []).map fun x => x.2

/-- The messages that one grant takes from a station's FIFO, with their bytes: in order, up to 1,024 bytes, none in part (R147). -/
def State.grantTake (s : State) (ids : List Nat) (room : Nat) : List Nat × Nat :=
  match ids with
  | [] => ([], 0)
  | id :: r =>
    match tget? s.msgs id with
    | none => s.grantTake r room
    | some m =>
      let n := s.msgBytes m
      if n ≤ room then
        let x := s.grantTake r (room - n)
        (id :: x.1, n + x.2)
      else ([], 0)

/-- How long a channel carries some bytes (R146): 448 GB/s toward slices and 896 GB/s toward clusters, half of it under T2. -/
def State.carryTime (s : State) (toSlice : Bool) (bytes : Nat) : Nat :=
  (if s.power.table == 2 then 2 else 1) * (bytes * 9 / (if toSlice then 56 else 112))

/-- AVENUE_TOKEN_GRANT (R147): the station that the token passes first with data pending takes it, sends up to 1,024 bytes in FIFO order
and releases it to the next. Without light from LS4 and LS5 nothing travels (R18). -/
def execAvenueTokenGrant (toSlice : Bool) (channel station : Nat) (s : State) : Host.Outcome State Fault Refusal :=
  match s.tokenTurn toSlice channel with
  | none => .next s
  | some (st, t) =>
    if !s.power.avenueLit || st != station || s.time < t then .next s
    else
      let (ids, bytes) := s.grantTake (s.fifoOf toSlice channel station) 1024
      let s := ids.foldl (fun s id => match (tget? s.msgs id).map s.dataOf with
        | some (some g, n) => s.charge g 2 n
        | _ => s) s
      .next { s with
        avenue := tset s.avenue (channelNo toSlice channel) ((station + 1) % stationsOf toSlice, s.time + s.carryTime toSlice bytes)
        msgs := tmap s.msgs fun k m => if ids.contains k then { m with stage := if toSlice then .arrived else .port, came := s.time } else m }

/-! ## The pin table (R154, R155) -/

/-- PINB and PINL of an entry (R154). -/
def PinEntry.pinb (p : PinEntry) : Nat := (if p.v then 2 ^ 63 else 0) + p.chip * 2 ^ 56 + p.base * 4096
def PinEntry.pinl (p : PinEntry) : Nat := p.limit * 4096

/-- A register of 64 bits with the bytes of a write of 4 or 8 bytes at an offset from it. -/
def merge64 (old : Nat) (off width : Nat) (value : W64) : Nat :=
  if width == 8 then value.toNat
  else if off % 8 == 0 then old / 2 ^ 32 * 2 ^ 32 + value.toNat % 2 ^ 32
  else old % 2 ^ 32 + value.toNat % 2 ^ 32 * 2 ^ 32

/-- PIN_TABLE_WRITE (R155, R461): a 64-bit write is taken while no grid is held and no move runs, else ERR; a taken write sets
BUSY. -/
def execPinTableWrite (off width : Nat) (value : W64) (s : State) : Host.Outcome State Fault Refusal :=
  if !s.bar0Open then .next s else
  let k := (off - 0x00520000) / 16
  if off < 0x00520000 || k ≥ 64 || off % width != 0 || (width != 4 && width != 8) then .next s
  else if width == 4 || !s.grids.isEmpty || s.pinBusy then .next { s with pinErr := true }
  else
    let old := tgetD s.pins k {}
    let isB := off % 16 < 8
    let raw := value.toNat
    let new : PinEntry :=
      if isB then { old with v := raw.testBit 63, chip := fld raw 58 56, base := fld raw 49 12 } else { old with limit := fld raw 49 12 }
    let range (p : PinEntry) : List (Nat × Nat) := if p.v && p.base ≤ p.limit then [(p.base, p.limit)] else []
    .next { s with pins := tset s.pins k new, pinBusy := true, pinMove := range old ++ range new }

/-- PIN_MOVE_DONE (R155): the ranges' lines have left the slices and the L1s, and BUSY clears. -/
def execPinMoveDone (s : State) : Host.Outcome State Fault Refusal :=
  if !s.pinBusy then .next s
  else
    let slices := tmap s.slices fun _ sl =>
      { sl with sectors := tfilter sl.sectors fun l _ => !s.moving l
                regions := tfilter sl.regions fun g _ => !s.moving (16 * g)
                lines := tfilter sl.lines fun l _ => !s.moving l }
    let cores := tmap s.cores fun _ c => { c with l1 := c.l1.filter fun x => !s.moving x.line }
    .next { s with slices := slices, cores := cores, pinBusy := false, pinMove := [] }

end Sys2Proof.Machine
end

