-- ==== Sys2Proof/Machine/Save.lean ====
section
/-! DEFINITION. The save formats (R261 to R264), and the saving and loading of a team's groups and scratchpad. -/
namespace Sys2Proof.Machine

/-! ## The sizes of a save (R108, R257, R261) -/

/-- The bytes of one group's register area: Q. -/
def Rcb.q (r : Rcb) : Nat := 256 * r.gregs + 8 * r.cregs

/-- The bytes of a group record, with its extension in a reservation. -/
def Rcb.recordSize (r : Rcb) (park : Bool) : Nat := (if park then 1024 else 1664) + r.q

/-- The offset of the scratchpad in a save. -/
def Rcb.scratchAt (r : Rcb) (park : Bool) : Nat := 4096 + r.groups * r.recordSize park

/-- The offset of the tile at a position. -/
def Rcb.tileAt (r : Rcb) (park : Bool) (j : Nat) : Nat := r.scratchAt park + 32768 * r.scr + 4096 * j

/-- The bytes of a save: S of R108 and P of R257, before rounding. -/
def Rcb.saveSize (r : Rcb) (park : Bool) : Nat := r.tileAt park r.acc

/-! ## Register records (R264, R306) -/

/-- A register's tag byte (R306). -/
def VReg.tag (r : VReg) : Nat :=
  match r.val with
  | .raw => 0x30
  | .uniform _ => r.cnt * 64 + 16 + r.fmt
  | .affine _ _ _ => r.cnt * 64 + 32 + r.fmt
  | .general _ => r.cnt * 64 + r.fmt

/-- Whether the tag bytes of a register and of the next are those of a pair: one 64-bit format and shape. -/
def pairTags (n t t' : Nat) : Bool := n % 2 == 0 && t == t' && t / 16 % 4 != 3 && is64 (t % 16)

/-- The bytes that a lane of a general register takes, in bits (R264). -/
def laneBits (tag : Nat) : Nat := if tag / 64 == 0 then min 32 (elemWidth (tag % 16)) else 32

/-- The bytes of a register's record, from its tag byte (R264). -/
def recordBytes (tag : Nat) (pair : Bool) : Nat :=
  let k := if pair then 2 else 1
  match tag / 16 % 4 with
  | 3 => 0
  | 1 => 4 * k
  | 2 => 8 * k
  | _ => if pair then 512 else 8 * laneBits tag

/-- The record of a register, or of a pair (R264). -/
def Group.record (g : Group) (n : Nat) : List Byte :=
  let r := g.reg n
  let pair := pairTags n r.tag (g.reg (n + 1)).tag
  let odd := n % 2 == 1 && pairTags (n - 1) (g.reg (n - 1)).tag r.tag
  let bytes := if pair then 8 else 4
  let lane (l : Nat) : Nat := (r.val.lane l).toNat + if pair then ((g.reg (n + 1)).val.lane l).toNat * 2 ^ 32 else 0
  if odd then []
  else match r.val with
    | .raw => []
    | .uniform _ => leBytes bytes (lane 0)
    | .affine _ _ _ => leBytes bytes (lane 0) ++ leBytes bytes ((lane 1 + 256 ^ bytes - lane 0) % 256 ^ bytes)
    | .general _ =>
      let w := if pair then 64 else laneBits r.tag
      if w == 4 then leBytes 32 (packElems 4 ((List.range 64).map fun l => lane l % 16))
      else (List.range 64).flatMap fun l => leBytes (w / 8) (lane l)

/-- The register area of a group: the records in ascending order (R264). -/
def Group.registerArea (g : Group) : List Byte := (List.range (g.g + g.c)).flatMap g.record

/-- The little-endian number in `n` bytes of a list, from a place. -/
def bytesAt (bs : List Byte) (off n : Nat) : Nat := leNat ((bs.drop off).take n)

/-- A register, or a pair, from its record (R264). -/
def loadRecord (bs : List Byte) (tag : Nat) (pair : Bool) : List VReg :=
  let (fmt, cnt) := (tag % 16, tag / 64)
  let bytes := if pair then 8 else 4
  let part (f : Nat → Nat) (k : Nat) : List W32 := (List.range 64).map fun l => BitVec.ofNat 32 (f l / 2 ^ (32 * k))
  let ks := List.range (if pair then 2 else 1)
  match tag / 16 % 4 with
  | 3 => ks.map fun _ => {}
  | 1 => ks.map fun k => { fmt := fmt, cnt := cnt, val := .uniform (BitVec.ofNat 32 (bytesAt bs 0 bytes / 2 ^ (32 * k))) }
  | 2 => ks.map fun k => { fmt := fmt, cnt := cnt, val := .affine (BitVec.ofNat 64 (bytesAt bs 0 bytes)) (BitVec.ofNat 64 (bytesAt bs bytes bytes)) (k == 1) }
  | _ =>
    let w := if pair then 64 else laneBits tag
    let lane (l : Nat) : Nat := if w == 4 then bytesAt bs (l / 2) 1 / 16 ^ (l % 2) % 16 else bytesAt bs (w / 8 * l) (w / 8)
    ks.map fun k => { fmt := fmt, cnt := cnt, val := .general (part lane k) }

/-- Whether a tag byte breaks R202 or R306: a general compact register, a reserved format, or more elements than the format
has. -/
def tagBroken (tag n g : Nat) : Bool :=
  let shape := tag / 16 % 4
  shape != 3 && ((shape == 0 && n ≥ g) || tag % 16 == 15 || 2 ^ (tag / 64) > elemCount (tag % 16))

/-- The registers from an area, by their tag bytes: from register `n` on, at offset `off`. -/
def loadRegs (area tags : List Byte) (n off : Nat) : Nat → Tbl VReg
  | 0 => []
  | fuel + 1 =>
    let t := bytesAt tags n 1
    let pair := fuel != 0 && pairTags n t (bytesAt tags (n + 1) 1)
    let size := recordBytes t pair
    let rs := loadRecord ((area.drop off).take size) t pair
    let mine := rs.zipIdx.filterMap fun (r, k) => if r.val == .raw then none else some (n + k, r)
    match fuel with
    | 0 => mine
    | fuel' + 1 => if pair then mine ++ loadRegs area tags (n + 2) (off + size) fuel' else mine ++ loadRegs area tags (n + 1) (off + size) (fuel' + 1)

/-! ## Control blocks (R263) -/

/-- The bits of a Bool list as a number, the first in bit 0. -/
def boolBits (bs : List Bool) : Nat := bs.foldr (fun b n => (if b then 1 else 0) + 2 * n) 0

/-- A list of bytes brought to a length with zeros (R8). -/
def padTo (n : Nat) (bs : List Byte) : List Byte := bs ++ List.replicate (n - bs.length) 0

/-- The double-word of a PC or JOIN and a record number. -/
def pcWord (pc : W64) (rec' : Nat) : Nat := fld pc.toNat 51 2 + rec' * 2 ^ 50

/-- Whether a fragment is stalled on a Page Fault. -/
def Wait.pageFault : Wait → Bool
  | .dft _ | .dftQueue | .tag _ => true
  | _ => false

/-- Whether a fragment waits in an instruction that it has issued and whose wait stands across a save (R256). -/
def Wait.stands : Wait → Bool
  | .batch _ _ _ | .bar | .trig | .dwait _ | .gwait _ | .event _ | .mrecv _ _ _ => true
  | _ => false

/-- The PC that a save gives a fragment: that of the instruction it waits in, or of the next one. -/
def Frag.savePc (f : Frag) : W64 := if f.wait.stands then f.lastPc else f.pc

/-- A fragment with its MASK, PC and record number from a save: a wait that stands goes on where the PC is still that of its
instruction. -/
def Frag.load (f : Frag) (mask pc : W64) (rec' : Nat) : Frag :=
  if f.wait.stands && fld f.savePc.toNat 51 2 == fld pc.toNat 51 2 then { f with mask := mask, jrec := rec' }
  else { f with mask := mask, pc := pc, jrec := rec', wait := .none }

/-- A group's control block (R263). -/
def Group.control (g : Group) : List Byte :=
  let pfs := g.split.any fun e => e.2.wait.pageFault
  let stat := (if g.handler then 2 ^ 31 else 0) + (if g.joins != [] then 2 ^ 30 else 0) + (if pfs then 2 ^ 29 else 0) + g.gix * 2 ^ 16
  let flag (i : Nat) : Nat := boolBits (g.flags.map fun f => f.getLsbD i)
  let entry (i : Nat) : List Byte := match tget? g.split i with
    | none => leBytes 16 0
    | some f => leBytes 8 f.mask.toNat ++ leBytes 8 (pcWord f.savePc f.jrec + 2 ^ 55)
  padTo 1024 (leBytes 8 g.exec.toNat ++ leBytes 4 g.mode.toNat ++ leBytes 4 stat ++ leBytes 4 g.pev.toNat ++ leBytes 4 g.evm.toNat ++
    leBytes 8 g.hpc.toNat ++ leBytes 4 g.hmode.toNat ++ leBytes 4 0 ++ leBytes 8 g.hexec.toNat ++
    (g.preds.flatMap fun p => leBytes 8 p.toNat) ++ ((List.range 5).flatMap fun i => leBytes 8 (flag i)) ++
    (g.batches.flatMap fun b => leBytes 2 b.closed.toNat ++ leBytes 2 b.donev.toNat) ++ leBytes 4 g.darr.toNat ++ leBytes 4 g.garr.toNat ++
    ((List.range 8).flatMap entry) ++ (g.evd.flatMap fun d => leBytes 8 d.1.toNat ++ leBytes 8 d.2.toNat) ++
    padTo 120 ((List.range (g.g + g.c)).map fun n => BitVec.ofNat 8 (g.reg n).tag) ++ leBytes 8 0 ++ g.sr.flatMap fun x => leBytes 4 x.toNat)

/-- A group's divergence extension (R263). -/
def Group.extension (g : Group) : List Byte :=
  (List.range 16).flatMap fun i => match tget? g.joins i with
    | none => leBytes 40 0
    | some k =>
      let (dpc, dmask) := k.dfr.getD (0, 0)
      leBytes 8 k.pend.toNat ++ leBytes 8 k.arr.toNat ++ leBytes 8 dmask.toNat ++
        leBytes 8 (pcWord k.join k.up + (if k.dfr.isSome then 2 ^ 55 else 0) + 2 ^ 56) ++ leBytes 8 (fld dpc.toNat 51 2)

/-- Of two completed batch numbers, the later, counted back from the last batch closed (R263). -/
def laterBatch (closed a b : BitVec 16) : BitVec 16 := if (closed - a).toNat ≤ (closed - b).toNat then a else b

/-- A group from its control block, its extension where there is one, and its register area; what the formats do not hold
stays as the group had it (R249, R263, R264). -/
def Group.load (g : Group) (ctl : List Byte) (ext : Option (List Byte)) (area : List Byte) : Group :=
  let w32 (off : Nat) : W32 := BitVec.ofNat 32 (bytesAt ctl off 4)
  let w64 (off : Nat) : W64 := BitVec.ofNat 64 (bytesAt ctl off 8)
  let stat := bytesAt ctl 12 4
  let splits : Tbl Frag := (List.range 8).filterMap fun i =>
    let d := bytesAt ctl (200 + 16 * i) 8
    if !d.testBit 55 then none
    else
      let f := (tget? g.split i).getD { mask := 0, pc := 0 }
      some (i, f.load (w64 (192 + 16 * i)) (BitVec.ofNat 64 (d % 2 ^ 50 * 4)) (fld d 54 50))
  let joins : Tbl JoinRec := match ext with
    | none => g.joins
    | some bs => (List.range 16).filterMap fun i =>
      let w (k : Nat) : Nat := bytesAt bs (40 * i + 8 * k) 8
      let d := w 3
      if !d.testBit 56 then none
      else some (i, { join := BitVec.ofNat 64 (d % 2 ^ 50 * 4), pend := BitVec.ofNat 64 (w 0), arr := BitVec.ofNat 64 (w 1), up := fld d 54 50
                      dfr := if d.testBit 55 then some (BitVec.ofNat 64 (w 4 % 2 ^ 50 * 4), BitVec.ofNat 64 (w 2)) else none })
  let tags := (ctl.drop 448).take 120
  let flag (l : Nat) : BitVec 5 := BitVec.ofNat 5 (boolBits ((List.range 5).map fun i => (bytesAt ctl (112 + 8 * i) 8).testBit l))
  let batch (b : Batch) (i : Nat) : Batch :=
    let d := w32 (152 + 4 * i)
    let closed := d.extractLsb' 0 16
    let donev := laterBatch closed (d.extractLsb' 16 16) b.donev
    { closed := closed, donev := donev, doner := laterBatch closed b.doner donev }
  let n := g.g + g.c
  { g with
    exec := w64 0, mode := w32 8, handler := stat.testBit 31, pev := BitVec.ofNat 8 (bytesAt ctl 16 1), evm := BitVec.ofNat 8 (bytesAt ctl 20 1)
    hpc := w64 24, hmode := w32 32, hexec := w64 40, preds := (List.range 8).map fun i => w64 (48 + 8 * i)
    flags := (List.range 64).map flag, batches := g.batches.zipIdx.map fun (b, i) => batch b i
    darr := w32 184, garr := w32 188, split := splits, joins := joins
    evd := (List.range 8).map fun i => (w64 (320 + 16 * i), w64 (328 + 16 * i))
    sr := (List.range 64).map fun l => w32 (576 + 4 * l), regs := loadRegs area tags 0 0 n
    badTags := (List.range n).any fun i => tagBroken (bytesAt tags i 1) i g.g }

/-! ## Save areas -/

/-- Where a save lies: in a context's pool, by physical address, or in a park slot, by virtual address. -/
structure Area where
  park : Bool
  ctx : Nat
  base : Nat
  deriving DecidableEq, Repr

/-- The pieces of a range that lie in one 4 KiB page each: offset and length. -/
def pagePieces (base n : Nat) : List (Nat × Nat) :=
  (List.range ((base + n + 4095) / 4096 - base / 4096)).map fun i =>
    let lo := max base ((base / 4096 + i) * 4096)
    (lo - base, min (base + n) ((base / 4096 + i + 1) * 4096) - lo)

/-- Bytes are written to a save area as direct stores. -/
def State.putArea (s : State) (a : Area) (off : Nat) (bs : List Byte) : State :=
  if !a.park then s.writeNow (a.base + off) bs
  else (pagePieces (a.base + off) bs.length).foldl (fun s p =>
    (s.unitWrite a.ctx (a.base + off + p.1) ((bs.drop p.1).take p.2)).1) s

/-- Bytes of a save area; a page of a park slot that does not translate reads as zero. -/
def State.getArea (s : State) (a : Area) (off n : Nat) : State × List Byte :=
  if !a.park then s.readNow (a.base + off) n
  else (pagePieces (a.base + off) n).foldl (fun (st : State × List Byte) p =>
    match st.1.unitRead a.ctx (a.base + off + p.1) p.2 with
    | (s, .ok bs) => (s, st.2 ++ bs)
    | (s, .error _) => (s, st.2 ++ List.replicate p.2 0)) (s, [])

/-- The save area of a team: its park slot where it has one, else its reservation (R108, R257). -/
def State.areaOf (s : State) (team : Nat) (park : Bool) : Area :=
  let t := s.teamAt team
  let eff := (s.gridAt t.grid).eff
  if park then { park := true, ctx := t.ctx, base := eff.parka.toNat + 4096 * eff.psz * t.slot.getD 0 }
  else { park := false, ctx := t.ctx, base := t.save.getD 0 }

/-- The team header (R262): KIND is 0 for a park, 1 for a pre-emption, 2 for a halt snapshot. -/
def State.header (s : State) (team kind : Nat) : List Byte :=
  let t := s.teamAt team
  let gr := s.gridAt t.grid
  let e := gr.eff
  let d := max 1 e.dist
  padTo 4096 (leBytes 2 1 ++ leBytes 1 kind ++ leBytes 1 e.groups ++ leBytes 4 (s.tid t) ++ leBytes 4 t.tix.toNat ++ leBytes 1 e.gregs ++
    leBytes 1 e.cregs ++ leBytes 1 e.scr ++ leBytes 1 e.acc ++ leBytes 8 gr.rcb.toNat ++ leBytes 2 t.core ++ leBytes 1 t.ctx ++
    leBytes 1 (t.tix.toNat % d) ++ leBytes 2 t.live.toNat ++ leBytes 2 (if kind == 0 then 2 ^ e.acc - 1 else t.tspill.toNat) ++
    padTo 16 (t.tiles.map fun k => BitVec.ofNat 8 k) ++ leBytes 4 (tgetD s.districts (s.districtKey t) {}).cd.toNat)

/-- The bytes of a tile, in row-major order. -/
def State.tileBytes (s : State) (core tile : Nat) : List Byte :=
  (List.range 1024).flatMap fun i => leBytes 4 ((tgetD (s.core core).ring tile []).getD i 0).toNat

/-- The resident groups of a team with their slot keys, in ascending GIX. -/
def State.groupsByGix (s : State) (team : Nat) : List (Nat × Group) :=
  (s.groups.filter fun e => e.2.team == team).mergeSort fun a b => a.2.gix ≤ b.2.gix

/-- A group's record is written to its team's save area (R259, R263). -/
def State.saveGroup (s : State) (a : Area) (e : Rcb) (g : Group) : State :=
  let g := g.settle s.time
  s.putArea a (4096 + g.gix * e.recordSize a.park) (g.control ++ (if a.park then [] else g.extension) ++ g.registerArea)

/-- The bytes of a position of a team's tiles: zeros where First-Use has not reached it (R449). -/
def State.ownTile (s : State) (team j : Nat) : List Byte :=
  let t := s.teamAt team
  if t.untouched.contains j then List.replicate 4096 0 else s.tileBytes t.core (t.tiles.getD j 0)

/-- A team is written to its save area (R259, R260, R261): the header, the record of each group that is still there, the scratchpad, and
in a park slot its tiles. -/
def State.saveTeam (s : State) (team kind : Nat) : State :=
  let t := s.teamAt team
  let e := (s.gridAt t.grid).eff
  let park := kind == 0
  let a := s.areaOf team park
  let s := s.putArea a 0 (s.header team kind)
  let s := (s.groupsByGix team).foldl (fun s x => s.saveGroup a e x.2) s
  let s := if e.scr == 0 then s else s.putArea a (e.scratchAt park) (cread t.scratch 0 (32768 * e.scr))
  if park then (List.range t.tiles.length).foldl (fun s j =>
    let (s, bs) := if t.tspill.getLsbD j then s.getArea (s.areaOf team false) (e.tileAt false j) 4096 else (s, s.ownTile team j)
    s.putArea a (e.tileAt true j) bs) s
  else s

/-- The bytes that the spill engine writes for a group (R259). -/
def Group.saveBytes (g : Group) (kind : Nat) : Nat := (if kind == 0 then 1024 else 1664) + g.registerArea.length

/-- The bytes that the spill engine writes for a team, beside its header (R259). -/
def State.saveBytes (s : State) (team kind : Nat) : Nat :=
  let e := (s.gridAt (s.teamAt team).grid).eff
  (s.groupsByGix team).foldl (fun n (_, g) => n + g.saveBytes kind) 0 + 32768 * e.scr +
    (if kind == 0 then 4096 * e.acc else 0)

/-- One group read from a save area. -/
def State.loadGroup (s : State) (a : Area) (e : Rcb) (g : Group) : State × Group :=
  let at' := 4096 + g.gix * e.recordSize a.park
  let (s, ctl) := s.getArea a at' 1024
  let (s, ext) := if a.park then (s, none) else let (s, b) := s.getArea a (at' + 1024) 640; (s, some b)
  let (s, area) := s.getArea a (at' + if a.park then 1024 else 1664) e.q
  (s, g.load ctl ext area)

/-- The scratchpad of a team read from its save area. -/
def State.loadScratch (s : State) (team : Nat) (park : Bool) : State :=
  let t := s.teamAt team
  let e := (s.gridAt t.grid).eff
  if e.scr == 0 then s
  else
    let (s, bs) := s.getArea (s.areaOf team park) (e.scratchAt park) (32768 * e.scr)
    s.setTeam team { s.teamAt team with scratch := cwrite [] 0 bs }

/-! ## Stopping a group at a boundary (R244, R256) -/

/-- Whether a fragment's wait is one at which its group may be saved. -/
def Wait.atBoundary : Wait → Bool
  | .drain | .commit _ | .status _ _ | .resume _ _ _ => false
  | _ => true

/-- Whether a group stands at a boundary of R256: no result outstanding, both counters 0, no instruction under way. -/
def Group.boundary (g : Group) (now : Nat) : Bool :=
  g.ldcnt == 0 && g.stcnt == 0 && g.pending now == 0 && g.split.all fun e => e.2.wait.atBoundary

/-- A group stops for pre-emption, a park or a halt: a waiting XSHF is withdrawn (R410). -/
def Group.stopFor (g : Group) (why : Stop) : Group :=
  { (g.release (fun w => w == .xshf) 0) with stop := why, exchange := none }

/-- A stopped group goes on: a fragment that was stalled on a page fault or a walk issues its instruction again (R256). -/
def Group.goOn (g : Group) : Group :=
  { (g.release (fun w => w.pageFault || w == .walk) 0) with stop := .none }

/-- A restored or released group's MRECVs reach the Plaza again (R408). -/
def Group.mailWaits (g : Group) : List (Nat × Nat) :=
  g.split.filterMap fun (e, f) => match f.wait with | .mrecv b _ _ => some (e, b) | _ => none

end Sys2Proof.Machine
end

