-- ==== Sys2Proof/Machine/Sync.lean ====
section
/-! DEFINITION. Barriers, events, mailboxes, exchange between groups and dependent launch (R393 to R411), with the events of
the Plaza that serve them. -/
namespace Sys2Proof.Machine

/-- A value written to D in the lanes of a fragment's MASK, available at a time (R394). -/
def Group.deliver (g : Group) (mask : W64) (d : Code) (w64 : Bool) (v avail : Nat) : Group :=
  let av := [avail, avail, avail, avail]
  if d == 123#7 then g.writeExec (BitVec.ofNat 64 v) mask av
  else if d.toNat ≥ 120 then g
  else
    let part (k : Nat) : RegVal := .uniform (BitVec.ofNat 32 (v / 2 ^ (32 * k)))
    let val (k : Nat) : RegVal := if mask == fullMask then part k else .general ((List.range 64).map fun l => (part k).lane l)
    (List.range (if w64 then 2 else 1)).foldl (fun g k =>
      g.writeReg { n := d.toNat + k, fmt := if w64 then 3 else 1, cnt := 0, val := val k, mask := mask } av) g

/-- The checks of an instruction of R393 whose D is written later: those of R252 up to Shape. -/
def Ctx.syncCheck (c : Ctx) (ss : List Src) (d : Code) (w64 : Bool) : Except Trap Unit := do
  c.check true ss d w64 [] false
  let _ ← c.result d w64 (if w64 then 3 else 1) 0 (.uni 0) c.f.mask
  .ok ()

/-- A wait of a fragment ends, with a value for D, and it issues from a time on. -/
def State.answer (s : State) (core slot entry : Nat) (d : Code) (w64 : Bool) (v at' : Nat) : State :=
  match s.frag? core slot entry with
  | none => s
  | some (g, f) =>
    s.setGroup core slot (((((g.settle s.time).deliver f.mask d w64 v at').fenceAt f.lastIssue at').setWait entry .none).delay entry at')

/-! ## Barriers (R395 to R398) -/

/-- BAR (R396): an arrival, which is a release, and a wait. -/
def execBar (o : Operands) (s : State) : Host.Outcome State Fault Refusal :=
  runState 0xC0 o ctlTiming s fun c =>
    let hold := (c.g.barHold ++ s.accessesOf c.g.uid).eraseDups
    let g := c.blocked 0xC0 o { c.g with barSet := c.g.barSet ||| c.f.mask, barHold := hold } .bar
    .ok (.stall ((s.afterIssue c o 1 g).noteArrivals c.g.team))

/-- Whether what a team's groups have arrived with at BAR is not performed yet (R237): the accesses that a group's arrival waits for, and
every access of a group that has exited. -/
def State.barWaits (s : State) (team : Nat) : Bool :=
  let gs := s.liveGroups team
  (gs.any fun g => g.barHold.any fun a => (tget? s.accs a).isSome) ||
    s.accs.any fun (_, a) => a.team == team && (a.ldc || a.op != .load) && gs.all fun g => g.uid != a.guid

/-- BARRIER_RELEASE (R396): every group that has not exited has arrived, with its accesses before the BAR out of their
counters; the fragments resume 16 cycles after the last arrival. -/
def execBarrierRelease (team : Nat) (s : State) : Host.Outcome State Fault Refusal :=
  let t := s.teamAt team
  match t.barAt with
  | none => .next s
  | some t0 =>
    if s.barWaits team then .next s
    else
      let s := s.setTeam team { t with barAt := none }
      .next (s.mapTeam team fun g =>
        { (g.release (fun w => w == .bar) (t0 + fixedCycles 16)) with barSet := 0, barHold := [] })

/-- DARRIVE and GARRIVE (R397, R398): the group's new arrival count goes to D; one beyond the generation under way is not
ready. -/
def arriveInstr (op : Nat) (grid : Bool) (o : Operands) (s : State) : Host.Outcome State Fault Refusal :=
  runState op o (fun _ => ⟨.ctl, 4, 1, true⟩) s fun c => do
    let t := s.teamOf c.g
    let count := if grid then c.g.garr else c.g.darr
    let done := if grid then (s.gridAt t.grid).cg else (tgetD s.districts (s.districtKey t) {}).cd
    if count != done then .ok (.stall (s.waitFrag c (if grid then .garr else .darr)))
    else do
      c.check true [] o.d false [] false
      let e ← c.result o.d false 1 0 (.uni (count + 1).toNat) c.f.mask
      let s := if grid then s.setNr c.g.team else s
      let (s, g) := s.arriveAt grid (e.apply c o.q c.g) c.f.mask c.core
      .ok (.issued s ((c.blocked op o g .none).delay c.entry (c.now + 4 * c.cyc)) true)

/-- DARRIVE (R397). -/
def execDarrive (o : Operands) (s : State) : Host.Outcome State Fault Refusal := arriveInstr 0xC1 false o s

/-- GARRIVE (R398). -/
def execGarrive (o : Operands) (s : State) : Host.Outcome State Fault Refusal := arriveInstr 0xC3 true o s

/-- DWAIT and GWAIT (R397, R398), with the generations completed, when the last of them was, and the cycles of R214 from then on: the
fragment waits for its generation, or goes on no earlier than that. -/
def Ctx.awaitBarrier (c : Ctx) (op : Nat) (o : Operands) (w : W32 → Wait) (done : W32) (at' cycles : Nat) : Group :=
  let v := BitVec.ofNat 32 (c.single o o.a)
  if done == v then (c.blocked op o c.g .none).delay c.entry (at' + fixedCycles cycles)
  else if (done - v).toNat < 2 ^ 31 then c.advance op o c.g
  else c.blocked op o c.g (w v)

/-- DWAIT (R397). -/
def execDwait (o : Operands) (s : State) : Host.Outcome State Fault Refusal :=
  runState 0xC2 o ctlTiming s fun c => do
    c.check true [raw32 o.a] 120#7 false [] false
    let d := tgetD s.districts (s.districtKey (s.teamOf c.g)) {}
    .ok (.issued s (c.awaitBarrier 0xC2 o .dwait d.cd d.cdAt 320) true)

/-- GWAIT (R398). -/
def execGwait (o : Operands) (s : State) : Host.Outcome State Fault Refusal :=
  runState 0xC4 o ctlTiming s fun c => do
    c.check true [raw32 o.a] 120#7 false [] false
    let g := s.gridAt (s.teamOf c.g).grid
    .ok (.issued s (c.awaitBarrier 0xC4 o .gwait g.cg g.cgAt 2560) true)

/-- DISTRICT_ARRIVAL (R397): the Plaza counts an arrival, which may complete a generation, and with it events of kind 1. -/
def execDistrictArrival (message : Nat) (s : State) : Host.Outcome State Fault Refusal :=
  match tget? s.msgs message with
  | some m =>
    match m.kind with
    | .district team _ => if s.ready message m then .next (((s.dropMsg message).districtCheck team m.sent).firePlaza) else .next s
    | _ => .next s
  | none => .next s

/-- GRID_ARRIVAL (R398). -/
def execGridArrival (message : Nat) (s : State) : Host.Outcome State Fault Refusal :=
  match tget? s.msgs message with
  | some m =>
    match m.kind with
    | .grid team _ =>
      if s.ready message m then .next (((s.dropMsg message).gridBarrierCheck (s.teamAt team).grid m.sent).firePlaza) else .next s
    | _ => .next s
  | none => .next s

/-! ## Events (R399 to R406) -/

/-- A descriptor as WAITANY loads it (R400): one with a reserved KIND or a nonzero reserved bit is invalid. -/
def loadDescriptor (d0 d1 : W64) : W64 × W64 :=
  let p := d0.toNat
  let used := match fld p 63 60 with
    | 1 | 2 => 32
    | 3 => 20
    | 4 => 8
    | 5 => 56
    | 6 => 10
    | _ => 0
  if used == 0 || fld p 59 56 != 0 || p % 2 ^ 56 ≥ 2 ^ used || d1.toNat ≥ 2 ^ 52 || d1.toNat % 4 != 0 then (0, 0) else (d0, d1)

/-- The descriptors and PEV of a group after WAITANY has loaded those that a mask selects (R402). -/
def State.loadEvents (s : State) (g : Group) (base : Nat) (mask : BitVec 8) : Group :=
  (List.range 8).foldl (fun g k =>
    if !mask.getLsbD k then g
    else
      let w (i : Nat) : W64 := BitVec.ofNat 64 (s.scratchRead g.team (base + 16 * k + 8 * i) 8)
      let d := loadDescriptor (w 0) (w 1)
      if d == g.evd.getD k (0, 0) then g
      else { g with evd := lset g.evd k d, pev := g.pev &&& ~~~ BitVec.ofNat 8 (2 ^ k) }) g

/-- WAITANY (R402): it loads the selected descriptors, and resumes where an unmasked event is pending; else the arming
sample comes within 400 cycles. -/
def execWaitany (o : Operands) (s : State) : Host.Outcome State Fault Refusal :=
  runState 0xCA o ctlTiming s fun c => do
    c.syncCheck [raw32 o.a, raw32 o.b] o.d false
    if !c.g.converged then .error { cause := 0x0B }
    else
      let base := c.single o o.a
      let mask := BitVec.ofNat 8 (c.single o o.b)
      let size := s.scratchSize c.g.team
      if base % 16 != 0 then .error (.misaligned 255 (BitVec.ofNat 64 base))
      else
        match (List.range 8).find? fun k => mask.getLsbD k && base + 16 * k + 16 > size with
        | some k => .error (.protection 7 255 (BitVec.ofNat 64 (base + 16 * k)))
        | none =>
          let g := { (s.loadEvents c.g base mask) with evm := mask, armed := false }
          let w : Wait := if g.pev &&& mask != 0 then .resume o.d (c.now + 30 * c.cyc) false
            else .resume o.d (c.now + fixedCycles 400) true
          .ok (.issued s (c.blocked 0xCA o g w) true)

/-- Resume(k) of R402: the lowest pending unmasked event's bit clears, D takes its number and the fragment goes to its
handler; a team that was eligible to park is so no longer. -/
def State.resumeEvent (s : State) (core slot entry : Nat) (d : Code) : State :=
  match s.frag? core slot entry with
  | none => s
  | some (g, f) =>
    match (List.range 8).find? fun k => (g.pev &&& g.evm).getLsbD k with
    | none => s
    | some k =>
      let g := ((g.settle s.time).deliver f.mask d false k s.time).setWait entry .none
      let g := { g with pev := g.pev &&& ~~~ BitVec.ofNat 8 (2 ^ k), armed := false, parkSince := none }
      let s := s.setGroup core slot (g.goTo entry (g.evd.getD k (0, 0)).2)
      let t := s.teamAt g.team
      if t.state == .parkEligible then s.setTeam g.team { t with state := .resident } else s

/-- The Plaza acts on a waiting group: the arming sample, a resumption that is due, or the firing of one descriptor whose
condition holds. -/
def State.plazaGroup (s : State) (core slot index : Nat) : State :=
  match s.group? core slot with
  | none => s
  | some g =>
    match g.split.find? fun e => match e.2.wait with | .event _ => true | .resume _ _ _ => true | _ => false with
    | none => s
    | some (e, f) =>
      match f.wait with
      | .resume d t true =>
        if s.time < t then s
        else
          let g := { g with armed := true, pev := g.pev ||| s.eventsTrue g.team g }
          if g.pev &&& g.evm != 0 then (s.setGroup core slot g).resumeEvent core slot e d
          else s.setGroup core slot ((g.setWait e (.event d)).notePark s.time)
      | .resume d t false =>
        if t ≤ s.time then s.resumeEvent core slot e d
        else if s.eventTrue g.team g (g.evd.getD index (0, 0)).1 then
          s.setGroup core slot (g.fire (BitVec.ofNat 8 (2 ^ index)) (s.teamAt g.team).state.latches s.time)
        else s
      | _ =>
        if index < 8 && s.eventTrue g.team g (g.evd.getD index (0, 0)).1 then
          s.setGroup core slot (g.fire (BitVec.ofNat 8 (2 ^ index)) (s.teamAt g.team).state.latches s.time)
        else s

/-- A descriptor of the groups that left a slot for their team's save fires at the Plaza (R136, R404). -/
def State.plazaKept (s : State) (core slot index : Nat) : State :=
  let key := slotKey core slot
  let fire (g : Group) : Group :=
    if index < 8 && s.eventTrue g.team g (g.evd.getD index (0, 0)).1 then g.fire (BitVec.ofNat 8 (2 ^ index)) true s.time else g
  let s := { s with teams := tmap s.teams fun _ t => { t with kept := tmod t.kept key fire } }
  (tkeys s.teams fun _ t => t.state == .parked).foldl (fun s k => s.wakeParked k) s

/-- EVENT_FIRING (R403). -/
def execEventFiring (core slot index : Nat) (s : State) : Host.Outcome State Fault Refusal :=
  .next ((s.plazaGroup core slot index).plazaKept core slot index)

/-- Whether a group has an armed timer descriptor in a place (R401). -/
def Group.timerAt (g : Group) (index : Nat) : Bool := g.armed && fld (g.evd.getD index (0, 0)).1.toNat 63 60 == 5

/-- TIMER_DEADLINE (R401): TIME has reached an armed timer's DEADLINE. -/
def execTimerDeadline (core slot index : Nat) (s : State) : Host.Outcome State Fault Refusal :=
  let here := match s.group? core slot with | some g => g.timerAt index | none => false
  let s' := if here then s.plazaGroup core slot index else s
  let away := s'.teams.any fun e => match tget? e.2.kept (slotKey core slot) with | some g => g.timerAt index | none => false
  .next (if away then s'.plazaKept core slot index else s')

/-- EVSET (R405). -/
def execEvset (o : Operands) (s : State) : Host.Outcome State Fault Refusal :=
  runState 0xC8 o ctlTiming s fun c => do
    c.check true [raw32 o.a, raw32 o.b] 120#7 false [] false
    let s := s.setNr c.g.team
    let s := s.send (.flag (s.teamOf c.g).ctx (c.single o o.a % 1024) (c.single o o.b != 0)) c.core plazaSlice true
      (s.accessesOf c.g.uid)
    .ok (.issued s (c.advance 0xC8 o c.g) true)

/-- FLAG_SET (R405): the Plaza sets or clears the flag, and armed descriptors fire. -/
def execFlagSet (message : Nat) (s : State) : Host.Outcome State Fault Refusal :=
  match tget? s.msgs message with
  | none => .next s
  | some m =>
    match m.kind with
    | .flag ctx k v =>
      if !s.ready message m then .next s
      else
        let s := s.dropMsg message
        let c := s.ctxAt ctx
        let left := c.flags.filter fun j => j != k
        .next ((s.setCtx ctx { c with flags := if v then (left ++ [k]).mergeSort (· ≤ ·) else left }).firePlaza)
    | _ => .next s

/-- EVCLR (R406). -/
def execEvclr (o : Operands) (s : State) : Host.Outcome State Fault Refusal :=
  runGroup 0xC9 o ctlTiming s fun c => do
    c.check true [raw32 o.a] 120#7 false [] false
    let v := c.single o o.a
    let evd := c.g.evd.zipIdx.map fun (d, k) => if (v / 256).testBit k then (d.1 &&& BitVec.ofNat 64 (2 ^ 60 - 1), d.2) else d
    .ok (c.advance 0xC9 o { c.g with pev := c.g.pev &&& ~~~ BitVec.ofNat 8 v, evd := evd }, true)

/-! ## Mailboxes (R407, R408) -/

/-- MSEND (R407): the message leaves once the release holds; its status comes back to D. -/
def execMsend (o : Operands) (s : State) : Host.Outcome State Fault Refusal :=
  runState 0xCC o ctlTiming s fun c => do
    c.syncCheck [raw32 o.a, ⟨o.b, true, [], .zext⟩] o.d false
    let s := s.setNr c.g.team
    let id := s.ids
    let s := s.send (.mail (s.teamOf c.g).ctx (c.single o o.a % 256) (BitVec.ofNat 64 (c.single o o.b true)) c.core c.slot c.entry)
      c.core plazaSlice true (s.accessesOf c.g.uid)
    .ok (.issued s (c.blocked 0xCC o c.g (.status id o.d)) true)

/-- A fragment that waits at a mailbox takes its oldest message (R408), which reaches D 320 cycles later. -/
def State.takeMail (s : State) (ctx box core slot entry : Nat) : State :=
  match s.frag? core slot entry, tgetD (s.ctxAt ctx).boxes box [] with
  | some (_, f), v :: rest =>
    match f.wait with
    | .mrecv _ d _ =>
      let c := s.ctxAt ctx
      (s.setCtx ctx { c with boxes := tset c.boxes box rest }).answer core slot entry d true v.toNat (s.time + fixedCycles 320)
    | _ => s
  | _, _ => s

/-- The oldest waiting MRECV of a mailbox is served while it holds a message (R408). -/
def State.serveBox (s : State) (ctx box : Nat) : State :=
  let c := s.ctxAt ctx
  match tgetD c.boxWaits box [], tgetD c.boxes box [] with
  | (core, slot, entry) :: rest, _ :: _ =>
    (s.setCtx ctx { c with boxWaits := tset c.boxWaits box rest }).takeMail ctx box core slot entry
  | _, _ => s

/-- A fragment's MRECV reaches the Plaza: it joins the order of its mailbox (R408). -/
def State.enterBox (s : State) (ctx box core slot entry : Nat) : State :=
  let c := s.ctxAt ctx
  (s.setCtx ctx { c with boxWaits := tset c.boxWaits box (tgetD c.boxWaits box [] ++ [(core, slot, entry)]) }).serveBox ctx box

/-- MRECV (R408). -/
def execMrecv (o : Operands) (s : State) : Host.Outcome State Fault Refusal :=
  runState 0xCD o ctlTiming s fun c => do
    c.syncCheck [raw32 o.a] o.d true
    let box := c.single o o.a % 256
    let g := c.blocked 0xCD o c.g (.mrecv box o.d c.now)
    let s := s.afterIssue c o 1 g
    .ok (.stall (s.enterBox (s.teamOf c.g).ctx box c.core c.slot c.entry))

/-- Whether an older message of a group to a mailbox is still on its way: its messages arrive in order (R407). -/
def State.earlierMail (s : State) (message ctx box core slot : Nat) : Bool :=
  s.msgs.any fun (k, n) => k < message && match n.kind with
    | .mail x b _ co sl _ => x == ctx && b == box && co == core && sl == slot
    | _ => false

/-- MAILBOX_MESSAGE_ARRIVAL (R407, R408): a full mailbox drops the message; else armed descriptors fire on it, and then the
oldest waiting MRECV takes it. The sender's D takes the status. -/
def execMailboxMessageArrival (message : Nat) (s : State) : Host.Outcome State Fault Refusal :=
  match tget? s.msgs message with
  | none => .next s
  | some m =>
    match m.kind with
    | .mail ctx box v core slot entry =>
      if !s.ready message m || s.earlierMail message ctx box core slot then .next s
      else
        let s := s.dropMsg message
        let c := s.ctxAt ctx
        let held := tgetD c.boxes box []
        let full := held.length ≥ 8
        let s := if full then s
          else ((s.setCtx ctx { c with boxes := tset c.boxes box (held ++ [v]) }).firePlaza).serveBox ctx box
        match s.frag? core slot entry with
        | some (_, f) =>
          match f.wait with
          | .status k d => .next (if k == message then s.answer core slot entry d false (if full then 1 else 0) (max s.time (m.sent + fixedCycles 320)) else s)
          | _ => .next s
        | none => .next s
    | _ => .next s

/-! ## XSHF (R409, R410) -/

/-- The timing of XSHF (R409). -/
def xshfTiming (_ : Ctx) : Timing := ⟨.valu, 24, 1, false⟩

/-- The resident group of a team with a GIX, and its slot key. -/
def State.groupOf (s : State) (team gix : Nat) : Option (Nat × Group) := s.groups.find? fun e => e.2.team == team && e.2.gix == gix

/-- XSHF (R409): it reads all 64 lanes of A and waits for its partner's; a partner that can never come traps (R410). -/
def execXshf (o : Operands) (s : State) : Host.Outcome State Fault Refusal :=
  runState 0xCE o xshfTiming s fun c =>
    if c.g.exchange.isSome then .ok (.stall (s.waitFrag c .xshf))
    else do
      c.check true [raw32 o.a, raw32 o.b] o.d false
      if isReg o.d && o.d.toNat ≥ c.g.g then .error .shape
      else
        let partner := c.single o o.b
        let groups := (s.gridAt (s.teamOf c.g).grid).eff.groups
        if partner == c.g.gix || partner ≥ groups || (s.groupOf c.g.team partner).isNone then .error { cause := 0x0C }
        else
          let (fmt, cnt) := (c.tag o.a).getD (c.et, 0)
          let lanes := (List.range 64).map fun l => BitVec.ofNat 32 (c.value (raw32 o.a) o l c.now)
          let x : Exchange :=
            { entry := c.entry, partner := partner, rev := o.fn == 1#5, dst := o.d, mask := c.mask
              src := { fmt := fmt, cnt := cnt, val := if c.isUniform o.a then .uniform (lanes.getD 0 0) else .general [] }
              lanes := lanes, next := c.next 0xCE o, since := c.now }
          .ok (.stall (s.afterIssue c o 4 { (c.g.setWait c.entry .xshf) with exchange := some x }))

/-- A group after its exchange with what its partner sent (R409): D is available at a time, and the fragment goes on. -/
def Group.exchanged (g : Group) (x y : Exchange) (at' now : Nat) : Group :=
  let g := { (g.settle now) with exchange := none }
  let uni := (match y.src.val with | .uniform _ => true | _ => false) && x.mask == fullMask
  let lane (l : Nat) : W32 := y.lanes.getD (if x.rev then 63 - l else l) 0
  let val : RegVal := if uni then .uniform (lane 0) else .general ((List.range 64).map lane)
  let g := if x.dst.toNat < 120 && x.mask != 0 then
      g.writeReg { n := x.dst.toNat, fmt := y.src.fmt, cnt := y.src.cnt, val := val, mask := x.mask } [at', at', at', at']
    else g
  (((g.release (fun w => w == .xshf) 0).standAt x.entry x.next).delay x.entry at').fenceAt x.since at'

/-- XSHF_MATCH (R409): two waiting exchanges that name each other pair; each side writes D 24 cycles after the later issue. -/
def execXshfMatch (core slot : Nat) (s : State) : Host.Outcome State Fault Refusal :=
  match s.group? core slot with
  | none => .next s
  | some g =>
    match g.exchange with
    | none => .next s
    | some x =>
      match s.groupOf g.team x.partner with
      | none => .next s
      | some (key, p) =>
        match p.exchange with
        | none => .next s
        | some y =>
          if y.partner != g.gix then .next s
          else
            let at' := max x.since y.since + 24 * s.cyc core
            let s := s.setGroup core slot (g.exchanged x y at' s.time)
            .next { s with groups := tset s.groups key (p.exchanged y x at' s.time) }

/-- XSHF_TIMEOUT (R410): the partner has exited, or 65,536 cycles have passed; the XSHF takes the Exchange Timeout trap. -/
def execXshfTimeout (core slot : Nat) (s : State) : Host.Outcome State Fault Refusal :=
  match s.group? core slot with
  | none => .next s
  | some g =>
    match g.exchange with
    | none => .next s
    | some x =>
      let away := (s.teamAt g.team).kept.any fun e => e.2.gix == x.partner
      let gone := (s.groupOf g.team x.partner).isNone && !away
      if gone || x.since + 65536 * s.cyc core ≤ s.time then
        let pc := match tget? g.split x.entry with | some f => f.pc | none => 0
        let s := s.setGroup core slot { (g.release (fun w => w == .xshf) 0) with exchange := none }
        .next (s.trapTo core slot x.entry { cause := 0x0C } pc)
      else .next s

/-! ## TRIG (R190, R411) -/

/-- TRIG (R411): the group arrives, and its fragment waits. -/
def execTrig (o : Operands) (s : State) : Host.Outcome State Fault Refusal :=
  runState 0xD0 o ctlTiming s fun c =>
    let g := c.blocked 0xD0 o { c.g with trigSet := c.g.trigSet ||| c.f.mask } .trig
    .ok (.stall ((s.afterIssue c o 1 g).noteArrivals c.g.team))

/-- What a team has issued that its TRIG waits for (R190): direct stores and atomics not performed, and engine operations
whose writes are not. -/
def State.trigPending (s : State) (team : Nat) : List Nat :=
  (tkeys s.accs fun _ a => a.team == team && a.op != .load) ++ tkeys s.ops fun _ o => o.team == team && !o.vDone

/-- TRIG_TAKEN (R411): every group has arrived; once no commit of the task runs, the epoch flips and a commit starts, and the
fragments resume 16 cycles after the last arrival. -/
def execTrigTaken (team : Nat) (s : State) : Host.Outcome State Fault Refusal :=
  let t := s.teamAt team
  match t.trigAt with
  | none => .next s
  | some t0 =>
    if (s.taskAt t.task).commit.isSome || t.state.over then .next s
    else
      let wait := match t.trigWait with | some w => some w | none => some (s.trigPending team)
      let s := s.setTeam team { t with trigAt := none, trigWait := wait }
      let s := s.mapTeam team fun g => { (g.release (fun w => w == .trig) (t0 + fixedCycles 16)) with trigSet := 0 }
      .next ((s.setNr team).startCommit team t.core 0 causeTrig)

/-- TRIG_EFFECT (R190): the writes before the TRIG are performed and its commit is complete; the team counts, once, for
dependent launch (R68, R123). -/
def execTrigEffect (team : Nat) (s : State) : Host.Outcome State Fault Refusal :=
  let t := s.teamAt team
  match t.trigWait with
  | none => .next s
  | some ids =>
    let left := ids.any fun k => (tget? s.accs k).isSome || (match tget? s.ops k with | some o => !o.vDone | none => false)
    if t.triggered || !t.trigDone || left then .next s
    else
      let g := s.gridAt t.grid
      let s := s.setTeam team { t with triggered := true }
      .next (s.setGrid t.grid { g with triggered := g.triggered ++ [t.tix.toNat] })

end Sys2Proof.Machine
end

