-- ==== Sys2Proof/Machine/Park.lean ====
section
/-! DEFINITION. Readiness and release of group slots (R133, R134, R215), parking (R109, R136, R137), pre-emption (R138, R139,
R256 to R259), the debugger's halt (R260), the accumulator tiles that stay behind (R265), and array errors (R250). -/
namespace Sys2Proof.Machine

/-! ## Slots and registers -/

/-- Whether a version line that has left a core's L1 stands at its home, whose displacement buffer is full (R187): the way it held is not
empty yet. -/
def State.emptying (s : State) (core : Nat) : Bool :=
  s.msgs.any fun (_, m) => match m.kind with
    | .version v => m.core == core && (s.slice m.slice).versionWaits v.line v.task v.epoch
    | _ => false

/-- GROUP_READY (R84, R133, R218, R259): the creation or restore delay of a group has passed, its cluster is awake, and the ways that its
team's scratchpad takes are empty. -/
def execGroupReady (core slot : Nat) (s : State) : Host.Outcome State Fault Refusal :=
  match s.group? core slot with
  | none => .next s
  | some g => if g.readyAt ≤ s.time && !(s.cluster (core / 8)).ret && !s.emptying core then .next (s.setGroup core slot { g with ready := true }) else .next s

/-- Whether an exited group still awaits results (R134). -/
def State.awaits (s : State) (w : Withheld) : Bool :=
  w.until' > s.time || s.accs.any fun (_, a) => a.guid == w.guid && a.ldc

/-- REGISTER_RELEASE (R134, R141): an exited group's results have returned; with it, what stopped teams of the core held until their
accesses drained is free. -/
def execRegisterRelease (core slot : Nat) (s : State) : Host.Outcome State Fault Refusal :=
  .next ({ s with withheld := s.withheld.filter fun w => !(w.core == core && w.slot == slot && !s.awaits w) }.releaseDrained core)

/-- SWITCH_MARKER_RELEASE (R215): no result is outstanding; the cycles since the marked issue are counted (R97). -/
def execSwitchMarkerRelease (core slot : Nat) (s : State) : Host.Outcome State Fault Refusal :=
  match s.group? core slot with
  | none => .next s
  | some g => if g.parkedAt.isSome && g.outstanding s.time == 0 then .next (s.foldCounters.setGroup core slot { g with parkedAt := none }) else .next s

/-- CHIPLET_ARRAY_UNCORRECTABLE (R250): an asynchronous error trap ends the group's task. -/
def execChipletArrayUncorrectable (core slot : Nat) (s : State) : Host.Outcome State Fault Refusal :=
  match s.group? core slot with
  | none => .next s
  | some g =>
    let pc := match g.boundaryEntry with | some (_, f) => f.pc.toNat | none => 0
    .next ((s.tally core 13 1).errorTrap core slot g { cause := 0x23, flags := 8, pc := pc })

/-! ## Lazily held tiles (R265, R266) -/

/-- Whether a team holds tiles of its core lazily. -/
def State.lazy (s : State) (team : Nat) : Bool := (s.teamAt team).lazyTiles != []

/-- A tile of zeros: +0 in each element. -/
def zeroTile : List W32 := List.replicate 1024 0

/-- A core with a tile of its ring replaced. -/
def Core.setTile (k : Core) (tile : Nat) (x : List W32) : Core := { k with ring := tset k.ring tile x }

/-- Some of a team's tiles, by position, are written to its reservation, with their TSPILL bits (R265); ACCSPL counts them
where First-Use writes them (R267). A tile that First-Use has not reached is zero (R449). -/
def State.spillTiles (s : State) (team : Nat) (js : List Nat) (firstUse : Bool) : State :=
  let t := s.teamAt team
  let e := (s.gridAt t.grid).eff
  let a := s.areaOf team false
  let s := js.foldl (fun s j => s.putArea a (e.tileAt false j) (s.ownTile team j)) s
  let bits := js.foldl (fun m j => m ||| BitVec.ofNat 16 (2 ^ j)) t.tspill
  let s := s.setTeam team { t with tspill := bits, untouched := t.untouched.filter fun j => !js.contains j }
  let s := s.putArea a 30 (leBytes 2 bits.toNat)
  let k := s.core t.core
  let s := if firstUse then s.setCore t.core { k with accspl := k.accspl + BitVec.ofNat 32 js.length } else s
  s.releaseRing t.core

/-- Every tile position of a team. -/
def Team.positions (t : Team) : List Nat := List.range t.tiles.length

/-- Every lazily held tile of the device is spilled (R266). -/
def State.spillAll (s : State) : State :=
  (tkeys s.teams fun _ t => t.formerTiles != []).foldl (fun s k => s.spillTiles k (s.teamAt k).formerTiles false) s

/-! ## Scratchpads in use (R422) -/

/-- Whether an engine operation still reads or writes its team's scratchpad. -/
def OpKind.scratch : OpKind → Bool
  | .cpy f t _ _ _ => f || t
  | .stage _ _ _ _ _ _ _ => true
  | .gath _ _ _ _ _ _ _ => true
  | .gcsr _ _ _ _ _ _ _ _ => true
  | .mma _ _ _ _ _ _ _ _ _ scr _ => scr
  | .epi t _ _ _ _ _ _ _ => t
  | .decode _ _ _ _ => true
  | .dchk _ _ _ => true
  | _ => false

/-- Whether an engine operation of the team, or a CPYM or STX toward it, still uses its scratchpad (R422). -/
def State.scratchBusy (s : State) (team : Nat) : Bool :=
  (s.teamAt team).inbound != 0 || s.ops.any fun (_, o) => o.team == team && !o.vDone && o.kind.scratch

/-! ## Leaving a core -/

/-- The moment at which the spill engine has written a team, at 64 bytes a cycle (R259). -/
def State.spillEnd (s : State) (team kind : Nat) : Nat :=
  s.time + (s.saveBytes team kind + 63) / 64 * s.cyc (s.teamAt team).core

/-- A team whose groups have all stopped begins its save: its L1's version lines go home (R139), and its boost requests
end (R355). -/
def State.beginSave (s : State) (team : Nat) (state : TeamState) (kind : Nat) : State :=
  let t := s.teamAt team
  let s := s.setTeam team { t with state := state, spillUntil := s.spillEnd team kind, stoppedAt := s.time }
  let s := s.mapTeam team fun g => { g with boost := false, parkSince := none }
  s.sendVersions t.core fun v => v.task == t.task

/-- A saved group leaves its core: it is kept for its team's return, and its slot and registers are freed (R134). -/
def State.leaveGroup (s : State) (key : Nat) : State :=
  match tget? s.groups key with
  | none => s
  | some g =>
    let t := s.teamAt g.team
    ((s.setTeam g.team { t with kept := tset t.kept key (g.settle s.time) }).leaveWaiters key).dropGroup key

/-- A saved team leaves its core: its groups are kept for its return, and its slots, registers and scratchpad are freed
(R134, R136, R259). -/
def State.leaveCore (s : State) (team : Nat) : State := ((s.teamGroups team).foldl (fun s k => s.leaveGroup k) s).freeUnits team

/-- The groups of a pre-empted team that the spill engine has written by now, in ascending GIX, leave their core (R259 step 3). -/
def State.leaveWritten (s : State) (team : Nat) : State :=
  let t := s.teamAt team
  let written := t.kept.foldl (fun n (_, g) => n + g.saveBytes 1) 0
  ((s.groupsByGix team).foldl (fun (st : State × Nat) (key, g) =>
    let n := st.2 + g.saveBytes 1
    if t.stoppedAt + (n + 63) / 64 * s.cyc t.core ≤ s.time then
      ((st.1.saveGroup (st.1.areaOf team false) (st.1.gridAt t.grid).eff g).leaveGroup key, n)
    else (st.1, n)) (s, written)).1

/-- A group goes on after a stop: its MRECVs reach the Plaza again. -/
def State.goOnGroup (s : State) (key : Nat) : State :=
  match tget? s.groups key with
  | none => s
  | some g =>
    let s := { s with groups := tset s.groups key (g.goOn.notePark s.time) }
    g.mailWaits.foldl (fun s (e, b) => s.enterBox (s.teamAt g.team).ctx b (key / 128) (key % 128) e) s

/-- The groups of a team that stopped for a reason go on. -/
def State.goOnTeam (s : State) (team : Nat) (why : Stop) : State :=
  (tkeys s.groups fun _ g => g.team == team && g.stop == why).foldl (fun s k => s.goOnGroup k) s

/-- A team's groups that stand at a boundary stop (R256). -/
def State.stopGroups (s : State) (team : Nat) (why : Stop) : State :=
  (tkeys s.groups fun _ g => g.team == team && g.stop == .none && g.boundary s.time).foldl (fun s k =>
    let s := s.leaveWaiters k
    { s with groups := tmod s.groups k fun g => (g.settle s.time).stopFor why }) s

/-- Whether every resident group of a team has stopped for a reason. -/
def State.allStopped (s : State) (team : Nat) (why : Stop) : Bool :=
  (s.groups.any fun e => e.2.team == team) && s.groups.all fun e => e.2.team != team || e.2.stop == why

/-! ## Parking (R108, R109, R136) -/

/-- The key of a park area's occupied slots: its context and address. -/
def State.parkKey (s : State) (t : Team) : Nat := t.ctx * 2 ^ 64 + (s.gridAt t.grid).eff.parka.toNat

/-- The members of a team's district that have not retired. -/
def State.parkUnit (s : State) (team : Nat) : List Nat := (s.districtOf team).filter fun k => !(s.teamAt k).state.over

/-- PARK_ELIGIBLE (R109): every group of the team has waited PARKT cycles. -/
def execParkEligible (team : Nat) (s : State) : Host.Outcome State Fault Refusal :=
  let t := s.teamAt team
  let parkt := (s.gridAt t.grid).eff.parkt
  let gs := s.groupsByGix team
  let ok := gs != [] && gs.all fun (_, g) => g.stop == .none && match g.parkSince with
    | some since => since + parkt * s.cyc t.core ≤ s.time
    | none => false
  if t.state == .resident && parkt != 0 && ok then .next (s.setTeam team { t with state := .parkEligible }) else .next s

/-- A team takes the lowest free slot of its park area, if one is free (R108). -/
def State.takeSlot (s : State) (team : Nat) : Option State :=
  let t := s.teamAt team
  let key := s.parkKey t
  let used := tgetD s.parkAreas key []
  match (List.range (used.length + 1)).find? fun i => !used.contains i with
  | none => none
  | some i =>
    if i ≥ (s.gridAt t.grid).eff.pslots then none
    else some { (s.setTeam team { t with slot := some i }) with parkAreas := tset s.parkAreas key (used ++ [i]) }

/-- A team's groups have their descriptors armed at the Plaza, which latches from here on, or hold them no more. -/
def State.armTeam (s : State) (team : Nat) (state : TeamState) : State :=
  (s.setTeam team { s.teamAt team with state := state }).mapTeam team fun g => { g with latch := 0 }

/-- PLAZA_PARK_ARM (R136 step 2): every member of the district is eligible, and each takes a slot; without slots the teams
stay resident (R109). -/
def execPlazaParkArm (team : Nat) (s : State) : Host.Outcome State Fault Refusal :=
  let unit := s.parkUnit team
  if unit == [] || !(unit.all fun k => (s.teamAt k).state == .parkEligible) then .next s
  else
    match unit.foldlM (fun s k => s.takeSlot k) s with
    | some s' => .next (unit.foldl (fun s k => s.armTeam k .parkArmed) s')
    | none => .next (unit.foldl (fun s k => s.setTeam k { s.teamAt k with state := .resident }) s)

/-- Whether a team's core answers Cancel to Park-go (R136 step 3): a group is not waiting any more, an unmasked event is
pending, or the park slot does not translate. -/
def State.parkCancels (s : State) (team : Nat) : Bool :=
  let t := s.teamAt team
  let a := s.areaOf team true
  (s.groupsByGix team).any (fun (_, g) => g.pev &&& g.evm != 0 || g.stop != .none ||
    g.split.all fun e => match e.2.wait with | .event _ => false | _ => true) ||
  (pagePieces a.base ((s.gridAt t.grid).eff.saveSize true)).any fun p => match s.xlateNow a.ctx (a.base + p.1) true with
    | .ok (.peer _ _) => true
    | .ok _ => false
    | .error _ => true

/-- A cancelled park: the slot is free, the team stays resident, and what the Plaza latched reaches its groups. -/
def State.cancelPark (s : State) (team : Nat) : State :=
  let s := s.freePark team
  let s := s.setTeam team { s.teamAt team with state := .resident }
  s.mapTeam team fun g => { (g.fire g.latch false s.time) with latch := 0 }

/-- PARK_GO (R136 steps 3 and 4): any member's pending event cancels the park; otherwise every member commits to it and its
spill starts. -/
def execParkGo (team : Nat) (s : State) : Host.Outcome State Fault Refusal :=
  let unit := s.parkUnit team
  if unit == [] || !(unit.all fun k => (s.teamAt k).state == .parkArmed) then .next s
  else if unit.any s.parkCancels then .next (unit.foldl (fun s k => s.cancelPark k) s)
  else .next (unit.foldl (fun s k => (s.mapTeam k fun g => (g.settle s.time).stopFor .park).beginSave k .parkSpilling 0) s)

/-- PARK_SPILL_DONE (R136 steps 5 and 6): the slot is written, what the team held is freed, and the team is parked; an event
that has fired since it was armed readmits it at once. -/
def execParkSpillDone (team : Nat) (s : State) : Host.Outcome State Fault Refusal :=
  let t := s.teamAt team
  if t.state == .parkSpilling && t.spillUntil ≤ s.time && !s.scratchBusy team then
    let s := (((s.saveTeam team 0).leaveCore team).freeTiles team).freeReservation team
    .next ((s.setTeam team { s.teamAt team with state := .parked, home := none }).wakeParked team)
  else .next s

/-! ## Pre-emption (R138, R139, R256, R259) -/

/-- A cause names a team, and with it its district (R138); a parked team stays parked. -/
def State.nameCause (s : State) (team : Nat) (c : PreemptCause) : State :=
  (s.districtOf team).foldl (fun s k =>
    let t := s.teamAt k
    let here := match t.state with
      | .resident | .parkEligible | .parkArmed | .preempting | .preempted => true
      | _ => false
    if here && !t.causes.contains c then s.setTeam k { t with causes := t.causes ++ [c] } else s) s

/-- The hard accounts that are over name their teams (R115, R117). -/
def State.nameOver (s : State) (team : Nat) : State :=
  ((s.gridAt (s.teamAt team).grid).accounts.filter fun k => match tget? s.accounts k with
    | some a => a.hard && a.over s.time
    | none => false).foldl (fun s k => s.nameCause team (.account k)) s

/-- Whether a Chiplet-Fence Notice is to be taken in a team before its pre-emption (R253). -/
def State.noticeDue (s : State) (team : Nat) : Bool := (s.gridAt (s.teamAt team).grid).notices.contains team

/-- PREEMPTION (R256): a team that a cause names has each group stopped at its next boundary, but not under a debugger's
halt or before a notice (R253); with the last of them the save begins. -/
def execPreemption (team : Nat) (s : State) : Host.Outcome State Fault Refusal :=
  let s := s.nameOver team
  let t := s.teamAt team
  if !s.preemptDue t || s.noticeDue team then .next s
  else
    let s := s.stopGroups team .preempt
    if s.allStopped team .preempt then .next ((s.tally t.core 15 1).beginSave team .preempting 1) else .next s

/-- PREEMPTION_SPILL_DONE (R259): each group that is written gives up its slot and registers; with the last of the reservation written
the scratchpad is freed, the tiles stay in the ring, and the core becomes the team's home (R139). DESIGN CHOICE: also with ACC = 0, so
that a fence of that core discards the team (R142, log entry 131). -/
def execPreemptionSpillDone (team : Nat) (s : State) : Host.Outcome State Fault Refusal :=
  let t := s.teamAt team
  if t.state != .preempting then .next s
  else if t.spillUntil ≤ s.time && !s.scratchBusy team then
    let s := (s.saveTeam team 1).leaveCore team
    .next (s.setTeam team { s.teamAt team with state := .preempted, home := some t.core }).readmitPreempted
  else .next (s.leaveWritten team)

/-- Causes end (R118, R138, R140): a team that has none left and has not stopped runs on, and one that was pre-empted is
readmitted. DESIGN CHOICE: groups of such a team that stand stopped already run on with the others (log entry 117); where a member
of a district has begun its save, the whole district is pre-empted, and comes back as one (log entry 119). -/
def State.endCauses (s : State) (p : Team → PreemptCause → Bool) : State :=
  let touched := tkeys s.teams fun _ t => t.causes.any (p t)
  let s := touched.foldl (fun s k => s.setTeam k { s.teamAt k with causes := (s.teamAt k).causes.filter fun c => !p (s.teamAt k) c }) s
  let s := touched.foldl (fun s k =>
    let t := s.teamAt k
    if t.causes != [] || !(t.state == .resident || t.state == .parkEligible) then s
    else if (s.awayUnit k).any fun j => (s.teamAt j).state == .preempting || (s.teamAt j).state == .preempted then
      s.setTeam k { t with causes := [.district] }
    else s.goOnTeam k .preempt) s
  s.readmitPreempted

/-! ## The debugger's halt (R260) -/

/-- Whether a function's BAR0 shows a context's registers (R52): the physical function, or the context's own. -/
def State.mayTouch (s : State) (func ctx : Nat) : Bool := ctx < 64 && (func == 0 || (s.ctxAt ctx).func == func)

/-- The resident teams of a context. -/
def State.residentOf (s : State) (ctx : Nat) : List Nat := tkeys s.teams fun k t => t.ctx == ctx && s.groups.any fun e => e.2.team == k

/-- DEBUG_HALT (R260): DBGCTL.HALT is written as 1. -/
def execDebugHalt (func ctx : Nat) (value : W32) (s : State) : Host.Outcome State Fault Refusal :=
  if !s.bar0Open then .next s else
  if s.mayTouch func ctx && value.getLsbD 0 then .next (s.setCtx ctx { s.ctxAt ctx with halt := true }) else .next s

/-- DEBUG_SNAPSHOT_DONE (R260): the context's groups stop at their boundaries; once all have, the lazily held tiles are spilled
(R266), the snapshots are written and HALTED is set. -/
def execDebugSnapshotDone (ctx : Nat) (s : State) : Host.Outcome State Fault Refusal :=
  let c := s.ctxAt ctx
  if !c.halt || c.halted then .next s
  else
    let teams := s.residentOf ctx
    let s := teams.foldl (fun s k => s.stopGroups k .halt) s
    let still := s.groups.any fun e => (s.teamAt e.2.team).ctx == ctx && e.2.stop == .none
    let mine := teams.filter fun k => s.groups.any fun e => e.2.team == k && e.2.stop == .halt
    if still || mine.any s.scratchBusy then .next s
    else
      let s := s.spillAll
      let s := mine.foldl (fun s k => (s.saveTeam k 2).setTeam k { s.teamAt k with snap := true }) s
      .next (s.setCtx ctx { s.ctxAt ctx with halted := true })

/-- A team's groups and scratchpad are loaded from its snapshot (R260). -/
def State.loadSnapshot (s : State) (team : Nat) : State :=
  let e := (s.gridAt (s.teamAt team).grid).eff
  let a := s.areaOf team false
  let s := s.loadScratch team false
  let s := (s.groupsByGix team).foldl (fun s (k, g) =>
    let (s, g') := s.loadGroup a e g
    { s with groups := tset s.groups k g' }) s
  s.setTeam team { s.teamAt team with snap := false }

/-- DEBUG_RELEASE (R260): DBGCTL.HALT is written as 0; what was saved is loaded again and the groups go on, or are taken by
a pre-emption that waited (R253). -/
def execDebugRelease (func ctx : Nat) (value : W32) (s : State) : Host.Outcome State Fault Refusal :=
  if !s.bar0Open then .next s else
  let c := s.ctxAt ctx
  if !s.mayTouch func ctx || value.getLsbD 0 || !c.halt then .next s
  else
    let s := s.setCtx ctx { c with halt := false, halted := false }
    .next ((s.residentOf ctx).foldl (fun s k =>
      let s := if (s.teamAt k).snap then s.loadSnapshot k else s
      if (s.teamAt k).causes != [] then s.mapTeam k fun g => if g.stop == .halt then { g with stop := .preempt } else g
      else s.goOnTeam k .halt) s)

end Sys2Proof.Machine
end

