-- ==== Sys2Proof/Machine/Issue.lean ====
section
/-! DEFINITION. Fetching an instruction's words, and the choice of what a quadrant issues (R209 to R211, R254, R298, R299). -/
namespace Sys2Proof.Machine

/-! ## Fetch -/

/-- The word of a context's instruction at a virtual address, where a core's instruction cache holds its line. -/
def Core.wordAt (k : Core) (ctx a : Nat) : Option W32 :=
  match k.icache.find? fun x => x.ctx == ctx && x.vline == a / 256 with
  | some x => x.words[a / 4 % 64]?
  | none => none

/-- The words from an address on that the instruction cache holds, up to the longest instruction. -/
def Core.wordsAt (k : Core) (ctx a : Nat) : List W32 :=
  match k.wordAt ctx a with
  | none => []
  | some w =>
    match k.wordAt ctx (a + 4) with
    | none => [w]
    | some x =>
      match k.wordAt ctx (a + 8) with
      | none => [w, x]
      | some y => [w, x, y]

/-- What stands at a fragment's PC: an instruction, an illegal one with its SUB, or nothing yet, since a line is missing. -/
inductive Fetched where
  | instr (i : Instr)
  | illegal (sub : Nat)
  | missing (a : Nat)
  deriving DecidableEq, Repr

/-- The fetch of the instruction at an address (R298, R303). -/
def Core.fetch (k : Core) (ctx a : Nat) : Fetched :=
  let ws := k.wordsAt ctx a
  match decode ws with
  | .ok (i, _) => .instr i
  | .error (.illegal n) => .illegal n
  | .error .truncated => .missing (a + 4 * ws.length)

/-! ## Candidates -/

/-- The pipe that an opcode takes (R212, R213). -/
def pipeOf (op : Nat) : Pipe :=
  if op < 0x10 then .ctl
  else if op == 0x10 then .valu
  else if 0x20 ≤ op && op ≤ 0x22 then .ctl
  else if op < 0x80 then .valu
  else if op < 0x90 then .xu
  else if op < 0xA0 then .valu
  else if op < 0xB0 then .mem
  else if op == 0xCE then .valu
  else if op < 0xE0 then .ctl
  else if op ≤ 0xE5 || op == 0xE8 || 0xED ≤ op && op ≤ 0xEF then .mem
  else if op < 0xF0 then .ctl
  else .mem

/-- A candidate of a quadrant's issue slot, with the keys of R210. -/
structure Cand where
  slot : Nat
  entry : Nat
  what : Fetched
  pipe : Pipe
  overBudget : Bool
  handler : Bool
  prio : Nat
  last : Nat
  deriving DecidableEq, Repr

/-- Whether a group may issue: it is ready, not stopped and not parked by a switch marker (R209, R215). -/
def Group.mayIssue (g : Group) : Bool := g.ready && g.stop == .none && g.parkedAt.isNone

/-- Whether a fragment may issue: it neither waits nor is stopped, and its last branch is 4 cycles old (R209, R247). -/
def Group.mayIssueFrag (g : Group) (f : Frag) (now : Nat) : Bool := g.waitOver f.wait now && !f.stopped && f.notBefore ≤ now

/-- When a pipe of a quadrant, or with 4 its issue slot, accepts the next instruction (R210, R212). -/
def Core.pipeFree (k : Core) (quad pipe now : Nat) : Bool :=
  if pipe == 4 then tgetD k.pipes (16 + quad) 0 ≤ now else tgetD k.pipes (4 * quad + pipe) 0 ≤ now

/-- Whether a record that stands for a group is held (R58): the group stays stopped until it is written. -/
def State.recordHeld (s : State) (g : Group) : Bool := (s.ctxAt (s.teamOf g).ctx).held.any fun r => r.2 == g.uid

/-- Whether a group is to take the Version Overflow trap at its next boundary (R187). -/
def State.overflowDue (s : State) (g : Group) : Bool :=
  let k := s.taskAt (s.teamOf g).task
  k.ovf && !k.ovfSeen.contains g.uid

/-- The active beats of a candidate's fragment, as it would issue now. -/
def State.beatsOf (s : State) (core slot entry : Nat) : BitVec 4 :=
  match s.frag? core slot entry with
  | none => 0
  | some (g0, f) =>
    let g := g0.settle s.time
    let m := effMask g s.free s.time (g.execAt s.free s.time &&& f.mask)
    BitVec.ofNat 4 ((activeBeats m).foldl (fun a b => a + 2 ^ b) 0)

/-- The groups of a quadrant that may issue (R209). -/
def State.issuers (s : State) (core quad : Nat) : Tbl Group :=
  s.groups.filter fun e => e.1 / 128 == core && e.1 % 128 / 32 == quad && e.2.mayIssue && !s.recordHeld e.2 && !s.overflowDue e.2 &&
    !s.preemptDue (s.teamOf e.2)

/-- The candidates of a quadrant that are ready, where the matrix array takes an MMA or does not (R209); an EPI that finds the
epilogue engine's queue full is not ready (R225). -/
def State.candidatesIf (s : State) (core quad : Nat) (array : Bool) : List Cand :=
  let k := s.core core
  (s.issuers core quad).flatMap fun (key, g) =>
    let t := s.teamOf g
    let gr := s.gridAt t.grid
    (g.split.filter fun e => g.mayIssueFrag e.2 s.time).filterMap fun (e, f) =>
      let what := k.fetch t.ctx f.pc.toNat
      let pipe := match what with
        | .instr i => (match i.word? with | some (op, _) => pipeOf op | none => .ctl)
        | _ => .ctl
      let takes := match what with
        | .missing _ => false
        | .instr (.mma _) | .instr (.mmas _) => array
        | .instr (.epi _) => k.matrix.epi.length < 4 || s.beatsOf core (key % 128) e == 0
        | _ => true
      if takes && k.pipeFree quad pipe.num s.time then
        some { slot := key % 128, entry := e, what := what, pipe := pipe, overBudget := s.overSoft t.grid
               handler := g.handler, prio := gr.eff.prio, last := f.lastIssue }
      else none

/-- Whether a candidate ranks before another (R210): in-budget, handler mode, higher PRIO, least recently issued, lower slot,
lower entry. DEDUCED: the first key, monitor mode, has no candidate here: the monitor's work is made of events, which take no issue slot
(R249, log entry 135). -/
def Cand.before (a b : Cand) : Bool :=
  if a.overBudget != b.overBudget then !a.overBudget
  else if a.handler != b.handler then a.handler
  else if a.prio != b.prio then b.prio < a.prio
  else if a.last != b.last then a.last < b.last
  else if a.slot != b.slot then a.slot < b.slot
  else a.entry < b.entry

/-- A candidate at its place in a ranked list. -/
def Cand.insert (c : Cand) : List Cand → List Cand
  | [] => [c]
  | x :: r => if x.before c then x :: c.insert r else c :: x :: r

/-- Candidates in the order of R210. -/
def rank (l : List Cand) : List Cand := l.foldr Cand.insert []

/-- Whether a candidate is an MMA or an MMAS. -/
def Cand.isMma (c : Cand) : Bool := match c.what with | .instr (.mma _) | .instr (.mmas _) => true | _ => false

/-- Whether a quadrant would issue an MMA or an MMAS in this cycle, did the array take it. -/
def State.wantsArray (s : State) (core quad : Nat) : Bool :=
  (s.core core).pipeFree quad 4 s.time && ((rank (s.candidatesIf core quad true)).head?.any Cand.isMma)

/-- Whether a core's matrix array accepts an MMA of a quadrant in this cycle (R209, R222): its interval has elapsed, nothing waits for
it, and of the quadrants that would issue one it takes the first from the one after the last winner. -/
def State.matrixReady (s : State) (core quad : Nat) : Bool :=
  let m := (s.core core).matrix
  m.busyUntil ≤ s.time && m.waiting == [] &&
    (((List.range 4).map fun i => (m.lastQuad + 1 + i) % 4).find? fun q => s.wantsArray core q).all fun q => q == quad

/-- The ready candidates of a quadrant (R209). -/
def State.candidates (s : State) (core quad : Nat) : List Cand :=
  if (s.candidatesIf core quad true).any Cand.isMma then s.candidatesIf core quad (s.matrixReady core quad)
  else s.candidatesIf core quad true

/-- The candidates that may share an issue slot with the winner (R211), in the order of R210: of its team, at its PC, with
its MODE, their beats disjoint from its own, on the VALU, XU or MEM pipe. -/
def State.partners (s : State) (core quad : Nat) (w : Cand) : List Cand :=
  match s.frag? core w.slot w.entry with
  | none => []
  | some (g, f) =>
    let mine := s.beatsOf core w.slot w.entry
    if w.pipe == .ctl then []
    else rank ((s.candidates core quad).filter fun c =>
      !(c.slot == w.slot && c.entry == w.entry) &&
        match s.frag? core c.slot c.entry with
        | none => false
        | some (g', f') => g'.team == g.team && f'.pc == f.pc && g'.mode == g.mode && s.beatsOf core c.slot c.entry &&& mine == 0)

/-- The state in which a fragment issues: its wait is over. -/
def State.issuing (s : State) (core slot entry : Nat) (mate : BitVec 4) (second : Bool) (mateCyc : List Nat := []) : State :=
  { (s.setWait core slot entry .none) with cur := some ⟨core, slot, entry, mate, second, mateCyc⟩, uni := false }

/-- An illegal instruction traps as it issues (R303). -/
def State.issueIllegal (s : State) (sub : Nat) : State :=
  match s.ctx? ⟨.ctl, 1, 1, true⟩ with
  | none => s
  | some c => s.takeTrap c (.illegal sub)

/-- The quadrant's issue slot is used for this cycle (R210). -/
def State.slotUsed (s : State) (core quad : Nat) : State :=
  let k := s.core core
  { (s.setCore core { k with pipes := tset k.pipes (16 + quad) (s.time + s.cyc core) }) with cur := none }

/-- Whether the group of a slot took a trap between two states: it entered handler mode, or its team ended. -/
def trappedIn (s s' : State) (core slot : Nat) : Bool :=
  match s.group? core slot, s'.group? core slot with
  | some g, some g' => !g.handler && g'.handler
  | some _, none => true
  | none, _ => false

/-- Whether the fragment of an entry turned out not to be ready between two states: it waits for room, for its turn or for a time, and
nothing has issued (R210). -/
def stalledIn (s s' : State) (core slot entry : Nat) : Bool :=
  s'.free == s.free && match s'.frag? core slot entry with
    | some (_, f) => f.notBefore > s'.time || (match f.wait with
      | .cnt _ _ | .ops _ | .xshf | .darr | .garr | .yield _ => true
      | _ => false)
    | none => false

/-- The trap that a fragment of a shared slot took is taken in the lower split entry instead (R254). -/
def State.trapLower (s' : State) (s : State) (core slot took low : Nat) : State :=
  if took == low then s'
  else
    match s.group? core slot, s'.group? core slot with
    | some g, some g' =>
      match tget? g'.split took, tget? g.split took, tget? g'.split low with
      | some h, some f, some l =>
        s'.setGroup core slot
          { g' with split := tset (tset g'.split low { l with pc := h.pc, wait := .none, stopped := false }) took
                                   { h with pc := f.pc, stopped := true } }
      | _, _, _ => s'
    | _, _ => s'

end Sys2Proof.Machine
end

