-- ==== Sys2Proof/Machine/Walk.lean ====
section
/-! DEFINITION. Page walks, the device fault table, page requests, invalidations and instruction fetch (R55, R56, R71 to R73, R209,
R268 to R277, R299, R421). -/
namespace Sys2Proof.Machine

/-! ## Walks through a chiplet's walk cache (R269, R273) -/

/-- The bits of an address that a table entry of a level stands for. -/
def walkPrefix (va lv : Nat) : Nat := va / 2 ^ (3 + 9 * lv)

/-- A walk cache with an entry added, in place of its least recently used where it is full. -/
def walkAdd (l : List WalkEntry) (e : WalkEntry) : List WalkEntry :=
  if l.length < 1024 then l ++ [e]
  else (l.eraseP fun x => x.used == l.foldl (fun b y => min b y.used) e.used) ++ [e]

/-- The walk of the levels from `lv` down, with the table entries that a chiplet's walk cache holds (R269, R273): what it finds, or the
table entry whose bytes it lacks of those that it has `seen`. A unit that walks without a walker reads them at their home. -/
def State.walkCached (s : State) (chip ctx va : Nat) (seen : Option (List (Nat × Nat))) (base : Nat) : Nat → State × Except Nat WalkResult
  | 0 => (s, .ok .malformed)
  | lv + 1 =>
    let cache := tgetD s.walkCache chip []
    let mine (e : WalkEntry) : Bool := e.ctx == ctx && e.level == lv + 1 && e.pfx == walkPrefix va (lv + 1)
    match cache.find? mine with
    | some e =>
      let used := cache.map fun x => if mine x then { x with used := s.time } else x
      State.walkCached { s with walkCache := tset s.walkCache chip used } chip ctx va seen e.table lv
    | none =>
      let index := if lv == 3 then fld va 51 39 else fld va (12 + 9 * lv + 8) (12 + 9 * lv)
      let at' := base + 8 * index
      let (s, got) := match seen with
        | none => let (s, bs) := s.readNow at' 8; (s, some (leNat bs))
        | some l => (s, (l.find? fun (x : Nat × Nat) => x.1 == at').map Prod.snd)
      match got with
      | none => (s, .error at')
      | some pte =>
        if !pte.testBit 0 then (s, .ok .fault)
        else if lv == 0 || fld pte 10 9 != 0 then
          if lv == 3 then (s, .ok .malformed)
          else match leafOf ctx va (lv + 1) pte with
            | some e => (s, .ok (.leaf e at'))
            | none => (s, .ok .malformed)
        else
          let e : WalkEntry := { ctx := ctx, level := lv + 1, pfx := walkPrefix va (lv + 1), table := fld pte 49 12 * 4096, used := s.time }
          State.walkCached { s with walkCache := tset s.walkCache chip (walkAdd cache e) } chip ctx va seen e.table lv

/-- The walk of a context's table for an address by a walker of a chiplet, with the entries that it has seen. -/
def State.walkSeen (s : State) (chip ctx va : Nat) (seen : Option (List (Nat × Nat))) : State × Except Nat WalkResult :=
  s.walkCached chip ctx va seen (fld (s.ctxAt ctx).ptb.toNat 49 16 * 65536) 4

/-- The walk of a context's table for an address that a copy engine makes. -/
def State.walkBy (s : State) (chip ctx va : Nat) : State × WalkResult :=
  match s.walkSeen chip ctx va none with
  | (s, .ok r) => (s, r)
  | (s, .error _) => (s, .malformed)

/-! ## Faults of fragments and of engine operations (R274, R421) -/

/-- What an operation's fault records (R421): its group's identifiers. -/
def State.opRecord (s : State) (o : EngineOp) (cause : Nat) : Record :=
  { s.groupRecord o.core o.slot { uid := o.guid, team := o.team, gix := o.gix } cause with pc := o.pc.toNat }

/-- A fault that an engine operation meets after its issue aborts the fault domain of its team, with a record (R421), or of
the grid whose copy schedule it serves (R121). -/
def State.opAbort (s : State) (id cause sub addr info : Nat) (wr : Bool) : State :=
  match tget? s.ops id with
  | none => s
  | some o =>
    let r := s.opRecord o cause
    let close' (s : State) : State := { s with ops := tmod s.ops id fun o => { o with ended := true, stalled := false } }
    match o.kind with
    | .sched grid _ _ _ _ _ _ => close' (s.abortDomain o.ctx (s.gridAt grid).eff.fdid)
    | _ => (close' (s.abortTeam o.team)).post { r with flags := 2 + 8 + (if wr then 16 else 0), sub := sub, addr := addr, info := info }

/-- Whether a walk is for a copy schedule, whose translation faults abort its grid's domain at once (R121). -/
def State.forSchedule (s : State) (w : Walk) : Option Nat :=
  w.op.bind fun id => match tget? s.ops id with
    | some o => (match o.kind with | .sched _ _ _ _ _ _ _ => some id | _ => none)
    | none => none

/-- A walk's fragment, where it still waits for it. -/
def State.walker? (s : State) (key entry : Nat) : Option (Group × Frag) :=
  match s.frag? (key / 128) (key % 128) entry with
  | some (g, f) => if f.wait == .walk || f.wait.pageFault then some (g, f) else none
  | none => none

/-- The kind of access of a walk: 0 a read, 1 a write, 2 a fetch. -/
def Walk.kind (w : Walk) : Nat := if w.fetch then 2 else if w.write then 1 else 0

/-- The fault count of a fragment after a fault at an address (R274): it rises on the same page and restarts on another. -/
def Frag.fault (f : Frag) (lane va kind : Nat) : Frag :=
  { f with faultVa := va, faultLane := lane, faultKind := kind
           faultRun := if f.faultVa / 4096 == va / 4096 && f.faultRun != 0 then f.faultRun + 1 else 1 }

/-- The trap of a fragment at the address that it faulted at. -/
def Frag.faultTrap (f : Frag) (cause sub info : Nat) : Trap :=
  { cause := cause, sub := sub, lane := f.faultLane, addr := BitVec.ofNat 64 f.faultVa, info := BitVec.ofNat 32 info
    wr := f.faultKind == 1, fetch := f.faultKind == 2 }

/-- A fragment that waits for a translation traps (R247). -/
def State.trapWaiter (s : State) (key entry cause sub info : Nat) : State :=
  match s.walker? key entry with
  | none => s
  | some (_, f) => (s.setWait (key / 128) (key % 128) entry .none).trapTo (key / 128) (key % 128) entry (f.faultTrap cause sub info) f.pc

/-- A waiting fragment issues its instruction again, or a stalled operation goes on. -/
def State.retryWaiters (s : State) (frags : List (Nat × Nat)) (ops : List Nat) (mine : Wait) : State :=
  let s := frags.foldl (fun s (key, entry) =>
    match s.walker? key entry with
    | some (_, f) => if f.wait == mine then s.setWait (key / 128) (key % 128) entry .none else s
    | none => s) s
  ops.foldl (fun s id => { s with ops := tmod s.ops id fun o => { o with stalled := false } }) s

/-- A fault's place in the record of its fragment or operation; the fourth in a row on a page traps instead (R72, R274). -/
def State.noteFault (s : State) (w : Walk) (lane va sub : Nat) : State × Bool :=
  match w.frag, w.op with
  | some (key, entry), _ =>
    match s.walker? key entry with
    | none => (s, false)
    | some (g, f) =>
      let f' := f.fault lane va w.kind
      let s := s.setGroup (key / 128) (key % 128) { g with split := tset g.split entry f' }
      if f'.faultRun ≥ 4 then (s.trapWaiter key entry 7 sub 0, false) else (s, true)
  | none, some id => ({ s with ops := tmod s.ops id fun o => { o with stalled := true, page := va, pageWr := w.write } }, (tget? s.ops id).isSome)
  | none, none => (s, false)

/-- The fragment of a walk waits for something else. -/
def State.walkWait (s : State) (w : Walk) (x : Wait) : State :=
  match w.frag with
  | some (key, entry) => s.setWait (key / 128) (key % 128) entry x
  | none => s

/-- Whether what a queued fault was for still waits. -/
def State.walkLives (s : State) (w : Walk) : Bool :=
  match w.frag, w.op with
  | some (key, entry), _ => (match s.walker? key entry with | some (_, f) => f.wait == .dftQueue | none => false)
  | none, some id => (match tget? s.ops id with | some o => o.stalled && !o.ended | none => false)
  | none, none => false

/-! ## The device fault table (R274, R275) -/

/-- Whether a DFT entry's access bits cover an access. -/
def DftEntry.covers (d : DftEntry) (w : Walk) (va : Nat) : Bool :=
  d.ctx == w.ctx && d.page == va / 4096 && (if w.fetch then d.x else if w.write then d.w && (!w.both || d.r) else d.r)

/-- A waiter joins a DFT entry. -/
def State.joinDft (s : State) (e : Nat) (w : Walk) : State :=
  let s := { s with dft := tmod s.dft e fun d =>
    { d with waiters := d.waiters ++ w.frag.toList, ops := d.ops ++ w.op.toList } }
  s.walkWait w (.dft e)

/-- The record of a page fault that awaits the host (R274): it stands for its stopped group, or for its operation (R421). -/
def State.postPageRequest (s : State) (e : Nat) (w : Walk) (lane va : Nat) : State :=
  let fl := (if w.write then 16 else 0) + (if w.fetch then 32 else 0)
  match w.frag, w.op with
  | some (key, entry), _ =>
    match s.frag? (key / 128) (key % 128) entry with
    | some (g, f) =>
      s.post { s.groupRecord (key / 128) (key % 128) g 0x49 with flags := fl, lane := lane, pc := f.pc.toNat, addr := va, info := e } (some g.uid)
    | none => s
  | none, some id =>
    match tget? s.ops id with
    | some o => s.post { s.opRecord o 0x49 with flags := fl + 8, addr := va, info := e } (some (2 ^ 64 + id))
    | none => s
  | none, none => s

/-- A page fault on a device-managed address enters the DFT, its first step (R274). -/
def State.enterDft (s : State) (w : Walk) (lane va : Nat) : State :=
  match s.dft.find? fun e => e.2.covers w va with
  | some (e, _) => s.joinDft e w
  | none =>
    match tfree s.dft 256 with
    | some e =>
      let d : DftEntry := { page := va / 4096, x := w.fetch, w := w.write, r := !w.fetch && (!w.write || w.both), ctx := w.ctx, since := s.time }
      ({ s with dft := tset s.dft e d }.joinDft e w).postPageRequest e w lane va
    | none => { s with dftWait := s.dftWait ++ [{ w with vas := [(lane, va)] }] }.walkWait w .dftQueue

/-- A page fault on a device-managed address (R274). -/
def State.pageFault (s : State) (w : Walk) (lane va : Nat) : State :=
  match s.forSchedule w with
  | some id => s.opAbort id 7 1 va 0 w.write
  | none =>
    let (s, go) := s.noteFault w lane va 3
    if go then s.enterDft w lane va else s

/-- The faults that wait for a DFT entry are served in the order they arose. -/
def State.serveDft (s : State) : State :=
  let q := s.dftWait
  q.foldl (fun s w => if s.walkLives w then (match w.vas with | (l, va) :: _ => s.enterDft w l va | [] => s) else s)
    { s with dftWait := [] }

/-- A DFT entry is serviced: it is freed, and each waiter issues its instruction again. -/
def State.dftServiced (s : State) (e : Nat) (d : DftEntry) : State :=
  ({ s with dft := tdel s.dft e }.retryWaiters d.waiters d.ops (.dft e)).serveDft

/-- A DFT entry is refused: it is freed, and each waiter takes Page Fault with SUB 1; an operation's domain is aborted. -/
def State.dftRefused (s : State) (e : Nat) (d : DftEntry) : State :=
  let s := { s with dft := tdel s.dft e }
  let s := d.waiters.foldl (fun s (key, entry) =>
    match s.walker? key entry with
    | some (_, f) => if f.wait == .dft e then s.trapWaiter key entry 7 1 e else s
    | none => s) s
  let s := d.ops.foldl (fun s id => match tget? s.ops id with
    | some o => s.opAbort id 7 1 o.page e o.pageWr
    | none => s) s
  s.serveDft

/-- A DFRESP write with GO for an entry, in the form that a value of FAIL names; an entry that is not valid or of another
context is an error (R258, R274). -/
def State.dfresp (s : State) (func ctx : Nat) (value : W32) (fail : Bool) : State :=
  if !s.mayTouch func ctx || !value.getLsbD 31 || value.getLsbD 16 != fail then s
  else
    let e := (value.extractLsb' 0 8).toNat
    match tget? s.dft e with
    | some d =>
      if d.ctx != ctx then s.setCtx ctx { s.ctxAt ctx with err := true }
      else if fail then s.dftRefused e d else s.dftServiced e d
    | none => s.setCtx ctx { s.ctxAt ctx with err := true }

/-- DFRESP_SERVICED (R274). -/
def execDfrespServiced (func ctx : Nat) (value : W32) (s : State) : Host.Outcome State Fault Refusal :=
  if !s.bar0Open then .next s else
  .next (s.dfresp func ctx value false)

/-- DFRESP_REFUSED (R274). -/
def execDfrespRefused (func ctx : Nat) (value : W32) (s : State) : Host.Outcome State Fault Refusal :=
  if !s.bar0Open then .next s else
  .next (s.dfresp func ctx value true)

/-- Whether PRITO milliseconds have passed since a moment; with PRITO = 0 they never do (R72). -/
def State.pritoOver (s : State) (since : Nat) : Bool := s.host.prito != 0 && since + s.host.prito * 1000 * usec ≤ s.time

/-- DFT_TIMEOUT (R274). -/
def execDftTimeout (entry : Nat) (s : State) : Host.Outcome State Fault Refusal :=
  match tget? s.dft entry with
  | some d => .next (if s.pritoOver d.since then s.dftRefused entry d else s)
  | none => .next s

/-! ## Page walks (R269 to R273) -/

/-- A walked translation comes into the TLBs, with A set, and M where it translates a write that is allowed (R271). -/
def State.takeLeaf (s : State) (core va : Nat) (write : Bool) (e : TlbEntry) (pte : Nat) : State :=
  let wr := write && !([6, 1, 5].any fun cls => s.xlateFails e va true false cls)
  (s.touchPte pte wr).tlbFill core { e with m := e.m || wr }

/-- A walk for a fragment is over: a page that is not present faults, a malformed entry traps (R272), and otherwise the
translations come into the TLBs and the fragment issues its instruction again. -/
def State.endWalk (s : State) (id : Nat) (w : Walk) (rs : List (Nat × Nat × WalkResult)) : State :=
  let s := { s with walks := tdel s.walks id }.giveWalkers
  match w.frag with
  | none => s
  | some (key, entry) =>
    match s.walker? key entry with
    | none => s
    | some (g, f) =>
      match rs.find? fun r => r.2.2 == .fault with
      | some (l, va, _) => s.pageFault w l va
      | none =>
        match rs.find? fun r => r.2.2 == .malformed with
        | some (l, va, _) =>
          (s.setGroup (key / 128) (key % 128) { g with split := tset g.split entry { f with faultVa := va, faultLane := l, faultKind := w.kind } }).trapWaiter
            key entry 8 4 0
        | none =>
          let s := rs.foldl (fun s (_, va, r) => match r with
            | .leaf e pte => s.takeLeaf w.core va w.write e pte
            | _ => s) s
          s.setWait (key / 128) (key % 128) entry .none

/-- The router at which the page walkers of a chiplet attach (R144). -/
def walkerSlice (chip : Nat) : Nat := 12 * chip + 5

/-- A walker goes on with what it has seen: it asks the home of the first table entry that it lacks, on the mesh, or the walk is over. -/
def State.runWalk (s : State) (id : Nat) (w : Walk) : State :=
  let (s, rs) := w.vas.foldl (fun (st : State × Except Nat (List (Nat × Nat × WalkResult))) (l, va) =>
    match st.2 with
    | .error _ => st
    | .ok done => match st.1.walkSeen w.chiplet w.ctx va (some w.seen) with
      | (s, .ok r) => (s, .ok (done ++ [(l, va, r)]))
      | (s, .error a) => (s, .error a)) (s, .ok [])
  match rs with
  | .error a => s.sendBase (.walk id a) (walkerSlice w.chiplet) (s.homeOf a)
  | .ok rs => s.endWalk id w rs

/-- A table entry is read at its home for a walker, and its bytes go back on the mesh. -/
def State.serveWalk (s : State) (message : Nat) (m : Msg) (chip id at' : Nat) : State :=
  let (s, bs) := s.readNow at' 8
  (s.dropMsg message).sendBase (.walkData id at' (leNat bs)) m.slice (walkerSlice chip)

/-- What the mesh carries for a walk. -/
def State.walkMsg (s : State) (id : Nat) : Option (Nat × Msg) :=
  s.msgs.find? fun e => match e.2.kind with
    | .walk k _ | .walkData k _ _ => k == id
    | _ => false

/-- The grid that a walk's memory accesses are charged to (R114). -/
def State.walkPayer (s : State) (w : Walk) : Option Nat :=
  w.frag.bind fun (key, _) => (tget? s.groups key).map fun g => (s.teamAt g.team).grid

/-- PAGE_WALK (R269, R273): the walk of a chiplet's walker goes on: it begins, the home that it has asked reads its table entry, or the
bytes of that are there. -/
def execPageWalk (p : WalkStep) (s : State) : Host.Outcome State Fault Refusal :=
  let s := s.giveWalkers
  match s.walks.find? fun e => e.2.chiplet == p.chiplet && e.2.walker == some p.walker with
  | none => .next s
  | some (id, w) =>
    match s.walkMsg id with
    | none => .next (s.runWalk id w)
    | some (k, m) =>
      if m.stage != .arrived then .next s
      else
        match m.kind with
        | .walk _ a => .next (s.attempt (s.walkPayer w) fun s => s.serveWalk k m p.chiplet id a)
        | .walkData _ a pte =>
          let w := { w with seen := w.seen ++ [(a, pte)] }
          .next ({ (s.dropMsg k) with walks := tset s.walks id w }.runWalk id w)
        | _ => .next s

/-! ## ATS and page requests (R55, R71 to R73, R277) -/

/-- Whether a tag table entry's access bits cover an access (R71). -/
def TagEntry.covers (t : TagEntry) (w : Walk) (va : Nat) : Bool :=
  t.ctx == w.ctx && t.page == va / 4096 && (if w.write then t.w && (!w.both || t.r) else t.r)

/-- Whether a store must wait for an entry that asks for a read only (R71). -/
def TagEntry.readOnly (t : TagEntry) (w : Walk) (va : Nat) : Bool :=
  t.ctx == w.ctx && t.page == va / 4096 && w.write && !t.w

/-- A waiter joins a tag table entry. -/
def State.joinTag (s : State) (e : Nat) (w : Walk) : State :=
  let tags := tmod s.host.tags e fun t => { t with waiters := t.waiters ++ w.frag.toList, ops := t.ops ++ w.op.toList }
  { s with host := { s.host with tags := tags } }.walkWait w (.tag e)

/-- A page fault on a host-managed address enters the tag table, which sends one Page Request for each entry (R71); a
function stopped by a Response Failure sends none (R72). -/
def State.enterTag (s : State) (w : Walk) (lane va : Nat) : State :=
  let c := s.ctxAt w.ctx
  match (s.host.tags.find? fun e => e.2.covers w va).or (s.host.tags.find? fun e => e.2.readOnly w va) with
  | some (e, _) => s.joinTag e w
  | none =>
    match (if s.host.priStopped.contains c.func then none else tfree s.host.tags 512) with
    | some e =>
      let t : TagEntry := { page := va / 4096, w := w.write, r := !w.write || w.both, ctx := w.ctx, pasid := c.pasid, sent := s.time }
      let msg : HostMsg := .pageRequest c.func c.pasid (va / 4096) e (!w.write || w.both) w.write
      { s with host := { s.host with tags := tset s.host.tags e t, sent := s.host.sent ++ [msg] } }.joinTag e w
    | none => { s with host := { s.host with tagWait := s.host.tagWait ++ [{ w with vas := [(lane, va)] }] } }.walkWait w .dftQueue

/-- The faults that wait for a tag table entry are served in the order they arose. -/
def State.serveTags (s : State) : State :=
  let q := s.host.tagWait
  q.foldl (fun s w => if s.walkLives w then (match w.vas with | (l, va) :: _ => s.enterTag w l va | [] => s) else s)
    { s with host := { s.host with tagWait := [] } }

/-- A host-managed page fault (R71, R72). -/
def State.hostFault (s : State) (w : Walk) (lane va : Nat) : State :=
  match s.forSchedule w with
  | some id => s.opAbort id 7 2 va 0 w.write
  | none =>
    let (s, go) := s.noteFault w lane va 2
    if go then s.enterTag w lane va else s

/-- ATS_TRANSLATION_COMPLETION (R55, R277): the TLBs take what the host allows; without a translation, or without the needed
permission, the access faults (R71). A request that has not been sent has no completion (R49). -/
def execAtsTranslationCompletion (index : Nat) (ok w x : Bool) (pa : Nat) (s : State) : Host.Outcome State Fault Refusal :=
  let s := s.hostPump
  match tget? s.walks index with
  | none => .next s
  | some k =>
    if !k.ats || !s.asked (.walk index) then .next s
    else
      let s := { s with walks := tdel s.walks index }
      match k.vas with
      | [] => .next s
      | (lane, va) :: _ =>
        let e := atsEntry k.ctx va pa w x s.time
        let s := if ok then (s.tlbFill k.core e).atcFill e else s
        if ok && (!k.write || w) && (!k.fetch || x) then
          match k.frag, k.op with
          | some f, _ => .next (s.retryWaiters [f] [] .walk)
          | none, some id => .next (s.retryWaiters [] [id] .walk)
          | none, none => .next s
        else .next (s.hostFault k lane va)

/-- The waiters of a tag table entry whose request has failed (R72): each takes Page Fault as unresolved, with a record; a store
that waited for a read request asks anew (R71). -/
def State.tagFailed (s : State) (e : Nat) (t : TagEntry) : State :=
  let s := t.waiters.foldl (fun s (key, entry) =>
    match s.walker? key entry with
    | none => s
    | some (g, f) =>
      if f.wait != .tag e then s
      else if f.faultKind == 1 && !t.w then s.retryWaiters [(key, entry)] [] (.tag e)
      else
        let r := s.trapRecord (key / 128) (key % 128) g (f.faultTrap 7 2 e) f.pc
        (s.post r (some g.uid)).trapWaiter key entry 7 2 e) s
  t.ops.foldl (fun s id => match tget? s.ops id with
    | some o => if o.pageWr && !t.w then s.retryWaiters [] [id] .none else s.opAbort id 7 2 o.page e o.pageWr
    | none => s) s

/-- PRG_RESPONSE (R72). -/
def execPrgResponse (entry : Nat) (code : PrgCode) (s : State) : Host.Outcome State Fault Refusal :=
  match tget? s.host.tags entry with
  | none => .next s
  | some t =>
    let s := { s with host := { s.host with tags := tdel s.host.tags entry } }
    match code with
    | .success => .next (s.retryWaiters t.waiters t.ops (.tag entry)).serveTags
    | .invalidRequest => .next (s.tagFailed entry t).serveTags
    | .responseFailure =>
      let func := (s.ctxAt t.ctx).func
      let stopped := if s.host.priStopped.contains func then s.host.priStopped else s.host.priStopped ++ [func]
      let s := { s with host := { s.host with priStopped := stopped } }
      .next (s.tagFailed entry t).serveTags

/-- PRI_TIMEOUT (R72). -/
def execPriTimeout (entry : Nat) (s : State) : Host.Outcome State Fault Refusal :=
  match tget? s.host.tags entry with
  | none => .next s
  | some t =>
    if s.pritoOver t.sent then
      .next ({ s with host := { s.host with tags := tdel s.host.tags entry } }.tagFailed entry t).serveTags
    else .next s

/-- PRI_STOPPED_CLEAR (R72): the function's page requests may go on, in the order of their faults. -/
def execPriStoppedClear (func : Nat) (s : State) : Host.Outcome State Fault Refusal :=
  .next { s with host := { s.host with priStopped := s.host.priStopped.filter fun f => f != func } }.serveTags

/-! ## Invalidations (R56, R276) -/

/-- Whether an entry overlaps a range of 4 KiB pages. -/
def TlbEntry.overlaps (e : TlbEntry) (page pages : Nat) : Bool :=
  e.vpage * 2 ^ e.size < (page + pages) * 4096 && page * 4096 < (e.vpage + 1) * 2 ^ e.size

/-- Whether an engine operation has accesses in flight. -/
def EngineOp.inFlight (o : EngineOp) : Bool := o.bulk != 0 || o.reads != 0

/-- The accesses of a context that are not performed: those of instructions, and the operations of engines that have some. -/
def State.accessesIn (s : State) (ctx : Nat) : List Nat :=
  (tkeys s.accs fun _ a => a.ctx == ctx && a.space == .mem) ++ tkeys s.ops fun _ o => o.ctx == ctx && o.inFlight

/-- Whether an access that an invalidation waits for is still not performed. -/
def State.stillOpen (s : State) (id : Nat) : Bool :=
  (tget? s.accs id).isSome || ((tget? s.ops id).map EngineOp.inFlight).getD false

/-- TLB_INVALIDATE (R276): TINVCTL.GO; a GO while DONE = 0 is ignored and sets ERR. -/
def execTlbInvalidate (func ctx : Nat) (value : W32) (s : State) : Host.Outcome State Fault Refusal :=
  if !s.bar0Open then .next s else
  if !s.mayTouch func ctx || !value.getLsbD 31 then .next s
  else
    let c := s.ctxAt ctx
    if !c.tinvDone then .next (s.setCtx ctx { c with err := true })
    else
      let page := fld c.tinvva.toNat 51 12
      let n := c.tinvn.toNat
      let s := s.tlbRemove fun e => e.ctx == ctx && (n == 0 || e.overlaps page n)
      let cache := tmap s.walkCache fun _ l => l.filter fun e => e.ctx != ctx
      let atc := s.host.atc.filter fun e => !(e.ctx == ctx && (n == 0 || e.overlaps page n))
      .next ({ s with walkCache := cache, host := { s.host with atc := atc } }.setCtx ctx { c with tinvDone := false, tinvPending := s.accessesIn ctx })

/-- TLB_INVALIDATE_DONE (R276). -/
def execTlbInvalidateDone (ctx : Nat) (s : State) : Host.Outcome State Fault Refusal :=
  let c := s.ctxAt ctx
  if c.tinvDone || c.tinvPending.any s.stillOpen then .next s
  else .next (s.setCtx ctx { c with tinvDone := true, tinvPending := [] })

/-- The contexts that an ATS invalidation concerns: those of the function with the PASID, resident or not. -/
def State.atsContexts (s : State) (func : Nat) (pasid : BitVec 20) : List Nat :=
  tkeys s.contexts fun _ c => c.func == func && c.pasid == pasid

/-- ATS_INVALIDATION (R56): the entries go, and the accesses that used them are waited for. -/
def execAtsInvalidation (func : Nat) (pasid : BitVec 20) (va : W64) (pages : Nat) (s : State) : Host.Outcome State Fault Refusal :=
  let cs := s.atsContexts func pasid
  let gone (e : TlbEntry) : Bool := e.ats && cs.contains e.ctx && e.overlaps (va.toNat / 4096) pages
  let s := s.tlbRemove gone
  let s := { s with host := { s.host with atc := s.host.atc.filter fun e => !gone e } }
  let x : AtsInval := { func := func, pasid := pasid, va := va, pages := pages, since := s.time, pending := cs.flatMap fun c => s.accessesIn c }
  .next { s with host := { s.host with invals := s.host.invals ++ [x] } }

/-- Whether every access that an invalidation waits for is over, a record fetch among them. -/
def State.invalOver (s : State) (x : AtsInval) : Bool :=
  let cs := s.atsContexts x.func x.pasid
  !x.pending.any s.stillOpen &&
    s.queues.all fun (_, q) => !cs.contains q.ctx || (match q.fetching with | some f => x.since < f.since | none => true)

/-- ATS_INVALIDATION_COMPLETION (R56): the oldest invalidation whose accesses are over is answered. -/
def execAtsInvalidationCompletion (s : State) : Host.Outcome State Fault Refusal :=
  match s.host.invals.find? s.invalOver with
  | none => .next s
  | some x =>
    let left := s.host.invals.eraseP fun y => y == x
    .next { s with host := { s.host with invals := left, sent := s.host.sent ++ [.invalDone x.func] } }

/-! ## Instruction fetch (R209, R299) -/

/-- An instruction cache with a line added: 64 sets of 4 ways. -/
def icacheAdd (l : List ILine) (x : ILine) : List ILine :=
  let l := l.filter fun y => !(y.ctx == x.ctx && y.vline == x.vline)
  if l.length < 4 then l ++ [x]
  else
    let set := Config.setIndex 3 x.vline % 64
    let same := l.filter fun y => Config.setIndex 3 y.vline % 64 == set
    if same.length < 4 then l ++ [x]
    else match same[Config.victimWay 3 x.vline same.length % same.length]? with
      | some v => l.filter (fun y => y != v) ++ [x]
      | none => l ++ [x]

/-- The words of a list of bytes. -/
def wordsOf (bs : List Byte) : List W32 := (List.range (bs.length / 4)).map fun i => BitVec.ofNat 32 (leNat ((bs.drop (4 * i)).take 4))

/-- The 256 bytes of an instruction line; those of a peer's memory are a free value. -/
def State.fetchLine (s : State) (e : TlbEntry) (va : Nat) : State × List W32 :=
  match e.loc (va / 256 * 256) with
  | .dev pa => let (s, bs) := s.readNow pa 256; (s, wordsOf bs)
  | .host a => ({ (s.tellRead e.ctx a 256) with free := s.free + 1 }, wordsOf (s.hostRead a 256))
  | .peer _ _ => ({ s with free := s.free + 1 }, (List.range 64).map fun i => Config.freeW32 s.free i)

/-- A fragment's instruction line comes from its home slice, after the translation of the fetch (R209, R272), charged as a fill (R114). -/
def State.fillLine (s : State) (core slot entry : Nat) (g : Group) (f : Frag) (a : Nat) : State :=
  let t := s.teamOf g
  let trap (t : Trap) : State := s.trapTo core slot entry t f.pc
  if a ≥ 2 ^ 52 then trap { Trap.protection 3 255 (BitVec.ofNat 64 a) with fetch := true }
  else
    match s.translate core t.ctx (slotKey core slot) entry [(255, a)] false true with
    | .error t => trap t
    | .ok (.walk w) => (s.beginWalk w).setWait core slot entry .walk
    | .ok (.lanes es) =>
      match es with
      | [] => s
      | (_, _, e) :: _ =>
        let loc := e.loc a
        if (match loc with | .dev pa => s.badRange (pa / 256 * 256) 256 | _ => false) then
          s.errorTrap core slot g { cause := 0x0F, flags := 32, pc := f.pc.toNat, addr := a }
        else
          let s := s.touchPages core t.ctx es
          let s := match loc with | .dev _ => s.charge t.grid 2 256 | _ => s
          let (s, ws) := s.fetchLine e a
          let k := s.core core
          let line : ILine := { ctx := t.ctx, vline := a / 256, words := ws, filled := s.time, used := s.time }
          s.setCore core { k with icache := icacheAdd k.icache line }

/-- ICACHE_FILL (R209): the line that the next instruction of a fragment misses, which may issue but for that, comes. -/
def execIcacheFill (core slot entry : Nat) (s : State) : Host.Outcome State Fault Refusal :=
  match s.frag? core slot entry with
  | none => .next s
  | some (g, f) =>
    if !g.waitOver f.wait s.time || f.stopped then .next s
    else
      match (s.core core).fetch (s.teamOf g).ctx f.pc.toNat with
      | .missing a => .next (s.attempt (some (s.teamOf g).grid) fun s => s.fillLine core slot entry g f a)
      | _ => .next s

end Sys2Proof.Machine
end

