-- ==== Sys2Proof/Machine/Async.lean ====
section
/-! DEFINITION. Engine operations: issue, batches and their waits, the copy engines' streams and chunks, copies and gathers, and
the load of the operand die (R162, R163, R242 to R244, R414 to R430, R448). -/
namespace Sys2Proof.Machine

/-! ## Batches (R416 to R418, R448) -/

/-- Whether an operation of a batch is incomplete, for reading or for both. -/
def State.batchOpen (s : State) (guid cls : Nat) (v : Bool) (n : BitVec 16) : Bool :=
  s.ops.any fun (_, o) => o.guid == guid && o.cls == cls && o.batch == n && (if v then !o.vDone else !o.rDone)

/-- A completion number advanced over sealed batches that are complete (R416). -/
def advanceNumber (closed : BitVec 16) (busy : BitVec 16 → Bool) (done : BitVec 16) : Nat → BitVec 16
  | 0 => done
  | fuel + 1 => if done == closed || busy (done + 1) then done else advanceNumber closed busy (done + 1) fuel

/-- A class's completion numbers brought up to the operations that are incomplete (R416). -/
def State.advancedBatch (s : State) (guid cls : Nat) (b : Batch) : Batch :=
  { b with doner := advanceNumber b.closed (s.batchOpen guid cls false) b.doner (b.closed - b.doner).toNat
           donev := advanceNumber b.closed (s.batchOpen guid cls true) b.donev (b.closed - b.donev).toNat }

/-- Whether a completion number has come to a batch (R417). -/
def Batch.reached (b : Batch) (v : Bool) (n : BitVec 16) : Bool := (b.number v - n).toNat < 2 ^ 15

/-- The delay of a WAITB after its completion (R448). -/
def batchDelay (cls cyc : Nat) : Nat := if cls == 2 || cls == 3 || cls == 6 then 4 * cyc else fixedCycles 160

/-- A group whose completion numbers of a class have advanced: the waits that they cover end, and instructions that wait for
room in the class issue again. -/
def Group.afterBatch (g : Group) (cls : Nat) (b : Batch) (now cyc : Nat) : Group :=
  { g with
    batches := lset g.batches cls b
    split := tmap g.split fun _ f => match f.wait with
      | .batch k v n =>
        if k == cls && b.reached v n then { f with wait := .none, notBefore := max f.notBefore (now + batchDelay cls cyc) } else f
      | .ops k => if k == cls then { f with wait := .none } else f
      | _ => f }

/-- The core of a group, where it is resident. -/
def State.coreOfGroup (s : State) (guid : Nat) : Nat := ((s.groupKey? guid).getD 0) / 128

/-- The completion numbers of a group's class advance, and what waits for them goes on (R401, R416, R417). -/
def State.advanceBatches (s : State) (guid cls : Nat) : State :=
  if cls ≥ 8 then s
  else (s.modGroup guid fun g => g.afterBatch cls (s.advancedBatch guid cls (g.batches.getD cls {})) s.time (s.cyc (s.coreOfGroup guid))).firePlaza

/-- CLOSE (R416): the open batch is sealed and its number goes to D. -/
def execClose (o : Operands) (s : State) : Host.Outcome State Fault Refusal :=
  runState 0xE6 o ctlTiming s fun c =>
    let cls := o.fn.toNat
    let b := c.g.batches.getD cls {}
    if b.closed - b.donev == 32767 then .ok (.stall (s.waitFrag c (.ops cls)))
    else do
      c.check true [] o.d false [] false
      let closed := b.closed + 1
      let e ← c.result o.d false 1 0 (.uni closed.toNat) c.f.mask
      let g := { (e.apply c o.q c.g) with batches := lset c.g.batches cls { b with closed := closed } }
      .ok (.stall ((s.afterIssue c o 1 (c.advance 0xE6 o g)).advanceBatches c.g.uid cls))

/-- WAITB (R417). -/
def execWaitb (o : Operands) (s : State) : Host.Outcome State Fault Refusal :=
  runState 0xE7 o ctlTiming s fun c => do
    c.check true [raw32 o.a] 120#7 false [] false
    let cls := o.fn.toNat % 8
    let v := o.fn.toNat ≥ 8
    let n := BitVec.ofNat 16 (c.single o o.a)
    .ok (.issued s (if (c.g.batches.getD cls {}).reached v n then c.advance 0xE7 o c.g
      else c.blocked 0xE7 o c.g (.batch cls v n)) true)

/-- What an MFENCE that issues now waits for (R243): the register writes of the group that are outstanding, and its loads. -/
def Ctx.fence (c : Ctx) (s : State) : Wait :=
  .mfence c.now ((c.g.outs.filter fun w => match w.dst with | .reg _ _ => true | _ => false).foldl (fun a w => w.avail.foldl max a) 0)
    (tkeys s.accs fun _ a => a.guid == c.g.uid && a.ldc && a.dst.toNat < 120)

/-- MFENCE (R243, R431): the fragment issues again once every register write that the group issued before it is available; an STS is
performed as it issues. -/
def execMfence (o : Operands) (s : State) : Host.Outcome State Fault Refusal :=
  runGroup 0xE9 o ctlTiming s fun c =>
    .ok (if c.g.waitOver (c.fence s) c.now then c.advance 0xE9 o c.g else c.blocked 0xE9 o c.g (c.fence s), true)

/-! ## Issue (R414, R418, R419) -/

/-- The first address of a list that is not aligned as its entry requires. -/
def alignChecks (l : List (Nat × Nat)) : Except Trap Unit :=
  match l.find? fun x => x.1 % x.2 != 0 with
  | some (a, _) => .error (.misaligned 255 (BitVec.ofNat 64 a))
  | none => .ok ()

/-- The first memory address of a list with a nonzero bit in [63:52]. -/
def topChecks (l : List Nat) : Except Trap Unit :=
  match l.find? fun a => a ≥ 2 ^ 52 with
  | some a => .error (.protection 3 255 (BitVec.ofNat 64 a))
  | none => .ok ()

/-- The first range of a list, by start and length, that lies outside a bound. -/
def rangeChecks (size : Nat) (l : List (Nat × Nat)) : Except Trap Unit :=
  match l.find? fun x => x.1 + x.2 > size with
  | some (a, _) => .error (.protection 7 255 (BitVec.ofNat 64 a))
  | none => .ok ()

/-- Illegal Instruction with SUB 4, with an address, where a field is out of its range. -/
def fieldChecks (ok : Bool) (addr : Nat) : Except Trap Unit :=
  if ok then .ok () else .error { Trap.illegal 4 with addr := BitVec.ofNat 64 addr }

/-- A descriptor of a team's scratchpad: aligned, and within the bound. -/
def State.descriptor (s : State) (team at' n : Nat) : Except Trap (List Byte) := do
  alignChecks [(at', n)]
  rangeChecks (s.scratchSize team) [(at', n)]
  .ok (cread (s.teamAt team).scratch at' n)

/-- The incomplete operations of a group in a class (R418). -/
def State.opsFull (s : State) (guid cls : Nat) : Bool := (s.ops.filter fun e => e.2.guid == guid && e.2.cls == cls).length ≥ 64

/-- An operation of the group that issues: it joins the open batch (R416). -/
def Ctx.operation (c : Ctx) (s : State) (cls : Nat) (kind : OpKind) : EngineOp :=
  let t := s.teamOf c.g
  { kind := kind, core := c.core, slot := c.slot, guid := c.g.uid, team := c.g.team, ctx := t.ctx, task := t.task, pc := c.f.pc
    cls := cls, batch := (c.g.batches.getD cls {}).closed + 1, gix := c.g.gix, issued := s.time }

/-- An operation is under way; a copy engine's joins its stream (R162, R163). -/
def State.addOp (s : State) (o : EngineOp) : Nat × State :=
  let (id, s) := s.fresh
  let s := { s with ops := tset s.ops id o }
  (id, match o.engine with
    | some e => s.joinStream e (o.stream id)
    | none => s)

/-- What an engine instruction starts: its operation, whether a copy engine serves it, whether it sets NR, and the teams whose
inbound counters count it. -/
structure AsyncStart where
  kind : OpKind
  copy : Bool := false
  nr : Bool := false
  inbound : List Nat := []

/-- The common course of an engine instruction (R414, R418, R419). -/
def asyncInstr (code cls : Nat) (srcs : List Src) (o : Operands) (s : State) (body : Ctx → Except Trap AsyncStart) :
    Host.Outcome State Fault Refusal :=
  runState code o memTiming s fun c =>
    if c.mask != 0 && s.opsFull c.g.uid cls then .ok (.stall (s.waitFrag c (.ops cls)))
    else do
      c.check true srcs 120#7 false
      if c.mask == 0 then .ok (.issued s (c.advance code o c.g) false)
      else
        let a ← body c
        let s := if a.nr then s.setNr c.g.team else s
        let s := a.inbound.foldl (fun s k => s.setTeam k { s.teamAt k with inbound := (s.teamAt k).inbound + 1 }) s
        let op := { c.operation s cls a.kind with engine := if a.copy then some (chipOf (c.core / 8)) else none }
        .ok (.issued (s.addOp op).2 (c.advance code o c.g) false)

/-! ## Translation and data of an operation (R241, R242, R421) -/

/-- The grid that an operation is charged to (R114, R121). -/
def State.opGrid (s : State) (o : EngineOp) : Nat :=
  match o.kind with
  | .sched g _ _ _ _ _ _ => g
  | _ => (s.teamAt o.team).grid

/-- The grid that the memory accesses of an operation are charged to, if any: a checkpoint's are charged to none. -/
def State.opPayer (s : State) (o : EngineOp) : Option Nat :=
  match o.kind with
  | .page _ _ _ _ _ => none
  | _ => some (s.opGrid o)

/-- A charge of an operation. -/
def State.opCharge (s : State) (o : EngineOp) (res n : Nat) : State :=
  match s.opPayer o with
  | none => s
  | some g => s.charge g res n

/-- Where an operation reaches an address, or none: it stalls on a fault, or its domain is aborted (R421). -/
def State.opXlate (s : State) (id va : Nat) (write : Bool) : State × Option Loc :=
  match tget? s.ops id with
  | none => (s, none)
  | some o =>
    let w : Walk := { chiplet := chipOf (o.core / 8), core := o.core, ctx := o.ctx, vas := [(255, va)], write := write, fetch := false
                      ats := false, frag := none, op := some id, started := s.time }
    let ask (s : State) : State :=
      { s with ops := tmod s.ops id fun o => { o with stalled := true } }.beginWalk { w with ats := true }
    if va ≥ 2 ^ 52 then (s.opAbort id 8 3 va 0 write, none)
    else if (s.ctxAt o.ctx).hostManaged va then
      match s.tlbFind o.core o.ctx va with
      | some e =>
        if e.ats && (!write || e.w) then (s, some (e.loc va))
        else
          (ask s, none)
      | none => (ask s, none)
    else
      let (s, r) := s.walkBy w.chiplet o.ctx va
      match r with
      | .fault => (s.pageFault w 255 va, none)
      | .malformed => (s.opAbort id 8 4 va 0 write, none)
      | .leaf e pte =>
        if s.xlateFails e va write false 6 then (s.opAbort id 8 6 va 0 write, none)
        else if s.xlateFails e va write false 1 then (s.opAbort id 8 1 va 0 write, none)
        else if s.xlateFails e va write false 5 then (s.opAbort id 8 5 va 0 write, none)
        else (s.touchPte pte write, some (e.loc va))

/-- The places of a range, a piece for each page. -/
def State.opPlaces (s : State) (id va n : Nat) (write : Bool) : State × Option (List (Nat × Nat × Loc)) :=
  (pagePieces va n).foldl (fun (st : State × Option (List (Nat × Nat × Loc))) p =>
    match st.2 with
    | none => st
    | some l =>
      let (s, r) := st.1.opXlate id (va + p.1) write
      (s, r.map fun x => l ++ [(p.1, p.2, x)])) (s, some [])

/-- The pieces of a range that lie in one 64-byte sector each: offset and length. -/
def sectorPieces (base n : Nat) : List (Nat × Nat) :=
  (List.range ((base + n + 63) / 64 - base / 64)).map fun i =>
    let lo := max base ((base / 64 + i) * 64)
    (lo - base, min (base + n) ((base / 64 + i + 1) * 64) - lo)

/-- Bytes that a peer has returned to an operation, kept with a mark for each. -/
def State.opTake (s : State) (id va : Nat) (bs : List Byte) : State :=
  { s with ops := tmod s.ops id fun o =>
      { o with reads := o.reads - 1, buf := bs.zipIdx.foldl (fun m (b, i) => cset (cset m (2 * (va + i)) b) (2 * (va + i) + 1) 1) o.buf } }

/-- Whether an operation holds the peer bytes of a range. -/
def EngineOp.has (o : EngineOp) (va n : Nat) : Bool := (List.range n).all fun i => cget o.buf (2 * (va + i) + 1) == 1

/-- The source of an operation's packets (R33): its copy engine, else the cluster that it was issued in. -/
def EngineOp.source (o : EngineOp) : PktSource := match o.engine with | some e => .engine e | none => .cluster (o.core / 8)

/-- Requests for the bytes of a peer's range that an operation lacks. -/
def State.askPeer (s : State) (id va n : Nat) (dev : BitVec 14) (pa : Nat) : State :=
  (sectorPieces pa n).foldl (fun s p =>
    match tget? s.ops id with
    | none => s
    | some o =>
      if o.has (va + p.1) p.2 then s
      else
        { s with ops := tset s.ops id { o with reads := o.reads + 1 } }.peerAsk o.source (.opRead id (va + p.1))
          { op := 0x01#8, src := 0, dst := dev, tag := 0, fn := 0, stat := 0, size := BitVec.ofNat 6 (p.2 - 1)
            addr := BitVec.ofNat 50 (pa + p.1), tc := 1, data := [] }) s

/-- Memory bytes that an operation reads as committed data (R241), or none while it stalls, waits for a peer, or is aborted. -/
def State.opRead (s : State) (id va n : Nat) : State × Option (List Byte) :=
  match s.opPlaces id va n false, tget? s.ops id with
  | (s, some places), some o0 =>
    let lacks := places.any fun (off, k, loc) => match loc with | .peer _ _ => !o0.has (va + off) k | _ => false
    if lacks then
      (places.foldl (fun s (off, k, loc) => match loc with
        | .peer d pa => s.askPeer id (va + off) k d pa
        | _ => s) s, none)
    else
      places.foldl (fun (st : State × Option (List Byte)) (off, k, loc) =>
        match st with
        | (s, none) => (s, none)
        | (s, some bs) =>
          match loc with
          | .dev pa =>
            if s.badRange pa k then (s.opAbort id 0x0F 0 (va + off) 0 false, none)
            else
              let (s, b) := (s.opCharge o0 2 k).readNow pa k
              (s, some (bs ++ b))
          | .host a =>
            ({ ((s.opCharge o0 2 k).tellRead o0.ctx a k) with free := s.free + 1 }, some (bs ++ s.hostRead a k))
          | .peer _ _ => (s, some (bs ++ (List.range k).map fun i => cget o0.buf (2 * (va + off + i))))) (s, some [])
  | (s, _), _ => (s, none)

/-- A peer's range is written by packets: bulk writes of whole 64-byte units, and stores for the rest (R32, R36). -/
def State.writePeer (s : State) (id : Nat) (o : EngineOp) (dev : BitVec 14) (pa : Nat) (bs : List Byte) : State :=
  let n := bs.length
  let head := min n ((64 - pa % 64) % 64)
  let mid := (n - head) / 64 * 64
  let parts := [(0, head), (head, mid), (head + mid, n - head - mid)].filter fun p => p.2 != 0
  let s := parts.foldl (fun s (off, k) =>
    let bulk := off == head && k == mid
    s.peerAsk o.source (.opWrite id)
      { op := if bulk then 0x10#8 else 0x02#8, src := 0, dst := dev, tag := 0, fn := 0, stat := 0
        size := BitVec.ofNat 6 (if bulk then k / 64 - 1 else k - 1), addr := BitVec.ofNat 50 (pa + off), tc := if bulk then 3 else 1
        data := (bs.drop off).take k }) s
  { s with ops := tmod s.ops id fun o => { o with bulk := o.bulk + parts.length } }

/-- Memory bytes that an operation writes as direct stores (R182, R242), and whether it has. -/
def State.opWrite (s : State) (id va : Nat) (bs : List Byte) : State × Bool :=
  match s.opPlaces id va bs.length true, tget? s.ops id with
  | (s, some places), some o =>
    (places.foldl (fun s (off, k, loc) =>
      let b := (bs.drop off).take k
      match loc with
      | .dev pa => (s.opCharge o 2 k).writeNow pa b
      | .host a => ((s.opCharge o 2 k).opCharge o 3 k).hostWrite o.ctx a b
      | .peer d pa => (s.opCharge o 2 k).writePeer id o d pa b) s, true)
  | (s, _), _ => (s, false)

/-! ## Units of the copy engines' operations (R163, R420, R424 to R428) -/

/-- The units of an operation that a copy engine serves: bytes, elements or rows. -/
def OpKind.total : OpKind → Nat
  | .cpy _ _ _ _ len => len
  | .cpym _ _ len _ => len
  | .stage _ _ _ rows rb _ _ => rows * rb
  | .gath _ _ _ _ count _ _ => count
  | .gcsr _ count _ _ _ _ _ _ => count
  | .sched _ _ _ _ _ _ len => len
  | .page _ _ len _ _ => len
  | _ => 0

/-- The scratchpad bytes of an operation's team. -/
def State.opScratch (s : State) (o : EngineOp) (at' n : Nat) : List Byte := cread (s.teamAt o.team).scratch at' n

/-- An operation with units done: what a peer gave for them is used up. -/
def State.opDid (s : State) (id n : Nat) : State :=
  { s with ops := tmod s.ops id fun o => { o with units := o.units + n, buf := [] } }

/-- What the elements of a device source hold as an engine begins to read them. -/
def State.opSample (s : State) (o : EngineOp) (fromScr : Bool) (src n w : Nat) : List (Option Byte) :=
  if fromScr then (s.opScratch o src n).map some
  else (List.range (n / w)).flatMap fun i =>
    match s.xlateNow o.ctx (src + w * i) false with
    | .ok (.dev pa) => (cread s.mem pa w).map some
    | _ => List.replicate w none

/-- The bytes that an engine has read: each element as it was first, or as it is at the end (R242). -/
def mixRead (n w : Nat) (early : List (Option Byte)) (bs : List Byte) : List Byte :=
  bs.zipIdx.map fun (b, i) => if Config.freeBit n (i / w) then ((early.getD i none).getD b) else b

/-- The elements of a list of bytes that an engine writes in the first part, or in the rest, of a piece: offsets and bytes. -/
def halfOf (n w base : Nat) (first : Bool) (bs : List Byte) : List (Nat × List Byte) :=
  ((List.range (bs.length / w)).filter fun i => Config.freeBit n (base / w + i) == first).map fun i => (w * i, (bs.drop (w * i)).take w)

/-- Some of the elements of a piece are written, each once; a host's or a peer's range is written with the rest (R242). Whether they
have been. -/
def State.opPut (s : State) (id : Nat) (o : EngineOp) (toScr : Bool) (dst w seed : Nat) (first : Bool) (bs : List Byte) : State × Bool :=
  if toScr then ((halfOf seed w 0 first bs).foldl (fun s (i, b) => s.scratchWrite o.team (dst + i) b) s, true)
  else
    match s.opPlaces id dst bs.length true with
    | (s, none) => (s, false)
    | (s, some places) =>
      (places.foldl (fun s (off, k, loc) =>
        let b := (bs.drop off).take k
        match loc with
        | .dev pa =>
          let l := halfOf seed w off first b
          l.foldl (fun s (i, e) => s.homeStore (pa + i) e) ((s.opCharge o 2 (w * l.length)).claimRange pa k)
        | .host a => if first then s else ((s.opCharge o 2 k).opCharge o 3 k).hostWrite o.ctx a b
        | .peer d pa => if first then s else (s.opCharge o 2 k).writePeer id o d pa b) s, true)

/-- A step of a copy from a source side to a destination side, in elements of `w` bytes: `n` source bytes are read, each element at one
of two moments, and then written, a part that the room left allows in two goes (R242). The bytes that have been written. -/
def State.opMove (s : State) (id : Nat) (o : EngineOp) (fromScr toScr : Bool) (src dst n w room : Nat) : State × Nat :=
  let upd (s : State) (f : EngineOp → EngineOp) : State := { s with free := s.free + 1, ops := tmod s.ops id f }
  if o.held == [] then
    if o.early == [] then (upd s fun o => { o with early := s.opSample o fromScr src n w }, 0)
    else
      match (if fromScr then (s, some (s.opScratch o src n)) else s.opRead id src n) with
      | (s, none) => (s, 0)
      | (s, some bs) => (upd s fun o => { o with early := [], held := mixRead s.free w o.early bs }, 0)
  else
    match o.half with
    | none =>
      let k := min room o.held.length
      match s.opPut id o toScr dst w s.free true (o.held.take k) with
      | (t, true) => (upd t fun o => { o with half := some (s.free, k) }, 0)
      | (t, false) => (t, 0)
    | some (seed, k) =>
      match s.opPut id o toScr dst w seed false (o.held.take k) with
      | (t, true) => (upd t fun o => { o with held := o.held.drop k, half := none }, k)
      | (t, false) => (t, 0)

/-- An element of a gather or a scatter (R427): its memory address, and whether it is aligned. -/
def State.gathVa (s : State) (o : EngineOp) (base idx size sh : Nat) : Nat × Bool :=
  let va := base + leNat (s.opScratch o (idx + 4 * o.units) 4) * 2 ^ sh
  (va, va % size == 0)

/-- A part of a row of GCSR (R428): the row's bounds, with the write of its offset, or pairs below CAP up to the room left; the bytes
it counts for. -/
def State.gcsrPart (s : State) (id : Nat) (o : EngineOp) (rows rowptr colidx vals out off cap room : Nat) : State × Nat :=
  let upd (s : State) (f : EngineOp → EngineOp) : State := { s with ops := tmod s.ops id f }
  let next (n : Nat) (o : EngineOp) : EngineOp := { o with acc := o.acc + n, row := none, units := o.units + 1, buf := [] }
  if room < 8 then (s, room)
  else
    match o.row with
    | none =>
      match s.opRead id (rowptr + 4 * leNat (s.opScratch o (rows + 4 * o.units) 4)) 8 with
      | (s, none) => (s, 0)
      | (s, some w) =>
        let (a, n) := (leNat (w.take 4), leNat (w.drop 4) - leNat (w.take 4))
        let s := s.scratchWrite o.team (off + 4 * o.units) (leBytes 4 o.acc)
        (upd s fun o => if min n (cap - o.acc) == 0 then next n o else { o with row := some (a, n, 0), buf := [] }, 8)
    | some (a, n, q) =>
      let k := min (min n (cap - o.acc) - q) (room / 8)
      match s.opRead id (colidx + 4 * (a + q)) (4 * k) with
      | (s, none) => (s, 0)
      | (s, some cs) =>
        match s.opRead id (vals + 4 * (a + q)) (4 * k) with
        | (s, none) => (s, 0)
        | (s, some vs) =>
          let pairs := (List.range k).flatMap fun i => (cs.drop (4 * i)).take 4 ++ (vs.drop (4 * i)).take 4
          let s := s.scratchWrite o.team (out + 8 * (o.acc + q)) pairs
          (upd s fun o => if q + k == min n (cap - o.acc) then next n o else { o with row := some (a, n, q + k), buf := [] }, 8 * k)

/-- Bytes of a CPYM go to a team's scratchpad on its cluster's receive channel, from the station of the copy engine (R146, R162). -/
def State.sendPanel (s : State) (id team off : Nat) (bs : List Byte) : State :=
  let pieces := (List.range ((bs.length + 255) / 256)).map fun i => (off + 256 * i, (bs.drop (256 * i)).take 256)
  let s := pieces.foldl (fun s (at', b) => s.send (.panel id team at' b) (s.teamAt team).core 96 false) s
  { s with ops := tmod s.ops id fun o => { o with bulk := o.bulk + pieces.length } }

/-- A 4 KiB page of a checkpoint entry is sent on the entry's port (R45, R46). -/
def State.sendPage (s : State) (o : EngineOp) (src dst port : Nat) (dev : BitVec 14) : State × Bool :=
  let (s, bs) := s.readNow src 4096
  let item : Outgoing :=
    { pkt := { op := 0x30#8, src := s.peer.devid, dst := dev, tag := 0, fn := 0, stat := 0, size := 0, addr := BitVec.ofNat 50 dst, tc := 5, data := bs }
      source := o.source, owner := .page s.peer.ck.run }
  let p := s.port port
  let s := s.setPort port { p with waiting := p.waiting ++ [item] }
  ({ s with peer := { s.peer with ck := { s.peer.ck with pages := s.peer.ck.pages + 1 } } }, true)

/-- A warm entry's lines come into their home slices as clean committed lines (R121). -/
def State.warm (s : State) (id src n : Nat) : State × Bool :=
  match s.opPlaces id src n false with
  | (s, none) => (s, false)
  | (s, some places) =>
    let (s, bad) := places.foldl (fun (st : State × Option Nat) (off, k, loc) => match loc with
      | .dev pa =>
        let s := st.1.reach pa k false
        (s, if s.badRange pa k then some (st.2.getD (src + off)) else st.2)
      | _ => st) (s, none)
    match bad with
    | some va => (s.opAbort id 0x0F 0 va 0 false, false)
    | none => (s, true)

/-- One step of an operation in a chunk with room for some bytes, and the bytes that it takes of that. -/
def State.opStep (s : State) (id : Nat) (o : EngineOp) (room : Nat) : State × Nat :=
  let did (r : State × Bool) (n : Nat) : State × Nat := if r.2 then (r.1.opDid id n, n) else (r.1, 0)
  let move (f t : Bool) (src dst n : Nat) : State × Nat :=
    let (s, k) := s.opMove id o f t src dst n 4 room
    if k == 0 then (s, 0) else (s.opDid id k, k)
  let left := o.kind.total - o.units
  let unit := min (4096 - o.units % 4096) left
  match o.kind with
  | .cpy f t dst src _ => move f t (src + o.units) (dst + o.units) unit
  | .cpym off src _ targets =>
    let n := min room unit
    match s.opRead id (src + o.units) n with
    | (s, none) => (s, 0)
    | (s, some bs) => did (targets.foldl (fun s k => s.sendPanel id k (off + o.units) bs) s, true) n
  | .stage out mem scr _ rb mp sp =>
    let (r, x) := (o.units / rb, o.units % rb)
    let (m, c) := (mem + r * mp + x, scr + r * sp + x)
    if out then move true false c m (min 4096 (rb - x)) else move false true m c (min 4096 (rb - x))
  | .gath scat base idx data _ size sh =>
    let (va, ok) := s.gathVa o base idx size sh
    let at' := data + o.units * size
    if !ok then (s.opAbort id 6 0 va 0 scat, 0)
    else if room < size then (s, room)
    else
      let (s, k) := if scat then s.opMove id o true false at' va size size room else s.opMove id o false true va at' size size room
      if k == 0 then (s, 0) else (s.opDid id 1, k)
  | .gcsr rows _ rowptr colidx vals out off cap => s.gcsrPart id o rows rowptr colidx vals out off cap room
  | .sched _ _ _ warm src dst _ =>
    let n := min room left
    if warm then did (s.warm id (src + o.units) n) n else move false false (src + o.units) (dst + o.units) unit
  | .page src dst _ dev port => did (s.sendPage o (src + o.units) (dst + o.units) port dev) (min room left)
  | _ => (s, 0)

/-- Whether an operation of a copy engine has not read all of its source (R242). -/
def EngineOp.unread (o : EngineOp) : Bool :=
  let pending := match o.kind with
    | .gath _ _ _ _ _ _ _ => if o.held == [] then 0 else 1
    | _ => o.held.length
  decide (o.units + pending < o.kind.total)

/-- An operation is over without its completion: a CPYM leaves its targets' inbound counters. -/
def State.dropOp (s : State) (id : Nat) : State :=
  match tget? s.ops id with
  | none => s
  | some o =>
    let s := match o.kind with
      | .cpym _ _ _ targets => targets.foldl (fun (s : State) k => s.setTeam k { s.teamAt k with inbound := (s.teamAt k).inbound - 1 }) s
      | _ => s
    { s with ops := tdel s.ops id }

/-- Whether a copy engine can take a chunk of an operation. -/
def EngineOp.canStep (o : EngineOp) : Bool := o.ended || (o.units < o.kind.total && !o.stalled && o.reads == 0)

/-- The streams of an engine that still have units to do; waiting streams come in, in their order (R163). -/
def State.refreshEngine (s : State) (e : Nat) : State :=
  let x := tgetD s.engines e {}
  let live (k : Nat) : Bool := s.ops.any fun (id, o) => o.engine == some e && o.stream id == k && o.units < o.kind.total
  let before := (x.active.take x.pointer).filter live
  let active := x.active.filter live
  let waiting := x.waiting.filter live
  let room := 256 - active.length
  { s with engines := tset s.engines e { x with active := active ++ waiting.take room, waiting := waiting.drop room, pointer := before.length } }

/-- A copy engine serves a step of a stream's chunk; the pointer goes past the stream once its chunk of 4 KiB is served, or once the
stream cannot go on (R163). -/
def State.serveStream (s : State) (engine id : Nat) (o : EngineOp) (i : Nat) : State :=
  let x := tgetD s.engines engine {}
  let key := o.stream id
  let room := match x.serving with
    | some (k, r) => if k == key then r else 4096
    | none => 4096
  if o.ended then (s.dropOp id).refreshEngine engine
  else
    let (s, n) := s.opStep id o room
    let going := n < room && (match tget? s.ops id with | some o => !o.ended && !o.stalled && o.reads == 0 | none => false)
    let x := if going then { x with pointer := i, serving := some (key, room - n) } else { x with pointer := i + 1, serving := none }
    { s with engines := tset s.engines engine x }.refreshEngine engine

/-- COPY_CHUNK (R163): round-robin, from the pointer, the first active stream that can go on is served. -/
def execCopyChunk (engine : Nat) (s : State) : Host.Outcome State Fault Refusal :=
  let x := tgetD s.engines engine {}
  let order := (x.active.zipIdx.drop x.pointer) ++ (x.active.zipIdx.take x.pointer)
  let pick := order.findSome? fun (k, i) =>
    (s.ops.find? fun (id, o) => o.engine == some engine && o.stream id == k && o.canStep).map fun e => (e.1, e.2, i)
  match pick with
  | none => .next s
  | some (id, o, i) => .next (s.attempt (s.opPayer o) fun s => s.serveStream engine id o i)

/-! ## Copies (R424 to R426) -/

/-- The checks of CPY and the operation it starts (R424). -/
def cpyStart (o : Operands) (s : State) (c : Ctx) : Except Trap AsyncStart := do
  let fromScr := o.fn.toNat ≥ 2
  let toScr := o.fn.toNat % 2 == 1
  let dst := c.single o o.a (!toScr)
  let src := c.single o o.b (!fromScr)
  let len := c.single o o.c
  alignChecks [(dst, 4), (src, 4)]
  topChecks ((if toScr then [] else [dst]) ++ (if fromScr then [] else [src]))
  rangeChecks (s.scratchSize c.g.team) ((if toScr then [(dst, len)] else []) ++ (if fromScr then [(src, len)] else []))
  fieldChecks (len % 4 == 0) 0
  .ok { kind := .cpy fromScr toScr dst src len, copy := true, nr := !toScr }

/-- CPY (R424). -/
def execCpy (o : Operands) (s : State) : Host.Outcome State Fault Refusal :=
  let fromScr := o.fn.toNat ≥ 2
  let toScr := o.fn.toNat % 2 == 1
  asyncInstr 0xE0 0 [⟨o.a, !toScr, [], .zext⟩, ⟨o.b, !fromScr, [], .zext⟩, raw32 o.c] o s (cpyStart o s)

/-- The checks of CPYM and the operation it starts (R425). -/
def cpymStart (o : Operands) (s : State) (c : Ctx) : Except Trap AsyncStart := do
  let off := c.single o o.a
  let src := c.single o o.b true
  let w := c.single o o.c
  let len := w % 2 ^ 19
  let places := (List.range 8).filter fun k => w.testBit (24 + k)
  let targets := places.filterMap fun k => s.placeOf c.g.team k
  topChecks [src]
  if places == [] || targets.length != places.length then .error (.protection 7 255 0)
  else do
    rangeChecks ((targets.map s.scratchSize).foldl min (2 ^ 32)) [(off, len)]
    fieldChecks (fld w 23 19 == 0 && len % 4 == 0) 0
    .ok { kind := .cpym off src len targets, copy := true, inbound := targets }

/-- CPYM (R425): the places that are named must have teams. -/
def execCpym (o : Operands) (s : State) : Host.Outcome State Fault Refusal :=
  asyncInstr 0xE1 0 [raw32 o.a, ⟨o.b, true, [], .zext⟩, raw32 o.c] o s (cpymStart o s)

/-- The checks of STAGE and the operation it starts (R426). -/
def stageStart (o : Operands) (s : State) (c : Ctx) : Except Trap AsyncStart := do
  let at' := c.single o o.a
  let d ← s.descriptor c.g.team at' 32
  let (mem, scr, rows, rb) := (bytesAt d 0 8, bytesAt d 8 4, bytesAt d 12 4, bytesAt d 16 4)
  let (mp, sp) := (bytesAt d 20 4, bytesAt d 24 4)
  let out := o.fn == 1#5
  alignChecks [(mem, 4), (scr, 4)]
  topChecks [mem]
  rangeChecks (s.scratchSize c.g.team) [(scr, (rows - 1) * sp + rb)]
  fieldChecks (1 ≤ rows && rows ≤ 65536 && rb % 4 == 0 && 4 ≤ rb && rb ≤ 65536 && mp % 4 == 0 && sp % 4 == 0 && bytesAt d 28 4 == 0) at'
  .ok { kind := .stage out mem scr rows rb mp sp, copy := true, nr := out }

/-- STAGE (R426). -/
def execStage (o : Operands) (s : State) : Host.Outcome State Fault Refusal :=
  asyncInstr 0xE5 0 [raw32 o.a] o s (stageStart o s)

/-! ## Gathers (R427, R428) -/

/-- The checks of GATH and SCAT and the operation they start (R427). -/
def gathStart (scat : Bool) (o : Operands) (s : State) (c : Ctx) : Except Trap AsyncStart := do
  let at' := c.single o o.a
  let d ← s.descriptor c.g.team at' 32
  let (base, idx, data, count) := (bytesAt d 0 8, bytesAt d 8 4, bytesAt d 12 4, bytesAt d 16 4)
  let (esz, sh) := (bytesAt d 20 1, bytesAt d 21 1)
  let size := 2 ^ (esz % 4)
  alignChecks [(idx, 4), (data, size)]
  topChecks [base]
  rangeChecks (s.scratchSize c.g.team) [(idx, 4 * count), (data, size * count)]
  fieldChecks (1 ≤ count && count ≤ 65536 && esz < 4 && sh ≤ 32 && bytesAt d 22 10 == 0) at'
  .ok { kind := .gath scat base idx data count size sh, copy := true, nr := scat }

/-- GATH and SCAT (R427). -/
def gathInstr (code : Nat) (scat : Bool) (o : Operands) (s : State) : Host.Outcome State Fault Refusal :=
  asyncInstr code 1 [raw32 o.a] o s (gathStart scat o s)

/-- GATH (R427). -/
def execGath (o : Operands) (s : State) : Host.Outcome State Fault Refusal := gathInstr 0xE2 false o s

/-- SCAT (R427). -/
def execScat (o : Operands) (s : State) : Host.Outcome State Fault Refusal := gathInstr 0xE3 true o s

/-- The checks of GCSR and the operation it starts (R428). -/
def gcsrStart (o : Operands) (s : State) (c : Ctx) : Except Trap AsyncStart := do
  let at' := c.single o o.a
  let d ← s.descriptor c.g.team at' 64
  let (rowptr, colidx, vals) := (bytesAt d 0 8, bytesAt d 8 8, bytesAt d 16 8)
  let (rows, count, out) := (bytesAt d 24 4, bytesAt d 28 4, bytesAt d 32 4)
  let (off, cap) := (bytesAt d 36 4, bytesAt d 40 4)
  alignChecks [(rowptr, 4), (colidx, 4), (vals, 4), (rows, 4), (out, 8), (off, 4)]
  topChecks [rowptr, colidx, vals]
  rangeChecks (s.scratchSize c.g.team) [(rows, 4 * count), (out, 8 * cap), (off, 4 * (count + 1))]
  fieldChecks (1 ≤ count && count ≤ 65536 && bytesAt d 44 20 == 0) at'
  .ok { kind := .gcsr rows count rowptr colidx vals out off cap, copy := true }

/-- GCSR (R428). -/
def execGcsr (o : Operands) (s : State) : Host.Outcome State Fault Refusal :=
  asyncInstr 0xE4 1 [raw32 o.a] o s (gcsrStart o s)

/-! ## The operand die (R223, R429, R430) -/

/-- The key of a byte of a core's operand die: column slice and offset. -/
def dieKey (slice off : Nat) : Nat := slice * 65536 + off

/-- The blocks of the operand die that a range of offsets touches. -/
def dieBlocks (off n : Nat) : List Nat := if n == 0 then [] else (List.range ((off + n - 1) / 1024 - off / 1024 + 1)).map fun i => off / 1024 + i

/-- The checks of LDB and the operation it starts (R429). -/
def ldbStart (o : Operands) (s : State) (c : Ctx) : Except Trap AsyncStart := do
  let src := c.single o o.a true
  let off := c.single o o.b
  let k := c.single o o.c
  let w := 4 * 2 ^ (o.fn.toNat % 4)
  alignChecks [(src, 16)]
  topChecks [src]
  if off + k * w / 8 > 65536 then .error (.protection 7 255 0)
  else do
    fieldChecks (1 ≤ k && k ≤ 65536 && (w != 4 || k % 2 == 0)) 0
    .ok { kind := .ldb src off k w (o.fn.toNat ≥ 8) }

/-- LDB (R429). -/
def execLdb (o : Operands) (s : State) : Host.Outcome State Fault Refusal :=
  asyncInstr 0xE8 2 [⟨o.a, true, [], .zext⟩, raw32 o.b, raw32 o.c] o s (ldbStart o s)

/-- The bytes of column slice `j` that an LDB writes, from the bytes of its source (R429). -/
def dieColumn (src : List Byte) (rows width : Nat) (col : Bool) (j : Nat) : List Byte :=
  let elem (k : Nat) : Nat :=
    let e := if col then j * rows + k else 32 * k + j
    if width == 4 then bytesAt src (e / 2) 1 / 16 ^ (e % 2) % 16 else bytesAt src (width / 8 * e) (width / 8)
  if width == 4 then (List.range (rows / 2)).map fun i => BitVec.ofNat 8 (elem (2 * i) + 16 * elem (2 * i + 1))
  else (List.range rows).flatMap fun k => leBytes (width / 8) (elem k)

/-- A core's operand die after an LDB of a context: a block that it did not carry is zeroed first (R430). -/
def Core.writeDie (k : Core) (ctx off rows width : Nat) (col : Bool) (src : List Byte) : Core :=
  let blocks := dieBlocks off (rows * width / 8)
  let fresh := blocks.filter fun b => tget? k.dieOwner b != some ctx
  let clean := if fresh == [] then k.die else k.die.filter fun e => !fresh.contains (e.1 % 65536 / 1024)
  { k with
    die := (List.range 32).foldl (fun m j => cwrite m (dieKey j off) (dieColumn src rows width col j)) clean
    dieOwner := blocks.foldl (fun t b => tset t b ctx) k.dieOwner }

/-- An LDB reads its source and writes the operand die; whether it has. -/
def State.loadDie (s : State) (id : Nat) (o : EngineOp) (src off rows width : Nat) (col : Bool) : State × Bool :=
  match s.opRead id src (32 * rows * width / 8) with
  | (s, none) => (s, false)
  | (s, some bs) => (s.setCore o.core ((s.core o.core).writeDie o.ctx off rows width col bs), true)

end Sys2Proof.Machine
end

