-- ==== Sys2Proof/Machine/Matrix.lean ====
section
/-! DEFINITION. The matrix array, the accumulator ring and the epilogue engine (R221 to R225, R243, R265, R266, R295, R430 to
R438, R449, R450). -/
namespace Sys2Proof.Machine

/-! ## Formats (R432) -/

/-- The B format that FN names under an A format, or none where R432 has no such combination. -/
def mmaFormat (et fn : Nat) : Option Nat :=
  match fn with
  | 0 => if et == 6 || (8 ≤ et && et ≤ 11) then some et else none
  | 1 => if et == 10 || et == 11 then some 10 else none
  | 2 => if et == 10 || et == 11 then some 11 else none
  | 3 => if et == 10 || et == 11 then some 12 else none
  | 4 => if et == 10 || et == 11 then some 13 else none
  | _ => none

/-- K, the elements of a K-block, and the interval in cycles (R221, R295). -/
def mmaShape (et fmtB : Nat) : Nat × Nat × Nat :=
  match et with
  | 6 => (16, 16, 16)
  | 8 | 9 => (32, 32, 8)
  | _ => (64, 32, if fmtB ≥ 12 then 4 else 8)

/-- Whether the blocks of an A format have scales. -/
def mmaScaled (et : Nat) : Bool := et == 10 || et == 11

/-! ## One element (R295) -/

/-- A K-block's sum, scaled and rounded once, from its products and its two scales. -/
def blockSum (products : List Val) (sa sb : Nat) : Nat :=
  if sa == 255 || sb == 255 then fp32.nan
  else
    match products.foldl (fun (t x : Val) => t.add 0 x) (Val.fin false 0 0 false) with
    | .fin n m e st => if m == 0 then 0 else roundM (.fin n m (e + sa + sb - 254) st)
    | x => roundM x

/-- The exact products of an A element and a B element: against DS8, one for each of its two terms (R285). -/
def products (et fmtB a b : Nat) : List Val :=
  let x := elemVal et a
  if fmtB == 12 then (ds8Terms b).map x.mul else [x.mul (elemVal fmtB b)]

/-- A tile element after the blocks of an MMA, in ascending K. -/
def mmaElement (et fmtB : Nat) (a b : Nat → Nat) (sa sb : Nat → Nat) (c : Nat) : Nat :=
  let (k, blk, _) := mmaShape et fmtB
  (List.range (k / blk)).foldl (fun c j =>
    let ps := (List.range blk).flatMap fun i => products et fmtB (a (j * blk + i)) (b (j * blk + i))
    addM fp32 c (blockSum ps (sa j) (sb j))) c

/-! ## Tiles -/

/-- The physical tile of a position of a team (R224). -/
def Team.tile (t : Team) (pos : Nat) : Nat := t.tiles.getD pos 0

/-- An element of a tile. -/
def State.tileAt (s : State) (core tile i : Nat) : W32 := (tgetD (s.core core).ring tile zeroTile).getD i 0

/-- The tile that an operation uses. -/
def OpKind.tile : OpKind → Option Nat
  | .mma t _ _ _ _ _ _ _ _ _ _ => some t
  | .accnext t _ => some t
  | .epi _ t _ _ _ _ _ _ => some t
  | _ => none

/-- Whether an operation is an MMA, an MMAS or an ACCNEXT. -/
def OpKind.array : OpKind → Bool
  | .mma _ _ _ _ _ _ _ _ _ _ _ => true
  | .accnext _ _ => true
  | _ => false

/-- Whether an EPI of a group on a tile has not reached `.r`: a later MMA, ACCNEXT or ACCWR of the group is not ready (R436). -/
def State.epiPending (s : State) (guid tile : Nat) : Bool :=
  s.ops.any fun (_, o) => o.guid == guid && !o.rDone && match o.kind with | .epi _ t _ _ _ _ _ _ => t == tile | _ => false

/-- The fragment of an instruction that is not ready tries again some cycles later. -/
def State.retryLater (s : State) (c : Ctx) (cycles : Nat) : State := s.setGroup c.core c.slot (c.g.delay c.entry (c.now + cycles * c.cyc))

/-- Whether an operation still uses a tile of a core (R450), or an ACCWR writes it. -/
def State.tileBusy (s : State) (core tile : Nat) : Bool :=
  (s.ops.any fun (_, o) => o.core == core && o.kind.tile == some tile && !(match o.kind with | .epi _ _ _ _ _ _ _ _ => o.rDone | _ => o.vDone)) ||
    s.time < tgetD (s.core core).matrix.accwr tile 0

/-! ## Accumulator First-Use (R265, R266, R449, R450) -/

/-- A team's spilled tiles come back into its own tile numbers, and its TSPILL clears. -/
def State.readTiles (s : State) (team : Nat) : State :=
  let t := s.teamAt team
  let e := (s.gridAt t.grid).eff
  let a := s.areaOf team false
  let js := t.positions.filter fun j => t.tspill.getLsbD j
  let s := js.foldl (fun s j =>
    let (s, bs) := s.getArea a (e.tileAt false j) 4096
    s.setCore t.core ((s.core t.core).setTile (t.tile j) (wordsOf bs))) s
  let s := s.setTeam team { s.teamAt team with tspill := 0 }
  s.putArea a 30 (leBytes 2 0)

/-- The teams of other contexts that hold tiles of a core lazily. -/
def State.lazyOthers (s : State) (core ctx : Nat) : List Nat := tkeys s.teams fun k t => t.core == core && t.ctx != ctx && s.lazy k

/-- The tiles that teams of a context on a core were given afresh and First-Use has not reached become zero (R265, R449). -/
def State.zeroFresh (s : State) (core ctx : Nat) : State :=
  (tkeys s.teams fun _ t => t.core == core && t.ctx == ctx && t.state.here && t.untouched != []).foldl (fun s k =>
    let t := s.teamAt k
    let s := t.untouched.foldl (fun s j => s.setCore core ((s.core core).setTile (t.tile j) zeroTile)) s
    s.setTeam k { t with untouched := [] }) s

/-- The First-Use service for a team of a context: the state, and the tiles written and read. -/
def State.firstUse (s : State) (core team : Nat) : State × Nat :=
  let t := s.teamAt team
  let others := s.lazyOthers core t.ctx
  let out := others.foldl (fun n k => n + (s.teamAt k).lazyTiles.length) 0
  let back := (t.positions.filter fun j => t.tspill.getLsbD j).length
  let s := others.foldl (fun s k => s.spillTiles k (s.teamAt k).lazyTiles true) s
  let s := s.zeroFresh core t.ctx
  let s := if t.tspill == 0 then s else s.readTiles team
  (s.setCore core { s.core core with accown := some t.ctx }, out + back)

/-- What the check of a ring access finds (R265): it may issue, or the monitor serves First-Use first. -/
inductive RingCheck where
  | go (s : State)
  | again (s : State)

/-- The check of a ring access of the issuing group (R265). DEDUCED: a team with a tile that First-Use has not reached takes
First-Use whatever ACCOWN holds, since it is to find +0 there (R449) and no other context's data (log entry 140). -/
def State.ringCheck (s : State) (c : Ctx) : RingCheck :=
  let t := s.teamOf c.g
  let k := s.core c.core
  let reached := t.tspill == 0 && t.untouched == []
  if reached && k.accown == some t.ctx then .go s
  else if reached && k.accown.isNone then .go (s.setCore c.core { k with accown := some t.ctx })
  else
    let used := (s.lazyOthers c.core t.ctx).flatMap (fun k => (s.teamAt k).lazyTiles.map (s.teamAt k).tile) ++
      (t.positions.filter fun j => t.tspill.getLsbD j).map t.tile
    if used.any fun n => s.tileBusy c.core n then .again (s.retryLater c 8)
    else
      let (s, n) := s.firstUse c.core c.g.team
      .again ((s.tally c.core 13 1).setGroup c.core c.slot (c.g.delay c.entry (c.now + (200 + 64 * n) * c.cyc)))

/-- The common course of a ring instruction after its own checks: First-Use, then what it does. -/
def State.ringDo (s : State) (c : Ctx) (body : State → Except Trap Done) : Except Trap Done :=
  match s.ringCheck c with
  | .go s => body s
  | .again s => .ok (.stall s)

/-- Protection with SUB 7 for a tile position at or above the team's ACC (R433). -/
def State.tileCheck (s : State) (team pos : Nat) : Except Trap Unit :=
  if pos < (s.teamAt team).tiles.length then .ok () else .error (.protection 7 255 0)

/-! ## MMA, MMAS and ACCNEXT (R432 to R434) -/

/-- The issue-to-issue interval of an MMA in cycles, with any doubling in force (R79, R95, R221). DESIGN CHOICE: table T1, in which
R86 does not double intervals, does not lift the doubling of the bring-up clock (log entry 108). -/
def State.interval (s : State) (core n : Nat) : Nat :=
  let cl := s.cluster (core / 8)
  if !cl.cal || cl.doubled then 2 * n else n

/-- An operation waits for the matrix array. -/
def State.queueArray (s : State) (core id : Nat) : State :=
  let k := s.core core
  s.setCore core { k with matrix := { k.matrix with waiting := k.matrix.waiting ++ [id] } }

/-- The interval of an MMA under an A format and FN, without doubling (R221). -/
def mmaCycles (et fn : Nat) : Nat := (mmaShape et ((mmaFormat et fn).getD 0)).2.2

/-- An operation of an MMA starts: it is charged its interval (R114), counted (R97), and waits for the array. -/
def State.startMma (s : State) (c : Ctx) (grid cycles : Nat) (kind : OpKind) : State :=
  let s := (s.charge grid 1 (s.interval c.core cycles)).tally c.core 7 1
  let (id, s) := s.addOp (c.operation s 3 kind)
  (s.queueArray c.core id).exclude (c.core / 8)

/-- The checks on B of an MMA (R430, R433): its range, its scales' range, and the blocks' context. -/
def State.dieCheck (s : State) (core ctx ob n os ns : Nat) : Except Trap Unit :=
  if ob + n > 65536 || os + ns > 65536 then .error (.protection 7 255 0)
  else
    match (dieBlocks ob n ++ dieBlocks os ns).find? fun b => tget? (s.core core).dieOwner b != some ctx with
    | some b => .error (.protection 7 255 (BitVec.ofNat 64 (1024 * b)))
    | none => .ok ()

/-- The checks of an MMA or an MMAS from check 7 on, and the operation it starts (R430, R433). -/
def mmaStart (scr : Bool) (o : Operands) (s : State) (c : Ctx) : Except Trap OpKind := do
  let pos := o.d.toNat % 16
  let t := s.teamOf c.g
  let fmtB := (mmaFormat c.et o.fn.toNat).getD 0
  let (k, _, _) := mmaShape c.et fmtB
  let w := c.single o o.b
  let ob := w % 65536
  let os := fld w 30 16 * 2
  let nsb := w.testBit 31
  let at' := c.single o o.a
  if scr then alignChecks [(at', 64)]
  s.tileCheck c.g.team pos
  if scr then rangeChecks (s.scratchSize c.g.team) [(at', 2048)]
  s.dieCheck c.core t.ctx ob (k * elemWidth fmtB / 8) os (if mmaScaled c.et && !nsb then 2 else 0)
  fieldChecks (ob % 32 == 0) 0
  let a : List W32 := if scr then wordsOf (cread t.scratch at' 2048)
    else (List.range 512).map fun i => c.g.regLane c.seed (o.a.toNat + i / 64) (i % 64) c.now
  let scales := if o.c == 120#7 then none else some ((List.range 32).map fun l => BitVec.ofNat 32 (c.value (raw32 o.c) o l c.now))
  .ok (.mma (t.tile pos) c.et fmtB a ob os nsb scales c.mask scr (if scr then at' else o.a.toNat))

/-- An MMA or an MMAS with its A operand (R433). -/
def mmaInstr (code : Nat) (scr : Bool) (o : Operands) (s : State) : Host.Outcome State Fault Refusal :=
  runState code o ctlTiming s fun c =>
    let pos := o.d.toNat % 16
    let t := s.teamOf c.g
    let tile := t.tile pos
    if c.mask != 0 && s.opsFull c.g.uid 3 then .ok (.stall (s.waitFrag c (.ops 3)))
    else if c.mask != 0 && s.epiPending c.g.uid tile then .ok (.stall (s.waitFrag c (.ops 4)))
    else do
      let regs : List Src := if scr then [raw32 o.a] else (List.range 8).map fun k => ⟨o.a + BitVec.ofNat 7 k, false, [c.et], .zext⟩
      c.check (mmaFormat c.et o.fn.toNat).isSome (regs ++ [raw32 o.b, raw32 o.c]) 120#7 false
      if c.mask == 0 then .ok (.issued s (c.advance code o c.g) true)
      else
        let kind ← mmaStart scr o s c
        s.ringDo c fun s => .ok (.issued (s.startMma c t.grid (mmaCycles c.et o.fn.toNat) kind) (c.advance code o c.g) true)

/-- MMA (R433). -/
def execMma (o : Operands) (s : State) : Host.Outcome State Fault Refusal := mmaInstr 0xEA false o s

/-- MMAS (R433). -/
def execMmas (o : Operands) (s : State) : Host.Outcome State Fault Refusal := mmaInstr 0xEB true o s

/-- ACCNEXT (R434). -/
def execAccnext (o : Operands) (s : State) : Host.Outcome State Fault Refusal :=
  runState 0xEC o ctlTiming s fun c =>
    let pos := c.single o o.a
    let tile := (s.teamOf c.g).tile pos
    if c.mask != 0 && s.opsFull c.g.uid 3 then .ok (.stall (s.waitFrag c (.ops 3)))
    else if c.mask != 0 && s.epiPending c.g.uid tile then .ok (.stall (s.waitFrag c (.ops 4)))
    else do
      c.check true [raw32 o.a] 120#7 false
      if c.mask == 0 then .ok (.issued s (c.advance 0xEC o c.g) true)
      else
        s.tileCheck c.g.team pos
        s.ringDo c fun s =>
          let (id, s) := s.addOp (c.operation s 3 (.accnext tile c.mask))
          .ok (.issued (s.queueArray c.core id) (c.advance 0xEC o c.g) true)

/-! ## The array (R222, R223, R243) -/

/-- The byte of column slice `j` that an MMA reads: where an LDB of the core that is not complete writes it, the old one or the
new one (R243, R429). -/
def State.dieByte (s : State) (core j off : Nat) : Nat :=
  let k := s.core core
  let old := (cget k.die (dieKey j off)).toNat
  s.ops.foldl (fun b (id, o) =>
    match o.kind with
    | .ldb src at' rows width col =>
      if o.core != core || o.vDone || o.ended || off < at' || at' + rows * width / 8 ≤ off then b
      else if Config.freeBit s.free (2 ^ 24 + id * 2 ^ 22 + dieKey j off) then
        let mem (n : Nat) : Nat := match s.xlateNow o.ctx (src + n) false with
          | .ok (.dev pa) => (cget s.mem pa).toNat
          | _ => (Config.freeW32 s.free (2 ^ 24 + n)).toNat % 256
        let elem (k : Nat) : Nat := if col then j * rows + k else 32 * k + j
        let nib (e : Nat) : Nat := mem (e / 2) / 16 ^ (e % 2) % 16
        if width == 4 then nib (elem (2 * (off - at'))) + 16 * nib (elem (2 * (off - at') + 1))
        else
          let w := width / 8
          mem (w * elem ((off - at') / w) + (off - at') % w)
      else b
    | _ => b) old

/-- The A operand of an MMA as the array reads it: an element that the group has written since it issued is its old or its
new value (R243). -/
def State.operandA (s : State) (o : EngineOp) (et : Nat) (a : List W32) (scr : Bool) (at' : Nat) : List W32 :=
  let w := elemWidth et
  let now (i : Nat) : Option W32 :=
    if scr then some (BitVec.ofNat 32 (s.scratchRead o.team (at' + 4 * i) 4))
    else (tget? s.groups (slotKey o.core o.slot)).bind fun g => if g.uid == o.guid then some ((g.reg (at' + i / 64)).val.lane (i % 64)) else none
  a.zipIdx.map fun (x, i) =>
    match now i with
    | none => x
    | some y =>
      if x == y then x
      else BitVec.ofNat 32 (packElems w ((List.range (32 / w)).map fun e =>
        elemBits w (if Config.freeBit s.free (4096 * e + i) then y else x).toNat e))

/-- A tile that held `old` after an MMA, in the elements that its masks select (R433). -/
def State.mmaTile (s : State) (o : EngineOp) (old : List W32) (et fmtB : Nat) (a : List W32) (ob os : Nat) (nsb : Bool) (scales : Option (List W32))
    (mask : W64) (scr : Bool) (at' : Nat) : List W32 :=
  let a := s.operandA o et a scr at'
  let wa := elemWidth et
  let wb := elemWidth fmtB
  let (k, _, _) := mmaShape et fmtB
  let cols := (List.range 32).map fun j => if mask.getLsbD (32 + j) then (List.range (k * wb / 8)).map fun x => s.dieByte o.core j (ob + x) else []
  let bElem (j i : Nat) : Nat :=
    let bs := cols.getD j []
    if wb == 4 then bs.getD (i / 2) 0 / 16 ^ (i % 2) % 16 else (List.range (wb / 8)).foldr (fun x n => bs.getD (wb / 8 * i + x) 0 + 256 * n) 0
  let aElem (r i : Nat) : Nat := elemBits wa (a.getD (16 * r + i * wa / 32) 0).toNat (i % (32 / wa))
  let sa (r b : Nat) : Nat := match scales with
    | some l => if mmaScaled et then ((l.getD r 0).toNat / 256 ^ b) % 256 else 127
    | none => 127
  let sb (j b : Nat) : Nat := if mmaScaled et && !nsb then s.dieByte o.core j (os + b) else 127
  (List.range 1024).map fun n =>
    let (r, j) := (n / 32, n % 32)
    if mask.getLsbD r && mask.getLsbD (32 + j) then
      BitVec.ofNat 32 (mmaElement et fmtB (aElem r) (bElem j) (sa r) (sb j) (old.getD n 0).toNat)
    else old.getD n 0

/-- Whether the array may take an operation now: the last write of an ACCWR on its tile is over (R436). -/
def State.arrayTakes (s : State) (core id : Nat) : Bool :=
  match tget? s.ops id with
  | none => true
  | some o => o.ended || tgetD (s.core core).matrix.accwr (o.kind.tile.getD 16) 0 ≤ s.time

/-- A tile that held `old` after an operation of the array (R433, R434). -/
def State.arrayTile (s : State) (o : EngineOp) (old : List W32) : List W32 :=
  match o.kind with
  | .mma _ et fmtB a ob os nsb sc mask scr at' => s.mmaTile o old et fmtB a ob os nsb sc mask scr at'
  | .accnext _ mask => old.zipIdx.map fun (x, n) => if mask.getLsbD (n / 32) && mask.getLsbD (32 + n % 32) then 0 else x
  | _ => old

/-- A tile with, in the lanes of `m`, either the element it had or the one it has now, as a free bit says (R243). -/
def mixTile (seed : Nat) (m : W64) (old new : List W32) : List W32 :=
  if m == 0 then new
  else new.zipIdx.map fun (x, n) => if inMask m (n % 64) && Config.freeBit seed (800000 + n) then old.getD n 0 else x

/-- The intervals of an operation of the array, without doubling: 0 for ACCNEXT. -/
def OpKind.base : OpKind → Nat
  | .mma _ et fmtB _ _ _ _ _ _ _ _ => (mmaShape et fmtB).2.2
  | _ => 0

/-- The array takes an operation: its tile has the result, which stands as complete 24 cycles after its interval (R222). Where an ACCWR
came after its issue, its values may stand instead (R243). -/
def State.acceptOp (s : State) (core id : Nat) (o : EngineOp) : State :=
  let k := s.core core
  let waiting := k.matrix.waiting.filter fun i => i != id
  let tile := o.kind.tile.getD 0
  let old := tgetD k.ring tile zeroTile
  let base := o.kind.base
  let cycles := if base == 0 then 2 else s.interval core base
  let busy := s.time + cycles * s.cyc core
  let s := s.setCore core { (k.setTile tile (mixTile s.free o.overMask old (s.arrayTile o old))) with
    matrix := { k.matrix with waiting := waiting, busyUntil := busy, lastQuad := o.slot / 32 } }
  let s := s.tally core 8 (if base != 0 && (s.cluster (core / 8)).doubled then cycles else 0)
  { s with free := s.free + 1
           ops := tset s.ops id { o with accepted := some s.time, finish := busy + 24 * s.cyc core, prior := old } }

/-- The operation that the array takes next: round-robin over the quadrants from the one after the last winner, and within a
quadrant in order. -/
def State.nextArray (s : State) (core : Nat) : Option Nat :=
  let m := (s.core core).matrix
  let first (q : Nat) : Option Nat := m.waiting.find? fun id => match tget? s.ops id with | some o => o.slot / 32 == q | none => true
  ((List.range 4).map fun i => (m.lastQuad + 1 + i) % 4).findSome? fun q =>
    (first q).bind fun id => if s.arrayTakes core id then some id else none

/-- MATRIX_ACCEPT (R95, R222). -/
def execMatrixAccept (core : Nat) (s : State) : Host.Outcome State Fault Refusal :=
  let s := s.exclude (core / 8)
  let k := s.core core
  if s.time < k.matrix.busyUntil then .next s
  else
    match s.nextArray core with
    | none => .next s
    | some id =>
      match tget? s.ops id with
      | some o =>
        if o.ended then .next ((s.setCore core { k with matrix := { k.matrix with waiting := k.matrix.waiting.filter fun i => i != id } }).dropOp id)
        else .next (s.acceptOp core id o)
      | none => .next (s.setCore core { k with matrix := { k.matrix with waiting := k.matrix.waiting.filter fun i => i != id } })

/-- An operation reaches `.v`: it is no longer incomplete, and its class's numbers advance (R416, R418). -/
def State.opDone (s : State) (id : Nat) : State :=
  match tget? s.ops id with
  | none => s
  | some o => (s.dropOp id).advanceBatches o.guid o.cls

/-- An operation reaches `.r`. -/
def State.opRead' (s : State) (id : Nat) : State :=
  match tget? s.ops id with
  | none => s
  | some o => ({ s with ops := tset s.ops id { o with rDone := true } }).advanceBatches o.guid o.cls

/-- TILE_COMPLETE (R222): the operation reaches `.r` and `.v`. -/
def execTileComplete (operation : Nat) (s : State) : Host.Outcome State Fault Refusal :=
  match tget? s.ops operation with
  | none => .next s
  | some o => .next (if o.kind.array && o.accepted.isSome && o.finish ≤ s.time then s.opDone operation else s)

/-! ## ACCRD and ACCWR (R435) -/

/-- ACCRD and ACCWR occupy MEM for 16 cycles. -/
def accTiming (c : Ctx) : Timing := ⟨.mem, 24, if c.mask == 0 then 0 else 16, true⟩

/-- The operations of the array on a tile that are incomplete, in the order of their issue: those it has taken, or those that wait. -/
def State.tileOps (s : State) (core tile : Nat) (taken : Bool) : List (Nat × EngineOp) :=
  s.ops.filter fun (_, o) => o.core == core && o.kind.array && o.kind.tile == some tile && !o.vDone && !o.ended && o.accepted.isSome == taken

/-- The contents of a tile that an ACCRD may find (R243): before and after each operation of the array that is incomplete. -/
def State.tileViews (s : State) (core tile : Nat) : List (List W32) :=
  let now := tgetD (s.core core).ring tile zeroTile
  let after := (s.tileOps core tile false).foldl (fun (st : List (List W32) × List W32) (_, o) =>
    let next := s.arrayTile o st.2
    (st.1 ++ [next], next)) ([], now)
  (s.tileOps core tile true).map (fun e => e.2.prior) ++ [now] ++ after.1

/-- An element of a tile as an ACCRD reads it: that of one of its views, as a free value says. -/
def tileElem (views : List (List W32)) (seed n : Nat) : W32 :=
  match views with
  | [v] => v.getD n 0
  | vs => (vs.getD ((Config.freeW32 seed (700000 + n)).toNat % vs.length) []).getD n 0

/-- ACCRD (R435). -/
def execAccrd (o : Operands) (s : State) : Host.Outcome State Fault Refusal :=
  runState 0xED o accTiming s fun c => do
    c.check true [raw32 o.a] 120#7 false
    if o.d.toNat + 15 ≥ c.g.g then .error .shape
    else if c.mask == 0 then .ok (.issued s (c.advance 0xED o c.g) true)
    else
      let pos := c.single o o.a
      s.tileCheck c.g.team pos
      s.ringDo c fun s =>
        let views := s.tileViews c.core ((s.teamOf c.g).tile pos)
        let g := (List.range 16).foldl (fun g r =>
          let at' := c.now + (r + 24) * c.cyc
          let val : RegVal := .general ((List.range 64).map fun l => tileElem views c.seed (64 * r + l))
          g.writeReg ⟨o.d.toNat + r, 6, 0, val, c.mask⟩ [at', at', at', at']) c.g
        .ok (.issued s (c.advance 0xED o g) true)

/-- What ACCWR makes of a tile (R243, R435): its values in the lanes of the mask; an operation that the array has taken and that is
incomplete accumulates onto them, or they replace its result, element by element. -/
def State.overwrite (s : State) (core tile seed : Nat) (mask : W64) (data : List W32) : List W32 :=
  (s.tileOps core tile true).foldl (fun x (id, o) => mixTile (seed + id) mask (s.arrayTile o x) x) data

/-- ACCWR (R435). -/
def execAccwr (o : Operands) (s : State) : Host.Outcome State Fault Refusal :=
  runState 0xEE o accTiming s fun c =>
    let pos := c.single o o.a
    let tile := (s.teamOf c.g).tile pos
    if c.mask != 0 && s.epiPending c.g.uid tile then .ok (.stall (s.waitFrag c (.ops 4)))
    else do
      c.check true (raw32 o.a :: (List.range 16).map fun k => ⟨o.c + BitVec.ofNat 7 k, false, [6], .zext⟩) 120#7 false
      if c.mask == 0 then .ok (.issued s (c.advance 0xEE o c.g) true)
      else
        s.tileCheck c.g.team pos
        s.ringDo c fun s =>
          let data := (List.range 1024).map fun n =>
            if inMask c.mask (n % 64) then c.g.regLane c.seed (o.c.toNat + n / 64) (n % 64) (c.now + n / 64 * c.cyc) else s.tileAt c.core tile n
          let k := (s.core c.core).setTile tile (s.overwrite c.core tile c.seed c.mask data)
          let waiting := (s.tileOps c.core tile false).map fun e => e.1
          let s := s.setCore c.core { k with matrix := { k.matrix with accwr := tset k.matrix.accwr tile (c.now + 16 * c.cyc) } }
          let s := { s with ops := tmap s.ops fun id x => if waiting.contains id then { x with overMask := x.overMask ||| c.mask } else x }
          .ok (.issued s (c.advance 0xEE o c.g) true)

/-! ## EPI (R225, R438) -/

/-- The bytes of an output row (R438). -/
def epiRow (ofmt : Nat) : Nat := 32 * elemWidth ofmt / 8

/-- An output element (R438): scale, activation, one rounding without flags. -/
def epiElement (ofmt act : Nat) (sat : Bool) (scale c : Nat) : Nat :=
  let y := (elemVal 6 scale).mul (elemVal 6 c)
  let y := if act == 1 && !y.isNan && (y.neg? || y.isZero) then Val.fin false 0 0 false else y
  match binFmt ofmt with
  | some f => (f.round 0 false sat 0 y).1
  | none => 0

/-- The checks of EPI from check 7 on, and the operation it starts (R438). -/
def epiOp (o : Operands) (s : State) (c : Ctx) : Except Trap OpKind := do
  let toScr := o.fn == 1#5
  let dst := c.single o o.a (!toScr)
  let w := c.single o o.b
  let (act, ofmt, pos) := (fld w 9 8, fld w 7 4, fld w 3 0)
  let row := epiRow ofmt
  let pitch := if fld w 31 16 == 0 then row else 16 * fld w 31 16
  alignChecks [(dst, 16)]
  if !toScr then topChecks [dst]
  if toScr then rangeChecks (s.scratchSize c.g.team) [(dst, 31 * pitch + row)]
  s.tileCheck c.g.team pos
  fieldChecks (fld w 15 11 == 0 && act ≤ 1 && (ofmt == 6 || (8 ≤ ofmt && ofmt ≤ 11)) && pitch ≥ row) 0
  .ok (.epi toScr ((s.teamOf c.g).tile pos) dst pitch ofmt act (w.testBit 10) (BitVec.ofNat 32 (c.single o o.c)))

/-- An operation of an EPI joins the epilogue engine's queue, those of one cycle in the order of their quadrants (R225); one to memory sets NR. -/
def State.startEpi (s : State) (c : Ctx) (toScr : Bool) (kind : OpKind) : State :=
  let s := if toScr then s else s.setNr c.g.team
  let (id, s) := s.addOp (c.operation s 4 kind)
  let k := s.core c.core
  let after (j : Nat) : Bool := match tget? s.ops j with | some o => o.issued == s.time && o.slot / 32 > c.slot / 32 | none => false
  let q := k.matrix.epi
  s.setCore c.core { k with matrix := { k.matrix with epi := (q.filter fun j => !after j) ++ [id] ++ q.filter after } }

/-- EPI (R438): it joins the epilogue engine's queue of four. -/
def execEpi (o : Operands) (s : State) : Host.Outcome State Fault Refusal :=
  runState 0xEF o memTiming s fun c =>
    let toScr := o.fn == 1#5
    if c.mask != 0 && s.opsFull c.g.uid 4 then .ok (.stall (s.waitFrag c (.ops 4)))
    else if c.mask != 0 && (s.core c.core).matrix.epi.length ≥ 4 then .ok (.stall (s.retryLater c 1))
    else do
      c.check true [⟨o.a, !toScr, [], .zext⟩, raw32 o.b, raw32 o.c] 120#7 false
      if c.mask == 0 then .ok (.issued s (c.advance 0xEF o c.g) false)
      else
        let kind ← epiOp o s c
        s.ringDo c fun s => .ok (.issued (s.startEpi c toScr kind) (c.advance 0xEF o c.g) false)

/-- The block that an EPI makes of a tile, its rows packed. -/
def State.epiBlock (s : State) (core tile ofmt act : Nat) (sat : Bool) (scale : W32) : List Byte :=
  (List.range 1024).flatMap fun n => leBytes (elemWidth ofmt / 8) (epiElement ofmt act sat scale.toNat (s.tileAt core tile n).toNat)

/-- EPI_START (R225): the engine takes the first request of its queue once the tile is complete for its group, and has read it
64 cycles later (R447). -/
def execEpiStart (core : Nat) (s : State) : Host.Outcome State Fault Refusal :=
  let k := s.core core
  match k.matrix.epi with
  | [] => .next s
  | id :: rest =>
    let left (s : State) : State :=
      let k := s.core core
      s.setCore core { k with matrix := { k.matrix with epi := rest } }
    match tget? s.ops id with
    | none => .next (left s)
    | some o =>
      match o.kind with
      | .epi _ tile _ _ ofmt act sat scale =>
        let earlier := s.ops.any fun (j, p) => j < id && p.guid == o.guid && p.kind.array && p.kind.tile == some tile && !p.vDone
        if o.ended then .next ((left s).dropOp id)
        else if s.time < k.matrix.epiBusyUntil || earlier || s.time < tgetD k.matrix.accwr tile 0 then .next s
        else
          let finish := s.time + 68 * s.cyc core
          let s := left s
          let k := s.core core
          let s := s.setCore core { k with matrix := { k.matrix with epiBusyUntil := finish } }
          .next { s with ops := tset s.ops id { o with accepted := some s.time, finish := finish
                                                       buf := cwrite [] 0 (s.epiBlock core tile ofmt act sat scale) } }
      | _ => .next (left s)

/-- The rows of an EPI are written; whether they have been. -/
def State.epiWrite (s : State) (id : Nat) (o : EngineOp) (toScr : Bool) (dst pitch ofmt : Nat) : State × Bool :=
  (List.range 32).foldl (fun (st : State × Bool) i =>
    if !st.2 || i < o.units then st
    else
      let bs := cread o.buf (i * epiRow ofmt) (epiRow ofmt)
      let (s, ok) := if toScr then (st.1.scratchWrite o.team (dst + i * pitch) bs, true) else st.1.opWrite id (dst + i * pitch) bs
      if ok then ({ s with ops := tmod s.ops id fun o => { o with units := i + 1 } }, true) else (s, false)) (s, true)

end Sys2Proof.Machine
end

