-- ==== Sys2Proof/Machine/Collective.lean ====
section
/-! DEFINITION. Collectives: the junction tree, its extension across devices, the Roundabout, parking and failure (R164 to R168,
R296, R439 to R441). -/
namespace Sys2Proof.Machine

/-! ## The descriptor (R439) -/

def collSrc (d : List Byte) : Nat := bytesAt d 0 8
def collDst (d : List Byte) : Nat := bytesAt d 8 8
def collStat (d : List Byte) : Nat := bytesAt d 16 8
def collList (d : List Byte) : Nat := bytesAt d 24 8
def collCount (d : List Byte) : Nat := bytesAt d 32 4
def collPos (d : List Byte) : Nat := bytesAt d 36 1
def collN (d : List Byte) : Nat := bytesAt d 37 1
def collFlags (d : List Byte) : Nat := bytesAt d 38 1
def collDpos (d : List Byte) : Nat := bytesAt d 40 2
def collM (d : List Byte) : Nat := bytesAt d 42 2

/-- Whether the contribution lies in the scratchpad. -/
def collScr (d : List Byte) : Bool := collFlags d == 1

/-- Whether M fits the mode (R439): 0 junction, 1 extension, 2 Roundabout. -/
def collMOk (mode m : Nat) : Bool := 1 ≤ m && (match mode with | 0 => m == 1 | 1 => m ≤ 16 | _ => m ≤ 16384)

/-- The checks of COLL from check 7 to the translation of DST, which give its descriptor (R439). -/
def collChecks (o : Operands) (s : State) (c : Ctx) : Except Trap (List Byte) := do
  let mode := o.fn.toNat % 4
  let at' := c.single o o.a
  let d ← s.descriptor c.g.team at' 64
  let scr := collScr d
  let dst := collDst d
  alignChecks ([(collSrc d % (if scr then 2 ^ 32 else 2 ^ 64), 4), (dst, 64), (collStat d, 4)] ++ (if mode == 0 then [] else [(collList d, 2)]))
  topChecks ((if scr then [] else [collSrc d]) ++ [dst, collStat d] ++ (if mode == 0 then [] else [collList d]))
  if scr then rangeChecks (s.scratchSize c.g.team) [(collSrc d % 2 ^ 32, 4 * collCount d)]
  fieldChecks (1 ≤ collCount d && collCount d ≤ 65536 && collPos d < collN d && collN d ≤ 64 && collFlags d ≤ 1 && bytesAt d 39 1 == 0 &&
    collDpos d < collM d && collMOk mode (collM d) && bytesAt d 44 20 == 0) at'
  if (s.ctxAt (s.teamOf c.g).ctx).hostManaged dst then .error { (Trap.protection 7 255 (BitVec.ofNat 64 dst)) with wr := true }
  .ok d

/-- COLL (R439): the descriptor's checks, and DST translated at issue. -/
def execColl (o : Operands) (s : State) : Host.Outcome State Fault Refusal :=
  runState 0xF0 o memTiming s fun c =>
    let mode := o.fn.toNat % 4
    if c.mask != 0 && s.opsFull c.g.uid 5 then .ok (.stall (s.waitFrag c (.ops 5)))
    else do
      c.check true [raw32 o.a] 120#7 false
      if c.mask == 0 then .ok (.issued s (c.advance 0xF0 o c.g) false)
      else
        let d ← collChecks o s c
        let dst := collDst d
        let ctx := (s.teamOf c.g).ctx
        match ← s.translate c.core ctx (slotKey c.core c.slot) c.entry [(255, dst)] true false with
        | .walk w => .ok (.stall (s.startWalk c w))
        | .lanes es =>
          match es.head?.map fun (x : Nat × Nat × TlbEntry) => x.2.2.loc dst with
          | some (.dev pa) =>
            let s := (s.touchPages c.core ctx es).setNr c.g.team
            let op := c.operation s 5 (.coll d mode (o.fn.toNat ≥ 4) pa)
            .ok (.issued (s.addOp op).2 (c.advance 0xF0 o c.g) false)
          | _ => .error { (Trap.protection 7 255 (BitVec.ofNat 64 dst)) with wr := true }

/-! ## Names -/

/-- The collective that a context and a result address name, while it is under way or kept as failed. -/
def State.collAt? (s : State) (ctx dst : Nat) : Option (Nat × Coll) := s.colls.find? fun e => e.2.ctx == ctx && e.2.dst == dst && !e.2.ended

def State.setColl (s : State) (k : Nat) (c : Coll) : State := { s with colls := tset s.colls k c }

/-- A failed collective is named no more once every position of the device has contributed (R441). -/
def State.collCheck (s : State) (k : Nat) : State :=
  match tget? s.colls k with
  | none => s
  | some c =>
    if c.failedAt.isSome && c.n != 0 && (List.range c.n).all fun p => c.posSeen.contains p then { s with colls := tdel s.colls k } else s

/-! ## Packets between devices (R35, R36, R165, R168) -/

/-- The mode of a collective. -/
def Coll.mode (c : Coll) : Nat := c.fn % 4

/-- The 64-byte units of a vector of elements, the last one filled with zeros. -/
def vectorUnits (data : List W32) : List (List W32) :=
  (List.range ((data.length + 15) / 16)).map fun i => let u := (data.drop (16 * i)).take 16; u ++ List.replicate (16 - u.length) 0

/-- The elements of a node's sum go to a device position, in packets of up to 4,096 bytes, each naming its first element's
address at the result. -/
def State.sendVector (s : State) (k : Nat) (c : Coll) (pos : Nat) (data : List W32) : State :=
  let us := vectorUnits data
  (List.range ((us.length + 63) / 64)).foldl (fun s i =>
    let part := (us.drop (64 * i)).take 64
    s.peerAsk .junction (.collective k)
      { op := 0x20#8, src := 0, dst := BitVec.ofNat 14 (c.list.getD pos 0), tag := 0, fn := 0, stat := 0, size := BitVec.ofNat 6 (part.length - 1)
        addr := BitVec.ofNat 50 (c.dst + 4096 * i), tc := 4, data := part.flatten.flatMap fun x => leBytes 4 x.toNat }) s

/-- The positions to which a device tells a failure: every other one of the list, or the next one around the ring. -/
def Coll.tells (c : Coll) : List Nat :=
  if c.m ≤ 1 || c.mode == 0 then []
  else if c.mode == 1 then (List.range c.m).filter fun p => p != c.dpos
  else [(c.dpos + 1) % c.m]

/-- A failed collective's other devices are told, once this device knows them (R167, R168). -/
def State.tellFailed (s : State) (k : Nat) : State :=
  match tget? s.colls k with
  | none => s
  | some c =>
    if c.failedAt.isNone || c.passed || c.n == 0 then s
    else c.tells.foldl (fun s p =>
      s.peerAsk .junction (.collective k)
        { op := 0x20#8, src := 0, dst := BitVec.ofNat 14 (c.list.getD p 0), tag := 0, fn := 0, stat := 3, size := 0
          addr := BitVec.ofNat 50 c.dst, tc := 4, data := (List.range 64).map fun _ => 0 }) (s.setColl k { c with passed := true })

/-- A collective fails here, and its other devices are told (R167, R441). -/
def State.collFails (s : State) (k : Nat) : State := ((s.failColl k).tellFailed k).collCheck k

/-- What a position of the list has sent, once all of its units have come. -/
def Coll.received (c : Coll) (pos : Nat) : Option (List W32) :=
  let us := (List.range ((c.count + 15) / 16)).map fun i => tget? c.fromPeers (pos * 2 ^ 16 + i)
  if us.all fun u => u.isSome then some (((us.map fun u => u.getD []).flatten).take c.count) else none

/-- What a position has sent is used up. -/
def Coll.forget (c : Coll) (pos : Nat) : Coll := { c with fromPeers := c.fromPeers.filter fun e => e.1 / 2 ^ 16 != pos }

/-! ## Results (R165, R296, R440) -/

/-- One add of two nodes (R296). -/
def addNodes (a b : List W32) : List W32 := (a.zip b).map fun (x, y) => BitVec.ofNat 32 (addM fp32 x.toNat y.toNat)

/-- The virtual address of a collective's result, from one of its operations. -/
def State.collVa (s : State) (k : Nat) : Option Nat :=
  s.ops.findSome? fun (_, o) => match o.kind with
    | .coll d _ _ _ => if o.acc == k + 1 then some (collDst d) else none
    | _ => none

/-- The sum is the result (R440 steps 4 and 5): it is written as direct stores, onto the old value under `_res`. -/
def State.writeResult (s : State) (k : Nat) (c : Coll) (sum : List W32) : State :=
  let bytes := 4 * c.count
  let place (off : Nat) : Nat := match (s.collVa k).map fun va => s.xlateNow c.ctx (va + off) true with
    | some (.ok (.dev pa)) => pa
    | _ => c.dst + off
  let base := (s.collVa k).getD c.dst
  let s := (pagePieces base bytes).foldl (fun s (off, n) =>
    let part := (sum.drop (off / 4)).take (n / 4)
    let pa := place off
    let (s, old) := if c.fn ≥ 4 then s.readNow pa n else (s, [])
    let part := if c.fn ≥ 4 then addNodes (wordsOf old) part else part
    s.writeNow pa (part.flatMap fun x => leBytes 4 x.toNat)) s
  s.setColl k { c with ended := true, sums := [], device := none, fromPeers := [], ringSince := none }

/-- Whether a node of a level stands in the tree over `m` positions. -/
def nodesAt (m level : Nat) : Nat := (m + 2 ^ level - 1) / 2 ^ level

/-- The final sum goes down the tree of devices from a position (R165): to each device whose node was joined here. -/
def State.sendDown (s : State) (k : Nat) (c : Coll) (sum : List W32) : State :=
  (List.range 5).foldl (fun s l =>
    let i := c.dpos / 2 ^ l
    if c.dpos % 2 ^ (l + 1) == 0 && i + 1 < nodesAt c.m l then s.sendVector k c ((i + 1) * 2 ^ l) sum else s) s

/-- A device's node climbs the tree of devices as far as what has come allows (R165). `level` is where it stands. -/
def State.climbDevices (s : State) (k : Nat) (c : Coll) (data : List W32) (level : Nat) : Nat → State
  | 0 => s
  | fuel + 1 =>
    let i := c.dpos / 2 ^ level
    if nodesAt c.m level ≤ 1 then (s.sendDown k c data).writeResult k c data
    else if i % 2 == 1 then
      match c.received ((i - 1) * 2 ^ level) with
      | some sum => (s.sendDown k c sum).writeResult k c sum
      | none =>
        let s := if c.passed then s else s.sendVector k c ((i - 1) * 2 ^ level) data
        s.setColl k { c with device := some data, passed := true }
    else if i + 1 ≥ nodesAt c.m level then s.climbDevices k c data (level + 1) fuel
    else
      match c.received ((i + 1) * 2 ^ level) with
      | some other => s.climbDevices k c (addNodes data other) (level + 1) fuel
      | none => s.setColl k { c with device := (if c.device.isSome then c.device else some data) }

/-- The Roundabout goes on at this device as far as what has come allows (R168). -/
def State.ringStep (s : State) (k : Nat) (c : Coll) (own : List W32) : State :=
  let prev := (c.dpos + c.m - 1) % c.m
  let next := (c.dpos + 1) % c.m
  if c.m == 1 then s.writeResult k c own
  else if !c.passed then
    if c.dpos == 0 then (s.sendVector k c next own).setColl k { c with device := some own, passed := true }
    else
      match c.received prev with
      | none => s.setColl k { c with device := some own }
      | some acc =>
        let c := { c.forget prev with device := some own, passed := true, ringSince := none }
        let acc := addNodes acc own
        let s := s.setColl k c
        if c.dpos + 1 == c.m then (s.sendVector k c next acc).writeResult k c acc else s.sendVector k c next acc
  else
    match c.received prev with
    | none => s
    | some sum =>
      let s := if c.dpos + 2 == c.m then s else s.sendVector k c next sum
      s.writeResult k c sum

/-- The device sum is there, or something has come from a peer: the collective goes on (R440 step 2). -/
def State.collStep (s : State) (k : Nat) : State :=
  match tget? s.colls k with
  | none => s
  | some c =>
    if c.ended || c.failedAt.isSome then s
    else match c.device with
      | none => s
      | some sum =>
        match c.mode with
        | 0 => s.writeResult k c sum
        | 1 => s.climbDevices k c sum 0 6
        | _ => s.ringStep k c sum

/-! ## The junction tree of the device (R164, R166) -/

/-- The slice whose router adds a node's parent. -/
def junctionSlice (level index : Nat) : Nat := 2 * (index / 2 * 2 ^ (level + 1) % 48)

/-- The junction buffers in use at a router. -/
def State.buffersAt (s : State) (slice : Nat) : Nat :=
  s.colls.foldl (fun n e => n + (e.2.sums.filter fun x => !x.parked && junctionSlice x.level x.index == slice).length) 0

/-- A collective parks (R166): its partials move to the home slice of its result, and from then on so does every arrival; without room
for them it fails. -/
def State.parkColl (s : State) (k : Nat) : State :=
  match tget? s.colls k with
  | none => s
  | some c =>
    let moving := (c.sums.filter fun x => !x.parked).length
    if s.partialsAt (s.homeOf c.dst) + moving > 1024 then s.collFails k
    else s.setColl k { c with sums := c.sums.map (fun x => { x with parked := true }), parked := true }

/-- Where a node of the tree over `n` positions is first added to a sibling (R164): itself, or the node above it that it is unchanged. -/
def raiseNode (n level index : Nat) : Nat → Nat × Nat
  | 0 => (level, index)
  | fuel + 1 => if 1 < nodesAt n level && index % 2 == 0 && index + 1 ≥ nodesAt n level then raiseNode n (level + 1) (index / 2) fuel else (level, index)

/-- The slice at whose router a node goes on: that of its adder, or the home of the result where the collective has parked (R164,
R166). -/
def State.reduceAt (s : State) (c : Coll) (level index : Nat) : Nat := if c.parked then s.homeOf c.dst else junctionSlice level index

/-- A node's sum goes from a router to that of its adder, as a reduction packet (R143, R164); the last one is the device sum. -/
def State.forward (s : State) (k : Nat) (c : Coll) (level index : Nat) (data : List W32) (here : Nat) : State :=
  let (l, i) := raiseNode c.n level index 8
  if nodesAt c.n l ≤ 1 then (s.setColl k { c with device := some data }).collStep k
  else s.sendBase (.reduce k l i data) here (s.reduceAt c l i)

/-- A node's sum is at its adder (R164): it is added to its sibling, the left node first, or held until that has come. -/
def State.climb (s : State) (k : Nat) (c : Coll) (level index : Nat) (data : List W32) (here : Nat) : State :=
  if nodesAt c.n level ≤ 1 then (s.setColl k { c with device := some data }).collStep k
  else
    let sib := if index % 2 == 0 then index + 1 else index - 1
    match c.sums.find? fun x => x.level == level && x.index == sib with
    | some x =>
      let c := { c with sums := c.sums.filter fun y => y != x }
      (s.setColl k c).forward k c (level + 1) (index / 2) (if index % 2 == 0 then addNodes data x.data else addNodes x.data data) here
    | none =>
      let full := s.buffersAt (junctionSlice level index) ≥ 64
      let s := s.setColl k { c with sums := c.sums ++ [{ level := level, index := index, data := data, since := s.time }] }
      if c.parked || full then s.parkColl k else s

/-- The grid that the memory accesses of a collective are charged to: its first contributor's (log entry 111). -/
def Coll.payer (c : Coll) : Option Nat := c.contribs.head?.map fun x => x.grid

/-- The reduction packet that has come to a router for the node whose lowest position is `pos`. -/
def State.reduction (s : State) (coll pos : Nat) : Option (Nat × Msg) :=
  s.msgs.find? fun e => e.2.stage == .arrived && match e.2.kind with
    | .reduce k l i _ => k == coll && i * 2 ^ l == pos
    | _ => false

/-- JUNCTION_ARRIVAL (R164): a contribution or a sum reaches its adder, or where the collective has parked since then goes on to the home
slice of the result (R166). -/
def execJunctionArrival (coll pos : Nat) (s : State) : Host.Outcome State Fault Refusal :=
  match s.reduction coll pos with
  | none => .next s
  | some (id, m) =>
    match m.kind, tget? s.colls coll with
    | .reduce _ level index data, some c =>
      if c.ended || c.failedAt.isSome then .next (s.dropMsg id)
      else if m.slice != s.reduceAt c level index then
        .next ((s.dropMsg id).sendBase m.kind m.slice (s.reduceAt c level index))
      else .next (s.attempt c.payer fun s => (s.dropMsg id).climb coll c level index data m.slice)
    | _, _ => .next (s.dropMsg id)

/-- PARTIAL_PARK_TIMEOUT (R166): a partial has waited for 100 µs. -/
def execPartialParkTimeout (coll level index : Nat) (s : State) : Host.Outcome State Fault Refusal :=
  match tget? s.colls coll with
  | none => .next s
  | some c =>
    if c.sums.any fun x => x.level == level && x.index == index && !x.parked && x.since + 100 * usec ≤ s.time then .next (s.parkColl coll)
    else .next s

/-! ## Contributions (R440, R441) -/

/-- Whether a contribution agrees with a collective that is under way (R441). -/
def Coll.agrees (c : Coll) (d : List Byte) (fn : Nat) (list : List Nat) : Bool :=
  c.n == collN d && c.count == collCount d && c.m == collM d && c.dpos == collDpos d && c.list == list && c.fn == fn && !c.posSeen.contains (collPos d)

/-- Units kept by device identifier, kept by the device's position in a list. -/
def namedUnits (list : List Nat) (t : Tbl (List W32)) : Tbl (List W32) :=
  t.foldl (fun r (k, u) => match list.findIdx? fun x => x == k / 2 ^ 16 with
    | some i => tset r (i * 2 ^ 16 + k % 2 ^ 16) u
    | none => r) []

/-- A contribution joins its collective, or starts one (R440 step 1); one that does not agree fails it, and one to a failed
collective is late (R441); the others go to their adders (R164). While a checkpoint quiesces every collective fails (R46). The answer is the collective's number. -/
def State.contribute (s : State) (o : EngineOp) (d : List Byte) (fn dst : Nat) (list : List Nat) (data : List W32) : State × Nat :=
  let grid := (s.teamAt o.team).grid
  let x : Contribution := { pos := collPos d, op := 0, grid := grid, data := data }
  let fresh : Coll := { ctx := o.ctx, dst := dst, n := collN d, count := collCount d, m := collM d, dpos := collDpos d, list := list, fn := fn
                        cto := (s.gridAt grid).eff.cto, started := s.time }
  let (k, c, s) : Nat × Coll × State := match s.colls.find? fun e => e.2.dst == dst && !e.2.ended && (e.2.ctx == o.ctx || e.2.n == 0) with
    | some (k, c) => (k, if c.n == 0 then { fresh with fromPeers := namedUnits list c.fromPeers, ringSince := c.ringSince, failedAt := c.failedAt, passed := c.passed } else c, s)
    | none => let (k, s) := s.fresh; (k, fresh, s)
  let wrong := !c.agrees d fn list || (fn % 4 != 0 && list.getD (collDpos d) 0 != s.peer.devid.toNat)
  let s := s.setColl k { c with contribs := c.contribs ++ [x], posSeen := if c.posSeen.contains x.pos then c.posSeen else c.posSeen ++ [x.pos] }
  if c.failedAt.isSome then ((s.tellFailed k).collCheck k, k)
  else if wrong || s.peer.ck.state == .quiesce then (s.collFails k, k)
  else
    let (l, i) := raiseNode (collN d) 0 (collPos d) 8
    (s.send (.reduce k l i data) o.core (s.reduceAt c l i) true, k)

/-- The UINT16 device identifiers of LIST. -/
def listOf (bs : List Byte) : List Nat := (List.range (bs.length / 2)).map fun i => bytesAt bs (2 * i) 2

/-- The first part of a COLL: its contribution, its list and the places of its result are read, and `.r` holds. -/
def State.collRead (s : State) (id : Nat) (o : EngineOp) (d : List Byte) (mode : Nat) (res : Bool) (dst : Nat) : State :=
  let bytes := 4 * collCount d
  match s.opPlaces id (collDst d) bytes true with
  | (s, none) => s
  | (s, some _) =>
    match (if mode == 0 then (s, some []) else s.opRead id (collList d) (2 * collM d)) with
    | (s, none) => s
    | (s, some list) =>
      match (if collScr d then (s, some (s.opScratch o (collSrc d % 2 ^ 32) bytes)) else s.opRead id (collSrc d) bytes) with
      | (s, none) => s
      | (s, some bs) =>
        let (s, k) := s.contribute o d (mode + if res then 4 else 0) dst (listOf list) (wordsOf bs)
        { s with ops := tmod s.ops id fun o => { o with acc := k + 1, buf := [] } }.opRead' id

/-- The status of an ended collective (R440, R441): 0 OK, 3 FAILED, or none while it is under way. -/
def State.collStatus (s : State) (o : EngineOp) : Option Nat :=
  match tget? s.colls (o.acc - 1) with
  | none => some 3
  | some c => if c.ended then some 0 else if c.failedAt.isSome then some 3 else none

/-- A collective that has ended is forgotten with the last of its operations. -/
def State.forgetColl (s : State) (k : Nat) : State :=
  match tget? s.colls k with
  | none => s
  | some c => if c.ended && !(s.ops.any fun (_, o) => o.cls == 5 && o.acc == k + 1) then { s with colls := tdel s.colls k } else s

/-- The last part of a COLL: its status word is written, and `.v` holds once it is performed. -/
def State.collFinish (s : State) (id : Nat) (o : EngineOp) (d : List Byte) : State :=
  match s.collStatus o with
  | none => s
  | some st =>
    let s := s.tellFailed (o.acc - 1)
    if o.units == 0 then
      match s.opWrite id (collStat d) (leBytes 4 st) with
      | (s, false) => s
      | (s, true) =>
        let s := s.opDid id 1
        match tget? s.ops id with
        | some o' => if o'.bulk == 0 then (s.opDone id).forgetColl (o.acc - 1) else s
        | none => s
    else if o.bulk == 0 then (s.opDone id).forgetColl (o.acc - 1)
    else s

/-- COLLECTIVE_NAME_EXPIRY (R441). -/
def execCollectiveNameExpiry (coll : Nat) (s : State) : Host.Outcome State Fault Refusal :=
  match tget? s.colls coll with
  | none => .next s
  | some c =>
    match c.failedAt with
    | some t => .next (if c.cto != 0 && t + c.cto * usec ≤ s.time then { (s.tellFailed coll) with colls := tdel (s.tellFailed coll).colls coll } else s)
    | none => .next s

/-! ## What comes from peers -/

/-- A collective packet of another device (R165, R168): its units are kept for the collective that its address lies in, which then
goes on; one that came before any contribution waits without a name. A FAILED packet fails the collective. DESIGN CHOICE: before a
team of this device has contributed there is no CTO to hold the packet to, and then the time counts from its coming (log
entry 118). -/
def State.takeCollective (s : State) (p : Packet) : State :=
  let addr := p.addr.toNat
  let near := s.colls.find? fun e => !e.2.ended && e.2.failedAt.isNone && e.2.n != 0 && e.2.dst ≤ addr && addr < e.2.dst + max 64 (4 * e.2.count)
  let anon := s.colls.find? fun e => !e.2.ended && e.2.n == 0 && e.2.dst ≤ addr && addr < e.2.dst + 2 ^ 18
  let failed := s.colls.any fun e => e.2.failedAt.isSome && e.2.n != 0 && e.2.dst ≤ addr && addr < e.2.dst + max 64 (4 * e.2.count)
  let (k, c, s) : Nat × Coll × State := match near, anon with
    | some (k, c), _ => (k, c, s)
    | none, some (k, c) => (k, c, s)
    | none, none =>
      let (k, s) := s.fresh
      (k, { ctx := 64, dst := addr, n := 0, count := 0, m := 0, dpos := 0, list := [], fn := 0, started := s.time }, s)
  if p.stat == 3#3 then (if failed && near.isNone then s else (s.setColl k c).collFails k)
  else if failed && near.isNone then s
  else
    let words := wordsOf p.data
    let pos (c : Coll) : Nat := if c.n == 0 then p.src.toNat else (c.list.findIdx? fun x => x == p.src.toNat).getD 0
    let from' := (List.range (words.length / 16)).foldl (fun t i =>
      tset t (pos c * 2 ^ 16 + (addr - c.dst) / 64 + i) ((words.drop (16 * i)).take 16)) c.fromPeers
    (s.setColl k { c with fromPeers := from', ringSince := if c.ringSince.isSome then c.ringSince else some s.time }).collStep k

/-- ROUNDABOUT_TIMEOUT (R168): the packet has been held for the effective CTO; the waiters fail, and a FAILED packet goes on. -/
def execRoundaboutTimeout (coll : Nat) (s : State) : Host.Outcome State Fault Refusal :=
  match tget? s.colls coll with
  | none => .next s
  | some c =>
    match c.ringSince with
    | some t =>
      if c.mode == 2 && c.device.isNone && c.cto != 0 && c.failedAt.isNone && !c.ended && t + c.cto * usec ≤ s.time then .next (s.collFails coll)
      else .next s
    | none => .next s

end Sys2Proof.Machine
end

