-- ==== Sys2Proof/Machine/Stream.lean ====
section
/-! DEFINITION. The decode instructions and DCHK (R442 to R446), and the completion of engine operations (R416, R447). -/
namespace Sys2Proof.Machine

/-! ## Issue (R442, R446) -/

def streamSrc (d : List Byte) : Nat := bytesAt d 0 8
def streamPos (d : List Byte) : Nat := bytesAt d 8 8
def streamLim (d : List Byte) : Nat := bytesAt d 16 8
def streamOut (d : List Byte) : Nat := bytesAt d 24 4
def streamPosOut (d : List Byte) : Nat := bytesAt d 28 4
def streamMax (d : List Byte) : Nat := bytesAt d 32 4
def streamTable (d : List Byte) : Nat := bytesAt d 36 4
def streamParam (d : List Byte) : Nat := bytesAt d 40 1

/-- The first byte of the extent that a decode reads, from SRC, and its length (R442). -/
def streamExtent (d : List Byte) : Nat × Nat := (streamPos d / 8, (streamLim d + 31) / 8 + 1 - streamPos d / 8)

/-- The output ranges of a decode, sized by MAXSYM: 0 DPFX, 1 DRLE, 2 DBIT. -/
def streamOutputs (which fn : Nat) (d : List Byte) : List (Nat × Nat) :=
  let n := streamMax d
  match which with
  | 0 => [(streamOut d, 2 * n), (streamTable d, 4 * 2 ^ streamParam d)] ++
      (if streamPosOut d == 2 ^ 32 - 1 then [] else [(streamPosOut d, 4 * n)])
  | 1 => [(streamOut d, (if fn % 2 == 0 then 2 else 4) * n)]
  | _ => [(streamOut d, 4 * n)]

/-- Whether PARAM and BITPOS are in range (R442, R444). -/
def streamParamOk (which fn : Nat) (d : List Byte) : Bool :=
  match which with
  | 0 => 1 ≤ streamParam d && streamParam d ≤ 15
  | 1 => streamParam d == 0 && streamPos d % (if fn % 2 == 0 then 32 else 64) == 0
  | _ => 1 ≤ streamParam d && streamParam d ≤ 32

/-- The checks of DPFX, DRLE and DBIT and the operation they start (R443 to R445). -/
def decodeStart (which : Nat) (o : Operands) (s : State) (c : Ctx) : Except Trap AsyncStart := do
  let at' := c.single o o.a
  let d ← s.descriptor c.g.team at' 64
  let scr := o.fn.toNat ≥ 2
  let (lo, n) := streamExtent d
  if which == 0 then alignChecks [(streamTable d, 4)]
  if !scr then topChecks [streamSrc d]
  rangeChecks (s.scratchSize c.g.team) ((if scr then [(streamSrc d % 2 ^ 32 + lo, n)] else []) ++ streamOutputs which o.fn.toNat d)
  fieldChecks ((!scr || streamSrc d < 2 ^ 32) && streamLim d < streamPos d + 2 ^ 32 && 1 ≤ streamMax d && streamMax d ≤ 2 ^ 20 &&
    streamParamOk which o.fn.toNat d && bytesAt d 41 7 == 0) at'
  .ok { kind := .decode which o.fn.toNat d at' }

/-- DPFX, DRLE and DBIT (R442). -/
def decodeInstr (code which : Nat) (o : Operands) (s : State) : Host.Outcome State Fault Refusal :=
  asyncInstr code 6 [raw32 o.a] o s (decodeStart which o s)

/-- DPFX (R443). -/
def execDpfx (o : Operands) (s : State) : Host.Outcome State Fault Refusal := decodeInstr 0xF4 0 o s

/-- DRLE (R444). -/
def execDrle (o : Operands) (s : State) : Host.Outcome State Fault Refusal := decodeInstr 0xF5 1 o s

/-- DBIT (R445). -/
def execDbit (o : Operands) (s : State) : Host.Outcome State Fault Refusal := decodeInstr 0xF6 2 o s

/-- The fields of DCHK's descriptor (R446). -/
def dchkDst (d : List Byte) : Nat := bytesAt d 0 8
def dchkExpect (d : List Byte) : Nat := bytesAt d 8 8
def dchkValue (d : List Byte) : Nat := bytesAt d 16 8
def dchkStage (d : List Byte) : Nat := bytesAt d 24 4
def dchkLen (d : List Byte) : Nat := bytesAt d 28 4

/-- The checks of DCHK and the operation it starts (R446). -/
def dchkStart (o : Operands) (s : State) (c : Ctx) : Except Trap AsyncStart := do
  let at' := c.single o o.a
  let d ← s.descriptor c.g.team at' 64
  alignChecks [(dchkDst d, 64), (dchkExpect d, 8), (dchkStage d, 64)]
  topChecks [dchkDst d, dchkExpect d]
  rangeChecks (s.scratchSize c.g.team) [(dchkStage d, dchkLen d)]
  fieldChecks (dchkLen d % 64 == 0 && dchkLen d ≤ 458752 && bytesAt d 32 16 == 0 && bytesAt d 56 4 == 0) at'
  .ok { kind := .dchk o.fn.toNat d at', nr := dchkLen d != 0 }

/-- DCHK (R446). -/
def execDchk (o : Operands) (s : State) : Host.Outcome State Fault Refusal :=
  asyncInstr 0xF7 7 [raw32 o.a] o s (dchkStart o s)

/-! ## Decoding (R442 to R445) -/

/-- `n` bits of a stream from bit `b` on, the first as bit 0. -/
def streamBits (src : Nat → Byte) (b n : Nat) : Nat :=
  leNat ((List.range ((b % 8 + n + 7) / 8)).map fun i => src (b / 8 + i)) / 2 ^ (b % 8) % 2 ^ n

/-- What a decode has come to: the scratchpad, the next unit's start, the units output, and the status once it stops. -/
structure Decoding where
  scr : List Host.Cell
  b : Nat
  n : Nat := 0
  status : Option Nat := none

/-- One code of DPFX (R443). -/
def dpfxUnit (d : List Byte) (src : List Host.Cell → Nat → Byte) (x : Decoding) : Decoding :=
  if x.b ≥ streamLim d then { x with status := some 0 }
  else if x.n == streamMax d then { x with status := some 1 }
  else
    let l := streamParam d
    let e := cnat x.scr (streamTable d + 4 * streamBits (src x.scr) x.b l) 4
    let len := fld e 19 16
    if e < 2 ^ 31 || len == 0 || len > l || fld e 30 20 != 0 then { x with status := some 2 }
    else
      let scr := cwrite x.scr (streamOut d + 2 * x.n) (leBytes 2 (e % 65536))
      let scr := if streamPosOut d == 2 ^ 32 - 1 then scr else cwrite scr (streamPosOut d + 4 * x.n) (leBytes 4 (x.b - streamPos d))
      { x with scr := scr, b := x.b + len, n := x.n + 1 }

/-- One record of DRLE (R444). -/
def drleUnit (d : List Byte) (word : Bool) (src : List Host.Cell → Nat → Byte) (x : Decoding) : Decoding :=
  if x.b ≥ streamLim d then { x with status := some 0 }
  else
    let w := if word then 32 else 16
    let r := streamBits (src x.scr) x.b (2 * w)
    let count := r % 2 ^ w
    let k := min count (streamMax d - x.n)
    let scr := (List.range k).foldl (fun m i => cwrite m (streamOut d + w / 8 * (x.n + i)) (leBytes (w / 8) (r / 2 ^ w))) x.scr
    if count > streamMax d - x.n then { x with scr := scr, n := x.n + k, status := some 1 }
    else { x with scr := scr, b := x.b + 2 * w, n := x.n + k }

/-- One field of DBIT (R445). -/
def dbitUnit (d : List Byte) (sx : Bool) (src : List Host.Cell → Nat → Byte) (x : Decoding) : Decoding :=
  if x.b ≥ streamLim d then { x with status := some 0 }
  else if x.n == streamMax d then { x with status := some 1 }
  else
    let w := streamParam d
    let v := streamBits (src x.scr) x.b w
    let v := if sx && v.testBit (w - 1) then v + 2 ^ 32 - 2 ^ w else v
    { x with scr := cwrite x.scr (streamOut d + 4 * x.n) (leBytes 4 v), b := x.b + w, n := x.n + 1 }

/-- The unit of a decode. -/
def decodeUnit (which fn : Nat) (d : List Byte) (src : List Host.Cell → Nat → Byte) (x : Decoding) : Decoding :=
  match which with
  | 0 => dpfxUnit d src x
  | 1 => drleUnit d (fn % 2 == 1) src x
  | _ => dbitUnit d (fn % 2 == 1) src x

/-- The units of a decode in ascending order, each reading its inputs after the writes of those before it (R420). -/
def decodeUnits (f : Decoding → Decoding) (x : Decoding) : Nat → Decoding
  | 0 => { x with status := some 0 }
  | fuel + 1 => let y := f x; if y.status.isSome then y else decodeUnits f y fuel

/-- A decode is made: its outputs, then ENDPOS, NSYM and STATUS (R442). A byte of the last record beyond the extent is a free
value. -/
def State.decodeOp (s : State) (id : Nat) (o : EngineOp) (which fn : Nat) (d : List Byte) (at' : Nat) : State :=
  let scr := fn ≥ 2
  let (lo, n) := streamExtent d
  let t := s.teamAt o.team
  match (if scr then (s, some []) else if n == 0 then (s, some []) else s.opRead id (streamSrc d + lo) n) with
  | (s, none) => s
  | (s, some bs) =>
    let src (m : List Host.Cell) (i : Nat) : Byte :=
      if i < lo || i ≥ lo + n then (Config.freeW32 s.free i).setWidth 8
      else if scr then cget m (streamSrc d % 2 ^ 32 + i) else bs.getD (i - lo) 0
    let r := decodeUnits (decodeUnit which fn d src) { scr := t.scratch, b := streamPos d } (streamLim d - streamPos d + 1)
    let out := cwrite r.scr (at' + 48) (leBytes 8 r.b ++ leBytes 4 r.n ++ leBytes 4 (r.status.getD 0))
    let s := s.setTeam o.team { s.teamAt o.team with scratch := out }
    ({ s with free := s.free + 1 }).opDone id

/-! ## DCHK (R446) -/

/-- Whether DCHK commits its stage. -/
def dchkOk (fn obs value : Nat) : Bool := match fn with | 0 => obs == value | 1 => obs ≥ value | _ => true

/-- The next part of a DCHK: the observed word, then a 4 KiB chunk of the copy, then OBS and STATUS. -/
def State.dchkOp (s : State) (id : Nat) (o : EngineOp) (fn : Nat) (d : List Byte) (at' : Nat) : State :=
  let ok := dchkOk fn o.acc (dchkValue d)
  let last := if ok then (dchkLen d + 4095) / 4096 else 0
  if o.units == 0 then
    match s.opRead id (dchkExpect d) 8 with
    | (s, none) => s
    | (s, some bs) => ({ s with ops := tmod s.ops id fun o => { o with acc := leNat bs } }).opDid id 1
  else if o.units ≤ last then
    let off := 4096 * (o.units - 1)
    let n := min 4096 (dchkLen d - off)
    match s.opWrite id (dchkDst d + off) (s.opScratch o (dchkStage d + off) n) with
    | (s, true) => s.opDid id 1
    | (s, false) => s
  else if !o.rDone then s.opRead' id
  else if o.bulk != 0 then s
  else
    let s := s.scratchWrite o.team (at' + 48) (leBytes 8 o.acc)
    (s.scratchWrite o.team (at' + 60) (leBytes 4 (if ok then 0 else 1))).opDone id

/-! ## Completion (R416, R447) -/

/-- An operation of a copy engine: it reaches `.r` once its source is read, then `.v` once all is written, GCSR's total among that, and
its peers have answered. A schedule entry that is done leaves its grid's lists (R121). -/
def State.copyDone (s : State) (id : Nat) (o : EngineOp) : State :=
  if o.unread then s
  else if !o.rDone then s.opRead' id
  else if o.units < o.kind.total || o.bulk != 0 then s
  else
    match o.kind with
    | .gcsr _ count _ _ _ _ off _ => (s.scratchWrite o.team (off + 4 * count) (leBytes 4 o.acc)).opDone id
    | .sched grid entry post _ _ _ _ =>
      let s := s.dropOp id
      let g := s.gridAt grid
      if (tget? s.grids grid).isNone then s
      else if post then (s.setGrid grid { g with postLeft := g.postLeft.filter fun e => e != entry }).gridCheck grid
      else s.setGrid grid { g with preLeft := g.preLeft.filter fun e => e != entry }
    | _ => s.opDone id

/-- An EPI's block is written, row by row, and then `.v` holds. -/
def State.epiDone (s : State) (id : Nat) (o : EngineOp) (toScr : Bool) (dst pitch ofmt : Nat) : State :=
  if o.accepted.isNone || s.time < o.finish then s
  else if !o.rDone then s.opRead' id
  else if o.units < 32 then
    match s.epiWrite id o toScr dst pitch ofmt with
    | (s, false) => s
    | (s, true) => match tget? s.ops id with
      | some o' => if o'.bulk == 0 then s.opDone id else s
      | none => s
  else if o.bulk == 0 then s.opDone id
  else s

/-- A failed collective whose devices have been told is forgotten, once the grids of its contributions are over (R441). -/
def State.forgetFailed (s : State) (k : Nat) : State :=
  match tget? s.colls k with
  | none => s
  | some c =>
    if c.failedAt.isSome && c.contribs.all fun x => (tget? s.grids x.grid).isNone then { s with colls := tdel s.colls k } else s

/-- An operation comes to its next completion. -/
def State.completeOp (s : State) (id : Nat) (o : EngineOp) : State :=
  if o.ended then
    match o.kind with
    | .mma _ _ _ _ _ _ _ _ _ _ _ => s
    | .accnext _ _ => s
    | .coll _ _ _ _ => ((s.tellFailed (o.acc - 1)).forgetFailed (o.acc - 1)).dropOp id
    | .epi _ _ _ _ _ _ _ _ => if (s.core o.core).matrix.epi.contains id then s else s.dropOp id
    | _ => s.dropOp id
  else if o.stalled || o.reads != 0 then s
  else
    match o.kind with
    | .mma _ _ _ _ _ _ _ _ _ _ _ => s
    | .accnext _ _ => s
    | .ldb src off rows width col =>
      match s.loadDie id o src off rows width col with
      | (s, true) => s.opDone id
      | (s, false) => s
    | .epi toScr _ dst pitch ofmt _ _ _ => s.epiDone id o toScr dst pitch ofmt
    | .coll d mode res dst => if o.rDone then s.collFinish id o d else s.collRead id o d mode res dst
    | .decode which fn d at' => s.decodeOp id o which fn d at'
    | .dchk fn d at' => s.dchkOp id o fn d at'
    | _ => s.copyDone id o

/-- ENGINE_OPERATION_COMPLETE (R416): an operation comes to its next completion. -/
def execEngineOperationComplete (operation : Nat) (s : State) : Host.Outcome State Fault Refusal :=
  match tget? s.ops operation with
  | none => .next s
  | some o => .next (s.attempt (s.opPayer o) fun s => s.completeOp operation o)

end Sys2Proof.Machine
end

