-- ==== Sys2Proof/Machine/Grid.lean ====
section
/-! DEFINITION. Region control blocks and the start of a grid (R98 to R102, R113, R120 to R123), budget periods (R115 to R118)
and the suspension of contexts (R140). -/
namespace Sys2Proof.Machine

/-! ## Region control blocks (R98, R99) -/

/-- The fields of an RCB (R99). -/
def Rcb.parse (bs : List Byte) : Rcb :=
  let n (off len : Nat) : Nat := bytesAt bs off len
  { kind := n 0 1 % 16, fusel1 := (n 1 1).testBit 6, vmode := fld (n 1 1) 5 4, acommit := (n 1 1).testBit 3, prio := n 1 1 % 8
    fdid := BitVec.ofNat 16 (n 2 2), inh := BitVec.ofNat 15 (n 4 4), parent := BitVec.ofNat 64 (n 8 8)
    child := BitVec.ofNat 64 (n 16 8), handler := BitVec.ofNat 64 (n 32 8), entry := BitVec.ofNat 64 (n 40 8)
    gx := n 48 4, gy := n 52 4, gz := n 56 4, groups := n 60 1 % 32, gregs := n 61 1 % 128, cregs := n 62 1 % 128
    scr := n 63 1 % 16, acc := n 64 1 % 32, dist := n 65 1 % 16, pair := (n 66 1).testBit 0, parkt := n 68 4
    parka := BitVec.ofNat 64 (n 72 8), pslots := n 80 4, psz := n 84 4, vobase := BitVec.ofNat 64 (n 88 8), vosize := n 96 4
    cto := n 100 2, boosta := n 102 1, budgets := (List.range 5).map fun k => BitVec.ofNat 32 (n (104 + 4 * k) 4)
    csptr := BitVec.ofNat 64 (n 128 8), cscnt := n 136 2 }

/-- Whether the reserved bits of an RCB are zero (R99). -/
def rcbReservedOk (bs : List Byte) : Bool :=
  let n (off len : Nat) : Nat := bytesAt bs off len
  n 0 1 < 16 && n 1 1 < 128 && n 4 4 < 2 ^ 15 && n 60 1 < 32 && n 61 1 < 128 && n 62 1 < 128 && n 63 1 < 16 && n 64 1 < 32 &&
    n 65 1 < 16 && n 66 1 < 4 && n 67 1 == 0 && n 103 1 == 0 && n 124 4 == 0 && n 138 54 == 0 &&
    (List.range 5).all fun k => fld (n (104 + 4 * k) 4) 14 11 == 0 && n (106 + 4 * k) 2 == 0

/-- Whether an address field that hardware reads is in range, with an alignment (R99). -/
def addrOk (a : W64) (align : Nat) : Bool := a.toNat < 2 ^ 52 && a.toNat % align == 0

/-- The share of a budget word (R99). -/
def shareOf (w : W32) : Nat := w.toNat % 2048

/-- Whether a node's own value of a group is in force (R100). -/
def Rcb.own (r : Rcb) (k : Nat) : Bool := r.kind == 0 || !r.inh.getLsbD k

/-- Whether the fields of a group lie in the ranges of R99. -/
def Rcb.groupOk (r : Rcb) (raw : List Byte) (k : Nat) : Bool :=
  match k with
  | 2 => addrOk r.handler 4
  | 9 => r.pslots ≤ 65536
  | 10 => r.vmode < 2
  | 12 => 1 ≤ r.groups && r.groups ≤ 16 && r.gregs % 4 == 0 && 4 ≤ r.gregs && r.gregs ≤ 120 && r.cregs ≤ 116 &&
      r.gregs + r.cregs ≤ 120 && r.scr ≤ 14 && r.acc ≤ 16 && addrOk r.entry 4
  | 13 => 1 ≤ r.dist && r.dist ≤ 8 && bytesAt raw 66 1 < 2
  | 14 => r.cscnt ≤ 256
  | _ => if 3 ≤ k && k ≤ 7 then shareOf (r.budgets.getD (k - 3) 0) ≤ 1024 else true

/-- A node of a chain: its address, bytes and fields. -/
structure Node where
  addr : W64
  raw : List Byte
  rcb : Rcb
  deriving DecidableEq, Repr

/-- A node is read (R101): nothing where it is misaligned, its read faults, or a reserved bit is nonzero (R102). -/
def State.readNode (s : State) (ctx : Nat) (addr : W64) : State × Option Node :=
  if !addrOk addr 256 then (s, none)
  else match s.unitRead ctx addr.toNat 256 with
    | (s, .ok bs) => (s, if rcbReservedOk bs then some ⟨addr, bs, Rcb.parse bs⟩ else none)
    | (s, .error _) => (s, none)

/-- The chain of a grid, leaf first, and what fails (R101, R102 steps 1 and 2): the first node at fault. -/
inductive Chain where
  | ok (s : State) (nodes : List Node)
  | bad (s : State) (node : W64)

/-- The groups of R100 that a list of nodes, from the leaf upward, takes from above: every node inherits them. -/
def inherited (nodes : List Node) (k : Nat) : Bool := nodes.all fun n => !n.rcb.own k

/-- Whether the fields that a node supplies to a chain below it are in range: its own values in force for the grid, and the
budget words of an account of its own (R99, R113). -/
def Node.suppliesOk (n : Node) (below : List Node) : Bool :=
  (List.range 15).all fun k => !n.rcb.own k || (!(3 ≤ k && k ≤ 7) && !inherited below k) || n.rcb.groupOk n.raw k

/-- The ancestors of a chain through PARENT, up to the root (R101). -/
def State.climbChain (s : State) (ctx : Nat) (nodes : List Node) (parent : W64) : Nat → Chain
  | 0 => .bad s parent
  | fuel + 1 =>
    match s.readNode ctx parent with
    | (s, none) => .bad s parent
    | (s, some n) =>
      let kindOk := n.rcb.kind == 0 && n.rcb.parent == 0 || n.rcb.kind == 2 && addrOk n.rcb.parent 1
      if !kindOk || !n.suppliesOk nodes then .bad s parent
      else if n.rcb.kind == 0 then
        if n.addr == (s.ctxAt ctx).rcb then .ok s (nodes ++ [n]) else .bad s n.addr
      else s.climbChain ctx (nodes ++ [n]) n.rcb.parent fuel

/-- The chain of a grid (R101): the grid, its leaf, its ancestors; at most 8 nodes (R98). -/
def State.readChain (s : State) (ctx : Nat) (grid : W64) : Chain :=
  match s.readNode ctx grid with
  | (s, none) => .bad s grid
  | (s, some g) =>
    let teams := g.rcb.gx * g.rcb.gy * g.rcb.gz
    if g.rcb.kind != 1 || teams == 0 || teams > 2 ^ 32 || !addrOk g.rcb.parent 1 || !addrOk g.rcb.child 1 then .bad s grid
    else match s.readNode ctx g.rcb.child with
      | (s, none) => if g.suppliesOk [] then .bad s g.rcb.child else .bad s grid
      | (s, some l) =>
        if !g.suppliesOk [l] then .bad s grid
        else if l.rcb.kind != 3 || !l.suppliesOk [] then .bad s g.rcb.child
        else s.climbChain ctx [l, g] g.rcb.parent 6

/-- The node that supplies a group of a chain, leaf first (R100). -/
def supplier (nodes : List Node) (k : Nat) : Node :=
  ((nodes.find? fun n => n.rcb.own k).getD (nodes.getLastD ⟨0, [], {}⟩))

/-- The values in force for a grid (R100): those of its leaf, with the extents of the grid. -/
def inForce (nodes : List Node) (grid : Rcb) : Rcb :=
  let r (k : Nat) : Rcb := (supplier nodes k).rcb
  { kind := 1, fusel1 := (r 12).fusel1, vmode := (r 10).vmode, acommit := (r 10).acommit, prio := (r 0).prio, fdid := (r 1).fdid
    inh := grid.inh, parent := grid.parent, child := grid.child, handler := (r 2).handler, entry := (r 12).entry
    gx := grid.gx, gy := grid.gy, gz := grid.gz, groups := (r 12).groups, gregs := (r 12).gregs, cregs := (r 12).cregs
    scr := (r 12).scr, acc := (r 12).acc, dist := (r 13).dist, pair := (r 13).pair, parkt := (r 9).parkt, parka := (r 9).parka
    pslots := (r 9).pslots, psz := (r 9).psz, vobase := (r 10).vobase, vosize := (r 10).vosize, cto := (r 11).cto
    boosta := (r 8).boosta, budgets := (List.range 5).map fun k => (r (3 + k)).budgets.getD k 0
    csptr := (r 14).csptr, cscnt := (r 14).cscnt }

/-- Whether an area in use breaks R99: misaligned, bits of [63:52] set, or a page outside device memory. -/
def State.areaBad (s : State) (ctx : Nat) (base : W64) (bytes align : Nat) : Bool :=
  !addrOk base align || (List.range ((bytes + base.toNat % 4096 + 4095) / 4096)).any fun i =>
    let va := base.toNat + 4096 * i
    va ≥ 2 ^ 52 || (s.ctxAt ctx).hostManaged va || match s.walk ctx va with
      | .leaf e _ => e.peer
      | _ => false

/-- The copy schedule of R120: its entries as phase, source, destination and length, or nothing where one is malformed. -/
def State.readSchedule (s : State) (ctx : Nat) (e : Rcb) : Option (State × List (Nat × Nat × Nat × Nat)) :=
  (List.range e.cscnt).foldlM (fun (st : State × List (Nat × Nat × Nat × Nat)) i =>
    match st.1.unitRead ctx (e.csptr.toNat + 32 * i) 32 with
    | (_, .error _) => none
    | (s, .ok bs) =>
      let n (off len : Nat) : Nat := bytesAt bs off len
      let ok (a : Nat) : Bool := a < 2 ^ 52 && a % 64 == 0
      let (src, dst, len, phase) := (n 0 8, n 8 8, n 16 8, n 24 1)
      if phase > 2 || n 25 7 != 0 || !ok src || (phase != 2 && !ok dst) || len % 64 != 0 || len < 64 || len > 2 ^ 40 then none
      else some (s, st.2 ++ [(phase, src, dst, len)])) (s, [])

/-- The granules of a team's reservation: P of R257 in units of 64 KiB. -/
def Rcb.granules (e : Rcb) : Nat := (e.saveSize false + 65535) / 65536

/-- The groups of a team with a number that quadrant `q` takes (R129). -/
def quadGroups (tix groups q : Nat) : Nat := ((List.range groups).filter fun i => (tix + i) % 4 == q).length

/-- The fit test of R102: the first unit of placement on an empty core. -/
def State.fitsEmpty (s : State) (ctx : Nat) (e : Rcb) : Bool :=
  let tixs := if e.pair && e.gx * e.gy * e.gz ≥ 2 then [0, 1] else [0]
  let k := tixs.length
  (List.range 4).all (fun q =>
    let n := tixs.foldl (fun n t => n + quadGroups t e.groups q) 0
    n ≤ 32 && n * e.gregs ≤ 1344 && n * e.cregs ≤ 2048) &&
  k * e.scr ≤ 14 && k * e.acc ≤ 16 && k * e.granules ≤ (s.ctxAt ctx).spsize

/-- The checks of R102 on the values in force, in order: the group whose supplier is at fault, or the schedule. DESIGN CHOICE: a bad
entry of the schedule (R120) comes after the areas and before the fit test (log entry 116). -/
def State.checkInForce (s : State) (ctx : Nat) (e : Rcb) : Except Nat (State × List (Nat × Nat × Nat × Nat)) :=
  if e.pair && e.dist > 1 && e.dist % 2 == 1 then .error 13
  else if e.parkt != 0 && (e.pslots == 0 || 4096 * e.psz < e.saveSize true) then .error 9
  else if e.parkt != 0 && s.areaBad ctx e.parka (4096 * e.psz * e.pslots) 4096 then .error 9
  else if e.vosize != 0 && s.areaBad ctx e.vobase (4096 * e.vosize) 4096 then .error 10
  else if e.cscnt != 0 && s.areaBad ctx e.csptr (32 * e.cscnt) 32 then .error 14
  else match s.readSchedule ctx e with
    | none => .error 14
    | some (s, es) => if s.fitsEmpty ctx e then .ok (s, es) else .error 12

/-! ## Grid start (R122, R123) -/

/-- The accounts that a chain asks for (R113): node, resource and budget word. -/
def chainNeeds (nodes : List Node) : List (W64 × Nat × W32) :=
  nodes.flatMap fun n => (List.range 5).filterMap fun k =>
    let w := n.rcb.budgets.getD k 0
    if n.rcb.own (3 + k) && shareOf w != 0 then some (n.addr, k, w) else none

/-- The account of a context, node and resource. -/
def State.accountOf (s : State) (ctx : Nat) (node : W64) (res : Nat) : Option Nat :=
  (s.accounts.find? fun e => e.2.ctx == ctx && e.2.node == node && e.2.res == res).map fun e => e.1

/-- A grid takes the accounts it needs, of the device's 1,024 (R113); nothing where one is not free. -/
def State.takeAccounts (s : State) (grid : Nat) (needs : List (W64 × Nat × W32)) : Option State :=
  needs.foldlM (fun s (node, res, w) =>
    let g := s.gridAt grid
    let take (k : Nat) (a : Account) : State :=
      { s with accounts := tset s.accounts k { a with users := a.users ++ [grid] }
               grids := tset s.grids grid { g with accounts := g.accounts ++ [k] } }
    match s.accountOf g.ctx node res with
    | some k => (tget? s.accounts k).map (take k)
    | none => (tfree s.accounts 1024).map fun k =>
        take k { ctx := g.ctx, node := node, res := res, share := shareOf w, hard := w.getLsbD 15, limit := shareOf w * capOf res / 1024 }) s

/-- The entries of a started grid's copy schedule become operations of its copy engine (R121, R163): pre and warm entries
start in list order, post entries wait. -/
def State.startCopies (s : State) (grid : Nat) (es : List (Nat × Nat × Nat × Nat)) : State :=
  let engine := grid % 8
  let ctx := (s.gridAt grid).ctx
  es.zipIdx.foldl (fun s ((phase, src, dst, len), i) =>
    let op : EngineOp := { kind := .sched grid i (phase == 1) (phase == 2) src dst len, core := 48 * engine, ctx := ctx, cls := 8
                           engine := if phase == 1 then none else some engine }
    let (_, s) := s.addOp op
    let g := s.gridAt grid
    match phase with
    | 0 => s.setGrid grid { g with preLeft := g.preLeft ++ [i] }
    | 1 => s.setGrid grid { g with postLeft := g.postLeft ++ [i] }
    | _ => s) s

/-- A grid whose accounts are still to be taken takes them, and its copies start (R122 steps 3 and 4). -/
def State.fundGrid (s : State) (grid : Nat) : State :=
  let g := s.gridAt grid
  match s.takeAccounts grid g.needs with
  | none => s
  | some s => (s.setGrid grid { s.gridAt grid with needs := [], copies := [], started := s.time }).startCopies grid g.copies

/-- The first record of a queue that has satisfied R68 and waits for a distributor entry. -/
def Distributor.waits (d : Distributor) (queue : Nat) : Option Nat := (d.waiting.find? fun w => w.1 == queue).map fun w => w.2.1

/-- A record joins those that wait for an entry: behind those of earlier bclk cycles, and in ascending queue number among those of its
own (R122). -/
def Distributor.await (d : Distributor) (queue index now : Nat) : Distributor :=
  let before (w : Nat × Nat × Nat) : Bool := w.2.2 < now || w.1 ≤ queue
  { d with waiting := d.waiting.takeWhile before ++ [(queue, index, now)] ++ d.waiting.dropWhile before }

/-- Whether a record waits for an entry. -/
def Distributor.awaits (d : Distributor) (queue index : Nat) : Bool := d.waiting.any fun w => w.1 == queue && w.2.1 == index

/-- A record waits for an entry no more. -/
def Distributor.unwait (d : Distributor) (queue index : Nat) : Distributor :=
  { d with waiting := d.waiting.filter fun w => !(w.1 == queue && w.2.1 == index) }

/-- A grid start fails (R102): a Bad RCB record, and the record completes FAILED. -/
def State.badGrid (s : State) (queue index : Nat) (node : W64) : State :=
  let q := s.queueAt queue
  (s.post { cause := 0x41, ctx := q.ctx, info2 := node.toNat }).recordDone queue index true true

/-- A record takes a distributor entry, its chain is resolved and checked, and its accounts and copies are started
(R122 steps 1 to 4). -/
def State.startGrid (s : State) (queue index entry : Nat) : State :=
  let q := s.queueAt queue
  let s := { s with dist := s.dist.unwait queue index }
  let s := s.setQueue queue { q with recs := q.recs.map fun r =>
    if r.index.toNat == index then { r with started := true, grid := some entry } else r }
  let addr : W64 := match q.recs.find? fun r => r.index.toNat == index with
    | some r => BitVec.ofNat 64 (bytesAt r.bytes 8 8)
    | none => 0
  match s.readChain q.ctx addr with
  | .bad s node => s.badGrid queue index node
  | .ok s nodes =>
    let own := (nodes.getD 1 ⟨0, [], {}⟩).rcb
    let e := inForce nodes own
    match s.checkInForce q.ctx e with
    | .error k => s.badGrid queue index (supplier nodes k).addr
    | .ok (s, copies) =>
      let order := s.dist.startOrder
      let g : Grid := { queue := queue, record := index, ctx := q.ctx, rcb := addr, eff := e, order := order
                        teams := e.gx * e.gy * e.gz, needs := chainNeeds nodes, copies := copies, started := s.time }
      ({ s with dist := { s.dist with startOrder := order + 1 } }.setGrid entry g).fundGrid entry

/-- The grid of a queue that waits for accounts. -/
def State.unfunded (s : State) (queue : Nat) : Option Nat :=
  (s.grids.find? fun e => e.2.queue == queue && !e.2.failed && (e.2.needs != [] || e.2.copies != [])).map fun e => e.1

/-- Whether the checkpoint or the orderly stop has halted dispatch (R46, R87). -/
def State.dispatchHalted (s : State) : Bool := s.peer.ck.state == .quiesce || s.peer.ck.state == .stream || s.power.t3

/-- Whether the ORD predecessor of a record completed FAILED (R123), with the record's place in its queue. -/
def Queue.beforeFailed (q : Queue) (index : Nat) : Bool :=
  match q.recs.findIdx? fun r => r.index.toNat == index with
  | none => false
  | some i =>
    let ord := match q.recs[i]? with | some r => (bytesAt r.bytes 1 1).testBit 0 | none => false
    ord && (if i == 0 then q.lastFailed else match q.recs[i - 1]? with | some p => p.complete && p.failed | none => false)

/-- A record that waits for an entry completes FAILED without starting, its predecessor having done so (R123). -/
def State.failWaiting (s : State) (queue index : Nat) : State :=
  let s := { s with dist := s.dist.unwait queue index }
  let q := s.queueAt queue
  (s.setQueue queue { q with recs := q.recs.map fun r => if r.index.toNat == index then { r with started := true } else r }).recordDone
    queue index true true

/-- GRID_START (R78, R122): the record at the head of those that wait takes the lowest free entry of 2,048, or completes FAILED where
its predecessor has (R123); a grid of the queue that found no account free tries again (R113). Before stage 4 it waits while no core
is online. -/
def execGridStart (queue : Nat) (s : State) : Host.Outcome State Fault Refusal :=
  if s.dispatchHalted || ((s.stage == .memory || s.stage == .compute) && s.online == []) then .next s else
  match (s.unfunded queue).bind fun g => s.takeAccounts g (s.gridAt g).needs, s.unfunded queue with
  | some _, some g => .next (s.fundGrid g)
  | _, _ =>
    match s.dist.waiting.head? with
    | none => .next s
    | some w =>
      if w.1 != queue then .next s
      else if (s.queueAt queue).beforeFailed w.2.1 then .next (s.failWaiting queue w.2.1)
      else match tfree s.grids 2048 with
        | some entry => .next (s.startGrid queue w.2.1 entry)
        | none => .next s

/-- GRID_READY (R122 step 5): every pre entry is performed, and the grid joins the tail part of its level. -/
def execGridReady (grid : Nat) (s : State) : Host.Outcome State Fault Refusal :=
  match tget? s.grids grid with
  | none => .next s
  | some g =>
    if g.ready || g.failed || g.preLeft != [] || g.needs != [] || g.copies != [] then .next s
    else
      let s := s.setGrid grid { g with ready := true }
      .next { s with dist := { s.dist with items := s.dist.items ++ [{ level := g.eff.prio, head := false, grid := grid }] } }

/-! ## Eligibility and wait clocks (R127, R128) -/

/-- Whether an item is ineligible in every pass (R127), or waits for a commit that comes first (R142). -/
def State.ineligible (s : State) (i : Item) : Bool :=
  s.overHard i.grid || s.dist.dsusp.getLsbD (s.gridAt i.grid).ctx ||
    (match i.deferUntil with | some t => s.time < t | none => false) ||
    i.teams.any fun k => match (s.teamAt k).prev with | some p => (s.teamAt p).state == .committing | none => false

/-- An item's wait clock (R128). -/
def Item.waited (i : Item) (now : Nat) : Nat := i.clock + match i.since with | some t => now - t | none => 0

/-- The wait clocks stop for the items that are ineligible, and run on for those that have become eligible (R128). -/
def State.runClocks (s : State) : State :=
  let one (i : Item) : Item :=
    if s.ineligible i then { i with clock := i.waited s.time, since := none }
    else if i.since.isNone && i.clock != 0 then { i with since := some s.time }
    else i
  { s with dist := { s.dist with items := s.dist.items.map one } }

/-! ## Budget periods (R115 to R118) -/

/-- ACCOUNT_CHARGE (R115): an account whose count has reached its limit is over; a hard one pre-empts the resident teams that
are charged to it (R117). -/
def execAccountCharge (index : Nat) (s : State) : Host.Outcome State Fault Refusal :=
  match tget? s.accounts index with
  | none => .next s
  | some a =>
    let a := a.inPeriod s.time
    if a.isOver || a.count < a.limit then .next s
    else
      let s := { s with accounts := tset s.accounts index { a with isOver := true } }
      if !a.hard then .next s
      else
        let hit := tkeys s.teams fun _ t => (s.gridAt t.grid).accounts.contains index
        .next (hit.foldl (fun s k => s.nameCause k (.account index)) s).runClocks

/-- BUDGET_PERIOD_BOUNDARY (R115): every count of an earlier period returns to 0 and is not over; the teams that a budget pre-empted are
readmitted, or run on, and deferred readmissions become eligible (R117, R118). -/
def execBudgetPeriodBoundary (s : State) : Host.Outcome State Fault Refusal :=
  let now := periodAt s.time
  if now ≤ s.dist.period then .next s
  else
    let s := { s with accounts := tmap s.accounts fun _ a => a.inPeriod s.time
                      dist := { s.dist with period := now } }
    .next (s.endCauses fun _ c => match c with | .account _ => true | _ => false).runClocks

/-! ## Suspension (R127, R138, R140) -/

/-- The contexts of some DSUSP bits are suspended: their resident teams are pre-empted. -/
def State.suspend (s : State) (bits : W64) : State :=
  let new := bits &&& ~~~ s.dist.dsusp
  let s := { s with dist := { s.dist with dsusp := s.dist.dsusp ||| bits } }
  ((tkeys s.teams fun _ t => new.getLsbD t.ctx).foldl (fun s k => s.nameCause k .suspend) s).runClocks

/-- The contexts of some DSUSP bits go on: their pre-empted teams are readmitted, and pre-emptions not yet taken are
cancelled. -/
def State.unsuspend (s : State) (bits : W64) : State :=
  let s := { s with dist := { s.dist with dsusp := s.dist.dsusp &&& ~~~ bits } }
  (s.endCauses fun t c => bits.getLsbD t.ctx && c == .suspend).runClocks

/-- DSUSP_SET (R140): the bits that a write of DSUSP sets. -/
def execDsuspSet (value : W64) (s : State) : Host.Outcome State Fault Refusal :=
  if !s.bar0Open then .next s else .next (s.suspend value)

/-- DSUSP_CLEAR (R140): the bits that a write of DSUSP clears. -/
def execDsuspClear (value : W64) (s : State) : Host.Outcome State Fault Refusal :=
  if !s.bar0Open then .next s else .next (s.unsuspend (~~~ value))

end Sys2Proof.Machine
end

