-- ==== Sys2Proof/Machine/Place.lean ====
section
/-! DEFINITION. Placement (R126 to R133, R137, R139, R217, R218, R224, R257, R259, R265): which unit goes where, and how a team
comes onto a core. -/
namespace Sys2Proof.Machine

/-! ## Whether a team fits a core (R129) -/

/-- What a team needs of a core: its context, index and shape, the groups it brings, and for a readmission its key and what
binds it. -/
structure Need where
  ctx : Nat
  tix : Nat
  eff : Rcb
  gixs : List Nat
  team : Option Nat := none
  again : Bool := false
  home : Option Nat := none
  tiles : List Nat := []
  reserve : Bool := true
  deriving DecidableEq, Repr

/-- The need of a team that a grid has not dispatched yet. -/
def State.freshNeed (s : State) (grid tix : Nat) : Need :=
  let g := s.gridAt grid
  { ctx := g.ctx, tix := tix, eff := g.eff, gixs := List.range g.eff.groups }

/-- The need of a team of a readmission: its live groups; with tiles that are not spilled, its home core and their numbers
(R139, R265). -/
def State.againNeed (s : State) (team : Nat) : Need :=
  let t := s.teamAt team
  let e := (s.gridAt t.grid).eff
  if !t.restore then { s.freshNeed t.grid t.tix.toNat with team := some team, again := true }
  else { ctx := t.ctx, tix := t.tix.toNat, eff := e, gixs := (List.range e.groups).filter fun i => t.live.getLsbD i
         team := some team, again := true, home := if e.acc != 0 && t.slot.isNone then t.home else none
         tiles := t.formerTiles.map fun j => t.tiles.getD j 0, reserve := t.save.isNone }

/-- The groups of a need that quadrant `q` takes. -/
def Need.inQuad (x : Need) (q : Nat) : Nat := (x.gixs.filter fun i => (x.tix + i) % 4 == q).length

/-- The teams on a core. -/
def State.teamsOn (s : State) (core : Nat) : List Team := (s.teams.filter fun e => e.2.core == core && e.2.onCore).map fun e => e.2

/-- The tile numbers of a core that a team may take (R129, R265): those that no team there holds, and that no context with a
team there holds lazily; a team's own former numbers stay its own. A team placed in the same decision, its pair's, counts only by
the tiles it has taken. -/
def State.freeTileNumbers (s : State) (core : Nat) (team : Option Nat) : List Nat :=
  let here := s.teamsOn core
  let taken := here.flatMap fun t => t.tiles
  let lazy := s.teams.flatMap fun (k, t) =>
    if t.core == core && some k != team && here.any (fun x => x.ctx == t.ctx && x.placed != s.time) then t.lazyTiles.map fun j => t.tiles.getD j 0 else []
  (List.range 16).filter fun n => !taken.contains n && !lazy.contains n

/-- Whether a core's pre-emption spill lets one readmission count the swap reserve (R259). -/
def State.swapReserve (s : State) (core : Nat) : Bool :=
  s.teams.any (fun e => e.2.core == core && e.2.state == .preempting) &&
    (List.range 4).all fun q =>
      (s.groups.foldl (fun n (k, g) => if k / 128 == core && k % 128 / 32 == q then n + g.g else n) 0) ≤ 1344

/-- The lowest granule at which a run of free granules of a context's pool begins (R257), besides those taken. -/
def Context.findGranules (c : Context) (n : Nat) (more : List (Nat × Nat)) : Option Nat :=
  let used := c.reserved.map (fun r => (r.1, r.2.1)) ++ more
  (0 :: used.map fun u => u.1 + u.2).mergeSort.find? fun b => b + n ≤ c.spsize && used.all fun u => u.1 + u.2 ≤ b || b + n ≤ u.1

/-- Whether the reservations that some teams of a context take fit its pool, each first-fit (R257). -/
def Context.poolFits (c : Context) (ns : List Nat) : Bool :=
  (ns.foldlM (fun (l : List (Nat × Nat)) n => (c.findGranules n l).map fun b => l ++ [(b, n)]) []).isSome

/-- Whether a team has its cluster's L1s fused (R130): one that a fence has replaced and that commits still does. -/
def State.l1Mode (s : State) (t : Team) : Bool := if t.grid == noGrid then t.fused else (s.gridAt t.grid).eff.fusel1

/-- Whether a team fits a core, with the members of its unit that already have cores (R129, R181, R257). -/
def State.fits (s : State) (placed : List (Nat × Need)) (x : Need) (core : Nat) : Bool :=
  let chip := chipOf (core / 8)
  let mates := (placed.filter fun p => p.1 == core).map fun p => p.2
  let sum (f : Need → Nat) : Nat := mates.foldl (fun n m => n + f m) 0
  let groups := s.groups.filter fun e => e.1 / 128 == core
  let held := s.withheld.filter fun w => w.core == core
  let here := s.teamsOn core
  let keep := if x.again && s.swapReserve core then 0 else 192
  let quad (q : Nat) : Bool :=
    let mine := groups.filter fun e => e.1 % 128 / 32 == q
    let old := held.filter fun w => w.slot / 32 == q
    let n := x.inQuad q
    mine.length + sum (fun m => m.inQuad q) + n ≤ 32 &&
      mine.foldl (fun a e => a + e.2.g) 0 + old.foldl (fun a w => a + w.g) 0 + sum (fun m => m.inQuad q * m.eff.gregs) + keep + n * x.eff.gregs ≤ 1536 &&
      mine.foldl (fun a e => a + e.2.c) 0 + old.foldl (fun a w => a + w.c) 0 + sum (fun m => m.inQuad q * m.eff.cregs) + n * x.eff.cregs ≤ 2048
  let units := ((s.core core).units.filter fun u => u != .l1).length
  let acc := here.foldl (fun a t => a + t.tiles.length) 0 + sum fun m => m.eff.acc
  let free := s.freeTileNumbers core x.team
  let cluster := s.teams.filter fun e => e.2.core / 8 == core / 8 && e.2.state.here
  let slots := placed.filter fun p => (p.2.team.map fun k => (s.teamAt k).restore) != some true
  s.chipOnline chip && !s.power.fenced.getLsbD chip && !s.power.cutOff.getLsbD (core / 8) &&
    (List.range 4).all quad && units + sum (fun m => m.eff.scr) + x.eff.scr ≤ 14 && acc + x.eff.acc ≤ 16 &&
    (x.eff.acc == 0 || (here.all (fun t => t.tiles == [] || t.ctx == x.ctx) &&
      sum (fun m => m.eff.acc) + x.eff.acc ≤ free.length && x.tiles.all free.contains)) &&
    cluster.all (fun e => s.l1Mode e.2 == x.eff.fusel1) &&
    (match x.home with | some h => h == core | none => true) &&
    (s.ctxAt x.ctx).poolFits ((placed.filter fun p => p.2.reserve).map (fun p => p.2.eff.granules) ++ if x.reserve then [x.eff.granules] else []) &&
    ((x.team.map fun k => (s.teamAt k).restore) == some true || slots.length + (s.tasks.filter fun e => e.2.state != .free).length < 131072)

/-! ## Search (R130, R131) -/

/-- A unit of placement (R126): its members in ascending place order, and how it is searched. -/
structure Placeable where
  needs : List Need
  district : Bool := false
  pair : Bool := false
  deriving DecidableEq, Repr

/-- Members that go on one core together, with earlier ones already placed. -/
def State.fitAll (s : State) (placed : List (Nat × Need)) (xs : List Need) (core : Nat) : Option (List (Nat × Need)) :=
  xs.foldlM (fun p x => if s.fits p x core then some (p ++ [(core, x)]) else none) placed

/-- A list of needs as its pairs, a last one alone. -/
def pairsOf : List Need → List (List Need)
  | a :: b :: r => [a, b] :: pairsOf r
  | [a] => [[a]]
  | [] => []

/-- The cores for the members of a district in one cluster (R130): each member, or pair, takes the first local core it fits
from its place on. -/
def State.districtSite (s : State) (u : Placeable) (cluster : Nat) : Option (List (Nat × Need)) :=
  let steps := if u.pair then pairsOf u.needs else u.needs.map fun x => [x]
  steps.foldlM (fun p xs =>
    let place := match xs with | x :: _ => x.tix % max 1 x.eff.dist | [] => 0
    (List.range 8).findSome? fun m => s.fitAll p xs (8 * cluster + (place + m) % 8)) []

/-- The site of a unit: a core for each member, and where Advance sets the pointer (R130, R131). -/
def State.search (s : State) (u : Placeable) : Option (List (Nat × Need) × Nat) :=
  if u.district then
    (List.range 48).findSome? fun k =>
      let l := (s.dist.ptr / 8 + k) % 48
      (s.districtSite u l).map fun p => (p, 8 * ((l + 1) % 48))
  else
    (List.range 384).findSome? fun k =>
      let n := (s.dist.ptr + k) % 384
      (s.fitAll [] u.needs n).map fun p => (p, (n + 1) % 384)

/-- The unit that an item offers (R126). -/
def State.nextUnit (s : State) (i : Item) : Placeable :=
  let g := s.gridAt i.grid
  let d := max 1 g.eff.dist
  if i.head then
    let ks := i.teams.mergeSort fun a b => (s.teamAt a).tix.toNat ≤ (s.teamAt b).tix.toNat
    { needs := ks.map s.againNeed, district := d > 1 }
  else
    let n := if d > 1 then d else if g.eff.pair then 2 else 1
    { needs := (List.range (min n (g.teams - g.next))).map fun j => s.freshNeed i.grid (g.next + j), district := d > 1, pair := g.eff.pair }

/-! ## A team comes onto its core (R133, R217, R218, R220, R224, R257) -/

/-- L1 lines of a core, those that a test names, leave it (R218, R220). -/
def State.emptyLines (s : State) (core : Nat) (p : L1Line → Bool) : State :=
  ((s.core core).l1.filter p).foldl (fun s x => s.evictLine core x) s

/-- The L1 mode of a cluster becomes a team's own (R220): every clean and owned copy of its L1s goes. -/
def State.setFused (s : State) (cluster : Nat) (fused : Bool) : State :=
  let c := s.cluster cluster
  if c.fused == fused then s
  else
    let s := (List.range 8).foldl (fun s k => s.emptyLines (8 * cluster + k) fun x => x.kind == .clean || x.kind == .owned) s
    s.setCluster cluster { s.cluster cluster with fused := fused }

/-- A team takes its scratchpad units: the highest-numbered that no scratchpad holds, emptied as L1 ways (R217, R218). -/
def State.takeUnits (s : State) (team core n : Nat) : State :=
  let k := s.core core
  let mine := (((List.range 16).reverse.filter fun u => k.units.getD u .l1 == .l1).take n).reverse
  let s := s.emptyLines core fun x => mine.contains x.unit
  let k := s.core core
  let s := s.setCore core { k with units := k.units.zipIdx.map fun (u, i) => if mine.contains i then .team team else u }
  s.setTeam team { s.teamAt team with units := mine, scratch := [] }

/-- A team takes its tiles (R224): positions that are not spilled keep their numbers, the others take the lowest free ones. A
team that left a park slot, or comes afresh, takes all of them so. -/
def State.tileNumbers (s : State) (team core acc : Nat) : List Nat :=
  let t := s.teamAt team
  let kept := t.formerTiles
  let free := (s.freeTileNumbers core (some team)).filter fun n => !(kept.any fun j => t.tiles.getD j 16 == n)
  ((List.range acc).foldl (fun (st : List Nat × List Nat) j =>
    if kept.contains j then (st.1 ++ [t.tiles.getD j 0], st.2)
    else match st.2 with
      | n :: r => (st.1 ++ [n], r)
      | [] => (st.1 ++ [0], [])) ([], free)).1

/-- The teams that hold some tile numbers of a core lazily, with the positions. -/
def State.lazyHolders (s : State) (core : Nat) (numbers : List Nat) (but : Nat) : List (Nat × List Nat) :=
  s.teams.filterMap fun (k, t) =>
    if t.core != core || k == but then none
    else
      let js := t.lazyTiles.filter fun j => numbers.contains (t.tiles.getD j 16)
      if js == [] then none else some (k, js)

/-- The tiles of a team come to it at placement (R265, R437, R449): what its own context holds lazily there is spilled, tiles
that no other context holds are zeroed, and the others wait for First-Use. A team that comes back is afresh in the tiles that First-Use
did not reach. It answers the tiles that were spilled and those that First-Use is left with. -/
def State.takeTiles (s : State) (team core : Nat) (afresh : Bool) : State × Nat × List Nat :=
  let t := s.teamAt team
  let e := (s.gridAt t.grid).eff
  let kept := t.lazyTiles
  let numbers := s.tileNumbers team core e.acc
  let taken := numbers.zipIdx.filter fun x => !kept.contains x.2
  let holders := s.lazyHolders core (taken.map fun x => x.1) team
  let own := holders.filter fun h => (s.teamAt h.1).ctx == t.ctx
  let left := (holders.filter fun h => (s.teamAt h.1).ctx != t.ctx).flatMap fun (k, js) => js.map (s.teamAt k).tile
  let new := taken.filter fun x => afresh || t.untouched.contains x.2
  let s := s.setTeam team { t with
    tiles := numbers, state := .resident, core := core, placed := s.time
    untouched := (new.filter fun x => left.contains x.1).map fun x => x.2 }
  let s := own.foldl (fun s (k, js) => s.spillTiles k js false) s
  let s := (new.filter fun x => !left.contains x.1).foldl (fun s x => s.setCore core ((s.core core).setTile x.1 zeroTile)) s
  (s, own.foldl (fun n h => n + h.2.length) 0, left)

/-- A context's reservation for a team, first-fit (R257). -/
def State.reserve (s : State) (team : Nat) : State :=
  let t := s.teamAt team
  let c := s.ctxAt t.ctx
  let n := (s.gridAt t.grid).eff.granules
  match c.findGranules n [] with
  | none => s
  | some b =>
    (s.setCtx t.ctx { c with reserved := c.reserved ++ [(b, n, team)] }).setTeam team
      { t with save := some (fld c.spbase.toNat 49 16 * 65536 + 65536 * b) }

/-- A team takes the lowest free slot of the task table (R180, R181). -/
def State.takeTask (s : State) (team : Nat) : State :=
  let t := s.teamAt team
  let e := (s.gridAt t.grid).eff
  match (List.range (s.tasks.length + 1)).find? fun k => (s.taskAt k).state == .free with
  | none => s
  | some k =>
    let s := s.setTask k { state := .running, gen := (s.taskAt k).gen + 1, ctx := t.ctx, fdid := e.fdid, acommit := e.acommit
                           voBase := e.vobase, voBlocks := e.vosize }
    let s := s.setTeam team { t with task := k }
    s.setTeam team { s.teamAt team with tid := BitVec.ofNat 32 (s.tid (s.teamAt team)) }

/-- The lowest free slot of a quadrant of a core. -/
def State.freeSlot (s : State) (core quad : Nat) : Nat :=
  ((List.range 32).find? fun i => (s.group? core (32 * quad + i)).isNone).getD 0 + 32 * quad

/-- A group as it is created (R199), with its delay (R133). -/
def State.newGroup (s : State) (team gix ready : Nat) : State :=
  let t := s.teamAt team
  let e := (s.gridAt t.grid).eff
  let (id, s) := s.fresh
  let g : Group := { uid := id, team := team, gix := gix, g := e.gregs, c := e.cregs, split := [(0, { mask := fullMask, pc := e.entry })]
                     sr := (List.range 64).map fun l => BitVec.ofNat 32 (0x6A09E667 + 64 * gix + l), readyAt := ready }
  s.setGroup t.core (s.freeSlot t.core ((t.tix.toNat + gix) % 4)) g

/-- The moment from which a core's groups may become ready (R84, R133): a retained cluster wakes first. -/
def State.startBase (s : State) (core : Nat) : Nat × State :=
  let c := s.cluster (core / 8)
  if !c.ret then (s.time, s)
  else
    let at' := c.wakeAt.getD (s.time + 2 * usec)
    (at', s.setCluster (core / 8) { c with wakeAt := some at' })

/-- R133's delay of a group. -/
def State.groupDelay (s : State) (core gix : Nat) : Nat := 2 * usec / 5 + 4 * gix * s.cyc core

/-- A group that has come back from a save (R137, R404): PEV takes what the Plaza latched, and an unmasked event resumes it at
once; otherwise it waits on. -/
def Group.back (g : Group) (ready : Nat) : Group :=
  let g := { g.goOn with pev := g.pev ||| g.latch, latch := 0, ready := false, readyAt := ready, parkSince := none }
  if g.pev &&& g.evm != 0 then
    { g with split := tmap g.split fun _ f => match f.wait with
      | .event d => { f with wait := .resume d ready false }
      | _ => f }
  else g.notePark ready

/-- The cycles of a core's spill engine for a number of bytes (R259). -/
def spillCycles (bytes : Nat) : Nat := (bytes + 63) / 64

/-- The live groups of a readmitted team are read from its save area (R259), after its scratchpad, each ready as its control
block has been read. -/
def State.restoreGroups (s : State) (team base : Nat) (park : Bool) : State :=
  let t := s.teamAt team
  let e := (s.gridAt t.grid).eff
  let a := s.areaOf team park
  let kept := (t.kept.filter fun x => t.live.getLsbD x.2.gix).mergeSort fun x y => x.2.gix ≤ y.2.gix
  let (s, _) := kept.foldl (fun (st : State × Nat) (_, g) =>
    let (s, g) := st.1.loadGroup a e g
    let bytes := st.2 + g.registerArea.length + if park then 1024 else 1664
    let ready := max (base + (spillCycles bytes + 1) * s.cyc t.core) (base + s.groupDelay t.core g.gix)
    let slot := s.freeSlot t.core ((t.tix.toNat + g.gix) % 4)
    let g := g.back ready
    let s := s.setGroup t.core slot g
    (g.mailWaits.foldl (fun s (e, b) => s.enterBox t.ctx b t.core slot e) s, bytes)) (s, 32768 * e.scr)
  s.setTeam team { s.teamAt team with kept := [] }

/-- The tiles of a park slot come back (R136, R261): into the ring, or, where another context holds the number lazily, into
the team's reservation, from which First-Use reads them. -/
def State.restoreTiles (s : State) (team core : Nat) (left : List Nat) : State :=
  let t := s.teamAt team
  let e := (s.gridAt t.grid).eff
  t.tiles.zipIdx.foldl (fun s (n, j) =>
    let (s, bs) := s.getArea (s.areaOf team true) (e.tileAt true j) 4096
    if left.contains n then
      let s := s.putArea (s.areaOf team false) (e.tileAt false j) bs
      s.setTeam team { s.teamAt team with tspill := (s.teamAt team).tspill ||| BitVec.ofNat 16 (2 ^ j) }
    else s.setCore core ((s.core core).setTile n (wordsOf bs))) s

/-- The instruction lines of a context that were filled before a team's grid started are dropped (R299). -/
def State.dropStale (s : State) (core ctx started : Nat) : State :=
  let k := s.core core
  s.setCore core { k with icache := k.icache.filter fun x => x.ctx != ctx || x.filled ≥ started }

/-- A team, whose entry stands ready, is placed on a core (R133): afresh, or restored from its save. -/
def State.placeTeam (s : State) (team core : Nat) : State :=
  let t := s.teamAt team
  let g := s.gridAt t.grid
  let e := g.eff
  let afresh := !t.restore
  let park := t.slot.isSome
  let s := s.setFused (core / 8) e.fusel1
  let s := if afresh then s.takeTask team else s
  let s := if t.save.isNone then s.reserve team else s
  let s := s.takeUnits team core e.scr
  let (base, s) := s.startBase core
  let s := if park then s.setTeam team { s.teamAt team with tspill := 0 } else s
  let (s, spilled, left) := s.takeTiles team core afresh
  let base := base + if spilled == 0 then 0 else (200 + 64 * spilled) * s.cyc core
  let s := s.setTeam team { s.teamAt team with state := .resident, core := core, placed := s.time, restore := false, causes := [] }
  let s := s.dropStale core t.ctx g.started
  let s := s.setCluster (core / 8) { s.cluster (core / 8) with idleSince := s.time }
  if afresh then
    let s := s.setTeam team { s.teamAt team with live := BitVec.ofNat 16 (2 ^ e.groups - 1) }
    (List.range e.groups).foldl (fun s i => s.newGroup team i (base + s.groupDelay core i)) s
  else
    let s := s.loadScratch team park
    let s := s.restoreGroups team base park
    let s := if park then s.restoreTiles team core left else s
    let s := if park then s.freePark team else s
    s.setTeam team { s.teamAt team with home := none }

/-! ## The placement step (R128) -/

/-- A unit's members are placed on their cores: a fresh one of a grid takes an entry of its own first. -/
def State.placeUnit (s : State) (i : Item) (site : List (Nat × Need)) : State :=
  site.foldl (fun s (core, x) =>
    match x.team with
    | some k => s.placeTeam k core
    | none =>
      let (k, s) := s.fresh
      let s := s.setTeam k { grid := i.grid, ctx := x.ctx, tix := BitVec.ofNat 32 x.tix }
      let g := s.gridAt i.grid
      (s.setGrid i.grid { g with next := max g.next (x.tix + 1) }).placeTeam k core) s

/-- The ready lists with an item's unit placed: a readmission has gone, a grid stays while teams are left, its wait clock again
at 0 (R125, R128). -/
def State.itemPlaced (s : State) (at' : Nat) (i : Item) : State :=
  let g := s.gridAt i.grid
  let items := s.dist.items
  let items := if i.head || g.next ≥ g.teams then items.eraseIdx at' else lset items at' { i with clock := 0, since := i.since.map fun _ => s.time }
  { s with dist := { s.dist with items := items, reserved := none } }

/-- The items of a level in order: the head part, then the tail part, with their places. -/
def Distributor.level (d : Distributor) (lv : Nat) : List (Nat × Item) :=
  let mine := (d.items.zipIdx.filter fun x => x.1.level == lv).map fun x => (x.2, x.1)
  mine.filter (fun x => x.2.head) ++ mine.filter (fun x => !x.2.head)

/-- What one pass over a list of items comes to: a placement, a reservation, or the state with the clocks that have started. -/
inductive PassResult where
  | placed (s : State)
  | held (s : State)
  | nothing (s : State)

/-- The items of one level are tried in order (R128). -/
def State.tryItems (s : State) (first : Bool) (items : List (Nat × Item)) : PassResult :=
  match items with
  | [] => .nothing s
  | (n, i) :: rest =>
    let i := s.dist.items.getD n i
    if s.ineligible i || (first && s.overSoft i.grid) then s.tryItems first rest
    else match s.search (s.nextUnit i) with
      | some (site, ptr) =>
        let s := (s.placeUnit i site).itemPlaced n i
        .placed { s with dist := { s.dist with ptr := ptr } }
      | none =>
        let i := { i with since := some (i.since.getD s.time) }
        let s := { s with dist := { s.dist with items := lset s.dist.items n i } }
        if first && i.waited s.time ≥ 100 * usec then .held s else s.tryItems first rest

/-- One pass over some levels, highest first; a reservation ends it at its level. -/
def State.tryLevels (s : State) (first : Bool) (levels : List Nat) : PassResult × Option Nat :=
  match levels with
  | [] => (.nothing s, none)
  | lv :: rest =>
    match s.tryItems first (s.dist.level lv) with
    | .placed s => (.placed s, none)
    | .held s => (.held s, some lv)
    | .nothing s => s.tryLevels first rest

/-- The levels, highest first. -/
def levels : List Nat := [7, 6, 5, 4, 3, 2, 1, 0]

/-- PLACEMENT_DECISION (R128), in bclk cycles that are multiples of 4, one in each. -/
def execPlacementDecision (s : State) : Host.Outcome State Fault Refusal :=
  if s.bclks % 4 != 0 || s.dispatchHalted || s.dist.decided == some s.bclks then .next s
  else
  let s := { s with dist := { s.dist with decided := some s.bclks } }
  match s.tryLevels true levels with
    | (.placed s, _) => .next s
    | (.held s, lv) | (.nothing s, lv) =>
      let above := levels.filter fun l => match lv with | some f => f < l | none => true
      let s := { s with dist := { s.dist with reserved := lv } }
      match (s.tryLevels false above).1 with
      | .placed t => .next { t with dist := { t.dist with reserved := lv } }
      | .held t => .next t
      | .nothing t => .next t

/-- PLACEMENT_RESERVATION (R128): the highest level at which an eligible item that is not over budget has waited 100 µs. -/
def execPlacementReservation (s : State) : Host.Outcome State Fault Refusal :=
  let held (lv : Nat) : Bool := s.dist.items.any fun i =>
    i.level == lv && !s.ineligible i && !s.overSoft i.grid && i.waited s.time ≥ 100 * usec
  match levels.find? held with
  | some lv => .next { s with dist := { s.dist with reserved := some lv } }
  | none => .next s

end Sys2Proof.Machine
end

