-- ==== Sys2Proof/Machine/Contexts.lean ====
section
/-! DEFINITION. The host side of contexts: BAR4 (R53), context registers and residency (R52, R54), the record ring (R57 to R60). -/
namespace Sys2Proof.Machine

/-! ## BAR4 (R53) -/

/-- The physical address of an offset of the BAR4 window. -/
def State.bar4Addr (s : State) (off : Nat) : Nat := fld s.host.bar4off.toNat 49 30 * 2 ^ 30 + off

/-- The pieces of a range that lie in one line each. -/
def linePieces (pa n : Nat) : List (Nat × Nat) :=
  (List.range ((pa + n + 255) / 256 - pa / 256)).map fun i =>
    let lo := max pa ((pa / 256 + i) * 256)
    (lo, min (pa + n) ((pa / 256 + i + 1) * 256) - lo)

/-- The contexts that hear of an uncorrectable line: those with a started grid (R193), or, where a host read meets it while none
has one, every resident context (R53). -/
def State.hearers (s : State) : List Nat :=
  match (s.grids.map fun g => g.2.ctx).eraseDups.mergeSort (· ≤ ·) with
  | [] => tkeys s.contexts fun _ c => c.en
  | cs => cs

/-- The host is told of a read of a line in a bad-line table (R53, R193). -/
def State.tellBad (s : State) (line : Nat) : State :=
  s.hearers.foldl (fun s c => s.post { cause := 0x47, ctx := c, info := s.homeOf (256 * line), info2 := 256 * line }) s

/-- What a host read of part of a line returns: all-ones beyond 768 GiB and for a bad line (R53). -/
def State.hostLine (s : State) (pa n : Nat) : State × List Byte :=
  if pa ≥ memTop then (s, List.replicate n 255)
  else if s.badRange pa n then
    let home := s.homeOf pa
    let known := (s.slice home).bad.any fun e => e.2.line == pa / 256
    let s := if known then s else s.addBad home (pa / 256) 1
    (if known || s.grids == [] then s.tellBad (pa / 256) else s, List.replicate n 255)
  else s.readNow pa n

/-- Whether an access lies in the BAR4 window (R51); one that does not is no access to the device. -/
def State.inBar4 (s : State) (off n : Nat) : Bool := off + n ≤ 2 ^ s.host.bar4bits

/-- A read of device memory by the host, line by line (R53). -/
def State.bar4Read (s : State) (pa n : Nat) : State :=
  let (s, bs) := (linePieces pa n).foldl (fun (st : State × List Byte) p =>
    let (s, b) := st.1.hostLine p.1 p.2
    (s, st.2 ++ b)) (s, [])
  { s with host := { s.host with readBytes := bs } }

/-- BAR4_READ (R53); before stage 2 it reads all-ones (R77). -/
def execBar4Read (off bytes : Nat) (s : State) : Host.Outcome State Fault Refusal :=
  if !s.inBar4 off bytes then .next s else
  if !s.bar0Open then .next { s with host := { s.host with readBytes := List.replicate bytes 255 } } else
  if s.rangeMoving (s.bar4Addr off) bytes then .next s else
  .next (s.attempt none fun s => s.bar4Read (s.bar4Addr off) bytes)

/-- BAR4_WRITE (R53): a direct store; what lies beyond 768 GiB is discarded. -/
def execBar4Write (off : Nat) (data : List Byte) (s : State) : Host.Outcome State Fault Refusal :=
  if !s.inBar4 off data.length || !s.bar0Open then .next s else
  let pa := s.bar4Addr off
  if pa ≥ memTop || s.rangeMoving pa data.length then .next s
  else .next (s.attempt none fun s => s.writeNow pa (data.take (memTop - pa)))

/-! ## Context registers (R54) -/

/-- A write to a context's block is ignored and noted in CXSTAT.ERR. -/
def State.ctxError (s : State) (ctx : Nat) : State := s.setCtx ctx { s.ctxAt ctx with err := true }

/-- The MSI-X vectors of a function (R49). -/
def vectorsOf (func : Nat) : Nat := if func == 0 then 2048 else 128

/-- Whether a page of a context's record ring maps a peer window (R57). -/
def State.ringOnPeer (s : State) (ctx : Nat) : Bool :=
  let c := s.ctxAt ctx
  let base := fld c.rqb.toNat 51 12 * 4096
  (List.range ((64 * 2 ^ c.log2 + 4095) / 4096)).any fun i =>
    let va := base + 4096 * i
    !c.hostManaged va && match s.walk ctx va with
      | .leaf e _ => e.peer
      | _ => false

/-- A context becomes resident (R54, R60, R405): its indices, flags and mailboxes are 0; the first of the physical function takes
the buffered records. -/
def State.enableCtx (s : State) (ctx func : Nat) (pasid : BitVec 20) : State :=
  let first := func == 0 && !(s.contexts.any fun e => e.2.physical)
  let s := s.setCtx ctx { s.ctxAt ctx with en := true, func := func, pasid := pasid, rwi := 0, rri := 0, held := [], flags := []
                                           boxes := [], boxWaits := [] }
  if !first then s
  else
    let records := s.host.buffered
    let s := { s with host := { s.host with buffered := [] } }
    records.foldl (fun s bs => s.postBytes ctx (bs.set 34 (BitVec.ofNat 8 ctx)) none) s

/-- A context is removed (R54, R74): nothing it has in the TLBs or in a walk cache stays (R273). DESIGN CHOICE: records held for its
stopped groups are dropped (log entry 114). -/
def State.forgetCtx (s : State) (ctx : Nat) : State :=
  let s := s.tlbRemove fun e => e.ctx == ctx
  let s := { s with walkCache := tmap s.walkCache fun _ l => l.filter fun e => e.ctx != ctx
                    host := { s.host with atc := s.host.atc.filter fun e => e.ctx != ctx } }
  s.setCtx ctx { s.ctxAt ctx with en := false, held := [] }

/-- A write of CXCTL (R54). -/
def State.cxctlWrite (s : State) (ctx : Nat) (value : W32) : State :=
  let c := s.ctxAt ctx
  let en := value.getLsbD 31
  let func := fld value.toNat 30 26
  let pasid := value.extractLsb' 0 20
  if c.en then
    if func != c.func || pasid != c.pasid then s.ctxError ctx
    else if en then s
    else if s.queues.any (fun e => e.2.ctx == ctx && e.2.state != .off) then s.ctxError ctx
    else s.forgetCtx ctx
  else if !en then s.setCtx ctx { c with func := func, pasid := pasid }
  else
    let twin := s.contexts.any fun e => e.1 != ctx && e.2.en && e.2.func == func && e.2.pasid == pasid
    if func > 16 || twin || c.msiv ≥ vectorsOf func || c.log2 < 6 || c.log2 > 16 || s.ringOnPeer ctx then s.ctxError ctx
    else s.enableCtx ctx func pasid

/-- CONTEXT_ENABLE (R54): a CXCTL write with EN = 1 by a function. -/
def execContextEnable (func ctx : Nat) (value : W32) (s : State) : Host.Outcome State Fault Refusal :=
  if !s.bar0Open then .next s else
  if s.mayTouch func ctx && value.getLsbD 31 then .next (s.cxctlWrite ctx value) else .next s

/-- CONTEXT_DISABLE (R54): a CXCTL write with EN = 0. -/
def execContextDisable (func ctx : Nat) (value : W32) (s : State) : Host.Outcome State Fault Refusal :=
  if !s.bar0Open then .next s else
  if s.mayTouch func ctx && !value.getLsbD 31 then .next (s.cxctlWrite ctx value) else .next s

/-! ## The record ring (R57 to R59) -/

/-- A write of CXRRI: past CXRWI it is ignored; records that remain are announced. -/
def State.cxrriWrite (s : State) (ctx : Nat) (value : W32) : State :=
  let c := s.ctxAt ctx
  if (value - c.rri).toNat > (c.rwi - c.rri).toNat then s.ctxError ctx
  else
    let s := s.setCtx ctx { c with rri := value }
    if value != c.rwi then s.msix ctx c.msiv else s

/-- RECORD_RING_READ_INDEX_WRITE (R57, R59). -/
def execRecordRingReadIndexWrite (func ctx : Nat) (value : W32) (s : State) : Host.Outcome State Fault Refusal :=
  if !s.bar0Open then .next s else
  if s.mayTouch func ctx then .next (s.cxrriWrite ctx value) else .next s

/-- The oldest held record of a context is written, where the ring has room (R58). -/
def State.writeHeld (s : State) (ctx : Nat) : State :=
  match (s.ctxAt ctx).held with
  | [] => s
  | (bs, _) :: rest =>
    match s.ringWrite ctx bs with
    | .ok s => s.setCtx ctx { s.ctxAt ctx with held := rest }
    | .error s => s

/-- HELD_RECORD_WRITE (R58): the oldest held record is written once the ring has room. -/
def execHeldRecordWrite (ctx : Nat) (s : State) : Host.Outcome State Fault Refusal := .next (s.attempt none fun s => s.writeHeld ctx)

end Sys2Proof.Machine
end

