-- ==== Sys2Proof/Machine/Queues.lean ====
section
/-! DEFINITION. Queues and launch records (R61 to R70), LAUNCH (R412), and the reset of a virtual function (R74). -/
namespace Sys2Proof.Machine

/-! ## Launch records (R67) -/

/-- The fields of a launch record. -/
structure Launch where
  kind : Nat
  ord : Bool
  early : Bool
  irq : Bool
  sigw : Bool
  msiv : Nat
  rcb : Nat
  waddr : Nat
  wval : Nat
  saddr : Nat
  sval : Nat
  deriving DecidableEq, Repr

/-- A launch record from its bytes. -/
def Launch.parse (bs : List Byte) : Launch :=
  let n (off len : Nat) : Nat := bytesAt bs off len
  { kind := n 0 1, ord := (n 1 1).testBit 0, early := (n 1 1).testBit 1, irq := (n 1 1).testBit 2, sigw := (n 1 1).testBit 3
    msiv := n 2 2 % 2048, rcb := n 8 8, waddr := n 16 8, wval := n 24 8, saddr := n 32 8, sval := n 40 8 }

/-- An aligned address with bits [63:52] clear. -/
def plainAddr (a align : Nat) : Bool := a % align == 0 && a < 2 ^ 52

/-- The check of R67, for a record of a context's queue. -/
def State.recordOk (s : State) (ctx : Nat) (bs : List Byte) : Bool :=
  let r := Launch.parse bs
  r.kind ≤ 1 && bytesAt bs 1 1 < 16 && bytesAt bs 2 2 < 2048 && bytesAt bs 4 4 == 0 && bytesAt bs 48 16 == 0 && !(r.early && !r.ord) &&
    !(r.kind == 0 && r.rcb != 0) && plainAddr r.rcb 256 && plainAddr r.waddr 8 && (!r.sigw || plainAddr r.saddr 8) &&
    (!r.irq || r.msiv < vectorsOf (s.ctxAt ctx).func)

/-- A fetched record's fields. -/
def QRecord.launch (r : QRecord) : Launch := Launch.parse r.bytes

/-! ## The write index (R62) -/

/-- The overrun transition of R65. -/
def State.overrun (s : State) (q : Nat) : State :=
  let x := s.queueAt q
  if x.state == .active || x.state == .stopped then
    s.queueFault q 3 (x.qbase + 64 * BitVec.ofNat 64 (x.qwi.toNat % 2 ^ x.log2))
  else s

/-- A write of QWIN (R62). -/
def State.qwin (s : State) (q : Nat) (value : W32) : State :=
  let x := s.queueAt q
  if x.state == .off then s
  else if (value - x.qri).toNat > 2 ^ x.log2 then s.overrun q
  else s.setQueue q { x with qwi := value }

/-- Whether a function's registers show a queue (R52). -/
def State.queueTouch (s : State) (func q : Nat) : Bool := q < 4096 && s.mayTouch func (s.queueAt q).ctx

/-- QWIN_WRITE (R62). -/
def execQwinWrite (func queue : Nat) (value : W32) (s : State) : Host.Outcome State Fault Refusal :=
  if !s.bar0Open then .next s else
  if s.queueTouch func queue then .next (s.qwin queue value) else .next s

/-! ## Fetch (R64, R65) -/

/-- A record read that is in progress returns from where its address led as it was issued, and the record is checked. -/
def State.finishFetch (s : State) (q : Nat) : State :=
  let x := s.queueAt q
  match x.fetching with
  | none => s
  | some f =>
    let s := s.setQueue q { x with fetching := none }
    let fail (s : State) (cause : Nat) : State :=
      if x.state == .active then s.queueFault q cause (x.qbase + 64 * BitVec.ofNat 64 (x.qri.toNat % 2 ^ x.log2)) else s
    let take (s : State) (bs : List Byte) : State :=
      if s.recordOk x.ctx bs then
        let x := s.queueAt q
        s.setQueue q { x with qri := x.qri + 1, recs := x.recs ++ [{ index := x.qri, bytes := bs }] }
      else fail s 2
    match f.place with
    | some (.dev pa) => let (s, bs) := s.readNow pa 64; take s bs
    | some (.host a) => take { s with free := s.free + 1 } (s.hostRead a 64)
    | _ => fail s 1

/-- The address of the next record that a queue fetches (R64). -/
def Queue.nextAddr (x : Queue) : Nat := (x.qbase + 64 * BitVec.ofNat 64 (x.qri.toNat % 2 ^ x.log2)).toNat

/-- The read of a queue's next record is issued: its address is translated, and a read of a host-managed ring leaves over the link
(R50, R64). A record read whose translation fails, or that finds a peer's page, faults as it returns. -/
def State.issueFetch (s : State) (queue : Nat) : State :=
  let x := s.queueAt queue
  let c := s.ctxAt x.ctx
  let s := s.atsAsk x.ctx x.nextAddr false
  match s.xlateNow x.ctx x.nextAddr false with
  | .ok (.dev pa) => (s.xlateTouch x.ctx x.nextAddr false).setQueue queue { x with fetching := some ⟨s.time, some (.dev pa)⟩ }
  | .ok (.host a) =>
    if s.tagsOut c.func then s.hold
    else (s.setQueue queue { x with fetching := some ⟨s.time, some (.host a)⟩ }).hostAsk
      [{ func := c.func, owner := .fetch queue, msg := .read c.func c.pasid a 64 }]
  | _ => s.setQueue queue { x with fetching := some ⟨s.time, none⟩ }

/-- RECORD_FETCH (R64): the read of the next record is issued, once its function has a tag for it (R49). -/
def execRecordFetch (queue : Nat) (s : State) : Host.Outcome State Fault Refusal :=
  let x := s.queueAt queue
  if !s.power.t3 && x.state == .active && x.fetching.isNone && x.qri != x.qwi && x.infl < 16 then
    .next (s.attempt none fun s => s.issueFetch queue)
  else .next s

/-- RECORD_FETCH_COMPLETE (R64, R67). -/
def execRecordFetchComplete (queue : Nat) (s : State) : Host.Outcome State Fault Refusal :=
  .next (s.attempt none fun s => s.finishFetch queue)

/-! ## Queue control (R65, R66) -/

/-- QCTL.ABORT (R65): fetch ends, records that have not started complete FAILED, and the fault domains of the others' grids are
aborted; they raise no cause. -/
def State.abortQueue (s : State) (q : Nat) : State :=
  let x := s.queueAt q
  if x.state == .off then s
  else
    let grids := x.recs.filterMap fun r => if r.complete then none else r.grid
    let recs := x.recs.map fun r =>
      if r.complete then r else { r with quiet := true, complete := r.grid.isNone, failed := true, started := true }
    let s := s.setQueue q { x with recs := recs, state := .draining }
    let s := { s with dist := { s.dist with waiting := s.dist.waiting.filter fun w => w.1 != q } }
    let s := grids.foldl (fun s g =>
      match tget? s.grids g with
      | some x => if x.failed then s else s.abortDomain x.ctx x.eff.fdid
      | none => s) s
    s.setQueue q (s.queueAt q).settle

/-- QCTL.STOP (R65). DESIGN CHOICE: an Active queue with no record in flight is Draining for no time (log entry 113). -/
def State.stopQueue (s : State) (q : Nat) : State :=
  let x := s.queueAt q
  match x.state with
  | .active => s.setQueue q ({ x with state := .draining } : Queue).settle
  | .faulted => s.setQueue q ({ x with state := .draining } : Queue).settle
  | _ => s

/-- QCTL.RESUME (R65). -/
def State.resumeQueue (s : State) (q : Nat) : State :=
  let x := s.queueAt q
  if x.state == .stopped || x.state == .faulted then s.setQueue q { x with state := .active } else s

/-- QCTL.EN (R65, R66): a queue is created, or a destroy request is taken where the table allows. -/
def State.enableQueue (s : State) (q : Nat) (en : Bool) : State :=
  let x := s.queueAt q
  if en then
    if x.state == .off && (s.ctxAt x.ctx).en && 4 ≤ x.log2 && x.log2 ≤ 16 then
      s.setQueue q { x with state := .active, qri := 0, qwi := 0, qdone := 0, recs := [], lastFailed := false, resetOff := false }
    else s
  else if x.state == .stopped || (x.state == .faulted && x.infl == 0) then
    s.setQueue q { x with state := .off, recs := [], resetOff := false }
  else s

/-- A write of QCTL (R66): after a fetch in progress, ABORT, STOP, RESUME and EN in this order. CTX is taken while Off. -/
def State.qctlWrite (s : State) (q : Nat) (value : W32) : State :=
  let s := s.finishFetch q
  let x := s.queueAt q
  let s := if x.state == .off then s.setQueue q { x with ctx := fld value.toNat 21 16 } else s
  let s := if value.getLsbD 2 then s.abortQueue q else s
  let s := if value.getLsbD 1 then s.stopQueue q else s
  let s := if value.getLsbD 3 then s.resumeQueue q else s
  s.enableQueue q (value.getLsbD 0)

/-- QUEUE_CREATE (R65): a QCTL write with EN = 1 while Off. -/
def execQueueCreate (func queue : Nat) (value : W32) (s : State) : Host.Outcome State Fault Refusal :=
  if !s.bar0Open then .next s else
  if s.queueTouch func queue && value.getLsbD 0 && (s.queueAt queue).state == .off then .next (s.qctlWrite queue value) else .next s

/-- QUEUE_DESTROY (R66): a QCTL write with EN = 0. -/
def execQueueDestroy (func queue : Nat) (value : W32) (s : State) : Host.Outcome State Fault Refusal :=
  if !s.bar0Open then .next s else
  if s.queueTouch func queue && !value.getLsbD 0 then .next (s.qctlWrite queue value) else .next s

/-- QUEUE_STOP (R65): a QCTL write with STOP = 1. -/
def execQueueStop (func queue : Nat) (value : W32) (s : State) : Host.Outcome State Fault Refusal :=
  if !s.bar0Open then .next s else
  if s.queueTouch func queue && value.getLsbD 1 then .next (s.qctlWrite queue value) else .next s

/-- QUEUE_ABORT (R65): a QCTL write with ABORT = 1. -/
def execQueueAbort (func queue : Nat) (value : W32) (s : State) : Host.Outcome State Fault Refusal :=
  if !s.bar0Open then .next s else
  if s.queueTouch func queue && value.getLsbD 2 then .next (s.qctlWrite queue value) else .next s

/-- QUEUE_RESUME (R65): a QCTL write with RESUME = 1. -/
def execQueueResume (func queue : Nat) (value : W32) (s : State) : Host.Outcome State Fault Refusal :=
  if !s.bar0Open then .next s else
  if s.queueTouch func queue && value.getLsbD 3 then .next (s.qctlWrite queue value) else .next s

/-! ## Starting records (R68, R69, R123) -/

/-- A fault on a WADDR read or an SADDR write (R65). -/
def State.addressFault (s : State) (q cause addr : Nat) : State :=
  let x := s.queueAt q
  if x.state == .active || x.state == .draining then s.queueFault q cause (BitVec.ofNat 64 addr) else s

/-- Whether every team of a grid has executed TRIG or retired (R68, R123). -/
def Grid.early (g : Grid) : Bool := (g.triggered ++ g.retired).eraseDups.length == g.teams

/-- Where the first record of a queue that has not started stands: its place, itself, and the record before it. -/
def Queue.nextRec (q : Queue) : Option (Nat × QRecord × Option QRecord) :=
  match q.recs.findIdx? fun r => !r.started with
  | none => none
  | some i => (q.recs[i]?).map fun r => (i, r, if i == 0 then none else q.recs[i - 1]?)

/-- Whether the record at a place of a queue has its ORD condition (R68). -/
def State.ordOk (s : State) (q : Queue) (i : Nat) (r : QRecord) : Bool :=
  let l := r.launch
  !l.ord || (q.recs.take i).zipIdx.all fun (p, j) => p.complete ||
    (l.early && j + 1 == i && p.launch.kind == 1 && match p.grid.bind (tget? s.grids) with
      | some g => g.early
      | none => false)

/-- Whether the record's ORD predecessor completed FAILED (R123). -/
def Queue.predFailed (q : Queue) (r : QRecord) (prev : Option QRecord) : Bool :=
  r.launch.ord && match prev with
    | some p => p.complete && p.failed
    | none => q.lastFailed

/-- The first record that has not started reads its wait word, where its other conditions hold (R69). -/
def State.poll (s : State) (queue : Nat) : State :=
  let q := s.queueAt queue
  match q.nextRec with
  | none => s
  | some (i, r, _) =>
    let l := r.launch
    if l.waddr == 0 || r.waitOk || !s.ordOk q i r then s
    else
      let note (s : State) (ok : Bool) : State :=
        let q := s.queueAt queue
        s.setQueue queue { q with recs := q.recs.map fun x => if x.index == r.index then { x with polled := some s.time, waitOk := ok } else x }
      match s.unitRead q.ctx l.waddr 8 with
      | (s, .error _) => (note s false).addressFault queue 5 l.waddr
      | (s, .ok bs) => note s (leNat bs ≥ l.wval)

/-- WAIT_ADDRESS_POLL (R69): when the other conditions hold, and then every 2 µs, or every 10 µs for a host-managed word. -/
def execWaitAddressPoll (queue : Nat) (s : State) : Host.Outcome State Fault Refusal :=
  let q := s.queueAt queue
  match q.nextRec with
  | none => .next s
  | some (_, r, _) =>
    let period := if (s.ctxAt q.ctx).hostManaged r.launch.waddr then 10 * usec else 2 * usec
    match r.polled with
    | some t => if t + period ≤ s.time then .next (s.attempt none fun s => s.poll queue) else .next s
    | none => .next (s.attempt none fun s => s.poll queue)

/-- RECORD_START (R68, R122, R123): a NOP starts and completes, a GRID goes to wait for a distributor entry, a record whose
predecessor FAILED completes FAILED. -/
def execRecordStart (queue : Nat) (s : State) : Host.Outcome State Fault Refusal :=
  let q := s.queueAt queue
  match q.nextRec with
  | none => .next s
  | some (i, r, prev) =>
    let l := r.launch
    let index := r.index.toNat
    if q.state == .off || !s.ordOk q i r then .next s
    else if s.dist.awaits queue index then .next (if q.predFailed r prev then s.failWaiting queue index else s)
    else
      let begun (s : State) : State :=
        let q := s.queueAt queue
        s.setQueue queue { q with recs := q.recs.map fun x => if x.index == r.index then { x with started := true } else x }
      if q.predFailed r prev then .next ((begun s).recordDone queue index true (l.kind == 1))
      else if l.waddr != 0 && !r.waitOk then .next s
      else if l.kind == 0 then .next ((begun s).recordDone queue index false false)
      else .next { s with dist := s.dist.await queue index s.bclks }

/-! ## Completion actions (R70) -/

/-- A wait word that a signal write has changed is read at once (R69). -/
def State.pollWord (s : State) (ctx addr : Nat) : State :=
  let place (c a : Nat) : Option Loc := match s.xlateNow c a false with | .ok l => some l | .error _ => none
  (tkeys s.queues fun _ q => match q.nextRec with
    | some (_, r, _) => r.polled.isSome && r.launch.waddr != 0 && place q.ctx r.launch.waddr == place ctx addr
    | none => false).foldl (fun s k => s.poll k) s

/-- The completion actions of the oldest record of a queue (R70): it signals, counts as done and interrupts. -/
def State.complete (s : State) (queue : Nat) (r : QRecord) (rest : List QRecord) : State :=
  let ctx := (s.queueAt queue).ctx
  let l := r.launch
  let ok := !r.failed
  let (s, signalled) := if !ok || !l.sigw then (s, ok)
    else match s.unitWrite ctx l.saddr (leBytes 8 l.sval) with
      | (s, none) => (s, true)
      | (s, some _) => (s.addressFault queue 6 l.saddr, false)
  let q := s.queueAt queue
  let s := s.setQueue queue ({ q with recs := rest, qdone := q.qdone + 1, lastFailed := r.failed } : Queue).settle
  let s := if signalled && l.sigw then s.pollWord q.ctx l.saddr else s
  if signalled && l.irq then s.msix q.ctx l.msiv else s

/-- RECORD_COMPLETION_ACTIONS (R70): the oldest record of a queue is complete, and takes its actions. -/
def execRecordCompletionActions (queue : Nat) (s : State) : Host.Outcome State Fault Refusal :=
  match (s.queueAt queue).recs with
  | [] => .next s
  | r :: rest => if r.complete then .next (s.attempt none fun s => s.complete queue r rest) else .next s

/-! ## LAUNCH (R412) -/

/-- LAUNCH (R412): the request waits for the release; its status comes back to D. -/
def execLaunch (o : Operands) (s : State) : Host.Outcome State Fault Refusal :=
  runState 0xD1 o ctlTiming s fun c => do
    c.syncCheck [raw32 o.a, raw32 o.b] o.d false
    let at' := c.single o o.a
    alignChecks [(at', 64)]
    rangeChecks (s.scratchSize c.g.team) [(at', 64)]
    let s := s.setNr c.g.team
    let id := s.ids
    let s := s.send (.launch c.g.team (c.single o o.b % 4096) at' c.core c.slot c.entry) c.core queueSlice true (s.accessesOf c.g.uid)
    .ok (.issued s (c.blocked 0xD1 o c.g (.status id o.d)) true)

/-- The queue unit acts on a LAUNCH: the state and the status (R412). -/
def State.append (s : State) (team queue at' : Nat) : State × Nat :=
  let q := s.queueAt queue
  let t := s.teamAt team
  if q.state == .off || q.ctx != t.ctx then (s, 2)
  else if (q.qwi + 1 - q.qri).toNat > 2 ^ q.log2 then (s.overrun queue, 1)
  else
    match s.unitWrite q.ctx (q.qbase.toNat + 64 * (q.qwi.toNat % 2 ^ q.log2)) (cread t.scratch at' 64) with
    | (s, some _) => (s, 3)
    | (s, none) => (s.setQueue queue { s.queueAt queue with qwi := q.qwi + 1 }, 0)

/-- The queue unit acts on a LAUNCH, and its status comes back to the fragment that waits for it (R412). -/
def State.launched (s : State) (message team queue at' core slot entry sent : Nat) : State :=
  let s := s.dropMsg message
  if (s.teamAt team).state.over then s
  else
    let (s, status) := s.append team queue at'
    match s.frag? core slot entry with
    | some (_, f) =>
      match f.wait with
      | .status k d => if k == message then s.answer core slot entry d false status (max s.time (sent + fixedCycles 480)) else s
      | _ => s
    | none => s

/-- LAUNCH_APPEND (R412): the request reaches the queue unit. -/
def execLaunchAppend (message : Nat) (s : State) : Host.Outcome State Fault Refusal :=
  match tget? s.msgs message with
  | none => .next s
  | some m =>
    match m.kind with
    | .launch team queue at' core slot entry =>
      if !s.ready message m then .next s else .next (s.attempt none fun s => s.launched message team queue at' core slot entry m.sent)
    | _ => .next s

/-! ## Function Level Reset (R74) -/

/-- A function's reset is over once every queue of its contexts is Off: the contexts are removed. -/
def State.endFlr (s : State) (func : Nat) : State :=
  let mine (c : Context) : Bool := func == 0 || c.func == func
  if s.queues.any fun e => e.2.state != .off && mine (s.ctxAt e.2.ctx) then s
  else
    let s := (tkeys s.contexts fun _ c => mine c).foldl (fun s c => s.forgetCtx c) s
    { s with host := { s.host with flr := s.host.flr.filter fun f => f != func } }

/-- A Function Level Reset: ABORT for each queue of the function's contexts, which are destroyed as they drain, and the
function's tag entries are free, for the faults of others that wait for one. Function 0 stands for every context. -/
def State.flr (s : State) (func : Nat) : State :=
  let mine (ctx : Nat) : Bool := func == 0 || (s.ctxAt ctx).func == func
  let qs := tkeys s.queues fun _ q => q.state != .off && mine q.ctx
  let s := qs.foldl (fun s q =>
    let s := (s.finishFetch q).abortQueue q
    s.setQueue q { s.queueAt q with resetOff := true }) s
  let s := { s with host := { s.host with tags := tfilter s.host.tags fun _ t => !mine t.ctx
                                          tagWait := s.host.tagWait.filter fun w => !mine w.ctx
                                          flr := if s.host.flr.contains func then s.host.flr else s.host.flr ++ [func] } }
  s.serveTags.endFlr func

/-- FLR_VF (R74): virtual function `vf`, whose CXCTL.FUNC is `vf` + 1. -/
def execFlrVf (vf : Nat) (s : State) : Host.Outcome State Fault Refusal := if vf < 16 then .next (s.flr (vf + 1)) else .next s

/-- FLR_QUEUE_DESTROY (R74): EN = 0 for a queue whose INFL has reached 0. -/
def execFlrQueueDestroy (queue : Nat) (s : State) : Host.Outcome State Fault Refusal :=
  let q := s.queueAt queue
  if q.resetOff && q.infl == 0 && (q.state == .stopped || q.state == .faulted) then
    let s := s.enableQueue queue false
    .next (s.host.flr.foldl (fun s f => s.endFlr f) s)
  else .next s

end Sys2Proof.Machine
end

