-- ==== Sys2Proof/Machine/Links.lean ====
section
/-! DEFINITION. The peer link layer (R27 to R36), tags, routes and transit (R39 to R42), port loss (R31, R43) and the port registers
(R44). -/
namespace Sys2Proof.Machine

/-! ## Flits (R28, R29, R35, R36) -/

/-- CRC-24 of R28 over the low `n` bits of a number. DESIGN CHOICE: the highest bit goes first, nothing is reflected, and the register
is not inverted at the end (log entry 141). -/
def crc24 (v n : Nat) : Nat :=
  ((List.range n).foldl (fun c i =>
    let top := (c / 2 ^ 23 + (if v.testBit (n - 1 - i) then 1 else 0)) % 2
    (c * 2 % 2 ^ 24) ^^^ (if top == 1 then 0x5D6DCB else 0)) 0xFFFFFF)

/-- A link header (R29). -/
structure LinkHeader where
  kind : Nat
  tc : Nat
  seq : BitVec 12
  ack : BitVec 12
  dst : BitVec 14
  crd : Nat := 0
  ctc : Nat := 0
  deriving DecidableEq, Repr

/-- The bits of a link header. -/
def LinkHeader.word (h : LinkHeader) : Nat :=
  h.kind * 2 ^ 60 + h.tc * 2 ^ 57 + h.seq.toNat * 2 ^ 45 + h.ack.toNat * 2 ^ 33 + h.dst.toNat * 2 ^ 19 + h.crd * 2 ^ 13 + h.ctc * 2 ^ 10

/-- A link header from its bits; the reserved bits are ignored. -/
def LinkHeader.parse (w : Nat) : LinkHeader :=
  { kind := fld w 63 60, tc := fld w 59 57, seq := BitVec.ofNat 12 (fld w 56 45), ack := BitVec.ofNat 12 (fld w 44 33)
    dst := BitVec.ofNat 14 (fld w 32 19), crd := fld w 18 13, ctc := fld w 12 10 }

/-- A flit: payload, header, CRC and FEC (R28). -/
def flitBits (h : LinkHeader) (pay : BitVec 512) : BitVec 640 :=
  let low := pay.toNat + h.word * 2 ^ 512
  let body : BitVec 600 := BitVec.ofNat 600 (low + crc24 low 576 * 2 ^ 576)
  BitVec.ofNat 640 (body.toNat + (Config.fecCheck body).toNat * 2 ^ 600)

/-- Symbol `i` of a flit, of 10 bits (R28). -/
def flitSymbol (w : BitVec 640) (i : Nat) : Nat := fld w.toNat (10 * i + 9) (10 * i)

/-- In how many symbols a flit differs from the code word of 600 bits (R28, R30). -/
def fecDistance (body : BitVec 600) (flit : BitVec 640) : Nat :=
  let word : BitVec 640 := BitVec.ofNat 640 (body.toNat + (Config.fecCheck body).toNat * 2 ^ 600)
  ((List.range 64).filter fun i => flitSymbol word i != flitSymbol flit i).length

/-- Bits with a symbol replaced. -/
def putSymbol (b : BitVec 600) (i v : Nat) : BitVec 600 :=
  BitVec.ofNat 600 (b.toNat - fld b.toNat (10 * i + 9) (10 * i) * 2 ^ (10 * i) + v * 2 ^ (10 * i))

/-- The corrector (R30): the code word that a flit differs from in at most two symbols, and in how many; where there is none the
bits stand as they came. It is sought with no, one and two changed symbols in bits [599:0]. -/
def fecBody (flit : BitVec 640) : BitVec 600 × Nat :=
  let raw : BitVec 600 := BitVec.ofNat 600 (flit.toNat % 2 ^ 600)
  let found (b : BitVec 600) : Option (BitVec 600 × Nat) := if fecDistance b flit ≤ 2 then some (b, fecDistance b flit) else none
  let changed (b : BitVec 600) (f : BitVec 600 → Option (BitVec 600 × Nat)) : Option (BitVec 600 × Nat) :=
    (List.range 60).findSome? fun i => (List.range 1024).findSome? fun v => f (putSymbol b i v)
  match found raw with
  | some x => x
  | none => match changed raw found with
    | some x => x
    | none => (changed raw fun b => changed b found).getD (raw, 0)

/-- The transaction header of a packet (R35). -/
def packetHeader (p : Packet) : Nat :=
  p.op.toNat * 2 ^ 120 + p.src.toNat * 2 ^ 106 + p.tag.toNat * 2 ^ 94 + p.fn.toNat * 2 ^ 89 + p.stat.toNat * 2 ^ 86 + p.size.toNat * 2 ^ 80 +
    p.addr.toNat

/-- The payloads of a packet's flits (R35, R36). -/
def payloadsOf (p : Packet) : List (BitVec 512) :=
  let first := if p.op == 0x30#8 then [] else p.data.take 48
  let rest := p.data.drop first.length
  let unit (bs : List Byte) : BitVec 512 := BitVec.ofNat 512 (leNat bs)
  unit (leBytes 16 (packetHeader p) ++ first) :: (List.range (flitsOf p.op p.data.length - 1)).map fun i => unit ((rest.drop (64 * i)).take 64)

/-- The data bytes that a request carries (R36). -/
def requestBytes (op : BitVec 8) (size fn : Nat) : Nat :=
  if op == 0x02#8 then size + 1
  else if op == 0x03#8 || op == 0x04#8 then (if fn % 16 == 9 then 2 * atomBytes fn else atomBytes fn)
  else if op == 0x10#8 || op == 0x20#8 then 64 * (size + 1)
  else if op == 0x30#8 then 4096
  else 0

/-- The data bytes of a response to a request (R36). -/
def responseBytes (op : BitVec 8) (stat : BitVec 3) (size : Nat) : Nat :=
  if stat != 0 then 0 else if op == 0x01#8 || op == 0x03#8 then size + 1 else 0

/-- A packet from the payloads of its flits. -/
def packetOf (tc : Nat) (dst : BitVec 14) (pays : List (BitVec 512)) : Packet :=
  let h := (pays.headD 0).toNat
  let op := BitVec.ofNat 8 (fld h 127 120)
  let bytes := (if op == 0x30#8 then [] else leBytes 48 (h / 2 ^ 128)) ++ (pays.drop 1).flatMap fun p => leBytes 64 p.toNat
  let size := fld h 85 80
  let len := if op == 0x80#8 then bytes.length else requestBytes op size (fld h 93 89)
  { op := op, src := BitVec.ofNat 14 (fld h 119 106), dst := dst, tag := BitVec.ofNat 12 (fld h 105 94), fn := BitVec.ofNat 5 (fld h 93 89)
    stat := BitVec.ofNat 3 (fld h 88 86), size := BitVec.ofNat 6 size, addr := BitVec.ofNat 50 (h % 2 ^ 50), tc := BitVec.ofNat 3 tc
    data := bytes.take len }

/-! ## The end of a checkpoint (R46) -/

/-- What a packet that waits at a port is for: a page of a checkpoint. -/
def ReqOwner.isPage : ReqOwner → Bool
  | .page _ => true
  | _ => false

/-- The checkpoint passes through Resume to Done (R46): pages not yet sent are dropped, dispatch restarts, the saved teams are
readmitted, and the host is sent a record. DESIGN CHOICE: Resume takes no time, so CKCTL.STATE never reads 3 (log entry 142). -/
def State.ckFinish (s : State) (ok : Bool) : State :=
  let pages := tkeys s.ops fun _ o => match o.kind with | .page _ _ _ _ _ => true | _ => false
  let s := pages.foldl (fun s k => s.dropOp k) s
  let off (l : List Outgoing) : List Outgoing := l.filter fun i => !i.owner.isPage
  let ports := tmap s.peer.ports fun _ p => { p with waiting := off p.waiting, queues := tmap p.queues fun _ l => off l }
  let ck := { s.peer.ck with state := .done, result := if ok then 1 else 2, pages := 0, ports := [], committing := false }
  let s := { s with peer := { s.peer with ports := ports, ck := ck } }
  (s.endCauses fun _ c => c == .quiesce).postPhysical { cause := 0x44, ctx := 0, info := if ok then 0 else 3 }

/-! ## Completing a request of this device (R40) -/

/-- A peer's answer takes effect for its request: OK 0, DENIED 1, UNCORRECTABLE 2, FAILED 3. DESIGN CHOICE: a reserved STAT, 4 to 7,
acts as FAILED (R35, log entry 144). -/
def State.peerDone (s : State) (port : Nat) (owner : ReqOwner) (stat : Nat) (data : List Byte) : State :=
  let err := match stat with | 0 => 0 | 1 => 2 | 2 => 1 | _ => 3
  let (cause, sub) := errCause err
  match owner with
  | .lane acc lane =>
    match tget? s.accs acc with
    | none => s
    | some a =>
      if err != 0 && !a.ldc then s.accError acc lane err port
      else
        let s := s.mapLanes acc fun x =>
          if x.lane == lane then { x with done := true, err := err, got := if a.ldc then some (leNat data) else x.got } else x
        if a.ldc then s else s.leaveStore acc
  | .opRead op va => if err == 0 then s.opTake op va data else s.opAbort op cause sub va port false
  | .opWrite op =>
    let s := { s with ops := tmod s.ops op fun o => { o with bulk := o.bulk - 1 } }
    if err == 0 then s else s.opAbort op cause sub 0 port true
  | .page run =>
    let ck := s.peer.ck
    if ck.state != .stream || run != ck.run then s
    else if err != 0 then s.ckFinish false
    else { s with peer := { s.peer with ck := { ck with pages := ck.pages - 1 } } }
  | .collective k => if stat == 3 then s.collFails k else s
  | .none => s

/-! ## Routes (R39, R42) -/

/-- The destinations whose packets leave on another port than some still outstanding are held at the source (R39). -/
def State.holdRoutes (s : State) : State :=
  (List.range 16).foldl (fun s n =>
    let p := s.port n
    let moved := ((p.tags.filter fun t => !t.owner.isPage && s.homePort t.dst != n).map fun t => t.dst).eraseDups
    moved.foldl (fun s d =>
      if s.peer.holds.any fun h => h.dst == d then s
      else
        let p := s.port n
        let mine (i : Outgoing) : Bool := i.pkt.dst == d && !i.owner.isPage
        let s := s.setPort n { p with waiting := p.waiting.filter fun i => !mine i }
        { s with peer := { s.peer with holds := s.peer.holds ++ [{ dst := d, oldPort := n, held := p.waiting.filter mine }] } }) s) s

/-- ROUTE_HOLD_RELEASE (R39): nothing to the destination is outstanding on the old route any more. -/
def execRouteHoldRelease (device : Nat) (s : State) : Host.Outcome State Fault Refusal :=
  match s.peer.holds.find? fun h => h.dst.toNat == device with
  | none => .next s
  | some h =>
    if (s.port h.oldPort).tags.any fun t => t.dst == h.dst then .next s
    else
      let s := { s with peer := { s.peer with holds := s.peer.holds.filter fun x => x.dst != h.dst } }
      let n := s.homePort h.dst
      let p := s.port n
      .next (s.setPort n { p with waiting := p.waiting ++ h.held })

/-- A response leaves for the device that asked, on its route, with the request's SRC and TAG (R38, R42); without a route it is
lost. DESIGN CHOICE: a response is not held while the route to its destination changes (R39, log entry 143). -/
def State.respond (s : State) (req : Packet) (stat : Nat) (data : List Byte) (source : PktSource := .answer) : State :=
  match s.routePort req.src with
  | none => s
  | some n => s.setPort n ((s.port n).enqueue
      { pkt := { op := 0x80#8, src := req.src, dst := req.src, tag := req.tag, fn := req.fn, stat := BitVec.ofNat 3 stat
                 size := req.size, addr := 0, tc := 2, data := data }
        source := source })

/-- PEER_REQUEST_SEND (R41, R42): DESIGN CHOICE, the free tag of the lowest number (log entry 109). The oldest request at a port takes a free tag and joins its class; one whose route has moved goes
there, and one without a route completes FAILED. -/
def execPeerRequestSend (port : Nat) (s : State) : Host.Outcome State Fault Refusal :=
  let p := s.port port
  match p.waiting with
  | [] => .next s
  | i :: rest =>
    let route := if i.owner.isPage then (if p.state == .up then some port else none) else s.routePort i.pkt.dst
    let less := s.setPort port { p with waiting := rest }
    match route with
    | none => .next (less.peerDone port i.owner 3 [])
    | some n =>
      if n != port then
        let q := less.port n
        .next (less.setPort n { q with waiting := q.waiting ++ [i] })
      else
        match (List.range 4096).find? fun t => !(p.tags.any fun x => x.tag == t) with
        | none => .next s
        | some t =>
          let o : Outstanding := { tag := t, op := i.pkt.op, dst := i.pkt.dst, owner := i.owner, size := i.pkt.size.toNat }
          let q := { p with waiting := rest, tags := p.tags ++ [o] }
          .next (s.setPort port (q.enqueue { i with pkt := { i.pkt with tag := BitVec.ofNat 12 t } }))

/-! ## Packets in transit (R42) -/

/-- The payloads of a waiting packet's flits, as far as they have come in. -/
def Outgoing.flits (i : Outgoing) : List (BitVec 512) := if i.pays == [] then payloadsOf i.pkt else i.pays

/-- A packet that is being forwarded gets the flits that have come in by a port and class. -/
def Outgoing.feed (i : Outgoing) (port tc : Nat) (pays : List (BitVec 512)) (last : Bool) : Outgoing :=
  if i.more == some (port, tc) then { i with pays := i.pays ++ pays, more := if last then none else i.more } else i

/-- What comes in of a packet goes on to the port that forwards it, flit by flit (R42). -/
def State.feedOut (s : State) (port tc : Nat) (pays : List (BitVec 512)) (last : Bool) : State :=
  let feed (p : Port) : Port :=
    let sending := tmap p.sending fun _ o => { o with item := o.item.feed port tc pays last }
    { p with queues := tmap p.queues fun _ l => l.map fun i => i.feed port tc pays last
             sending := tfilter sending fun _ o => o.item.more.isSome || o.next < o.item.flits.length }
  { s with peer := { s.peer with ports := tmap s.peer.ports fun _ p => feed p } }

/-! ## Port loss (R31, R43) -/

/-- A port goes down, to Failed or Down (R43): what it was to forward, sent or not, is answered FAILED unless it was acknowledged,
its own requests complete FAILED, and the host is told. A packet that was coming in and is being forwarded goes on with zeros
(log entry 23). -/
def State.portLost (s : State) (n : Nat) (state : LinkState) : State :=
  let p := s.port n
  let queued := ((p.queues.flatMap fun e => e.2) ++ p.sending.map fun e => e.2.item).filter fun i => i.source == .transit
  let heads := (queued.map fun i => (i.pkt.tc.toNat, i.pkt.dst, i.flits.headD 0)) ++
    p.sent.filterMap fun f => f.head.map fun h => (f.tc, f.dst, h)
  let transit := (heads.eraseDups.map fun (tc, dst, h) => packetOf tc dst [h]).filter fun k => k.op != 0x80#8
  let answers := (p.queues.flatMap fun e => e.2).filter fun i => i.source == .answer
  let tags := p.tags
  let s := (p.recv.filter fun e => e.2.fwd).foldl (fun s e => s.feedOut n e.1 (List.replicate e.2.left 0) true) s
  let p := s.port n
  let s := s.setPort n { p with state := state, asked := none, queues := [], sending := [], sent := [], resend := none, recv := [], tags := [], nak := false
                                owed := [0, 0, 0, 0, 0, 0], trainedAt := none }
  let s := transit.foldl (fun s k => s.respond k 3 []) s
  let s := answers.foldl (fun s i => match s.routePort i.pkt.dst with
    | some k => s.setPort k ((s.port k).enqueue i)
    | none => s) s
  let s := tags.foldl (fun s t => s.peerDone n t.owner 3 []) s
  let s := if s.peer.ck.state == .stream && s.peer.ck.ports.contains n then s.ckFinish false else s
  (s.postPhysical { cause := 0x42, ctx := 0, info := n }).holdRoutes

/-- Whether a port has its laser light (R18, R20). -/
def State.portLit (s : State) (n : Nat) : Bool := s.power.vbase && s.power.vlas && !s.power.lasersLost.getLsbD (n / 4)

/-- PORT_REPLAY_LIMIT (R31). -/
def execPortReplayLimit (port : Nat) (s : State) : Host.Outcome State Fault Refusal :=
  let p := s.port port
  if p.state == .up && p.sent.any fun f => f.resends ≥ 8 then .next (s.portLost port .failed) else .next s

/-- PORT_RECEIVE_TIMEOUT (R31): no flit has been accepted for 10 µs. -/
def execPortReceiveTimeout (port : Nat) (s : State) : Host.Outcome State Fault Refusal :=
  let p := s.port port
  if p.state == .up && p.lastAccept + 10 * usec ≤ s.time then .next (s.portLost port .failed) else .next s

/-! ## Port registers (R44) -/

/-- A port trains (R31): Down or Failed, enabled, with a valid identifier and its light. -/
def State.train (s : State) (n : Nat) : State :=
  let p := s.port n
  if p.en && s.peer.devidV && s.portLit n && (p.state == .down || p.state == .failed) then s.setPort n { p with state := .training, trainedAt := some s.time }
  else s

/-- A write of PCTL: EN, then RETRAIN. -/
def State.pctlWrite (s : State) (n : Nat) (value : W32) : State :=
  let p := s.port n
  let s :=
    if value.getLsbD 0 then s.setPort n { p with en := true }
    else
      let s := s.setPort n { p with en := false }
      if p.state == .down then s else s.portLost n .down
  if value.getLsbD 1 then s.train n else s

/-- PORT_ENABLE (R44): a PCTL write with EN = 1. -/
def execPortEnable (port : Nat) (value : W32) (s : State) : Host.Outcome State Fault Refusal :=
  if !s.bar0Open then .next s else
  if port < 16 && value.getLsbD 0 then .next (s.pctlWrite port value) else .next s

/-- PORT_DISABLE (R44): a PCTL write with EN = 0. -/
def execPortDisable (port : Nat) (value : W32) (s : State) : Host.Outcome State Fault Refusal :=
  if !s.bar0Open then .next s else
  if port < 16 && !value.getLsbD 0 then .next (s.pctlWrite port value) else .next s

/-- PORT_RETRAIN (R31, R44): a PCTL write with RETRAIN = 1. -/
def execPortRetrain (port : Nat) (value : W32) (s : State) : Host.Outcome State Fault Refusal :=
  if !s.bar0Open then .next s else
  if port < 16 && value.getLsbD 1 then .next (s.pctlWrite port value) else .next s

/-- PORT_TRAINING_DONE (R31): the link starts afresh, with the credits of the far end's buffers. -/
def execPortTrainingDone (port : Nat) (s : State) : Host.Outcome State Fault Refusal :=
  let p := s.port port
  if p.state != .training || !s.portLit port then .next s
  else
    let q := { p with state := .up, seq := 0, expect := 0, sent := [], resend := none, asked := none, sending := [], recv := [], nak := false, slot := 0
                      credits := (List.range 6).map Config.classBuffers, owed := [0, 0, 0, 0, 0, 0], lastAccept := s.time, trainedAt := some s.time }
    .next (s.setPort port q).holdRoutes

/-- The weights of a PWGT value, for classes 1, 3, 4 and 5. -/
def pwgtOf (value : W32) : List Nat := [0, 4, 8, 12].map fun k => fld value.toNat (k + 3) k

/-- PWGT_WRITE (R44): taken when the weights add to 16 and none is 0. -/
def execPwgtWrite (port : Nat) (value : W32) (s : State) : Host.Outcome State Fault Refusal :=
  if !s.bar0Open then .next s else
  let w := pwgtOf value
  if port < 16 && w.foldl (fun a b => a + b) 0 == 16 && !w.contains 0 then .next (s.setPort port { s.port port with weights := w }) else .next s

/-- PDEVID_WRITE (R44): the one write after a reset. -/
def execPdevidWrite (value : W32) (s : State) : Host.Outcome State Fault Refusal :=
  if !s.bar0Open then .next s else
  if s.peer.devidSet then .next s
  else .next { s with peer := { s.peer with devid := value.extractLsb' 0 14, devidV := value.getLsbD 31, devidSet := true } }

/-! ## Sending (R30, R33, R34) -/

/-- The place of a source in the round-robin of a class (R33). DESIGN CHOICE: the device's own responses, which the rule's list of
sources does not name, are a source of their own, the last (log entry 110). -/
def PktSource.place : PktSource → Nat
  | .cluster n => n
  | .engine n => 48 + n
  | .junction => 56
  | .transit => 57
  | .answer => 58

/-- The next packet of a class at a port (R33): the sources take turns from the rotating pointer. -/
def Port.pick (p : Port) (tc : Nat) : Option (Outgoing × Nat) :=
  let q := tgetD p.queues tc []
  let ptr := p.pointer.getD tc 0
  let dist (i : Outgoing) : Nat := (i.source.place + 59 - ptr) % 59
  (q.foldl (fun (b : Option Outgoing) i => match b with
    | none => some i
    | some x => if dist i < dist x then some i else some x) none).map fun i => (i, (i.source.place + 1) % 59)

/-- Whether a class has a new flit ready: of its open packet, or of one that waits. -/
def Port.hasFlit (p : Port) (tc : Nat) : Bool :=
  match tget? p.sending tc with
  | some o => o.next < o.item.flits.length
  | none => tgetD p.queues tc [] != []

/-- Whether a class has a new flit ready, with a credit and room in the replay buffer (R30, R33). -/
def Port.canSend (p : Port) (tc : Nat) : Bool := p.sent.length < 2048 && p.credits.getD tc 0 != 0 && p.hasFlit tc

/-- Whether a class has a flit ready and no credit. -/
def Port.wantsCredit (p : Port) (tc : Nat) : Bool := p.credits.getD tc 0 == 0 && p.hasFlit tc

/-- The weights in force (R34). -/
def State.weightsOf (s : State) (p : Port) : List Nat := if s.peer.ck.state == .stream then [1, 1, 2, 12] else p.weights

/-- The wheel of 16 slots (R33): classes 1, 3, 4 and 5 in turn, each until its weight is used up. -/
def wheel (w : List Nat) : List Nat :=
  (List.range 16).flatMap fun r => ([1, 3, 4, 5].zip w).filterMap fun (c, n) => if r < n then some c else none

/-- The classes that a wheel slot may serve, in order. -/
def wheelOrder (c : Nat) : List Nat := match c with
  | 1 => [1, 3, 4, 5]
  | 3 => [3, 4, 5, 1]
  | 4 => [4, 5, 1, 3]
  | _ => [5, 1, 3, 4]

/-- The class of freed buffers that a flit reports, and their number: the class with most to report. -/
def Port.credit (p : Port) : Nat × Nat :=
  let c := (List.range 6).foldl (fun b k => if p.owed.getD k 0 > p.owed.getD b 0 then k else b) 0
  (c, min 63 (p.owed.getD c 0))

/-- A flit goes out at a port, with the acknowledgement and the credits of the moment. -/
def Port.emit (p : Port) (kind tc : Nat) (seq : BitVec 12) (dst : BitVec 14) (pay : BitVec 512) : Port :=
  let (c, n) := p.credit
  let h : LinkHeader := { kind := kind, tc := tc, seq := seq, ack := p.expect - 1, dst := dst, crd := n, ctc := c }
  { p with lastSent := some (flitBits h pay), owed := p.owed.set c (p.owed.getD c 0 - n) }

/-- The grid to which a packet's flits are charged (R34, R114). DESIGN CHOICE: those of a collective are charged to the grid of its
first contributor (log entry 111). -/
def State.payer (s : State) (i : Outgoing) : Option Nat :=
  let team (t : Nat) : Nat := (s.teamAt t).grid
  let ofOp (k : Nat) : Option Nat := (tget? s.ops k).bind fun o => match o.kind with
    | .sched g _ _ _ _ _ _ => some g
    | .page _ _ _ _ _ => none
    | _ => some (team o.team)
  if i.source == .transit then none
  else match i.owner with
    | .lane a _ => (tget? s.accs a).map fun x => team x.team
    | .opRead k _ => ofOp k
    | .opWrite k => ofOp k
    | .collective k => (tget? s.colls k).bind fun c => (c.contribs.head?).map fun x => x.grid
    | _ => none

/-- A new flit of a class is sent: the next of its open packet, or the first of the packet whose turn it is. -/
def State.sendNew (s : State) (n tc : Nat) : State :=
  let p := s.port n
  let open' : Option (OpenSend × Port) := match tget? p.sending tc with
    | some o => some (o, p)
    | none => (p.pick tc).map fun (i, ptr) =>
        (⟨i, 0⟩, { p with queues := tset p.queues tc ((tgetD p.queues tc []).erase i), pointer := p.pointer.set tc ptr })
  match open' with
  | none => s
  | some (o, p) =>
    let pays := o.item.flits
    let pay := pays.getD o.next 0
    let kind := if o.next == 0 then 1 else 2
    let q := p.emit kind tc p.seq o.item.pkt.dst pay
    let more := o.next + 1 < pays.length || o.item.more.isSome
    let payer := if tc == 2 then none else s.payer o.item
    let head := if o.item.source == .transit then pays.head? else none
    let q := { q with
      seq := p.seq + 1, credits := p.credits.set tc (p.credits.getD tc 0 - 1)
      sent := p.sent ++ [{ kind := kind, tc := tc, seq := p.seq, dst := o.item.pkt.dst, pay := pay, head := head, grid := payer }]
      sending := if more then tset p.sending tc { o with next := o.next + 1 } else tdel p.sending tc }
    let s := match payer with
      | some g => s.charge g 4 1
      | none => s
    (s.setPort n q).tally (480 + n) 1 1

/-- A flit of the replay buffer is sent again (R30), and charged again (R34). -/
def State.sendAgain (s : State) (n : Nat) (f : SentFlit) : State :=
  let s := match f.grid with | some g => s.charge g 4 1 | none => s
  let p := s.port n
  let q := p.emit f.kind f.tc f.seq f.dst f.pay
  let next := f.seq + 1
  let more := p.sent.any fun x => x.seq == next
  let q := { q with
    sent := p.sent.map fun x => if x.seq == f.seq then { x with resends := x.resends + 1 } else x
    resend := if more then some next.toNat else none
    replays := if p.replays == 255 then 255 else p.replays + 1 }
  ((s.setPort n q).tally (480 + n) 3 1).tally (480 + n) 1 1

/-- The sender goes back to the flit that a control flit has named (R30). -/
def Port.goBack (p : Port) : Port :=
  match p.asked with
  | some q => { p with asked := none, resend := if p.sent.any fun f => f.seq == q then some q.toNat else p.resend }
  | none => p

/-- FLIT_SLOT (R33): the first source in its order that has a flit ready and a credit; idle otherwise. -/
def execFlitSlot (port : Nat) (s : State) : Host.Outcome State Fault Refusal :=
  let p := (s.port port).goBack
  if p.state != .up || !s.portLit port then .next s
  else
    let s := if p.asked == (s.port port).asked then s else s.setPort port p
    let again := p.resend.bind fun k => p.sent.find? fun f => f.seq.toNat == k
    let first := match again with | some f => f.tc == 0 || f.tc == 2 | none => false
    let control := p.nak
    let ws := wheel (s.weightsOf p)
    let slotClass := ws.getD p.slot 1
    let lost := [2, 1, 3, 4, 5].any p.wantsCredit
    match again, first with
    | some f, true => .next (s.sendAgain port f)
    | again, _ =>
      if control then
        let q := p.emit 3 0 p.seq 0 0
        .next ((s.setPort port { q with nak := false }).tally (480 + port) 1 1)
      else if p.canSend 2 then .next (s.sendNew port 2)
      else match again with
        | some f => .next (s.sendAgain port f)
        | none =>
          let s := s.setPort port { p with slot := (p.slot + 1) % 16 }
          match (wheelOrder slotClass).find? p.canSend with
          | some tc => .next (s.sendNew port tc)
          | none =>
            let p := s.port port
            let s := if lost then s.tally (480 + port) 5 1 else s
            .next ((s.setPort port (p.emit 0 0 p.seq 0 0)).tally (480 + port) 1 1)

/-- GO_BACK_N_REPLAY (R30): a control flit has named the flit from which the sender resends. -/
def execGoBackNReplay (port : Nat) (seq : BitVec 12) (s : State) : Host.Outcome State Fault Refusal :=
  let p := s.port port
  if p.state == .up && p.asked == some seq then .next (s.setPort port p.goBack) else .next s

/-! ## Receiving (R30, R36) -/

/-- A received packet is complete and stands in the port's inbox. -/
def Port.deliver (p : Port) (o : OpenRecv) : Port := { p with inbox := p.inbox ++ [packetOf o.tc o.dst o.pays], recv := tdel p.recv o.tc }

/-- The flits to come after the first flit of a packet, and whether the last one may not come (R36): in a response of a request
that this device did not make, or whose tag stands for requests of different kinds at several ports. -/
def State.flitsToCome (s : State) (p : Port) (dst : BitVec 14) (pay : BitVec 512) : Nat × Bool :=
  let h := pay.toNat
  let op := BitVec.ofNat 8 (fld h 127 120)
  let (size, stat) := (fld h 85 80, BitVec.ofNat 3 (fld h 88 86))
  if op != 0x80#8 then (flitsOf op (requestBytes op size (fld h 93 89)) - 1, false)
  else if dst == s.peer.devid then
    let mine := (p :: (s.peer.ports.map fun e => e.2)).flatMap fun q => q.tags.filter fun t => t.tag == fld h 105 94 && t.size == size
    match (mine.map fun t => flitsOf op (responseBytes t.op stat size) - 1).eraseDups with
    | [n] => (n, false)
    | [] => (0, false)
    | _ => (1, true)
  else if stat == 0 && size + 1 > 48 then (1, true)
  else (0, false)

/-- The flit is not accepted: the receiver asks for the one it expects (R30). -/
def Port.reject (p : Port) : Port := { p with nak := true }

/-- An accepted header's acknowledgement and credits take effect at the sender (R29). -/
def Port.heard (p : Port) (h : LinkHeader) (now : Nat) : Port :=
  let sent := p.sent.filter fun f => (h.ack - f.seq).toNat ≥ 2048
  let still := match p.resend with | some k => sent.any fun f => f.seq.toNat == k | none => false
  { p with sent := sent, resend := if still then p.resend else none, lastAccept := now
           credits := if h.ctc < 6 then p.credits.set h.ctc (p.credits.getD h.ctc 0 + h.crd) else p.credits }

/-- The link header of a flit's corrected bits. -/
def bodyHeader (body : BitVec 600) : LinkHeader := LinkHeader.parse (fld body.toNat 575 512)

/-- Whether a port accepts a flit (R30, R36): its CRC holds, its header is one of R29 with the expected sequence number, and it
continues a packet of its class that is open, or opens one where none waits for its end. -/
def Port.accepts (p : Port) (body : BitVec 600) : Bool :=
  let v := body.toNat
  let h := bodyHeader body
  let cur := tget? p.recv h.tc
  let pending := match cur with | some o => !o.soft | none => false
  crc24 (v % 2 ^ 576) 576 == fld v 599 576 && h.kind < 4 && h.tc < 6 && h.seq == p.expect &&
    (h.kind != 2 || cur.isSome) && (h.kind != 1 || !pending)

/-- A packet whose last flit does not come is complete (R36): it goes on, or stands in the inbox. -/
def State.endRecv (s : State) (port : Nat) (o : OpenRecv) : State :=
  let p := s.port port
  if o.fwd then (s.setPort port { p with recv := tdel p.recv o.tc }).feedOut port o.tc [] true
  else s.setPort port (p.deliver o)

/-- An accepted flit takes effect (R29, R36): it opens, continues or ends a packet of its class, whose flits go on where it is
being forwarded (R42). A control flit names the flit from which to resend (R30). -/
def State.acceptFlit (s : State) (port : Nat) (p : Port) (body : BitVec 600) : State :=
  let h := bodyHeader body
  let pay : BitVec 512 := BitVec.ofNat 512 (body.toNat % 2 ^ 512)
  let cur := tget? p.recv h.tc
  let p := p.heard h s.time
  match h.kind with
  | 1 =>
    let s := s.setPort port { p with expect := p.expect + 1 }
    let s := match cur with | some o => s.endRecv port o | none => s
    let p := s.port port
    let (left, soft) := s.flitsToCome p h.dst pay
    let o : OpenRecv := { tc := h.tc, dst := h.dst, pays := [pay], left := left, soft := soft }
    s.setPort port (if left == 0 then p.deliver o else { p with recv := tset p.recv h.tc o })
  | 2 =>
    let p := { p with expect := p.expect + 1 }
    match cur with
    | none => s.setPort port p
    | some o =>
      let o := { o with pays := o.pays ++ [pay], left := o.left - 1 }
      if o.fwd then
        let recv := if o.left == 0 then tdel p.recv h.tc else tset p.recv h.tc o
        (s.setPort port { p with recv := recv, owed := p.owed.set h.tc (p.owed.getD h.tc 0 + 1) }).feedOut port h.tc [pay] (o.left == 0)
      else s.setPort port (if o.left == 0 then p.deliver o else { p with recv := tset p.recv h.tc o })
  | 3 => s.setPort port { p with asked := some (h.ack + 1) }
  | _ => s.setPort port p

/-- FLIT_RECEIVE (R30, R36): correction, CRC and sequence; then the flit is accepted or asked for again. -/
def execFlitReceive (port : Nat) (flit : BitVec 640) (s : State) : Host.Outcome State Fault Refusal :=
  let p := s.port port
  if p.state != .up || !s.portLit port then .next s
  else
    let (body, fixed) := fecBody flit
    let p := { p with corr := BitVec.ofNat 16 (min 65535 (p.corr.toNat + fixed)) }
    let s := (s.tally (480 + port) 2 1).tally (480 + port) 4 fixed
    .next (if p.accepts body then s.acceptFlit port p body else s.setPort port p.reject)

/-! ## Taking packets in (R32, R42) -/

/-- A packet leaves a port's inbox: its buffers are free (R29). -/
def Port.takeIn (p : Port) (pkt : Packet) : Port :=
  let tc := pkt.tc.toNat
  { p with inbox := p.inbox.erase pkt, owed := p.owed.set tc (p.owed.getD tc 0 + flitsOf pkt.op pkt.data.length) }

/-- Whether a packet is for this device. -/
def State.mine (s : State) (pkt : Packet) : Bool := s.peer.devidV && pkt.dst == s.peer.devid

/-- The first packet of each class at a port that is for this device, where its OP is the one asked for (R39). -/
def State.inbound (s : State) (port : Nat) (p : Packet → Bool) : Option Packet :=
  [1, 2, 3, 4, 5].findSome? fun tc =>
    match (s.port port).inbox.find? fun k => s.mine k && k.tc.toNat == tc with
    | some k => if p k then some k else none
    | none => none

/-- TRANSIT_PACKET (R42): the first packet for another device is forwarded on its route, flit by flit as it comes in, or answered
FAILED. A packet whose last flit may not come is ended (log entry 24). -/
def execTransitPacket (port : Nat) (s : State) : Host.Outcome State Fault Refusal :=
  let p := s.port port
  let forward (s : State) (i : Outgoing) : State :=
    match s.routePort i.pkt.dst with
    | some n => s.setPort n ((s.port n).enqueue i)
    | none => if i.pkt.op == 0x80#8 then s else s.respond i.pkt 3 []
  match p.inbox.find? fun k => !s.mine k with
  | some k => .next (forward (s.setPort port (p.takeIn k)) { pkt := k, source := .transit })
  | none =>
    match p.recv.find? fun e => !s.mine (packetOf e.1 e.2.dst e.2.pays) && !e.2.fwd with
    | some (tc, o) =>
      let s := s.setPort port { p with recv := tset p.recv tc { o with fwd := true }
                                       owed := p.owed.set tc (p.owed.getD tc 0 + o.pays.length) }
      .next (forward s { pkt := packetOf tc o.dst o.pays, source := .transit, pays := o.pays, more := some (port, tc) })
    | none =>
      match p.recv.find? fun e => e.2.soft with
      | some (_, o) => .next (s.endRecv port o)
      | none => .next s

/-- PEER_RESPONSE (R40): the response frees its tag and takes effect. Its tag is one of the port it came in by, else of the lowest
port with such a request outstanding (log entry 25). -/
def execPeerResponse (port : Nat) (s : State) : Host.Outcome State Fault Refusal :=
  match s.inbound port fun k => k.op == 0x80#8 with
  | none => .next s
  | some k =>
    let s := s.setPort port ((s.port port).takeIn k)
    let has (n : Nat) : Option (Nat × Outstanding) :=
      ((s.port n).tags.find? fun t => t.tag == k.tag.toNat && t.size == k.size.toNat).map fun t => (n, t)
    match (port :: List.range 16).findSome? has with
    | none => .next s
    | some (n, t) =>
      let q := s.port n
      let s := s.setPort n { q with tags := q.tags.filter fun x => x.tag != t.tag }
      .next (s.peerDone n t.owner k.stat.toNat (k.data.take (t.size + 1)))

/-! ## Inbound requests (R38, R40, R45) -/

/-- Whether the inbound window table lets a request in (R40, R44). -/
def State.windowAllows (s : State) (k : Packet) : Bool :=
  let bit := if k.op == 0x01#8 then 0 else if k.op == 0x02#8 then 1 else if k.op == 0x03#8 || k.op == 0x04#8 then 2
    else if k.op == 0x10#8 then 3 else 4
  s.peer.windows.any fun (_, w) =>
    w.base.getLsbD 63 && fld w.base.toNat 49 12 * 4096 ≤ k.addr.toNat && k.addr.toNat ≤ fld w.lim.toNat 49 12 * 4096 + 4095 &&
      fld w.src.toNat 13 0 ≤ k.src.toNat && k.src.toNat ≤ fld w.src.toNat 29 16 && w.perm.getLsbD bit

/-- An inbound request of some OPs is taken in, checked, done at its home and answered. -/
def State.serveInbound (s : State) (port : Nat) (ops : List (BitVec 8)) (bytes : Packet → Nat) (act : State → Packet → State × Nat × List Byte) :
    Host.Outcome State Fault Refusal :=
  match s.inbound port fun k => ops.contains k.op with
  | none => .next s
  | some k =>
    let taken := s.setPort port ((s.port port).takeIn k)
    if !s.windowAllows k || k.addr.toNat + bytes k > memTop then .next (taken.respond k 1 [])
    else
      .next (s.attempt none fun s =>
        let (s, stat, data) := act (s.setPort port ((s.port port).takeIn k)) k
        s.respond k stat data)

/-- PEER_LOAD (R38, R40): a direct load at the home. -/
def execPeerLoad (port : Nat) (s : State) : Host.Outcome State Fault Refusal :=
  s.serveInbound port [0x01#8] (fun k => k.size.toNat + 1) fun s k =>
    let n := k.size.toNat + 1
    let s := s.reach k.addr.toNat n false
    if s.badRange k.addr.toNat n then (s, 2, [])
    else
      let (s, bs) := s.readNow k.addr.toNat n
      (s, 0, bs)

/-- PEER_STORE (R38, R40): a direct store. -/
def execPeerStore (port : Nat) (s : State) : Host.Outcome State Fault Refusal :=
  s.serveInbound port [0x02#8] (fun k => k.size.toNat + 1) fun s k => (s.writeNow k.addr.toNat (k.data.take (k.size.toNat + 1)), 0, [])

/-- An inbound atomic at its home (R38, R388): the old value, or an uncorrectable line. -/
def State.peerAtomicAt (s : State) (k : Packet) : State × Nat × List Byte :=
  let n := atomBytes k.fn.toNat
  let s := s.reach k.addr.toNat n false
  if s.badRange k.addr.toNat n then (s, 2, [])
  else
    let (s, bs) := s.readNow k.addr.toNat n
    let v := atomNew (k.fn.toNat % 16) (k.fn.toNat ≥ 16) (leNat bs) (leNat (k.data.take n)) (leNat (k.data.drop n))
    (s.writeNow k.addr.toNat (leBytes n v), 0, bs)

/-- PEER_ATOMIC (R38, R40). -/
def execPeerAtomic (port : Nat) (s : State) : Host.Outcome State Fault Refusal :=
  s.serveInbound port [0x03#8] (fun k => atomBytes k.fn.toNat) fun s k => s.peerAtomicAt k

/-- PEER_ATOMIC_NO_RETURN (R38, R40). -/
def execPeerAtomicNoReturn (port : Nat) (s : State) : Host.Outcome State Fault Refusal :=
  s.serveInbound port [0x04#8] (fun k => atomBytes k.fn.toNat) fun s k =>
    let (s, stat, _) := s.peerAtomicAt k
    (s, stat, [])

/-- PEER_BULK_WRITE (R38, R40): direct stores. -/
def execPeerBulkWrite (port : Nat) (s : State) : Host.Outcome State Fault Refusal :=
  s.serveInbound port [0x10#8] (fun k => k.data.length) fun s k => (s.writeNow k.addr.toNat k.data, 0, [])

/-- PEER_CHECKPOINT_PAGE (R45): the page is written to DRAM, without allocating it in its slices. -/
def execPeerCheckpointPage (port : Nat) (s : State) : Host.Outcome State Fault Refusal :=
  s.serveInbound port [0x30#8] (fun _ => 4096) fun s k =>
    let pa := k.addr.toNat
    let s := (linesOf pa 4096).foldl (fun s l =>
      let s := s.settleLine l true
      let home := s.homeOf (256 * l)
      let sl := s.slice home
      s.setSlice home { sl with sectors := tdel sl.sectors l }) (s.reach pa 4096 true)
    let left := s.poison.filter fun q => !(pa / 64 ≤ q && q < pa / 64 + 64)
    ({ s with mem := cwrite s.mem pa k.data, poison := left }, 0, [])

/-- PEER_COLLECTIVE_PACKET (R165, R168). -/
def execPeerCollectivePacket (port : Nat) (s : State) : Host.Outcome State Fault Refusal :=
  match s.inbound port fun k => k.op == 0x20#8 with
  | none => .next s
  | some k => .next (s.attempt none fun s => ((s.setPort port ((s.port port).takeIn k)).takeCollective k).respond k 0 [])

/-- PEER_RESERVED_OP (R35). -/
def execPeerReservedOp (port : Nat) (s : State) : Host.Outcome State Fault Refusal :=
  match s.inbound port fun k => !opKnown k.op with
  | none => .next s
  | some k => .next ((s.setPort port ((s.port port).takeIn k)).respond k 1 [])

end Sys2Proof.Machine
end

