-- ==== Sys2Proof/Machine/Bringup.lean ====
section
/-! DEFINITION. Resets, rails, secure boot, bring-up, retention, cooling loops, sensors and lasers (R17 to R26, R76 to R89). -/
namespace Sys2Proof.Machine

/-! ## Resets and rails (R20 to R22, R76) -/

/-- What a reset leaves: memory until it is zeroed, the host's memory and the messages it has been sent, and the model's own
schedule and numbers. -/
def State.blank (s : State) : State :=
  { sched := s.sched, free := s.free, ids := s.ids, mem := s.mem, poison := s.poison
    host := { hostMem := s.host.hostMem, sent := s.host.sent } }

/-- POWER_ON_RESET (R76): VAUX is applied. -/
def execPowerOnReset (s : State) : Host.Outcome State Fault Refusal := .next { s.blank with boot := { flash := s.boot.flash } }

/-- MODULE_RESET (R76): PERST#, without removing VAUX. -/
def execModuleReset (s : State) : Host.Outcome State Fault Refusal :=
  if !s.power.vaux then .next s
  else .next { s.blank with boot := { flash := s.boot.flash }, power := { lasersLost := s.power.lasersLost } }

/-- The whole module powers down, but for the rails that stay: the host's link goes down, and nothing runs before the next
reset (R22, R87 step 7). -/
def State.powerDown (s : State) (vaux vmem : Bool) : State :=
  let p : Power := { s.power with vaux := vaux, vbase := false, vmem := vmem, vlas := false, vch := 0, down := true, cutOff := 0
                                  fenced := 0, portCorr := [], portState := [], portCount := [], drains := [], reissues := [] }
  let b := s.blank
  { b with time := s.time, stage := s.stage, boot := s.boot, power := p, governor := s.governor, mem := if vmem then b.mem else [] }

/-- STANDBY_POWER_REMOVED (R87): VMEM and the memory it holds go down too. -/
def execStandbyPowerRemoved (s : State) : Host.Outcome State Fault Refusal := .next (s.powerDown false false)

/-! ## The orderly stop (R87) -/

/-- The lines with stores that a core has performed and that travel to their home. -/
def State.throughLines (s : State) : List Nat :=
  (s.msgs.filterMap fun (_, m) => match m.kind with | .through _ line _ => some line | _ => none).eraseDups

/-- Step 2: every group stops, unsaved, and what its engines do ends. -/
def State.stopAll (s : State) : State :=
  { s with groups := tmap s.groups fun _ g => { g with stop := .ended }, ops := tmap s.ops fun _ o => { o with ended := true } }

/-- Step 3: every version in the L1s, on its way and in the slices is discarded, and with it every team's work. A commit past its commit
point completes first (R191). -/
def State.dropVersions (s : State) : State :=
  let s := (s.decidedBefore s.ids).foldl (fun s x => (List.range 96).foldl (fun s n => s.mergeSlice n x.1 x.2) s) s
  { s with
    cores := tmap s.cores fun _ k => { k with l1 := k.l1.filter fun x => x.committed }
    slices := tmap s.slices fun _ sl => { sl with versions := [], overflow := [], displaced := [], blocks := [] }
    msgs := tfilter s.msgs fun _ m => match m.kind with
      | .version _ | .cmtReq _ _ _ _ | .cmtMark _ _ _ | .cmtAck _ _ _ | .mergeDone _ _ _ => false
      | _ => true
    dist := { s.dist with items := [], waiting := [] }
    grids := [], teams := [], groups := [], withheld := [], ops := [], colls := [], walks := [], tasks := [], districts := [] }

/-- Step 5: stores that have reached an L1's owned line come home while the Avenue has light, and the slices' dirty lines go to
DRAM. -/
def State.writeBack (s : State) : State :=
  let s := if s.power.avenueLit then s.throughLines.foldl (fun s l => s.drainLine l) s else s
  let slices := tmap s.slices fun _ sl =>
    { sl with sectors := tmap sl.sectors fun _ q => q.map fun v => if v == 2 then 1 else v, writes := [] }
  { s with slices := slices, accs := [], msgs := []
           controllers := tmap s.controllers fun _ c => { c with reads := [], writes := [], drain := false } }

/-- Step `k` of R87. -/
def State.t3Act (s : State) (k : Nat) : State :=
  match k with
  | 1 => s
  | 2 => s.stopAll
  | 3 => s.dropVersions
  | 4 => (List.range 16).foldl (fun s n => if (s.port n).state == .down then s else s.portLost n .down) s
  | 5 => s.writeBack
  | 6 => s.postAll { cause := 0x46, ctx := 0 }
  | _ => s.powerDown true s.power.vmem

/-- The orderly stop takes its next step, of which T3STEP tells (R87, R88). -/
def State.t3Advance (s : State) : State :=
  if !s.power.t3 || s.power.down then s
  else
    let k := s.power.t3step + 1
    ({ s with power := { s.power with t3step := k } }).t3Act k

/-- The orderly stop of T3 begins (R87): ECAP is 0 (R93), and dispatch and record fetch stop with step 1; each sample of
Muyras' takes one step further. -/
def State.orderlyStop (s : State) : State :=
  if s.power.t3 then s else ({ s with power := { s.power with t3 := true }, governor := { s.governor with ecap := 0 } }).t3Advance

/-- A cluster's clock changes: its counts of cycles go on from what they are (R96, R109, R354). -/
def State.setStep (s : State) (c step : Nat) : State :=
  if (s.cluster c).step == step then s
  else
    let s := s.foldCounters.foldCycles c
    let old := stepCycle (s.cluster c).step
    let groups := tmap s.groups fun k g =>
      if k / 1024 == c then { g with parkSince := g.parkSince.map fun t => if t ≤ s.time then s.time - (s.time - t) / old * stepCycle step else t }
      else g
    { s with groups := groups }.setCluster c { s.cluster c with step := step }

/-- A change of the thermal table takes effect (R86, R93): T1 puts every cluster at 1.0 GHz and ECAP at 0, its end returns
calibrated clusters to 1.6 GHz, and T3 is the orderly stop. -/
def State.tableFrom (s : State) (old : Nat) : State :=
  match s.power.table with
  | 3 => s.orderlyStop
  | 1 =>
    if old == 1 then s
    else
      let s := { s with governor := { s.governor with ecap := 0 } }
      s.online.foldl (fun s c => s.setStep c 3) s
  | _ => if old == 1 then s.online.foldl (fun s c => s.setStep c (s.restStep (s.cluster c).cal)) s else s

/-- Whether a rail is commanded: it is up, or it is the next in the order of R21. -/
def State.commanded (s : State) (r : Rail) : Bool :=
  let p := s.power
  match r with
  | .vaux => p.vaux
  | .vbase => p.vbase || !p.down && s.stage != .boot
  | .vmem => p.vmem || p.vbase
  | .vlas => p.vlas || p.vmem && !p.down && s.stage != .boot && s.stage != .base
  | .vch n => n < 8 && (p.vch.getLsbD n || !p.down && !p.fenced.getLsbD n && (s.stage == .compute || s.stage == .full))

/-- The response to a fault of a chiplet's rail (R22): the chiplet is fenced and its rail switched off. -/
def State.chipFault (s : State) (n : Nat) : State :=
  let s := (s.failStage n).fenceChiplet n
  { s with power := { s.power with vch := s.power.vch &&& ~~~ BitVec.ofNat 8 (2 ^ n) } }

/-- RAIL_FAULT (R22): the responses to the rails reported in one sample, a rail that is coming up among them. With a VBASE fault the
response to a VCH fault is not taken; every other rail reported has its response, the chiplets first. -/
def execRailFault (rails : List Rail) (s : State) : Host.Outcome State Fault Refusal :=
  let hit (r : Rail) : Bool := rails.contains r && s.commanded r
  let t := if hit .vbase then s else ((List.range 8).filter fun n => hit (.vch n)).foldl (fun s n => s.chipFault n) s
  if hit .vaux then .next (t.powerDown false false)
  else if hit .vbase || hit .vmem then .next (t.powerDown true false)
  else if hit .vlas then .next ({ t with power := { t.power with vlas := false } }).orderlyStop
  else .next t

/-- RAIL_UP (R21, R77, R79): a rail reports within 3% of nominal in its place of the order; a VCH rail is the start of its
chiplet's stage, and the chiplets join one at a time. After a power-down or in T3 every rail stays as it is (R22, R87). Without
light from LS4 and LS5 the module stops as the base die comes up, and the ports of a lost module are Failed (R18, R31). -/
def execRailUp (report : RailReport) (s : State) : Host.Outcome State Fault Refusal :=
  let p := s.power
  if p.down || p.t3 then .next s
  else match report.rail with
  | .vaux => .next s
  | .vbase =>
    if s.stage != .base || !p.vaux then .next s
    else
      let s := { s with power := { p with vbase := true } }
      if p.lasersLost.getLsbD 4 && p.lasersLost.getLsbD 5 then .next s.orderlyStop else .next s
  | .vmem => if s.stage == .base && p.vaux && p.vbase then .next { s with power := { p with vmem := true } } else .next s
  | .vlas =>
    if s.stage == .memory && p.vaux && p.vbase && p.vmem then
      let lost := (List.range 16).filter fun n => p.lasersLost.getLsbD (n / 4)
      .next (lost.foldl (fun s n => s.portLost n .failed) { s with power := { p with vlas := true } })
    else .next s
  | .vch n =>
    if n < 8 && s.stage == .compute && p.baseUp && !p.vch.getLsbD n && !p.fenced.getLsbD n && (List.range n).all s.chipletDone then
      .next (s.chipletStage n report.check)
    else .next s

/-- CHIPLET_RESET (R21, R76): VCHn is switched off and on again, for a chiplet that is fenced or has no resident group. -/
def execChipletReset (run : ChipletRun) (s : State) : Host.Outcome State Fault Refusal :=
  let joined := s.power.vch.getLsbD run.chiplet || s.power.fenced.getLsbD run.chiplet
  if run.chiplet < 8 && (s.stage == .compute || s.stage == .full) && s.power.baseUp && joined && !s.chipletBusy run.chiplet then
    .next (s.rejoin run.chiplet run.check)
  else .next s

/-! ## Secure boot, stages and attestation (R77 to R83) -/

/-- An image from its parts. -/
def imageOf (i : BitVec 32 × BitVec 32 × BitVec 384 × List Byte × List Byte) : Image := ⟨i.1, i.2.1, i.2.2.1, i.2.2.2.1, i.2.2.2.2⟩

/-- The image that Muyras verifies (R81, R82): the one in flash, or after GO the one in the recovery window. -/
def Boot.image (b : Boot) : Image :=
  if b.state == .recoveryVerifying then imageOf (Config.windowImage b.window) else b.flash.getD (imageOf Config.factoryImage)

/-- The digest of a whole image, header and body, as MR0 holds it (R83). -/
def imageDigest (i : Image) : BitVec 384 := Config.digest384 (Config.imageBytes i.version i.length i.digest i.signature i.body)

/-- The FAIL code of an image (R81, R82): 0 where it is accepted. The body is as long as the header says, and has its digest. -/
def imageFail (fromFlash : Bool) (i : Image) (c : ImageCheck) : Nat :=
  if fromFlash && !c.flashOk then 4
  else if !Config.signatureVerifies Config.rootKeyDigest i.version i.length i.digest i.signature then 1
  else if i.body.length != i.length.toNat || Config.digest384 i.body != i.digest then 2
  else if i.version.toNat < Config.minVersion.toNat then 3
  else 0

/-- IMAGE_VERIFY_DONE (R81 to R83): an accepted image runs and the Base stage begins; else BOOTST enters Recovery. A verified
recovery image is written to flash where PERSIST was 1 at its GO. -/
def execImageVerifyDone (check : ImageCheck) (s : State) : Host.Outcome State Fault Refusal :=
  let b := s.boot
  if s.stage != .boot || !s.linkUp || !(b.state == .verifying || b.state == .recoveryVerifying) then .next s
  else
    let image := b.image
    let fail := imageFail (b.state == .verifying) image check
    if fail != 0 then .next { s with boot := { b with state := .recovery, fail := BitVec.ofNat 8 fail } }
    else
      let flash := if b.state == .recoveryVerifying && b.flashing then some image else b.flash
      .next { s with
        stage := .base
        boot := { b with state := .running, fail := 0, version := image.version, mr0 := imageDigest image, flash := flash
                         mr1 := Config.digest384 (Config.fusedConfig ++ leBytes 48 (imageDigest image).toNat) } }

/-- A write of BOOTST (R82): PERSIST, and in Recovery GO. -/
def State.bootstWrite (s : State) (value : W32) : State :=
  let b := { s.boot with persist := value.getLsbD 1 }
  let go := value.getLsbD 0 && b.state == .recovery
  { s with boot := if go then { b with state := .recoveryVerifying, flashing := b.persist } else b }

/-- RECOVERY_GO (R82). -/
def execRecoveryGo (value : W32) (s : State) : Host.Outcome State Fault Refusal :=
  if value.getLsbD 0 && s.linkUp then .next (s.bootstWrite value) else .next s

/-- BASE_STAGE_DONE (R77): the DRAM is all zero, and the Memory stage begins. -/
def execBaseStageDone (s : State) : Host.Outcome State Fault Refusal :=
  if s.stage == .base && s.power.vbase && s.power.vmem && !s.power.t3 then .next { s with stage := .memory, mem := [], poison := [] }
  else .next s

/-- MEMORY_STAGE_DONE (R77): the Compute stage begins. -/
def execMemoryStageDone (s : State) : Host.Outcome State Fault Refusal :=
  if s.stage == .memory && s.power.vlas && !s.power.t3 then .next { s with stage := .compute } else .next s

/-- Whether a cluster stands at an instruction boundary: on none of its cores a pipe is still taking an instruction's beats. -/
def State.betweenInstrs (s : State) (cluster : Nat) : Bool :=
  (List.range 8).all fun i => (s.core (8 * cluster + i)).pipes.all fun p => p.2 ≤ s.time

/-- CLUSTER_CALIBRATION_DONE (R79 step 5): at an instruction boundary the cluster takes its clock. A chiplet whose calibration
fails is fenced (R77). -/
def execClusterCalibrationDone (done : Calibration) (s : State) : Host.Outcome State Fault Refusal :=
  if !s.clusterOnline done.cluster || (s.cluster done.cluster).cal then .next s
  else if !done.ok then .next ((s.failStage (chipOf done.cluster)).fenceChiplet (chipOf done.cluster))
  else if !s.betweenInstrs done.cluster then .next s
  else
    let s := s.setStep done.cluster (s.restStep true)
    .next (s.setCluster done.cluster { s.cluster done.cluster with cal := true, kept := true }).checkFull

/-- ATTNONCE_WRITE (R83). -/
def execAttnonceWrite (nonce : BitVec 384) (s : State) : Host.Outcome State Fault Refusal :=
  if !s.bar0Open then .next s else .next { s with boot := { s.boot with nonce := nonce, attDone := false } }

/-- ATTESTATION_GO (R83). -/
def execAttestationGo (s : State) : Host.Outcome State Fault Refusal :=
  if !s.bar0Open then .next s else .next { s with boot := { s.boot with attGo := true } }

/-- The signed bytes of a report (R83). -/
def Boot.measured (b : Boot) : List Byte :=
  leBytes 4 b.version.toNat ++ leBytes 48 b.nonce.toNat ++ leBytes 48 b.mr0.toNat ++ leBytes 48 b.mr1.toNat ++
    leBytes 48 (Config.digest384 Config.identityKey).toNat

/-- A report (R83): the measured bytes and 4,627 bytes of signature. -/
def Boot.report' (b : Boot) : List Byte := b.measured ++ (List.range 4627).map fun i => Config.attestSignature b.measured i

/-- ATTESTATION_DONE (R83): the report is available. -/
def execAttestationDone (s : State) : Host.Outcome State Fault Refusal :=
  let b := s.boot
  if !b.attGo then .next s
  else .next { s with boot := { b with attGo := false, attDone := true, report := b.report' } }

/-! ## Retention of clusters (R84) -/

/-- Whether a group is resident in a cluster. -/
def State.clusterBusy (s : State) (c : Nat) : Bool := s.groups.any fun e => e.1 / 1024 == c

/-- CLUSTER_RETENTION_ENTRY (R84): the L1s are invalidated, and the directory stops counting the cluster as a sharer. -/
def execClusterRetentionEntry (cluster : Nat) (s : State) : Host.Outcome State Fault Refusal :=
  let c := s.cluster cluster
  if !s.clusterOnline cluster || c.ret || s.clusterBusy cluster || s.time < c.idleSince + 50 * usec then .next s
  else
    let s := s.foldCounters.foldCycles cluster
    let s := (List.range 8).foldl (fun (s : State) i => s.emptyLines (8 * cluster + i) fun _ => true) s
    let cut (e : DirEntry) : DirEntry := { e with sharers := e.sharers &&& ~~~ clusterBit cluster }
    let slices := tmap s.slices fun _ sl => { sl with regions := tmap sl.regions fun _ e => cut e, lines := tmap sl.lines fun _ e => cut e }
    .next ({ s with slices := slices }.setCluster cluster { s.cluster cluster with ret := true, wakeAt := none })

/-- CLUSTER_WAKE (R84): 2 µs after the first dispatch. -/
def execClusterWake (cluster : Nat) (s : State) : Host.Outcome State Fault Refusal :=
  let c := s.cluster cluster
  match c.wakeAt with
  | none => .next s
  | some t =>
    if !c.ret || s.time < t then .next s
    else
      let s := s.foldCounters.foldCycles cluster
      .next (s.setCluster cluster { s.cluster cluster with ret := false, wakeAt := none })

/-! ## Cooling loops, sensors and lasers (R18, R24 to R26, R86 to R89) -/

/-- A loop after a sample of its signal (R24, R25): lost after two asserted samples in a row. Its second within range runs only
while its sensors are within range. -/
def Loop.sample (l : Loop) (asserted : Bool) (now : Nat) : Loop :=
  if asserted then
    let n := l.lowRun + 1
    { l with lowRun := n, lost := l.lost || n ≥ 2, goodSince := if n ≥ 2 then none else l.goodSince }
  else { l with lowRun := 0, goodSince := if l.inletOut.isSome || l.dieHot then none else some (l.goodSince.getD now) }

/-- The start of a loop's second within range after a reading outside it (R25): none while the signal is asserted, the inlet out of
range or a die above its limit. -/
def Loop.restart (l : Loop) (now : Nat) : Loop :=
  { l with goodSince := if l.lowRun ≥ 2 || l.inletOut.isSome || l.dieHot then none else some now }

/-- A loop that Muyras asserts lost on its own (R24). -/
def Loop.assertLoss (l : Loop) (now : Nat) : Loop := { l.restart now with lost := true }

/-- Whether an inlet reads within 15 °C to 40 °C (R23, R26). -/
def inletGood (t : BitVec 12) : Bool := 632 ≤ t.toNat && t.toNat ≤ 832

/-- A loop after a sample of its inlet sensor (R24, R25). -/
def Loop.inlet (l : Loop) (t : BitVec 12) (now : Nat) : Loop :=
  if !inletGood t then { l with inletOut := some (l.inletOut.getD now), goodSince := none }
  else if l.inletOut.isSome then ({ l with inletOut := none }).restart now
  else l

/-- A loop after a sample of the dies that it cools (R24, R25): whether one reads above 105 °C, and one for the second time in a row. -/
def Loop.dies (l : Loop) (high twice : Bool) (now : Nat) : Loop :=
  let l' := if high || l.dieHot then ({ l with dieHot := high }).restart now else l
  if twice then l'.assertLoss now else l'

/-- New loop states: the table of the pair takes effect (R24, R86). Once the orderly stop has begun nothing returns from it
(R25). -/
def State.setLoops (s : State) (top bottom : Loop) : State :=
  if !s.power.vaux then s
  else
    let s' := { s with power := { s.power with top := top, bottom := bottom } }
    if s.power.t3 then s' else s'.tableFrom s.power.table

/-- Whether a sample of a kind last taken at a time is due: Muyras samples every 100 µs (R24, R26). -/
def sampleDue (last : Option Nat) (now : Nat) : Bool := match last with | some t => t + 100 * usec ≤ now | none => true

/-- LOOP_SAMPLE (R24): every 100 µs, both signals, active low. -/
def execLoopSample (lossTopN lossBottomN : Bool) (s : State) : Host.Outcome State Fault Refusal :=
  if !sampleDue s.power.looked s.time then .next s
  else
    let t := s.setLoops (s.power.top.sample (!lossTopN) s.time) (s.power.bottom.sample (!lossBottomN) s.time)
    .next ({ t with power := { t.power with looked := some s.time } }).t3Advance

/-- Whether an inlet has read outside its range for 10 ms (R24). -/
def Loop.inletLost (l : Loop) (now : Nat) : Bool := match l.inletOut with | some t => t + 10000 * usec ≤ now | none => false

/-- INLET_OUT_OF_RANGE (R24): the inlet sensor of a loop has read outside its range for 10 ms. -/
def execInletOutOfRange (loop : CoolLoop) (s : State) : Host.Outcome State Fault Refusal :=
  match loop with
  | .top =>
    if s.power.top.inletLost s.time then .next (s.setLoops (s.power.top.assertLoss s.time) s.power.bottom) else .next s
  | .bottom =>
    if s.power.bottom.inletLost s.time then .next (s.setLoops s.power.top (s.power.bottom.assertLoss s.time)) else .next s

/-- A lost loop that has been deasserted with its sensors within range for 1 s is restored (R25). -/
def Loop.restore (l : Loop) (now : Nat) : Loop :=
  match l.goodSince with
  | some t => if t + 1000000 * usec ≤ now then { l with lost := false } else l
  | none => l

/-- LOOP_RESTORED (R25). -/
def execLoopRestored (loop : CoolLoop) (s : State) : Host.Outcome State Fault Refusal :=
  match loop with
  | .top => .next (s.setLoops (s.power.top.restore s.time) s.power.bottom)
  | .bottom => .next (s.setLoops s.power.top (s.power.bottom.restore s.time))

/-- The loop that cools the die of a sensor (R23, R89): chiplets and operand dies the top one, the base die the bottom one. -/
def dieLoop (i : Nat) : Option CoolLoop :=
  if i < 48 then some .top else if i < 168 then some .bottom else if i < 176 then some .top else none

/-- SENSOR_SAMPLE (R24 to R26, R87, R89): every 100 µs, the 194 sensors and the two inlets; a die above 105 °C in two samples in a row
loses its loop; a stack above 95 °C after the orderly stop takes VMEM down. -/
def execSensorSample (read : Readings) (s : State) : Host.Outcome State Fault Refusal :=
  if !s.power.vaux || !sampleDue s.power.sensed s.time then .next s
  else
    let t := read.temps.take 194
    let sensors := t.zipIdx.foldl (fun m (v, i) => tset m i v) s.power.sensors
    let hot := (t.zipIdx.filter fun (v, i) => (dieLoop i).isSome && v.toNat > 1352).map fun e => e.2
    let high (l : CoolLoop) : Bool := hot.any fun i => dieLoop i == some l
    let twice (l : CoolLoop) : Bool := hot.any fun i => dieLoop i == some l && s.power.hot.contains i
    let held (l : CoolLoop) (x : Loop) : Loop := x.dies (high l) (twice l) s.time
    let s := { s with power := { s.power with sensors := sensors, hot := hot, sensed := some s.time } }
    let s := s.setLoops (held .top (s.power.top.inlet read.inletTop s.time)) (held .bottom (s.power.bottom.inlet read.inletBottom s.time))
    let stack := t.zipIdx.any fun (v, i) => 176 ≤ i && i < 188 && v.toNat > 1272
    if s.power.t3 && s.power.down then .next (if s.power.vmem && stack then s.powerDown true false else s)
    else .next s.t3Advance

/-- LASER_MODULE_LOSS (R18): the module's ports fail (R31); without LS4 and LS5 the Avenue stops, and with it the module. -/
def execLaserModuleLoss (module : Nat) (s : State) : Host.Outcome State Fault Refusal :=
  if module ≥ 6 || s.power.lasersLost.getLsbD module then .next s
  else
    let s := { s with power := { s.power with lasersLost := s.power.lasersLost ||| BitVec.ofNat 6 (2 ^ module) } }
    if module < 4 then
      .next ((List.range 4).foldl (fun (s : State) i => s.portLost (4 * module + i) .failed) s)
    else if s.power.lasersLost.getLsbD 4 && s.power.lasersLost.getLsbD 5 && s.power.vbase then .next s.orderlyStop
    else .next s

end Sys2Proof.Machine
end

