-- ==== Sys2Proof/Machine/Boost.lean ====
section
/-! DEFINITION. The boost governor (R90 to R94), the sub-periods of vertical exclusion (R95) and the wrap of event counters
(R96). -/
namespace Sys2Proof.Machine

/-! ## The boundary of R91 -/

/-- The effective fields of the teams of a cluster that hold a boost request (R90). -/
def State.requesters (s : State) (cluster : Nat) : List Rcb :=
  s.groups.filterMap fun (k, g) => if k / 1024 == cluster && g.boost then some (s.gridAt (s.teamAt g.team).grid).eff else none

/-- The highest priority among requesting teams: the priority of the claim (R90). -/
def topPrio (es : List Rcb) : Nat := es.foldl (fun m e => max m e.prio) 0

/-- The ceiling that requesting teams set (R90): the BOOSTA of the team of highest priority with the largest BOOSTA. -/
def ceilingOf (es : List Rcb) : Nat := min 255 ((es.filter fun e => e.prio == topPrio es).foldl (fun m e => max m e.boosta) 0)

/-- ECAP after the power of an interval has been measured (R93). -/
def Governor.cap (g : Governor) (table watts : Nat) : Nat :=
  if table == 1 || table == 3 then 0
  else if watts > 2650 then min g.maxcl (g.ecap - 8)
  else if watts ≤ 2550 then min g.maxcl (g.ecap + 2)
  else min g.maxcl g.ecap

/-- A claim: its cluster and its priority. -/
abbrev Claim := Nat × Nat

/-- Claims in the order in which places go to them (R91 step 2). -/
def claimOrder (bptr : Nat) (cs : List Claim) : List Nat :=
  (cs.mergeSort fun a b => a.2 > b.2 || (a.2 == b.2 && (a.1 + 48 - bptr) % 48 ≤ (b.1 + 48 - bptr) % 48)).map fun c => c.1

/-- Clusters with a step and claims: which are granted, and the pointer after the boundary (R91 steps 1, 2 and 5). -/
def grants (ecap bptr : Nat) (en : Bool) (leavers : Nat) (cs : List Claim) : List Nat × Nat :=
  let order := claimOrder bptr cs
  let granted := if en then order.take (ecap - min leavers ecap) else []
  let bptr' := match granted.getLast? with
    | some c => if granted.length < order.length then (c + 1) % 48 else bptr
    | none => bptr
  (granted, bptr')

/-- A cluster's step in the new interval (R91). -/
def nextStep (old : Nat) (granted : Bool) : Nat := if granted then 2 else if old == 2 then 1 else 0

/-- BOOST_BOUNDARY (R90, R91, R93): every 4 µs. A cluster that is not calibrated takes part, and keeps its bring-up clock (R79;
log entry 42). -/
def execBoostBoundary (watts : Nat) (s : State) : Host.Outcome State Fault Refusal :=
  if s.time % (4 * usec) != 0 || s.time ≤ s.governor.last then .next s
  else
    let table := s.power.table
    let live := s.online
    let s := live.foldl (fun (s : State) c =>
      let es := s.requesters c
      let x := s.cluster c
      let claim := es != [] && x.perm ≥ 1 && (table == 0 || table == 2)
      s.setCluster c { x with claim := claim, ceil := if es == [] then x.ceil else ceilingOf es }) s
    let ecap := s.governor.cap table watts
    let claims := (live.filter fun c => (s.cluster c).claim).map fun c => (c, topPrio (s.requesters c))
    let leavers := (live.filter fun c => (s.cluster c).step == 2 && !(s.cluster c).claim).length
    let (granted, bptr) := grants ecap s.governor.bptr s.governor.en leavers claims
    let s := { s with governor := { s.governor with ecap := ecap, bptr := bptr, last := s.time } }
    if table == 1 || table == 3 then .next s
    else
      .next (live.foldl (fun (s : State) c =>
        let yes := granted.contains c
        let s := if (s.cluster c).cal then s.setStep c (nextStep (s.cluster c).step yes) else s
        let x := s.cluster c
        s.setCluster c { x with perm := if yes then x.perm - 1 else x.perm }) s)

/-- PERMIT_REFILL (R92): one permit for each 8 µs of unbroken idleness, up to the ceiling; none in T1 (R86). -/
def execPermitRefill (cluster : Nat) (s : State) : Host.Outcome State Fault Refusal :=
  let x := s.cluster cluster
  let due := max x.idleSince x.refillAt + 8 * usec
  if !s.clusterOnline cluster || s.clusterBusy cluster || s.time < due then .next s
  else
    let gain := s.power.table != 1 && x.perm < x.ceil
    .next (s.setCluster cluster { x with refillAt := due, perm := if gain then x.perm + 1 else x.perm })

/-- EXCLUSION_SUBPERIOD_END (R95): the sub-periods of 1 µs stand on the boundaries of R90; a conflict of this cycle doubles the
intervals of the next one. -/
def execExclusionSubperiodEnd (s : State) : Host.Outcome State Fault Refusal :=
  if s.time % usec != 0 then .next s
  else
    let s := { s with clusters := tmap s.clusters fun _ c => { c with doubled := false } }
    .next (s.online.foldl (fun s c => s.exclude c) s)

/-- EVENT_COUNTER_WRAP (R96): a counter is brought up to the present; past its highest value it wraps and sets OVF. -/
def execEventCounterWrap (block k : Nat) (s : State) : Host.Outcome State Fault Refusal :=
  .next { s with counters := tmod s.counters (8 * block + k) fun c => s.cycleCount (8 * block + k) c }

end Sys2Proof.Machine
end

