-- ==== Sys2Proof/Machine/Regs.lean ====
section
/-! DEFINITION. The map of BAR0 and what each register reads as (R7, R8, R44, R51 to R54, R61, R73, R77, R80 to R96, R140, R149,
R150, R154, R194, R258, R267, R275). -/
namespace Sys2Proof.Machine

/-! ## The map -/

/-- The registers of BAR0. -/
inductive Reg where
  | bar4off
  /-- Register `k` of the block of context `c` in the order of R54. -/
  | cx (c k : Nat)
  /-- Register `k` of the block of queue `q` in the order of R61. -/
  | queue (q k : Nat)
  | tag (t half : Nat)
  | prito
  /-- Register `k` of the block of context `c` in the order of R258. -/
  | sp (c k : Nat)
  | dft (e half : Nat)
  | dptr
  | dsusp
  | route (c up s : Nat)
  | epstat (p : Nat)
  | pinb (k : Nat)
  | pinl (k : Nat)
  | pinstat
  | badLine (s e : Nat)
  | bltstat (s : Nat)
  | accown (n : Nat)
  | accspl (n : Nat)
  | pctl (n : Nat)
  | pstat (n : Nat)
  | pwgt (n : Nat)
  | pdevid
  | peerRoute (d : Nat)
  | ckctl
  | cklist
  | ckstate
  | iwbase (e : Nat)
  | iwlim (e : Nat)
  | iwsrc (e : Nat)
  | iwperm (e : Nat)
  | cap0
  | cap1
  | bootst
  | therm
  | bgov
  | bcl (c : Nat)
  | sensor (i : Nat)
  /-- Word `w` of the nonce, of the report, of the identity key, and of the recovery window (R82, R83). -/
  | nonce (w : Nat)
  | attgo
  | attdone
  | report (w : Nat)
  | key (w : Nat)
  | window (w : Nat)
  /-- Select and count register `k` of a block of event counters (R96). -/
  | select (block k : Nat)
  | count (block k : Nat)
  deriving DecidableEq, Repr

/-- Whether a register is 64 bits wide. -/
def Reg.wide : Reg → Bool
  | .bar4off | .tag _ _ | .dft _ _ | .dsusp | .pinb _ | .pinl _ | .badLine _ _ | .cklist | .ckstate | .iwbase _ | .iwlim _
  | .cap0 | .cap1 | .count _ _ => true
  | .cx _ k => 1 ≤ k && k ≤ 5
  | .queue _ k => k == 2 || k == 7
  | .sp _ k => k == 0 || k == 3
  | _ => false

/-- A place in an array of blocks: index and offset in the block. -/
def inBlocks (off base size n : Nat) : Option (Nat × Nat) :=
  if base ≤ off && off < base + size * n then some ((off - base) / size, (off - base) % size) else none

/-- The register of R54's block at an offset in it, and that register's own offset. -/
def cxReg (o : Nat) : Option (Nat × Nat) :=
  if o < 4 then some (0, 0) else if o < 8 then none
  else if o < 0x30 then some (o / 8, o / 8 * 8)
  else some (6 + (o - 0x30) / 4, o / 4 * 4)

/-- The register of R61's block at an offset. -/
def queueReg (o : Nat) : Option (Nat × Nat) :=
  if o < 8 then some (o / 4, o / 4 * 4) else if o < 0x10 then some (2, 8)
  else if o < 0x20 then some (3 + (o - 0x10) / 4, o / 4 * 4)
  else if o < 0x28 then some (7, 0x20) else none

/-- The register of R258's block at an offset. -/
def spReg (o : Nat) : Option (Nat × Nat) :=
  if o < 8 then some (0, 0) else if o < 0x10 then some (1 + (o - 8) / 4, o / 4 * 4)
  else if o < 0x18 then some (3, 0x10) else if o < 0x28 then some (4 + (o - 0x18) / 4, o / 4 * 4) else none

/-- The first of some alternatives that is there. -/
def firstOf {α : Type} (l : List (Option α)) : Option α := l.findSome? id

/-- The registers below 2 MiB, which a virtual function's BAR0 has too: the register at an offset, and its own offset. -/
def lowReg (off : Nat) : Option (Reg × Nat) :=
  firstOf [
    if off / 8 == 0x1000 / 8 then some (.bar4off, 0x1000) else none,
    (inBlocks off 0x10000 0x80 64).bind fun (c, o) => if o < 0x40 then (cxReg o).map fun (k, b) => (.cx c k, off - o + b) else none,
    (inBlocks off 0x100000 0x40 4096).bind fun (q, o) => (queueReg o).map fun (k, b) => (.queue q k, off - o + b),
    (inBlocks off 0x180000 0x10 512).map fun (t, o) => (.tag t (o / 8), off / 8 * 8),
    if off / 4 == 0x182000 / 4 then some (.prito, 0x182000) else none,
    (inBlocks off 0x190000 0x40 64).bind fun (c, o) => (spReg o).map fun (k, b) => (.sp c k, off - o + b),
    (inBlocks off 0x1A0000 0x10 256).map fun (e, o) => (.dft e (o / 8), off / 8 * 8)]

/-- The registers of the distributor, the fabric, the slices and the cores. -/
def midReg (off : Nat) : Option (Reg × Nat) :=
  let w := off / 4 * 4
  let d := off / 8 * 8
  firstOf [
    if w == 0x400000 then some (.dptr, w) else none,
    if d == 0x400008 then some (.dsusp, d) else none,
    (inBlocks off 0x500000 0x400 48).bind fun (c, o) => if o % 0x200 < 0x180 then some (.route c (o / 0x200) (o % 0x200 / 4), w) else none,
    (inBlocks off 0x50C000 4 96).map fun (p, _) => (.epstat p, w),
    (inBlocks off 0x520000 0x10 64).map fun (k, o) => (if o < 8 then .pinb k else .pinl k, d),
    if w == 0x520400 then some (.pinstat, w) else none,
    (inBlocks off 0x560000 0x200 96).map fun (s, o) => (.badLine s (o / 8), d),
    (inBlocks off 0x56C000 4 96).map fun (s, _) => (.bltstat s, w),
    (inBlocks off 0x580000 4 384).map fun (n, _) => (.accown n, w),
    (inBlocks off 0x580800 4 384).map fun (n, _) => (.accspl n, w)]

/-- The registers of the peer links (R44). -/
def peerReg (off : Nat) : Option (Reg × Nat) :=
  let w := off / 4 * 4
  let d := off / 8 * 8
  firstOf [
    (inBlocks off 0x2000000 0x100 16).bind fun (n, o) =>
      if o < 4 then some (.pctl n, w) else if o < 8 then some (.pstat n, w) else if o < 12 then some (.pwgt n, w) else none,
    if w == 0x200F000 then some (.pdevid, w) else none,
    (inBlocks off 0x2100000 4 16384).map fun (i, _) => (.peerRoute i, w),
    if w == 0x2200000 then some (.ckctl, w) else none,
    if d == 0x2200008 then some (.cklist, d) else none,
    if d == 0x2200010 then some (.ckstate, d) else none,
    (inBlocks off 0x2300000 0x20 64).bind fun (e, o) =>
      if o < 8 then some (.iwbase e, d) else if o < 16 then some (.iwlim e, d)
      else if o < 20 then some (.iwsrc e, w) else if o < 24 then some (.iwperm e, w) else none]

/-- The registers of Muyras: bring-up, boot, sensors, boost, attestation, event counters. -/
def powerReg (off : Nat) : Option (Reg × Nat) :=
  let w := off / 4 * 4
  let d := off / 8 * 8
  firstOf [
    if d == 0x3000000 then some (.cap0, d) else none,
    if d == 0x3000008 then some (.cap1, d) else none,
    if w == 0x3000010 then some (.bootst, w) else none,
    if w == 0x3000020 then some (.therm, w) else none,
    if w == 0x3000100 then some (.bgov, w) else none,
    (inBlocks off 0x3000200 8 48).bind fun (c, o) => if o < 4 then some (.bcl c, w) else none,
    (inBlocks off 0x3001000 4 194).map fun (i, _) => (.sensor i, w),
    (inBlocks off 0x3020000 4 12).map fun (i, _) => (.nonce i, w),
    if w == 0x3020040 then some (.attgo, w) else none,
    if w == 0x3020044 then some (.attdone, w) else none,
    (inBlocks off 0x3021000 4 1206).map fun (i, _) => (.report i, w),
    (inBlocks off 0x3023000 4 0x3400).map fun (i, _) => (.key i, w),
    (inBlocks off 0x3100000 0x80 384).bind fun (n, o) =>
      if o < 0x20 then some (.select n (o / 4), w) else if 0x40 ≤ o then some (.count n ((o - 0x40) / 8), d) else none,
    (inBlocks off 0x3180000 0x40 96).bind fun (n, o) =>
      if o < 0x10 then some (.select (384 + n) (o / 4), w) else if 0x20 ≤ o then some (.count (384 + n) ((o - 0x20) / 8), d) else none,
    (inBlocks off 0x31C0000 0x20 16).bind fun (n, o) =>
      if o < 8 then some (.select (480 + n) (o / 4), w) else if 0x10 ≤ o then some (.count (480 + n) ((o - 0x10) / 8), d) else none,
    (inBlocks off 0x3200000 4 0x40000).map fun (i, _) => (.window i, w)]

/-- The register that a function's BAR0 has at an offset, and the register's own offset (R51, R52). -/
def regAt (func off : Nat) : Option (Reg × Nat) :=
  if off < 0x200000 then lowReg off else if func == 0 then firstOf [midReg off, peerReg off, powerReg off] else none

/-- Whether a register is in service (R77): from stage 2 on every one, before that CAP0, BOOTST and, in Recovery, the window. -/
def State.inService (s : State) (r : Reg) : Bool :=
  match r with
  | .window _ => s.linkUp && s.boot.state == .recovery
  | .cap0 | .bootst => s.linkUp
  | _ => s.bar0Open

/-- Whether a function's BAR0 shows a register (R52): a virtual function has the blocks of its own contexts and queues. -/
def State.visible (s : State) (func : Nat) (r : Reg) : Bool :=
  match r with
  | .bar4off | .tag _ _ | .prito => func == 0
  | .cx c _ | .sp c _ => s.mayTouch func c
  | .queue q _ => s.queueTouch func q
  | .dft e _ => func == 0 || (match tget? s.dft e with | some d => s.mayTouch func d.ctx | none => true)
  | _ => func == 0

/-! ## Values -/

/-- Bits of a value, in place. -/
def bits (v hi lo : Nat) : Nat := fld v hi lo * 2 ^ lo

/-- A flag as a bit. -/
def flagBit (b : Bool) (n : Nat) : Nat := if b then 2 ^ n else 0

/-- The 32-bit word `i` of a list of bytes; beyond it zero. -/
def wordIn (bs : List Byte) (i : Nat) : Nat := leNat ((bs.drop (4 * i)).take 4)

/-- The block of R54. -/
def Context.value (c : Context) (k : Nat) : Nat :=
  match k with
  | 0 => flagBit c.en 31 + c.func * 2 ^ 26 + c.pasid.toNat
  | 1 => c.ptb.toNat
  | 2 => c.rcb.toNat
  | 3 => c.hbase.toNat
  | 4 => c.hlim.toNat
  | 5 => c.rqb.toNat
  | 6 => c.msiv * 2 ^ 16 + c.log2
  | 7 => c.rwi.toNat
  | 8 => c.rri.toNat
  | _ => c.lost * 2 ^ 8 + flagBit c.ovf 1 + flagBit c.err 0

/-- SPHELD (R258). -/
def Context.held' (c : Context) : Nat := c.reserved.foldl (fun n r => n + r.2.1) 0

/-- The block of R258. -/
def Context.saveValue (c : Context) (k : Nat) : Nat :=
  match k with
  | 0 => c.spbase.toNat
  | 1 => c.spsize
  | 2 => c.held'
  | 3 => c.tinvva.toNat
  | 4 => c.tinvn.toNat
  | 5 => flagBit c.tinvDone 0
  | 6 => 0
  | _ => flagBit c.halted 1 + flagBit c.halt 0

/-- QSTAT.STATE (R61). -/
def QState.code : QState → Nat
  | .off => 0 | .active => 1 | .draining => 2 | .stopped => 3 | .faulted => 4

/-- The state of a code of QSTAT.STATE. -/
def qStateOf (n : Nat) : QState := match n with | 0 => .off | 1 => .active | 2 => .draining | 3 => .stopped | _ => .faulted

/-- The block of R61. -/
def Queue.value (q : Queue) (k : Nat) : Nat :=
  match k with
  | 0 => q.ctx * 2 ^ 16 + flagBit (q.state != .off) 0
  | 1 => q.state.code * 2 ^ 24 + q.cause * 2 ^ 20 + q.infl
  | 2 => q.qbase.toNat
  | 3 => q.log2
  | 4 => q.qri.toNat
  | 5 => q.qwi.toNat
  | 6 => q.qdone.toNat
  | _ => q.qfaddr.toNat

/-- The waiters of an entry of the tag table or the DFT that still wait for it: one that an abort has ended does not. -/
def State.waitersOf (s : State) (frags : List (Nat × Nat)) (ops : List Nat) (w : Wait) : List (Nat × Nat) × List Nat :=
  (frags.filter fun (key, entry) => (match s.walker? key entry with | some (_, f) => f.wait == w | none => false),
    ops.filter fun id => match tget? s.ops id with | some o => o.stalled && !o.ended | none => false)

/-- The halves of a tag table entry (R73); WAITERS counts groups. -/
def State.tagValue (s : State) (e : Nat) (t : TagEntry) (half : Nat) : Nat :=
  if half == 0 then t.page * 4096 + flagBit t.w 2 + flagBit t.r 1 + 1
  else
    let (frags, ops) := s.waitersOf t.waiters t.ops (.tag e)
    ((frags.map fun w => w.1).eraseDups.length + ops.length) * 2 ^ 32 + t.ctx * 2 ^ 26 + t.pasid.toNat

/-- The halves of a DFT entry (R275). -/
def State.dftValue (s : State) (e : Nat) (d : DftEntry) (half : Nat) : Nat :=
  if half == 0 then d.page * 4096 + flagBit d.x 3 + flagBit d.w 2 + flagBit d.r 1 + 1
  else
    let (frags, ops) := s.waitersOf d.waiters d.ops (.dft e)
    (frags.length + ops.length) * 2 ^ 32 + d.ctx

/-- PSTAT.STATE (R44). -/
def LinkState.code : LinkState → Nat
  | .down => 0 | .training => 1 | .up => 2 | .failed => 3

/-- CKCTL.STATE (R44). -/
def CkState.code : CkState → Nat
  | .idle => 0 | .quiesce => 1 | .stream => 2 | .resume => 3 | .done => 4 | .restore => 5

/-- CAP0.STAGE (R80). -/
def BringStage.code : BringStage → Nat
  | .boot => 0 | .base => 1 | .memory => 2 | .compute => 3 | .full => 4

/-- BOOTST.STATE (R82). -/
def BootState.code : BootState → Nat
  | .verifying => 0 | .running => 1 | .recovery => 2 | .recoveryVerifying => 3

/-- The clock of a cluster that is not boosted, in MHz (R79, R86). -/
def State.restClock (s : State) (c : Nat) : Nat := if s.restStep (s.cluster c).cal == 0 then 1600 else 1000

/-- CAP1 (R80): the online cores, and their peaks at the non-boost clocks. -/
def State.cap1 (s : State) : Nat :=
  let mx := s.online.foldl (fun n c => n + 8 * 8192 * s.restClock c / (if (s.cluster c).cal then 1 else 2)) 0
  let v := s.online.foldl (fun n c => n + 8 * 128 * s.restClock c) 0
  8 * s.online.length * 2 ^ 32 + mx / 1000000 * 2 ^ 16 + v / 100000

/-- CAP0 (R80). -/
def State.cap0 (s : State) : Nat :=
  let chips := (List.range 8).foldl (fun n i => n + flagBit (s.chipOnline i) i) 0
  let cal := s.online.foldl (fun n c => n + flagBit (s.cluster c).cal c) 0
  s.stage.code * 2 ^ 56 + chips * 2 ^ 48 + cal

/-- What a register reads as. -/
def State.regValue (s : State) (r : Reg) : Nat :=
  match r with
  | .bar4off => s.host.bar4off.toNat
  | .cx c k => (s.ctxAt c).value k
  | .queue q k => (s.queueAt q).value k
  | .tag t h => (match tget? s.host.tags t with | some e => s.tagValue t e h | none => 0)
  | .prito => s.host.prito
  | .sp c k => (s.ctxAt c).saveValue k
  | .dft e h => (match tget? s.dft e with | some d => s.dftValue e d h | none => 0)
  | .dptr => s.grids.length * 2 ^ 16 + s.dist.ptr
  | .dsusp => s.dist.dsusp.toNat
  | .route c up n => ((s.cluster c).routeEntry (96 * up + n)).toNat
  | .epstat p => tgetD s.power.portCount p 0 * 2 ^ 8 + s.elevatorState p
  | .pinb k => (tgetD s.pins k {}).pinb
  | .pinl k => (tgetD s.pins k {}).pinl
  | .pinstat => flagBit s.pinBusy 1 + flagBit s.pinErr 0
  | .badLine n e => (match tget? (s.slice n).bad e with | some x => 2 ^ 63 + x.cause * 2 ^ 56 + x.line * 2 ^ 8 | none => 0)
  | .bltstat n => flagBit (s.slice n).badFull 8 + (s.slice n).bad.length
  | .accown n => (match (s.core n).accown with | some c => c | none => 64)
  | .accspl n => (s.core n).accspl.toNat
  | .pctl n => flagBit (s.port n).en 0
  | .pstat n => let p := s.port n; p.state.code * 2 ^ 24 + p.replays.toNat * 2 ^ 16 + p.corr.toNat
  | .pwgt n => (s.port n).weights.zipIdx.foldl (fun v (w, i) => v + w * 16 ^ i) 0
  | .pdevid => flagBit s.peer.devidV 31 + s.peer.devid.toNat
  | .peerRoute d => (tgetD s.peer.routes d 0).toNat
  | .ckctl => flagBit s.peer.ck.err 10 + s.peer.ck.result * 2 ^ 8 + s.peer.ck.state.code
  | .cklist => s.peer.ck.list.toNat
  | .ckstate => s.peer.ck.image.toNat
  | .iwbase e => (tgetD s.peer.windows e {}).base.toNat
  | .iwlim e => (tgetD s.peer.windows e {}).lim.toNat
  | .iwsrc e => (tgetD s.peer.windows e {}).src.toNat
  | .iwperm e => (tgetD s.peer.windows e {}).perm.toNat
  | .cap0 => s.cap0
  | .cap1 => s.cap1
  | .bootst => s.boot.fail.toNat * 2 ^ 24 + s.boot.state.code * 2 ^ 4 + flagBit s.boot.persist 1
  | .therm => s.power.t3step * 2 ^ 8 + flagBit s.power.bottom.lost 5 + flagBit s.power.top.lost 4 + s.power.table
  | .bgov => s.governor.ecap * 2 ^ 24 + s.governor.bptr * 2 ^ 16 + flagBit s.governor.en 6 + s.governor.maxcl
  | .bcl c => (s.cluster c).bcl
  | .sensor i => s.sensorReg i
  | .nonce w => wordIn (leBytes 48 s.boot.nonce.toNat) w
  | .attgo => 0
  | .attdone => flagBit s.boot.attDone 0
  | .report w => wordIn s.boot.report w
  | .key w => wordIn (Config.identityKey ++ Config.tilquinCertificate) w
  | .window w => leNat (cread s.boot.window (4 * w) 4)
  | .select b k => let c := s.cycleCount (8 * b + k) (tgetD s.counters (8 * b + k) {}); flagBit c.en 31 + flagBit c.ovf 30 + c.src
  | .count b k => s.counterValue (8 * b + k)

end Sys2Proof.Machine
end

