-- ==== Sys2Proof/Machine/Checkpoint.lean ====
section
/-! DEFINITION. The checkpoint stream (R45, R46), the device-state image and its restore (R47). -/
namespace Sys2Proof.Machine

/-- The checkpoint's registers and progress replaced. -/
def State.setCk (s : State) (ck : Checkpoint) : State := { s with peer := { s.peer with ck := ck } }

/-! ## The device-state image (R47) -/

/-- Bytes padded with zeros to a multiple of 4 KiB. -/
def padPage (bs : List Byte) : List Byte := padTo ((bs.length + 4095) / 4096 * 4096) bs

/-- The resident contexts. -/
def State.residentCtxs (s : State) : List Nat := tkeys s.contexts fun _ c => c.en

/-- The block of R54 as bytes. -/
def Context.block (c : Context) : List Byte :=
  leBytes 8 (c.value 0) ++ ([1, 2, 3, 4, 5].flatMap fun k => leBytes 8 (c.value k)) ++ [6, 7, 8, 9].flatMap fun k => leBytes 4 (c.value k)

/-- An entry of section 0. -/
def State.ctxEntry (s : State) (n : Nat) : List Byte :=
  let c := s.ctxAt n
  padTo 256 (c.block ++ leBytes 8 c.spbase.toNat ++ leBytes 8 c.spsize ++ leBytes 4 c.held' ++ leBytes 1 n ++
    leBytes 1 (flagBit (s.dist.dsusp.getLsbD n) 0))

/-- An entry of section 1. -/
def Context.plaza (c : Context) : List Byte :=
  (List.range 128).map (fun i => BitVec.ofNat 8 ((List.range 8).foldl (fun v b => v + flagBit (c.flags.contains (8 * i + b)) b) 0)) ++
    (List.range 256).flatMap fun m =>
      let box := tgetD c.boxes m []
      leBytes 8 box.length ++ padTo 64 (box.flatMap fun w => leBytes 8 w.toNat)

/-- An entry of section 2. -/
def State.queueEntry (s : State) (n : Nat) : List Byte :=
  let q := s.queueAt n
  let started := q.recs.zipIdx.foldl (fun v (r, i) => v + flagBit r.started i) 0
  padTo 64 (leBytes 4 (q.value 0) ++ leBytes 4 (q.value 1) ++ leBytes 8 (q.value 2) ++ ([3, 4, 5, 6].flatMap fun k => leBytes 4 (q.value k)) ++
    leBytes 8 (q.value 7) ++ leBytes 2 started ++ leBytes 2 n)

/-- The fields of an RCB in the layout of R99, with KIND 1. -/
def Rcb.bytes (r : Rcb) : List Byte :=
  padTo 256 (leBytes 1 1 ++ leBytes 1 (flagBit r.fusel1 6 + r.vmode * 16 + flagBit r.acommit 3 + r.prio) ++ leBytes 2 r.fdid.toNat ++
    leBytes 4 r.inh.toNat ++ leBytes 8 r.parent.toNat ++ leBytes 8 r.child.toNat ++ leBytes 8 0 ++ leBytes 8 r.handler.toNat ++
    leBytes 8 r.entry.toNat ++ leBytes 4 r.gx ++ leBytes 4 r.gy ++ leBytes 4 r.gz ++ leBytes 1 r.groups ++ leBytes 1 r.gregs ++ leBytes 1 r.cregs ++
    leBytes 1 r.scr ++ leBytes 1 r.acc ++ leBytes 1 r.dist ++ leBytes 1 (flagBit r.pair 0) ++ leBytes 1 0 ++ leBytes 4 r.parkt ++
    leBytes 8 r.parka.toNat ++ leBytes 4 r.pslots ++ leBytes 4 r.psz ++ leBytes 8 r.vobase.toNat ++ leBytes 4 r.vosize ++ leBytes 2 r.cto ++
    leBytes 1 r.boosta ++ leBytes 1 0 ++ (r.budgets.flatMap fun w => leBytes 4 w.toNat) ++ leBytes 4 0 ++ leBytes 8 r.csptr.toNat ++ leBytes 2 r.cscnt)

/-- An entry of section 3. -/
def State.gridEntry (s : State) (n : Nat) : List Byte :=
  let g := s.gridAt n
  let keys := s.accounts.map fun e => e.1
  let index (k : Nat) : Nat := (keys.findIdx? fun x => x == k).getD 0xFFFF
  let accounts := ((g.accounts.map index) ++ List.replicate 4 0xFFFF).take 4
  padTo 512 (g.eff.bytes ++ leBytes 8 g.rcb.toNat ++ leBytes 4 g.queue ++ leBytes 4 g.record ++ leBytes 4 g.order ++ leBytes 4 g.next ++
    leBytes 4 g.retired.length ++ leBytes 4 g.cg.toNat ++ leBytes 2 g.eff.prio ++ leBytes 2 n ++ accounts.flatMap fun i => leBytes 2 i)

/-- The state of a task slot as a number. -/
def TaskState.code : TaskState → Nat
  | .free => 0 | .running => 1 | .committing => 2 | .discarding => 3

/-- The next free block of a task's overflow area. -/
def Task.nextBlock (t : Task) : Nat := ((List.range (t.voUsed.length + 1)).find? fun i => !t.voUsed.contains i).getD 0

/-- An entry of section 4. -/
def State.taskEntry (s : State) (n : Nat) : List Byte :=
  let t := s.taskAt n
  padTo 32 (leBytes 4 (t.gen.toNat * 2 ^ 17 + n) ++ leBytes 1 t.state.code ++ leBytes 1 t.ctx ++ leBytes 2 t.fdid.toNat ++
    leBytes 4 (flagBit t.e 0 + flagBit t.nr 1 + flagBit t.ovf 2 + flagBit t.acommit 3) ++ leBytes 8 t.voBase.toNat ++ leBytes 4 t.voBlocks ++
    leBytes 4 t.nextBlock)

/-- The saved teams (R46): pre-empted ones, parked ones, and those that wait to come back. -/
def State.savedTeams (s : State) : List Nat :=
  tkeys s.teams fun _ t => t.state == .preempted || t.state == .parked || (t.state == .queued && t.restore)

/-- The saved teams in the head-part order of R125. -/
def State.savedOrder (s : State) : List Nat :=
  let key (k : Nat) : Nat × Nat × Nat := s.headKey { level := 0, head := true, grid := (s.teamAt k).grid, teams := [k] }
  let le (a b : Nat × Nat × Nat) : Bool := a.1 < b.1 || a.1 == b.1 && (a.2.1 < b.2.1 || a.2.1 == b.2.1 && a.2.2 ≤ b.2.2)
  s.savedTeams.mergeSort fun a b => le (key a) (key b)

/-- An entry of section 5. -/
def State.teamEntry (s : State) (k : Nat) : List Byte :=
  let t := s.teamAt k
  let park := t.slot.isSome
  let grids := s.grids.map fun e => e.1
  padTo 32 (leBytes 8 (s.areaOf k park).base ++ leBytes 1 (if park then 0 else 1) ++ leBytes 1 t.ctx ++
    leBytes 2 ((grids.findIdx? fun g => g == t.grid).getD 0xFFFF) ++ leBytes 4 t.tix.toNat ++ leBytes 2 (t.home.getD t.core) ++
    leBytes 2 (s.gridAt t.grid).eff.prio)

/-- An entry of section 6. -/
def Account.entry (a : Account) : List Byte :=
  padTo 32 (leBytes 2 a.ctx ++ leBytes 2 a.res ++ leBytes 2 a.share ++ leBytes 2 (flagBit a.hard 0) ++ leBytes 8 a.node.toNat ++ leBytes 8 a.limit)

/-- The sections of the image with their entry counts. -/
def State.sections (s : State) : List (List Byte × Nat) :=
  let cs := s.residentCtxs
  let qs := tkeys s.queues fun _ q => q.state != .off
  let ts := tkeys s.tasks fun _ t => t.state != .free
  let saved := s.savedOrder
  [(cs.flatMap s.ctxEntry, cs.length), (cs.flatMap fun c => (s.ctxAt c).plaza, cs.length), (qs.flatMap s.queueEntry, qs.length),
    (s.grids.flatMap fun e => s.gridEntry e.1, s.grids.length), (ts.flatMap s.taskEntry, ts.length), (saved.flatMap s.teamEntry, saved.length),
    (s.accounts.flatMap fun e => e.2.entry, s.accounts.length)]

/-- The image: its header, then the sections, each at a 4 KiB boundary. -/
def State.imageBytes (s : State) : List Byte :=
  let parts := s.sections.map fun p => (padPage p.1, p.2)
  let (table, len) := parts.foldl (fun (t : List Byte × Nat) p => (t.1 ++ leBytes 8 t.2 ++ leBytes 8 p.2, t.2 + p.1.length)) ([], 4096)
  padTo 4096 (leBytes 4 1 ++ leBytes 4 s.peer.devid.toNat ++ leBytes 8 s.bclks ++ leBytes 8 len ++ leBytes 8 0 ++ table) ++
    parts.flatMap fun p => p.1

/-- The saves take what came after them (R47): the events that the Plaza has latched and the districts' counts. -/
def State.patchSaves (s : State) : State :=
  s.savedTeams.foldl (fun s k =>
    let t := s.teamAt k
    let park := t.slot.isSome
    let e := (s.gridAt t.grid).eff
    let a := s.areaOf k park
    let s := s.putArea a 48 (leBytes 4 (tgetD s.districts (s.districtKey t) {}).cd.toNat)
    t.kept.foldl (fun s (_, g) =>
      if t.live.getLsbD g.gix then s.putArea a (4096 + g.gix * e.recordSize park + 16) (leBytes 4 (g.pev ||| g.latch).toNat) else s) s) s

/-! ## The checkpoint list (R45) -/

/-- An entry of the checkpoint list: source, length, destination, device and port. -/
structure CkEntry where
  src : Nat
  len : Nat
  dst : Nat
  dev : BitVec 14
  port : Nat
  deriving DecidableEq, Repr

/-- The entries of the list from an address on, up to the first of length zero; nothing where one is malformed. -/
def State.ckList (s : State) (at' : Nat) : Nat → Option (State × List CkEntry)
  | 0 => none
  | fuel + 1 =>
    if at' + 32 > memTop then none
    else
      let (s, bs) := s.readNow at' 32
      let n (off k : Nat) : Nat := bytesAt bs off k
      if n 8 8 == 0 then some (s, [])
      else if n 0 8 % 4096 != 0 || n 8 8 % 4096 != 0 || n 16 8 % 4096 != 0 || n 24 2 ≥ 2 ^ 14 || n 26 1 ≥ 16 || n 27 5 != 0 ||
          n 0 8 + n 8 8 > memTop || n 16 8 ≥ 2 ^ 50 then none
      else
        match s.ckList (at' + 32) fuel with
        | none => none
        | some (s, l) => some (s, { src := n 0 8, len := n 8 8, dst := n 16 8, dev := BitVec.ofNat 14 (n 24 2), port := n 26 1 } :: l)

/-! ## CKCTL (R44, R46) -/

/-- A checkpoint starts (R46): dispatch is halted, every resident team is to be pre-empted, incomplete collectives fail, and boost
requests end. -/
def State.startCheckpoint (s : State) : State :=
  let ck := { s.peer.ck with state := .quiesce, result := 0, committing := false, pages := 0, ports := [], run := s.peer.ck.run + 1 }
  let s := s.setCk ck
  let s := { s with groups := tmap s.groups fun _ g => { g with boost := false } }
  let s := (tkeys s.teams fun _ t => !t.state.over).foldl (fun s k => s.nameCause k .quiesce) s
  (tkeys s.colls fun _ c => !c.ended && c.failedAt.isNone).foldl (fun s k => s.collFails k) s

/-- A write of GO, ABORT or RESTORE is ignored. -/
def State.ckIgnored (s : State) : State := s.setCk { s.peer.ck with err := true }

/-- A write of CKCTL (R44). -/
def State.ckctlWrite (s : State) (value : W32) : State :=
  let (go, abort, restore) := (value.getLsbD 31, value.getLsbD 30, value.getLsbD 29)
  if (go && abort) || (go && restore) || (abort && restore) then s.ckIgnored
  else
    let s := if value.getLsbD 10 then s.setCk { s.peer.ck with err := false } else s
    let ck := s.peer.ck
    let rest := ck.state == .idle || ck.state == .done
    if go then if rest then s.startCheckpoint else s.ckIgnored
    else if abort then if ck.state == .quiesce || ck.state == .stream then s.ckFinish false else s.ckIgnored
    else if restore then
      if rest && s.residentCtxs == [] && s.grids.isEmpty then s.setCk { ck with state := .restore } else s.ckIgnored
    else s

/-- CKCTL_GO (R44, R46). -/
def execCkctlGo (value : W32) (s : State) : Host.Outcome State Fault Refusal :=
  if !s.bar0Open || !value.getLsbD 31 then .next s else .next (s.ckctlWrite value)

/-- CKCTL_ABORT (R44, R46). -/
def execCkctlAbort (value : W32) (s : State) : Host.Outcome State Fault Refusal :=
  if !s.bar0Open || !value.getLsbD 30 then .next s else .next (s.ckctlWrite value)

/-- CKCTL_RESTORE (R44, R47). -/
def execCkctlRestore (value : W32) (s : State) : Host.Outcome State Fault Refusal :=
  if !s.bar0Open || !value.getLsbD 29 then .next s else .next (s.ckctlWrite value)

/-! ## Quiesce and Stream (R46) -/

/-- Whether Quiesce still waits for a team to be saved or an operation to end. -/
def State.quiescing (s : State) : Bool :=
  (s.teams.any fun e => match e.2.state with
    | .resident | .parkEligible | .parkArmed | .parkSpilling | .preempting | .committing => true
    | _ => false) ||
  s.ops.any fun e => match e.2.kind with
    | .page _ _ _ _ _ => false
    | .sched _ _ _ _ _ _ _ => e.2.engine.isSome
    | _ => true

/-- Whether a commit is still under way: a task's own, or one of its messages. -/
def State.commitsOpen (s : State) : Bool :=
  (s.tasks.any fun e => e.2.commit.isSome) || s.msgs.any fun e => match e.2.kind with
    | .cmtReq _ _ _ _ => true
    | .version _ => true
    | _ => false

/-- The pages of the list's entries go to their ports (R45, R163). -/
def State.startStream (s : State) (l : List CkEntry) : State :=
  let s := s.setCk { s.peer.ck with state := .stream, ports := (l.map fun e => e.port).eraseDups, committing := false }
  l.foldl (fun s e =>
    let engine := e.port / 2
    (s.addOp { kind := .page e.src e.dst e.len e.dev e.port, core := 48 * engine, ctx := 0, cls := 8, engine := some engine }).2) s

/-- CHECKPOINT_QUIESCE_DONE (R46, R47): with every team saved each version is committed; with every version committed the lazily
held tiles are spilled, the image is written, and the checkpoint enters Stream, or ends FAILED where its list is malformed. -/
def execCheckpointQuiesceDone (s : State) : Host.Outcome State Fault Refusal :=
  let ck := s.peer.ck
  if ck.state != .quiesce || s.quiescing then .next s
  else if !ck.committing then
    let s := s.savedTeams.foldl (fun s k =>
      let task := (s.teamAt k).task
      (s.setTask task { s.taskAt task with nr := true }).commitFromBase k causeQuiesce) s
    .next (s.setCk { ck with committing := true })
  else if s.commitsOpen then .next s
  else
    let s := s.spillAll.patchSaves
    let s := s.writeNow (fld ck.image.toNat 49 16 * 65536) s.imageBytes
    match s.ckList ck.list.toNat (memTop / 32) with
    | none => .next (s.ckFinish false)
    | some (s, l) => .next (s.startStream l)

/-- CHECKPOINT_STREAM_DONE (R46): every page has been sent and completed. -/
def execCheckpointStreamDone (s : State) : Host.Outcome State Fault Refusal :=
  let ck := s.peer.ck
  let left := s.ops.any fun e => match e.2.kind with | .page _ _ len _ _ => e.2.units < len | _ => false
  if ck.state != .stream || left || ck.pages != 0 then .next s else .next (s.ckFinish true)

/-! ## Restore (R47) -/

/-- The entries of a section: `size` bytes each. -/
def sectionOf (img : List Byte) (k size : Nat) : List (List Byte) :=
  let off := bytesAt img (32 + 16 * k) 8
  (List.range (bytesAt img (40 + 16 * k) 8)).map fun i => (img.drop (off + size * i)).take size

/-- A context from its entries of sections 0 and 1. -/
def loadContext (e plaza : List Byte) : Context :=
  let ctl := bytesAt e 0 4
  let qs := bytesAt e 48 4
  let st := bytesAt e 60 4
  let w (off : Nat) : W64 := BitVec.ofNat 64 (bytesAt e off 8)
  let boxes : Tbl (List W64) := (List.range 256).filterMap fun m =>
    let n := min 8 (bytesAt plaza (128 + 72 * m) 1)
    if n == 0 then none else some (m, (List.range n).map fun i => BitVec.ofNat 64 (bytesAt plaza (136 + 72 * m + 8 * i) 8))
  { en := ctl.testBit 31, func := fld ctl 30 26, pasid := BitVec.ofNat 20 ctl, ptb := w 8, rcb := w 16, hbase := w 24, hlim := w 32, rqb := w 40
    msiv := fld qs 26 16, log2 := qs % 32, rwi := BitVec.ofNat 32 (bytesAt e 52 4), rri := BitVec.ofNat 32 (bytesAt e 56 4)
    lost := fld st 15 8, ovf := st.testBit 1, err := st.testBit 0, spbase := w 64, spsize := bytesAt e 72 4 % 2 ^ 20
    flags := (List.range 1024).filter fun f => (bytesAt plaza (f / 8) 1).testBit (f % 8), boxes := boxes }

/-- A queue from its entry of section 2; its fetched records are read from its ring again. A started record whose grid is no
longer held has completed. -/
def State.loadQueue (s : State) (e : List Byte) : State :=
  let n := bytesAt e 42 2
  let stat := bytesAt e 4 4
  let started := bytesAt e 40 2
  let infl := stat % 32
  let ctx := fld (bytesAt e 0 4) 21 16
  let base := bytesAt e 8 8
  let log2 := bytesAt e 16 4 % 32
  let qri := bytesAt e 20 4
  let (s, recs) := (List.range infl).foldl (fun (st : State × List QRecord) i =>
    let index := BitVec.ofNat 32 (qri + 2 ^ 32 - infl + i)
    let (s, bs) := match st.1.unitRead ctx (base + 64 * (index.toNat % 2 ^ log2)) 64 with
      | (s, .ok bs) => (s, bs)
      | (s, .error _) => (s, List.replicate 64 0)
    let grid := (s.grids.find? fun g => g.2.queue == n && g.2.record == index.toNat).map fun g => g.1
    (s, st.2 ++ [{ index := index, bytes := bs, started := started.testBit i, grid := grid, complete := started.testBit i && grid.isNone }])) (s, [])
  s.setQueue n { ctx := ctx, state := qStateOf (fld stat 27 24), cause := fld stat 23 20, qbase := BitVec.ofNat 64 base, log2 := log2
                 qri := BitVec.ofNat 32 qri, qwi := BitVec.ofNat 32 (bytesAt e 24 4), qdone := BitVec.ofNat 32 (bytesAt e 28 4)
                 qfaddr := BitVec.ofNat 64 (bytesAt e 32 8), recs := recs }

/-- A grid from its entry of section 3, with the context of its queue. -/
def State.loadGrid (s : State) (e ctxOf : List Byte) : State :=
  let n := bytesAt e 290 2
  let eff := Rcb.parse (e.take 256)
  let accounts := ((List.range 4).map fun i => bytesAt e (292 + 2 * i) 2).filter fun i => i != 0xFFFF
  let next := bytesAt e 276 4
  let s := s.setGrid n { queue := bytesAt e 264 2, record := bytesAt e 268 4, ctx := fld (bytesAt ctxOf 0 4) 21 16
                         rcb := BitVec.ofNat 64 (bytesAt e 256 8), eff := eff, order := bytesAt e 272 4, teams := eff.gx * eff.gy * eff.gz
                         next := next, cg := BitVec.ofNat 32 (bytesAt e 284 4), accounts := accounts, ready := true, started := s.time }
  accounts.foldl (fun s k => { s with accounts := tmod s.accounts k fun a => { a with users := a.users ++ [n] } }) s

/-- A task slot from its entry of section 4. -/
def State.loadTask (s : State) (e : List Byte) : State :=
  let tid := bytesAt e 0 4
  let f := bytesAt e 8 4
  let state : TaskState := match bytesAt e 4 1 with | 0 => .free | 2 => .committing | 3 => .discarding | _ => .running
  s.setTask (tid % 2 ^ 17) { state := state, gen := BitVec.ofNat 15 (tid / 2 ^ 17), ctx := bytesAt e 5 1, fdid := BitVec.ofNat 16 (bytesAt e 6 2)
                             e := f.testBit 0, nr := f.testBit 1, ovf := f.testBit 2, acommit := f.testBit 3
                             voBase := BitVec.ofNat 64 (bytesAt e 12 8), voBlocks := bytesAt e 20 4
                             voUsed := List.range (bytesAt e 24 4) }

/-- A saved team from its entry of section 5 and its save area: its park slot or reservation is taken again, and a parked
team's descriptors are armed; an event pending in its save has fired (R136). -/
def State.loadTeam (s : State) (grids : List Nat) (e : List Byte) : State :=
  let park := bytesAt e 8 1 == 0
  let ctx := bytesAt e 9 1
  let grid := grids.getD (bytesAt e 10 2) 0
  let eff := (s.gridAt grid).eff
  let addr := bytesAt e 0 8
  let a : Area := { park := park, ctx := ctx, base := addr }
  let (k, s) := s.fresh
  let (s, h) := s.getArea a 0 4096
  let tid := bytesAt h 4 4
  let live := bytesAt h 28 2
  let t : Team :=
    { grid := grid, ctx := ctx, tix := BitVec.ofNat 32 (bytesAt e 12 4), task := tid % 2 ^ 17, tid := BitVec.ofNat 32 tid
      state := if park then .parked else .preempted, core := bytesAt e 16 2, home := if park then none else some (bytesAt e 16 2)
      live := BitVec.ofNat 16 live, tiles := if park then [] else (List.range eff.acc).map fun j => bytesAt h (32 + j) 1
      tspill := BitVec.ofNat 16 (bytesAt h 30 2), save := if park then none else some addr
      slot := if park then some ((addr - eff.parka.toNat) / max 1 (4096 * eff.psz)) else none }
  let s := s.setTeam k t
  let s := { s with districts := tset s.districts (s.districtKey t) { cd := BitVec.ofNat 32 (bytesAt h 48 4) } }
  let s := if park then
      let key := s.parkKey t
      { s with parkAreas := tset s.parkAreas key (tgetD s.parkAreas key [] ++ [t.slot.getD 0]) }
    else
      let c := s.ctxAt ctx
      let b := (addr - fld c.spbase.toNat 49 16 * 65536) / 65536
      s.setCtx ctx { c with reserved := c.reserved ++ [(b, eff.granules, k)] }
  ((List.range 16).filter fun i => live.testBit i).foldl (fun s i =>
    let (id, s) := s.fresh
    let (s, g) := s.loadGroup a eff { uid := id, team := k, gix := i, g := eff.gregs, c := eff.cregs, armed := park }
    let g := if park then { g with latch := g.pev &&& g.evm } else g
    s.setTeam k { s.teamAt k with kept := tset (s.teamAt k).kept i g }) s

/-- The grids of a restored image: those with undispatched teams rejoin the tail part of their level in start order, teams
dispatched and not saved have retired, and post copies wait again. -/
def State.rejoinGrids (s : State) : State :=
  let keys := (s.grids.mergeSort fun a b => a.2.order ≤ b.2.order).map fun e => e.1
  let s := keys.foldl (fun s k =>
    let g := s.gridAt k
    let saved := (s.teams.filter fun e => e.2.grid == k).map fun e => e.2.tix.toNat
    let s := s.setGrid k { g with retired := (List.range g.next).filter fun i => !saved.contains i }
    let s := match s.readSchedule g.ctx g.eff with
      | some (s, es) => s.startCopies k (es.filter fun c => c.1 == 1)
      | none => s
    if g.next < g.teams then
      { s with dist := { s.dist with items := s.dist.items ++ [{ level := g.eff.prio, head := false, grid := k }] } }
    else s) s
  { s with dist := { s.dist with startOrder := keys.foldl (fun n k => max n ((s.gridAt k).order + 1)) s.dist.startOrder } }

/-- What a restore does not carry (R47): the L1s and TLBs start empty, no block of an operand die has an owner, and no cluster has
a permit or a ceiling. Stores that have reached an owned line come home first. -/
def State.uncarried (s : State) : State :=
  let lines := (s.msgs.filterMap fun (_, m) => match m.kind with | .through _ line _ => some line | _ => none).eraseDups
  let s := lines.foldl (fun s l => s.drainLine l) s
  { s with
    cores := tmap s.cores fun _ k => { k with l1 := [], tlb := [], die := [], dieOwner := [] }
    clusters := tmap s.clusters fun _ c => { c with tlb := [], perm := 0, ceil := 0 }
    slices := tmap s.slices fun _ sl => { sl with regions := [], lines := [] }
    walkCache := [] }

/-- What the image holds is loaded (R47 steps 2 to 5). -/
def State.loadImage (s : State) (img : List Byte) : State :=
  let ctxs := (sectionOf img 0 256).zip (sectionOf img 1 18560)
  let s := ctxs.foldl (fun (s : State) (e, p) => s.setCtx (bytesAt e 84 1 % 64) (loadContext e p)) s
  let dsusp := ctxs.foldl (fun v (e, _) => if (bytesAt e 85 1).testBit 0 then v ||| BitVec.ofNat 64 (2 ^ (bytesAt e 84 1 % 64)) else v) s.dist.dsusp
  let s := { s with dist := { s.dist with dsusp := dsusp } }
  let accounts : Tbl Account := (sectionOf img 6 32).zipIdx.map fun (e, i) =>
    (i, { ctx := bytesAt e 0 2, res := bytesAt e 2 2, share := bytesAt e 4 2, hard := bytesAt e 6 2 == 1, node := BitVec.ofNat 64 (bytesAt e 8 8)
          limit := bytesAt e 16 8 })
  let s := { s with accounts := accounts }
  let queues := sectionOf img 2 64
  let owner (q : Nat) : List Byte := (queues.find? fun e => bytesAt e 42 2 == q).getD []
  let grids := sectionOf img 3 512
  let s := (sectionOf img 4 32).foldl (fun s e => s.loadTask e) s
  let s := grids.foldl (fun s e => s.loadGrid e (owner (bytesAt e 264 2))) s
  let s := queues.foldl (fun s e => s.loadQueue e) s
  ((sectionOf img 5 32).foldl (fun s e => s.loadTeam (grids.map fun g => bytesAt g 290 2) e) s).rejoinGrids

/-- The saved teams of an image are readmitted in its order (R47 step 6): those that were pre-empted, and the parked ones of which an event
has fired. -/
def State.readmitSaved (s : State) : State :=
  (tkeys s.teams fun _ _ => true).foldl (fun s k =>
    if (s.teamAt k).state == .parked then s.wakeParked k else s.readmitUnit k) s

/-- RESTORE_DONE (R47): the image is loaded and the restore enters Resume; one whose header is wrong ends FAILED with nothing
restored. -/
def execRestoreDone (s : State) : Host.Outcome State Fault Refusal :=
  let ck := s.peer.ck
  if ck.state != .restore then .next s
  else
    let base := fld ck.image.toNat 49 16 * 65536
    let (s, h) := s.readNow base 4096
    let len := bytesAt h 16 8
    if bytesAt h 0 2 != 1 || len > 32 * 2 ^ 20 then .next (s.ckFinish false)
    else
      let (s, img) := s.readNow base len
      .next (((s.uncarried.loadImage img).readmitSaved).ckFinish true)

end Sys2Proof.Machine
end

