-- ==== Sys2Proof/Machine/HostRegs.lean ====
section
/-! DEFINITION. Host accesses to BAR0 (R7, R8, R44, R54, R61, R73, R82, R83, R94, R96, R140, R154, R194, R258, R461) and the reset of the
physical function (R74). -/
namespace Sys2Proof.Machine

/-- The state that an outcome gives, or the one before it. -/
def State.after (s : State) (o : Host.Outcome State Fault Refusal) : State := match o with | .next t => t | _ => s

/-! ## Writes -/

/-- A write of a register of R54's block. DESIGN CHOICE: one of CXRWI, which is read-only, changes nothing and sets no ERR (log
entry 107). -/
def State.writeCx (s : State) (c k : Nat) (v : W64) : State :=
  let x := s.ctxAt c
  let va : W64 := BitVec.ofNat 64 (bits v.toNat 51 12)
  match k with
  | 0 => s.cxctlWrite c (v.setWidth 32)
  | 1 => if x.en then s.ctxError c else s.setCtx c { x with ptb := BitVec.ofNat 64 (bits v.toNat 49 12) }
  | 2 => if x.en then s.ctxError c else s.setCtx c { x with rcb := BitVec.ofNat 64 (bits v.toNat 51 8) }
  | 3 => if x.en then s.ctxError c else s.setCtx c { x with hbase := va }
  | 4 => if x.en then s.ctxError c else s.setCtx c { x with hlim := va }
  | 5 => if x.en then s.ctxError c else s.setCtx c { x with rqb := va }
  | 6 =>
    let msiv := fld v.toNat 26 16
    if x.en && msiv ≥ vectorsOf x.func then s.ctxError c else s.setCtx c { x with msiv := msiv, log2 := fld v.toNat 4 0 }
  | 7 => s
  | 8 => s.cxrriWrite c (v.setWidth 32)
  | _ => s.setCtx c { x with ovf := x.ovf && !v.getLsbD 1, err := x.err && !v.getLsbD 0 }

/-- A write of a register of R258's block. -/
def State.writeSp (s : State) (func c k : Nat) (v : W64) : State :=
  let x := s.ctxAt c
  let w : W32 := v.setWidth 32
  match k with
  | 0 => if x.en then s.ctxError c else s.setCtx c { x with spbase := BitVec.ofNat 64 (bits v.toNat 49 16) }
  | 1 => if x.en then s.ctxError c else s.setCtx c { x with spsize := fld v.toNat 19 0 }
  | 2 => s
  | 3 => s.setCtx c { x with tinvva := BitVec.ofNat 64 (bits v.toNat 51 12) }
  | 4 => s.setCtx c { x with tinvn := BitVec.ofNat 32 (fld v.toNat 19 0) }
  | 5 => s.after (execTlbInvalidate func c w s)
  | 6 => s.dfresp func c w (w.getLsbD 16)
  | _ => if w.getLsbD 0 then s.after (execDebugHalt func c w s) else s.after (execDebugRelease func c w s)

/-- A write of a register of R61's block: QBASE and QCFG only while the queue is Off. -/
def State.writeQueue (s : State) (q k : Nat) (v : W64) : State :=
  let x := s.queueAt q
  match k with
  | 0 => s.qctlWrite q (v.setWidth 32)
  | 2 => if x.state == .off then s.setQueue q { x with qbase := BitVec.ofNat 64 (bits v.toNat 51 12) } else s
  | 3 => if x.state == .off then s.setQueue q { x with log2 := fld v.toNat 4 0 } else s
  | _ => s

/-- The highest source code of a block of event counters (R97). -/
def lastSource (block : Nat) : Nat := if block < 384 then 15 else if block < 480 then 9 else 5

/-- A write of a select register (R96): one that names a reserved source is ignored. -/
def State.writeSelect (s : State) (block k : Nat) (v : W32) : State :=
  let key := 8 * block + k
  let src := fld v.toNat 7 0
  if src > lastSource block then s
  else
    let c := s.cycleCount key (tgetD s.counters key { since := s.time })
    { s with counters := tset s.counters key { c with en := v.getLsbD 31, ovf := c.ovf && !v.getLsbD 30, src := src } }

/-- A count register is preset (R96). -/
def State.writeCount (s : State) (block k : Nat) (v : W64) : State :=
  let key := 8 * block + k
  let c := s.cycleCount key (tgetD s.counters key { since := s.time })
  { s with counters := tset s.counters key { c with count := v.setWidth 48 } }

/-- An inbound window with one of its registers replaced (R44). -/
def State.setWindow (s : State) (e : Nat) (f : Window → Window) : State :=
  { s with peer := { s.peer with windows := tset s.peer.windows e (f (tgetD s.peer.windows e {})) } }

/-- A word of a byte string replaced. -/
def setWord (bs : List Byte) (i : Nat) (v : Nat) : List Byte := bs.take (4 * i) ++ leBytes 4 v ++ bs.drop (4 * i + 4)

/-- A write of a whole register under the access codes of its fields (R7, R8) and its own rules. -/
def State.writeReg (s : State) (func : Nat) (r : Reg) (v : W64) : State :=
  let n := v.toNat
  let w : W32 := v.setWidth 32
  match r with
  | .bar4off => { s with host := { s.host with bar4off := BitVec.ofNat 64 (bits n 49 30) } }
  | .cx c k => s.writeCx c k v
  | .queue q k => s.writeQueue q k v
  | .prito => { s with host := { s.host with prito := fld n 15 0 } }
  | .sp c k => s.writeSp func c k v
  | .dsusp => (s.suspend v).unsuspend (~~~ v)
  | .pinb k => s.after (execPinTableWrite (0x520000 + 16 * k) 8 v s)
  | .pinl k => s.after (execPinTableWrite (0x520008 + 16 * k) 8 v s)
  | .pinstat => { s with pinErr := s.pinErr && !v.getLsbD 0 }
  | .badLine sl e => if v.getLsbD 63 then s.after (execBadLineClear sl e s) else s
  | .bltstat sl => let x := s.slice sl; s.setSlice sl { x with badFull := x.badFull && !v.getLsbD 8 }
  | .pctl p => s.pctlWrite p w
  | .pwgt p => s.after (execPwgtWrite p w s)
  | .pdevid => s.after (execPdevidWrite w s)
  | .peerRoute d =>
    { s with peer := { s.peer with routes := tset s.peer.routes d (BitVec.ofNat 32 (bits n 31 31 + bits n 11 7 + bits n 3 0)) } }.holdRoutes
  | .ckctl => s.ckctlWrite w
  | .cklist => s.setCk { s.peer.ck with list := v }
  | .ckstate => s.setCk { s.peer.ck with image := BitVec.ofNat 64 (bits n 49 16) }
  | .iwbase e => s.setWindow e fun x => { x with base := BitVec.ofNat 64 (bits n 63 63 + bits n 49 12) }
  | .iwlim e => s.setWindow e fun x => { x with lim := BitVec.ofNat 64 (bits n 49 12) }
  | .iwsrc e => s.setWindow e fun x => { x with src := BitVec.ofNat 32 (bits n 29 16 + bits n 13 0) }
  | .iwperm e => s.setWindow e fun x => { x with perm := BitVec.ofNat 32 (bits n 4 0) }
  | .bootst => s.bootstWrite w
  | .bgov => { s with governor := { s.governor with en := v.getLsbD 6, maxcl := min 48 (fld n 5 0) } }
  | .nonce i =>
    { s with boot := { s.boot with nonce := BitVec.ofNat 384 (leNat (setWord (leBytes 48 s.boot.nonce.toNat) i w.toNat)), attDone := false } }
  | .attgo => if v.getLsbD 0 then s.after (execAttestationGo s) else s
  | .window i => { s with boot := { s.boot with window := cwrite s.boot.window (4 * i) (leBytes 4 w.toNat) } }
  | .select b k => s.writeSelect b k w
  | .count b k => s.writeCount b k v
  | .tag _ _ | .dft _ _ | .dptr | .route _ _ _ | .epstat _ | .accown _ | .accspl _ | .pstat _ | .cap0 | .cap1 | .therm | .bcl _ | .sensor _
  | .attdone | .report _ | .key _ => s

/-- Whether a register takes 64-bit writes only (R461). -/
def Reg.whole : Reg → Bool
  | .pinb _ | .pinl _ => true
  | _ => false

/-- What a register holds of a half that a 32-bit write leaves unchanged: none of a bit that a 1 would act on (R7). -/
def State.keptHalf (s : State) (r : Reg) : Nat :=
  match r with
  | .badLine _ _ => 0
  | _ => s.regValue r

/-- An aligned 32-bit write (R461): of a register of that width, or of one half of a 64-bit one. -/
def State.write32 (s : State) (func off : Nat) (v : W32) : State :=
  match regAt func off with
  | none => s
  | some (r, base) =>
    if !s.inService r || !s.visible func r then s
    else if r.whole then { s with pinErr := true }
    else if !r.wide then s.writeReg func r (v.setWidth 64)
    else s.writeReg func r (BitVec.ofNat 64 (merge64 (s.keptHalf r) (off - base) 4 (v.setWidth 64)))

/-- An aligned 64-bit write (R461): of a register of that width, or of two 32-bit ones in ascending order. -/
def State.write64 (s : State) (func off : Nat) (v : W64) : State :=
  match regAt func off with
  | some (r, base) =>
    if r.wide && base == off then
      if !s.inService r || !s.visible func r then s else s.writeReg func r v
    else (s.write32 func off (v.setWidth 32)).write32 func (off + 4) (v.extractLsb' 32 32)
  | none => s.write32 func (off + 4) (v.extractLsb' 32 32)

/-- A write of a submission page (R51, R52, R62): of QWIN, at offset 0 and 32 bits wide, where the function has the queue. -/
def State.writePage (s : State) (func off width : Nat) (v : W32) : State :=
  if off % 4096 == 0 && width == 4 && s.queueTouch func (off / 4096) then s.qwin (off / 4096) v else s

/-- A write of the Resizable BAR control of the physical function (R51): bits [13:8] give BAR4's size as a power of two of MiB. -/
def State.sizeBar4 (s : State) (v : W32) : State :=
  let n := 20 + fld v.toNat 13 8
  if 30 ≤ n && n ≤ 40 then { s with host := { s.host with bar4bits := n } } else s

/-- REGISTER_WRITE (R7, R8, R51, R461): a host write to a BAR of a function: an access of 128 bits acts as two of 64, other widths
and unaligned accesses are ignored. BAR 16 stands for the Resizable BAR control (PRESUMED, log entry 115). -/
def execRegisterWrite (func : Nat) (place : BarPlace) (width : Nat) (value : BitVec 128) (s : State) : Host.Outcome State Fault Refusal :=
  if !s.linkUp || place.off % max width 1 != 0 then .next s
  else if place.bar == 16 then .next (if func == 0 && width == 4 && place.off == 0 then s.sizeBar4 (value.setWidth 32) else s)
  else if place.bar == 2 then .next (if s.bar0Open then s.writePage func place.off width (value.setWidth 32) else s)
  else if place.bar != 0 then .next s
  else if width == 4 then .next (s.write32 func place.off (value.setWidth 32))
  else if width == 8 then .next (s.write64 func place.off (value.setWidth 64))
  else if width == 16 then .next ((s.write64 func place.off (value.setWidth 64)).write64 func (place.off + 8) (value.extractLsb' 64 64))
  else .next s

/-! ## Reads -/

/-- The RC fields of a register after a read of it, or of its low half (R7). -/
def State.clearRead (s : State) (r : Reg) : State :=
  match r with
  | .cx c 9 => s.setCtx c { s.ctxAt c with lost := 0 }
  | .epstat p => { s with power := { s.power with portCount := tset s.power.portCount p 0 } }
  | .pstat n => s.setPort n { s.port n with replays := 0, corr := 0 }
  | _ => s

/-- An aligned 32-bit read: the value, and the state with the RC fields of that half cleared (R7, R461). -/
def State.read32 (s : State) (func off : Nat) : State × Nat :=
  match regAt func off with
  | none => (s, 0)
  | some (r, base) =>
    if !s.inService r || !s.visible func r then (s, 0)
    else (s.clearRead r, s.regValue r / 2 ^ (8 * (off - base)) % 2 ^ 32)

/-- A read of a number of 32-bit words in ascending order. -/
def State.readWords (s : State) (func off : Nat) : Nat → State × List Byte
  | 0 => (s, [])
  | n + 1 =>
    let (s, v) := s.read32 func off
    let (s, bs) := s.readWords func (off + 4) n
    (s, leBytes 4 v ++ bs)

/-- What a read of a submission page returns (R52, R62): QWI for QWIN of a queue that the function has, else zero. -/
def State.readPage (s : State) (func off width : Nat) : List Byte :=
  if off % 4096 == 0 && width == 4 && s.bar0Open && s.queueTouch func (off / 4096) then leBytes 4 (s.queueAt (off / 4096)).qwi.toNat
  else List.replicate width 0

/-- READ_TO_CLEAR (R7, R51, R461): a host read of a BAR of a function returns the fields, and clears the RC fields it returns.
Other widths and unaligned accesses read zero. Without the link no access reaches the device (R22). -/
def execReadToClear (func : Nat) (place : BarPlace) (width : Nat) (s : State) : Host.Outcome State Fault Refusal :=
  let ok := (width == 4 || width == 8 || width == 16) && place.off % width == 0
  if !s.linkUp then .next s
  else
    let (s, bs) := if place.bar == 16 then (s, leBytes 4 ((s.host.bar4bits - 20) * 256))
      else if place.bar == 2 then (s, s.readPage func place.off width)
      else if ok && place.bar == 0 then s.readWords func place.off (width / 4) else (s, List.replicate width 0)
    .next { s with host := { s.host with readBytes := bs } }

/-! ## The reset of the physical function (R74) -/

/-- The peer link registers return to their reset values, and every port goes Down with the effects of R43: what still waits to
be sent completes FAILED. -/
def State.resetPeer (s : State) : State :=
  let ck := s.peer.ck.state
  let s := if ck == .quiesce || ck == .stream then s.ckFinish false else s
  let s := (List.range 16).foldl (fun (s : State) n => if (s.port n).state == .down then s else s.portLost n .down) s
  let items := (s.peer.ports.flatMap fun e => e.2.waiting) ++ s.peer.holds.flatMap fun h => h.held
  let s := items.foldl (fun (s : State) i => s.peerDone 0 i.owner 3 []) s
  { s with peer := {} }

/-- FLR_PF (R74). -/
def execFlrPf (s : State) : Host.Outcome State Fault Refusal :=
  let s := (s.flr 0).resetPeer
  .next { s with host := { s.host with bar4off := 0 } }

end Sys2Proof.Machine
end

