-- ==== Sys2Proof/Machine/Lane.lean ====
section
/-! DEFINITION. Lane exchange (R372 to R379): the instructions that read other lanes' values. Each reads every source
lane as its first beat enters the pipe. -/
namespace Sys2Proof.Machine

/-- The timing of the lane-exchange row (R213). -/
def laneTiming (_ : Ctx) : Timing := ⟨.valu, 8, 1, false⟩
/-- The timing of MATCH (R213). -/
def matchTiming (_ : Ctx) : Timing := ⟨.valu, 12, 1, false⟩
/-- The timing of LRED and LSCAN (R213). -/
def reduceTiming (_ : Ctx) : Timing := ⟨.valu, 14, 1, false⟩

/-- The FMT and CNT of A, or the ET in force where A has no tag (R372). -/
def Ctx.exchangeTag (c : Ctx) (x : Code) : Nat × Nat := (c.tag x).getD (c.et, 0)

/-- The source lane of SHFL (R373). -/
def shflLane (fn lane b : Nat) : Nat :=
  match fn with
  | 0 => b
  | 1 => if b > lane then lane else lane - b
  | 2 => if lane + b > 63 then lane else lane + b
  | _ => lane ^^^ b

/-- SHFL (R373). -/
def execShfl (o : Operands) (s : State) : Host.Outcome State Fault Refusal :=
  runAlu 0x28 o laneTiming s fun c => do
    let a := c.rawSrc o.a
    let b := raw32 o.b
    c.check true [a, b] o.d c.wide
    let (fmt, cnt) := c.exchangeTag o.a
    let uni := c.uniformSrc a && c.isUniform o.b
    let f (l : Nat) : Nat := c.value a o (shflLane o.fn.toNat l (c.value b o l c.readAt % 64)) c.readAt
    let e ← c.result o.d c.wide fmt cnt (if uni then .uni (f 0) else .lanes f) c.mask
    .ok { e with uniform := uni }

/-- BCAST (R374). -/
def execBcast (o : Operands) (s : State) : Host.Outcome State Fault Refusal :=
  runAlu 0x29 o laneTiming s fun c => do
    let a := c.rawSrc o.a
    c.check true [a, raw32 o.b] o.d c.wide
    let (fmt, cnt) := c.exchangeTag o.a
    let e ← c.result o.d c.wide fmt cnt (.uni (c.value a o (c.value (raw32 o.b) o (lowLane c.f.mask) c.readAt % 64) c.readAt)) c.mask
    .ok { e with uniform := c.uniformSrc a && c.isUniform o.b }

/-- The bytes of PERM (R375): byte `i` of the result from the eight bytes `x` and the selectors `sel`. -/
def permByte (sx : Bool) (x sel i : Nat) : Nat :=
  let k := sel / 16 ^ i % 16
  let y := x / 256 ^ (k % 8) % 256
  if k < 8 then y else if sx && y ≥ 128 then 255 else 0

/-- PERM (R375). -/
def execPerm (o : Operands) (s : State) : Host.Outcome State Fault Refusal :=
  runAlu 0x2E o laneTiming s fun c => do
    let ss := [o.a, o.b, o.c].map raw32
    c.check true ss o.d false
    let (fmt, _) := c.rawTag (ss.take 2) false 1
    let cnt := c.count fmt ((ss.take 2).filter fun x => match c.tag x.code with | some (g, _) => !is64 g | none => false)
    c.elementwise o ss o.d false fmt (if elemCount fmt > 1 then cnt else 0) none true 0 fun _ _ v =>
      let x := v.getD 0 0 + 2 ^ 32 * v.getD 1 0
      (packElems 8 ((List.range 4).map fun i => permByte (o.fn == 1#5) x (v.getD 2 0) i), 0)

/-- The values of A in the lanes of the effective mask, ascending, as elements. -/
def Ctx.laneElems (c : Ctx) (o : Operands) (a : Src) (n w : Nat) : List (Nat × List Nat) :=
  (lanesOf c.mask).map fun l =>
    let v := c.value a o l c.readAt
    (l, (List.range n).map fun k => elemBits w v k)

/-- An integer reduction operation of LRED and LSCAN on exact values (R376): indices 0 to 5. -/
def redInt (op w : Nat) (sg : Bool) (xs : List Int) : Int :=
  match op with
  | 0 => xs.foldl (· + ·) 0
  | 1 => match xs with | [] => intMax sg w | x :: r => r.foldl min x
  | 2 => match xs with | [] => intMin sg w | x :: r => r.foldl max x
  | 3 => ((xs.map (wrapInt w)).foldl (· &&& ·) (2 ^ w - 1) : Nat)
  | 4 => ((xs.map (wrapInt w)).foldl (· ||| ·) 0 : Nat)
  | _ => ((xs.map (wrapInt w)).foldl (· ^^^ ·) 0 : Nat)

/-- The integer reduction delivered in the format of the ET (R376): `.add` is wrapped, or clamped once under SAT. -/
def Ctx.redIntElem (c : Ctx) (op : Nat) (xs : List Nat) : Nat :=
  let w := elemWidth c.et
  let sg := isSigned c.et
  let x := redInt op w sg (xs.map fun v => intVal sg w v)
  if op == 0 then deliverInt c.sat sg w x else wrapInt w x

/-- One rounded add of packed elements with a stochastic state: the elements, the flags and the state after (R376). -/
def addElems (f : BinFmt) (m : FMode) (st : W32) (a b : List Nat) : List Nat × Flags × W32 :=
  (a.zip b).foldl (fun (acc, fl, st) (x, y) =>
    let st' := if m.rm == 5 then stepSr st else st
    let (r, fl') := fAdd f m (st'.toNat % 2 ^ 24) false x y
    (acc ++ [r], fl ||| fl', st')) ([], 0, st)

/-- One level of the tree of R376: pairs of adjacent nodes, each present or absent. -/
def treeLevel (f : BinFmt) (m : FMode) (st : W32) (fl : Flags) : List (Option (List Nat)) → List (Option (List Nat)) × Flags × W32
  | a :: b :: r =>
    match a, b with
    | some x, some y =>
      let (z, fl', st') := addElems f m st x y
      let (zs, fl'', st'') := treeLevel f m st' (fl ||| fl') r
      (some z :: zs, fl'', st'')
    | some x, none => let (zs, fl', st') := treeLevel f m st fl r; (some x :: zs, fl', st')
    | none, y => let (zs, fl', st') := treeLevel f m st fl r; (y :: zs, fl', st')
  | l => (l, fl, st)

/-- `k` levels of the tree. -/
def treeFold (f : BinFmt) (m : FMode) : Nat → W32 → Flags → List (Option (List Nat)) → List (Option (List Nat)) × Flags × W32
  | 0, st, fl, l => (l, fl, st)
  | k + 1, st, fl, l =>
    let (l', fl', st') := treeLevel f m st fl l
    treeFold f m k st' fl' l'

/-- Element by element, FMIN or FMAX of packed values with their flags. -/
def minMaxElems (f : BinFmt) (ftz isMax : Bool) (a b : List Nat) : List Nat × Flags :=
  let rs := (a.zip b).map fun (x, y) => fMinMax f ftz isMax x y
  (rs.map (·.1), rs.foldl (fun a r => a ||| r.2) 0)

/-- The ETs that a reduction operation allows (R376). -/
def Ctx.redEt (c : Ctx) (op : Nat) : Bool := if op ≤ 5 then c.et ≤ 3 else c.fpEt

/-- The source of LRED and LSCAN under an operation (R376). -/
def Ctx.redSrc (c : Ctx) (o : Operands) (op : Nat) : Src := if op ≤ 5 then c.intSrc o.a else c.fSrc o.a

/-- The reduction of LRED (R376): its elements, its flags, and the stochastic state of the lowest lane after it. -/
def Ctx.lred (c : Ctx) (o : Operands) : List Nat × Flags × W32 :=
  let op := o.fn.toNat
  let a := c.redSrc o op
  let n := 2 ^ c.count c.et [a]
  let els := c.laneElems o a n (elemWidth c.et)
  let m := c.fmode
  let snan := els.foldl (fun fl e => fl ||| snanFlag (e.2.map (elemVal c.et))) 0
  let l0 := lowLane c.mask
  let (res, fl, st) : List Nat × Flags × W32 :=
    if op ≤ 5 then ((List.range n).map fun k => c.redIntElem op (els.map fun e => e.2.getD k 0), 0, c.g.sr.getD l0 0)
    else if op == 6 then
      let nodes := (List.range 64).map fun l => (els.find? fun e => e.1 == l).map (·.2)
      let (l, fl, st) := treeFold c.bfmt m 6 (c.srAt l0 c.readAt) 0 nodes
      ((l.getD 0 none).getD [], fl ||| snan, st)
    else
      match els with
      | [] => ([], 0, 0)
      | e :: r =>
        let (x, fl) := r.foldl (fun (x, fl) e => let (y, g) := minMaxElems c.bfmt c.ftz (op == 8) x e.2; (y, fl ||| g)) (e.2, 0)
        (x, fl ||| snan, 0)
  (res, fl ||| litFlag o [a], st)

/-- The step of the stochastic state that LRED makes (R376): that of the lowest lane, under `.add` of a floating format. -/
def Ctx.lredStep (c : Ctx) (o : Operands) : Option (Nat → W32 → W32) :=
  if o.fn.toNat == 6 && c.rm == 5 && c.mask != 0 then some fun l x => if l == lowLane c.mask then (c.lred o).2.2 else x else none

/-- LRED (R376). -/
def execLred (o : Operands) (s : State) : Host.Outcome State Fault Refusal :=
  runAlu 0x2A o reduceTiming s fun c => do
    let a := c.redSrc o o.fn.toNat
    c.check (c.redEt o.fn.toNat) [a] o.d c.wide
    let (res, fl, _) := c.lred o
    let e ← c.result o.d c.wide c.et (c.count c.et [a]) (.uni (packElems (elemWidth c.et) res)) c.mask
    .ok { e with uniform := c.uniformSrc a
                 sr := c.lredStep o
                 flags := if fl == 0 then [] else (lanesOf c.mask).map fun l => (l, fl) }

/-- The identity element of an exclusive scan (R377). -/
def scanIdentity (f : BinFmt) (op et : Nat) : Nat :=
  let w := elemWidth et
  match op with
  | 1 => wrapInt w (intMax (isSigned et) w)
  | 2 => wrapInt w (intMin (isSigned et) w)
  | 3 => 2 ^ w - 1
  | 6 => f.signBit
  | 7 => f.inf false
  | 8 => f.inf true
  | _ => 0

/-- The fold of LSCAN over the lanes of the mask, ascending: for each lane its value, flags and stochastic state. `acc`
is the prefix below the lane; `prev` the values below it that are not yet folded in, for the exclusive form. -/
def scanFold (c : Ctx) (op : Nat) (ex : Bool) (n : Nat) :
    List (Nat × List Nat) → List (List Nat) → Option (List Nat) → List (Nat × List Nat × Flags × Option W32)
  | [], _, _ => []
  | (l, v) :: r, below, acc =>
    let vals := if ex then below else below ++ [v]
    let add : List Nat × Flags × Option W32 :=
      if op ≤ 5 then
        if vals.isEmpty then (List.replicate n (scanIdentity c.bfmt op c.et), 0, none)
        else ((List.range n).map fun k => c.redIntElem op (vals.map fun x => x.getD k 0), 0, none)
      else
        let last := if ex then below.getLast? else some v
        match acc, last with
        | none, none => (List.replicate n (scanIdentity c.bfmt op c.et), 0, none)
        | none, some x => (x, if op ≥ 7 then snanFlag (x.map (elemVal c.et)) else 0, none)
        | some p, some x =>
          if op == 6 then
            let (y, fl, st) := addElems c.bfmt c.fmode (c.srAt l c.readAt) p x
            (y, fl, some st)
          else
            let (y, fl) := minMaxElems c.bfmt c.ftz (op == 8) p x
            (y, fl, none)
        | some p, none => (p, 0, none)
    let acc' := if ex && below.isEmpty then none else some add.1
    (l, add) :: scanFold c op ex n r (below ++ [v]) acc'

/-- The scan of LSCAN (R377): for each lane of the effective mask its elements, flags and stochastic state. -/
def Ctx.lscan (c : Ctx) (o : Operands) : List (Nat × List Nat × Flags × Option W32) :=
  let op := o.fn.toNat % 16
  let a := c.redSrc o op
  let n := 2 ^ c.count c.et [a]
  scanFold c op (o.fn.toNat ≥ 16) n (c.laneElems o a n (elemWidth c.et)) [] none

/-- What LSCAN delivers in a lane (R377). -/
def Ctx.lscanLane (c : Ctx) (o : Operands) (l : Nat) : Nat × Flags :=
  match (c.lscan o).find? fun r => r.1 == l with
  | some r => (packElems (elemWidth c.et) r.2.1, r.2.2.1 ||| litFlag o [c.redSrc o (o.fn.toNat % 16)])
  | none => (0, 0)

/-- The steps of the stochastic states that LSCAN makes (R377): those of the lanes that add. -/
def Ctx.lscanStep (c : Ctx) (o : Operands) : Option (Nat → W32 → W32) :=
  if o.fn.toNat % 16 == 6 && c.rm == 5 then
    some fun l x => match (c.lscan o).find? fun r => r.1 == l with | some (_, _, _, some st) => st | _ => x
  else none

/-- LSCAN (R377). -/
def execLscan (o : Operands) (s : State) : Host.Outcome State Fault Refusal :=
  runAlu 0x2B o reduceTiming s fun c => do
    let a := c.redSrc o (o.fn.toNat % 16)
    c.check (c.redEt (o.fn.toNat % 16)) [a] o.d c.wide
    let e ← c.result o.d c.wide c.et (c.count c.et [a]) (.lanes fun l => (c.lscanLane o l).1) c.mask
    .ok { e with
      sr := c.lscanStep o
      flags := (lanesOf c.mask).filterMap fun l =>
        let fl := (c.lscanLane o l).2
        if fl == 0 then none else some (l, fl) }

/-- VOTE (R378). -/
def execVote (o : Operands) (s : State) : Host.Outcome State Fault Refusal :=
  runAlu 0x2C o voteTiming s fun c =>
    if c.hazard [] [o.a.toNat] then .error .hazard
    else
      let m := c.g.predAt c.seed o.a.toNat c.readAt &&& c.mask
      let b := match o.fn.toNat with
        | 0 => m == c.mask
        | 1 => m != 0
        | _ => m == 0 || m == c.mask
      .ok { preds := [(o.d.toNat, if b then fullMask else 0, c.mask)] }

/-- MATCH (R379). -/
def execMatchLanes (o : Operands) (s : State) : Host.Outcome State Fault Refusal :=
  runAlu 0x2D o matchTiming s fun c => do
    let a := c.rawSrc o.a
    c.check true [a] o.d true
    let vs := (List.range 64).map fun l => c.value a o l c.readAt
    let f (l : Nat) : Nat := (maskOf fun k => inMask c.mask k && vs.getD k 0 == vs.getD l 0).toNat
    let uni := c.uniformSrc a
    let e ← c.result o.d true 3 0 (if uni then .uni c.mask.toNat else .lanes f) c.mask
    .ok { e with uniform := uni }

end Sys2Proof.Machine
end

