-- ==== Sys2Proof/Machine/Families.lean ====
section
/-! DEFINITION. The families of meanings, gathered for the dispatch. -/
end

