-- ==== Sys2Proof/Machine/Dispatch.lean ====
section
/-! DEFINITION. The one dispatch: an arm for each step, in the order of Syntax. -/
namespace Sys2Proof.Machine

/-- What a step does: the meaning of its constructor. -/
def exec (i : Instr) (s : State) : Host.Outcome State Fault Refusal :=
  match i with
  | .nop o => Sys2Proof.Machine.execNop o s
  | .mode o => Sys2Proof.Machine.execMode o s
  | .bra o => Sys2Proof.Machine.execBra o s
  | .braLabel o => Sys2Proof.Machine.execBraLabel o s
  | .br o => Sys2Proof.Machine.execBr o s
  | .join o => Sys2Proof.Machine.execJoin o s
  | .brx o => Sys2Proof.Machine.execBrx o s
  | .call o => Sys2Proof.Machine.execCall o s
  | .callLabel o => Sys2Proof.Machine.execCallLabel o s
  | .ret o => Sys2Proof.Machine.execRet o s
  | .exit o => Sys2Proof.Machine.execExit o s
  | .yield o => Sys2Proof.Machine.execYield o s
  | .trap o => Sys2Proof.Machine.execTrap o s
  | .rft o => Sys2Proof.Machine.execRft o s
  | .rdsr o => Sys2Proof.Machine.execRdsr o s
  | .wrsr o => Sys2Proof.Machine.execWrsr o s
  | .boost o => Sys2Proof.Machine.execBoost o s
  | .srseed o => Sys2Proof.Machine.execSrseed o s
  | .pset o => Sys2Proof.Machine.execPset o s
  | .plog o => Sys2Proof.Machine.execPlog o s
  | .pmov o => Sys2Proof.Machine.execPmov o s
  | .ballot o => Sys2Proof.Machine.execBallot o s
  | .popm o => Sys2Proof.Machine.execPopm o s
  | .shfl o => Sys2Proof.Machine.execShfl o s
  | .bcast o => Sys2Proof.Machine.execBcast o s
  | .lred o => Sys2Proof.Machine.execLred o s
  | .lscan o => Sys2Proof.Machine.execLscan o s
  | .vote o => Sys2Proof.Machine.execVote o s
  | .matchLanes o => Sys2Proof.Machine.execMatchLanes o s
  | .perm o => Sys2Proof.Machine.execPerm o s
  | .iadd o => Sys2Proof.Machine.execIadd o s
  | .isub o => Sys2Proof.Machine.execIsub o s
  | .imul o => Sys2Proof.Machine.execImul o s
  | .imulh o => Sys2Proof.Machine.execImulh o s
  | .imad o => Sys2Proof.Machine.execImad o s
  | .imin o => Sys2Proof.Machine.execImin o s
  | .imax o => Sys2Proof.Machine.execImax o s
  | .iabs o => Sys2Proof.Machine.execIabs o s
  | .ineg o => Sys2Proof.Machine.execIneg o s
  | .icmp o => Sys2Proof.Machine.execIcmp o s
  | .icvt o => Sys2Proof.Machine.execIcvt o s
  | .bitAnd o => Sys2Proof.Machine.execBitAnd o s
  | .bitOr o => Sys2Proof.Machine.execBitOr o s
  | .bitXor o => Sys2Proof.Machine.execBitXor o s
  | .bitNot o => Sys2Proof.Machine.execBitNot o s
  | .shl o => Sys2Proof.Machine.execShl o s
  | .shr o => Sys2Proof.Machine.execShr o s
  | .sar o => Sys2Proof.Machine.execSar o s
  | .rot o => Sys2Proof.Machine.execRot o s
  | .fshl o => Sys2Proof.Machine.execFshl o s
  | .fshr o => Sys2Proof.Machine.execFshr o s
  | .bfx o => Sys2Proof.Machine.execBfx o s
  | .bfi o => Sys2Proof.Machine.execBfi o s
  | .popc o => Sys2Proof.Machine.execPopc o s
  | .clz o => Sys2Proof.Machine.execClz o s
  | .brev o => Sys2Proof.Machine.execBrev o s
  | .sel o => Sys2Proof.Machine.execSel o s
  | .lea o => Sys2Proof.Machine.execLea o s
  | .adda o => Sys2Proof.Machine.execAdda o s
  | .aff o => Sys2Proof.Machine.execAff o s
  | .fadd o => Sys2Proof.Machine.execFadd o s
  | .fsub o => Sys2Proof.Machine.execFsub o s
  | .fmul o => Sys2Proof.Machine.execFmul o s
  | .fma o => Sys2Proof.Machine.execFma o s
  | .fmin o => Sys2Proof.Machine.execFmin o s
  | .fmax o => Sys2Proof.Machine.execFmax o s
  | .fneg o => Sys2Proof.Machine.execFneg o s
  | .fabs o => Sys2Proof.Machine.execFabs o s
  | .fcmp o => Sys2Proof.Machine.execFcmp o s
  | .fclass o => Sys2Proof.Machine.execFclass o s
  | .frnd o => Sys2Proof.Machine.execFrnd o s
  | .fscale o => Sys2Proof.Machine.execFscale o s
  | .frcp o => Sys2Proof.Machine.execFrcp o s
  | .frsq o => Sys2Proof.Machine.execFrsq o s
  | .fsqrt o => Sys2Proof.Machine.execFsqrt o s
  | .fexp2 o => Sys2Proof.Machine.execFexp2 o s
  | .flog2 o => Sys2Proof.Machine.execFlog2 o s
  | .fsin o => Sys2Proof.Machine.execFsin o s
  | .fcos o => Sys2Proof.Machine.execFcos o s
  | .cvt o => Sys2Proof.Machine.execCvt o s
  | .pack o => Sys2Proof.Machine.execPack o s
  | .unpack o => Sys2Proof.Machine.execUnpack o s
  | .flgrd o => Sys2Proof.Machine.execFlgrd o s
  | .flgclr o => Sys2Proof.Machine.execFlgclr o s
  | .ld o => Sys2Proof.Machine.execLd o s
  | .st o => Sys2Proof.Machine.execSt o s
  | .lds o => Sys2Proof.Machine.execLds o s
  | .sts o => Sys2Proof.Machine.execSts o s
  | .ldx o => Sys2Proof.Machine.execLdx o s
  | .stx o => Sys2Proof.Machine.execStx o s
  | .pref o => Sys2Proof.Machine.execPref o s
  | .atom o => Sys2Proof.Machine.execAtom o s
  | .atoms o => Sys2Proof.Machine.execAtoms o s
  | .red o => Sys2Proof.Machine.execRed o s
  | .waitcnt o => Sys2Proof.Machine.execWaitcnt o s
  | .commit o => Sys2Proof.Machine.execCommit o s
  | .bar o => Sys2Proof.Machine.execBar o s
  | .darrive o => Sys2Proof.Machine.execDarrive o s
  | .dwait o => Sys2Proof.Machine.execDwait o s
  | .garrive o => Sys2Proof.Machine.execGarrive o s
  | .gwait o => Sys2Proof.Machine.execGwait o s
  | .evset o => Sys2Proof.Machine.execEvset o s
  | .evclr o => Sys2Proof.Machine.execEvclr o s
  | .waitany o => Sys2Proof.Machine.execWaitany o s
  | .msend o => Sys2Proof.Machine.execMsend o s
  | .mrecv o => Sys2Proof.Machine.execMrecv o s
  | .xshf o => Sys2Proof.Machine.execXshf o s
  | .trig o => Sys2Proof.Machine.execTrig o s
  | .launch o => Sys2Proof.Machine.execLaunch o s
  | .cpy o => Sys2Proof.Machine.execCpy o s
  | .cpym o => Sys2Proof.Machine.execCpym o s
  | .gath o => Sys2Proof.Machine.execGath o s
  | .scat o => Sys2Proof.Machine.execScat o s
  | .gcsr o => Sys2Proof.Machine.execGcsr o s
  | .stage o => Sys2Proof.Machine.execStage o s
  | .close o => Sys2Proof.Machine.execClose o s
  | .waitb o => Sys2Proof.Machine.execWaitb o s
  | .ldb o => Sys2Proof.Machine.execLdb o s
  | .mfence o => Sys2Proof.Machine.execMfence o s
  | .mma o => Sys2Proof.Machine.execMma o s
  | .mmas o => Sys2Proof.Machine.execMmas o s
  | .accnext o => Sys2Proof.Machine.execAccnext o s
  | .accrd o => Sys2Proof.Machine.execAccrd o s
  | .accwr o => Sys2Proof.Machine.execAccwr o s
  | .epi o => Sys2Proof.Machine.execEpi o s
  | .coll o => Sys2Proof.Machine.execColl o s
  | .dpfx o => Sys2Proof.Machine.execDpfx o s
  | .drle o => Sys2Proof.Machine.execDrle o s
  | .dbit o => Sys2Proof.Machine.execDbit o s
  | .dchk o => Sys2Proof.Machine.execDchk o s
  | .unassignedOpcode op sm q => Sys2Proof.Machine.execUnassignedOpcode op sm q s
  | .powerOnReset => Sys2Proof.Machine.execPowerOnReset s
  | .moduleReset => Sys2Proof.Machine.execModuleReset s
  | .chipletReset run => Sys2Proof.Machine.execChipletReset run s
  | .railUp report => Sys2Proof.Machine.execRailUp report s
  | .railFault rails => Sys2Proof.Machine.execRailFault rails s
  | .standbyPowerRemoved => Sys2Proof.Machine.execStandbyPowerRemoved s
  | .imageVerifyDone image => Sys2Proof.Machine.execImageVerifyDone image s
  | .recoveryGo value => Sys2Proof.Machine.execRecoveryGo value s
  | .baseStageDone => Sys2Proof.Machine.execBaseStageDone s
  | .memoryStageDone => Sys2Proof.Machine.execMemoryStageDone s
  | .clusterCalibrationDone done => Sys2Proof.Machine.execClusterCalibrationDone done s
  | .attnonceWrite nonce => Sys2Proof.Machine.execAttnonceWrite nonce s
  | .attestationGo => Sys2Proof.Machine.execAttestationGo s
  | .attestationDone => Sys2Proof.Machine.execAttestationDone s
  | .clusterRetentionEntry cluster => Sys2Proof.Machine.execClusterRetentionEntry cluster s
  | .clusterWake cluster => Sys2Proof.Machine.execClusterWake cluster s
  | .sliceRetentionEntry slice => Sys2Proof.Machine.execSliceRetentionEntry slice s
  | .sliceWake slice => Sys2Proof.Machine.execSliceWake slice s
  | .loopSample lossTopN lossBottomN => Sys2Proof.Machine.execLoopSample lossTopN lossBottomN s
  | .inletOutOfRange loop => Sys2Proof.Machine.execInletOutOfRange loop s
  | .loopRestored loop => Sys2Proof.Machine.execLoopRestored loop s
  | .sensorSample read => Sys2Proof.Machine.execSensorSample read s
  | .laserModuleLoss module => Sys2Proof.Machine.execLaserModuleLoss module s
  | .boostBoundary watts => Sys2Proof.Machine.execBoostBoundary watts s
  | .permitRefill cluster => Sys2Proof.Machine.execPermitRefill cluster s
  | .exclusionSubperiodEnd => Sys2Proof.Machine.execExclusionSubperiodEnd s
  | .registerWrite func place width value => Sys2Proof.Machine.execRegisterWrite func place width value s
  | .readToClear func place width => Sys2Proof.Machine.execReadToClear func place width s
  | .portEnable port value => Sys2Proof.Machine.execPortEnable port value s
  | .portDisable port value => Sys2Proof.Machine.execPortDisable port value s
  | .portRetrain port value => Sys2Proof.Machine.execPortRetrain port value s
  | .portTrainingDone port => Sys2Proof.Machine.execPortTrainingDone port s
  | .pwgtWrite port value => Sys2Proof.Machine.execPwgtWrite port value s
  | .pdevidWrite value => Sys2Proof.Machine.execPdevidWrite value s
  | .flitSlot port => Sys2Proof.Machine.execFlitSlot port s
  | .flitReceive port flit => Sys2Proof.Machine.execFlitReceive port flit s
  | .goBackNReplay port seq => Sys2Proof.Machine.execGoBackNReplay port seq s
  | .portReplayLimit port => Sys2Proof.Machine.execPortReplayLimit port s
  | .portReceiveTimeout port => Sys2Proof.Machine.execPortReceiveTimeout port s
  | .peerRequestSend port => Sys2Proof.Machine.execPeerRequestSend port s
  | .routeHoldRelease device => Sys2Proof.Machine.execRouteHoldRelease device s
  | .transitPacket port => Sys2Proof.Machine.execTransitPacket port s
  | .peerLoad port => Sys2Proof.Machine.execPeerLoad port s
  | .peerStore port => Sys2Proof.Machine.execPeerStore port s
  | .peerAtomic port => Sys2Proof.Machine.execPeerAtomic port s
  | .peerAtomicNoReturn port => Sys2Proof.Machine.execPeerAtomicNoReturn port s
  | .peerBulkWrite port => Sys2Proof.Machine.execPeerBulkWrite port s
  | .peerCheckpointPage port => Sys2Proof.Machine.execPeerCheckpointPage port s
  | .peerCollectivePacket port => Sys2Proof.Machine.execPeerCollectivePacket port s
  | .peerReservedOp port => Sys2Proof.Machine.execPeerReservedOp port s
  | .peerResponse port => Sys2Proof.Machine.execPeerResponse port s
  | .ckctlGo value => Sys2Proof.Machine.execCkctlGo value s
  | .ckctlAbort value => Sys2Proof.Machine.execCkctlAbort value s
  | .ckctlRestore value => Sys2Proof.Machine.execCkctlRestore value s
  | .checkpointQuiesceDone => Sys2Proof.Machine.execCheckpointQuiesceDone s
  | .checkpointStreamDone => Sys2Proof.Machine.execCheckpointStreamDone s
  | .restoreDone => Sys2Proof.Machine.execRestoreDone s
  | .bar4Read off bytes => Sys2Proof.Machine.execBar4Read off bytes s
  | .bar4Write off data => Sys2Proof.Machine.execBar4Write off data s
  | .contextEnable func ctx value => Sys2Proof.Machine.execContextEnable func ctx value s
  | .contextDisable func ctx value => Sys2Proof.Machine.execContextDisable func ctx value s
  | .recordRingReadIndexWrite func ctx value => Sys2Proof.Machine.execRecordRingReadIndexWrite func ctx value s
  | .heldRecordWrite ctx => Sys2Proof.Machine.execHeldRecordWrite ctx s
  | .atsInvalidation func pasid va pages => Sys2Proof.Machine.execAtsInvalidation func pasid va pages s
  | .atsInvalidationCompletion => Sys2Proof.Machine.execAtsInvalidationCompletion s
  | .prgResponse entry code => Sys2Proof.Machine.execPrgResponse entry code s
  | .priTimeout entry => Sys2Proof.Machine.execPriTimeout entry s
  | .qwinWrite func queue value => Sys2Proof.Machine.execQwinWrite func queue value s
  | .queueCreate func queue value => Sys2Proof.Machine.execQueueCreate func queue value s
  | .queueDestroy func queue value => Sys2Proof.Machine.execQueueDestroy func queue value s
  | .queueStop func queue value => Sys2Proof.Machine.execQueueStop func queue value s
  | .queueAbort func queue value => Sys2Proof.Machine.execQueueAbort func queue value s
  | .queueResume func queue value => Sys2Proof.Machine.execQueueResume func queue value s
  | .recordFetch queue => Sys2Proof.Machine.execRecordFetch queue s
  | .recordFetchComplete queue => Sys2Proof.Machine.execRecordFetchComplete queue s
  | .recordStart queue => Sys2Proof.Machine.execRecordStart queue s
  | .waitAddressPoll queue => Sys2Proof.Machine.execWaitAddressPoll queue s
  | .recordCompletionActions queue => Sys2Proof.Machine.execRecordCompletionActions queue s
  | .flrVf vf => Sys2Proof.Machine.execFlrVf vf s
  | .flrPf => Sys2Proof.Machine.execFlrPf s
  | .flrQueueDestroy queue => Sys2Proof.Machine.execFlrQueueDestroy queue s
  | .gridStart queue => Sys2Proof.Machine.execGridStart queue s
  | .gridReady grid => Sys2Proof.Machine.execGridReady grid s
  | .budgetPeriodBoundary => Sys2Proof.Machine.execBudgetPeriodBoundary s
  | .accountCharge index => Sys2Proof.Machine.execAccountCharge index s
  | .placementDecision => Sys2Proof.Machine.execPlacementDecision s
  | .placementReservation => Sys2Proof.Machine.execPlacementReservation s
  | .groupReady core slot => Sys2Proof.Machine.execGroupReady core slot s
  | .registerRelease core slot => Sys2Proof.Machine.execRegisterRelease core slot s
  | .teamRetire team => Sys2Proof.Machine.execTeamRetire team s
  | .parkEligible team => Sys2Proof.Machine.execParkEligible team s
  | .plazaParkArm team => Sys2Proof.Machine.execPlazaParkArm team s
  | .parkGo team => Sys2Proof.Machine.execParkGo team s
  | .parkSpillDone team => Sys2Proof.Machine.execParkSpillDone team s
  | .dsuspSet value => Sys2Proof.Machine.execDsuspSet value s
  | .dsuspClear value => Sys2Proof.Machine.execDsuspClear value s
  | .preemption team => Sys2Proof.Machine.execPreemption team s
  | .preemptionSpillDone team => Sys2Proof.Machine.execPreemptionSpillDone team s
  | .chipletFenceNotice team => Sys2Proof.Machine.execChipletFenceNotice team s
  | .elevatorPacket message check => Sys2Proof.Machine.execElevatorPacket message check s
  | .elevatorRetireComplete port => Sys2Proof.Machine.execElevatorRetireComplete port s
  | .cutOffChipletReset run => Sys2Proof.Machine.execCutOffChipletReset run s
  | .avenueTokenGrant toSlice channel station => Sys2Proof.Machine.execAvenueTokenGrant toSlice channel station s
  | .pinTableWrite off width value => Sys2Proof.Machine.execPinTableWrite off width value s
  | .pinMoveDone => Sys2Proof.Machine.execPinMoveDone s
  | .readRequest delivery => Sys2Proof.Machine.execReadRequest delivery s
  | .writeRequest message => Sys2Proof.Machine.execWriteRequest message s
  | .writeCompletion message => Sys2Proof.Machine.execWriteCompletion message s
  | .writeThrough message => Sys2Proof.Machine.execWriteThrough message s
  | .writeThroughAck message => Sys2Proof.Machine.execWriteThroughAck message s
  | .tokenRecall message => Sys2Proof.Machine.execTokenRecall message s
  | .tokack message => Sys2Proof.Machine.execTokack message s
  | .tokret message => Sys2Proof.Machine.execTokret message s
  | .gone message => Sys2Proof.Machine.execGone message s
  | .inv message => Sys2Proof.Machine.execInv message s
  | .invAck message => Sys2Proof.Machine.execInvAck message s
  | .lineFree line => Sys2Proof.Machine.execLineFree line s
  | .dramReadReturn read => Sys2Proof.Machine.execDramReadReturn read s
  | .dramWriteAck slice => Sys2Proof.Machine.execDramWriteAck slice s
  | .patrolScrub scrub => Sys2Proof.Machine.execPatrolScrub scrub s
  | .badLineClear slice entry => Sys2Proof.Machine.execBadLineClear slice entry s
  | .copyChunk engine => Sys2Proof.Machine.execCopyChunk engine s
  | .engineOperationComplete operation => Sys2Proof.Machine.execEngineOperationComplete operation s
  | .junctionArrival coll pos => Sys2Proof.Machine.execJunctionArrival coll pos s
  | .partialParkTimeout coll level index => Sys2Proof.Machine.execPartialParkTimeout coll level index s
  | .roundaboutTimeout coll => Sys2Proof.Machine.execRoundaboutTimeout coll s
  | .collectiveNameExpiry coll => Sys2Proof.Machine.execCollectiveNameExpiry coll s
  | .cmtReq message => Sys2Proof.Machine.execCmtReq message s
  | .cmtMark message => Sys2Proof.Machine.execCmtMark message s
  | .cmtAck message => Sys2Proof.Machine.execCmtAck message s
  | .mergeDone message => Sys2Proof.Machine.execMergeDone message s
  | .versionLineWrite delivery => Sys2Proof.Machine.execVersionLineWrite delivery s
  | .versionOverflowTrap core slot => Sys2Proof.Machine.execVersionOverflowTrap core slot s
  | .discardRequest slot => Sys2Proof.Machine.execDiscardRequest slot s
  | .discardComplete slot => Sys2Proof.Machine.execDiscardComplete slot s
  | .icacheFill core slot entry => Sys2Proof.Machine.execIcacheFill core slot entry s
  | .switchMarkerRelease core slot => Sys2Proof.Machine.execSwitchMarkerRelease core slot s
  | .loadDataReturn access => Sys2Proof.Machine.execLoadDataReturn access s
  | .chipletArrayUncorrectable core slot => Sys2Proof.Machine.execChipletArrayUncorrectable core slot s
  | .yieldWaitEnd core slot entry => Sys2Proof.Machine.execYieldWaitEnd core slot entry s
  | .matrixAccept core => Sys2Proof.Machine.execMatrixAccept core s
  | .tileComplete operation => Sys2Proof.Machine.execTileComplete operation s
  | .epiStart core => Sys2Proof.Machine.execEpiStart core s
  | .pageWalk p => Sys2Proof.Machine.execPageWalk p s
  | .dfrespServiced func ctx value => Sys2Proof.Machine.execDfrespServiced func ctx value s
  | .dfrespRefused func ctx value => Sys2Proof.Machine.execDfrespRefused func ctx value s
  | .dftTimeout entry => Sys2Proof.Machine.execDftTimeout entry s
  | .tlbInvalidate func ctx value => Sys2Proof.Machine.execTlbInvalidate func ctx value s
  | .tlbInvalidateDone ctx => Sys2Proof.Machine.execTlbInvalidateDone ctx s
  | .debugHalt func ctx value => Sys2Proof.Machine.execDebugHalt func ctx value s
  | .debugSnapshotDone ctx => Sys2Proof.Machine.execDebugSnapshotDone ctx s
  | .debugRelease func ctx value => Sys2Proof.Machine.execDebugRelease func ctx value s
  | .barrierRelease team => Sys2Proof.Machine.execBarrierRelease team s
  | .districtArrival message => Sys2Proof.Machine.execDistrictArrival message s
  | .gridArrival message => Sys2Proof.Machine.execGridArrival message s
  | .eventFiring core slot index => Sys2Proof.Machine.execEventFiring core slot index s
  | .timerDeadline core slot index => Sys2Proof.Machine.execTimerDeadline core slot index s
  | .flagSet message => Sys2Proof.Machine.execFlagSet message s
  | .mailboxMessageArrival message => Sys2Proof.Machine.execMailboxMessageArrival message s
  | .xshfMatch core slot => Sys2Proof.Machine.execXshfMatch core slot s
  | .xshfTimeout core slot => Sys2Proof.Machine.execXshfTimeout core slot s
  | .trigTaken team => Sys2Proof.Machine.execTrigTaken team s
  | .trigEffect team => Sys2Proof.Machine.execTrigEffect team s
  | .launchAppend message => Sys2Proof.Machine.execLaunchAppend message s
  | .atsTranslationCompletion index ok w x pa => Sys2Proof.Machine.execAtsTranslationCompletion index ok w x pa s
  | .priStoppedClear func => Sys2Proof.Machine.execPriStoppedClear func s
  | .eventCounterWrap block k => Sys2Proof.Machine.execEventCounterWrap block k s

end Sys2Proof.Machine
end

