-- ==== Sys2Proof/Machine/Overtake.lean ====
section
/-! DEFINITION. Reads that a later write overtakes (R314): an instruction issues with the values that stand, and where a
later write of its group is available before one of its beats enters the pipe, what it did is made again with that value. -/
namespace Sys2Proof.Machine

/-- The element of an instruction on the team's own scratchpad, in bytes. -/
def scratchElement (op : Nat) (o : Operands) : Option Nat :=
  match op with
  | 0xA2 => some (loadBytes o.fn.toNat)
  | 0xA3 => some (storeBytes o.fn.toNat)
  | 0xA9 => some (atomBytes o.fn.toNat)
  | _ => none

/-- Whether an opcode's reads are followed after its issue: those of VALU and XU, and the team's own scratchpad. -/
def readsByBeat (op : Nat) : Bool :=
  op == 0xA2 || op == 0xA3 || op == 0xA9 ||
    match pipeOf op with
    | .valu | .xu => true
    | _ => false

/-- Whether an opcode reads every source lane as its first beat enters (R372). -/
def readsAtOnce (op : Nat) : Bool := 0x28 ≤ op && op ≤ 0x2D

/-- When each of the four beats of the instruction that issues enters its pipe, from how long it holds it (R198, R213, R219); for an
exchange of lanes, when the first does (R372). -/
def State.enterTimes (s0 s1 : State) (op : Nat) (o : Operands) (c : Ctx) : List Nat :=
  match scratchElement op o with
  | some n => c.scratchTimes o n
  | none =>
    let until' := tgetD (s1.core c.core).pipes (4 * (c.slot / 32) + (pipeOf op).num) 0
    let per := (until' - s0.time) / max c.slotBeats.length 1
    (List.range 4).map fun b => s0.time + c.beatIndex (if readsAtOnce op then lowLane c.mask else 16 * b) * per

/-- What an instruction would have made of its group and scratchpad, issued as it was. -/
def Reader.rerun (r : Reader) (s : State) : State :=
  let t := { s.teamAt r.group.team with scratch := r.scratch }
  let s' := { s with
    groups := [(slotKey r.cur.core r.cur.slot, r.group)], teams := tset s.teams r.group.team t, accs := [], readers := []
    time := r.time, free := r.free, ids := r.ids, cur := some r.cur }
  match exec r.instr s' with
  | .next x => x
  | _ => s'

/-- The lanes of a write that are available before a reader's beat enters (R314). -/
def Reader.overtaken (r : Reader) (w : Outst) : W64 :=
  maskOf fun l => inMask w.mask l && w.at (l / 16) ≤ r.enter.getD (l / 16) 0

/-- A reader that finds the written value in some lanes of a register; a register that nothing had written passes for any
format. -/
def Reader.sees (r : Reader) (n : Nat) (v : RegVal) (m : W64) : Reader :=
  let g := r.group
  let old := g.reg n
  let old := if old.val == .raw then { old with fmt := (g.mode.extractLsb' 5 4).toNat } else old
  { r with group := { g with
      regs := tset g.regs n { old with val := mergeVal old.val v m }
      outs := g.outs.map fun x => match x.dst with
        | .reg k _ => if k == n then { x with mask := x.mask &&& ~~~ m } else x
        | _ => x } }

/-- The writes that an outstanding list holds after a place, on top of a destination: the latest value of a lane is in the
first later write of the destination that covers it, as what lies beneath it, or in the destination itself. -/
def fixOuts (later : Bool) (d : Nat) (avail : List Nat) (m : W64) (v : RegVal) : List Outst → List Outst × W64
  | [] => ([], if later then m else 0)
  | w :: r =>
    match w.dst with
    | .reg k old =>
      if k != d then
        let x := fixOuts later d avail m v r
        (w :: x.1, x.2)
      else if later then
        let hit := m &&& w.mask
        let x := fixOuts true d avail (m &&& ~~~ hit) v r
        ({ w with dst := .reg k { old with val := mergeVal old.val v hit } } :: x.1, x.2)
      else
        let x := fixOuts (w.avail == avail) d avail m v r
        (w :: x.1, x.2)
    | _ =>
      let x := fixOuts later d avail m v r
      (w :: x.1, x.2)

/-- A group in which an outstanding write of register `d` has other values in some lanes. -/
def Group.fixReg (g : Group) (d : Nat) (avail : List Nat) (m : W64) (v : RegVal) : Group :=
  let (outs, rest) := fixOuts false d avail m v g.outs
  let x := g.reg d
  if rest == 0 then { g with outs := outs } else { g with outs := outs, regs := tset g.regs d { x with val := mergeVal x.val v rest } }

/-- A group in which an outstanding write of predicate `k`, the latest of it, has other values in some lanes. -/
def Group.fixPred (g : Group) (k : Nat) (avail : List Nat) (m x : W64) : Group :=
  let ws := g.outs.filter fun w => match w.dst with | .pred j _ => j == k | _ => false
  let newer := (ws.reverse.takeWhile fun w => w.avail != avail).foldl (fun a w => a ||| w.mask) 0#64
  let m := m &&& ~~~ newer
  { g with preds := lset g.preds k ((g.preds.getD k 0 &&& ~~~ m) ||| (x &&& m)) }

/-- A group in which an outstanding SRSEED, the one that issued with `avail` and `m`, has other states: they stand in the first later
SRSEED's old states, where that covers the lane, or in the group (R289, R356). `before` is what it had made. -/
def Group.fixSr (g : Group) (avail : List Nat) (m : W64) (before after : List W32) : Group :=
  let put (old : List W32) : List W32 := old.zipIdx.map fun (x, l) =>
    if inMask m l && x == before.getD l 0 then after.getD l 0 else x
  let later := (g.outs.dropWhile fun w => !(w.avail == avail && w.mask == m && match w.dst with | .sr _ => true | _ => false)).drop 1
  let keep := g.outs.take (g.outs.length - later.length)
  { g with
    sr := put g.sr
    outs := keep ++ later.map fun w => match w.dst with | .sr old => { w with dst := .sr (put old) } | _ => w }

/-- A list without the first occurrence of each element of another. -/
def eraseAll (l : List FlagEvent) (es : List FlagEvent) : List FlagEvent := es.foldl (fun l e => l.erase e) l

/-- What a reader did is made again: `a` is what it made before, `b` what it makes with the values it now finds. -/
def State.remake (s : State) (r : Reader) (a b : State) : State :=
  let core := r.cur.core
  let slot := r.cur.slot
  match s.group? core slot, a.group? core slot, b.group? core slot with
  | some g, some ga, some gb =>
    let base := r.group.settle r.time
    let new (x : Group) : List FlagEvent := x.flagQueue.drop base.flagQueue.length
    let g := (gb.outs.drop base.outs.length).foldl (fun (g : Group) w => match w.dst with
      | .reg d _ => g.fixReg d w.avail w.mask (gb.reg d).val
      | .pred k _ => g.fixPred k w.avail w.mask (gb.preds.getD k 0)
      | .sr _ => g.fixSr w.avail w.mask ga.sr gb.sr
      | _ => g) g
    let g := if new ga == new gb then g else { g with flagQueue := eraseAll g.flagQueue (new ga) ++ new gb }
    let sa := (a.teamAt g.team).scratch
    let sb := (b.teamAt g.team).scratch
    let s := s.setGroup core slot g
    let s := if sa == sb then s
      else
        let t := s.teamAt g.team
        let scratch := ((sa ++ sb).map fun c => c.1).foldl (fun m x =>
          if cget sa x == cget sb x then m else cset m x (cget sb x)) t.scratch
        s.setTeam g.team { t with scratch := scratch }
    match tget? b.accs r.ids, tget? s.accs r.ids with
    | some y, some x => if x.guid == y.guid then { s with accs := tset s.accs r.ids { x with lanes := y.lanes } } else s
    | _, _ => s
  | _, _, _ => s

/-- A write of register `n` reaches the readers of its group that have yet to read it. -/
def State.overtake (s : State) (core slot uid n : Nat) (w : Outst) (v : RegVal) : State :=
  (List.range s.readers.length).foldl (fun (s : State) i =>
    match s.readers[i]? with
    | none => s
    | some r =>
      let m := r.overtaken w
      if m == 0 || r.cur.core != core || r.cur.slot != slot || r.group.uid != uid then s
      else
        let r' := r.sees n v m
        let s := s.remake r (r.rerun s) (r'.rerun s)
        { s with readers := s.readers.set i r' }) s

/-- After an instruction has issued from state `s0` (R314): its register writes reach the earlier instructions of its group
that have yet to read, and its own later beats are noted. -/
def State.followReads (s1 s0 : State) (core slot : Nat) (i : Instr) : State :=
  match s0.group? core slot, s1.group? core slot, i.word?, s0.ctx? ⟨.ctl, 1, 1, true⟩ with
  | some g0, some g1, some (op, o), some c =>
    if g0.uid != g1.uid || trappedIn s0 s1 core slot then s1
    else
      let news := g1.outs.drop (g0.settle s0.time).outs.length
      let s := news.foldl (fun (s : State) w => match w.dst with
        | .reg n _ => s.overtake core slot g1.uid n w (g1.reg n).val
        | _ => s) s1
      let kept := s.readers.filter fun r => r.enter.any fun t => s.time < t
      if s1.uni || !readsByBeat op then { s with readers := kept }
      else
        let enter := s0.enterTimes s1 op o c
        if enter.all fun t => t ≤ s0.time then { s with readers := kept }
        else
          { s with readers := kept ++ [{ cur := ⟨core, slot, c.entry, c.mate, c.second, c.mateCyc⟩, instr := i, group := g0, free := s0.free
                                         ids := s0.ids, scratch := (s0.teamAt g0.team).scratch, time := s0.time, enter := enter }] }
  | _, _, _, _ => s1

end Sys2Proof.Machine
end

