-- ==== Sys2Proof/Machine/Slot.lean ====
section
/-! DEFINITION. An issue slot of a quadrant (R203, R209 to R211, R254): which fragment issues, and with which second one. -/
namespace Sys2Proof.Machine

/-- The cycles for which a candidate's four beats hold the scratchpad in an instruction (R219). -/
def State.beatCycles (s : State) (core : Nat) (i : Instr) (c : Cand) : List Nat :=
  match i.word?, (s.issuing core c.slot c.entry 0 false).ctx? ⟨.ctl, 1, 1, true⟩ with
  | some (op, o), some x => (scratchElement op o).elim [] fun n => x.beatCycles o n
  | _, _ => []

/-- The state in which a candidate issues beside another one. -/
def State.issuingWith (s : State) (core : Nat) (i : Instr) (c mate : Cand) (from' : State) (second : Bool) : State :=
  s.issuing core c.slot c.entry (from'.beatsOf core mate.slot mate.entry) second (from'.beatCycles core i mate)

/-- The winner and a second candidate issue in one slot (R211, R254); `alone` is the winner's issue by itself, which stands where the
second turns out not to be ready. -/
def State.issuePair (s : State) (core quad : Nat) (i : Instr) (w p : Cand) (alone : State) : Host.Outcome State Fault Refusal :=
  let low := min w.entry p.entry
  let s0 := s.issuingWith core i w p s false
  match exec i s0 with
  | .next s1 =>
    if w.slot == p.slot && trappedIn s s1 core w.slot then .next ((s1.trapLower s core w.slot w.entry low).slotUsed core quad)
    else
      let s1 := s1.followReads s0 core w.slot i
      let s1' := s1.issuingWith core i p w s true
      match exec i s1' with
      | .next s2 =>
        if stalledIn s1' s2 core p.slot p.entry then .next (alone.slotUsed core quad)
        else if w.slot == p.slot && trappedIn s1 s2 core p.slot then
          match exec i (s.issuing core p.slot p.entry 0 false) with
          | .next s3 => .next ((s3.trapLower s core p.slot p.entry low).slotUsed core quad)
          | x => x
        else .next ((s2.followReads s1' core p.slot i).slotUsed core quad)
      | x => x
  | x => x

/-- Whether a candidate may be the second of a slot with an instruction (R203, R211): by itself it is ready, and does not take the uniform
path. -/
def State.shares (s : State) (core : Nat) (i : Instr) (c : Cand) : Bool :=
  let s0 := s.issuing core c.slot c.entry 0 false
  match exec i s0 with
  | .next s' => !s'.uni && !stalledIn s0 s' core c.slot c.entry
  | _ => false

/-- The first of a quadrant's ranked candidates that is ready issues, alone or with a second (R210, R211). -/
def State.issueFirst (s : State) (core quad : Nat) : List Cand → Host.Outcome State Fault Refusal
  | [] => .next { s with cur := none }
  | w :: rest =>
    match w.what with
    | .missing _ => s.issueFirst core quad rest
    | .illegal sub => .next (((s.issuing core w.slot w.entry 0 false).issueIllegal sub).slotUsed core quad)
    | .instr i =>
      let s0 := s.issuing core w.slot w.entry 0 false
      match exec i s0 with
      | .next s1 =>
        if stalledIn s0 s1 core w.slot w.entry then s1.issueFirst core quad rest
        else
          let alone := s1.followReads s0 core w.slot i
          if s1.uni then .next (alone.slotUsed core quad)
          else
            match (s.partners core quad w).find? fun p => s.shares core i p with
            | none => .next (alone.slotUsed core quad)
            | some p => s.issuePair core quad i w p alone
      | x => x

/-- A quadrant's issue slot (R209 to R211): fragments whose waits are over arrive at their joins, and the ready candidate that ranks
first issues. -/
def State.issueSlot (s : State) (core quad : Nat) : Host.Outcome State Fault Refusal :=
  if !(s.core core).pipeFree quad 4 s.time then .next s
  else
    let s := s.settleJoins core quad
    s.issueFirst core quad (rank (s.candidates core quad))

end Sys2Proof.Machine
end

