-- ==== Sys2Proof/Machine/Step.lean ====
section
/-! DEFINITION. One step of the machine: the head of the schedule, an issue slot of a quadrant or an event of the device. -/
namespace Sys2Proof.Machine

/-- One step: time passes up to the head of the schedule, and its issue slot or its event takes place. With an empty
schedule time passes. DESIGN CHOICE, safe: the order of the agents, which the manual leaves open, is the schedule's (log entry 1). -/
def step (s : State) : Host.Outcome State Fault Refusal :=
  match s.sched with
  | [] => .next (s.elapse 1)
  | (dt, a) :: rest =>
    let s1 := { s.elapse dt with sched := rest, cur := none }
    match a with
    | .event i => exec i s1
    | .issue core quad => s1.issueSlot core quad

/-- A context without host-managed pages, a grid with one team of one group of 64 general and 16 compact registers, resident on core 0, and the words
of an instruction in its instruction cache at PC 0: the next step issues it. The longest instruction has three words. How a
program comes to run from reset is in log entry 3. -/
def State.withFetchWord (s : State) (nbits w : Nat) : State :=
  let w := w % 2 ^ nbits
  let words := [BitVec.ofNat 32 w, BitVec.ofNat 32 (w / 2 ^ 32), BitVec.ofNat 32 (w / 2 ^ 64)]
  let core := s.core 0
  { s with
    sched := [(0, .issue 0 0)]
    contexts := tset s.contexts 0 { (s.ctxAt 0) with en := true, hbase := 0x1000 }
    grids := tset s.grids 0 { (s.gridAt 0) with teams := 1, next := 1, ready := true }
    teams := tset s.teams 0 { (s.teamAt 0) with state := .resident, live := 1 }
    tasks := tset s.tasks 0 { (s.taskAt 0) with state := .running }
    groups := tset s.groups 0 { g := 64, c := 16, ready := true, split := [(0, { mask := fullMask, pc := 0 })]
                                sr := (List.range 64).map fun l => BitVec.ofNat 32 (0x6A09E667 + l) }
    cores := tset s.cores 0 { core with icache := [{ ctx := 0, vline := 0, words := words, filled := 0, used := 0 }], pipes := [] } }

end Sys2Proof.Machine
end

