-- ==== Sys2Proof/Safety.lean ====
section
/-! DEFINITION. The terms in which claims are stated: when a fragment issues an instruction, what an instruction's result is,
and what it leaves unchanged. -/
namespace Sys2Proof.Machine

/-! ## Issue -/

/-- The current fragment issues an instruction of opcode `op` with timing `tm`, and `c` is what it sees: its fields name
declared registers (R303), and no tag that a restore found broken stands (R263). -/
def Issues (op : Nat) (o : Operands) (tm : Ctx → Timing) (s : State) (c : Ctx) : Prop :=
  ∃ c0, s.ctx? ⟨.ctl, 1, 1, true⟩ = some c0 ∧ c = { c0 with tm := tm c0 } ∧
    fieldsPast op o (c.g.g + c.g.c) = false ∧ c.g.badTags = false

/-- No write of the registers is outstanding. -/
def Ctx.quiet (c : Ctx) (ns : List Nat) : Prop := ∀ n ∈ ns, c.g.regOuts n = []

/-- No write of EXEC is outstanding. -/
def Ctx.execQuiet (c : Ctx) : Bool := c.g.outs.all fun w => match w.dst with | .exec _ => false | _ => true

/-- The registers of a destination field. -/
def dstRegs (d : Code) (w64 : Bool) : List Nat :=
  if isReg d then (if w64 then [d.toNat, d.toNat + 1] else [d.toNat]) else []

/-- Whether destination `d` takes a result (R309): zr discards it; a general register takes any; a compact register takes
one that is not general; exec takes one value. -/
def Ctx.takes (c : Ctx) (d : Code) (w64 one affine : Bool) : Bool :=
  d == 120#7 || (d == 123#7 && w64 && one) ||
    (isReg d && ((if w64 then d.toNat + 1 else d.toNat) < c.g.g || ((one || affine) && c.mask == fullMask)))

/-! ## What an instruction leaves alone -/

/-- An instruction that acts on its group alone leaves the rest of the machine as it was: only groups, the cores' pipes,
counters, accounts' counts, the free-value number and the mark of the path differ, and of the groups only its own. -/
def MachineFrame (s t : State) (c : Ctx) : Prop :=
  { t with groups := s.groups, cores := s.cores, counters := s.counters, accounts := s.accounts, free := s.free, uni := s.uni } = s ∧
  (∀ k, k ≠ slotKey c.core c.slot → tget? t.groups k = tget? s.groups k) ∧
  (∀ n, { t.core n with pipes := (s.core n).pipes } = s.core n)

/-- A group's state but its registers, predicates, EXEC, MODE, flags, stochastic states, outstanding results, fragments and
parking is as it was. -/
def GroupFrame (g g' : Group) : Prop :=
  { g' with regs := g.regs, preds := g.preds, exec := g.exec, mode := g.mode, flagQueue := g.flagQueue, sr := g.sr
            outs := g.outs, split := g.split, joins := g.joins, parkedAt := g.parkedAt } = g

/-! ## Results of element-wise instructions -/

/-- Whether an element-wise instruction takes the uniform path (R203): its form allows it and every source is uniform. -/
def Ctx.uniformPath (c : Ctx) (ss : List Src) (uniformOk : Bool) : Bool := uniformOk && ss.all c.uniformSrc

/-- The value and flags of a lane of an element-wise instruction (R203, R216, R289, R357): on the uniform path those of
the lowest active lane, else those that `fn` computes from the lane's stochastic values and its source values. -/
def Ctx.outOf (c : Ctx) (o : Operands) (ss : List Src) (affine uniformOk : Bool) (steps : Nat) (fn : LaneFn) (l : Nat) :
    Nat × Flags :=
  let uni := c.uniformPath ss uniformOk
  let k := if uni then lowLane c.mask else l
  let t := if uni || affine then c.now else c.laneTime k
  fn k (srRun (c.srAt k t) steps).1 (ss.map fun s => c.value s o k t)

/-- The stochastic states of the active lanes after `k` steps of each, where an instruction takes steps (R289). -/
def Ctx.stepped (c : Ctx) (k : Nat) : Option (Nat → W32 → W32) :=
  if k == 0 then none else some fun l x => if inMask c.mask l then (srRun x k).2 else x

/-- The stochastic states of a group's lanes after they are stepped. -/
def stepStates (f : Option (Nat → W32 → W32)) (sr : List W32) : List W32 :=
  match f with
  | some f => sr.zipIdx.map fun (x, l) => f l x
  | none => sr

/-- The result of an instruction that writes one destination: where it goes and under which tag, whether it is on the uniform
path, what becomes of the stochastic states, and its value and flags in each lane. -/
structure ElementResult where
  dst : Code
  w64 : Bool
  fmt : Nat
  cnt : Nat
  uniform : Bool
  sr : Option (Nat → W32 → W32)
  out : Nat → Nat × Flags

/-- The group after an element-wise instruction: the destination's lanes of the effective mask hold the result and its tag,
its other lanes and every other register keep their value, the raised flags are due when the lane's result is, the
stochastic states of the active lanes have stepped, and the rest of the group and of the machine is as it was. -/
def Delivers (s t : State) (c : Ctx) (o : Operands) (r : ElementResult) : Prop :=
  MachineFrame s t c ∧ ∃ g', t.group? c.core c.slot = some g' ∧ GroupFrame c.g g' ∧
    g'.preds = c.g.preds ∧ g'.mode = c.g.mode ∧
    (r.dst ≠ 123#7 → g'.exec = c.g.exec) ∧
    (r.dst = 123#7 → c.mask ≠ 0 →
      g'.exec = (c.g.exec &&& ~~~ c.f.mask) ||| (BitVec.ofNat 64 (r.out (lowLane c.mask)).1 &&& c.f.mask)) ∧
    (∀ n, n ∉ dstRegs r.dst r.w64 → g'.reg n = c.g.reg n) ∧
    (isReg r.dst = true → c.mask ≠ 0 → ∀ n ∈ dstRegs r.dst r.w64, (g'.reg n).fmt = r.fmt ∧ (g'.reg n).cnt = r.cnt) ∧
    (isReg r.dst = true → ∀ l, l < 64 → inMask c.mask l = true →
      (g'.reg r.dst.toNat).val.lane l = BitVec.ofNat 32 (r.out l).1 ∧
      (r.w64 = true → (g'.reg (r.dst.toNat + 1)).val.lane l = BitVec.ofNat 32 ((r.out l).1 / 2 ^ 32))) ∧
    (∀ n, ∀ l, l < 64 → inMask c.mask l = false → (g'.reg n).val.lane l = (c.g.reg n).val.lane l) ∧
    g'.flagQueue = c.g.flagQueue ++ (if o.q then [] else (lanesOf c.mask).filterMap fun l =>
      if (r.out l).2 == 0 then none
      else some (FlagEvent.mk ((c.avail r.uniform).getD (l / 16) 0) l (r.out l).2 true)) ∧
    g'.sr = stepStates r.sr c.g.sr

/-- An element-wise instruction as its entry describes it: its constructor, opcode and timing (R213), when its ET and operands
are allowed, its sources, whether its result is 64 bits wide, the result's FMT and CNT, its affine result where it has one,
whether it may take the uniform path, its stochastic steps, and what it computes in a lane. -/
structure ElementForm where
  con : Operands → Instr
  op : Nat
  tm : Ctx → Timing
  allowed : Ctx → Operands → Bool
  srcs : Ctx → Operands → List Src
  w64 : Ctx → Operands → Bool
  fmt : Ctx → Operands → Nat
  cnt : Ctx → Operands → Nat
  affine : Ctx → Operands → Option (W64 × W64) := fun _ _ => none
  uniformOk : Ctx → Operands → Bool := fun _ _ => true
  steps : Ctx → Operands → Nat := fun _ _ => 0
  fn : Ctx → Operands → LaneFn

/-- What an element-wise instruction delivers. -/
def ElementForm.result (x : ElementForm) (c : Ctx) (o : Operands) : ElementResult :=
  let ss := x.srcs c o
  { dst := o.d, w64 := x.w64 c o, fmt := x.fmt c o, cnt := x.cnt c o
    uniform := c.uniformPath ss (x.uniformOk c o) || (x.affine c o).isSome, sr := c.stepped (x.steps c o)
    out := c.outOf o ss (x.affine c o).isSome (x.uniformOk c o) (x.steps c o) (x.fn c o) }

/-- The instruction completes and delivers its result whenever it issues under an ET it allows, its operands pass the checks
of R252, no write of a register that it names, or of an EXEC that it writes, is outstanding, and its destination takes the result. -/
def ElementForm.Holds (x : ElementForm) : Prop :=
  ∀ (o : Operands) (s : State) (c : Ctx), Issues x.op o x.tm s c → x.allowed c o = true →
    c.check true (x.srcs c o) o.d (x.w64 c o) = .ok () →
    c.quiet ((x.srcs c o).flatMap Src.regs ++ dstRegs o.d (x.w64 c o)) → (o.d = 123#7 → c.execQuiet = true) →
    c.takes o.d (x.w64 c o) (c.uniformPath (x.srcs c o) (x.uniformOk c o)) (x.affine c o).isSome = true →
    ∃ t, exec (x.con o) s = .next t ∧ Delivers s t c o (x.result c o)

/-! ## The element-wise instructions -/

/-- An arithmetic instruction of R343 on the sources `xs`: `f` on each element below the count, wrapped, or clamped under SAT
where the entry clamps. -/
def arithForm (con : Operands → Instr) (op : Nat) (tm : Ctx → Timing) (xs : Operands → List Code) (clamps : Bool)
    (f : Nat → List Int → Int) (affine : Ctx → Operands → Option (W64 × W64) := fun _ _ => none) : ElementForm :=
  { con := con, op := op, tm := tm, allowed := fun c _ => c.et ≤ 5, srcs := fun c o => (xs o).map c.intSrc
    w64 := fun c _ => c.wide, fmt := fun c _ => c.et, cnt := fun c o => c.count c.et ((xs o).map c.intSrc), affine := affine
    fn := fun c o _ _ v =>
      (intLanes c.et (clamps && c.sat) (2 ^ c.count c.et ((xs o).map c.intSrc)) (f (elemWidth c.et)) v, 0) }

/-- The integer arithmetic instructions (R343). -/
def integerForms : List ElementForm :=
  [arithForm .iadd 0x40 intTiming (fun o => [o.a, o.b]) true (fun _ l => int0 l + int1 l) fun c o =>
     c.affine2 o (c.intSrc o.a) (c.intSrc o.b) fun x y => some (x.1 + y.1, x.2 + y.2),
   arithForm .isub 0x41 intTiming (fun o => [o.a, o.b]) true (fun _ l => int0 l - int1 l) fun c o =>
     c.affine2 o (c.intSrc o.a) (c.intSrc o.b) fun x y => some (x.1 - y.1, x.2 - y.2),
   arithForm .imul 0x42 mulTiming (fun o => [o.a, o.b]) true (fun _ l => int0 l * int1 l) fun c o =>
     c.affine2 o (c.intSrc o.a) (c.intSrc o.b) fun x y =>
       if c.isUniform o.b then some (x.1 * y.1, x.2 * y.1) else if c.isUniform o.a then some (x.1 * y.1, x.1 * y.2) else none,
   arithForm .imulh 0x43 mulTiming (fun o => [o.a, o.b]) false fun w l => (int0 l * int1 l) / (2 ^ w : Int),
   arithForm .imad 0x44 mulTiming (fun o => [o.a, o.b, o.c]) true fun _ l => int0 l * int1 l + int2 l,
   arithForm .imin 0x45 intTiming (fun o => [o.a, o.b]) false fun _ l => min (int0 l) (int1 l),
   arithForm .imax 0x46 intTiming (fun o => [o.a, o.b]) false fun _ l => max (int0 l) (int1 l),
   arithForm .iabs 0x47 intTiming (fun o => [o.a]) true fun _ l => if int0 l < 0 then - int0 l else int0 l,
   arithForm .ineg 0x48 intTiming (fun o => [o.a]) true fun _ l => - int0 l]

/-- A shift of R346: each element of A shifted by bits [7:0] of the element of B. -/
def shiftForm (con : Operands → Instr) (op k : Nat) (affine : Ctx → Operands → Option (W64 × W64) := fun _ _ => none) :
    ElementForm :=
  { con := con, op := op, tm := intTiming, allowed := fun c _ => c.et ≤ 5, srcs := fun c o => [o.a, o.b].map c.anySrc
    w64 := fun c _ => c.wide, fmt := fun c _ => c.et, cnt := fun c o => c.count c.et ([o.a, o.b].map c.anySrc), affine := affine
    fn := fun c o _ _ v =>
      (packElems (elemWidth c.et) ((List.range (2 ^ c.count c.et ([o.a, o.b].map c.anySrc))).map fun i =>
        shiftElem k (elemWidth c.et) (elemBits (elemWidth c.et) (v.getD 0 0) i)
          (elemBits (elemWidth c.et) (v.getD 1 0) i % 256)), 0) }

/-- The shifts (R346). -/
def shiftForms : List ElementForm :=
  [shiftForm .shl 0x54 0 fun c o => c.affine2 o (c.anySrc o.a) (c.anySrc o.b) fun x y =>
     if c.isUniform o.b then
       if y.1.toNat % 256 ≥ elemWidth c.et then some (0, 0) else some (x.1 <<< (y.1.toNat % 256), x.2 <<< (y.1.toNat % 256))
     else none,
   shiftForm .shr 0x55 1, shiftForm .sar 0x56 2, shiftForm .rot 0x57 3]

/-- The format of a raw result, and its count (R347, R348): those of the first source that has a tag of the result's width. -/
def Ctx.rawFmt (c : Ctx) (ss : List Src) (w64 : Bool) (dflt : Nat) : Nat := (c.rawTag ss w64 dflt).1
def Ctx.rawCnt (c : Ctx) (ss : List Src) (w64 : Bool) (dflt : Nat) : Nat :=
  c.count (c.rawFmt ss w64 dflt) (ss.filter fun s => match c.tag s.code with | some (g, _) => is64 g == w64 | none => false)

/-- A logic instruction of R347 on W bits. -/
def logicForm (con : Operands → Instr) (op : Nat) (xs : Operands → List Code) (f : Bool → List Nat → Nat) : ElementForm :=
  { con := con, op := op, tm := intTiming, allowed := fun _ _ => true, srcs := fun c o => (xs o).map c.rawSrc
    w64 := fun c _ => c.wide, fmt := fun c o => c.rawFmt ((xs o).map c.rawSrc) c.wide c.et
    cnt := fun c o => c.rawCnt ((xs o).map c.rawSrc) c.wide c.et
    fn := fun c _ _ _ v => (f c.wide v, 0) }

/-- The logic instructions (R347). -/
def logicForms : List ElementForm :=
  [logicForm .bitAnd 0x50 (fun o => [o.a, o.b]) fun _ v => v.getD 0 0 &&& v.getD 1 0,
   logicForm .bitOr 0x51 (fun o => [o.a, o.b]) fun _ v => v.getD 0 0 ||| v.getD 1 0,
   logicForm .bitXor 0x52 (fun o => [o.a, o.b]) fun _ v => v.getD 0 0 ^^^ v.getD 1 0,
   logicForm .bitNot 0x53 (fun o => [o.a]) fun w v => 2 ^ (if w then 64 else 32) - 1 - v.getD 0 0]

/-- A bit instruction of R348 on 32 bits; `tag` is the result's FMT and CNT. -/
def bitForm (con : Operands → Instr) (op : Nat) (xs : Operands → List Code) (tag : Ctx → Operands → Nat × Nat)
    (f : Operands → List Nat → Nat) : ElementForm :=
  { con := con, op := op, tm := intTiming, allowed := fun _ _ => true, srcs := fun _ o => (xs o).map raw32
    w64 := fun _ _ => false, fmt := fun c o => (tag c o).1, cnt := fun c o => (tag c o).2
    fn := fun _ o _ _ v => (f o v, 0) }

/-- The shift of a funnel shift (R348): modulo 32, or at most 32 under `.clamp`. -/
def funnel (o : Operands) (n : Nat) : Nat := if o.fn == 0#5 then n % 32 else min n 32

/-- The bit instructions (R348). -/
def bitForms : List ElementForm :=
  [bitForm .fshl 0x58 (fun o => [o.a, o.b, o.c]) (fun _ _ => (1, 0)) fun o v =>
     (v.getD 0 0 * 2 ^ 32 + v.getD 1 0) * 2 ^ funnel o (v.getD 2 0) / 2 ^ 32 % 2 ^ 32,
   bitForm .fshr 0x59 (fun o => [o.a, o.b, o.c]) (fun _ _ => (1, 0)) fun o v =>
     (v.getD 0 0 * 2 ^ 32 + v.getD 1 0) / 2 ^ funnel o (v.getD 2 0) % 2 ^ 32,
   bitForm .bfx 0x5A (fun o => [o.a, o.b]) (fun _ o => if o.fn == 1#5 then (0, 0) else (1, 0)) fun o v =>
     bfx (o.fn == 1#5) (v.getD 0 0) (v.getD 1 0) % 2 ^ 32,
   bitForm .bfi 0x5B (fun o => [o.a, o.b, o.c]) (fun c o => c.fmtOf o.a) fun _ v => bfi (v.getD 0 0) (v.getD 1 0) (v.getD 2 0),
   bitForm .popc 0x5C (fun o => [o.a]) (fun _ _ => (1, 0)) fun _ v => popCount 32 (v.getD 0 0),
   bitForm .clz 0x5D (fun o => [o.a]) (fun _ _ => (1, 0)) fun _ v => if v.getD 0 0 == 0 then 32 else 31 - (v.getD 0 0).log2,
   bitForm .brev 0x5E (fun o => [o.a]) (fun c o => c.fmtOf o.a) fun _ v => ((BitVec.ofNat 32 (v.getD 0 0)).reverse).toNat]

/-- The bit of P[C] that SEL reads in a lane at a time, inverted under `.not` (R347). -/
def Ctx.selBit (c : Ctx) (o : Operands) (l t : Nat) : Bool := inMask (c.g.predAt c.seed o.c.toNat t) l != (o.fn == 1#5)

/-- Whether SEL takes the uniform path where both sources are uniform (R203): P[C] is the same in every lane of a full mask. -/
def Ctx.selUniform (c : Ctx) (o : Operands) : Bool :=
  let p := maskOf fun l => c.selBit o l c.now
  c.mask == fullMask && (p &&& c.mask == c.mask || p &&& c.mask == 0)

/-- The formats of SEL's sources that have the result's width. -/
def Ctx.selTags (c : Ctx) (o : Operands) : List Nat :=
  ([o.a, o.b].map c.rawSrc).filterMap fun x => match c.tag x.code with
    | some (g, _) => if is64 g == c.wide then some g else none
    | none => none

/-- SEL (R347) and PERM (R375). -/
def selectForms : List ElementForm :=
  [{ con := .sel, op := 0x5F, tm := intTiming
     allowed := fun c o => !c.hazard (([o.a, o.b].map c.rawSrc).flatMap Src.regs) [o.c.toNat] &&
       !((c.selTags o).length == 2 && (c.selTags o).getD 0 0 != (c.selTags o).getD 1 0)
     srcs := fun c o => [o.a, o.b].map c.rawSrc, w64 := fun c _ => c.wide
     fmt := fun c o => c.rawFmt ([o.a, o.b].map c.rawSrc) c.wide c.et
     cnt := fun c o => c.rawCnt ([o.a, o.b].map c.rawSrc) c.wide c.et, uniformOk := fun c o => c.selUniform o
     fn := fun c o l _ v =>
       (if c.selBit o l (if c.selUniform o && ([o.a, o.b].map c.rawSrc).all c.uniformSrc then c.now else c.laneTime l)
         then v.getD 0 0 else v.getD 1 0, 0) },
   { con := .perm, op := 0x2E, tm := laneTiming, allowed := fun _ _ => true, srcs := fun _ o => [o.a, o.b, o.c].map raw32
     w64 := fun _ _ => false, fmt := fun c o => c.rawFmt ([o.a, o.b].map raw32) false 1
     cnt := fun c o => if elemCount (c.rawFmt ([o.a, o.b].map raw32) false 1) > 1 then c.rawCnt ([o.a, o.b].map raw32) false 1 else 0
     fn := fun _ o _ _ v =>
       (packElems 8 ((List.range 4).map fun i => permByte (o.fn == 1#5) (v.getD 0 0 + 2 ^ 32 * v.getD 1 0) (v.getD 2 0) i), 0) }]

/-- A pair that holds an address, and a 32-bit offset (R349). -/
def addrPair (x : Code) : Src := ⟨x, true, [2, 3], .zext⟩
def addrWord (x : Code) : Src := ⟨x, false, [0, 1], .zext⟩

/-- The index that LEA adds (R349): the 32-bit operand, sign-extended under `.s`, shifted left. -/
def leaIndex (o : Operands) (x : Nat) : Int :=
  (if o.fn.toNat ≥ 16 then intVal true 32 x else (x : Int)) * 2 ^ (o.fn.toNat % 16)

/-- The address instructions (R349). -/
def addressForms : List ElementForm :=
  [{ con := .lea, op := 0x68, tm := intTiming, allowed := fun _ _ => true, srcs := fun _ o => [addrPair o.a, addrWord o.b]
     w64 := fun _ _ => true, fmt := fun _ _ => 3, cnt := fun _ _ => 0
     affine := fun c o =>
       if c.mask == fullMask && !c.isUniform o.a && c.isUniform o.b then
         (c.affineOf (addrPair o.a) o).map fun x =>
           (BitVec.ofInt 64 ((x.1.toNat : Int) + leaIndex o (c.value (addrWord o.b) o 0 c.now)), x.2)
       else none
     fn := fun _ o _ _ v => (wrapInt 64 ((v.getD 0 0 : Int) + leaIndex o (v.getD 1 0)), 0) },
   { con := .adda, op := 0x69, tm := intTiming, allowed := fun _ _ => true, srcs := fun _ o => [addrPair o.a, addrPair o.b]
     w64 := fun _ _ => true, fmt := fun _ _ => 3, cnt := fun _ _ => 0
     affine := fun c o =>
       if c.mask == fullMask && !(c.isUniform o.a && c.isUniform o.b) then
         match c.affineOf (addrPair o.a) o, c.affineOf (addrPair o.b) o with
         | some x, some y => some (x.1 + y.1, x.2 + y.2)
         | _, _ => none
       else none
     fn := fun _ _ _ _ v => ((v.getD 0 0 + v.getD 1 0) % 2 ^ 64, 0) },
   { con := .aff, op := 0x6A, tm := intTiming, allowed := fun c _ => c.et ≤ 1
     srcs := fun c o => [⟨o.a, false, [c.et], .zext⟩, ⟨o.b, false, [c.et], .zext⟩]
     w64 := fun _ _ => false, fmt := fun c _ => c.et, cnt := fun _ _ => 0, uniformOk := fun _ _ => false
     affine := fun c o =>
       if c.mask == fullMask && c.isUniform o.a && c.isUniform o.b then
         match c.affineOf ⟨o.a, false, [c.et], .zext⟩ o, c.affineOf ⟨o.b, false, [c.et], .zext⟩ o with
         | some x, some y => some (x.1, y.1)
         | _, _ => none
       else none
     fn := fun _ _ l _ v => ((v.getD 0 0 + v.getD 1 0 * l) % 2 ^ 32, 0) }]

/-- An element-wise floating instruction (R357): `f` on each element below the count, with the lane's flags the OR of those of
its elements (R292) and, where `lit` says so, NV for a signalling NaN literal (R302). -/
def floatForm (con : Operands → Instr) (op : Nat) (tm : Ctx → Timing) (xs : Operands → List Code) (extra : Operands → List Src)
    (allowed : Ctx → Bool) (rounds : Bool) (f : Operands → Ctx → Nat → List Nat → Nat × Flags) (lit : Bool := true) : ElementForm :=
  { con := con, op := op, tm := tm, allowed := fun c _ => allowed c, srcs := fun c o => (xs o).map c.fSrc ++ extra o
    w64 := fun c _ => c.et == 7, fmt := fun c _ => c.et, cnt := fun c o => c.count c.et ((xs o).map c.fSrc)
    steps := fun c o => if rounds then c.srSteps (2 ^ c.count c.et ((xs o).map c.fSrc)) else 0
    fn := fun c o _ zs v =>
      let r := packed (elemWidth c.et) (2 ^ c.count c.et ((xs o).map c.fSrc)) zs fun z k =>
        f o c z ((v.take ((xs o).map c.fSrc).length).map (elemBits (elemWidth c.et) · k) ++ v.drop ((xs o).map c.fSrc).length)
      (r.1, if lit then r.2 ||| litFlag o ((xs o).map c.fSrc) else r.2) }

/-- The floating-point arithmetic instructions (R358 to R360, R363, R364). -/
def floatForms : List ElementForm :=
  [floatForm .fadd 0x70 fpTiming (fun o => [o.a, o.b]) (fun _ => []) Ctx.fpEt true fun _ c z v =>
     fAdd c.bfmt c.fmode z false (v.getD 0 0) (v.getD 1 0),
   floatForm .fsub 0x71 fpTiming (fun o => [o.a, o.b]) (fun _ => []) Ctx.fpEt true fun _ c z v =>
     fAdd c.bfmt c.fmode z true (v.getD 0 0) (v.getD 1 0),
   floatForm .fmul 0x72 fpTiming (fun o => [o.a, o.b]) (fun _ => []) Ctx.fpEt true fun _ c z v =>
     fMul c.bfmt c.fmode z (v.getD 0 0) (v.getD 1 0),
   floatForm .fma 0x73 fpTiming (fun o => [o.a, o.b, o.c]) (fun _ => []) Ctx.fpEt true fun o c z v =>
     fMa c.bfmt c.fmode z (o.fn.getLsbD 0) (o.fn.getLsbD 1) (v.getD 0 0) (v.getD 1 0) (v.getD 2 0),
   floatForm .fmin 0x74 fpTiming (fun o => [o.a, o.b]) (fun _ => []) Ctx.fpEt false fun _ c _ v =>
     fMinMax c.bfmt c.ftz false (v.getD 0 0) (v.getD 1 0),
   floatForm .fmax 0x75 fpTiming (fun o => [o.a, o.b]) (fun _ => []) Ctx.fpEt false fun _ c _ v =>
     fMinMax c.bfmt c.ftz true (v.getD 0 0) (v.getD 1 0),
   floatForm .fneg 0x76 fpTiming (fun o => [o.a]) (fun _ => []) Ctx.fpEt false (lit := false) fun _ c _ v =>
     (fSign c.bfmt c.ftz true (v.getD 0 0), 0),
   floatForm .fabs 0x77 fpTiming (fun o => [o.a]) (fun _ => []) Ctx.fpEt false (lit := false) fun _ c _ v =>
     (fSign c.bfmt c.ftz false (v.getD 0 0), 0),
   floatForm .frnd 0x7A fpTiming (fun o => [o.a]) (fun _ => []) Ctx.fpEt true fun _ c z v => fRnd c.bfmt c.fmode z (v.getD 0 0),
   floatForm .fscale 0x7B fpTiming (fun o => [o.a]) (fun o => [⟨o.b, false, [0], .sext⟩]) Ctx.fpEt true fun _ c z v =>
     fScale c.bfmt c.fmode z (v.getD 0 0) (intVal true 32 (v.getD 1 0))]

/-- The ETs of the transcendentals (R366). -/
def Ctx.xuEt (c : Ctx) : Bool := c.et == 6 || c.et == 8 || c.et == 9

/-- A transcendental (R365, R366). -/
def xuForm (con : Operands → Instr) (op k : Nat) : ElementForm :=
  floatForm con op xuTiming (fun o => [o.a]) (fun _ => []) Ctx.xuEt (k == 0 || k == 2) fun _ c z v =>
    transcendental k c.et c.rm c.ftz c.sat z (v.getD 0 0)

/-- The transcendentals (R366). -/
def xuForms : List ElementForm :=
  [xuForm .frcp 0x80 0, xuForm .frsq 0x81 1, xuForm .fsqrt 0x82 2, xuForm .fexp2 0x83 3, xuForm .flog2 0x84 4,
   xuForm .fsin 0x85 5, xuForm .fcos 0x86 6]

/-- FCLASS (R362) and FLGRD (R370). -/
def classForms : List ElementForm :=
  [{ con := .fclass, op := 0x79, tm := fpTiming, allowed := fun c _ => c.fpEt, srcs := fun c o => [c.fSrc o.a]
     w64 := fun _ _ => false, fmt := fun _ _ => 1, cnt := fun _ _ => 0
     fn := fun c o _ _ v =>
       ((List.range (2 ^ c.count c.et [c.fSrc o.a])).foldl
         (fun a k => a + 2 ^ (16 * k + fClass c.bfmt (elemBits (elemWidth c.et) (v.getD 0 0) k))) 0, 0) },
   { con := .flgrd, op := 0x93, tm := flagTiming, allowed := fun _ _ => true, srcs := fun _ _ => [], w64 := fun _ _ => false
     fmt := fun _ _ => 1, cnt := fun _ _ => 0, uniformOk := fun _ _ => false, fn := fun c _ l _ _ => (c.flagBits l, 0) }]

/-- The elements that PACK keeps of C, from the third destination format on (R368). -/
def packSrcs (c : Ctx) (o : Operands) : List Src :=
  [c.cvtSrc o.a, c.cvtSrc o.b] ++ (if o.fn.toNat ≥ 3 then [⟨o.c, false, [(packDst o.fn.toNat).1], .zext⟩] else [])

/-- The format that UNPACK's selector names (R369). -/
def unpackDst (fn : Nat) : Nat := match fn % 4 with | 0 => 0 | 1 => 1 | _ => 6

/-- The conversions (R345, R367 to R369). -/
def convertForms : List ElementForm :=
  [{ con := .icvt, op := 0x61, tm := intTiming, allowed := fun c o => c.et ≤ 5 && o.fn.toNat / 8 < elemCount c.et
     srcs := fun c o => [c.intSrc o.a], w64 := fun _ o => is64 (o.fn.toNat % 8), fmt := fun _ o => o.fn.toNat % 8, cnt := fun _ _ => 0
     fn := fun c o _ _ v =>
       (wrapInt (elemWidth (o.fn.toNat % 8))
         (convert c.et (o.fn.toNat % 8) c.rm c.ftz c.sat 0 (elemBits (elemWidth c.et) (v.getD 0 0) (o.fn.toNat / 8))).1, 0) },
   { con := .cvt, op := 0x90, tm := cvtTiming, allowed := fun c _ => c.et ≤ 14, srcs := fun c o => [c.cvtSrc o.a]
     w64 := fun _ o => is64 o.fn.toNat, fmt := fun _ o => o.fn.toNat, cnt := fun _ _ => 0, steps := fun c _ => c.srSteps 1
     fn := fun c o _ zs v =>
       let r := c.conv o.fn.toNat (zs.getD 0 0) (elemBits (elemWidth c.et) (v.getD 0 0) 0)
       (r.1, r.2 ||| litFlag o [c.cvtSrc o.a]) },
   { con := .pack, op := 0x91, tm := cvtTiming, allowed := fun c _ => c.et ≤ 14 && !c.wide, srcs := packSrcs
     w64 := fun _ _ => false, fmt := fun _ o => (packDst o.fn.toNat).1
     cnt := fun c o => countCode (max ((packDst o.fn.toNat).2 + 2)
       (if o.fn.toNat ≥ 3 then (match c.tag o.c with | some (_, k) => 2 ^ k | none => 0) else 0))
     steps := fun c _ => c.srSteps 2
     fn := fun c o _ zs v =>
       let d := packDst o.fn.toNat
       let x := c.conv d.1 (zs.getD 0 0) (elemBits (elemWidth c.et) (v.getD 0 0) 0)
       let y := c.conv d.1 (zs.getD 1 0) (elemBits (elemWidth c.et) (v.getD 1 0) 0)
       (packElems (elemWidth d.1) ((List.range (elemCount d.1)).map fun k =>
         if k == d.2 then x.1 else if k == d.2 + 1 then y.1 else elemBits (elemWidth d.1) (v.getD 2 0) k), x.2 ||| y.2) },
   { con := .unpack, op := 0x92, tm := cvtTiming
     allowed := fun c o => elemCount c.et ≥ 2 && c.et ≤ 14 && 2 * (o.fn.toNat / 4) < elemCount c.et && o.d != 123#7
     srcs := fun c o => [c.cvtSrc o.a], w64 := fun _ _ => true, fmt := fun _ o => unpackDst o.fn.toNat, cnt := fun _ _ => 0
     steps := fun c _ => c.srSteps 2
     fn := fun c o _ zs v =>
       let t := unpackDst o.fn.toNat
       let x := c.conv t (zs.getD 0 0) (elemBits (elemWidth c.et) (v.getD 0 0) (2 * (o.fn.toNat / 4)))
       let y := c.conv t (zs.getD 1 0) (elemBits (elemWidth c.et) (v.getD 0 0) (2 * (o.fn.toNat / 4) + 1))
       (x.1 % 2 ^ 32 + 2 ^ 32 * y.1, x.2 ||| y.2) }]

/-! ## Instructions that write one destination from many lanes, or from the machine -/

/-- An instruction that writes one destination: its constructor, opcode and timing, when it is allowed, its sources, whether
its result is 64 bits wide, whether the result is one value, and what it delivers. -/
structure ResultForm where
  con : Operands → Instr
  op : Nat
  tm : Ctx → Timing
  allowed : State → Ctx → Operands → Bool
  srcs : Ctx → Operands → List Src
  w64 : Ctx → Operands → Bool
  one : Ctx → Operands → Bool
  result : State → Ctx → Operands → ElementResult

/-- The instruction completes and delivers its result whenever it issues, is allowed, its operands pass the checks of R252, no
write of a register that it names, or of an EXEC that it writes, is outstanding, and its destination takes the result. -/
def ResultForm.Holds (x : ResultForm) : Prop :=
  ∀ (o : Operands) (s : State) (c : Ctx), Issues x.op o x.tm s c → x.allowed s c o = true →
    c.check true (x.srcs c o) o.d (x.w64 c o) = .ok () →
    c.quiet ((x.srcs c o).flatMap Src.regs ++ dstRegs o.d (x.w64 c o)) → (o.d = 123#7 → c.execQuiet = true) →
    c.takes o.d (x.w64 c o) (x.one c o) false = true →
    ∃ t, exec (x.con o) s = .next t ∧ Delivers s t c o (x.result s c o)

/-- The lane-exchange instructions (R373, R374, R376, R377, R379) and the reads of a predicate into a register (R342). -/
def laneForms : List ResultForm :=
  [{ con := .shfl, op := 0x28, tm := laneTiming, allowed := fun _ _ _ => true, srcs := fun c o => [c.rawSrc o.a, raw32 o.b]
     w64 := fun c _ => c.wide, one := fun c o => c.uniformSrc (c.rawSrc o.a) && c.isUniform o.b
     result := fun _ c o =>
       { dst := o.d, w64 := c.wide, fmt := (c.exchangeTag o.a).1, cnt := (c.exchangeTag o.a).2
         uniform := c.uniformSrc (c.rawSrc o.a) && c.isUniform o.b, sr := none
         out := fun l =>
           (c.value (c.rawSrc o.a) o (shflLane o.fn.toNat l (c.value (raw32 o.b) o l c.readAt % 64)) c.readAt, 0) } },
   { con := .bcast, op := 0x29, tm := laneTiming, allowed := fun _ _ _ => true, srcs := fun c o => [c.rawSrc o.a, raw32 o.b]
     w64 := fun c _ => c.wide, one := fun _ _ => true
     result := fun _ c o =>
       { dst := o.d, w64 := c.wide, fmt := (c.exchangeTag o.a).1, cnt := (c.exchangeTag o.a).2
         uniform := c.uniformSrc (c.rawSrc o.a) && c.isUniform o.b, sr := none
         out := fun _ => (c.value (c.rawSrc o.a) o (c.value (raw32 o.b) o (lowLane c.f.mask) c.readAt % 64) c.readAt, 0) } },
   { con := .matchLanes, op := 0x2D, tm := matchTiming, allowed := fun _ _ _ => true, srcs := fun c o => [c.rawSrc o.a]
     w64 := fun _ _ => true, one := fun c o => c.uniformSrc (c.rawSrc o.a)
     result := fun _ c o =>
       { dst := o.d, w64 := true, fmt := 3, cnt := 0, uniform := c.uniformSrc (c.rawSrc o.a), sr := none
         out := fun l =>
           ((maskOf fun k => inMask c.mask k && c.value (c.rawSrc o.a) o k c.readAt == c.value (c.rawSrc o.a) o l c.readAt).toNat, 0) } },
   { con := .lred, op := 0x2A, tm := reduceTiming, allowed := fun _ c o => c.redEt o.fn.toNat
     srcs := fun c o => [c.redSrc o o.fn.toNat], w64 := fun c _ => c.wide, one := fun _ _ => true
     result := fun _ c o =>
       { dst := o.d, w64 := c.wide, fmt := c.et, cnt := c.count c.et [c.redSrc o o.fn.toNat]
         uniform := c.uniformSrc (c.redSrc o o.fn.toNat), sr := c.lredStep o
         out := fun _ => (packElems (elemWidth c.et) (c.lred o).1, (c.lred o).2.1) } },
   { con := .lscan, op := 0x2B, tm := reduceTiming, allowed := fun _ c o => c.redEt (o.fn.toNat % 16)
     srcs := fun c o => [c.redSrc o (o.fn.toNat % 16)], w64 := fun c _ => c.wide, one := fun _ _ => false
     result := fun _ c o =>
       { dst := o.d, w64 := c.wide, fmt := c.et, cnt := c.count c.et [c.redSrc o (o.fn.toNat % 16)], uniform := false
         sr := c.lscanStep o, out := fun l => c.lscanLane o l } },
   { con := .ballot, op := 0x23, tm := voteTiming, allowed := fun _ c o => !c.hazard [] [o.a.toNat], srcs := fun _ _ => []
     w64 := fun _ _ => true, one := fun _ _ => true
     result := fun _ c o =>
       { dst := o.d, w64 := true, fmt := 3, cnt := 0, uniform := false, sr := none, out := fun _ => ((c.ballot o).toNat, 0) } },
   { con := .popm, op := 0x24, tm := voteTiming, allowed := fun _ c o => !c.hazard [] [o.a.toNat], srcs := fun _ _ => []
     w64 := fun _ _ => false, one := fun _ _ => true
     result := fun _ c o =>
       { dst := o.d, w64 := false, fmt := 1, cnt := 0, uniform := false, sr := none
         out := fun _ => (popCount 64 (c.ballot o).toNat, 0) } }]

/-- Whether a system register is 64 bits wide (R354). -/
def srWide (o : Operands) : Bool := match srInfo o.lit.toNat with | some (w, _) => w | none => false

/-- RDSR (R353): each lane's stochastic state, or the value of the system register. -/
def systemForms : List ResultForm :=
  [{ con := .rdsr, op := 0x0D, tm := rdsrTiming
     allowed := fun _ _ o => !srBad 0x0D o
     srcs := fun _ _ => [], w64 := fun _ o => srWide o, one := fun _ o => o.lit != 0x30#32
     result := fun s c o =>
       { dst := o.d, w64 := srWide o, fmt := if srWide o then 3 else 1, cnt := 0, uniform := o.lit != 0x30#32, sr := none
         out := fun l => (if o.lit == 0x30#32 then (c.srAt l c.now).toNat else s.srValue c o.lit.toNat, 0) } }]

/-! ## Instructions that write a predicate -/

/-- A write of a predicate: which one, in which lanes, whether on the uniform path, and each lane's bit and flags. -/
structure PredResult where
  k : Nat
  mask : W64
  uniform : Bool
  out : Nat → Bool × Flags

/-- No write of predicate `k` is outstanding. -/
def Ctx.predQuiet (c : Ctx) (k : Nat) : Bool := c.g.outs.all fun w => match w.dst with | .pred j _ => j != k | _ => true

/-- The group after a predicate instruction: the predicate's lanes of the mask hold the bits, the raised flags are due when the
lane's result is, and the other lanes, predicates, the registers and the rest of the machine are as they were. -/
def DeliversPred (s t : State) (c : Ctx) (o : Operands) (r : PredResult) : Prop :=
  MachineFrame s t c ∧ ∃ g', t.group? c.core c.slot = some g' ∧ GroupFrame c.g g' ∧
    g'.regs = c.g.regs ∧ g'.exec = c.g.exec ∧ g'.mode = c.g.mode ∧ g'.sr = c.g.sr ∧
    (∀ j, j ≠ r.k → g'.preds.getD j 0 = c.g.preds.getD j 0) ∧
    (∀ l, l < 64 → inMask (g'.preds.getD r.k 0) l = if inMask r.mask l then (r.out l).1 else inMask (c.g.preds.getD r.k 0) l) ∧
    g'.flagQueue = c.g.flagQueue ++ (if o.q then [] else (lanesOf c.mask).filterMap fun l =>
      if (r.out l).2 == 0 then none
      else some (FlagEvent.mk ((c.avail r.uniform).getD (l / 16) 0) l (r.out l).2 true))

/-- An instruction that writes predicate D; `own` is false where it acts on the whole MASK (R328). -/
structure PredForm where
  con : Operands → Instr
  op : Nat
  tm : Ctx → Timing
  allowed : Ctx → Operands → Bool
  srcs : Ctx → Operands → List Src
  own : Bool := true
  result : Ctx → Operands → PredResult

/-- The instruction completes and delivers its predicate whenever it issues, is allowed, its operands pass the checks of R252,
and no write of that predicate is outstanding. -/
def PredForm.Holds (x : PredForm) : Prop :=
  ∀ (o : Operands) (s : State) (c : Ctx), Issues x.op o x.tm s c → x.allowed c o = true →
    c.check true (x.srcs c o) 120#7 false [] x.own = .ok () → o.d.toNat < 8 → c.g.preds.length = 8 → c.predQuiet o.d.toNat = true →
    ∃ t, exec (x.con o) s = .next t ∧ DeliversPred s t c o (x.result c o)

/-- What a test of each lane finds: on the uniform path the lowest active lane's, else the lane's own (R203). -/
def Ctx.testOf (c : Ctx) (o : Operands) (ss : List Src) (uniformOk : Bool) (fn : Nat → List Nat → Bool × Flags) (l : Nat) :
    Bool × Flags :=
  let uni := c.uniformPath ss uniformOk
  let k := if uni then lowLane c.mask else l
  fn k (ss.map fun s => c.value s o k (if uni then c.now else c.laneTime l))

/-- A test of each lane of the effective mask into predicate D. -/
def Ctx.testResult (c : Ctx) (o : Operands) (ss : List Src) (uniformOk : Bool) (fn : Nat → List Nat → Bool × Flags) : PredResult :=
  { k := o.d.toNat, mask := c.mask, uniform := c.uniformPath ss uniformOk, out := c.testOf o ss uniformOk fn }

/-- The bit that VOTE writes (R378), from the bits of P[A] under the effective mask as its first beat enters (R372). -/
def Ctx.vote (c : Ctx) (o : Operands) : Bool :=
  let m := c.g.predAt c.seed o.a.toNat c.readAt &&& c.mask
  match o.fn.toNat with
  | 0 => m == c.mask
  | 1 => m != 0
  | _ => m == 0 || m == c.mask

/-- The comparisons and the predicate instructions (R341, R342, R344, R361, R378). -/
def predForms : List PredForm :=
  [{ con := .icmp, op := 0x60, tm := intTiming, allowed := fun c _ => c.et ≤ 3, srcs := fun c o => [o.a, o.b].map c.intSrc
     result := fun c o => c.testResult o ([o.a, o.b].map c.intSrc) true fun _ v =>
       (intRel o.fn.toNat (intVal (isSigned c.et) (elemWidth c.et) (v.getD 0 0))
         (intVal (isSigned c.et) (elemWidth c.et) (v.getD 1 0)), 0) },
   { con := .fcmp, op := 0x78, tm := fpTiming, allowed := fun c o => c.fpEt && (c.et ≥ 8 || o.fn.toNat / 8 == 0)
     srcs := fun c o => [o.a, o.b].map c.fSrc
     result := fun c o => c.testResult o ([o.a, o.b].map c.fSrc) true fun _ v =>
       if o.fn.toNat / 8 ≥ 2 ^ c.count c.et ([o.a, o.b].map c.fSrc) then (false, 0)
       else
         let r := fCmp c.bfmt c.ftz (o.fn.toNat % 8) (elemBits (elemWidth c.et) (v.getD 0 0) (o.fn.toNat / 8))
           (elemBits (elemWidth c.et) (v.getD 1 0) (o.fn.toNat / 8))
         (r.1, r.2 ||| litFlag o ([o.a, o.b].map c.fSrc)) },
   { con := .pset, op := 0x20, tm := predTiming, allowed := fun _ _ => true, srcs := fun _ o => [raw32 o.a]
     result := fun c o => c.testResult o [raw32 o.a] true fun _ v =>
       (match o.fn.toNat with
         | 0 => v.getD 0 0 != 0
         | 1 => v.getD 0 0 == 0
         | 2 => v.getD 0 0 ≥ 2 ^ 31
         | _ => v.getD 0 0 % 2 == 1, 0) },
   { con := .plog, op := 0x21, tm := predTiming, allowed := fun c o => !c.hazard [] [o.a.toNat, o.b.toNat], srcs := fun _ _ => []
     result := fun c o => c.testResult o [] false fun l _ =>
       (plogBit o.fn.toNat (inMask (c.g.predAt c.seed o.a.toNat c.now) l) (inMask (c.g.predAt c.seed o.b.toNat c.now) l), 0) },
   { con := .pmov, op := 0x22, tm := predTiming, allowed := fun _ _ => true, srcs := fun _ o => [⟨o.a, true, [], .zext⟩]
     own := false
     result := fun c o =>
       { k := o.d.toNat, mask := fullMask, uniform := true, out := fun l => (inMask (BitVec.ofNat 64 (c.single o o.a true)) l, 0) } },
   { con := .vote, op := 0x2C, tm := voteTiming, allowed := fun c o => !c.hazard [] [o.a.toNat], srcs := fun _ _ => []
     result := fun c o => { k := o.d.toNat, mask := c.mask, uniform := false, out := fun _ => (c.vote o, 0) } }]

/-! ## Instructions that change their group, and engine instructions -/

/-- The instruction acts on its group alone, which it leaves as `g`, with the fragment's last issue kept (R210). -/
def Leaves (s t : State) (c : Ctx) (o : Operands) (g : Group) : Prop :=
  MachineFrame s t c ∧ t.group? c.core c.slot = some (c.issued o g)

/-- The instruction has acted beyond its group, which left the machine as `u`, and has issued with its group as `g`. -/
def IssuedFrom (u t : State) (c : Ctx) (o : Operands) (uni : Bool) (g : Group) : Prop :=
  t = { (u.afterIssue c o (c.beats uni) g) with uni := uni }

/-- An engine instruction: its constructor, opcode, class, sources, and its checks with the operation that it starts. -/
structure EngineForm where
  con : Operands → Instr
  op : Nat
  cls : Nat
  srcs : Operands → List Src
  start : Operands → State → Ctx → Except Trap AsyncStart

/-- The operation that an engine instruction starts: it belongs to the open batch of its class (R416). -/
def Ctx.started (c : Ctx) (s : State) (cls : Nat) (a : AsyncStart) : EngineOp :=
  { c.operation s cls a.kind with engine := if a.copy then some (chipOf (c.core / 8)) else none }

/-- The state in which an engine instruction's operation starts: NR is set where it writes memory (R182), and the targets'
inbound counters count it (R425). -/
def State.engineReady (s : State) (c : Ctx) (a : AsyncStart) : State :=
  a.inbound.foldl (fun s k => s.setTeam k { s.teamAt k with inbound := (s.teamAt k).inbound + 1 })
    (if a.nr then s.setNr c.g.team else s)

/-- The engine instruction completes whenever it issues with lanes active, its class has room (R418), and its operands and
descriptor pass their checks: its operation is under way, and the group goes on at the next instruction. With no lane active
it starts nothing (R414). -/
def EngineForm.Holds (x : EngineForm) : Prop :=
  ∀ (o : Operands) (s : State) (c : Ctx), Issues x.op o memTiming s c → c.check true (x.srcs o) 120#7 false = .ok () →
    (c.mask = 0 → ∃ t, exec (x.con o) s = .next t ∧ Leaves s t c o (c.advance x.op o c.g)) ∧
    (c.mask ≠ 0 → s.opsFull c.g.uid x.cls = false → ∀ a, x.start o s c = .ok a →
      ∃ t, exec (x.con o) s = .next t ∧
        IssuedFrom ((s.engineReady c a).addOp (c.started (s.engineReady c a) x.cls a)).2 t c o false (c.advance x.op o c.g) ∧
        t.mem = s.mem ∧
        ∃ id, tget? t.ops id = some (c.started (s.engineReady c a) x.cls a))

/-- The engine instructions whose checks end at issue (R424 to R429, R443 to R446). -/
def engineForms : List EngineForm :=
  [⟨.cpy, 0xE0, 0, fun o => [⟨o.a, !(o.fn.toNat % 2 == 1), [], .zext⟩, ⟨o.b, !(o.fn.toNat ≥ 2), [], .zext⟩, raw32 o.c], cpyStart⟩,
   ⟨.cpym, 0xE1, 0, fun o => [raw32 o.a, ⟨o.b, true, [], .zext⟩, raw32 o.c], cpymStart⟩,
   ⟨.gath, 0xE2, 1, fun o => [raw32 o.a], gathStart false⟩,
   ⟨.scat, 0xE3, 1, fun o => [raw32 o.a], gathStart true⟩,
   ⟨.gcsr, 0xE4, 1, fun o => [raw32 o.a], gcsrStart⟩,
   ⟨.stage, 0xE5, 0, fun o => [raw32 o.a], stageStart⟩,
   ⟨.ldb, 0xE8, 2, fun o => [⟨o.a, true, [], .zext⟩, raw32 o.b, raw32 o.c], ldbStart⟩,
   ⟨.dpfx, 0xF4, 6, fun o => [raw32 o.a], decodeStart 0⟩,
   ⟨.drle, 0xF5, 6, fun o => [raw32 o.a], decodeStart 1⟩,
   ⟨.dbit, 0xF6, 6, fun o => [raw32 o.a], decodeStart 2⟩,
   ⟨.dchk, 0xF7, 7, fun o => [raw32 o.a], dchkStart⟩]

/-! ## Messages -/

/-- Message `m` is `x`, of a kind, and stands ready at its receiver (R148). -/
def State.Has (s : State) (m : Nat) (x : Msg) (k : MsgKind) : Prop :=
  tget? s.msgs m = some x ∧ x.kind = k ∧ s.ready m x = true

/-- Message `m` is `x`, of a kind, and stands ready at a slice that is awake and not moving its line (R85, R148, R155). -/
def State.HasHome (s : State) (m : Nat) (x : Msg) (k : MsgKind) : Prop := s.Has m x k ∧ s.readyHome m x = true

end Sys2Proof.Machine
end

