-- ==== Sys2Proof/WellFormed.lean ====
section
/-! DEFINITION. Well-formed steps: what the words of an instruction can say (R297 to R303), and the ranges that the manual gives
the agents and numbers of an event. -/
namespace Sys2Proof

/-- Whether the fields of an instruction are what words can give (R297, R301, R302): no ill-formed field, nothing in an
absent extension or literal word, and for BRA and CALL the target selector of the form. -/
def wfWord (op : Nat) (label : Option Bool) (o : Operands) : Bool :=
  match opForm op o.fn.toNat with
  | none => false
  | some f => formSub op f f.1 o == 0 && (f.1 || o.c == 0#7 && o.fn == 0#5) && (hasLit o || o.lit == 0#32) &&
      (match label with | none => true | some b => (o.b == 127#7) == b)

/-- Whether a function has a BAR that an access names, and the access is aligned to its width (R51, R52, R461); 16 stands for the
control register of the Resizable BAR capability. -/
def hostAccess (func bar off width : Nat) : Bool :=
  (bar == 0 || bar == 2 || (bar == 16 && func == 0)) && (width == 4 || width == 8 || width == 16) && off % width == 0

/-- Whether a step is well formed. -/
def Instr.wf (i : Instr) : Bool :=
  match i with
  | .nop o => wfWord 0x01 none o
  | .mode o => wfWord 0x02 none o
  | .bra o => wfWord 0x03 (some false) o
  | .braLabel o => wfWord 0x03 (some true) o
  | .br o => wfWord 0x04 none o
  | .join o => wfWord 0x05 none o
  | .brx o => wfWord 0x06 none o
  | .call o => wfWord 0x07 (some false) o
  | .callLabel o => wfWord 0x07 (some true) o
  | .ret o => wfWord 0x08 none o
  | .exit o => wfWord 0x09 none o
  | .yield o => wfWord 0x0A none o
  | .trap o => wfWord 0x0B none o
  | .rft o => wfWord 0x0C none o
  | .rdsr o => wfWord 0x0D none o
  | .wrsr o => wfWord 0x0E none o
  | .boost o => wfWord 0x0F none o
  | .srseed o => wfWord 0x10 none o
  | .pset o => wfWord 0x20 none o
  | .plog o => wfWord 0x21 none o
  | .pmov o => wfWord 0x22 none o
  | .ballot o => wfWord 0x23 none o
  | .popm o => wfWord 0x24 none o
  | .shfl o => wfWord 0x28 none o
  | .bcast o => wfWord 0x29 none o
  | .lred o => wfWord 0x2A none o
  | .lscan o => wfWord 0x2B none o
  | .vote o => wfWord 0x2C none o
  | .matchLanes o => wfWord 0x2D none o
  | .perm o => wfWord 0x2E none o
  | .iadd o => wfWord 0x40 none o
  | .isub o => wfWord 0x41 none o
  | .imul o => wfWord 0x42 none o
  | .imulh o => wfWord 0x43 none o
  | .imad o => wfWord 0x44 none o
  | .imin o => wfWord 0x45 none o
  | .imax o => wfWord 0x46 none o
  | .iabs o => wfWord 0x47 none o
  | .ineg o => wfWord 0x48 none o
  | .icmp o => wfWord 0x60 none o
  | .icvt o => wfWord 0x61 none o
  | .bitAnd o => wfWord 0x50 none o
  | .bitOr o => wfWord 0x51 none o
  | .bitXor o => wfWord 0x52 none o
  | .bitNot o => wfWord 0x53 none o
  | .shl o => wfWord 0x54 none o
  | .shr o => wfWord 0x55 none o
  | .sar o => wfWord 0x56 none o
  | .rot o => wfWord 0x57 none o
  | .fshl o => wfWord 0x58 none o
  | .fshr o => wfWord 0x59 none o
  | .bfx o => wfWord 0x5A none o
  | .bfi o => wfWord 0x5B none o
  | .popc o => wfWord 0x5C none o
  | .clz o => wfWord 0x5D none o
  | .brev o => wfWord 0x5E none o
  | .sel o => wfWord 0x5F none o
  | .lea o => wfWord 0x68 none o
  | .adda o => wfWord 0x69 none o
  | .aff o => wfWord 0x6A none o
  | .fadd o => wfWord 0x70 none o
  | .fsub o => wfWord 0x71 none o
  | .fmul o => wfWord 0x72 none o
  | .fma o => wfWord 0x73 none o
  | .fmin o => wfWord 0x74 none o
  | .fmax o => wfWord 0x75 none o
  | .fneg o => wfWord 0x76 none o
  | .fabs o => wfWord 0x77 none o
  | .fcmp o => wfWord 0x78 none o
  | .fclass o => wfWord 0x79 none o
  | .frnd o => wfWord 0x7A none o
  | .fscale o => wfWord 0x7B none o
  | .frcp o => wfWord 0x80 none o
  | .frsq o => wfWord 0x81 none o
  | .fsqrt o => wfWord 0x82 none o
  | .fexp2 o => wfWord 0x83 none o
  | .flog2 o => wfWord 0x84 none o
  | .fsin o => wfWord 0x85 none o
  | .fcos o => wfWord 0x86 none o
  | .cvt o => wfWord 0x90 none o
  | .pack o => wfWord 0x91 none o
  | .unpack o => wfWord 0x92 none o
  | .flgrd o => wfWord 0x93 none o
  | .flgclr o => wfWord 0x94 none o
  | .ld o => wfWord 0xA0 none o
  | .st o => wfWord 0xA1 none o
  | .lds o => wfWord 0xA2 none o
  | .sts o => wfWord 0xA3 none o
  | .ldx o => wfWord 0xA4 none o
  | .stx o => wfWord 0xA5 none o
  | .pref o => wfWord 0xA6 none o
  | .atom o => wfWord 0xA8 none o
  | .atoms o => wfWord 0xA9 none o
  | .red o => wfWord 0xAA none o
  | .waitcnt o => wfWord 0xB0 none o
  | .commit o => wfWord 0xB1 none o
  | .bar o => wfWord 0xC0 none o
  | .darrive o => wfWord 0xC1 none o
  | .dwait o => wfWord 0xC2 none o
  | .garrive o => wfWord 0xC3 none o
  | .gwait o => wfWord 0xC4 none o
  | .evset o => wfWord 0xC8 none o
  | .evclr o => wfWord 0xC9 none o
  | .waitany o => wfWord 0xCA none o
  | .msend o => wfWord 0xCC none o
  | .mrecv o => wfWord 0xCD none o
  | .xshf o => wfWord 0xCE none o
  | .trig o => wfWord 0xD0 none o
  | .launch o => wfWord 0xD1 none o
  | .cpy o => wfWord 0xE0 none o
  | .cpym o => wfWord 0xE1 none o
  | .gath o => wfWord 0xE2 none o
  | .scat o => wfWord 0xE3 none o
  | .gcsr o => wfWord 0xE4 none o
  | .stage o => wfWord 0xE5 none o
  | .close o => wfWord 0xE6 none o
  | .waitb o => wfWord 0xE7 none o
  | .ldb o => wfWord 0xE8 none o
  | .mfence o => wfWord 0xE9 none o
  | .mma o => wfWord 0xEA none o
  | .mmas o => wfWord 0xEB none o
  | .accnext o => wfWord 0xEC none o
  | .accrd o => wfWord 0xED none o
  | .accwr o => wfWord 0xEE none o
  | .epi o => wfWord 0xEF none o
  | .coll o => wfWord 0xF0 none o
  | .dpfx o => wfWord 0xF4 none o
  | .drle o => wfWord 0xF5 none o
  | .dbit o => wfWord 0xF6 none o
  | .dchk o => wfWord 0xF7 none o
  | .unassignedOpcode op _ _ => (opForm op.toNat 0).isNone
  | .powerOnReset => true
  | .moduleReset => true
  | .chipletReset run => run.chiplet < 8
  | .railUp _ => true
  | .railFault _ => true
  | .standbyPowerRemoved => true
  | .imageVerifyDone _ => true
  | .recoveryGo _ => true
  | .baseStageDone => true
  | .memoryStageDone => true
  | .clusterCalibrationDone done => done.cluster < 48
  | .attnonceWrite _ => true
  | .attestationGo => true
  | .attestationDone => true
  | .clusterRetentionEntry cluster => cluster < 48
  | .clusterWake cluster => cluster < 48
  | .sliceRetentionEntry slice => slice < 96
  | .sliceWake slice => slice < 96
  | .loopSample _ _ => true
  | .inletOutOfRange _ => true
  | .loopRestored _ => true
  | .sensorSample read => read.temps.length == 194
  | .laserModuleLoss module => module < 6
  | .boostBoundary _ => true
  | .permitRefill cluster => cluster < 48
  | .exclusionSubperiodEnd => true
  | .registerWrite func place width _ => func < 17 && hostAccess func place.bar place.off width
  | .readToClear func place width => func < 17 && hostAccess func place.bar place.off width
  | .portEnable port _ => port < 16
  | .portDisable port _ => port < 16
  | .portRetrain port _ => port < 16
  | .portTrainingDone port => port < 16
  | .pwgtWrite port _ => port < 16
  | .pdevidWrite _ => true
  | .flitSlot port => port < 16
  | .flitReceive port _ => port < 16
  | .goBackNReplay port _ => port < 16
  | .portReplayLimit port => port < 16
  | .portReceiveTimeout port => port < 16
  | .peerRequestSend port => port < 16
  | .routeHoldRelease device => device < 16384
  | .transitPacket port => port < 16
  | .peerLoad port => port < 16
  | .peerStore port => port < 16
  | .peerAtomic port => port < 16
  | .peerAtomicNoReturn port => port < 16
  | .peerBulkWrite port => port < 16
  | .peerCheckpointPage port => port < 16
  | .peerCollectivePacket port => port < 16
  | .peerReservedOp port => port < 16
  | .peerResponse port => port < 16
  | .ckctlGo _ => true
  | .ckctlAbort _ => true
  | .ckctlRestore _ => true
  | .checkpointQuiesceDone => true
  | .checkpointStreamDone => true
  | .restoreDone => true
  | .bar4Read _ bytes => 1 ≤ bytes && bytes ≤ 64
  | .bar4Write _ data => 1 ≤ data.length && data.length ≤ 64
  | .contextEnable func ctx _ => func < 17 && ctx < 64
  | .contextDisable func ctx _ => func < 17 && ctx < 64
  | .recordRingReadIndexWrite func ctx _ => func < 17 && ctx < 64
  | .heldRecordWrite ctx => ctx < 64
  | .atsInvalidation func _ _ _ => func < 17
  | .atsInvalidationCompletion => true
  | .prgResponse entry _ => entry < 512
  | .priTimeout entry => entry < 512
  | .qwinWrite func queue _ => func < 17 && queue < 4096
  | .queueCreate func queue _ => func < 17 && queue < 4096
  | .queueDestroy func queue _ => func < 17 && queue < 4096
  | .queueStop func queue _ => func < 17 && queue < 4096
  | .queueAbort func queue _ => func < 17 && queue < 4096
  | .queueResume func queue _ => func < 17 && queue < 4096
  | .recordFetch queue => queue < 4096
  | .recordFetchComplete queue => queue < 4096
  | .recordStart queue => queue < 4096
  | .waitAddressPoll queue => queue < 4096
  | .recordCompletionActions queue => queue < 4096
  | .flrVf vf => 1 ≤ vf && vf < 17
  | .flrPf => true
  | .flrQueueDestroy queue => queue < 4096
  | .gridStart queue => queue < 4096
  | .gridReady _ => true
  | .budgetPeriodBoundary => true
  | .accountCharge index => index < 1024
  | .placementDecision => true
  | .placementReservation => true
  | .groupReady core slot => core < 384 && slot < 128
  | .registerRelease core slot => core < 384 && slot < 128
  | .teamRetire _ => true
  | .parkEligible _ => true
  | .plazaParkArm _ => true
  | .parkGo _ => true
  | .parkSpillDone _ => true
  | .dsuspSet _ => true
  | .dsuspClear _ => true
  | .preemption _ => true
  | .preemptionSpillDone _ => true
  | .chipletFenceNotice _ => true
  | .elevatorPacket _ _ => true
  | .elevatorRetireComplete port => port < 96
  | .cutOffChipletReset run => run.chiplet < 8
  | .avenueTokenGrant toSlice channel station => channel < (if toSlice then 96 else 48) && station < (if toSlice then 48 else 97)
  | .pinTableWrite off width _ => (width == 4 || width == 8) && off % width == 0
  | .pinMoveDone => true
  | .readRequest _ => true
  | .writeRequest _ => true
  | .writeCompletion _ => true
  | .writeThrough _ => true
  | .writeThroughAck _ => true
  | .tokenRecall _ => true
  | .tokack _ => true
  | .tokret _ => true
  | .gone _ => true
  | .inv _ => true
  | .invAck _ => true
  | .lineFree line => line < 3221225472
  | .dramReadReturn read => read.line < 3221225472
  | .dramWriteAck slice => slice < 96
  | .patrolScrub scrub => scrub.sector < 12884901888
  | .badLineClear slice entry => slice < 96 && entry < 64
  | .copyChunk engine => engine < 8
  | .engineOperationComplete _ => true
  | .junctionArrival _ _ => true
  | .partialParkTimeout _ _ _ => true
  | .roundaboutTimeout _ => true
  | .collectiveNameExpiry _ => true
  | .cmtReq _ => true
  | .cmtMark _ => true
  | .cmtAck _ => true
  | .mergeDone _ => true
  | .versionLineWrite _ => true
  | .versionOverflowTrap core slot => core < 384 && slot < 128
  | .discardRequest slot => slot < 131072
  | .discardComplete slot => slot < 131072
  | .icacheFill core slot entry => core < 384 && slot < 128 && entry < 8
  | .switchMarkerRelease core slot => core < 384 && slot < 128
  | .loadDataReturn _ => true
  | .chipletArrayUncorrectable core slot => core < 384 && slot < 128
  | .yieldWaitEnd core slot entry => core < 384 && slot < 128 && entry < 8
  | .matrixAccept core => core < 384
  | .tileComplete _ => true
  | .epiStart core => core < 384
  | .pageWalk p => p.chiplet < 8 && p.walker < 16
  | .dfrespServiced func ctx _ => func < 17 && ctx < 64
  | .dfrespRefused func ctx _ => func < 17 && ctx < 64
  | .dftTimeout entry => entry < 256
  | .tlbInvalidate func ctx _ => func < 17 && ctx < 64
  | .tlbInvalidateDone ctx => ctx < 64
  | .debugHalt func ctx _ => func < 17 && ctx < 64
  | .debugSnapshotDone ctx => ctx < 64
  | .debugRelease func ctx _ => func < 17 && ctx < 64
  | .barrierRelease _ => true
  | .districtArrival _ => true
  | .gridArrival _ => true
  | .eventFiring core slot index => core < 384 && slot < 128 && index < 8
  | .timerDeadline core slot index => core < 384 && slot < 128 && index < 8
  | .flagSet _ => true
  | .mailboxMessageArrival _ => true
  | .xshfMatch core slot => core < 384 && slot < 128
  | .xshfTimeout core slot => core < 384 && slot < 128
  | .trigTaken _ => true
  | .trigEffect _ => true
  | .launchAppend _ => true
  | .atsTranslationCompletion _ _ _ _ _ => true
  | .priStoppedClear func => func < 17
  | .eventCounterWrap block k => block < 496 && k < 8

end Sys2Proof
end

