-- ==== Sys2Proof/Certificates/Slice0/Obligations.lean ====
section
/-! DEFINITION. The statements about the model, each from the numbered rules of the spec that its docstring names. -/
open Sys2Proof Sys2Proof.Machine

/-! ## Encoding -/

/-- Decoding the words of a well-formed instruction gives it back, whatever words follow it, with the length that its words have
(R297, R298, R300 to R303, R315, R316, R326, R330). -/
def Obligations.DecodeOfEncode : Prop :=
  ∀ (i : Instr) (ws : List W32), i.wf = true → i.word?.isSome = true → decode (encode i ++ ws) = .ok (i, lengthWords i)

/-- Words written out from the encodings of the spec decode to the instructions they stand for (R297, R301, R302, R315). -/
def Obligations.WrittenWordsDecode : Prop :=
  -- IADD v3, v1, v2
  decode [0x10018104#32] = .ok (.iadd ⟨false, false, 3, 1, 2, 0, 0, 0⟩, 1) ∧
  -- IADD.s v3, v1, #5
  decode [0x900181FE#32, 5#32] = .ok (.iadd ⟨true, false, 3, 1, 127, 0, 0, 5⟩, 2) ∧
  -- FMA with FN 2 on v4, v5, v6, v7
  decode [0x1CC2050D#32, 0x0E200000#32] = .ok (.fma ⟨false, false, 4, 5, 6, 7, 2, 0⟩, 2) ∧
  -- BR on P1 with its literal word
  decode [0x010001FF#32, 0x00000000#32, 0x00050003#32] = .ok (.br ⟨false, false, 0, 1, 127, 0, 0, 0x00050003⟩, 3) ∧
  -- an opcode that the table does not assign
  decode [0x3FC00000#32] = .ok (.unassignedOpcode 0xFF false false, 1)

/-- An instruction whose extension word holds an FN that its entry does not list is illegal with SUB 2, unless a higher row of
R303 names it: whatever its other fields are (R301, R303).
A word whose major opcode the table does not assign is an unassigned opcode, whatever its other bits are and whatever
follows it (R315). There are 128 such opcodes, 0x00 and 0xFF among them, and each raises Illegal Instruction with SUB 1 in
every state in which it issues (R316). -/
def Obligations.UnassignedWordsAreRefused : Prop :=
  (∀ (o : Operands) (op : Nat) (f : Form) (ws : List W32), op < 256 →
    opForm op o.fn.toNat = some f → f.1 = true → fnAccepted op o.fn.toNat = false →
    decode (baseWord op true o :: extWord o :: ws) = .error (.illegal 2)) ∧
  (∀ (w : W32) (ws : List W32), (∀ fn, opForm (bits w 22 8).toNat fn = none) →
    decode (w :: ws) = .ok (.unassignedOpcode (bits w 22 8) (bits w 31 1 == 1#1) (bits w 30 1 == 1#1), 1)) ∧
  ((List.range 256).filter fun op => (List.range 32).all fun fn => (opForm op fn).isNone).length = 128 ∧
  (∀ fn, opForm 0x00 fn = none ∧ opForm 0xFF fn = none) ∧
  (∀ op b q s c, s.ctx? ⟨.ctl, 1, 1, true⟩ = some c →
    exec (.unassignedOpcode op b q) s = .next (s.takeTrap c (.illegal 1)))

/-! ## Element-wise instructions -/

/-- IADD, ISUB, IMUL, IMULH, IMAD, IMIN, IMAX, IABS and INEG complete under an ET of 0 to 5 and deliver, in each lane and element,
the exact result wrapped to the element's width, or clamped where the entry clamps and SAT is 1 (R343, R309).
SHL, SHR, SAR and ROT complete and shift each element by bits [7:0] of the element of B; an amount of the width or more gives 0
for SHL and SHR and the sign for SAR, and counts modulo the width for ROT (R346, R309). -/
def Obligations.IntegerArithmeticDelivers : Prop := ∀ x ∈ integerForms ++ shiftForms, x.Holds

/-- AND, OR, XOR and NOT complete and deliver their operation on W bits of each lane (R347).
FSHL, FSHR, BFX, BFI, POPC, CLZ and BREV complete and deliver their 32-bit result in each lane (R348). -/
def Obligations.LogicAndBitOperationsDeliver : Prop := ∀ x ∈ logicForms ++ bitForms, x.Holds

/-- SEL and PERM complete: each lane takes the source that its bit of P[C] selects (R347), or the bytes that its selectors name
(R375).
LEA, ADDA and AFF complete and deliver their address in each lane, in the affine form where R309 and R349 allow it. -/
def Obligations.SelectionsAndAddressesDeliver : Prop := ∀ x ∈ selectForms ++ addressForms, x.Holds

/-- FADD, FSUB, FMUL, FMA, FMIN, FMAX, FNEG, FABS, FRND and FSCALE complete under an ET of 6 to 9 and deliver in each element the
result and flags of their entries, rounding with the lane's stochastic states under RSR (R289, R357 to R360, R363, R364). -/
def Obligations.FloatArithmeticDelivers : Prop := ∀ x ∈ floatForms, x.Holds

/-- FRCP, FRSQ, FSQRT, FEXP2, FLOG2, FSIN and FCOS complete under ET 6, 8 and 9 and deliver in each element an allowed result
(R365, R366; which of several allowed results is a free value, log entry 4). -/
def Obligations.TranscendentalsDeliver : Prop := ∀ x ∈ xuForms, x.Holds

/-- FCLASS and FLGRD complete: each element's class bit (R362), and each lane's sticky flags at the cycle its beat enters the pipe
(R370, R371).
ICVT, CVT, PACK and UNPACK complete and deliver the converted elements (R345, R367 to R369). -/
def Obligations.ClassesAndConversionsDeliver : Prop := ∀ x ∈ classForms ++ convertForms, x.Holds

/-! ## Predicates, lanes and system registers -/

/-- ICMP, FCMP, PSET, PLOG, PMOV and VOTE complete and write the bits of predicate D that their entries give, leaving every other
predicate and every register alone (R341, R342, R344, R361, R378). -/
def Obligations.PredicateWritesDeliver : Prop := ∀ x ∈ predForms, x.Holds

/-- SHFL, BCAST, MATCH, LRED, LSCAN, BALLOT and POPM complete and deliver in each lane what their entries compute from the other
lanes or from a predicate (R342, R373, R374, R376, R377, R379).
RDSR completes for every register of the map and delivers its value (R353, R354). -/
def Obligations.LaneExchangeAndRdsrDeliver : Prop := ∀ x ∈ laneForms ++ systemForms, x.Holds

/-- MODE, WRSR, BOOST, SRSEED, FLGCLR and EVCLR complete and change in their group what their entries name, and nothing else of it
but the fragment's PC (R310, R332, R353, R355, R356, R370, R406). A MODE value that R311 does not allow, or a WRSR of a
register that is not in the map or not writable, traps. -/
def Obligations.GroupStateWrites : Prop :=
  (∀ o s c, Issues 0x02 o ctlTiming s c → modeAllowed (c.single o o.a) = true → c.check true [raw32 o.a] 120#7 false [] false = .ok () →
    ∃ t g', exec (.mode o) s = .next t ∧ MachineFrame s t c ∧ t.group? c.core c.slot = some g' ∧
      g'.mode = BitVec.ofNat 32 (c.single o o.a) ∧
      { g' with mode := c.g.mode, outs := c.g.outs, split := c.g.split, joins := c.g.joins, parkedAt := c.g.parkedAt } = c.g) ∧
  (∀ o s c, Issues 0x02 o ctlTiming s c → modeAllowed (c.single o o.a) = false →
    exec (.mode o) s = .next (s.takeTrap c .mode)) ∧
  (∀ o s c w64, Issues 0x0E o wrsrTiming s c → srInfo o.lit.toNat = some (w64, true) → (w64 && isReg o.a && o.a.toNat % 2 == 1) = false →
    (c.mask ≠ 0 → c.g.handler = true → o.lit = 0x41#32 → modeAllowed (c.single o o.a w64) = true) →
    c.check true [⟨o.a, w64, [], .zext⟩] 120#7 false = .ok () →
    ∃ t g', exec (.wrsr o) s = .next t ∧ MachineFrame s t c ∧ t.group? c.core c.slot = some g' ∧
      { g' with hpc := c.g.hpc, hmode := c.g.hmode, hexec := c.g.hexec, split := c.g.split, joins := c.g.joins, parkedAt := c.g.parkedAt } = c.g ∧
      (c.mask = 0 ∨ c.g.handler = false → g'.hpc = c.g.hpc ∧ g'.hmode = c.g.hmode ∧ g'.hexec = c.g.hexec) ∧
      (c.mask ≠ 0 → c.g.handler = true →
        g'.hpc = (if o.lit = 0x40#32 then BitVec.ofNat 64 (c.single o o.a w64 / 4 * 4) else c.g.hpc) ∧
        g'.hmode = (if o.lit = 0x41#32 then BitVec.ofNat 32 (c.single o o.a w64) else c.g.hmode) ∧
        g'.hexec = (if o.lit = 0x42#32 then BitVec.ofNat 64 (c.single o o.a w64) else c.g.hexec))) ∧
  (∀ o s c, Issues 0x0E o wrsrTiming s c → (∀ w64, srInfo o.lit.toNat ≠ some (w64, true)) →
    exec (.wrsr o) s = .next (s.takeTrap c (.illegal 4))) ∧
  (∀ o s c, Issues 0x0F o ctlTiming s c → c.check true [raw32 o.a] 120#7 false = .ok () →
    ∃ t g', exec (.boost o) s = .next t ∧ MachineFrame s t c ∧ t.group? c.core c.slot = some g' ∧
      g'.boost = (if c.mask = 0 then c.g.boost else c.single o o.a != 0) ∧
      { g' with boost := c.g.boost, split := c.g.split, joins := c.g.joins, parkedAt := c.g.parkedAt } = c.g) ∧
  (∀ o s c, Issues 0x10 o srseedTiming s c → c.check true [raw32 o.a] 120#7 false = .ok () →
    ∃ t g', exec (.srseed o) s = .next t ∧ MachineFrame s t c ∧ t.group? c.core c.slot = some g' ∧
      { g' with sr := c.g.sr, outs := c.g.outs, split := c.g.split, joins := c.g.joins, parkedAt := c.g.parkedAt } = c.g ∧
      g'.sr = (if c.mask = 0 then c.g.sr else c.g.sr.zipIdx.map fun (x, l) =>
        if inMask c.mask l then BitVec.ofNat 32 (c.value (raw32 o.a) o l (if c.isUniform o.a then c.now else c.laneTime l)) else x)) ∧
  (∀ o s c, Issues 0x94 o flagTiming s c → c.check true [raw32 o.a] 120#7 false = .ok () →
    ∃ t g', exec (.flgclr o) s = .next t ∧ MachineFrame s t c ∧ t.group? c.core c.slot = some g' ∧
      { g' with flagQueue := c.g.flagQueue, split := c.g.split, joins := c.g.joins, parkedAt := c.g.parkedAt } = c.g ∧
      g'.flagQueue = c.g.flagQueue ++ (lanesOf c.mask).map fun l =>
        FlagEvent.mk ((c.avail (c.isUniform o.a)).getD (l / 16) 0) l
          (BitVec.ofNat 5 (c.value (raw32 o.a) o l (if c.isUniform o.a then c.now else c.laneTime l))) false) ∧
  (∀ o s c, Issues 0xC9 o ctlTiming s c → c.check true [raw32 o.a] 120#7 false [] false = .ok () →
    ∃ t g', exec (.evclr o) s = .next t ∧ MachineFrame s t c ∧ t.group? c.core c.slot = some g' ∧
      { g' with pev := c.g.pev, evd := c.g.evd, split := c.g.split, joins := c.g.joins, parkedAt := c.g.parkedAt } = c.g ∧
      g'.pev = c.g.pev &&& ~~~ BitVec.ofNat 8 (c.single o o.a) ∧
      ∀ k, k < c.g.evd.length → (g'.evd.getD k (0, 0)).2 = (c.g.evd.getD k (0, 0)).2 ∧
        (g'.evd.getD k (0, 0)).1 = if (c.single o o.a / 256).testBit k then (c.g.evd.getD k (0, 0)).1 &&& BitVec.ofNat 64 (2 ^ 60 - 1)
          else (c.g.evd.getD k (0, 0)).1)

/-! ## Control flow -/

/-- NOP, BRA in both forms, RET, JOIN and YIELD complete: the fragment goes to the address that the entry gives, and after a branch
issues again 4 cycles later (R329, R331, R333, R336). A register target that is not a multiple of 4 is Misaligned. -/
def Obligations.BranchesGo : Prop :=
  (∀ o s c, Issues 0x01 o ctlTiming s c → ∃ t, exec (.nop o) s = .next t ∧ Leaves s t c o (c.advance 0x01 o c.g)) ∧
  (∀ o s c, Issues 0x03 o ctlTiming s c → c.check true [⟨o.a, true, [], .zext⟩] 120#7 false [] false = .ok () →
    c.single o o.a true % 4 = 0 →
    ∃ t, exec (.bra o) s = .next t ∧ Leaves s t c o (c.branched (c.g.goTo c.entry (BitVec.ofNat 64 (c.single o o.a true))))) ∧
  (∀ o s c, Issues 0x03 o ctlTiming s c → c.check true [⟨o.a, true, [], .zext⟩] 120#7 false [] false = .ok () →
    c.single o o.a true % 4 ≠ 0 →
    exec (.bra o) s = .next (s.takeTrap c (.misaligned 255 (BitVec.ofNat 64 (c.single o o.a true))))) ∧
  (∀ o s c, Issues 0x03 o ctlTiming s c →
    ∃ t, exec (.braLabel o) s = .next t ∧ Leaves s t c o (c.branched (c.g.goTo c.entry (c.f.pc + 4#64 * o.lit.signExtend 64)))) ∧
  (∀ o s c, Issues 0x08 o ctlTiming s c → c.check true [⟨o.a, true, [], .zext⟩] 120#7 false [] false = .ok () →
    c.single o o.a true % 4 = 0 →
    ∃ t, exec (.ret o) s = .next t ∧ Leaves s t c o (c.branched (c.g.goTo c.entry (BitVec.ofNat 64 (c.single o o.a true))))) ∧
  (∀ o s c k, Issues 0x05 o ctlTiming s c → tget? c.g.joins c.f.jrec = some k →
    ∃ t, exec (.join o) s = .next t ∧ Leaves s t c o (c.branched (c.g.goTo c.entry k.join))) ∧
  (∀ o s c, Issues 0x05 o ctlTiming s c → tget? c.g.joins c.f.jrec = none →
    ∃ t, exec (.join o) s = .next t ∧ Leaves s t c o (c.advance 0x05 o c.g)) ∧
  (∀ o s c, Issues 0x0A o ctlTiming s c →
    ∃ t, exec (.yield o) s = .next t ∧ Leaves s t c o (c.blocked 0x0A o c.g (.yield (c.now + 32 * c.cyc))))

/-- CALL completes in both forms: the pair D takes the address of the next instruction as UINT64 in every lane of the fragment's
MASK, and the fragment goes to its target (R334); a compact D that takes no such value is the Shape trap, before a target that is
not a multiple of 4 (R252). -/
def Obligations.CallsLink : Prop :=
  (∀ o s c e, Issues 0x07 o callTiming s c → c.check true [⟨o.a, true, [], .zext⟩] 120#7 false [] false = .ok () →
    c.single o o.a true % 4 = 0 → c.result o.d true 3 0 (.uni (c.next 0x07 o).toNat) c.f.mask = .ok e →
    ∃ t, exec (.call o) s = .next t ∧
      Leaves s t c o (c.branched ((e.apply c o.q c.g).goTo c.entry (BitVec.ofNat 64 (c.single o o.a true))))) ∧
  (∀ o s c e, Issues 0x07 o callTiming s c → c.check true [] o.d true [] false = .ok () →
    c.result o.d true 3 0 (.uni (c.next 0x07 o).toNat) c.f.mask = .ok e →
    ∃ t, exec (.callLabel o) s = .next t ∧
      Leaves s t c o (c.branched ((e.apply c o.q c.g).goTo c.entry (c.f.pc + 4#64 * o.lit.signExtend 64)))) ∧
  (∀ o s c, Issues 0x07 o callTiming s c → c.check true [⟨o.a, true, [], .zext⟩] 120#7 false [] false = .ok () → isReg o.d = true →
    c.g.g ≤ o.d.toNat + 1 → c.f.mask ≠ 0 → c.f.mask ≠ fullMask → exec (.call o) s = .next (s.takeTrap c .shape)) ∧
  (∀ (o : Operands) (c : Ctx) (e : Effect), c.result o.d true 3 0 (.uni (c.next 0x07 o).toNat) c.f.mask = .ok e →
    isReg o.d = true → c.quiet [o.d.toNat, o.d.toNat + 1] → c.f.mask ≠ 0 →
    ∀ l, l < 64 →
      let g' := e.apply c o.q c.g
      ((g'.reg (o.d.toNat + 1)).val.lane l ++ (g'.reg o.d.toNat).val.lane l =
        if inMask c.f.mask l then c.f.pc + BitVec.ofNat 64 (instrBytes 0x07 o)
        else (c.g.reg (o.d.toNat + 1)).val.lane l ++ (c.g.reg o.d.toNat).val.lane l) ∧
      (g'.reg o.d.toNat).fmt = 3 ∧ (g'.reg (o.d.toNat + 1)).fmt = 3)

/-- BR and BRX complete: the lanes of the taken set go to the target and the others go on, as one fragment where either set is
empty and as two that meet at the join address otherwise; a split with no free record takes Split Depth, and a target of BRX that is
not a multiple of 4 is Misaligned after that (R206, R252, R335, R338).
A fragment that goes to an address which is not its record's join address stands there, with every other fragment and record
as it was (R207). -/
def Obligations.DivergentBranchesSplit : Prop :=
  (∀ o s c, Issues 0x04 o ctlTiming s c → c.hazard [] [o.a.toNat] false = false →
    let p := if o.fn = 1#5 then ~~~ c.g.predAt c.seed o.a.toNat c.now else c.g.predAt c.seed o.a.toNat c.now
    let split := c.g.splitAt c.entry (c.f.mask &&& p) (c.f.mask &&& ~~~ p)
      (c.f.pc + 4#64 * (o.lit.extractLsb' 0 16).signExtend 64) (c.f.pc + BitVec.ofNat 64 (instrBytes 0x04 o))
      (c.f.pc + 4#64 * (o.lit.extractLsb' 16 16).signExtend 64) c.now
    (∀ g, split = some g → ∃ t, exec (.br o) s = .next t ∧ Leaves s t c o (c.branched g)) ∧
    (split = none → exec (.br o) s = .next (s.takeTrap c { cause := 0x0D }))) ∧
  (∀ o s c, Issues 0x06 o ctlTiming s c → c.check true [⟨o.a, true, [], .zext⟩] 120#7 false = .ok () →
    let target := fun l => BitVec.ofNat 64 (c.value ⟨o.a, true, [], .zext⟩ o l c.now)
    let first := target (lowLane c.mask)
    let taken := (c.f.mask &&& ~~~ c.mask) ||| maskOf fun l => inMask c.mask l && target l == first
    let split := c.g.splitAt c.entry taken (c.f.mask &&& ~~~ taken) first c.f.pc (c.f.pc + 4#64 * o.lit.signExtend 64) c.now
    (c.mask = 0 → ∃ t, exec (.brx o) s = .next t ∧ Leaves s t c o (c.branched (c.advance 0x06 o c.g))) ∧
    (c.mask ≠ 0 → ∀ g, split = some g → first.extractLsb' 0 2 = 0#2 → ∃ t, exec (.brx o) s = .next t ∧ Leaves s t c o (c.branched g)) ∧
    (c.mask ≠ 0 → split = none → exec (.brx o) s = .next (s.takeTrap c { cause := 0x0D })) ∧
    (c.mask ≠ 0 → split.isSome = true → first.extractLsb' 0 2 ≠ 0#2 →
      exec (.brx o) s = .next (s.takeTrap c (.misaligned (lowLane c.mask) first)))) ∧
  (∀ (g : Group) (e : Nat) (t n tpc npc j : W64) (now : Nat) (f : Frag), tget? g.split e = some f →
    (n = 0 → g.splitAt e t n tpc npc j now = some (g.goTo e tpc)) ∧
    (n ≠ 0 → t = 0 → g.splitAt e t n tpc npc j now = some (g.goTo e npc)) ∧
    (n ≠ 0 → t ≠ 0 → (g.splitAt e t n tpc npc j now = none ↔ tfree g.joins 16 = none))) ∧
  (∀ (g : Group) (e : Nat) (pc : W64) (f : Frag), tget? g.split e = some f →
    (∀ k, tget? g.joins f.jrec = some k → k.join ≠ pc) →
    tget? (g.goTo e pc).split e = some { f with pc := pc } ∧ (g.goTo e pc).joins = g.joins ∧
      ∀ k, k ≠ e → tget? (g.goTo e pc).split k = tget? g.split k)

/-- EXIT completes: with no lane active it does nothing; otherwise the lanes of the effective mask leave, or in handler mode every
lane of the group, and a group with none left gives up its slot (R208, R249, R339). TRAP with lanes active takes the Software
trap with its code, having issued, and saves the address after it; with none it does nothing (R351). RFT returns from handler
mode by a branch, which may arrive at its record's join (R207, R247, R352), and outside it is illegal with SUB 6. An unassigned opcode is illegal with SUB 1 (R316). -/
def Obligations.ExitsAndTraps : Prop :=
  (∀ o s c, Issues 0x09 o ctlTiming s c →
    (c.mask = 0 → ∃ t, exec (.exit o) s = .next t ∧ Leaves s t c o (c.advance 0x09 o c.g)) ∧
    (c.mask ≠ 0 → c.g.handler = true →
      exec (.exit o) s = .next ((s.afterIssue c o 1 { c.g with split := [], joins := [], exited := fullMask }).exitGroup c.core c.slot)) ∧
    (c.mask ≠ 0 → c.g.handler = false → (c.g.exitLanes c.entry c.mask).gone = true →
      exec (.exit o) s = .next ((s.afterIssue c o 1 (c.g.exitLanes c.entry c.mask)).exitGroup c.core c.slot)) ∧
    (c.mask ≠ 0 → c.g.handler = false → (c.g.exitLanes c.entry c.mask).gone = false →
      ∃ g, exec (.exit o) s = .next (((s.afterIssue c o 1 g).lateArrivals c.core c.slot).noteArrivals c.g.team) ∧
        g.exited = (c.g.exitLanes c.entry c.mask).exited ∧ g.regs = (c.g.exitLanes c.entry c.mask).regs)) ∧
  (∀ o s c, Issues 0x0B o ctlTiming s c → c.check true [raw32 o.a] 120#7 false = .ok () →
    (c.mask = 0 → ∃ t, exec (.trap o) s = .next t ∧ Leaves s t c o (c.advance 0x0B o c.g)) ∧
    (c.mask ≠ 0 → exec (.trap o) s = .next ((s.afterIssue c o 1 c.g).trapTo c.core c.slot c.entry
      { cause := 0x0E, lane := lowLane c.mask, info := BitVec.ofNat 32 (c.single o o.a) }
      (c.f.pc + BitVec.ofNat 64 (instrBytes 0x0B o))))) ∧
  (∀ o s c, Issues 0x0C o ctlTiming s c →
    (c.g.handler = false → exec (.rft o) s = .next (s.takeTrap c (.illegal 6))) ∧
    (c.g.handler = true →
      let g := (c.g.leaveHandler c.entry).arrive c.entry 40
      exec (.rft o) s = .next ((s.afterIssue c o 1 (c.branchDelay (g.split.map fun e => e.1) g)).takeHeld c.core c.slot))) ∧
  (∀ op b q s c, s.ctx? ⟨.ctl, 1, 1, true⟩ = some c →
    exec (.unassignedOpcode op b q) s = .next (s.takeTrap c (.illegal 1)))

/-! ## Traps -/

/-- Taking a trap bound for the context handler (R247): HPC, HMODE and HEXEC save the PC, MODE and EXEC, TREC0 to TREC7 take the
record, the fragment goes to the handler with MODE 0 and EXEC all ones, and the group's other fragments stop. Registers,
predicates and memory keep their values. -/
def Obligations.TrapEntrySavesAndRedirects : Prop :=
  ∀ (s : State) (core slot entry : Nat) (t : Trap) (pc : W64) (g : Group) (f : Frag), s.group? core slot = some g →
    tget? g.split entry = some f → g.handler = false → (s.gridAt (s.teamOf g).grid).eff.handler ≠ 0 →
    ∃ g', (s.trapTo core slot entry t pc).group? core slot = some g' ∧
      g'.hpc = pc ∧ g'.hmode = g.mode ∧ g'.hexec = g.exec ∧ g'.mode = 0 ∧ g'.exec = BitVec.allOnes 64 ∧ g'.handler = true ∧
      g'.trec.length = 8 ∧ g'.regs = g.regs ∧ g'.preds = g.preds ∧ g'.sr = g.sr ∧
      tget? g'.split entry = some { f with pc := (s.gridAt (s.teamOf g).grid).eff.handler, wait := .none } ∧
      (∀ k h, k ≠ entry → tget? g.split k = some h → tget? g'.split k = some { h with stopped := true }) ∧
      (s.trapTo core slot entry t pc).mem = s.mem ∧
      ∀ k, k ≠ slotKey core slot → tget? (s.trapTo core slot entry t pc).groups k = tget? s.groups k

/-- Return from a trap (R247, R352): the PC, MODE and EXEC come back from HPC, HMODE and HEXEC, the group leaves handler mode, and
its stopped fragments go on; a return after an entry gives back the MODE and EXEC that the entry saved. -/
def Obligations.ReturnRestores : Prop :=
  (∀ (g : Group) (e : Nat) (f : Frag), tget? g.split e = some f →
    (g.leaveHandler e).mode = g.hmode ∧ (g.leaveHandler e).exec = g.hexec ∧ (g.leaveHandler e).handler = false ∧
    (g.leaveHandler e).regs = g.regs ∧ (g.leaveHandler e).preds = g.preds ∧
    tget? (g.leaveHandler e).split e = some { f with pc := g.hpc, stopped := false } ∧
    ∀ k h, k ≠ e → tget? g.split k = some h → tget? (g.leaveHandler e).split k = some { h with stopped := false }) ∧
  (∀ (g : Group) (e : Nat) (hpc handler : W64) (r : List Byte),
    ((g.enterHandler e hpc handler r).leaveHandler e).mode = g.mode ∧ ((g.enterHandler e hpc handler r).leaveHandler e).exec = g.exec ∧
    ((g.enterHandler e hpc handler r).leaveHandler e).handler = false)

/-- A trap in handler mode, or where the grid has no handler, is posted as a record with its cause, and ends the team's fault
domain (R248, R251). -/
def Obligations.TrapWithoutHandlerEndsTheDomain : Prop :=
  ∀ (s : State) (core slot entry : Nat) (t : Trap) (pc : W64) (g : Group), s.group? core slot = some g →
    (g.handler = true → ∃ r : Record, s.trapTo core slot entry t pc = ((s.tally core 13 1).abortTeam g.team).post r (some g.uid) ∧
      r.cause = t.cause ∧ r.sub = t.sub ∧ r.lane = t.lane ∧ r.pc = pc.toNat) ∧
    (g.handler = false → (s.gridAt (s.teamOf g).grid).eff.handler = 0 →
      ∃ r : Record, s.trapTo core slot entry t pc = ((s.tally core 13 1).abortTeam g.team).post r (some g.uid) ∧
      r.cause = t.cause ∧ r.sub = t.sub ∧ r.lane = t.lane ∧ r.pc = pc.toNat)

/-- An instruction that traps makes none of its effects (R252): whatever an arithmetic instruction's operands are, where a field
names a register that the group does not have, where a pair reaches past them, or where an operand check fails, the state is
that of the trap alone. Broken tags of a restore take the Shape trap where none of the checks before Shape fails (R252, R262). -/
def Obligations.TrapsMakeNoEffect : Prop :=
  ∀ x ∈ integerForms ++ shiftForms ++ floatForms ++ xuForms ++ convertForms ++ logicForms ++ bitForms,
    ∀ (o : Operands) (s : State) (c0 : Ctx), s.ctx? ⟨.ctl, 1, 1, true⟩ = some c0 →
      let c : Ctx := { c0 with tm := x.tm c0 }
      (fieldsPast x.op o (c.g.g + c.g.c) = true → exec (x.con o) s = .next (s.takeTrap c (.illegal 5))) ∧
      (fieldsPast x.op o (c.g.g + c.g.c) = false → c.g.badTags = true → x.allowed c o = true →
        c.check true (x.srcs c o) o.d (x.w64 c o) = .ok () → exec (x.con o) s = .next (s.takeTrap c .shape)) ∧
      (fieldsPast x.op o (c.g.g + c.g.c) = false → x.allowed c o = true → ∀ t,
        c.check true (x.srcs c o) o.d (x.w64 c o) = .error t → exec (x.con o) s = .next (s.takeTrap c t))

/-! ## Memory instructions -/

/-- LD with lanes active whose pages the TLB holds completes: an access of the lanes' addresses is begun, LDCNT rises by one and the
destination registers are pending until the data returns (R229, R380, R383, R385). It stores nothing. -/
def Obligations.LoadsBegin : Prop :=
  ∀ (o : Operands) (s : State) (c : Ctx), Issues 0xA0 o memTiming s c → c.g.ldcnt < 63 →
    c.check true [basePair o, offWord o] 120#7 false = .ok () →
    c.dstCheck o.d (loadBytes o.fn.toNat) (c.uniformAddress o true) = .ok () →
    let one := c.uniformAddress o true
    let lanes := (if one then [lowLane c.mask] else lanesOf c.mask).map fun l => (l, c.memAddr o (if one then c.now else c.laneTime l) l)
    (c.mask = 0 → ∃ t, exec (.ld o) s = .next t ∧ Leaves s t c o (c.advance 0xA0 o c.g)) ∧
    (c.mask ≠ 0 → memChecks lanes (loadBytes o.fn.toNat) false = .ok () → ∀ es,
      s.translate c.core (s.teamOf c.g).ctx (slotKey c.core c.slot) c.entry lanes false false = .ok (.lanes es) →
      ∃ t u a id, exec (.ld o) s = .next t ∧ IssuedFrom u t c o one (c.advance 0xA0 o (c.g.begin a)) ∧ t.mem = s.mem ∧
        (let s1 := s.touchPages c.core (s.teamOf c.g).ctx es
         let r := ({ s1.fresh.2 with accs := tset s1.accs id a } : State).readLines id
         u = (if a.hasHost then r.askLanes id a else r).sendPeers id a) ∧
        a.op = .load ∧ a.bytes = loadBytes o.fn.toNat ∧ a.dst = o.d ∧ a.mask = c.mask ∧ a.ldc = true ∧
        (a.fmt, a.cnt) = c.loadTag o.fn.toNat ∧ a.signed = (o.fn == 4#5 || o.fn == 6#5) ∧
        a.lanes = es.map fun (l, va, e) => LaneAcc.start l e va 0 0)

/-- LDS and LDX complete: LDS takes its bytes from the team's scratchpad as it issues and LDX will read a district member's; both
raise LDCNT and leave the destination pending, and neither changes memory or the team's own scratchpad (R229, R383, R386). An LDS
that an older STX or LDX of the group to the same bytes precedes waits for it (R232). -/
def Obligations.ScratchpadLoadsBegin : Prop :=
  (∀ (o : Operands) (s : State) (c : Ctx), Issues 0xA2 o memTiming s c → c.g.ldcnt < 63 →
    c.check true [baseWord32 o, offWord o] 120#7 false = .ok () →
    c.dstCheck o.d (loadBytes o.fn.toNat) (c.uniformAddress o false) = .ok () → c.mask ≠ 0 →
    let one := c.uniformAddress o false
    let lanes := (c.scratchBeats o (loadBytes o.fn.toNat) 22 one).1
    scratchChecks lanes (loadBytes o.fn.toNat) false (fun a => a ≥ s.scratchSize c.g.team) = .ok () →
    (s.ownRemote c lanes (loadBytes o.fn.toNat) = true → exec (.lds o) s = .next (s.waitCycle c)) ∧
    (s.ownRemote c lanes (loadBytes o.fn.toNat) = false →
    ∃ t a id, exec (.lds o) s = .next t ∧ t.group? c.core c.slot = some (c.issued o (c.advance 0xA2 o (c.g.begin a))) ∧
      t.mem = s.mem ∧ t.teams = s.teams ∧ tget? t.accs id = some a ∧ a.dst = o.d ∧ a.ldc = true ∧
      a.lanes.map (fun x => (x.lane, x.got)) =
        lanes.map fun (l, p) => (l, some (s.scratchRead c.g.team p (loadBytes o.fn.toNat))))) ∧
  (∀ (o : Operands) (s : State) (c : Ctx), Issues 0xA4 o memTiming s c → c.g.ldcnt < 63 →
    c.check true [baseWord32 o, offWord o] 120#7 false = .ok () →
    c.dstCheck o.d (loadBytes o.fn.toNat) (c.uniformAddress o false) = .ok () → c.mask ≠ 0 →
    let one := c.uniformAddress o false
    let lanes := (if one then [lowLane c.mask] else lanesOf c.mask).map fun l =>
      (l, c.scratchAddr o (if one then c.now else c.laneTime l) l)
    scratchChecks lanes (loadBytes o.fn.toNat) false (fun a => s.remoteBad c.g.team a) = .ok () →
    ∃ t a id, exec (.ldx o) s = .next t ∧ t.group? c.core c.slot = some (c.issued o (c.advance 0xA4 o (c.g.begin a))) ∧
      t.mem = s.mem ∧ t.teams = s.teams ∧ tget? t.accs id = some a ∧ a.dst = o.d ∧ a.ldc = true ∧ a.space = .remote ∧
      a.lanes.map (fun x => (x.lane, x.loc)) = lanes.map fun (l, p) => (l, Loc.dev (p % 2 ^ 19)))

/-- LOAD_DATA_RETURN completes a load whose lanes all have their values: the destination's lanes of the access's mask take them,
the destination is no longer pending, LDCNT falls by one, and every other register and all of memory keep their values (R229,
R382, R383). -/
def Obligations.LoadDataArrives : Prop :=
  ∀ (s : State) (id key : Nat) (a : Access) (g : Group), tget? s.accs id = some a → a.ldc = true → a.readyAt ≤ s.time →
    s.dataComing id = false → a.dead = false → a.space ≠ .remote → a.hasHost = false → a.lanes.all (fun x => x.done && x.err == 0) = true → a.acks = 0 →
    s.groupKey? a.guid = some key → tget? s.groups key = some g → isReg a.dst = true → a.bytes ≤ 4 → a.one = false →
    (∀ n ∈ a.dstRegs, (g.settle s.time).regOuts n = []) →
    ∃ t g', exec (.loadDataReturn id) s = .next t ∧ tget? t.accs id = none ∧ tget? t.groups key = some g' ∧
      g'.ldcnt = g.ldcnt - 1 ∧ (∀ n, n ≠ a.dst.toNat → g'.reg n = g.reg n) ∧
      (∀ l x, l < 64 → inMask a.mask l = true → (a.lanes.find? fun x => x.lane == l) = some x →
        (g'.reg a.dst.toNat).val.lane l = BitVec.ofNat 32 (a.extend (x.got.getD 0))) ∧
      (∀ l, l < 64 → inMask a.mask l = false → (g'.reg a.dst.toNat).val.lane l = (g.reg a.dst.toNat).val.lane l) ∧
      (a.mask ≠ 0 → (g'.reg a.dst.toNat).fmt = a.fmt ∧ (g'.reg a.dst.toNat).cnt = a.cnt) ∧ t.mem = s.mem ∧
      ∀ k, k ≠ key → tget? t.groups k = tget? s.groups k

/-- ST, ATOM and RED with lanes active whose pages the TLB allows them to write complete: the versioned lanes of a store are merged
into the task's version lines as it issues, and the other lanes become an access that counts in STCNT, or in LDCNT for an
atomic that returns (R182, R229, R384, R389). A store whose version line must displace one that cannot leave the L1 yet, or whose bytes
an older access of the group has still to perform on, waits (R187, R232). -/
def Obligations.StoresAndAtomicsBegin : Prop :=
  (∀ (o : Operands) (s : State) (c : Ctx), Issues 0xA1 o memTiming s c → c.g.stcnt < 63 →
    c.check true ([basePair o, offWord o] ++ storeSrcs o (storeBytes o.fn.toNat)) 120#7 false = .ok () → c.mask ≠ 0 →
    let n := storeBytes o.fn.toNat
    let lanes := (lanesOf c.mask).map fun l => (l, c.memAddr o (c.laneTime l) l)
    let team := s.teamOf c.g
    memChecks lanes n true = .ok () → ∀ es,
    s.translate c.core team.ctx (slotKey c.core c.slot) c.entry lanes true false = .ok (.lanes es) →
    let ver := fun e : TlbEntry => (s.gridAt team.grid).eff.vmode == 0 && !e.d && !e.nc && !e.ats && !e.peer
    let u := s.touchPages c.core team.ctx es
    let full := es.any fun (_, va, e) => ver e && (u.storeWaits c.core team.task (e.target va) || u.olderMeets c.g.uid u.ids (e.loc va) n)
    (full = true → exec (.st o) s = .next (u.waitFrag c (.yield (u.time + bclk)))) ∧
    (full = false →
    let merged := es.foldl (fun s (l, va, e) =>
      if ver e then s.versionedStore c.core team.task (e.target va) (leBytes n (c.storeData o n l)) else s) u
    let direct := es.filter fun x => !ver x.2.2
    (direct = [] → ∃ t, exec (.st o) s = .next t ∧ IssuedFrom merged t c o false (c.advance 0xA1 o c.g)) ∧
    (direct ≠ [] → ∃ t v a, exec (.st o) s = .next t ∧ IssuedFrom v t c o false (c.advance 0xA1 o (c.g.begin a)) ∧
      v = merged.fresh.2.startWrites merged.fresh.1 a ∧ a.op = .store ∧ a.bytes = n ∧ a.ldc = false ∧
      a.lanes = direct.map fun (l, va, e) => LaneAcc.start l e va (c.storeData o n l) 0))) ∧
  (∀ (con : Operands → Instr) (op : Nat) (dst : Operands → Code), (con, op, dst) ∈ [(Instr.atom, 0xA8, fun o : Operands => o.d), (Instr.red, 0xAA, fun _ => 120#7)] →
    ∀ (o : Operands) (s : State) (c : Ctx), Issues op o memTiming s c → c.counterFull (dst o != 120#7) = false →
    c.check true ([basePair o, offWord o] ++ atomSrcs o (o.fn.toNat % 16) (o.fn.toNat ≥ 16)) 120#7 false = .ok () →
    c.dstCheck (dst o) (atomBytes o.fn.toNat) false = .ok () → c.mask ≠ 0 →
    let lanes := (lanesOf c.mask).map fun l => (l, c.memAddr o (c.laneTime l) l)
    memChecks lanes (atomBytes o.fn.toNat) true = .ok () → ∀ es,
    s.translate c.core (s.teamOf c.g).ctx (slotKey c.core c.slot) c.entry lanes true false true = .ok (.lanes es) →
    ∃ t u a, exec (con o) s = .next t ∧ IssuedFrom u t c o false (c.advance op o (c.g.begin a)) ∧
      u = (s.touchPages c.core (s.teamOf c.g).ctx es).fresh.2.startWrites (s.touchPages c.core (s.teamOf c.g).ctx es).fresh.1 a ∧
      a.op = .atom (o.fn.toNat % 16) (o.fn.toNat ≥ 16) ∧ a.dst = dst o ∧ a.ldc = (dst o != 120#7) ∧
      a.lanes = es.map fun (l, va, e) => LaneAcc.start l e va (c.atomData o (o.fn.toNat % 16) (o.fn.toNat ≥ 16) l).1
        (c.atomData o (o.fn.toNat % 16) (o.fn.toNat ≥ 16) l).2)

/-- STS completes: the team's scratchpad takes each lane's bytes, the highest lane of a byte prevailing, and every byte that no lane
stores to, every other team and all of memory are unchanged (R228, R384). ATOMS completes: it applies its lanes in ascending
order, a lane whose word no other lane names leaves its new value there, and bytes that no lane's word covers are unchanged
(R389); an atomic that returns leaves an access with its lanes' old values. Either waits for an older STX or LDX of the group to the
same bytes (R232, R239). -/
def Obligations.ScratchpadWritesLand : Prop :=
  (∀ (o : Operands) (s : State) (c : Ctx), Issues 0xA3 o memTiming s c → c.g.stcnt < 63 →
    c.check true ([baseWord32 o, offWord o] ++ storeSrcs o (storeBytes o.fn.toNat)) 120#7 false = .ok () → c.mask ≠ 0 →
    let n := storeBytes o.fn.toNat
    let lanes := (c.scratchBeats o n 22 false).1
    scratchChecks lanes n true (fun a => a ≥ s.scratchSize c.g.team) = .ok () →
    (s.ownRemote c lanes n = true → exec (.sts o) s = .next (s.waitCycle c)) ∧
    (s.ownRemote c lanes n = false →
    exec (.sts o) s = .next ((s.storeScratch c o n lanes).issueScratch c o false (c.scratchBeats o n 22 false).2.1 (c.advance 0xA3 o c.g)))) ∧
  (∀ (o : Operands) (s : State) (c : Ctx) (n cycles : Nat) (lanes : List (Nat × Nat)) (g : Group), Memory.wf (s.teamAt c.g.team).scratch = true →
    let t := (s.storeScratch c o n lanes).issueScratch c o false cycles g
    t.group? c.core c.slot = some (c.issued o g) ∧ t.mem = s.mem ∧ (∀ k, k ≠ c.g.team → t.teamAt k = s.teamAt k) ∧
    (∀ a, (∀ x ∈ lanes, a < x.2 ∨ x.2 + n ≤ a) → cget (t.teamAt c.g.team).scratch a = cget (s.teamAt c.g.team).scratch a) ∧
    ∀ before l p after, lanes = before ++ (l, p) :: after → ∀ i, i < n → (∀ x ∈ after, p + i < x.2 ∨ x.2 + n ≤ p + i) →
      cget (t.teamAt c.g.team).scratch (p + i) =
        (leBytes n (c.storeData o n l ((c.scratchTimes o n).getD (l / 16) 0))).getD i 0) ∧
  (∀ (o : Operands) (s : State) (c : Ctx), Issues 0xA9 o memTiming s c → c.counterFull (o.d != 120#7) = false →
    c.check true ([baseWord32 o, offWord o] ++ atomSrcs o (o.fn.toNat % 16) (o.fn.toNat ≥ 16)) 120#7 false = .ok () →
    c.dstCheck o.d (atomBytes o.fn.toNat) false = .ok () → c.mask ≠ 0 →
    let n := atomBytes o.fn.toNat
    let beats := c.scratchBeats o n 26 false
    scratchChecks beats.1 n true (fun a => a ≥ s.scratchSize c.g.team) = .ok () →
    let r := s.atomScratch c o beats.1
    (s.ownRemote c beats.1 n = true → exec (.atoms o) s = .next (s.waitCycle c)) ∧
    (s.ownRemote c beats.1 n = false → o.d = 120#7 → exec (.atoms o) s = .next (r.1.issueScratch c o false beats.2.1 (c.advance 0xA9 o c.g))) ∧
    (s.ownRemote c beats.1 n = false → o.d ≠ 120#7 → ∃ a, exec (.atoms o) s = .next (({ r.1.fresh.2 with accs := tset r.1.accs r.1.ids a } : State).issueScratch c o false
        beats.2.1 (c.advance 0xA9 o (c.g.begin a))) ∧
      a.dst = o.d ∧ a.ldc = true ∧ a.bytes = n ∧ a.mask = c.mask ∧ a.lanes = r.2)) ∧
  (∀ (o : Operands) (s : State) (c : Ctx) (lanes : List (Nat × Nat)), Memory.wf (s.teamAt c.g.team).scratch = true →
    let n := atomBytes o.fn.toNat
    let t := (s.atomScratch c o lanes).1
    { t with teams := s.teams } = s ∧ (∀ k, k ≠ c.g.team → t.teamAt k = s.teamAt k) ∧
    (∀ a, (∀ x ∈ lanes, a < x.2 ∨ x.2 + n ≤ a) → cget (t.teamAt c.g.team).scratch a = cget (s.teamAt c.g.team).scratch a) ∧
    ∀ before l p after, lanes = before ++ (l, p) :: after → (∀ x ∈ before ++ after, p + n ≤ x.2 ∨ x.2 + n ≤ p) → ∀ i, i < n →
      cget (t.teamAt c.g.team).scratch (p + i) =
        (leBytes n (atomNew (o.fn.toNat % 16) (o.fn.toNat ≥ 16) (s.scratchRead c.g.team p n)
          (c.atomData o (o.fn.toNat % 16) (o.fn.toNat ≥ 16) l ((c.scratchTimes o n).getD (l / 16) 0)).1
          (c.atomData o (o.fn.toNat % 16) (o.fn.toNat ≥ 16) l ((c.scratchTimes o n).getD (l / 16) 0)).2)).getD i 0)

/-- STX, PREF and WAITCNT complete: STX leaves as a message that its targets' inbound counters count (R384, R386); PREF changes
nothing of the group but its PC and stores nothing (R387); WAITCNT goes on where the counters have fallen to its operands, and its
fragment waits for them otherwise (R230, R391). -/
def Obligations.RemoteStoresHintsAndWaits : Prop :=
  (∀ (o : Operands) (s : State) (c : Ctx), Issues 0xA5 o memTiming s c → c.g.stcnt < 63 →
    c.check true ([baseWord32 o, offWord o] ++ storeSrcs o (storeBytes o.fn.toNat)) 120#7 false = .ok () → c.mask ≠ 0 →
    let n := storeBytes o.fn.toNat
    let lanes := (lanesOf c.mask).map fun l => (l, c.scratchAddr o (c.laneTime l) l)
    scratchChecks lanes n true (fun a => s.remoteBad c.g.team a) = .ok () →
    ∃ t a id, exec (.stx o) s = .next t ∧ t.group? c.core c.slot = some (c.issued o (c.advance 0xA5 o (c.g.begin a))) ∧
      t.mem = s.mem ∧ tget? t.accs id = some a ∧ a.space = .remote ∧ a.op = .store ∧ a.ldc = false ∧
      a.lanes = (lanes.map fun (l, p) => s.remoteLane c.g.team l p (c.storeData o n l)) ∧
      (∀ x ∈ a.lanes, (t.teamAt x.team).inbound = (s.teamAt x.team).inbound + 1) ∧
      ∀ k, (t.teamAt k).scratch = (s.teamAt k).scratch) ∧
  (∀ (o : Operands) (s : State) (c : Ctx), Issues 0xA6 o memTiming s c → c.check true [basePair o, offWord o] 120#7 false = .ok () →
    ∃ t, exec (.pref o) s = .next t ∧ t.group? c.core c.slot = some (c.issued o (c.advance 0xA6 o c.g)) ∧ t.mem = s.mem ∧
      t.teams = s.teams) ∧
  (∀ (o : Operands) (s : State) (c : Ctx), Issues 0xB0 o (fun _ => ⟨.ctl, 1, 1, true⟩) s c →
    let bound := fun x : Code => if x = 0#7 then none else some (x.toNat - 1)
    let met := (∀ n, bound o.a = some n → c.g.ldcnt ≤ n) ∧ ∀ n, bound o.b = some n → c.g.stcnt ≤ n
    (met → ∃ t, exec (.waitcnt o) s = .next t ∧ Leaves s t c o (c.advance 0xB0 o c.g)) ∧
    (¬ met → ∃ t, exec (.waitcnt o) s = .next t ∧ Leaves s t c o (c.blocked 0xB0 o c.g (.cnt (bound o.a) (bound o.b)))))

/-! ## Barriers, events, mailboxes, exchange and launch -/

/-- BAR, TRIG, DARRIVE, GARRIVE, DWAIT and GWAIT complete: BAR and TRIG count the fragment's lanes as arrived and wait; DARRIVE and
GARRIVE deliver the new arrival count and go on; DWAIT and GWAIT go on where the barrier has passed the generation, go on no earlier
than 320 or 2,560 cycles from the arrival that completed the generation where it is the last one, and wait for it otherwise (R214, R394
to R398, R411). -/
def Obligations.BarrierInstructionsArrive : Prop :=
  (∀ o s c, Issues 0xC0 o ctlTiming s c →
    exec (.bar o) s = .next ((s.afterIssue c o 1 (c.blocked 0xC0 o { c.g with
      barSet := c.g.barSet ||| c.f.mask, barHold := (c.g.barHold ++ s.accessesOf c.g.uid).eraseDups } .bar)).noteArrivals c.g.team)) ∧
  (∀ o s c, Issues 0xD0 o ctlTiming s c →
    exec (.trig o) s = .next ((s.afterIssue c o 1 (c.blocked 0xD0 o { c.g with
      trigSet := c.g.trigSet ||| c.f.mask } .trig)).noteArrivals c.g.team)) ∧
  (∀ o s c e, Issues 0xC1 o (fun _ => ⟨.ctl, 4, 1, true⟩) s c → c.g.darr = (tgetD s.districts (s.districtKey (s.teamOf c.g)) {}).cd →
    c.check true [] o.d false [] false = .ok () → c.result o.d false 1 0 (.uni (c.g.darr + 1).toNat) c.f.mask = .ok e →
    ∃ t r, exec (.darrive o) s = .next t ∧ r = s.arriveAt false (e.apply c o.q c.g) c.f.mask c.core ∧
      IssuedFrom r.1 t c o true ((c.blocked 0xC1 o r.2 .none).delay c.entry (c.now + 4 * c.cyc)) ∧
      r.2.darr = (if c.g.arrived (c.g.darrSet ||| c.f.mask) then c.g.darr + 1 else c.g.darr)) ∧
  (∀ o s c e, Issues 0xC3 o (fun _ => ⟨.ctl, 4, 1, true⟩) s c → c.g.garr = (s.gridAt (s.teamOf c.g).grid).cg →
    c.check true [] o.d false [] false = .ok () → c.result o.d false 1 0 (.uni (c.g.garr + 1).toNat) c.f.mask = .ok e →
    ∃ t r, exec (.garrive o) s = .next t ∧ r = (s.setNr c.g.team).arriveAt true (e.apply c o.q c.g) c.f.mask c.core ∧
      IssuedFrom r.1 t c o true ((c.blocked 0xC3 o r.2 .none).delay c.entry (c.now + 4 * c.cyc)) ∧
      r.2.garr = (if c.g.arrived (c.g.garrSet ||| c.f.mask) then c.g.garr + 1 else c.g.garr)) ∧
  (∀ o s c, Issues 0xC2 o ctlTiming s c → c.check true [raw32 o.a] 120#7 false [] false = .ok () →
    let v := BitVec.ofNat 32 (c.single o o.a)
    let d := tgetD s.districts (s.districtKey (s.teamOf c.g)) {}
    ∃ t, exec (.dwait o) s = .next t ∧ Leaves s t c o (
      if d.cd = v then (c.blocked 0xC2 o c.g .none).delay c.entry (d.cdAt + fixedCycles 320)
      else if (d.cd - v).toNat < 2 ^ 31 then c.advance 0xC2 o c.g else c.blocked 0xC2 o c.g (.dwait v))) ∧
  (∀ o s c, Issues 0xC4 o ctlTiming s c → c.check true [raw32 o.a] 120#7 false [] false = .ok () →
    let v := BitVec.ofNat 32 (c.single o o.a)
    let g := s.gridAt (s.teamOf c.g).grid
    ∃ t, exec (.gwait o) s = .next t ∧ Leaves s t c o (
      if g.cg = v then (c.blocked 0xC4 o c.g .none).delay c.entry (g.cgAt + fixedCycles 2560)
      else if (g.cg - v).toNat < 2 ^ 31 then c.advance 0xC4 o c.g else c.blocked 0xC4 o c.g (.gwait v)))

/-- EVSET, MSEND, MRECV, WAITANY and LAUNCH complete: the flag, the message or the record leaves behind the release of the group's
accesses, and the fragment waits where its entry waits (R394, R402, R405, R407, R408, R412). -/
def Obligations.EventAndMailboxInstructionsComplete : Prop :=
  (∀ o s c, Issues 0xC8 o ctlTiming s c → c.check true [raw32 o.a, raw32 o.b] 120#7 false [] false = .ok () →
    ∃ t, exec (.evset o) s = .next t ∧ IssuedFrom ((s.setNr c.g.team).send
      (.flag ((s.setNr c.g.team).teamOf c.g).ctx (c.single o o.a % 1024) (c.single o o.b != 0)) c.core plazaSlice true
      ((s.setNr c.g.team).accessesOf c.g.uid)) t c o true (c.advance 0xC8 o c.g) ∧ t.mem = s.mem) ∧
  (∀ o s c, Issues 0xCC o ctlTiming s c → c.syncCheck [raw32 o.a, ⟨o.b, true, [], .zext⟩] o.d false = .ok () →
    ∃ t m, exec (.msend o) s = .next t ∧
      t.group? c.core c.slot = some (c.issued o (c.blocked 0xCC o c.g (.status s.ids o.d))) ∧
      tget? t.msgs s.ids = some m ∧
      m.kind = .mail (s.teamOf c.g).ctx (c.single o o.a % 256) (BitVec.ofNat 64 (c.single o o.b true)) c.core c.slot c.entry ∧
      m.sent = s.time ∧ t.mem = s.mem) ∧
  (∀ o s c, Issues 0xCD o ctlTiming s c → c.syncCheck [raw32 o.a] o.d true = .ok () →
    exec (.mrecv o) s = .next ((s.afterIssue c o 1 (c.blocked 0xCD o c.g
      (.mrecv (c.single o o.a % 256) o.d c.now))).enterBox (s.teamOf c.g).ctx (c.single o o.a % 256) c.core c.slot c.entry)) ∧
  (∀ o s c, Issues 0xCA o ctlTiming s c → c.syncCheck [raw32 o.a, raw32 o.b] o.d false = .ok () → c.g.converged = true →
    let base := c.single o o.a
    let mask := BitVec.ofNat 8 (c.single o o.b)
    base % 16 = 0 → (∀ k, k < 8 → mask.getLsbD k = true → base + 16 * k + 16 ≤ s.scratchSize c.g.team) →
    ∃ t g w, exec (.waitany o) s = .next t ∧ Leaves s t c o (c.blocked 0xCA o g w) ∧
      g = { (s.loadEvents c.g base mask) with evm := mask, armed := false } ∧
      w = (if g.pev &&& mask ≠ 0 then .resume o.d (c.now + 30 * c.cyc) false else .resume o.d (c.now + fixedCycles 400) true)) ∧
  (∀ o s c, Issues 0xCA o ctlTiming s c → c.syncCheck [raw32 o.a, raw32 o.b] o.d false = .ok () → c.g.converged = false →
    exec (.waitany o) s = .next (s.takeTrap c { cause := 0x0B }))

/-- XSHF completes where its partner is resident: it reads all 64 lanes of A and waits for its match (R409); a partner that cannot
come is an Exchange Timeout (R410). A match of two waiting exchanges gives each side the other's lanes, straight or reversed,
24 cycles after the later issue (XSHF_MATCH, R409). -/
def Obligations.ExchangesMatch : Prop :=
  (∀ o s c, Issues 0xCE o xshfTiming s c → c.g.exchange = none → c.check true [raw32 o.a, raw32 o.b] o.d false = .ok () →
    (isReg o.d && o.d.toNat ≥ c.g.g) = false →
    let partner := c.single o o.b
    ((partner ≠ c.g.gix ∧ partner < (s.gridAt (s.teamOf c.g).grid).eff.groups ∧ (s.groupOf c.g.team partner).isSome = true) →
      ∃ x, exec (.xshf o) s = .next (s.afterIssue c o 4 { (c.g.setWait c.entry .xshf) with exchange := some x }) ∧
        x.partner = partner ∧ x.rev = (o.fn == 1#5) ∧ x.dst = o.d ∧ x.mask = c.mask ∧ x.since = c.now ∧
        ∀ l, l < 64 → x.lanes.getD l 0 = BitVec.ofNat 32 (c.value (raw32 o.a) o l c.now)) ∧
    ((partner = c.g.gix ∨ (s.gridAt (s.teamOf c.g).grid).eff.groups ≤ partner ∨ (s.groupOf c.g.team partner).isSome = false) →
      exec (.xshf o) s = .next (s.takeTrap c { cause := 0x0C }))) ∧
  (∀ s core slot g x key p y, s.group? core slot = some g → g.exchange = some x → s.groupOf g.team x.partner = some (key, p) →
    p.exchange = some y → y.partner = g.gix → key ≠ slotKey core slot →
    let at' := max x.since y.since + 24 * s.cyc core
    ∃ t, exec (.xshfMatch core slot) s = .next t ∧ t.group? core slot = some (g.exchanged x y at' s.time) ∧
      tget? t.groups key = some (p.exchanged y x at' s.time) ∧ t.mem = s.mem ∧
      ∀ k, k ≠ key → k ≠ slotKey core slot → tget? t.groups k = tget? s.groups k)

/-! ## Engines, the matrix array and commits -/

/-- CPY, CPYM, GATH, SCAT, GCSR, STAGE, LDB, DPFX, DRLE, DBIT and DCHK complete with lanes active and room in their class: their
operation is under way in the open batch, the group goes on, and nothing is stored yet (R414, R416, R418, R419, R424 to
R429, R443 to R446). -/
def Obligations.EngineInstructionsStart : Prop := ∀ x ∈ engineForms, x.Holds

/-- CLOSE, WAITB and MFENCE complete: CLOSE seals the open batch and delivers its number, WAITB goes on or waits for its batch, and
MFENCE goes on where every register write that the group has issued is available, and waits for those otherwise (R243, R416, R417,
R431): for the outstanding ones and the loads, and for the values that waiting fragments are to write. -/
def Obligations.BatchInstructionsComplete : Prop :=
  (∀ o s c e, Issues 0xE6 o ctlTiming s c →
    let b := c.g.batches.getD o.fn.toNat {}
    b.closed - b.donev ≠ 32767 → c.check true [] o.d false [] false = .ok () →
    c.result o.d false 1 0 (.uni (b.closed + 1).toNat) c.f.mask = .ok e →
    exec (.close o) s = .next ((s.afterIssue c o 1 (c.advance 0xE6 o { (e.apply c o.q c.g) with
      batches := lset c.g.batches o.fn.toNat { b with closed := b.closed + 1 } })).advanceBatches c.g.uid o.fn.toNat)) ∧
  (∀ o s c, Issues 0xE7 o ctlTiming s c → c.check true [raw32 o.a] 120#7 false [] false = .ok () →
    let cls := o.fn.toNat % 8
    let n := BitVec.ofNat 16 (c.single o o.a)
    ∃ t, exec (.waitb o) s = .next t ∧ Leaves s t c o
      (if (c.g.batches.getD cls {}).reached (o.fn.toNat ≥ 8) n then c.advance 0xE7 o c.g
       else c.blocked 0xE7 o c.g (.batch cls (o.fn.toNat ≥ 8) n))) ∧
  (∀ o s c, Issues 0xE9 o ctlTiming s c →
    ∃ t, exec (.mfence o) s = .next t ∧ Leaves s t c o
      (if c.g.waitOver (c.fence s) c.now then c.advance 0xE9 o c.g else c.blocked 0xE9 o c.g (c.fence s))) ∧
  (∀ (s : State) (c : Ctx), c.g.outs = [] → (∀ k a, (k, a) ∈ s.accs → a.guid ≠ c.g.uid) →
    (∀ k f, (k, f) ∈ c.g.split → f.wait.writes = false) → c.g.exchange = none → c.g.waitOver (c.fence s) c.now = true) ∧
  (∀ (s : State) (c : Ctx) (w : Outst) (n : Nat) (old : VReg) (b : Nat), w ∈ c.g.outs → w.dst = .reg n old → b ∈ w.avail → c.now < b →
    c.g.waitOver (c.fence s) c.now = false) ∧
  (∀ (s : State) (c : Ctx) (k : Nat) (a : Access), (k, a) ∈ s.accs → a.guid = c.g.uid → a.ldc = true → a.dst.toNat < 120 →
    c.g.waitOver (c.fence s) c.now = false)

/-- MMA, MMAS, ACCNEXT, ACCRD, ACCWR and EPI complete where their checks pass and the ring is the context's own: the operation waits
for the array or the epilogue engine, or the tile is read or written (R265, R432 to R438). A read of a tile on which an operation of the
array is incomplete finds each element before or after it, and a write mixes with it (R243); with none it is the tile itself.
A ring access of a team that owns its core's accumulators and has no spilled tile goes on at once (R265). -/
def Obligations.MatrixInstructionsComplete : Prop :=
  (∀ (con : Operands → Instr) (op : Nat) (scr : Bool), (con, op, scr) ∈ [(Instr.mma, 0xEA, false), (Instr.mmas, 0xEB, true)] →
    ∀ o s c kind u, Issues op o ctlTiming s c → s.opsFull c.g.uid 3 = false →
      s.epiPending c.g.uid ((s.teamOf c.g).tile (o.d.toNat % 16)) = false →
      c.check (mmaFormat c.et o.fn.toNat).isSome ((if scr then [raw32 o.a] else (List.range 8).map fun k =>
        (⟨o.a + BitVec.ofNat 7 k, false, [c.et], .zext⟩ : Src)) ++ [raw32 o.b, raw32 o.c]) 120#7 false = .ok () →
      (c.mask = 0 → ∃ t, exec (con o) s = .next t ∧ Leaves s t c o (c.advance op o c.g)) ∧
      (c.mask ≠ 0 → mmaStart scr o s c = .ok kind → s.ringCheck c = .go u →
        ∃ t, exec (con o) s = .next t ∧
          IssuedFrom (u.startMma c (s.teamOf c.g).grid (mmaCycles c.et o.fn.toNat) kind) t c o true (c.advance op o c.g))) ∧
  (∀ o s c u, Issues 0xEC o ctlTiming s c → s.opsFull c.g.uid 3 = false →
    s.epiPending c.g.uid ((s.teamOf c.g).tile (c.single o o.a)) = false → c.check true [raw32 o.a] 120#7 false = .ok () → c.mask ≠ 0 →
    s.tileCheck c.g.team (c.single o o.a) = .ok () → s.ringCheck c = .go u →
    ∃ t r, exec (.accnext o) s = .next t ∧
      r = u.addOp (c.operation u 3 (.accnext ((s.teamOf c.g).tile (c.single o o.a)) c.mask)) ∧
      IssuedFrom (r.2.queueArray c.core r.1) t c o true (c.advance 0xEC o c.g)) ∧
  (∀ o s c u, Issues 0xED o accTiming s c → c.check true [raw32 o.a] 120#7 false = .ok () → o.d.toNat + 15 < c.g.g → c.mask ≠ 0 →
    s.tileCheck c.g.team (c.single o o.a) = .ok () → s.ringCheck c = .go u →
    (∀ r, r < 16 → c.g.regOuts (o.d.toNat + r) = []) →
    ∃ t g, exec (.accrd o) s = .next t ∧ IssuedFrom u t c o true (c.advance 0xED o g) ∧
      (∀ r l, r < 16 → l < 64 → inMask c.mask l = true →
        (g.reg (o.d.toNat + r)).val.lane l =
          tileElem (u.tileViews c.core ((u.teamOf c.g).tile (c.single o o.a))) c.seed (64 * r + l) ∧
        (g.reg (o.d.toNat + r)).fmt = 6) ∧
      ∀ n, (n < o.d.toNat ∨ o.d.toNat + 16 ≤ n) → g.reg n = c.g.reg n) ∧
  (∀ o s c u, Issues 0xEE o accTiming s c → s.epiPending c.g.uid ((s.teamOf c.g).tile (c.single o o.a)) = false →
    c.check true (raw32 o.a :: (List.range 16).map fun k => (⟨o.c + BitVec.ofNat 7 k, false, [6], .zext⟩ : Src)) 120#7 false = .ok () →
    c.mask ≠ 0 → s.tileCheck c.g.team (c.single o o.a) = .ok () → s.ringCheck c = .go u →
    let tile := (s.teamOf c.g).tile (c.single o o.a)
    let data := (List.range 1024).map fun n =>
      if inMask c.mask (n % 64) then c.g.regLane c.seed (o.c.toNat + n / 64) (n % 64) (c.now + n / 64 * c.cyc) else u.tileAt c.core tile n
    ∃ t, exec (.accwr o) s = .next t ∧ t.group? c.core c.slot = some (c.issued o (c.advance 0xEE o c.g)) ∧ t.mem = u.mem ∧
      (∀ n, t.tileAt c.core tile n = (u.overwrite c.core tile c.seed c.mask data).getD n 0) ∧
      (u.tileOps c.core tile true = [] → u.overwrite c.core tile c.seed c.mask data = data) ∧
      ∀ k n, k ≠ tile → t.tileAt c.core k n = u.tileAt c.core k n) ∧
  (∀ o s c kind u, Issues 0xEF o memTiming s c → s.opsFull c.g.uid 4 = false → (s.core c.core).matrix.epi.length < 4 →
    c.check true [⟨o.a, !(o.fn == 1#5), [], .zext⟩, raw32 o.b, raw32 o.c] 120#7 false = .ok () → c.mask ≠ 0 →
    epiOp o s c = .ok kind → s.ringCheck c = .go u →
    ∃ t, exec (.epi o) s = .next t ∧ IssuedFrom (u.startEpi c (o.fn == 1#5) kind) t c o false (c.advance 0xEF o c.g)) ∧
  (∀ (s : State) (core tile seed n : Nat), s.tileOps core tile true = [] → s.tileOps core tile false = [] →
    tileElem (s.tileViews core tile) seed n = s.tileAt core tile n) ∧
  (∀ (s : State) (c : Ctx), (s.teamOf c.g).tspill = 0 → (s.teamOf c.g).untouched = [] →
    (s.core c.core).accown = some (s.teamOf c.g).ctx → s.ringCheck c = .go s)

/-- COMMIT, LAUNCH and COLL complete: COMMIT asks for the team's commit behind its accesses, and its fragment waits for it (R392);
LAUNCH sends its record's place to the queue unit behind the release, and its fragment waits for the status (R412); COLL
starts a contribution to the collective that its translated DST names (R439, R440). -/
def Obligations.CommitsLaunchesAndCollectivesStart : Prop :=
  (∀ o s c, Issues 0xB1 o (fun _ => ⟨.ctl, 1, 1, true⟩) s c →
    ∃ t, exec (.commit o) s = .next t ∧
      IssuedFrom ((s.setNr c.g.team).askCommit c.g.team c.core (tkeys s.accs fun _ a => a.guid == c.g.uid) c.slot c.entry) t c o true
        (c.blocked 0xB1 o c.g .drain)) ∧
  (∀ o s c, Issues 0xD1 o ctlTiming s c → c.syncCheck [raw32 o.a, raw32 o.b] o.d false = .ok () → c.single o o.a % 64 = 0 →
    c.single o o.a + 64 ≤ s.scratchSize c.g.team →
    ∃ t m, exec (.launch o) s = .next t ∧
      t.group? c.core c.slot = some (c.issued o (c.blocked 0xD1 o c.g (.status s.ids o.d))) ∧
      tget? t.msgs s.ids = some m ∧
      m.kind = .launch c.g.team (c.single o o.b % 4096) (c.single o o.a) c.core c.slot c.entry ∧ m.sent = s.time ∧ t.mem = s.mem) ∧
  (∀ o s c d es pa, Issues 0xF0 o memTiming s c → s.opsFull c.g.uid 5 = false → c.check true [raw32 o.a] 120#7 false = .ok () →
    c.mask ≠ 0 → collChecks o s c = .ok d →
    s.translate c.core (s.teamOf c.g).ctx (slotKey c.core c.slot) c.entry [(255, collDst d)] true false = .ok (.lanes es) →
    (es.head?.map fun x => x.2.2.loc (collDst d)) = some (.dev pa) →
    let u := (s.touchPages c.core (s.teamOf c.g).ctx es).setNr c.g.team
    ∃ t, exec (.coll o) s = .next t ∧
      IssuedFrom (u.addOp (c.operation u 5 (.coll d (o.fn.toNat % 4) (o.fn.toNat ≥ 4) pa))).2 t c o false (c.advance 0xF0 o c.g))

/-! ## The step -/

/-- A step whose head of the schedule is an event performs that event's effect at its time, and no fragment is current (log
entry 1: the schedule is the model's). -/
def Obligations.StepRunsTheEvent : Prop :=
  ∀ (s : State) (dt : Nat) (i : Instr) (rest : List (Nat × Act)), s.sched = (dt, .event i) :: rest →
    step s = exec i { s.elapse dt with sched := rest, cur := none }

/-- A step runs the decoded instruction. What stands at an address is the instruction that the cached words there decode to (R298);
a candidate of a quadrant holds what stands at its fragment's PC (R209), and the candidates are ranked in the order of R210; and when an
issue slot is free and the candidate that ranks first holds an instruction that is ready, and that takes the uniform path or has no second
candidate (R210, R211), the step is that instruction's meaning in that fragment, after which its register writes reach the group's earlier
instructions that have yet to read them (R314) and the slot is used for the cycle. An instruction that turns out not to be ready leaves
the slot to the next in rank. -/
def Obligations.StepRunsTheDecodedInstruction : Prop :=
  (∀ (k : Core) (ctx a : Nat) (i : Instr) (n : Nat), decode (k.wordsAt ctx a) = .ok (i, n) → k.fetch ctx a = .instr i) ∧
  (∀ (s : State) (core quad : Nat) (w : Cand), w ∈ s.candidates core quad →
    ∃ key g f, (key, g) ∈ s.groups ∧ key / 128 = core ∧ key % 128 / 32 = quad ∧ w.slot = key % 128 ∧ (w.entry, f) ∈ g.split ∧
      g.mayIssue = true ∧ w.what = (s.core core).fetch (s.teamOf g).ctx f.pc.toNat) ∧
  (∀ l : List Cand, (rank l).Perm l ∧ (rank l).Pairwise fun a b => b.before a = false) ∧
  (∀ (s : State) (dt core quad : Nat) (rest : List (Nat × Act)) (w : Cand) (others : List Cand) (i : Instr),
    s.sched = (dt, .issue core quad) :: rest →
    let s1 := ({ s.elapse dt with sched := rest, cur := none } : State).settleJoins core quad
    (s1.core core).pipeFree quad 4 s1.time = true → rank (s1.candidates core quad) = w :: others → w.what = .instr i →
    let s0 := s1.issuing core w.slot w.entry 0 false
    ∀ t, exec i s0 = .next t →
      (stalledIn s0 t core w.slot w.entry = false → (t.uni = true ∨ s1.partners core quad w = []) →
        step s = .next ((t.followReads s0 core w.slot i).slotUsed core quad)) ∧
      (stalledIn s0 t core w.slot w.entry = true → step s = t.issueFirst core quad others)) ∧
  (∀ (s : State) (dt core quad sub : Nat) (rest : List (Nat × Act)) (w : Cand) (others : List Cand), s.sched = (dt, .issue core quad) :: rest →
    let s1 := ({ s.elapse dt with sched := rest, cur := none } : State).settleJoins core quad
    (s1.core core).pipeFree quad 4 s1.time = true → rank (s1.candidates core quad) = w :: others → w.what = .illegal sub →
      step s = .next (((s1.issuing core w.slot w.entry 0 false).issueIllegal sub).slotUsed core quad))

/-- No step stops: from every state a step answers a next state (log entry 13: every behaviour that the spec describes is modelled
as one, so the model has no fault and refuses nothing). -/
def Obligations.EveryStepAnswers : Prop := ∀ s : State, ∃ t, step s = .next t

/-- The memory's canonical form is kept by every step: addresses strictly rising, and no entry equal to what an unlisted address
reads as. -/
def Obligations.MemoryStaysCanonical : Prop := ∀ s t : State, Memory.wf s.mem = true → step s = .next t → Memory.wf t.mem = true

/-- Every team's scratchpad keeps the canonical form of memory in every step. -/
def Obligations.ScratchpadsStayCanonical : Prop :=
  ∀ s t : State, (∀ e ∈ s.teams, Memory.wf e.2.scratch = true) → step s = .next t → ∀ e ∈ t.teams, Memory.wf e.2.scratch = true

/-- The canonical form of the memory and of the scratchpads holds at reset. -/
def Obligations.MemoryCanonicalAtReset : Prop := Memory.wf State.reset.mem = true ∧ ∀ e ∈ State.reset.teams, Memory.wf e.2.scratch = true

/-! ## The Plaza's events -/

/-- BARRIER_RELEASE, DISTRICT_ARRIVAL, GRID_ARRIVAL, TRIG_TAKEN and TRIG_EFFECT complete. A released barrier clears the arrivals of
the team's resident groups and lets their waiting fragments issue 16 cycles after the last arrival (R396); an arrival that
completes a generation raises Cd or Cg by one (R397, R398); a TRIG flips the task's epoch and starts a commit (R411), and takes
effect once its writes are performed and its commit is complete (R190). None of them writes memory. -/
def Obligations.BarriersAndTriggersGoOn : Prop :=
  (∀ (s : State) (team t0 : Nat), (s.teamAt team).barAt = some t0 →
    s.barWaits team = false →
    ∃ t, exec (.barrierRelease team) s = .next t ∧ (t.teamAt team).barAt = none ∧ t.mem = s.mem ∧
      ∀ k g, tget? s.groups k = some g → tget? t.groups k = some (if g.team = team then
        { g.release (fun w => w == .bar) (t0 + fixedCycles 16) with barSet := 0, barHold := [] } else g)) ∧
  (∀ (s : State) (m : Nat) (x : Msg) (team guid : Nat), s.Has m x (.district team guid) →
    exec (.districtArrival m) s = .next ((s.dropMsg m).districtCheck team x.sent).firePlaza) ∧
  (∀ (s : State) (m : Nat) (x : Msg) (team guid : Nat), s.Has m x (.grid team guid) →
    exec (.gridArrival m) s = .next ((s.dropMsg m).gridBarrierCheck (s.teamAt team).grid x.sent).firePlaza) ∧
  (∀ (s : State) (team t0 : Nat),
    let key := s.districtKey (s.teamAt team)
    let d := tgetD s.districts key {}
    let members := tkeys s.teams fun _ x => x.grid == (s.teamAt team).grid && s.districtKey x == key
    (members.length = (let d := max 1 (s.gridAt (s.teamAt team).grid).eff.dist
      min d ((s.gridAt (s.teamAt team).grid).teams - (s.teamAt team).tix.toNat / d * d)) → (∃ k ∈ members, s.liveGroups k ≠ []) →
      (∀ k ∈ members, s.teamArrived k false d.cd = true) →
      (tgetD (s.districtCheck team t0).districts key {}).cd = d.cd + 1 ∧ (tgetD (s.districtCheck team t0).districts key {}).cdAt = t0) ∧
    ((∃ k ∈ members, s.teamArrived k false d.cd = false) → s.districtCheck team t0 = s)) ∧
  (∀ (s : State) (grid t0 : Nat),
    let members := tkeys s.teams fun _ x => x.grid == grid
    ((s.gridAt grid).next = (s.gridAt grid).teams → (∃ k ∈ members, s.liveGroups k ≠ []) →
      (∀ k ∈ members, s.teamArrived k true (s.gridAt grid).cg = true) →
      ((s.gridBarrierCheck grid t0).gridAt grid).cg = (s.gridAt grid).cg + 1) ∧
    ((∃ k ∈ members, s.teamArrived k true (s.gridAt grid).cg = false) → s.gridBarrierCheck grid t0 = s)) ∧
  (∀ (s : State) (team t0 : Nat), (s.teamAt team).trigAt = some t0 → (s.taskAt (s.teamAt team).task).commit = none →
    (s.teamAt team).state.over = false →
    ∃ t, exec (.trigTaken team) s = .next t ∧ t.mem = s.mem ∧ (t.teamAt team).trigAt = none ∧
      (t.teamAt team).trigWait = some ((s.teamAt team).trigWait.getD (s.trigPending team)) ∧
      (t.taskAt (s.teamAt team).task).e = !(s.taskAt (s.teamAt team).task).e ∧
      ∃ c, (t.taskAt (s.teamAt team).task).commit = some c ∧ c.trig = true ∧ c.epoch = (s.taskAt (s.teamAt team).task).e) ∧
  (∀ (s : State) (team : Nat) (ids : List Nat), (s.teamAt team).trigWait = some ids → (s.teamAt team).trigDone = true →
    (s.teamAt team).triggered = false → (∀ k ∈ ids, tget? s.accs k = none ∧ ∀ o, tget? s.ops k = some o → o.vDone = true) →
    ∃ t, exec (.trigEffect team) s = .next t ∧ t.mem = s.mem ∧ t.groups = s.groups ∧ (t.teamAt team).triggered = true ∧
      (t.gridAt (s.teamAt team).grid).triggered = (s.gridAt (s.teamAt team).grid).triggered ++ [(s.teamAt team).tix.toNat])

/-- EVENT_FIRING and TIMER_DEADLINE complete for a group that waits: a descriptor whose condition holds sets its PEV bit, and where
an unmasked bit is set the wait ends 800 cycles later (R401 to R403, R214). At its arming sample a group with no unmasked event
is armed and waits at the Plaza; as it resumes, its lowest unmasked bit clears and its fragment goes to that descriptor's
handler (R402).
FLAG_SET, MAILBOX_MESSAGE_ARRIVAL, XSHF_TIMEOUT and YIELD_WAIT_END complete: the Plaza's flag takes its value (R405); a message
joins a mailbox that holds fewer than 8, and a full mailbox drops it (R407); an exchange whose partner is gone or whose time has
passed takes Exchange Timeout (R410); a YIELD's wait ends (R331). -/
def Obligations.PlazaEventsComplete : Prop :=
  (∀ (s : State) (core slot index e : Nat) (g : Group) (f : Frag) (d : Code), s.group? core slot = some g → g.split = [(e, f)] →
    f.wait = .event d → g.armed = true → index < 8 → s.eventTrue g.team g (g.evd.getD index (0, 0)).1 = true →
    (s.teamAt g.team).state.latches = false →
    ∃ t g', exec (.eventFiring core slot index) s = .next t ∧ t.mem = s.mem ∧ t.group? core slot = some g' ∧
      g'.pev = g.pev ||| BitVec.ofNat 8 (2 ^ index) ∧ g'.regs = g.regs ∧ g'.preds = g.preds ∧
      (g'.pev &&& g.evm ≠ 0 → g'.split = [(e, { f with wait := .resume d (s.time + wakeDelay) false })]) ∧
      (g'.pev &&& g.evm = 0 → g'.split = g.split) ∧
      ∀ k, k ≠ slotKey core slot → tget? t.groups k = tget? s.groups k) ∧
  (∀ (s : State) (core slot index e : Nat) (g : Group) (f : Frag) (d : Code), s.group? core slot = some g → g.split = [(e, f)] →
    f.wait = .event d → index < 8 → g.timerAt index = true → s.eventTrue g.team g (g.evd.getD index (0, 0)).1 = true →
    (s.teamAt g.team).state.latches = false →
    ∃ t g', exec (.timerDeadline core slot index) s = .next t ∧ t.mem = s.mem ∧ t.group? core slot = some g' ∧
      g'.pev = g.pev ||| BitVec.ofNat 8 (2 ^ index) ∧ g'.regs = g.regs ∧ g'.preds = g.preds ∧
      (g'.pev &&& g.evm ≠ 0 → g'.split = [(e, { f with wait := .resume d (s.time + wakeDelay) false })]) ∧
      (g'.pev &&& g.evm = 0 → g'.split = g.split) ∧
      ∀ k, k ≠ slotKey core slot → tget? t.groups k = tget? s.groups k) ∧
  (∀ (s : State) (core slot index e at' : Nat) (g : Group) (f : Frag) (d : Code), s.group? core slot = some g → g.split = [(e, f)] →
    f.wait = .resume d at' true → at' ≤ s.time → (g.pev ||| s.eventsTrue g.team g) &&& g.evm = 0 →
    ∃ t g', exec (.eventFiring core slot index) s = .next t ∧ t.mem = s.mem ∧ t.group? core slot = some g' ∧
      g'.armed = true ∧ g'.pev = g.pev ||| s.eventsTrue g.team g ∧ g'.split = [(e, { f with wait := .event d })]) ∧
  (∀ (s : State) (core slot index e at' k : Nat) (g : Group) (f : Frag) (d : Code), s.group? core slot = some g → g.split = [(e, f)] →
    g.joins = [] → f.wait = .resume d at' false → at' ≤ s.time → k < 8 → (g.pev &&& g.evm).getLsbD k = true →
    (∀ j, j < k → (g.pev &&& g.evm).getLsbD j = false) →
    ∃ t g', exec (.eventFiring core slot index) s = .next t ∧ t.mem = s.mem ∧ t.group? core slot = some g' ∧
      g'.pev = g.pev &&& ~~~ BitVec.ofNat 8 (2 ^ k) ∧ g'.armed = false ∧
      g'.split = [(e, { f with wait := .none, pc := (g.evd.getD k (0, 0)).2 })] ∧
      (d.toNat < 120 → (g.settle s.time).regOuts d.toNat = [] → ∀ l, l < 64 → inMask f.mask l = true →
        (g'.reg d.toNat).val.lane l = BitVec.ofNat 32 k)) ∧
  (∀ (s : State) (m : Nat) (x : Msg) (ctx k : Nat) (v : Bool), s.Has m x (.flag ctx k v) →
    ∃ t, exec (.flagSet m) s = .next t ∧ t.mem = s.mem ∧ tget? t.msgs m = none ∧
      ∀ j, j ∈ (t.ctxAt ctx).flags ↔ if j = k then v = true else j ∈ (s.ctxAt ctx).flags) ∧
  (∀ (s : State) (m : Nat) (x : Msg) (ctx box : Nat) (v : W64) (core slot entry : Nat),
    s.Has m x (.mail ctx box v core slot entry) → s.earlierMail m ctx box core slot = false →
    tgetD (s.ctxAt ctx).boxWaits box [] = [] →
    ∃ t, exec (.mailboxMessageArrival m) s = .next t ∧ t.mem = s.mem ∧ tget? t.msgs m = none ∧
      tgetD (t.ctxAt ctx).boxes box [] = (if (tgetD (s.ctxAt ctx).boxes box []).length < 8
        then tgetD (s.ctxAt ctx).boxes box [] ++ [v] else tgetD (s.ctxAt ctx).boxes box [])) ∧
  (∀ (s : State) (core slot : Nat) (g : Group) (x : Exchange) (f : Frag), s.group? core slot = some g → g.exchange = some x →
    tget? g.split x.entry = some f → (x.since + 65536 * s.cyc core ≤ s.time ∨
      (s.groupOf g.team x.partner = none ∧ ∀ e ∈ (s.teamAt g.team).kept, e.2.gix ≠ x.partner)) →
    exec (.xshfTimeout core slot) s = .next ((s.setGroup core slot { (g.release (fun w => w == .xshf) 0) with exchange := none }).trapTo
      core slot x.entry { cause := 0x0C } f.pc)) ∧
  (∀ (s : State) (core slot entry at' : Nat) (g : Group) (f : Frag), s.group? core slot = some g → tget? g.split entry = some f →
    f.wait = .yield at' → at' ≤ s.time →
    ∃ t, exec (.yieldWaitEnd core slot entry) s = .next t ∧ t.mem = s.mem ∧ t.group? core slot = some (g.setWait entry .none) ∧
      tget? (g.setWait entry .none).split entry = some { f with wait := .none } ∧
      ∀ k, k ≠ slotKey core slot → tget? t.groups k = tget? s.groups k)

/-! ## Versions, commits and retirement -/

/-- TEAM_RETIRE, CMT_REQ, CMT_MARK, CMT_ACK and MERGE_DONE complete: a team whose groups have exited and whose work is done asks for its
last commit (R135); the first request of a task starts the commit of one that has none (R188, R189 steps 1 to 3), a mark is answered
(step 4), the 96th acknowledgement is the commit point and asks every slice to merge (steps 5 and 6), and the 96th merge
completes it (steps 7 and 8). VERSION_OVERFLOW_TRAP traps a group of a task with OVF once (R187, R248). -/
def Obligations.CommitsProceed : Prop :=
  (∀ (s : State) (team : Nat), (s.teamAt team).state = .resident → s.teamGroups team = [] → (s.teamAt team).inbound = 0 →
    (∀ e ∈ s.accs, e.2.team ≠ team) → (∀ e ∈ s.ops, e.2.team = team → e.2.vDone = true) →
    ∃ t m, exec (.teamRetire team) s = .next t ∧ t.mem = s.mem ∧ (t.teamAt team).state = .committing ∧
      tget? t.msgs s.ids = some m ∧ m.kind = .cmtReq team (s.teamAt team).core 0 causeRetire) ∧
  (∀ (s : State) (m : Nat) (x : Msg) (team core slot entry : Nat), s.Has m x (.cmtReq team core slot entry) →
    ((s.teamAt team).state.over = false ∨ (s.taskAt (s.teamAt team).task).discard = true) →
    (tget? s.teams team).isSome = true → s.cmtFirst m x (s.teamAt team).task = true →
    (s.taskAt (s.teamAt team).task).state = .running → (s.taskAt (s.teamAt team).task).commit = none →
    ((s.teamAt team).inL1 = true ∨ ∀ e ∈ s.msgs, ∀ v, e.2.kind = .version v → v.task ≠ (s.teamAt team).task) →
    ∃ t, exec (.cmtReq m) s = .next t ∧ t.mem = s.mem ∧
      (t.taskAt (s.teamAt team).task).e = !(s.taskAt (s.teamAt team).task).e ∧
      ∃ c, (t.taskAt (s.teamAt team).task).commit = some c ∧ c.epoch = (s.taskAt (s.teamAt team).task).e ∧ c.acks = [] ∧
        c.decided = false) ∧
  (∀ (s : State) (m : Nat) (x : Msg) (task slice : Nat) (epoch : Bool), s.HasHome m x (.cmtMark task epoch slice) →
    ∃ t y, exec (.cmtMark m) s = .next t ∧ t.mem = s.mem ∧ tget? t.msgs s.ids = some y ∧ y.kind = .cmtAck task epoch slice) ∧
  (∀ (s : State) (m : Nat) (x : Msg) (task slice : Nat) (epoch : Bool) (c : Commit), s.Has m x (.cmtAck task epoch slice) →
    (s.taskAt task).commit = some c → c.epoch = epoch → c.decided = false → slice ∉ c.acks →
    (c.acks.length < 95 → ∃ t, exec (.cmtAck m) s = .next t ∧ t.mem = s.mem ∧
      (t.taskAt task).commit = some { c with acks := c.acks ++ [slice] }) ∧
    (c.acks.length = 95 → ∃ t : State, exec (.cmtAck m) s = .next (t.askMerges s.free task epoch) ∧ t.mem = s.mem ∧
      (t.taskAt task).state = .committing ∧
      (t.taskAt task).commit = some { c with acks := c.acks ++ [slice], decided := true, order := s.ids })) ∧
  (∀ (s : State) (m : Nat) (x : Msg) (task slice : Nat) (epoch : Bool) (c : Commit), s.Has m x (.mergeDone task epoch slice) →
    (s.taskAt task).commit = some c → slice ∉ c.merged →
    let u := (s.dropMsg m).mergeInOrder slice task epoch
    (c.merged.length < 95 → exec (.mergeDone m) s =
      .next (u.setTask task { u.taskAt task with commit := some { c with merged := c.merged ++ [slice] } })) ∧
    (c.merged.length = 95 → exec (.mergeDone m) s = .next (u.commitDone task { c with merged := c.merged ++ [slice] }))) ∧
  (∀ (s : State) (slice task : Nat) (epoch : Bool) (c : Commit), (s.taskAt task).commit = some c → s.decidedBefore c.order = [] →
    let u := s.mergeInOrder slice task epoch
    u = s.mergeSlice slice task epoch ∧
    ∀ v ∈ (u.slice slice).versions ++ (u.slice slice).displaced ++ (u.slice slice).overflow, ¬ (v.task = task ∧ v.epoch = epoch)) ∧
  (∀ (s : State) (core slot : Nat) (g : Group), s.group? core slot = some g → (s.taskAt (s.teamOf g).task).ovf = true →
    g.uid ∉ (s.taskAt (s.teamOf g).task).ovfSeen → g.atBoundary s.time = true →
    exec (.versionOverflowTrap core slot) s = .next ((s.setTask (s.teamOf g).task { s.taskAt (s.teamOf g).task with
      ovfSeen := (s.taskAt (s.teamOf g).task).ovfSeen ++ [g.uid] }).boundaryTrap core slot 0x0A))

/-- VERSION_LINE_WRITE, DISCARD_REQUEST and DISCARD_COMPLETE complete: a line of a running task joins its slice's version ways where its
set has one free (R185), and one whose data is uncorrectable takes the trap instead (R193); a discard drops the version of its task everywhere, leaves committed memory as it is, and
then frees the slot (R191).
Each word that a version line marks becomes committed memory as its slice merges it, and no other byte of memory changes
(R176, R183, R189 step 6). -/
def Obligations.VersionsAreHeldAndDiscarded : Prop :=
  (∀ (s : State) (m : Nat) (x : Msg) (v : VersionLine), s.HasHome m x (.version v) → (s.taskAt v.task).state = .running →
    (∀ y ∈ (s.slice x.slice).versions, y.same v = false) →
    ((s.slice x.slice).versionSet v.line).length < 4 →
    ∃ t, exec (.versionLineWrite ⟨m, false⟩) s = .next t ∧ t.mem = s.mem ∧ tget? t.msgs m = none ∧
      (t.slice x.slice).versions = (s.slice x.slice).versions ++ [{ v with age := s.ids }]) ∧
  (∀ (s : State) (m : Nat) (x : Msg) (v : VersionLine), s.HasHome m x (.version v) → (s.taskAt v.task).state = .running →
    exec (.versionLineWrite ⟨m, true⟩) s = .next ((s.dropMsg m).versionBad v)) ∧
  (∀ (s : State) (slot : Nat), (s.taskAt slot).discard = true → (s.taskAt slot).commit = none →
    ∃ t, exec (.discardRequest slot) s = .next t ∧ t.mem = s.mem ∧ (t.taskAt slot).state = .discarding ∧ (t.taskAt slot).discard = false ∧
      (t.taskAt slot).ovf = false ∧ (t.taskAt slot).voUsed = [] ∧
      (∀ n sl, tget? t.slices n = some sl → ∀ v ∈ sl.versions ++ sl.displaced ++ sl.overflow, v.task ≠ slot) ∧
      ∀ n c, tget? t.cores n = some c → ∀ x ∈ c.l1, ∀ k w, x.kind = .version k w → k.task ≠ slot) ∧
  (∀ (s : State) (slot : Nat), (s.taskAt slot).state = .discarding → (s.taskAt slot).commit = none →
    ∃ t, exec (.discardComplete slot) s = .next t ∧ t.mem = s.mem ∧ t.groups = s.groups ∧ (t.taskAt slot).state = .free ∧
      (t.taskAt slot).voUsed = [] ∧ (t.taskAt slot).nr = false) ∧
  (∀ (s : State) (v : VersionLine), Memory.wf s.mem = true →
    (∀ k m acc l cells, (k, m) ∈ s.msgs → m.kind = .through acc l cells → l / 16 ≠ v.line / 16) →
    ∀ a, cget (s.mergeWords v).mem a =
      if a / 256 = v.line ∧ v.mask.getLsbD (a % 256 / 4) = true then cget v.data (a % 256) else cget s.mem a)

/-! ## Homes, tokens and DRAM -/

/-- READ_REQUEST, WRITE_REQUEST, WRITE_COMPLETION, WRITE_THROUGH and WRITE_THROUGH_ACK complete: an unblocked request is counted and
served at its home, or waits for its busy line (R158, R174, R176, R183); a completion or an acknowledgement lets a store leave
STCNT (R176, R177, R229); an STX is written in its targets' scratchpads (R239); a write-through is written at its home and
acknowledged (R177). -/
def Obligations.HomesServeRequests : Prop :=
  (∀ (s : State) (m : Nat) (x : Msg) (acc line : Nat) (bad : Bool), s.HasHome m x (.read acc line) → s.lineBlocked m acc line = false →
    s.rqTurn m x = true →
    let u := s.exclude (x.slice / 2)
    exec (.readRequest ⟨m, bad⟩) s = .next ((if bad && u.hitAt acc line then u.addBad x.slice line 2 else u).arrive m acc line)) ∧
  (∀ (s : State) (m : Nat) (x : Msg) (acc line : Nat) (wt : Bool), s.HasHome m x (.write acc line wt) → s.lineBlocked m acc line = false →
    exec (.writeRequest m) s = .next (s.arrive m acc line)) ∧
  (∀ (s : State) (m : Nat) (x : Msg) (acc line : Nat) (a : Access), tget? s.msgs m = some x → x.kind = .read acc line →
    tget? s.accs acc = some a → m < s.ids →
    let sl := s.slice (s.homeOf (256 * line))
    let cached := !(a.lanes.any fun y => y.nc && y.inLine line)
    (∀ q ∈ a.sectors line, sl.sector line q ≠ 0) → sl.recallFrom line (some (s.holderOf x.core)) = none →
    sl.needsRoom line (x.core / 8) (s.holderOf x.core) false cached = none →
    (cached = true → s.copyOf x.core line = none → s.placeStays x.core line = false) →
    (s.serveHome m).mem = s.mem ∧ tget? (s.serveHome m).msgs m = none ∧
      tget? ((s.serveHome m).slice (s.homeOf (256 * line))).busy line = none ∧
      ∃ b, tget? (s.serveHome m).accs acc = some b ∧ ∀ y ∈ a.lanes, ∀ p, y.done = false → y.loc = .dev p → p / 256 = line →
        ∃ z ∈ b.lanes, z.lane = y.lane ∧ z.done = true ∧ z.err = (if s.badRange (256 * line) 256 then 1 else 0) ∧
          z.got = some (s.laneRead a y p)) ∧
  (∀ (s : State) (m : Nat) (x : Msg) (acc line : Nat), s.Has m x (.completion acc line) →
    exec (.writeCompletion m) s = .next ((s.dropMsg m).completeWrite acc)) ∧
  (∀ (s : State) (m : Nat) (x : Msg) (acc : Nat) (a : Access), s.Has m x (.stx acc) → tget? s.accs acc = some a →
    s.remoteOlder acc a = false →
    ∃ t, exec (.writeCompletion m) s = .next t ∧ t = (s.dropMsg m).performStx acc a ∧ t.mem = s.mem) ∧
  (∀ (s : State) (acc key : Nat) (a : Access) (g : Group), tget? s.accs acc = some a → a.ldc = false → a.acks = 0 →
    (∀ y ∈ a.lanes, y.done = true) → (∀ e ∈ s.msgs, ∀ l, e.2.kind ≠ .completion acc l) →
    s.groupKey? a.guid = some key → tget? s.groups key = some g →
    tget? (s.leaveStore acc).accs acc = none ∧
    ∃ g', tget? (s.leaveStore acc).groups key = some g' ∧ g'.stcnt = g.stcnt - 1 ∧ g'.regs = g.regs) ∧
  (∀ (s : State) (m : Nat) (x : Msg) (acc line : Nat) (cells : List (Nat × List Byte)), s.HasHome m x (.through acc line cells) →
    exec (.writeThrough m) s = .next (s.applyThrough m acc line x.core cells)) ∧
  (∀ (s : State) (m acc line core p : Nat) (bs : List Byte), Memory.wf s.mem = true →
    ∀ q, cget (s.applyThrough m acc line core [(p, bs)]).mem q =
      if p ≤ q ∧ q < p + bs.length then bs.getD (q - p) 0 else cget s.mem q) ∧
  (∀ (s : State) (m : Nat) (x : Msg) (acc line : Nat) (a : Access), s.Has m x (.throughAck acc line) → tget? s.accs acc = some a →
    ∃ t, exec (.writeThroughAck m) s = .next t ∧
      t = (({ (s.dropMsg m) with accs := tmod s.accs acc fun a => { a with acks := a.acks - 1 } } : State).leaveStore acc).retryPending ∧
      t.mem = s.mem)

/-- TOKEN_RECALL, TOKACK, TOKRET, GONE, INV, INV_ACK and LINE_FREE complete: a holder answers a recall with TokAck behind its
write-throughs, or with Gone; the home takes the token back into its directory and goes on; a cluster drops its copies
and acknowledges; and the requests that wait for a line are retried in arrival order (R158, R172, R174, R176, R178).
DRAM_READ_RETURN, DRAM_WRITE_ACK, PATROL_SCRUB, BAD_LINE_CLEAR, SLICE_RETENTION_ENTRY and SLICE_WAKE complete: a fill makes a
sector present, and the last absent one of its line frees the miss register (R159); the write that its controller issues next leaves the queue (R157,
R160); a scrub poisons a sector that is uncorrectable and notes a poisoned one, and an error of a slice's arrays is noted too (R161, R193); a clear writes zeros and frees its entry (R194); and an idle slice retains
and wakes (R85). -/
def Obligations.TokensAndDramGoOn : Prop :=
  (∀ (s : State) (m : Nat) (x : Msg) (line : Nat) (region inval : Bool), s.Has m x (.recall line region inval) →
    ∃ t y, exec (.tokenRecall m) s = .next t ∧ t.mem = s.mem ∧ tget? t.msgs s.ids = some y ∧
      y.kind = (if s.holdsToken x.core line region then .tokAck line region else .gone line region) ∧ y.slice = x.slice ∧
      (s.holdsToken x.core line region = false → t.cores = s.cores)) ∧
  (∀ (s : State) (m : Nat) (x : Msg) (line : Nat) (region : Bool), s.HasHome m x (.tokAck line region) →
    ∃ (u : State) (keep : Bool), (region = true → keep = ((tget? (s.slice x.slice).busy line).bind fun b => b.free).isNone) ∧
      exec (.tokack m) s = .next (u.answered x.slice line (s.holderOf x.core)) ∧ u.mem = s.mem ∧
      u.slice x.slice = (s.slice x.slice).tokenBack line (s.holderOf x.core) region keep
        (region && ((tget? (s.slice x.slice).busy line).bind fun b => b.free).isNone)) ∧
  (∀ (s : State) (m : Nat) (x : Msg) (line : Nat) (region : Bool), s.HasHome m x (.tokRet line region) →
    ∃ t, exec (.tokret m) s = .next t ∧ t.mem = s.mem ∧ t.cores = s.cores ∧ tget? t.msgs m = none ∧
      t.slice x.slice = (s.slice x.slice).tokenBack line (s.holderOf x.core) region false false) ∧
  (∀ (sl : Slice) (line : Nat) (h : Holder), (tgetD sl.regions (line / 16) {}).state = .t →
    (tgetD sl.regions (line / 16) {}).holder = some h →
    ((tgetD sl.regions (line / 16) {}).sharers = 0 → tgetD (sl.tokenBack line h true false false).regions (line / 16) {} = {}) ∧
    (h.cluster < 48 → tgetD (sl.tokenBack line h true true false).regions (line / 16) {} =
      { state := .s, sharers := (tgetD sl.regions (line / 16) {}).sharers ||| clusterBit h.cluster }) ∧
    (tgetD (sl.tokenBack line h true true true).regions (line / 16) {}).state = .p) ∧
  (∀ (s : State) (m : Nat) (x : Msg) (line : Nat) (region : Bool), s.HasHome m x (.gone line region) →
    exec (.gone m) s = .next ((s.dropMsg m).answered x.slice line (s.holderOf x.core))) ∧
  (∀ (s : State) (m : Nat) (x : Msg) (line : Nat) (region : Bool) (exempt : Option Nat), s.Has m x (.inv line region exempt) →
    ∃ t y, exec (.inv m) s = .next t ∧ t.mem = s.mem ∧ tget? t.msgs s.ids = some y ∧ y.kind = .invAck line (x.core / 8) ∧
      (exempt = none → ∀ n, n / 8 = x.core / 8 → ∀ l ∈ (t.core n).l1, l.committed = true →
        if region then l.line / 16 ≠ line / 16 else l.line ≠ line)) ∧
  (∀ (s : State) (m : Nat) (x : Msg) (line cluster : Nat), s.HasHome m x (.invAck line cluster) →
    exec (.invAck m) s = .next ((s.dropMsg m).invDone x.slice line cluster)) ∧
  (∀ (s : State) (slice line cluster : Nat) (b : Busy), tget? (s.slice slice).busy line = some b →
    (∃ c ∈ b.invs, c ≠ cluster) → tget? ((s.invDone slice line cluster).slice slice).busy line =
      some { b with invs := b.invs.filter fun c => c != cluster }) ∧
  (∀ (s : State) (line : Nat) (ids : List Nat),
    let home := s.homeOf (256 * line)
    tget? (s.slice home).busy line = none → tget? (s.slice home).waiting line = some ids →
    (s.slice home).freeing (line / 16 * 16) true = false →
    exec (.lineFree line) s = .next (ids.foldl (fun (u : State) id => u.admitLine id line)
      { (s.setSlice home { s.slice home with waiting := tdel (s.slice home).waiting line }) with
        msgs := tmap s.msgs fun k y => if ids.contains k then { y with stage := .arrived } else y })) ∧
  (∀ (s : State) (line : Nat),
    let home := s.homeOf (256 * line)
    let sl := s.slice home
    ∀ r, (s.controller (controllerOf (256 * line))).next s.time = some (r, false) → r.line = line →
    line ∈ sl.misses → sl.busy = [] → (∀ q, q < 4 → 4 * line + q ∉ s.poison) →
    ∃ t, exec (.dramReadReturn ⟨line, 0⟩) s = .next t ∧ t.mem = s.mem ∧
      (r.sector < (tgetD sl.sectors line [0, 0, 0, 0]).length →
        (t.slice home).sector line r.sector = if sl.sector line r.sector = 0 then 1 else sl.sector line r.sector) ∧
      (∀ q, q ≠ r.sector → (t.slice home).sector line q = sl.sector line q) ∧
      (line ∈ (t.slice home).misses ↔ ∃ q, q < 4 ∧ (t.slice home).sector line q = 0)) ∧
  (∀ (s : State) (slice mc : Nat) (r : DramRequest), mc < 24 → (s.controller mc).next s.time = some (r, true) → r.slice = slice →
    (∀ k q, k < mc → (s.controller k).next s.time = some (q, true) → q.slice ≠ slice) →
    ∃ t, exec (.dramWriteAck slice) s = .next t ∧ { t with slices := s.slices, controllers := s.controllers } = s ∧
      t = ((s.issueDram mc r true).setSlice slice { s.slice slice with writes := (s.slice slice).writes.erase (r.line, r.sector) }).feed mc 128 ∧
      t.slice slice = { s.slice slice with writes := (s.slice slice).writes.erase (r.line, r.sector) } ∧
      ∀ k, k ≠ slice → t.slice k = s.slice k) ∧
  (∀ (s : State) (sector : Nat) (check : PortCheck),
    let u : State := if check = .uncorrectable ∧ sector ∉ s.poison then { s with poison := s.poison ++ [sector] } else s
    let home := s.homeOf (256 * (sector / 4))
    exec (.patrolScrub ⟨sector, check, .dram⟩) s = .next (if sector ∈ u.poison then u.addBad (s.homeOf (64 * sector)) (sector / 4) 1 else u) ∧
    exec (.patrolScrub ⟨sector, check, .array⟩) s = .next
      (if check = .uncorrectable ∧ (s.slice home).sector (sector / 4) (sector % 4) ≠ 0 then s.addBad home (sector / 4) 2 else s) ∧
    ∀ task epoch v rest, check = .uncorrectable → (s.slice home).versionsAt (sector / 4) task epoch = v :: rest →
      exec (.patrolScrub ⟨sector, check, .version task epoch⟩) s = .next ((s.takeOut home v).versionBad v)) ∧
  (∀ (s : State) (slice entry : Nat) (b : BadLine), s.bar0Open = true → tget? (s.slice slice).bad entry = some b →
    ∃ t, exec (.badLineClear slice entry) s = .next t ∧ tget? (t.slice slice).bad entry = none ∧
      t.mem = (s.writeNow (256 * b.line) (List.replicate 256 0)).mem ∧ (∀ q, q / 4 = b.line → q ∉ t.poison) ∧
      ∀ q, q / 4 ≠ b.line → (q ∈ t.poison ↔ q ∈ s.poison)) ∧
  (∀ (s : State) (slice : Nat), (s.slice slice).retained = false →
    (s.chipOnline (chipOf (slice / 2)) = false ∨ (s.cluster (slice / 2)).cal = true) →
    (s.slice slice).lastUse + 50 * usec ≤ s.time → s.sliceIdle slice = true →
    ∃ t, exec (.sliceRetentionEntry slice) s = .next t ∧ t.mem = s.mem ∧ t.slice slice = { s.slice slice with retained := true, wakeAt := none }) ∧
  (∀ (s : State) (slice at' : Nat), (s.slice slice).wakeAt = some at' → at' ≤ s.time →
    ∃ t, exec (.sliceWake slice) s = .next t ∧ t.mem = s.mem ∧
      t.slice slice = { s.slice slice with retained := false, wakeAt := none, lastUse := s.time })

/-! ## Engines, the array and collectives -/

/-- COPY_CHUNK, ENGINE_OPERATION_COMPLETE, MATRIX_ACCEPT, TILE_COMPLETE and EPI_START complete: a copy engine serves the active stream
at its pointer once what its accesses need is there, and a copy inside a scratchpad reads a piece and then writes it (R163, R242, R424); an operation
whose source is read reaches .r, and one whose units are done leaves its batch (R416); the array takes the next operation, an ACCNEXT's tile is zero under its masks (R222, R437), and it
completes 24 cycles after its interval; the epilogue engine reads its block when its tile is complete (R225, R438).
JUNCTION_ARRIVAL, PARTIAL_PARK_TIMEOUT, ROUNDABOUT_TIMEOUT and COLLECTIVE_NAME_EXPIRY complete: a contribution climbs the positional
tree from router to router (R164), a partial that has waited for 100 µs parks with the others (R166), a Roundabout that has waited
for its CTO fails (R168), and a failed collective's name is given up after its CTO (R441). -/
def Obligations.EnginesAndCollectivesProceed : Prop :=
  (∀ (s : State) (engine k id : Nat) (o : EngineOp), (tgetD s.engines engine {}).active = [k] →
    (s.ops.find? fun e => e.2.engine == some engine && e.2.stream e.1 == k && e.2.canStep) = some (id, o) →
    exec (.copyChunk engine) s = .next (s.attempt (s.opPayer o) fun u => u.serveStream engine id o 0)) ∧
  (∀ (s : State) (payer : Option Nat) (f : State → State) (l : Lack) (ls : List Lack),
    let t := f { s with needs := some [] }
    (t.needs = some [] → s.overfills t = false → s.attempt payer f = { t with needs := none }) ∧
    (t.needs = some (l :: ls) → s.attempt payer f = (l :: ls).foldl (fun s x => s.begin payer x) s)) ∧
  (∀ (s : State) (id dst src len room : Nat) (o : EngineOp), tget? s.ops id = some o → o.kind = .cpy true true dst src len →
    o.held = [] → o.units < len →
    let bs := cread (s.teamAt o.team).scratch (src + o.units) (min (4096 - o.units % 4096) (len - o.units))
    (o.early = [] → ∃ t, s.opStep id o room = (t, 0) ∧ t.mem = s.mem ∧ t.teams = s.teams ∧
      tget? t.ops id = some { o with early := bs.map some }) ∧
    (o.early = bs.map some → ∃ t, s.opStep id o room = (t, 0) ∧ t.mem = s.mem ∧ t.teams = s.teams ∧
      tget? t.ops id = some { o with early := [], held := bs })) ∧
  (∀ (s : State) (id dst src len room : Nat) (o : EngineOp), tget? s.ops id = some o → o.kind = .cpy true true dst src len →
    o.half = none → o.held ≠ [] → o.held.length % 4 = 0 → o.held.length ≤ room → Memory.wf (s.teamAt o.team).scratch = true →
    ∃ t p, s.opStep id o room = (t, 0) ∧ tget? t.ops id = some p ∧
      ∃ u, t.opStep id p room = (u, o.held.length) ∧ u.mem = s.mem ∧
        tget? u.ops id = some { o with units := o.units + o.held.length, held := [], buf := [] } ∧
        ∀ a, cget (u.teamAt o.team).scratch a = if dst + o.units ≤ a ∧ a < dst + o.units + o.held.length
          then o.held.getD (a - (dst + o.units)) 0 else cget (s.teamAt o.team).scratch a) ∧
  (∀ (s : State) (id : Nat) (o : EngineOp), tget? s.ops id = some o →
    exec (.engineOperationComplete id) s = .next (s.attempt (s.opPayer o) fun u => u.completeOp id o)) ∧
  (∀ (s : State) (id dst src len : Nat) (o : EngineOp) (fromScr toScr : Bool), tget? s.ops id = some o → o.kind = .cpy fromScr toScr dst src len →
    o.ended = false → o.stalled = false → o.reads = 0 → len ≤ o.units + o.held.length →
    (o.rDone = false → (s.completeOp id o).mem = s.mem ∧ tget? (s.completeOp id o).ops id = some { o with rDone := true }) ∧
    (o.rDone = true → len ≤ o.units → o.bulk = 0 → (s.completeOp id o).mem = s.mem ∧ tget? (s.completeOp id o).ops id = none)) ∧
  (∀ (s : State) (core id : Nat) (o : EngineOp),
    let u := s.exclude (core / 8)
    (u.core core).matrix.busyUntil ≤ s.time → u.nextArray core = some id → tget? u.ops id = some o → o.ended = false →
    exec (.matrixAccept core) s = .next (u.acceptOp core id o) ∧ u.mem = s.mem ∧ u.groups = s.groups) ∧
  (∀ (s : State) (core id tile : Nat) (mask : W64) (o : EngineOp), o.kind = .accnext tile mask → o.overMask = 0 →
    (∀ n, n < 1024 → (s.acceptOp core id o).tileAt core tile n =
      if mask.getLsbD (n / 32) && mask.getLsbD (32 + n % 32) then 0 else s.tileAt core tile n) ∧
    (∀ k n, k ≠ tile → (s.acceptOp core id o).tileAt core k n = s.tileAt core k n) ∧
    tget? (s.acceptOp core id o).ops id =
      some { o with accepted := some s.time, finish := s.time + 2 * s.cyc core + 24 * s.cyc core
                    prior := tgetD (s.core core).ring tile zeroTile }) ∧
  (∀ (s : State) (id : Nat) (o : EngineOp), tget? s.ops id = some o → o.kind.array = true → o.accepted.isSome = true → o.finish ≤ s.time →
    ∃ t, exec (.tileComplete id) s = .next t ∧ t.mem = s.mem ∧ tget? t.ops id = none ∧ t.cores = s.cores) ∧
  (∀ (s : State) (core id tile dst pitch ofmt act : Nat) (toScr sat : Bool) (scale : W32) (rest : List Nat) (o : EngineOp),
    (s.core core).matrix.epi = id :: rest → tget? s.ops id = some o → o.kind = .epi toScr tile dst pitch ofmt act sat scale →
    o.ended = false → (s.core core).matrix.epiBusyUntil ≤ s.time →
    (∀ e ∈ s.ops, ¬ (e.1 < id ∧ e.2.guid = o.guid ∧ e.2.kind.array = true ∧ e.2.kind.tile = some tile ∧ e.2.vDone = false)) →
    tgetD (s.core core).matrix.accwr tile 0 ≤ s.time →
    ∃ t, exec (.epiStart core) s = .next t ∧ t.mem = s.mem ∧ (t.core core).matrix.epi = rest ∧
      (t.core core).matrix.epiBusyUntil = s.time + 68 * s.cyc core ∧
      tget? t.ops id = some { o with accepted := some s.time, finish := s.time + 68 * s.cyc core
                                     buf := cwrite [] 0 (s.epiBlock core tile ofmt act sat scale) }) ∧
  (∀ (s : State) (k k' pos id level index : Nat) (m : Msg) (data : List W32) (c : Coll), s.reduction k pos = some (id, m) →
    m.kind = .reduce k' level index data → tget? s.colls k = some c →
    (c.ended = true ∨ c.failedAt ≠ none → exec (.junctionArrival k pos) s = .next (s.dropMsg id)) ∧
    (c.ended = false → c.failedAt = none → m.slice ≠ s.reduceAt c level index → exec (.junctionArrival k pos) s =
      .next ((s.dropMsg id).sendBase (.reduce k' level index data) m.slice (s.reduceAt c level index))) ∧
    (c.ended = false → c.failedAt = none → m.slice = s.reduceAt c level index → exec (.junctionArrival k pos) s =
      .next (s.attempt c.payer fun u => (u.dropMsg id).climb k c level index data m.slice))) ∧
  (∀ (s : State) (k level index here : Nat) (data : List W32) (c : Coll), 1 < nodesAt c.n level →
    let sibling := c.sums.find? fun y => y.level == level && y.index == (if index % 2 == 0 then index + 1 else index - 1)
    (∀ x, sibling = some x →
      let d : Coll := { c with sums := c.sums.filter fun y => y != x }
      s.climb k c level index data here = (s.setColl k d).forward k d (level + 1) (index / 2)
        (if index % 2 == 0 then addNodes data x.data else addNodes x.data data) here) ∧
    (sibling = none → c.parked = false → s.buffersAt (junctionSlice level index) < 64 → s.climb k c level index data here =
      s.setColl k { c with sums := c.sums ++ [{ level := level, index := index, data := data, since := s.time }] })) ∧
  (∀ (s : State) (k level index here : Nat) (data : List W32) (c : Coll), nodesAt c.n level ≤ 1 →
    s.climb k c level index data here = (s.setColl k { c with device := some data }).collStep k) ∧
  (∀ (s : State) (k level index : Nat) (c : Coll) (x : NodeSum), tget? s.colls k = some c → x ∈ c.sums → x.level = level → x.index = index →
    x.parked = false → x.since + 100 * usec ≤ s.time →
    exec (.partialParkTimeout k level index) s = .next (s.parkColl k) ∧
    (s.partialsAt (s.homeOf c.dst) + (c.sums.filter fun y => !y.parked).length ≤ 1024 →
      s.parkColl k = s.setColl k { c with sums := c.sums.map (fun y => { y with parked := true }), parked := true })) ∧
  (∀ (s : State) (k at' : Nat) (c : Coll), tget? s.colls k = some c → c.ringSince = some at' → c.mode = 2 → c.device = none → c.cto ≠ 0 →
    c.failedAt = none → c.ended = false → at' + c.cto * usec ≤ s.time →
    exec (.roundaboutTimeout k) s = .next (s.collFails k)) ∧
  (∀ (s : State) (k at' : Nat) (c : Coll), tget? s.colls k = some c → c.failedAt = some at' → c.cto ≠ 0 → at' + c.cto * usec ≤ s.time →
    ∃ t, exec (.collectiveNameExpiry k) s = .next t ∧ tget? t.colls k = none ∧ t.mem = s.mem)

/-! ## Power, bring-up, boost -/

/-- POWER_ON_RESET, MODULE_RESET, STANDBY_POWER_REMOVED, RAIL_FAULT, RAIL_UP and CHIPLET_RESET complete: a reset leaves the Boot stage with no
group, team, grid, context or queue and the base registers at their reset values (R76); a power-down leaves the host's link
down, nothing resident and no rail up but those that stay, and without VMEM memory is lost (R22, R87); a fault of VLAS begins
the orderly stop, and one of a VCH rail fences its chiplet (R22); rails come up in their order, none after a power-down or in
T3 (R21, R77, R79, R87); and a fenced or idle chiplet starts again (R21).
IMAGE_VERIFY_DONE, RECOVERY_GO, BASE_STAGE_DONE, MEMORY_STAGE_DONE, CLUSTER_CALIBRATION_DONE, ATTNONCE_WRITE, ATTESTATION_GO and ATTESTATION_DONE
complete: an accepted image runs and is measured, and one that fails a check leaves its FAIL code (R81 to R83); the stages
follow each other, and memory is zero when the Memory stage begins (R77); a calibrated cluster runs at 1.6 GHz, or at the
step of T1, and a failed calibration fences its chiplet (R77, R79). -/
def Obligations.PowerAndBringUpProceed : Prop :=
  (∀ s : State, ∃ t, exec .powerOnReset s = .next t ∧ t.stage = .boot ∧ t.time = 0 ∧ t.power = {} ∧ t.groups = [] ∧ t.teams = [] ∧
    t.grids = [] ∧ t.contexts = [] ∧ t.queues = [] ∧ t.cores = [] ∧ t.slices = [] ∧ t.clusters = [] ∧ t.peer = {} ∧
    t.boot = { flash := s.boot.flash } ∧ t.mem = s.mem) ∧
  (∀ s : State, s.power.vaux = true → ∃ t, exec .moduleReset s = .next t ∧ t.stage = .boot ∧ t.time = 0 ∧ t.power = { lasersLost := s.power.lasersLost } ∧
    t.groups = [] ∧ t.teams = [] ∧ t.grids = [] ∧ t.contexts = [] ∧ t.queues = [] ∧ t.cores = [] ∧ t.slices = [] ∧ t.clusters = [] ∧
    t.peer = {} ∧ t.boot = { flash := s.boot.flash } ∧ t.mem = s.mem) ∧
  (∀ s : State, exec .standbyPowerRemoved s = .next (s.powerDown false false)) ∧
  (∀ s : State, s.power.vaux = true → exec (.railFault [.vaux]) s = .next (s.powerDown false false)) ∧
  (∀ (s : State) (rails : List Rail), Rail.vaux ∉ rails → Rail.vbase ∈ rails → s.commanded .vbase = true →
    exec (.railFault rails) s = .next (s.powerDown true false)) ∧
  (∀ s : State, s.commanded .vmem = true → exec (.railFault [.vmem]) s = .next (s.powerDown true false)) ∧
  (∀ s : State, s.commanded .vlas = true →
    exec (.railFault [.vlas]) s = .next ({ s with power := { s.power with vlas := false } } : State).orderlyStop) ∧
  (∀ (s : State) (n : Nat), s.commanded (.vch n) = true →
    let u := (s.failStage n).fenceChiplet n
    exec (.railFault [.vch n]) s = .next { u with power := { u.power with vch := u.power.vch &&& ~~~ BitVec.ofNat 8 (2 ^ n) } }) ∧
  (∀ (s : State) (n : Nat), s.commanded (.vch n) = true → s.commanded .vlas = true →
    exec (.railFault [.vlas, .vch n]) s =
      .next ({ s.chipFault n with power := { (s.chipFault n).power with vlas := false } } : State).orderlyStop) ∧
  (∀ (s : State) (vaux vmem : Bool),
    let t := s.powerDown vaux vmem
    t.groups = [] ∧ t.teams = [] ∧ t.grids = [] ∧ t.contexts = [] ∧ t.queues = [] ∧ t.time = s.time ∧ t.linkUp = false ∧
    t.power.vaux = vaux ∧ t.power.vbase = false ∧ t.power.vmem = vmem ∧ t.power.vlas = false ∧ t.power.vch = 0 ∧
    t.mem = if vmem then s.mem else []) ∧
  (∀ s : State, s.power.t3 = true → s.power.down = false →
    (s.power.t3step < 5 → s.t3Advance.power.t3step = s.power.t3step + 1) ∧
    (s.power.t3step = 6 → s.t3Advance = ({ s with power := { s.power with t3step := 7 } } : State).powerDown true s.power.vmem)) ∧
  (∀ (s : State) (r : Rail) (check : ChipletCheck), (s.power.down = true ∨ s.power.t3 = true) → exec (.railUp ⟨r, check⟩) s = .next s) ∧
  (∀ (s : State) (check : ChipletCheck), s.power.down = false → s.power.t3 = false → s.stage = .base → s.power.vaux = true →
    let t : State := { s with power := { s.power with vbase := true } }
    exec (.railUp ⟨.vbase, check⟩) s = .next (if s.power.lasersLost.getLsbD 4 && s.power.lasersLost.getLsbD 5 then t.orderlyStop else t)) ∧
  (∀ (s : State) (check : ChipletCheck), s.power.down = false → s.power.t3 = false → s.stage = .base → s.power.vaux = true →
    s.power.vbase = true → exec (.railUp ⟨.vmem, check⟩) s = .next { s with power := { s.power with vmem := true } }) ∧
  (∀ (s : State) (check : ChipletCheck), s.power.down = false → s.power.t3 = false → s.stage = .memory → s.power.vaux = true →
    s.power.vbase = true → s.power.vmem = true → exec (.railUp ⟨.vlas, check⟩) s =
      .next (((List.range 16).filter fun n => s.power.lasersLost.getLsbD (n / 4)).foldl (fun u n => u.portLost n .failed)
        { s with power := { s.power with vlas := true } })) ∧
  (∀ (s : State) (n : Nat) (check : ChipletCheck), n < 8 → s.stage = .compute → s.power.baseUp = true → s.power.vch.getLsbD n = false →
    s.power.fenced.getLsbD n = false → (∀ k, k < n → s.chipletDone k = true) →
    exec (.railUp ⟨.vch n, check⟩) s = .next (s.chipletStage n check)) ∧
  (∀ (s : State) (n : Nat) (check : ChipletCheck), n < 8 → (s.stage = .compute ∨ s.stage = .full) → s.power.baseUp = true →
    (s.power.vch.getLsbD n = true ∨ s.power.fenced.getLsbD n = true) → s.chipletBusy n = false →
    exec (.chipletReset ⟨n, check⟩) s = .next (s.rejoin n check)) ∧
  (∀ (s : State) (n : Nat) (check : ChipletCheck),
    (check.scanOk = true → check.badPorts = 0 → s.chipletStage n check = (s.chipletStart n).checkFull) ∧
    (check.scanOk = false → s.chipletStage n check = ((s.chipletStart n).failStage n).fenceChiplet n)) ∧
  (∀ (s : State) (n : Nat), s.stage = .compute → s.chipletDone n = false → (s.failStage n).power.stageFailed = true) ∧
  (∀ s : State, s.power.stageFailed = true → s.checkFull = s) ∧
  (∀ (s : State) (c : ImageCheck), s.stage = .boot → s.linkUp = true → (s.boot.state = .verifying ∨ s.boot.state = .recoveryVerifying) →
    let i := s.boot.image
    let fail := imageFail (s.boot.state == .verifying) i c
    ∃ t, exec (.imageVerifyDone c) s = .next t ∧ t.mem = s.mem ∧
      if fail = 0 then t.stage = .base ∧ t.boot.state = .running ∧
        t.boot.fail = 0 ∧ t.boot.mr0 = imageDigest i ∧ t.boot.version = i.version ∧
        t.boot.flash = (if s.boot.state = .recoveryVerifying ∧ s.boot.flashing = true then some i else s.boot.flash)
      else t = { s with boot := { s.boot with state := .recovery, fail := BitVec.ofNat 8 fail } }) ∧
  (∀ (flash : Bool) (i : Image) (c : ImageCheck), (flash = true → c.flashOk = false → imageFail flash i c = 4) ∧
    ((flash = false ∨ c.flashOk = true) → imageFail flash i c =
      if Config.signatureVerifies Config.rootKeyDigest i.version i.length i.digest i.signature = false then 1
      else if i.body.length ≠ i.length.toNat ∨ Config.digest384 i.body ≠ i.digest then 2
      else if i.version.toNat < Config.minVersion.toNat then 3 else 0)) ∧
  (∀ (s : State) (v : W32), v.getLsbD 0 = true → s.linkUp = true → s.boot.state = .recovery →
    exec (.recoveryGo v) s = .next { s with boot := { s.boot with
      persist := v.getLsbD 1, state := .recoveryVerifying, flashing := v.getLsbD 1 } }) ∧
  (∀ s : State, s.stage = .base → s.power.vbase = true → s.power.vmem = true → s.power.t3 = false →
    exec .baseStageDone s = .next { s with stage := .memory, mem := [], poison := [] }) ∧
  (∀ s : State, s.stage = .memory → s.power.vlas = true → s.power.t3 = false →
    exec .memoryStageDone s = .next { s with stage := .compute }) ∧
  (∀ (s : State) (c : Nat), s.clusterOnline c = true → (s.cluster c).cal = false → s.betweenInstrs c = true →
    ∃ t, exec (.clusterCalibrationDone ⟨c, true⟩) s = .next t ∧ (t.cluster c).cal = true ∧ (t.cluster c).kept = true ∧
      (t.cluster c).step = s.restStep true ∧ t.mem = s.mem ∧ ∀ k, k ≠ c → t.cluster k = s.cluster k) ∧
  (∀ (s : State) (c : Nat), s.clusterOnline c = true → (s.cluster c).cal = false →
    exec (.clusterCalibrationDone ⟨c, false⟩) s = .next ((s.failStage (chipOf c)).fenceChiplet (chipOf c))) ∧
  (∀ (s : State) (n : BitVec 384), s.bar0Open = true →
    exec (.attnonceWrite n) s = .next { s with boot := { s.boot with nonce := n, attDone := false } }) ∧
  (∀ s : State, s.bar0Open = true → exec .attestationGo s = .next { s with boot := { s.boot with attGo := true } }) ∧
  (∀ s : State, s.boot.attGo = true → exec .attestationDone s = .next { s with boot := { s.boot with
    attGo := false, attDone := true
    report := s.boot.measured ++ (List.range 4627).map fun i => Config.attestSignature s.boot.measured i } })

/-- CLUSTER_RETENTION_ENTRY, CLUSTER_WAKE, LOOP_SAMPLE, INLET_OUT_OF_RANGE, LOOP_RESTORED, SENSOR_SAMPLE and LASER_MODULE_LOSS complete:
an idle cluster retains and wakes (R84); a sample that is due is taken into both loops, and a loop is lost after two asserted
samples in a row or by an inlet out of range for 10 ms, and is restored after a second within range (R24, R25); the sensors'
values are kept (R26); and a lost laser module's ports fail (R18, R31).
BOOST_BOUNDARY, PERMIT_REFILL, EXCLUSION_SUBPERIOD_END and EVENT_COUNTER_WRAP complete: ECAP follows the measured power (R93), a cluster
gains one permit for each 8 µs of unbroken idleness below its ceiling (R92), a sub-period's doubled intervals end with it
(R95), and a counter past its highest value wraps and sets OVF (R96). -/
def Obligations.CoolingAndBoostProceed : Prop :=
  (∀ (s : State) (c : Nat), s.clusterOnline c = true → (s.cluster c).ret = false → s.clusterBusy c = false →
    (s.cluster c).idleSince + 50 * usec ≤ s.time →
    ∃ t, exec (.clusterRetentionEntry c) s = .next t ∧ t.mem = s.mem ∧ (t.cluster c).ret = true ∧ (t.cluster c).wakeAt = none ∧
      ∀ n sl, tget? t.slices n = some sl → ∀ e ∈ sl.regions ++ sl.lines, e.2.sharers &&& clusterBit c = 0) ∧
  (∀ (s : State) (c at' : Nat), (s.cluster c).wakeAt = some at' → (s.cluster c).ret = true → at' ≤ s.time →
    ∃ t, exec (.clusterWake c) s = .next t ∧ t.mem = s.mem ∧ (t.cluster c).ret = false ∧ (t.cluster c).wakeAt = none ∧
      ∀ k, k ≠ c → t.cluster k = s.cluster k) ∧
  (∀ (s : State) (a b : Bool), sampleDue s.power.looked s.time = true →
    let u := s.setLoops (s.power.top.sample (!a) s.time) (s.power.bottom.sample (!b) s.time)
    exec (.loopSample a b) s = .next ({ u with power := { u.power with looked := some s.time } } : State).t3Advance) ∧
  (∀ s : State, s.power.top.inletLost s.time = true →
    exec (.inletOutOfRange .top) s = .next (s.setLoops (s.power.top.assertLoss s.time) s.power.bottom)) ∧
  (∀ s : State, s.power.bottom.inletLost s.time = true →
    exec (.inletOutOfRange .bottom) s = .next (s.setLoops s.power.top (s.power.bottom.assertLoss s.time))) ∧
  (∀ s : State, exec (.loopRestored .top) s = .next (s.setLoops (s.power.top.restore s.time) s.power.bottom)) ∧
  (∀ s : State, exec (.loopRestored .bottom) s = .next (s.setLoops s.power.top (s.power.bottom.restore s.time))) ∧
  (∀ (l : Loop) (now : Nat), ((l.sample true now).sample true now).lost = true ∧ (l.sample false now).lost = l.lost ∧ (l.assertLoss now).lost = true ∧
    (l.lost = false → l.lowRun = 0 → (l.sample true now).lost = false) ∧
    (l.dieHot = true ∨ l.inletOut.isSome = true → (l.sample false now).goodSince = none) ∧
    ((l.dies true false now).goodSince = none ∧ (l.dies true true now).lost = true) ∧
    (∀ g, l.goodSince = some g → (g + 1000000 * usec ≤ now → (l.restore now).lost = false) ∧ (now < g + 1000000 * usec → l.restore now = l))) ∧
  (∀ (s : State) (top bottom : Loop), s.power.t3 = false → s.power.vaux = true →
    s.setLoops top bottom = ({ s with power := { s.power with top := top, bottom := bottom } } : State).tableFrom s.power.table) ∧
  (∀ (s : State) (temps : List (BitVec 12)) (it ib : BitVec 12), s.power.vaux = true → sampleDue s.power.sensed s.time = true →
    (∀ x ∈ temps, x.toNat ≤ 1272) → s.power.t3 = false → s.power.table = 0 →
    ∃ m, exec (.sensorSample ⟨temps, it, ib⟩) s = .next { s with power := { s.power with
        sensors := m, hot := [], sensed := some s.time
        top := (s.power.top.inlet it s.time).dies false false s.time
        bottom := (s.power.bottom.inlet ib s.time).dies false false s.time } } ∧
      ∀ i v, i < 194 → temps[i]? = some v → tget? m i = some v) ∧
  (∀ (s : State) (n : Nat), n < 4 → s.power.lasersLost.getLsbD n = false →
    exec (.laserModuleLoss n) s = .next ((List.range 4).foldl (fun u i => u.portLost (4 * n + i) .failed)
      { s with power := { s.power with lasersLost := s.power.lasersLost ||| BitVec.ofNat 6 (2 ^ n) } })) ∧
  (∀ (s : State) (n : Nat), (n = 4 ∨ n = 5) → s.power.lasersLost.getLsbD n = false →
    let u : State := { s with power := { s.power with lasersLost := s.power.lasersLost ||| BitVec.ofNat 6 (2 ^ n) } }
    exec (.laserModuleLoss n) s = .next (if u.power.lasersLost.getLsbD 4 && u.power.lasersLost.getLsbD 5 && s.power.vbase
      then u.orderlyStop else u)) ∧
  (∀ (s : State) (watts : Nat), s.time % (4 * usec) = 0 → s.governor.last < s.time →
    ∃ t, exec (.boostBoundary watts) s = .next t ∧ t.mem = s.mem ∧ t.governor.last = s.time ∧
      t.governor.ecap = s.governor.cap s.power.table watts) ∧
  (∀ (g : Governor) (table watts : Nat), ((table = 1 ∨ table = 3) → g.cap table watts = 0) ∧
    (table ≠ 1 → table ≠ 3 → 2650 < watts → g.cap table watts = min g.maxcl (g.ecap - 8)) ∧
    (table ≠ 1 → table ≠ 3 → watts ≤ 2550 → g.cap table watts = min g.maxcl (g.ecap + 2)) ∧
    (table ≠ 1 → table ≠ 3 → 2550 < watts → watts ≤ 2650 → g.cap table watts = min g.maxcl g.ecap)) ∧
  (∀ (s : State) (c : Nat), s.clusterOnline c = true → s.clusterBusy c = false →
    max (s.cluster c).idleSince (s.cluster c).refillAt + 8 * usec ≤ s.time →
    ∃ t, exec (.permitRefill c) s = .next t ∧ t.mem = s.mem ∧ (∀ k, k ≠ c → t.cluster k = s.cluster k) ∧
      t.cluster c = { s.cluster c with
        refillAt := max (s.cluster c).idleSince (s.cluster c).refillAt + 8 * usec
        perm := if s.power.table ≠ 1 ∧ (s.cluster c).perm < (s.cluster c).ceil then (s.cluster c).perm + 1 else (s.cluster c).perm }) ∧
  (∀ s : State, s.time % usec = 0 → ∃ t, exec .exclusionSubperiodEnd s = .next t ∧ t.mem = s.mem ∧ t.groups = s.groups ∧
    ∀ c, s.clusterOnline c = false → (t.cluster c).doubled = false) ∧
  (∀ (s : State) (b k : Nat) (c : EventCounter), tget? s.counters (8 * b + k) = some c →
    ∃ t, exec (.eventCounterWrap b k) s = .next t ∧ t.mem = s.mem ∧ tget? t.counters (8 * b + k) = some (s.cycleCount (8 * b + k) c) ∧
      ∀ j, j ≠ 8 * b + k → tget? t.counters j = tget? s.counters j) ∧
  (∀ (c : EventCounter) (n : Nat), (c.add n).count = c.count + BitVec.ofNat 48 n ∧ ((c.add n).ovf = true ↔ c.ovf = true ∨ 2 ^ 48 ≤ c.count.toNat + n))

/-! ## Peer links -/

/-- PORT_ENABLE, PORT_DISABLE, PORT_RETRAIN, PORT_TRAINING_DONE, PWGT_WRITE, PDEVID_WRITE, PORT_REPLAY_LIMIT, PORT_RECEIVE_TIMEOUT,
GO_BACK_N_REPLAY and ROUTE_HOLD_RELEASE complete: a port is enabled, disabled, trained, up afresh, or lost (R31, R43, R44), it
resends from the flit that a receiver names (R30), and packets that waited for a route's change leave on it (R39). -/
def Obligations.PortsChangeState : Prop :=
  (∀ (s : State) (n : Nat) (v : W32), s.bar0Open = true → n < 16 → v.getLsbD 0 = true → v.getLsbD 1 = false →
    exec (.portEnable n v) s = .next (s.setPort n { s.port n with en := true })) ∧
  (∀ (s : State) (n : Nat) (v : W32), s.bar0Open = true → n < 16 → v.getLsbD 0 = false → v.getLsbD 1 = false →
    ∃ t, exec (.portDisable n v) s = .next t ∧ (t.port n).en = false ∧ (t.port n).state = .down ∧
      ((s.port n).state = .down → t = s.setPort n { s.port n with en := false })) ∧
  (∀ (s : State) (n : Nat) (v : W32), s.bar0Open = true → n < 16 → v.getLsbD 0 = true → v.getLsbD 1 = true →
    s.peer.devidV = true → s.portLit n = true → ((s.port n).state = .down ∨ (s.port n).state = .failed) →
    ∃ t, exec (.portRetrain n v) s = .next t ∧ t.mem = s.mem ∧
      t.port n = { s.port n with en := true, state := .training, trainedAt := some s.time }) ∧
  (∀ (s : State) (n : Nat), (s.port n).state = .training → s.portLit n = true →
    ∃ t, exec (.portTrainingDone n) s = .next t ∧ t.mem = s.mem ∧ (t.port n).state = .up ∧ (t.port n).seq = 0 ∧ (t.port n).expect = 0 ∧
      (t.port n).sent = [] ∧ (t.port n).lastAccept = s.time) ∧
  (∀ (s : State) (n : Nat) (v : W32), s.bar0Open = true → n < 16 → (pwgtOf v).foldl (fun a b => a + b) 0 = 16 → 0 ∉ pwgtOf v →
    exec (.pwgtWrite n v) s = .next (s.setPort n { s.port n with weights := pwgtOf v })) ∧
  (∀ (s : State) (v : W32), s.bar0Open = true → s.peer.devidSet = false →
    exec (.pdevidWrite v) s = .next { s with peer := { s.peer with
      devid := v.extractLsb' 0 14, devidV := v.getLsbD 31, devidSet := true } }) ∧
  (∀ (s : State) (n : Nat), (s.port n).state = .up →
    ((∃ f ∈ (s.port n).sent, 8 ≤ f.resends) → exec (.portReplayLimit n) s = .next (s.portLost n .failed)) ∧
    ((s.port n).lastAccept + 10 * usec ≤ s.time → exec (.portReceiveTimeout n) s = .next (s.portLost n .failed)) ∧
    ((s.portLost n .failed).port n).state = .failed ∧ ((s.portLost n .failed).port n).sent = []) ∧
  (∀ (s : State) (n : Nat) (q : BitVec 12), (s.port n).state = .up → (s.port n).asked = some q →
    exec (.goBackNReplay n q) s = .next (s.setPort n (s.port n).goBack)) ∧
  (∀ (p : Port) (q : BitVec 12), p.asked = some q →
    p.goBack = { p with asked := none, resend := if p.sent.any fun f => f.seq == q then some q.toNat else p.resend }) ∧
  (∀ (s : State) (d : Nat) (h : RouteHold), (s.peer.holds.find? fun x => x.dst.toNat == d) = some h →
    (∀ x ∈ (s.port h.oldPort).tags, x.dst ≠ h.dst) →
    ∃ t, exec (.routeHoldRelease d) s = .next t ∧ t.mem = s.mem ∧ t.peer.holds = s.peer.holds.filter (fun x => x.dst != h.dst) ∧
      t.port (s.homePort h.dst) = { s.port (s.homePort h.dst) with waiting := (s.port (s.homePort h.dst)).waiting ++ h.held })

/-- FLIT_SLOT, FLIT_RECEIVE, PEER_REQUEST_SEND, PEER_RESPONSE and TRANSIT_PACKET complete: a slot sends a response class first, or a control
flit (R33); a flit is accepted by its CRC, header and sequence, or asked for again (R28 to R30, R36); a request takes a
free tag of its port (R41; the lowest is the model's choice, log entry 109); a response frees its tag and takes effect (R40); and a packet for another device goes on (R42). -/
def Obligations.FlitsAndPacketsGoOn : Prop :=
  (∀ (s : State) (n : Nat), (s.port n).state = .up → s.portLit n = true → (s.port n).asked = none → (s.port n).resend = none →
    (s.port n).nak = false → (s.port n).canSend 2 = true → exec (.flitSlot n) s = .next (s.sendNew n 2)) ∧
  (∀ (s : State) (n : Nat), (s.port n).state = .up → s.portLit n = true → (s.port n).asked = none → (s.port n).resend = none →
    (s.port n).nak = true →
    ∃ t, exec (.flitSlot n) s = .next t ∧ t.mem = s.mem ∧ (t.port n).nak = false ∧
      (t.port n).lastSent = ((s.port n).emit 3 0 (s.port n).seq 0 0).lastSent) ∧
  (∀ (s : State) (n tc ptr : Nat) (i : Outgoing), tget? (s.port n).sending tc = none → (s.port n).pick tc = some (i, ptr) →
    ((s.sendNew n tc).port n).seq = (s.port n).seq + 1 ∧
    ((s.sendNew n tc).port n).credits = (s.port n).credits.set tc ((s.port n).credits.getD tc 0 - 1) ∧
    ((s.sendNew n tc).port n).sent = (s.port n).sent ++
      [{ kind := 1, tc := tc, seq := (s.port n).seq, dst := i.pkt.dst, pay := i.flits.getD 0 0
         head := if i.source == .transit then i.flits.head? else none
         grid := if tc == 2 then none else s.payer i }]) ∧
  (∀ (s : State) (n : Nat) (flit : BitVec 640), (s.port n).state = .up → s.portLit n = true →
    let body := (fecBody flit).1
    let p := { s.port n with corr := BitVec.ofNat 16 (min 65535 ((s.port n).corr.toNat + (fecBody flit).2)) }
    let u := (s.tally (480 + n) 2 1).tally (480 + n) 4 (fecBody flit).2
    exec (.flitReceive n flit) s = .next (if p.accepts body then u.acceptFlit n p body else u.setPort n p.reject)) ∧
  (∀ (s : State) (n : Nat) (p : Port) (body : BitVec 600), (bodyHeader body).kind = 1 → tget? p.recv (bodyHeader body).tc = none →
    let p1 := { p.heard (bodyHeader body) s.time with expect := p.expect + 1 }
    ((s.setPort n p1).flitsToCome p1 (bodyHeader body).dst (BitVec.ofNat 512 (body.toNat % 2 ^ 512))).1 = 0 →
    ((s.acceptFlit n p body).port n).expect = p.expect + 1 ∧ ((s.acceptFlit n p body).port n).lastAccept = s.time ∧
    ((s.acceptFlit n p body).port n).inbox = p.inbox ++
      [packetOf (bodyHeader body).tc (bodyHeader body).dst [BitVec.ofNat 512 (body.toNat % 2 ^ 512)]]) ∧
  (∀ (s : State) (n k : Nat) (i : Outgoing) (rest : List Outgoing), (s.port n).waiting = i :: rest → i.owner.isPage = false →
    s.routePort i.pkt.dst = some n → k < 4096 → (∀ x ∈ (s.port n).tags, x.tag ≠ k) → (∀ j, j < k → ∃ x ∈ (s.port n).tags, x.tag = j) →
    ∃ t, exec (.peerRequestSend n) s = .next t ∧ t.mem = s.mem ∧ (t.port n).waiting = rest ∧
      (t.port n).tags = (s.port n).tags ++ [{ tag := k, op := i.pkt.op, dst := i.pkt.dst, owner := i.owner, size := i.pkt.size.toNat }] ∧
      tgetD (t.port n).queues i.tc [] = tgetD (s.port n).queues i.tc [] ++
        [{ i with pkt := { i.pkt with tag := BitVec.ofNat 12 k } }]) ∧
  (∀ (s : State) (n m : Nat) (k : Packet) (x : Outstanding), s.inbound n (fun y => y.op == 0x80#8) = some k →
    let u := s.setPort n ((s.port n).takeIn k)
    ((n :: List.range 16).findSome? fun j => ((u.port j).tags.find? fun y => y.tag == k.tag.toNat && y.size == k.size.toNat).map fun y => (j, y)) =
      some (m, x) →
    exec (.peerResponse n) s = .next ((u.setPort m { u.port m with tags := (u.port m).tags.filter fun y => y.tag != x.tag }).peerDone m x.owner
      k.stat.toNat (k.data.take (x.size + 1)))) ∧
  (∀ (s : State) (n m : Nat) (k : Packet), ((s.port n).inbox.find? fun y => !s.mine y) = some k → s.routePort k.dst = some m →
    let u := s.setPort n ((s.port n).takeIn k)
    exec (.transitPacket n) s = .next (u.setPort m ((u.port m).enqueue { pkt := k, source := .transit })))

/-- PEER_LOAD, PEER_STORE, PEER_ATOMIC, PEER_ATOMIC_NO_RETURN, PEER_BULK_WRITE, PEER_CHECKPOINT_PAGE, PEER_COLLECTIVE_PACKET and PEER_RESERVED_OP
complete: an inbound request that a window lets in is done at its home, once what it needs there is to hand, and answered OK with its data, one that none lets in is
DENIED, and a reserved OP is DENIED (R35, R38, R40, R45, R165). -/
def Obligations.InboundRequestsAreServed : Prop :=
  (∀ (s : State) (n op bytes : Nat) (k : Packet) (i : Instr), (op, bytes, i) ∈ [(0x01, k.size.toNat + 1, Instr.peerLoad n),
      (0x02, k.size.toNat + 1, .peerStore n), (0x03, atomBytes k.fn.toNat, .peerAtomic n), (0x04, atomBytes k.fn.toNat, .peerAtomicNoReturn n),
      (0x10, k.data.length, .peerBulkWrite n), (0x30, 4096, .peerCheckpointPage n)] →
    s.inbound n (fun y => [BitVec.ofNat 8 op].contains y.op) = some k → s.windowAllows k = false →
    exec i s = .next ((s.setPort n ((s.port n).takeIn k)).respond k 1 [])) ∧
  (∀ (s : State) (n : Nat) (k : Packet), s.inbound n (fun y => [0x01#8].contains y.op) = some k → s.windowAllows k = true →
    k.addr.toNat + (k.size.toNat + 1) ≤ memTop →
    exec (.peerLoad n) s = .next (s.attempt none fun u =>
      let v := (u.setPort n ((u.port n).takeIn k)).reach k.addr.toNat (k.size.toNat + 1) false
      if v.badRange k.addr.toNat (k.size.toNat + 1) then v.respond k 2 []
      else (v.readNow k.addr.toNat (k.size.toNat + 1)).1.respond k 0 (v.readNow k.addr.toNat (k.size.toNat + 1)).2)) ∧
  (∀ (s : State) (n : Nat) (k : Packet), s.inbound n (fun y => [0x02#8].contains y.op) = some k → s.windowAllows k = true →
    k.addr.toNat + (k.size.toNat + 1) ≤ memTop →
    exec (.peerStore n) s = .next (s.attempt none fun u =>
      ((u.setPort n ((u.port n).takeIn k)).writeNow k.addr.toNat (k.data.take (k.size.toNat + 1))).respond k 0 [])) ∧
  (∀ (s : State) (n : Nat) (k : Packet), s.inbound n (fun y => [0x03#8].contains y.op) = some k → s.windowAllows k = true →
    k.addr.toNat + atomBytes k.fn.toNat ≤ memTop →
    exec (.peerAtomic n) s = .next (s.attempt none fun u =>
      let r := (u.setPort n ((u.port n).takeIn k)).peerAtomicAt k
      r.1.respond k r.2.1 r.2.2)) ∧
  (∀ (s : State) (n : Nat) (k : Packet), s.inbound n (fun y => [0x04#8].contains y.op) = some k → s.windowAllows k = true →
    k.addr.toNat + atomBytes k.fn.toNat ≤ memTop →
    exec (.peerAtomicNoReturn n) s = .next (s.attempt none fun u =>
      let r := (u.setPort n ((u.port n).takeIn k)).peerAtomicAt k
      r.1.respond k r.2.1 [])) ∧
  (∀ (s : State) (k : Packet),
    let n := atomBytes k.fn.toNat
    let v := s.reach k.addr.toNat n false
    (v.badRange k.addr.toNat n = true → s.peerAtomicAt k = (v, 2, [])) ∧
    (v.badRange k.addr.toNat n = false →
      let old := (v.readNow k.addr.toNat n).2
      s.peerAtomicAt k = ((v.readNow k.addr.toNat n).1.writeNow k.addr.toNat (leBytes n
        (atomNew (k.fn.toNat % 16) (k.fn.toNat ≥ 16) (leNat old) (leNat (k.data.take n)) (leNat (k.data.drop n)))), 0, old))) ∧
  (∀ (s : State) (n : Nat) (k : Packet), s.inbound n (fun y => [0x10#8].contains y.op) = some k → s.windowAllows k = true →
    k.addr.toNat + k.data.length ≤ memTop →
    exec (.peerBulkWrite n) s = .next (s.attempt none fun u =>
      ((u.setPort n ((u.port n).takeIn k)).writeNow k.addr.toNat k.data).respond k 0 [])) ∧
  (∀ (s : State) (n : Nat) (k : Packet), s.inbound n (fun y => [0x30#8].contains y.op) = some k → s.windowAllows k = true →
    k.addr.toNat + 4096 ≤ memTop → k.data.length = 4096 →
    ∃ v : State → State, exec (.peerCheckpointPage n) s = .next (s.attempt none fun u => (v u).respond k 0 []) ∧
      ∀ u, Memory.wf u.mem = true → (∀ i, i < 4096 → cget (v u).mem (k.addr.toNat + i) = k.data.getD i 0) ∧
        ∀ q ∈ (v u).poison, q < k.addr.toNat / 64 ∨ k.addr.toNat / 64 + 64 ≤ q) ∧
  (∀ (s : State) (n : Nat) (k : Packet), s.inbound n (fun y => y.op == 0x20#8) = some k →
    exec (.peerCollectivePacket n) s = .next (s.attempt none fun u =>
      ((u.setPort n ((u.port n).takeIn k)).takeCollective k).respond k 0 [])) ∧
  (∀ (s : State) (n : Nat) (k : Packet), s.inbound n (fun y => !opKnown y.op) = some k →
    exec (.peerReservedOp n) s = .next ((s.setPort n ((s.port n).takeIn k)).respond k 1 [])) ∧
  (∀ (s : State) (req : Packet) (stat n : Nat) (data : List Byte), s.routePort req.src = some n →
    tgetD ((s.respond req stat data).port n).queues 2 [] = tgetD (s.port n).queues 2 [] ++
      [{ pkt := { op := 0x80#8, src := req.src, dst := req.src, tag := req.tag, fn := req.fn, stat := BitVec.ofNat 3 stat
                  size := req.size, addr := 0, tc := 2, data := data }
         source := .answer }])

/-! ## The host's registers, BAR4 and contexts -/

/-- REGISTER_WRITE, READ_TO_CLEAR, FLR_PF, BAR4_READ and BAR4_WRITE complete: a write goes to the register of its offset, whole or by a half
(R7, R8), one of 128 bits as two of 64 (R461); a read returns the fields and clears those that reading clears (R7); a submission page
takes and returns QWI (R62); BAR4 reads and writes memory at its home, and before it is in service reads all ones (R53, R77); a function reset of the physical function returns the peer registers
and BAR4OFF to their reset values (R74).
CONTEXT_ENABLE, CONTEXT_DISABLE, RECORD_RING_READ_INDEX_WRITE and HELD_RECORD_WRITE complete: a context becomes resident with its indices,
flags and mailboxes at 0 (R54, R57, R405), or ceases to be, with its TLB entries (R54, R273) and the records held for it (the model's
choice, log entry 114); CXRRI advances up to CXRWI (R57); and the oldest held record
goes to the ring once it has room (R58). -/
def Obligations.HostAccessesComplete : Prop :=
  (∀ (s : State) (func off base : Nat) (v : BitVec 128) (r : Reg), s.linkUp = true → off % 4 = 0 → regAt func off = some (r, base) →
    s.inService r = true → s.visible func r = true → r.whole = false →
    (r.wide = false → exec (.registerWrite func ⟨0, off⟩ 4 v) s = .next (s.writeReg func r ((v.setWidth 32).setWidth 64))) ∧
    (r.wide = true → exec (.registerWrite func ⟨0, off⟩ 4 v) s = .next (s.writeReg func r (BitVec.ofNat 64
      (merge64 (s.keptHalf r) (off - base) 4 ((v.setWidth 32).setWidth 64)))))) ∧
  (∀ (s : State) (func off : Nat) (v : BitVec 128) (r : Reg), s.linkUp = true → off % 8 = 0 → regAt func off = some (r, off) →
    s.inService r = true → s.visible func r = true → r.wide = true →
    exec (.registerWrite func ⟨0, off⟩ 8 v) s = .next (s.writeReg func r (v.setWidth 64))) ∧
  (∀ (s : State) (func off : Nat) (v : BitVec 128), s.linkUp = true → off % 16 = 0 →
    exec (.registerWrite func ⟨0, off⟩ 16 v) s =
      .next ((s.write64 func off (v.setWidth 64)).write64 func (off + 8) (v.extractLsb' 64 64))) ∧
  (∀ (s : State) (func q : Nat) (v : BitVec 128), s.linkUp = true → s.bar0Open = true → s.queueTouch func q = true →
    exec (.registerWrite func ⟨2, 4096 * q⟩ 4 v) s = .next (s.qwin q (v.setWidth 32)) ∧
    exec (.readToClear func ⟨2, 4096 * q⟩ 4) s = .next { s with host := { s.host with readBytes := leBytes 4 (s.queueAt q).qwi.toNat } }) ∧
  (∀ (s : State) (func : Nat) (v : W64),
    (s.writeReg func .bar4off v).host.bar4off = BitVec.ofNat 64 (bits v.toNat 49 30) ∧
    (s.writeReg func .prito v).host.prito = fld v.toNat 15 0 ∧
    (s.writeReg func .bgov v).governor = { s.governor with en := v.getLsbD 6, maxcl := min 48 (fld v.toNat 5 0) } ∧
    (s.writeReg func .cklist v).peer.ck.list = v ∧
    (∀ sl, (s.writeReg func (.bltstat sl) v).slice sl = { s.slice sl with badFull := (s.slice sl).badFull && !v.getLsbD 8 }) ∧
    (s.writeReg func .dptr v) = s ∧ (s.writeReg func .cap0 v) = s ∧ (s.writeReg func .therm v) = s) ∧
  (∀ (s : State) (func off base : Nat) (r : Reg), s.linkUp = true → off % 4 = 0 → regAt func off = some (r, base) →
    s.inService r = true → s.visible func r = true →
    exec (.readToClear func ⟨0, off⟩ 4) s = .next { s.clearRead r with host := { (s.clearRead r).host with
      readBytes := leBytes 4 (s.regValue r / 2 ^ (8 * (off - base)) % 2 ^ 32) } }) ∧
  (∀ (s : State) (n : Nat), (s.clearRead (.pstat n)).port n = { s.port n with replays := 0, corr := 0 } ∧
    ((s.clearRead (.cx n 9)).ctxAt n) = { s.ctxAt n with lost := 0 } ∧ s.clearRead .dptr = s ∧ s.clearRead .cap0 = s) ∧
  (∀ s : State, ∃ t, exec .flrPf s = .next t ∧ t.peer = {} ∧ t.host.bar4off = 0) ∧
  (∀ (s : State) (off n : Nat), s.inBar4 off n = true → s.bar0Open = false → ∃ t, exec (.bar4Read off n) s = .next t ∧ t.mem = s.mem ∧
    t.host.readBytes = List.replicate n 255) ∧
  (∀ (s : State) (off n : Nat), s.inBar4 off n = true → s.bar0Open = true → s.rangeMoving (s.bar4Addr off) n = false →
    exec (.bar4Read off n) s = .next (s.attempt none fun u => u.bar4Read (s.bar4Addr off) n)) ∧
  (∀ (s : State) (pa n : Nat), 0 < n → pa % 256 + n ≤ 256 →
    (pa < memTop → s.badRange pa n = false →
      (s.bar4Read pa n).host.readBytes = (s.readNow pa n).2 ∧ (s.bar4Read pa n).mem = (s.readNow pa n).1.mem) ∧
    (memTop ≤ pa ∨ s.badRange pa n = true →
      (s.bar4Read pa n).host.readBytes = List.replicate n 255)) ∧
  (∀ (s : State) (off : Nat) (data : List Byte), s.inBar4 off data.length = true → s.bar0Open = true →
    s.rangeMoving (s.bar4Addr off) data.length = false → s.bar4Addr off < memTop →
    exec (.bar4Write off data) s =
      .next (s.attempt none fun u => u.writeNow (s.bar4Addr off) (data.take (memTop - s.bar4Addr off)))) ∧
  (∀ (s : State) (func ctx : Nat) (v : W32), s.bar0Open = true → s.mayTouch func ctx = true → v.getLsbD 31 = true →
    (s.ctxAt ctx).en = false → fld v.toNat 30 26 ≤ 16 →
    (∀ e ∈ s.contexts, e.1 ≠ ctx → e.2.en = true → e.2.func = fld v.toNat 30 26 → e.2.pasid ≠ v.extractLsb' 0 20) →
    (s.ctxAt ctx).msiv < vectorsOf (fld v.toNat 30 26) → 6 ≤ (s.ctxAt ctx).log2 → (s.ctxAt ctx).log2 ≤ 16 → s.ringOnPeer ctx = false →
    s.host.buffered = [] →
    ∃ t, exec (.contextEnable func ctx v) s = .next t ∧ t.mem = s.mem ∧ t.groups = s.groups ∧
      t.ctxAt ctx = { s.ctxAt ctx with en := true, func := fld v.toNat 30 26, pasid := v.extractLsb' 0 20, rwi := 0, rri := 0, held := []
                                       flags := [], boxes := [], boxWaits := [] } ∧
      ∀ k, k ≠ ctx → t.ctxAt k = s.ctxAt k) ∧
  (∀ (s : State) (func ctx : Nat) (v : W32), s.bar0Open = true → s.mayTouch func ctx = true → v.getLsbD 31 = false →
    (s.ctxAt ctx).en = true → (s.ctxAt ctx).func = fld v.toNat 30 26 → (s.ctxAt ctx).pasid = v.extractLsb' 0 20 →
    (∀ e ∈ s.queues, e.2.ctx = ctx → e.2.state = .off) →
    exec (.contextDisable func ctx v) s = .next (s.forgetCtx ctx)) ∧
  (∀ (s : State) (ctx : Nat), let t := s.forgetCtx ctx
    t.mem = s.mem ∧ t.groups = s.groups ∧ t.ctxAt ctx = { s.ctxAt ctx with en := false, held := [] } ∧ (∀ k, k ≠ ctx → t.ctxAt k = s.ctxAt k) ∧
    (∀ n k, tget? t.cores n = some k → ∀ e ∈ k.tlb, e.ctx ≠ ctx) ∧ (∀ n c, tget? t.clusters n = some c → ∀ e ∈ c.tlb, e.ctx ≠ ctx)) ∧
  (∀ (s : State) (func ctx : Nat) (v : W32), s.bar0Open = true → s.mayTouch func ctx = true →
    (v - (s.ctxAt ctx).rri).toNat ≤ ((s.ctxAt ctx).rwi - (s.ctxAt ctx).rri).toNat →
    ∃ t, exec (.recordRingReadIndexWrite func ctx v) s = .next t ∧ t.mem = s.mem ∧ t.ctxAt ctx = { s.ctxAt ctx with rri := v } ∧
      t.host.sent = (if v = (s.ctxAt ctx).rwi then s.host.sent else s.host.sent ++ [.msix (s.ctxAt ctx).func (s.ctxAt ctx).pasid (s.ctxAt ctx).msiv])) ∧
  (∀ (s u : State) (ctx guid : Nat) (bs : List Byte) (rest : List (List Byte × Nat)), (s.ctxAt ctx).held = (bs, guid) :: rest →
    s.ringWrite ctx bs = .ok u → s.writeHeld ctx = u.setCtx ctx { u.ctxAt ctx with held := rest }) ∧
  (∀ (s : State) (ctx : Nat), exec (.heldRecordWrite ctx) s = .next (s.attempt none fun u => u.writeHeld ctx))

/-! ## Translation, page requests and instruction fetch -/

/-- PAGE_WALK, ICACHE_FILL, TLB_INVALIDATE, TLB_INVALIDATE_DONE, DFRESP_SERVICED, DFRESP_REFUSED and DFT_TIMEOUT complete: a walker asks the home
of each table entry that it lacks, a walk that finds its leaf fills the TLBs and its fragment issues again, one that finds none faults (R269 to R274); a missing instruction line
comes into the cache (R209); an invalidation removes its entries and is done when the accesses that used them are (R276);
and a DFT entry is freed by its answer or its timeout (R274).
ATS_TRANSLATION_COMPLETION, ATS_INVALIDATION, ATS_INVALIDATION_COMPLETION, PRG_RESPONSE, PRI_TIMEOUT and PRI_STOPPED_CLEAR complete: the TLBs
take what the host allows, and what waits issues again (R55, R277); an invalidated range's entries go, and the answer follows the
accesses that used them (R56); a page request's answer, failure or timeout frees its tag (R71, R72). -/
def Obligations.TranslationsProceed : Prop :=
  (∀ (s : State) (p : WalkStep) (id : Nat) (w : Walk),
    let u := s.giveWalkers
    (u.walks.find? fun e => e.2.chiplet == p.chiplet && e.2.walker == some p.walker) = some (id, w) →
    (u.walkMsg id = none → exec (.pageWalk p) s = .next (u.runWalk id w)) ∧
    (∀ k m n a, u.walkMsg id = some (k, m) → m.stage = .arrived → m.kind = .walk n a →
      exec (.pageWalk p) s = .next (u.attempt (u.walkPayer w) fun v => v.serveWalk k m p.chiplet id a)) ∧
    (∀ k m n a pte, u.walkMsg id = some (k, m) → m.stage = .arrived → m.kind = .walkData n a pte →
      let x : Walk := { w with seen := w.seen ++ [(a, pte)] }
      exec (.pageWalk p) s = .next (({ u.dropMsg k with walks := tset u.walks id x } : State).runWalk id x))) ∧
  (∀ (s : State) (id l va : Nat) (w : Walk), w.vas = [(l, va)] →
    let u := s.walkSeen w.chiplet w.ctx va (some w.seen)
    (∀ a, u.2 = .error a → s.runWalk id w = u.1.sendBase (.walk id a) (walkerSlice w.chiplet) (u.1.homeOf a)) ∧
    (∀ r, u.2 = .ok r → s.runWalk id w = u.1.endWalk id w [(l, va, r)])) ∧
  (∀ (s : State) (k chip id at' : Nat) (m : Msg), s.serveWalk k m chip id at' =
    ((s.readNow at' 8).1.dropMsg k).sendBase (.walkData id at' (leNat (s.readNow at' 8).2)) m.slice (walkerSlice chip)) ∧
  (∀ (s : State) (id key entry l va : Nat) (w : Walk) (r : WalkResult) (g : Group) (f : Frag), w.frag = some (key, entry) →
    let u := ({ s with walks := tdel s.walks id } : State).giveWalkers
    u.walker? key entry = some (g, f) →
    (∀ e pte, r = .leaf e pte → s.endWalk id w [(l, va, r)] = (u.takeLeaf w.core va w.write e pte).setWait (key / 128) (key % 128) entry .none) ∧
    (r = .fault → s.endWalk id w [(l, va, r)] = u.pageFault w l va)) ∧
  (∀ (s : State) (core slot entry a : Nat) (g : Group) (f : Frag), s.frag? core slot entry = some (g, f) → g.waitOver f.wait s.time = true →
    f.stopped = false → (s.core core).fetch (s.teamOf g).ctx f.pc.toNat = .missing a →
    exec (.icacheFill core slot entry) s = .next (s.attempt (some (s.teamOf g).grid) fun u => u.fillLine core slot entry g f a)) ∧
  (∀ (s : State) (core slot entry a l x : Nat) (g : Group) (f : Frag) (e : TlbEntry), a < 2 ^ 52 →
    s.translate core (s.teamOf g).ctx (slotKey core slot) entry [(255, a)] false true = .ok (.lanes [(l, x, e)]) →
    (∀ pa, e.loc a = .dev pa → s.badRange (pa / 256 * 256) 256 = false) →
    let v := s.touchPages core (s.teamOf g).ctx [(l, x, e)]
    let u := (match e.loc a with | .dev _ => v.charge (s.teamOf g).grid 2 256 | _ => v).fetchLine e a
    s.fillLine core slot entry g f a = u.1.setCore core { u.1.core core with icache := (icacheAdd (u.1.core core).icache
      { ctx := (s.teamOf g).ctx, vline := a / 256, words := u.2, filled := u.1.time, used := u.1.time }) }) ∧
  (∀ (s : State) (func ctx : Nat) (v : W32), s.bar0Open = true → s.mayTouch func ctx = true → v.getLsbD 31 = true →
    (s.ctxAt ctx).tinvDone = true →
    ∃ t, exec (.tlbInvalidate func ctx v) s = .next t ∧ t.mem = s.mem ∧ t.groups = s.groups ∧ (t.ctxAt ctx).tinvDone = false ∧
      (t.ctxAt ctx).tinvPending = s.accessesIn ctx ∧
      ∀ n k, tget? t.cores n = some k → ∀ e ∈ k.tlb, e.ctx = ctx →
        (s.ctxAt ctx).tinvn ≠ 0 ∧ e.overlaps (fld (s.ctxAt ctx).tinvva.toNat 51 12) (s.ctxAt ctx).tinvn.toNat = false) ∧
  (∀ (s t : State) (func ctx : Nat) (v : W32), s.bar0Open = true → s.mayTouch func ctx = true → v.getLsbD 31 = true →
    (s.ctxAt ctx).tinvDone = true → exec (.tlbInvalidate func ctx v) s = .next t →
      ∀ e ∈ t.host.atc, e.ctx = ctx →
        (s.ctxAt ctx).tinvn ≠ 0 ∧ e.overlaps (fld (s.ctxAt ctx).tinvva.toNat 51 12) (s.ctxAt ctx).tinvn.toNat = false) ∧
  (∀ (s : State) (ctx : Nat), (s.ctxAt ctx).tinvDone = false → (∀ a ∈ (s.ctxAt ctx).tinvPending, s.stillOpen a = false) →
    exec (.tlbInvalidateDone ctx) s = .next (s.setCtx ctx { s.ctxAt ctx with tinvDone := true, tinvPending := [] })) ∧
  (∀ (s : State) (func ctx : Nat) (v : W32) (d : DftEntry), s.bar0Open = true → s.mayTouch func ctx = true → v.getLsbD 31 = true →
    tget? s.dft (v.extractLsb' 0 8).toNat = some d → d.ctx = ctx →
    (v.getLsbD 16 = false → exec (.dfrespServiced func ctx v) s = .next (s.dftServiced (v.extractLsb' 0 8).toNat d)) ∧
    (v.getLsbD 16 = true → exec (.dfrespRefused func ctx v) s = .next (s.dftRefused (v.extractLsb' 0 8).toNat d))) ∧
  (∀ (s : State) (e : Nat) (d : DftEntry), s.dftWait = [] → tget? (s.dftServiced e d).dft e = none ∧ (s.dftServiced e d).mem = s.mem) ∧
  (∀ (s : State) (e : Nat) (d : DftEntry), tget? s.dft e = some d → s.host.prito ≠ 0 → d.since + s.host.prito * 1000 * usec ≤ s.time →
    exec (.dftTimeout e) s = .next (s.dftRefused e d)) ∧
  (∀ (s : State) (i lane va : Nat) (w x : Bool) (pa : Nat) (k : Walk) (rest : List (Nat × Nat)) (f : Nat × Nat),
    let u := s.hostPump
    let e := atsEntry k.ctx va pa w x u.time
    tget? u.walks i = some k → k.ats = true → u.asked (.walk i) = true → k.vas = (lane, va) :: rest → k.frag = some f →
    (k.write = true → w = true) → (k.fetch = true → x = true) →
    exec (.atsTranslationCompletion i true w x pa) s =
      .next (((({ u with walks := tdel u.walks i } : State).tlbFill k.core e).atcFill e).retryWaiters [f] [] .walk)) ∧
  (∀ (s : State) (i lane va : Nat) (w x : Bool) (pa : Nat) (k : Walk) (rest : List (Nat × Nat)),
    let u := s.hostPump
    tget? u.walks i = some k → k.ats = true → u.asked (.walk i) = true → k.vas = (lane, va) :: rest →
    exec (.atsTranslationCompletion i false w x pa) s = .next (({ u with walks := tdel u.walks i } : State).hostFault k lane va)) ∧
  (∀ (s : State) (func pages : Nat) (pasid : BitVec 20) (va : W64),
    ∃ t, exec (.atsInvalidation func pasid va pages) s = .next t ∧ t.mem = s.mem ∧ t.groups = s.groups ∧
      (∀ n k, tget? t.cores n = some k → ∀ e ∈ k.tlb, e.ats = true → e.ctx ∈ s.atsContexts func pasid → e.overlaps (va.toNat / 4096) pages = false) ∧
      (∀ e ∈ t.host.atc, e.ats = true → e.ctx ∈ s.atsContexts func pasid → e.overlaps (va.toNat / 4096) pages = false) ∧
      ∃ x, t.host.invals = s.host.invals ++ [x] ∧ x.func = func ∧ x.pasid = pasid ∧ x.since = s.time ∧
        x.pending = (s.atsContexts func pasid).flatMap s.accessesIn) ∧
  (∀ (s : State) (x : AtsInval), s.host.invals.find? s.invalOver = some x →
    ∃ t, exec .atsInvalidationCompletion s = .next t ∧ t.mem = s.mem ∧ t.host.sent = s.host.sent ++ [.invalDone x.func] ∧
      t.host.invals = s.host.invals.eraseP (fun y => y == x)) ∧
  (∀ (s : State) (e : Nat) (t : TagEntry), tget? s.host.tags e = some t →
    let u : State := { s with host := { s.host with tags := tdel s.host.tags e } }
    exec (.prgResponse e .success) s = .next (u.retryWaiters t.waiters t.ops (.tag e)).serveTags ∧
    exec (.prgResponse e .invalidRequest) s = .next (u.tagFailed e t).serveTags ∧
    (∃ v : State, exec (.prgResponse e .responseFailure) s = .next (v.tagFailed e t).serveTags ∧ (s.ctxAt t.ctx).func ∈ v.host.priStopped ∧
      v.host.tags = tdel s.host.tags e ∧ v.groups = s.groups) ∧
    (s.host.prito ≠ 0 → t.sent + s.host.prito * 1000 * usec ≤ s.time → exec (.priTimeout e) s = .next (u.tagFailed e t).serveTags)) ∧
  (∀ (s : State) (func : Nat), s.host.tagWait = [] →
    ∃ t, exec (.priStoppedClear func) s = .next t ∧ t.mem = s.mem ∧ func ∉ t.host.priStopped ∧
      (∀ f, f ≠ func → (f ∈ t.host.priStopped ↔ f ∈ s.host.priStopped)))

/-! ## Queues and records -/

/-- QWIN_WRITE, QUEUE_CREATE, QUEUE_DESTROY, QUEUE_STOP, QUEUE_ABORT and QUEUE_RESUME complete: the write index advances within the ring (R62), and
a queue that has no fetch in progress changes its state by the one bit that is written (R65, R66; that a queue without records stops at
once is the model's choice, log entry 113).
FLR_VF and FLR_QUEUE_DESTROY complete: a function reset removes its contexts once their queues are Off, and a queue that a reset is to
destroy becomes Off once it has no record left (R74). -/
def Obligations.QueuesChangeState : Prop :=
  (∀ (s : State) (func q : Nat) (v : W32), s.bar0Open = true → s.queueTouch func q = true →
    let x := s.queueAt q
    (x.state ≠ .off → (v - x.qri).toNat ≤ 2 ^ x.log2 → exec (.qwinWrite func q v) s = .next (s.setQueue q { x with qwi := v })) ∧
    (x.fetching = none → x.state = .off → v.getLsbD 0 = true → v.getLsbD 1 = false → v.getLsbD 2 = false → v.getLsbD 3 = false →
      (s.ctxAt (fld v.toNat 21 16)).en = true → 4 ≤ x.log2 → x.log2 ≤ 16 →
      exec (.queueCreate func q v) s = .next (s.setQueue q { x with
        ctx := fld v.toNat 21 16, state := .active, qri := 0, qwi := 0, qdone := 0, recs := [], lastFailed := false, resetOff := false })) ∧
    (x.fetching = none → (x.state = .stopped ∨ x.state = .faulted ∧ x.recs = []) → v.getLsbD 0 = false → v.getLsbD 1 = false →
      v.getLsbD 2 = false → v.getLsbD 3 = false →
      exec (.queueDestroy func q v) s = .next (s.setQueue q { x with state := .off, recs := [], resetOff := false })) ∧
    (x.fetching = none → (x.state = .active ∨ x.state = .faulted) → v.getLsbD 0 = true → v.getLsbD 1 = true → v.getLsbD 2 = false → v.getLsbD 3 = false →
      exec (.queueStop func q v) s = .next (s.setQueue q { x with state := if x.recs = [] then .stopped else .draining })) ∧
    (x.fetching = none → x.state = .active → (∀ r ∈ x.recs, r.grid = none) → v.getLsbD 0 = true → v.getLsbD 1 = false → v.getLsbD 2 = true →
      v.getLsbD 3 = false →
      ∃ t, exec (.queueAbort func q v) s = .next t ∧ t.mem = s.mem ∧ (t.queueAt q).state = (if x.recs = [] then .stopped else .draining) ∧
        (t.queueAt q).recs.length = x.recs.length ∧ ∀ r ∈ (t.queueAt q).recs, r.complete = true) ∧
    (x.fetching = none → (x.state = .stopped ∨ x.state = .faulted) → v.getLsbD 0 = true → v.getLsbD 1 = false → v.getLsbD 2 = false → v.getLsbD 3 = true →
      exec (.queueResume func q v) s = .next (s.setQueue q { x with state := .active }))) ∧
  (∀ (s : State) (vf : Nat), vf < 16 → exec (.flrVf vf) s = .next (s.flr (vf + 1)) ∧
    ((∀ e ∈ s.queues, e.2.state = .off) → ∀ k c, tget? s.contexts k = some c → (∀ e ∈ s.contexts, e.1 = k → e.2 = c) →
      tget? (s.flr (vf + 1)).contexts k = some (if c.func = vf + 1 then { c with en := false, held := [] } else c))) ∧
  (∀ (s : State) (q : Nat), (s.queueAt q).resetOff = true → (s.queueAt q).recs = [] →
    ((s.queueAt q).state = .stopped ∨ (s.queueAt q).state = .faulted) →
    ∃ t, exec (.flrQueueDestroy q) s = .next t ∧ t.mem = s.mem ∧ (t.queueAt q).state = .off)

/-- RECORD_FETCH, RECORD_FETCH_COMPLETE, RECORD_START, WAIT_ADDRESS_POLL, RECORD_COMPLETION_ACTIONS and LAUNCH_APPEND complete: an active queue fetches
its next record and takes it where its check holds (R64, R67); a GRID whose conditions hold waits for the distributor and a NOP
completes (R68, R122); a wait word is compared (R69); the oldest complete record leaves the queue, counts and interrupts (R70); and
a LAUNCH is appended and answered (R412). -/
def Obligations.RecordsProceed : Prop :=
  (∀ (s : State) (q : Nat), (s.queueAt q).state = .active → (s.queueAt q).fetching = none → (s.queueAt q).qri ≠ (s.queueAt q).qwi →
    (s.queueAt q).recs.length < 16 → s.power.t3 = false →
    exec (.recordFetch q) s = .next (s.attempt none fun u => u.issueFetch q)) ∧
  (∀ (s : State) (q : Nat),
    let x := s.queueAt q
    let c := s.ctxAt x.ctx
    let v := s.atsAsk x.ctx x.nextAddr false
    (∀ pa, v.xlateNow x.ctx x.nextAddr false = .ok (.dev pa) → s.issueFetch q =
      (v.xlateTouch x.ctx x.nextAddr false).setQueue q { x with fetching := some ⟨(v.xlateTouch x.ctx x.nextAddr false).time, some (.dev pa)⟩ }) ∧
    (∀ a, v.xlateNow x.ctx x.nextAddr false = .ok (.host a) → s.issueFetch q = if v.tagsOut c.func then v.hold
      else (v.setQueue q { x with fetching := some ⟨v.time, some (.host a)⟩ }).hostAsk
        [{ func := c.func, owner := .fetch q, msg := .read c.func c.pasid a 64 }]) ∧
    (∀ e, v.xlateNow x.ctx x.nextAddr false = .error e → s.issueFetch q = v.setQueue q { x with fetching := some ⟨v.time, none⟩ })) ∧
  (∀ (s : State) (q : Nat), exec (.recordFetchComplete q) s = .next (s.attempt none fun u => u.finishFetch q)) ∧
  (∀ (s : State) (q pa since : Nat),
    let x := s.queueAt q
    let u := (s.setQueue q { x with fetching := none }).readNow pa 64
    x.fetching = some ⟨since, some (.dev pa)⟩ →
    (u.1.recordOk x.ctx u.2 = true → s.finishFetch q = u.1.setQueue q { u.1.queueAt q with
      qri := (u.1.queueAt q).qri + 1, recs := (u.1.queueAt q).recs ++ [{ index := (u.1.queueAt q).qri, bytes := u.2 }] }) ∧
    (u.1.recordOk x.ctx u.2 = false → x.state = .active → s.finishFetch q = u.1.queueFault q 2 (BitVec.ofNat 64 x.nextAddr))) ∧
  (∀ (s : State) (q since : Nat), (s.queueAt q).fetching = some ⟨since, none⟩ → (s.queueAt q).state = .active →
    s.finishFetch q = (s.setQueue q { s.queueAt q with fetching := none }).queueFault q 1 (BitVec.ofNat 64 (s.queueAt q).nextAddr)) ∧
  (∀ (s : State) (q i : Nat) (r : QRecord) (prev : Option QRecord), (s.queueAt q).nextRec = some (i, r, prev) → (s.queueAt q).state ≠ .off →
    s.ordOk (s.queueAt q) i r = true → s.dist.awaits q r.index.toNat = false → (s.queueAt q).predFailed r prev = false →
    (r.launch.waddr = 0 ∨ r.waitOk = true) →
    (r.launch.kind ≠ 0 → exec (.recordStart q) s = .next { s with dist := s.dist.await q r.index.toNat s.bclks }) ∧
    (r.launch.kind = 0 → ∃ t, exec (.recordStart q) s = .next t ∧ t.mem = s.mem ∧
      ∀ y ∈ (t.queueAt q).recs, y.index = r.index → y.started = true ∧ y.complete = true ∧ y.failed = false)) ∧
  (∀ (s : State) (q i : Nat) (r : QRecord) (prev : Option QRecord), (s.queueAt q).nextRec = some (i, r, prev) → r.polled = none →
    exec (.waitAddressPoll q) s = .next (s.attempt none fun u => u.poll q) ∧
    (∀ u bs, r.launch.waddr ≠ 0 → r.waitOk = false → s.ordOk (s.queueAt q) i r = true →
      s.unitRead (s.queueAt q).ctx r.launch.waddr 8 = (u, .ok bs) →
      s.poll q = u.setQueue q { u.queueAt q with recs := (u.queueAt q).recs.map fun y =>
        if y.index == r.index then { y with polled := some u.time, waitOk := decide (r.launch.wval ≤ leNat bs) } else y })) ∧
  (∀ (s : State) (q : Nat) (r : QRecord) (rest : List QRecord), (s.queueAt q).recs = r :: rest → r.complete = true →
    exec (.recordCompletionActions q) s = .next (s.attempt none fun u => u.complete q r rest)) ∧
  (∀ (s : State) (q : Nat) (r : QRecord) (rest : List QRecord), r.launch.sigw = false →
    let u := s.setQueue q ({ s.queueAt q with recs := rest, qdone := (s.queueAt q).qdone + 1, lastFailed := r.failed } : Queue).settle
    s.complete q r rest = if !r.failed && r.launch.irq then u.msix (s.queueAt q).ctx r.launch.msiv else u) ∧
  (∀ (s : State) (m : Nat) (x : Msg) (team q at' core slot entry : Nat), s.Has m x (.launch team q at' core slot entry) →
    exec (.launchAppend m) s = .next (s.attempt none fun u => u.launched m team q at' core slot entry x.sent)) ∧
  (∀ (s u : State) (m team q at' core slot entry sent st : Nat) (g : Group) (f : Frag) (d : Code),
    (s.teamAt team).state.over = false → (s.dropMsg m).append team q at' = (u, st) →
    u.frag? core slot entry = some (g, f) → f.wait = .status m d →
    s.launched m team q at' core slot entry sent = u.answer core slot entry d false st (max u.time (sent + fixedCycles 480))) ∧
  (∀ (s u : State) (team q at' : Nat),
    let x := s.queueAt q
    (x.state = .off ∨ x.ctx ≠ (s.teamAt team).ctx → s.append team q at' = (s, 2)) ∧
    (x.state ≠ .off → x.ctx = (s.teamAt team).ctx → (x.qwi + 1 - x.qri).toNat ≤ 2 ^ x.log2 →
      s.unitWrite x.ctx (x.qbase.toNat + 64 * (x.qwi.toNat % 2 ^ x.log2)) (cread (s.teamAt team).scratch at' 64) = (u, none) →
      s.append team q at' = (u.setQueue q { u.queueAt q with qwi := x.qwi + 1 }, 0)))

/-! ## Grids, budgets and placement -/

/-- GRID_START, GRID_READY, ACCOUNT_CHARGE, BUDGET_PERIOD_BOUNDARY, DSUSP_SET, DSUSP_CLEAR, PLACEMENT_DECISION and PLACEMENT_RESERVATION complete:
the record at the head takes the lowest free entry (R122), a grid whose pre entries are done joins the tail part of its level
(R122), an account at its limit is over until the period ends (R115, R117), contexts are suspended and go on (R140), the first
eligible unit with a site is placed, and the level that has waited 100 µs is reserved (R128). -/
def Obligations.GridsAndBudgetsProceed : Prop :=
  (∀ (s : State) (q index since entry : Nat) (rest : List (Nat × Nat × Nat)), s.dispatchHalted = false → s.stage = .full → s.unfunded q = none →
    s.dist.waiting = (q, index, since) :: rest → (s.queueAt q).beforeFailed index = false → tfree s.grids 2048 = some entry →
    exec (.gridStart q) s = .next (s.startGrid q index entry)) ∧
  (∀ (s : State) (q g : Nat), s.dispatchHalted = false → s.stage = .full → s.unfunded q = some g →
    (s.takeAccounts g (s.gridAt g).needs).isSome = true → exec (.gridStart q) s = .next (s.fundGrid g)) ∧
  (∀ (s : State) (k : Nat) (g : Grid), tget? s.grids k = some g → g.ready = false → g.failed = false → g.preLeft = [] → g.needs = [] → g.copies = [] →
    ∃ t, exec (.gridReady k) s = .next t ∧ t.mem = s.mem ∧ t.gridAt k = { g with ready := true } ∧
      t.dist.items = s.dist.items ++ [{ level := g.eff.prio, head := false, grid := k }]) ∧
  (∀ (s : State) (k : Nat) (a : Account), tget? s.accounts k = some a → a.period = periodAt s.time → a.isOver = false → a.limit ≤ a.count →
    (a.hard = false → exec (.accountCharge k) s = .next { s with accounts := tset s.accounts k { a with isOver := true } }) ∧
    (a.hard = true → ∃ t, exec (.accountCharge k) s = .next t ∧ tget? t.accounts k = some { a with isOver := true })) ∧
  (∀ s : State, s.dist.period < s.time / (10 * usec) →
    ∃ t, exec .budgetPeriodBoundary s = .next t ∧ t.dist.period = s.time / (10 * usec) ∧
      ∀ k a, tget? s.accounts k = some a → ∃ b, tget? t.accounts k = some b ∧ b.limit = a.limit ∧ b.period = s.time / (10 * usec) ∧
        (a.period ≠ s.time / (10 * usec) → b.count = 0 ∧ b.isOver = false)) ∧
  (∀ (s : State) (v : W64), s.bar0Open = true → (∃ t, exec (.dsuspSet v) s = .next t ∧ t.dist.dsusp = s.dist.dsusp ||| v) ∧
    (∃ t, exec (.dsuspClear v) s = .next t ∧ t.dist.dsusp = s.dist.dsusp &&& v)) ∧
  (∀ (s t : State) (lv : Option Nat), s.bclks % 4 = 0 → s.dispatchHalted = false → s.dist.decided ≠ some s.bclks →
    ({ s with dist := { s.dist with decided := some s.bclks } } : State).tryLevels true levels = (.placed t, lv) →
    exec .placementDecision s = .next t) ∧
  (∀ (s : State) (first : Bool) (n ptr : Nat) (i : Item) (rest : List (Nat × Item)) (site : List (Nat × Need)), s.dist.items.getD n i = i →
    s.ineligible i = false → (first = true → s.overSoft i.grid = false) → s.search (s.nextUnit i) = some (site, ptr) →
    s.tryItems first ((n, i) :: rest) = .placed { (s.placeUnit i site).itemPlaced n i with
      dist := { ((s.placeUnit i site).itemPlaced n i).dist with ptr := ptr } }) ∧
  (∀ (s : State) (lv : Nat), lv < 8 →
    (∃ i ∈ s.dist.items, i.level = lv ∧ s.ineligible i = false ∧ s.overSoft i.grid = false ∧ 100 * usec ≤ i.waited s.time) →
    (∀ i ∈ s.dist.items, lv < i.level → s.ineligible i = true ∨ s.overSoft i.grid = true ∨ i.waited s.time < 100 * usec) →
    exec .placementReservation s = .next { s with dist := { s.dist with reserved := some lv } })

/-! ## Slots, parking, pre-emption and the debugger -/

/-- GROUP_READY, REGISTER_RELEASE, SWITCH_MARKER_RELEASE, CHIPLET_ARRAY_UNCORRECTABLE, PREEMPTION, PREEMPTION_SPILL_DONE, DEBUG_HALT,
DEBUG_SNAPSHOT_DONE and DEBUG_RELEASE complete: a created group becomes ready (R133), an exited one's registers are released when
its results have returned (R134), a parked marker is released (R215), an array error ends the task (R250), a named team stops
at its boundaries and is saved, and each group gives up its slot as it is written (R256, R259), and a debugger halts a context and lets it go (R260).
PARK_ELIGIBLE, PLAZA_PARK_ARM, PARK_GO and PARK_SPILL_DONE complete: a team whose groups have waited PARKT cycles is eligible (R109);
its district takes park slots and is armed, or stays resident (R108, R136 step 2); a pending event cancels the park, and
otherwise the save begins (R136 steps 3 and 4); and once it is written the team is parked (R136 step 5). -/
def Obligations.SlotsAndParkingProceed : Prop :=
  (∀ (s : State) (core slot : Nat) (g : Group), s.group? core slot = some g → g.readyAt ≤ s.time → (s.cluster (core / 8)).ret = false → s.emptying core = false →
    exec (.groupReady core slot) s = .next (s.setGroup core slot { g with ready := true })) ∧
  (∀ (s : State) (core slot : Nat), ∃ t, exec (.registerRelease core slot) s = .next t ∧ t.mem = s.mem ∧ t.groups = s.groups ∧
    ∀ w, w ∈ t.withheld ↔ w ∈ s.withheld ∧ ¬ (w.core = core ∧ w.slot = slot ∧ s.awaits w = false)) ∧
  (∀ (s : State) (core slot : Nat) (g : Group), s.group? core slot = some g → g.parkedAt.isSome = true → g.outstanding s.time = 0 →
    ∃ t, exec (.switchMarkerRelease core slot) s = .next t ∧ t.mem = s.mem ∧ t.group? core slot = some { g with parkedAt := none } ∧
      ∀ k, k ≠ slotKey core slot → tget? t.groups k = tget? s.groups k) ∧
  (∀ (s : State) (core slot e : Nat) (g : Group) (f : Frag), s.group? core slot = some g → g.boundaryEntry = some (e, f) →
    exec (.chipletArrayUncorrectable core slot) s =
      .next ((s.tally core 13 1).errorTrap core slot g { cause := 0x23, flags := 8, pc := f.pc.toNat })) ∧
  (∀ (s : State) (team : Nat),
    let v := s.nameOver team
    let u := v.stopGroups team .preempt
    v.preemptDue (v.teamAt team) = true → v.noticeDue team = false →
    exec (.preemption team) s = .next (if u.allStopped team .preempt then (u.tally (v.teamAt team).core 15 1).beginSave team .preempting 1 else u)) ∧
  (∀ (s : State) (t : Team), s.preemptDue t = true ↔ (t.state = .resident ∨ t.state = .parkEligible) ∧
    ((∃ c ∈ t.causes, s.causeStands c = true) ∨ s.overHard t.grid = true) ∧ (s.ctxAt t.ctx).halt = false) ∧
  (∀ (s : State) (team : Nat), (s.teamAt team).state = .preempting → s.time < (s.teamAt team).spillUntil →
    exec (.preemptionSpillDone team) s = .next (s.leaveWritten team)) ∧
  (∀ (s : State) (team : Nat), (s.teamAt team).state = .preempting → (s.teamAt team).spillUntil ≤ s.time → s.scratchBusy team = false →
    let u := (s.saveTeam team 1).leaveCore team
    exec (.preemptionSpillDone team) s = .next (u.setTeam team { u.teamAt team with state := .preempted, home := some (s.teamAt team).core }).readmitPreempted) ∧
  (∀ (s : State) (func ctx : Nat) (v : W32), s.bar0Open = true → s.mayTouch func ctx = true → v.getLsbD 0 = true →
    exec (.debugHalt func ctx v) s = .next (s.setCtx ctx { s.ctxAt ctx with halt := true })) ∧
  (∀ (s : State) (ctx : Nat), (s.ctxAt ctx).halt = true → (s.ctxAt ctx).halted = false →
    let u := (s.residentOf ctx).foldl (fun (x : State) k => x.stopGroups k .halt) s
    let mine := (s.residentOf ctx).filter fun k => u.groups.any fun e => e.2.team == k && e.2.stop == .halt
    (∀ e ∈ u.groups, (u.teamAt e.2.team).ctx = ctx → e.2.stop ≠ .none) → (∀ k ∈ mine, u.scratchBusy k = false) →
    ∃ v : State, exec (.debugSnapshotDone ctx) s = .next (v.setCtx ctx { s.ctxAt ctx with halted := true }) ∧
      v = mine.foldl (fun (x : State) k => (x.saveTeam k 2).setTeam k { x.teamAt k with snap := true }) u.spillAll) ∧
  (∀ (s : State) (func ctx : Nat) (v : W32), s.bar0Open = true → s.mayTouch func ctx = true → v.getLsbD 0 = false → (s.ctxAt ctx).halt = true →
    let u := s.setCtx ctx { s.ctxAt ctx with halt := false, halted := false }
    (u.residentOf ctx = [] → exec (.debugRelease func ctx v) s = .next u) ∧
    (∀ k, u.residentOf ctx = [k] → (u.teamAt k).snap = false → (u.teamAt k).causes = [] →
      exec (.debugRelease func ctx v) s = .next (u.goOnTeam k .halt)) ∧
    (∀ k, u.residentOf ctx = [k] → (u.teamAt k).snap = true → ((u.loadSnapshot k).teamAt k).causes = [] →
      exec (.debugRelease func ctx v) s = .next ((u.loadSnapshot k).goOnTeam k .halt))) ∧
  (∀ (s : State) (team : Nat), (s.teamAt team).state = .resident → (s.gridAt (s.teamAt team).grid).eff.parkt ≠ 0 → s.groupsByGix team ≠ [] →
    (∀ e ∈ s.groupsByGix team, e.2.stop = .none ∧ ∃ since, e.2.parkSince = some since ∧
      since + (s.gridAt (s.teamAt team).grid).eff.parkt * s.cyc (s.teamAt team).core ≤ s.time) →
    exec (.parkEligible team) s = .next (s.setTeam team { s.teamAt team with state := .parkEligible })) ∧
  (∀ (s : State) (team : Nat), s.parkUnit team ≠ [] → (∀ k ∈ s.parkUnit team, (s.teamAt k).state = .parkEligible) →
    (∀ u, (s.parkUnit team).foldlM (fun (x : State) k => x.takeSlot k) s = some u →
      exec (.plazaParkArm team) s = .next ((s.parkUnit team).foldl (fun (x : State) k => x.armTeam k .parkArmed) u)) ∧
    ((s.parkUnit team).foldlM (fun (x : State) k => x.takeSlot k) s = none →
      exec (.plazaParkArm team) s = .next ((s.parkUnit team).foldl (fun (x : State) k => x.setTeam k { x.teamAt k with state := .resident }) s))) ∧
  (∀ (s : State) (team i : Nat), (s.teamAt team).slot = none → i < (s.gridAt (s.teamAt team).grid).eff.pslots →
    i ∉ tgetD s.parkAreas (s.parkKey (s.teamAt team)) [] → (∀ j, j < i → j ∈ tgetD s.parkAreas (s.parkKey (s.teamAt team)) []) →
    i ≤ (tgetD s.parkAreas (s.parkKey (s.teamAt team)) []).length →
    ∃ u, s.takeSlot team = some u ∧ (u.teamAt team).slot = some i ∧
      tgetD u.parkAreas (s.parkKey (s.teamAt team)) [] = tgetD s.parkAreas (s.parkKey (s.teamAt team)) [] ++ [i]) ∧
  (∀ (s : State) (team : Nat), s.parkUnit team ≠ [] → (∀ k ∈ s.parkUnit team, (s.teamAt k).state = .parkArmed) →
    exec (.parkGo team) s = .next (if (s.parkUnit team).any s.parkCancels then (s.parkUnit team).foldl (fun (x : State) k => x.cancelPark k) s
      else (s.parkUnit team).foldl (fun (x : State) k => (x.mapTeam k fun g => (g.settle x.time).stopFor .park).beginSave k .parkSpilling 0) s)) ∧
  (∀ (s : State) (team : Nat), (s.teamAt team).state = .parkSpilling → (s.teamAt team).spillUntil ≤ s.time → s.scratchBusy team = false →
    let u := (((s.saveTeam team 0).leaveCore team).freeTiles team).freeReservation team
    exec (.parkSpillDone team) s = .next ((u.setTeam team { u.teamAt team with state := .parked, home := none }).wakeParked team))

/-! ## Elevators, the Avenue and the pin table -/

/-- CHIPLET_FENCE_NOTICE, ELEVATOR_PACKET, ELEVATOR_RETIRE_COMPLETE, CUT_OFF_CHIPLET_RESET, AVENUE_TOKEN_GRANT, PIN_TABLE_WRITE and PIN_MOVE_DONE
complete: a team of a grid that lost a team takes the notice (R248), a packet crosses its port and its faults are counted (R17,
R150), a failed port carries what stands on it, holds the new packets of those flows and is retired when it is empty (R151), a cut-off cluster's chiplet is reset (R17), a station's grant takes up to
1,024 bytes in order (R147), and a pin entry is written and its lines move (R154, R155). -/
def Obligations.FabricProceeds : Prop :=
  (∀ (s : State) (team k : Nat) (x : Group), team ∈ (s.gridAt (s.teamAt team).grid).notices →
    ((s.teamAt team).state = .resident ∨ (s.teamAt team).state = .parkEligible) →
    s.teamGroups team = [k] → tget? s.groups k = some x → x.atBoundary s.time = true →
    exec (.chipletFenceNotice team) s = .next ((s.setGrid (s.teamAt team).grid { s.gridAt (s.teamAt team).grid with
      notices := (s.gridAt (s.teamAt team).grid).notices.filter fun j => j != team }).boundaryTrap (k / 128) (k % 128) 0x22)) ∧
  (∀ (s : State) (team : Nat), (s.teamAt team).state.over = false → (s.teamAt team).state ≠ .committing → (s.teamAt team).state ≠ .resident →
    (s.teamAt team).state ≠ .parkEligible → exec (.chipletFenceNotice team) s = .next s) ∧
  (∀ (s : State) (m : Nat) (x : Msg),
    let v := s.numberPacket m
    let port := s.portOf x
    tget? s.msgs m = some x → s.atPort x = true → s.flowBlocked m x = false → s.flowHeld x = false →
    (x.toSlice = true → x.avenue = false → s.meshRoom port x.kind.meshClass = true) →
    exec (.elevatorPacket m .clean) s = .next (v.crossPort m port) ∧
    exec (.elevatorPacket m .correctable) s = .next ((v.crossPort m port).correctable port) ∧
    exec (.elevatorPacket m .uncorrectable) s = .next (State.failElevator (if (tget? v.power.drains port).isNone then v
      else { v with power := { v.power with drains := tdel v.power.drains port
                                            reissues := tset v.power.reissues port (tgetD v.power.drains port []) } }) port false)) ∧
  (∀ (s : State) (m : Nat) (x : Msg) (check : PortCheck), tget? s.msgs m = some x → s.flowHeld x = true →
    exec (.elevatorPacket m check) s = .next s) ∧
  (∀ (s : State) (x : Msg), (s.elevatorState x.port = 0 → s.portOf x = x.port) ∧
    (∀ l, tget? s.power.drains x.port = some l → x.flow ∈ l → s.portOf x = x.port)) ∧
  (∀ (s : State) (m port : Nat) (x : Msg), tget? s.msgs m = some x → (∀ acc l n, x.kind ≠ .data acc l n) → (∀ acc, x.kind ≠ .stx acc) →
    (s.accepted x = true → s.crossPort m port = s.dropMsg m) ∧
    (s.accepted x = false → tget? (s.crossPort m port).msgs m = some { x with
      stage := if x.toSlice = true then (if x.avenue = true then .fifo else .mesh port 5 s.nextEdge) else .arrived, came := s.time })) ∧
  (∀ (s : State) (p : Nat), s.elevatorState p = 1 → (∀ e ∈ s.msgs, e.2.port = p → e.2.stage ≠ .port) →
    ∃ t, exec (.elevatorRetireComplete p) s = .next t ∧ t.mem = s.mem ∧ t.elevatorState p = 2 ∧ ∀ k, k ≠ p → t.elevatorState k = s.elevatorState k) ∧
  (∀ (s : State) (n i : Nat) (check : ChipletCheck), i < 6 → s.power.cutOff.getLsbD (6 * n + i) = true → s.power.baseUp = true →
    s.chipletBusy n = false → s.power.fenced.getLsbD n = false → exec (.cutOffChipletReset ⟨n, check⟩) s = .next (s.rejoin n check)) ∧
  (∀ (s : State) (up : Bool) (channel station due : Nat), s.power.avenueLit = true → s.tokenTurn up channel = some (station, due) → due ≤ s.time →
    let take := s.grantTake (s.fifoOf up channel station) 1024
    ∃ t, exec (.avenueTokenGrant up channel station) s = .next t ∧ t.mem = s.mem ∧
      tget? t.avenue (channelNo up channel) = some ((station + 1) % stationsOf up, s.time + s.carryTime up take.2) ∧
      ∀ k x, tget? s.msgs k = some x → tget? t.msgs k =
        some (if k ∈ take.1 then { x with stage := if up then .arrived else .port, came := s.time } else x)) ∧
  (∀ (s : State) (k : Nat) (v : W64), s.bar0Open = true → k < 64 → s.grids = [] → s.pinBusy = false →
    (∃ t, exec (.pinTableWrite (0x520000 + 16 * k) 8 v) s = .next t ∧ t.mem = s.mem ∧ t.pinBusy = true ∧
      tget? t.pins k = some { tgetD s.pins k {} with v := v.toNat.testBit 63, chip := fld v.toNat 58 56, base := fld v.toNat 49 12 }) ∧
    (∃ t, exec (.pinTableWrite (0x520008 + 16 * k) 8 v) s = .next t ∧ t.mem = s.mem ∧ t.pinBusy = true ∧
      tget? t.pins k = some { tgetD s.pins k {} with limit := fld v.toNat 49 12 })) ∧
  (∀ s : State, s.pinBusy = true → ∃ t, exec .pinMoveDone s = .next t ∧ t.mem = s.mem ∧ t.pinBusy = false ∧ t.pinMove = [] ∧
    (∀ n sl, tget? t.slices n = some sl → ∀ e ∈ sl.sectors, s.moving e.1 = false) ∧
    ∀ n c, tget? t.cores n = some c → ∀ x ∈ c.l1, s.moving x.line = false)

/-! ## The checkpoint -/

/-- CKCTL_GO, CKCTL_ABORT, CKCTL_RESTORE, CHECKPOINT_QUIESCE_DONE, CHECKPOINT_STREAM_DONE and RESTORE_DONE complete: a checkpoint that is at rest
enters Quiesce, names every team and ends boost requests; its saved versions are committed and its image is written; its pages
are streamed; it ends OK or FAILED in Done; and a restore loads an image whose header is right (R44 to R47). -/
def Obligations.CheckpointsProceed : Prop :=
  (∀ (s : State) (v : W32), s.bar0Open = true → v.getLsbD 31 = true → v.getLsbD 30 = false → v.getLsbD 29 = false → v.getLsbD 10 = false →
    (s.peer.ck.state = .idle ∨ s.peer.ck.state = .done) →
    exec (.ckctlGo v) s = .next s.startCheckpoint ∧ s.startCheckpoint.peer.ck.state = .quiesce ∧ s.startCheckpoint.peer.ck.result = 0 ∧
      ∀ k g, tget? s.startCheckpoint.groups k = some g → g.boost = false) ∧
  (∀ (s : State) (v : W32), s.bar0Open = true → v.getLsbD 31 = false → v.getLsbD 30 = true → v.getLsbD 29 = false → v.getLsbD 10 = false →
    (s.peer.ck.state = .quiesce ∨ s.peer.ck.state = .stream) → exec (.ckctlAbort v) s = .next (s.ckFinish false)) ∧
  (∀ (s : State) (ok : Bool), (s.ckFinish ok).peer.ck.state = .done ∧ (s.ckFinish ok).peer.ck.result = (if ok then 1 else 2)) ∧
  (∀ (s : State) (v : W32), s.bar0Open = true → v.getLsbD 31 = false → v.getLsbD 30 = false → v.getLsbD 29 = true → v.getLsbD 10 = false →
    (s.peer.ck.state = .idle ∨ s.peer.ck.state = .done) → s.residentCtxs = [] → s.grids = [] →
    exec (.ckctlRestore v) s = .next (s.setCk { s.peer.ck with state := .restore })) ∧
  (∀ s : State, s.peer.ck.state = .quiesce → s.quiescing = false →
    (s.peer.ck.committing = false → ∃ t, exec .checkpointQuiesceDone s = .next t ∧ t.mem = s.mem ∧ t.peer.ck.committing = true) ∧
    (s.peer.ck.committing = true → s.commitsOpen = false →
      let u := s.spillAll.patchSaves
      let w := u.writeNow (fld s.peer.ck.image.toNat 49 16 * 65536) u.imageBytes
      exec .checkpointQuiesceDone s =
        .next ((w.ckList s.peer.ck.list.toNat (memTop / 32)).elim (w.ckFinish false) fun p => p.1.startStream p.2))) ∧
  (∀ s : State, s.peer.ck.state = .stream → s.peer.ck.pages = 0 →
    (∀ e ∈ s.ops, ∀ src dst len dev port, e.2.kind = .page src dst len dev port → len ≤ e.2.units) →
    exec .checkpointStreamDone s = .next (s.ckFinish true)) ∧
  (∀ s : State, s.peer.ck.state = .restore →
    let base := fld s.peer.ck.image.toNat 49 16 * 65536
    let h := (s.readNow base 4096).2
    let u := (s.readNow base 4096).1
    (bytesAt h 0 2 ≠ 1 ∨ 32 * 2 ^ 20 < bytesAt h 16 8 → exec .restoreDone s = .next (u.ckFinish false)) ∧
    (bytesAt h 0 2 = 1 → bytesAt h 16 8 ≤ 32 * 2 ^ 20 →
      exec .restoreDone s = .next ((((u.readNow base (bytesAt h 16 8)).1.uncarried.loadImage
        (u.readNow base (bytesAt h 16 8)).2).readmitSaved.ckFinish true))))

/-! ## Reset -/

/-- The registers of BAR0 hold after module reset the values that the Reset columns of their maps give: PWGT holds 4 for each
class (R34), CXRQS.LOG2 is 6 (R54), QCFG.LOG2 is 4 (R61), PRITO is 1,000 (R73), BGOV is enabled with both caps at 24 (R94),
a node routing entry prefers port s mod 2 with the other as its alternate (R149), and the others are 0. -/
def Obligations.ResetRegisterValues : Prop :=
  (∀ c k, c < 64 → k < 10 → State.reset.regValue (.cx c k) = if k = 6 then 6 else 0) ∧
  (∀ q k, q < 4096 → k < 7 → State.reset.regValue (.queue q k) = if k = 3 then 4 else 0) ∧
  (∀ n, n < 12 → State.reset.regValue (.pwgt n) = 0x4444 ∧ State.reset.regValue (.pctl n) = 0 ∧ State.reset.regValue (.pstat n) = 0) ∧
  (∀ c s, c < 48 → s < 96 → ∀ up, up < 2 → State.reset.regValue (.route c up s) = 4 + 2 * (1 - s % 2) + s % 2) ∧
  (∀ t half, t < 256 → half < 2 → State.reset.regValue (.tag t half) = 0) ∧
  (∀ k, k < 64 → State.reset.regValue (.pinb k) = 0 ∧ State.reset.regValue (.pinl k) = 0 ∧ State.reset.regValue (.iwbase k) = 0 ∧
    State.reset.regValue (.iwlim k) = 0 ∧ State.reset.regValue (.iwsrc k) = 0 ∧ State.reset.regValue (.iwperm k) = 0) ∧
  (∀ sl e, sl < 96 → e < 64 → State.reset.regValue (.badLine sl e) = 0 ∧ State.reset.regValue (.bltstat sl) = 0) ∧
  (∀ i, i < 194 → State.reset.regValue (.sensor i) = 0) ∧ (∀ p, p < 96 → State.reset.regValue (.epstat p) = 0) ∧
  (∀ b k, b < 504 → k < 8 → State.reset.regValue (.select b k) = 0) ∧
  State.reset.regValue .bgov = 24 * 2 ^ 24 + 2 ^ 6 + 24 ∧ State.reset.regValue .prito = 1000 ∧
  (∀ r ∈ [Reg.bar4off, .dptr, .dsusp, .pinstat, .pdevid, .ckctl, .cklist, .ckstate, .cap0, .cap1, .bootst, .therm],
    State.reset.regValue r = 0)
end

