-- ==== Sys2Proof/Laws/Table.lean ====
section
/-! SUPPORT. Laws of the sparse tables, the cell lists and the lane masks: what is read after a write, and that every
operation over memory keeps its canonical form. -/
namespace Sys2Proof.Machine

/-! ## Tables -/

@[simp] theorem tget?_nil {α : Type} (k : Nat) : tget? ([] : Tbl α) k = none := rfl

@[simp] theorem tget?_tset_self {α : Type} (t : Tbl α) (k : Nat) (x : α) : tget? (tset t k x) k = some x := by
  induction t with
  | nil => simp [tset, tget?]
  | cons p r ih =>
    obtain ⟨j, y⟩ := p
    simp only [tset]
    split
    · simp [tget?]
    · split
      · simp [tget?]
      · rename_i h _
        simp [tget?, h, ih]

theorem tget?_tset_of_ne {α : Type} (t : Tbl α) {k j : Nat} (x : α) (h : j ≠ k) : tget? (tset t k x) j = tget? t j := by
  have hk : (k == j) = false := by simp; omega
  induction t with
  | nil => simp [tset, tget?, hk]
  | cons p r ih =>
    obtain ⟨i, y⟩ := p
    simp only [tset]
    split
    · rename_i hi
      have : i = k := by simpa using hi
      subst this
      simp [tget?, hk]
    · split
      · simp [tget?, hk]
      · simp [tget?, ih]

@[simp] theorem tgetD_tset_self {α : Type} (t : Tbl α) (k : Nat) (x d : α) : tgetD (tset t k x) k d = x := by
  simp [tgetD]

theorem tgetD_tset_of_ne {α : Type} (t : Tbl α) {k j : Nat} (x d : α) (h : j ≠ k) :
    tgetD (tset t k x) j d = tgetD t j d := by
  simp [tgetD, tget?_tset_of_ne t x h]

theorem tget?_tdel_self {α : Type} (t : Tbl α) (k : Nat) : tget? (tdel t k) k = none := by
  induction t with
  | nil => rfl
  | cons p r ih =>
    obtain ⟨j, y⟩ := p
    by_cases h : j = k
    · subst h; simpa [tdel] using ih
    · have : tdel ((j, y) :: r) k = (j, y) :: tdel r k := by simp [tdel, h]
      rw [this]; simp [tget?, h, ih]

theorem tget?_tdel_of_ne {α : Type} (t : Tbl α) {k j : Nat} (h : j ≠ k) : tget? (tdel t k) j = tget? t j := by
  induction t with
  | nil => rfl
  | cons p r ih =>
    obtain ⟨i, y⟩ := p
    by_cases hi : i = k
    · subst hi
      have : tdel ((i, y) :: r) i = tdel r i := by simp [tdel]
      rw [this, ih]
      have hij : (i == j) = false := by simp; omega
      simp [tget?, hij]
    · have : tdel ((i, y) :: r) k = (i, y) :: tdel r k := by simp [tdel, hi]
      rw [this]; simp [tget?, ih]

theorem tget?_tmod_of_ne {α : Type} (t : Tbl α) {k j : Nat} (f : α → α) (h : j ≠ k) : tget? (tmod t k f) j = tget? t j := by
  unfold tmod
  split
  · exact tget?_tset_of_ne t _ h
  · rfl

theorem tget?_tmod_self {α : Type} (t : Tbl α) (k : Nat) (f : α → α) : tget? (tmod t k f) k = (tget? t k).map f := by
  unfold tmod
  split
  · rename_i x hx; simp [hx]
  · rename_i hx; simp [hx]

/-! ## Cell lists -/

/-- Whether every address of a cell list is above a bound. -/
def Cells.above (m : List Host.Cell) (a : Nat) : Prop := ∀ c ∈ m, a < c.1

theorem wf_cons (a : Nat) (b : Byte) (r : List Host.Cell) :
    Memory.wf ((a, b) :: r) = true ↔ b ≠ 0 ∧ Cells.above r a ∧ Memory.wf r = true := by
  induction r generalizing a b with
  | nil => simp [Memory.wf, Cells.above]
  | cons p q ih =>
    obtain ⟨a', b'⟩ := p
    simp only [Memory.wf, Bool.and_eq_true, bne_iff_ne, ne_eq, decide_eq_true_eq]
    constructor
    · rintro ⟨⟨hb, hlt⟩, hw⟩
      refine ⟨hb, ?_, hw⟩
      intro c hc
      rcases List.mem_cons.mp hc with rfl | hc
      · exact hlt
      · exact lt_trans hlt (((ih a' b').mp hw).2.1 c hc)
    · rintro ⟨hb, ha, hw⟩
      exact ⟨⟨hb, ha (a', b') (List.mem_cons_self ..)⟩, hw⟩

theorem cget_of_above (m : List Host.Cell) (a : Nat) (h : Cells.above m a) : cget m a = 0 := by
  cases m with
  | nil => rfl
  | cons p r =>
    obtain ⟨j, b⟩ := p
    have hj : a < j := h (j, b) (List.mem_cons_self ..)
    have hne : (j == a) = false := by simp; omega
    simp [cget, hne, hj]

theorem above_cset (m : List Host.Cell) (a x : Nat) (b : Byte) (h : Cells.above m x) (hx : x < a) :
    Cells.above (cset m a b) x := by
  induction m with
  | nil =>
    unfold cset
    split
    · exact h
    · intro c hc; simp at hc; subst hc; exact hx
  | cons p r ih =>
    obtain ⟨j, y⟩ := p
    have hr : Cells.above r x := fun c hc => h c (List.mem_cons_of_mem _ hc)
    have hj : x < j := h (j, y) (List.mem_cons_self ..)
    unfold cset
    split
    · split
      · exact hr
      · intro c hc
        rcases List.mem_cons.mp hc with rfl | hc
        · exact hx
        · exact hr c hc
    · split
      · split
        · exact h
        · intro c hc
          rcases List.mem_cons.mp hc with rfl | hc
          · exact hx
          · exact h c hc
      · intro c hc
        rcases List.mem_cons.mp hc with rfl | hc
        · exact hj
        · exact ih hr c hc

/-- A byte write keeps the canonical form. -/
theorem cset_wf (m : List Host.Cell) (a : Nat) (b : Byte) (h : Memory.wf m = true) : Memory.wf (cset m a b) = true := by
  induction m with
  | nil =>
    unfold cset
    split
    · rfl
    · rename_i hb; simpa [Memory.wf] using hb
  | cons p r ih =>
    obtain ⟨j, y⟩ := p
    obtain ⟨hy, habove, hr⟩ := (wf_cons j y r).mp h
    unfold cset
    split
    · rename_i hj
      have hj : j = a := by simpa using hj
      subst hj
      split
      · exact hr
      · rename_i hb; exact (wf_cons j b r).mpr ⟨by simpa using hb, habove, hr⟩
    · rename_i hj
      have hj : j ≠ a := by simpa using hj
      split
      · rename_i hlt
        split
        · exact h
        · rename_i hb
          refine (wf_cons a b _).mpr ⟨by simpa using hb, ?_, h⟩
          intro c hc
          rcases List.mem_cons.mp hc with rfl | hc
          · exact hlt
          · exact lt_trans hlt (habove c hc)
      · rename_i hlt
        exact (wf_cons j y _).mpr ⟨hy, above_cset r a j b habove (by omega), ih hr⟩

/-- The byte written is the byte read. -/
theorem cget_cset_self (m : List Host.Cell) (a : Nat) (b : Byte) (h : Memory.wf m = true) : cget (cset m a b) a = b := by
  induction m with
  | nil =>
    unfold cset
    split
    · rename_i hb; have : b = 0 := by simpa using hb
      subst this; rfl
    · simp [cget]
  | cons p r ih =>
    obtain ⟨j, y⟩ := p
    obtain ⟨hy, habove, hr⟩ := (wf_cons j y r).mp h
    unfold cset
    split
    · rename_i hj
      have hj : j = a := by simpa using hj
      subst hj
      split
      · rename_i hb; have : b = 0 := by simpa using hb
        subst this; exact cget_of_above r j habove
      · simp [cget]
    · rename_i hj
      split
      · rename_i hlt
        split
        · rename_i hb; have : b = 0 := by simpa using hb
          subst this; simp [cget, hj, hlt]
        · simp [cget]
      · rename_i hlt
        simp [cget, hj, hlt, ih hr]

/-- A byte write leaves every other address alone. -/
theorem cget_cset_of_ne (m : List Host.Cell) {a x : Nat} (b : Byte) (h : Memory.wf m = true) (hx : x ≠ a) :
    cget (cset m a b) x = cget m x := by
  induction m with
  | nil =>
    unfold cset
    split
    · rfl
    · have : (a == x) = false := by simp; omega
      simp [cget, this]
  | cons p r ih =>
    obtain ⟨j, y⟩ := p
    obtain ⟨hy, habove, hr⟩ := (wf_cons j y r).mp h
    have hax : (a == x) = false := by simp; omega
    have hcons : ∀ c : Byte, cget ((a, c) :: r) x = if x < a then 0 else cget r x := by
      intro c; simp [cget, hax]
    unfold cset
    split
    · rename_i hj
      have hj : j = a := by simpa using hj
      subst hj
      have hold : cget ((j, y) :: r) x = if x < j then 0 else cget r x := by simp [cget, hax]
      have hlow : x < j → cget r x = 0 := fun hlt =>
        cget_of_above r x fun c hc => lt_trans hlt (habove c hc)
      split
      · rw [hold]; split
        · rename_i hlt; exact hlow hlt
        · rfl
      · rw [hold, hcons]
    · rename_i hj
      split
      · rename_i hlt
        split
        · rfl
        · simp only [cget, hax]
          by_cases hxa : x < a
          · have hjx : (j == x) = false := by simp; omega
            have : x < j := by omega
            simp [hxa, hjx, this]
          · simp [hxa]
      · rename_i hlt
        simp [cget, ih hr]

theorem foldl_cset_wf (bs : List (Byte × Nat)) (a : Nat) (m : List Host.Cell) (h : Memory.wf m = true) :
    Memory.wf (bs.foldl (fun m (p : Byte × Nat) => cset m (a + p.2) p.1) m) = true := by
  induction bs generalizing m with
  | nil => exact h
  | cons p r ih => exact ih _ (cset_wf m _ _ h)

/-- A write of bytes keeps the canonical form. -/
theorem cwrite_wf (m : List Host.Cell) (a : Nat) (bs : List Byte) (h : Memory.wf m = true) :
    Memory.wf (cwrite m a bs) = true := foldl_cset_wf _ a m h

theorem foldl_cget_of_out (bs : List (Byte × Nat)) (a x : Nat) (m : List Host.Cell) (h : Memory.wf m = true)
    (hx : ∀ p ∈ bs, a + p.2 ≠ x) :
    cget (bs.foldl (fun m (p : Byte × Nat) => cset m (a + p.2) p.1) m) x = cget m x := by
  induction bs generalizing m with
  | nil => rfl
  | cons p r ih =>
    rw [List.foldl_cons, ih _ (cset_wf m _ _ h) fun q hq => hx q (List.mem_cons_of_mem _ hq)]
    exact cget_cset_of_ne m _ h fun e => hx p (List.mem_cons_self ..) e.symm

/-- A write of bytes leaves every address outside it alone. -/
theorem cget_cwrite_outside (m : List Host.Cell) (a : Nat) (bs : List Byte) (x : Nat) (h : Memory.wf m = true)
    (hx : x < a ∨ a + bs.length ≤ x) : cget (cwrite m a bs) x = cget m x := by
  apply foldl_cget_of_out _ a x m h
  rintro ⟨b, i⟩ hp
  have : i < bs.length := by
    have := List.mem_zipIdx hp
    omega
  dsimp
  omega

/-! ## Masks -/

theorem sum_pow_lt (p : Nat → Bool) (n : Nat) :
    (List.range n).foldl (fun a l => if p l then a + 2 ^ l else a) 0 < 2 ^ n := by
  induction n with
  | zero => simp
  | succ n ih =>
    rw [List.range_succ, List.foldl_append, pow_succ]
    simp only [List.foldl_cons, List.foldl_nil]
    split <;> omega

theorem sum_pow_testBit (p : Nat → Bool) (n l : Nat) (hl : l < n) :
    ((List.range n).foldl (fun a l => if p l then a + 2 ^ l else a) 0).testBit l = p l := by
  induction n with
  | zero => omega
  | succ n ih =>
    rw [List.range_succ, List.foldl_append]
    simp only [List.foldl_cons, List.foldl_nil]
    have hlt := sum_pow_lt p n
    rcases Nat.lt_succ_iff_lt_or_eq.mp hl with h | rfl
    · split
      · rw [Nat.add_comm, Nat.testBit_two_pow_add_gt h, ih h]
      · exact ih h
    · split
      · rename_i hp
        rw [Nat.add_comm, Nat.testBit_two_pow_add_eq, Nat.testBit_lt_two_pow hlt, hp]; rfl
      · rename_i hp
        rw [Nat.testBit_lt_two_pow hlt]; simpa using hp

/-- A lane is in the mask of a test exactly when it passes. -/
@[simp] theorem inMask_maskOf (p : Nat → Bool) (l : Nat) (hl : l < 64) : inMask (maskOf p) l = p l := by
  unfold inMask maskOf
  rw [BitVec.getLsbD_ofNat, sum_pow_testBit p 64 l hl]
  simp [hl]

theorem inMask_full (l : Nat) (hl : l < 64) : inMask fullMask l = true := by
  unfold inMask fullMask
  rw [BitVec.getLsbD_allOnes]
  exact decide_eq_true hl

theorem inMask_lt (m : W64) (l : Nat) (h : inMask m l = true) : l < 64 := BitVec.lt_of_getLsbD h

end Sys2Proof.Machine
end

