-- ==== Sys2Proof/Laws/Ops.lean ====
section
/-! SUPPORT. What the shared operations of issue do. -/
namespace Sys2Proof.Machine

/-! ## The course of an instruction -/

section Course
variable {op : Nat} {o : Operands} {tm : Ctx → Timing} {s s' : State} {c : Ctx} {t : Trap} {g : Group} {uni : Bool}

/-- An instruction that changes only its group, as its fragment issues it: its body decides. -/
theorem runGroup_eq {body : Ctx → Except Trap (Group × Bool)} (h : Issues op o tm s c) :
    runGroup op o tm s body = match body c with
      | .error t => .next (s.takeTrap c t)
      | .ok (g, uni) => .next { (s.afterIssue c o (c.beats uni) g) with uni := uni } := by
  obtain ⟨c0, h0, rfl, h1, h2⟩ := h
  unfold runGroup
  rw [h0]
  dsimp only at h1 h2 ⊢
  rw [h1, h2]
  rfl

/-- An instruction that acts beyond its group, as its fragment issues it: its body decides. -/
theorem runState_eq {body : Ctx → Except Trap Done} (h : Issues op o tm s c) :
    runState op o tm s body = match body c with
      | .error t => .next (s.takeTrap c t)
      | .ok (.stall s') => .next s'
      | .ok (.issued s' g uni) => .next { (s'.afterIssue c o (c.beats uni) g) with uni := uni } := by
  obtain ⟨c0, h0, rfl, h1, h2⟩ := h
  unfold runState
  rw [h0]
  dsimp only at h1 h2 ⊢
  rw [h1, h2]
  rfl

theorem runGroup_ok {body : Ctx → Except Trap (Group × Bool)} (h : Issues op o tm s c) (hb : body c = .ok (g, uni)) :
    runGroup op o tm s body = .next { (s.afterIssue c o (c.beats uni) g) with uni := uni } := by rw [runGroup_eq h, hb]

/-- A trap of an instruction's body is taken, with none of its effects (R252). -/
theorem runGroup_trap {body : Ctx → Except Trap (Group × Bool)} (h : Issues op o tm s c) (hb : body c = .error t) :
    runGroup op o tm s body = .next (s.takeTrap c t) := by rw [runGroup_eq h, hb]

theorem runAlu_ok {body : Ctx → Except Trap Effect} {e : Effect} (h : Issues op o tm s c) (hb : body c = .ok e) :
    runAlu op o tm s body =
      .next { (s.afterIssue c o (c.beats e.uniform) (c.advance op o (e.apply c o.q c.g))) with uni := e.uniform } :=
  runGroup_ok h (by simp [hb])

theorem runAlu_trap {body : Ctx → Except Trap Effect} (h : Issues op o tm s c) (hb : body c = .error t) :
    runAlu op o tm s body = .next (s.takeTrap c t) := runGroup_trap h (by simp [hb])

theorem runState_issued {body : Ctx → Except Trap Done} (h : Issues op o tm s c) (hb : body c = .ok (.issued s' g uni)) :
    runState op o tm s body = .next { (s'.afterIssue c o (c.beats uni) g) with uni := uni } := by rw [runState_eq h, hb]

theorem runState_stall {body : Ctx → Except Trap Done} (h : Issues op o tm s c) (hb : body c = .ok (.stall s')) :
    runState op o tm s body = .next s' := by rw [runState_eq h, hb]

theorem runState_trap {body : Ctx → Except Trap Done} (h : Issues op o tm s c) (hb : body c = .error t) :
    runState op o tm s body = .next (s.takeTrap c t) := by rw [runState_eq h, hb]

end Course

/-! ## What issue changes beside the group -/

theorem tally_frame (s : State) (b x n : Nat) : { s.tally b x n with counters := s.counters } = s := by
  unfold State.tally
  split <;> rfl

theorem tally_eq (s : State) (b x n : Nat) : ∃ k, s.tally b x n = { s with counters := k } := by
  unfold State.tally
  split
  · exact ⟨s.counters, rfl⟩
  · exact ⟨_, rfl⟩

theorem foldl_accounts {α : Type} (f : State → α → State) (hf : ∀ s a, ∃ k, f s a = { s with accounts := k }) (l : List α)
    (s : State) : ∃ k, l.foldl f s = { s with accounts := k } := by
  induction l generalizing s with
  | nil => exact ⟨s.accounts, rfl⟩
  | cons a r ih =>
    obtain ⟨k, hk⟩ := hf s a
    obtain ⟨k', hk'⟩ := ih { s with accounts := k }
    exact ⟨k', by rw [List.foldl_cons, hk, hk']⟩

theorem charge_eq (s : State) (grid res n : Nat) : ∃ k, s.charge grid res n = { s with accounts := k } := by
  unfold State.charge
  split
  · exact ⟨s.accounts, rfl⟩
  · apply foldl_accounts
    intro s a
    split
    · split
      · exact ⟨_, rfl⟩
      · exact ⟨s.accounts, rfl⟩
    · exact ⟨s.accounts, rfl⟩

theorem onIssue_eq (s : State) (c : Ctx) (beats : Nat) :
    ∃ k a, s.onIssue c beats = { s with counters := k, accounts := a } := by
  unfold State.onIssue
  have h1 : ∃ k a, (if c.second then s.tally c.core 3 1 else s.charge (s.teamOf c.g).grid 0 1) = { s with counters := k, accounts := a } := by
    split
    · obtain ⟨k, hk⟩ := tally_eq s c.core 3 1
      exact ⟨k, s.accounts, hk⟩
    · obtain ⟨a, ha⟩ := charge_eq s (s.teamOf c.g).grid 0 1
      exact ⟨s.counters, a, ha⟩
  obtain ⟨k1, a1, h1⟩ := h1
  simp only [h1]
  obtain ⟨k2, h2⟩ := tally_eq { s with counters := k1, accounts := a1 } c.core 2 1
  simp only [h2]
  obtain ⟨k3, h3⟩ := tally_eq { s with counters := k2, accounts := a1 } c.core 4
    (if c.tm.oneBeat || c.second then 0 else 4 - min 4 (beats + c.mateBeats))
  simp only [h3]
  cases c.tm.pipe with
  | valu =>
    obtain ⟨k, hk⟩ := tally_eq { s with counters := k3, accounts := a1 } c.core 5 (beats * c.tm.occ)
    exact ⟨k, a1, hk⟩
  | xu =>
    obtain ⟨k, hk⟩ := tally_eq { s with counters := k3, accounts := a1 } c.core 6 (beats * c.tm.occ)
    exact ⟨k, a1, hk⟩
  | mem => exact ⟨k3, a1, rfl⟩
  | ctl => exact ⟨k3, a1, rfl⟩

@[simp] theorem core_setCore_self (s : State) (n : Nat) (k : Core) : (s.setCore n k).core n = k := by
  simp [State.core, State.setCore]

theorem core_setCore_of_ne (s : State) {n m : Nat} (k : Core) (h : m ≠ n) : (s.setCore n k).core m = s.core m := by
  simp [State.core, State.setCore, tgetD_tset_of_ne _ _ _ h]

/-- The state after an instruction has issued differs in the group, its core's pipes, counters, accounts and the
free-value number. -/
theorem afterIssue_eq (s : State) (c : Ctx) (o : Operands) (beats : Nat) (g : Group) :
    ∃ p k a, s.afterIssue c o beats g = { s with
      groups := tset s.groups (slotKey c.core c.slot) (c.issued o g)
      cores := tset s.cores c.core { s.core c.core with pipes := p }
      counters := k, accounts := a, free := s.free + 1 } := by
  unfold State.afterIssue
  simp only []
  obtain ⟨k, a, h⟩ := onIssue_eq ((s.setGroup c.core c.slot (c.issued o g)).setCore c.core
    { (s.setGroup c.core c.slot (c.issued o g)).core c.core with
      pipes := tset ((s.setGroup c.core c.slot (c.issued o g)).core c.core).pipes (4 * (c.slot / 32) + c.tm.pipe.num)
        (c.now + (beats + c.mateBeats) * c.tm.occ * c.cyc) }) c beats
  rw [h]
  exact ⟨_, k, a, rfl⟩

theorem afterIssue_frame (s : State) (c : Ctx) (o : Operands) (beats : Nat) (g : Group) (u : Bool) :
    MachineFrame s { (s.afterIssue c o beats g) with uni := u } c := by
  obtain ⟨p, k, a, h⟩ := afterIssue_eq s c o beats g
  rw [h]
  refine ⟨rfl, fun j hj => tget?_tset_of_ne _ _ hj, fun n => ?_⟩
  by_cases hn : n = c.core
  · subst hn; simp [State.core]
  · simp [State.core, tgetD_tset_of_ne _ _ _ hn]

theorem afterIssue_group (s : State) (c : Ctx) (o : Operands) (beats : Nat) (g : Group) (u : Bool) :
    ({ (s.afterIssue c o beats g) with uni := u } : State).group? c.core c.slot = some (c.issued o g) := by
  obtain ⟨p, k, a, h⟩ := afterIssue_eq s c o beats g
  rw [h]
  simp [State.group?]

end Sys2Proof.Machine
end

