-- ==== Sys2Proof/Laws/Element.lean ====
section
/-! SUPPORT. What a register result and an element-wise instruction write, lane by lane. -/
namespace Sys2Proof.Machine

/-! ## Lanes of register contents -/

theorem general_lane (f : Nat → W32) (l : Nat) (hl : l < 64) : (RegVal.general ((List.range 64).map f)).lane l = f l := by
  simp [RegVal.lane, List.getD, hl]

/-- After a merge the lanes of the mask hold the new contents, the others the old (R203). -/
theorem mergeVal_lane (old new : RegVal) (mask : W64) (l : Nat) (hl : l < 64) :
    (mergeVal old new mask).lane l = if inMask mask l then new.lane l else old.lane l := by
  unfold mergeVal
  split
  · rename_i h
    have h : mask = fullMask := by simpa using h
    rw [h, inMask_full l hl]; rfl
  · split
    · rename_i h
      have h : mask = 0 := by simpa using h
      subst h
      simp [inMask]
    · rw [general_lane _ _ hl]

theorem affine_low (b t : W64) (l : Nat) :
    BitVec.extractLsb' 0 32 ((b.setWidth 32).setWidth 64 + (t.setWidth 32).setWidth 64 * BitVec.ofNat 64 l) =
      BitVec.ofNat 32 (b + t * BitVec.ofNat 64 l).toNat := by
  apply BitVec.eq_of_toNat_eq
  simp only [BitVec.extractLsb'_toNat, BitVec.toNat_add, BitVec.toNat_mul, BitVec.toNat_setWidth, BitVec.toNat_ofNat,
    Nat.shiftRight_zero]
  have h32 : (2:Nat) ^ 32 ∣ 2 ^ 64 := by decide
  simp only [Nat.mod_mod_of_dvd _ h32, Nat.add_mod, Nat.mul_mod, Nat.mod_mod]

/-- The contents of a result's registers in a lane: the value's low 32 bits, and for a pair its high 32 bits. -/
theorem resVal_lane (r : ResVal) (w64 : Bool) (l : Nat) (hl : l < 64) :
    ∃ x, (r.regs w64)[0]? = some x ∧ x.lane l = BitVec.ofNat 32 (r.at l) := by
  cases r with
  | uni v => cases w64 <;> exact ⟨_, rfl, rfl⟩
  | lanes f =>
    cases w64
    · refine ⟨_, rfl, ?_⟩
      rw [List.map_map, general_lane _ _ hl]; rfl
    · refine ⟨_, rfl, ?_⟩
      rw [List.map_map, general_lane _ _ hl]; rfl
  | aff b t =>
    cases w64
    · exact ⟨_, rfl, affine_low b t l⟩
    · refine ⟨_, rfl, ?_⟩
      show BitVec.extractLsb' 0 32 (b + t * BitVec.ofNat 64 l) = BitVec.ofNat 32 (b + t * BitVec.ofNat 64 l).toNat
      apply BitVec.eq_of_toNat_eq
      simp

theorem resVal_lane_high (r : ResVal) (l : Nat) (hl : l < 64) :
    ∃ x, (r.regs true)[1]? = some x ∧ x.lane l = BitVec.ofNat 32 (r.at l / 2 ^ 32) := by
  cases r with
  | uni v => exact ⟨_, rfl, rfl⟩
  | lanes f =>
    refine ⟨_, rfl, ?_⟩
    rw [List.map_map, general_lane _ _ hl]; rfl
  | aff b t =>
    refine ⟨_, rfl, ?_⟩
    show BitVec.extractLsb' 32 32 (b + t * BitVec.ofNat 64 l) = BitVec.ofNat 32 ((b + t * BitVec.ofNat 64 l).toNat / 2 ^ 32)
    apply BitVec.eq_of_toNat_eq
    simp [Nat.shiftRight_eq_div_pow]

theorem resVal_length (r : ResVal) (w64 : Bool) : (r.regs w64).length = if w64 then 2 else 1 := by
  cases r <;> cases w64 <;> rfl

/-! ## Arrival changes only the split and join tables -/

theorem arrive_eq (g : Group) (e fuel : Nat) : ∃ sp jn, g.arrive e fuel = { g with split := sp, joins := jn } := by
  induction fuel generalizing g with
  | zero => exact ⟨g.split, g.joins, rfl⟩
  | succ n ih =>
    have stays : ∃ sp jn, g = { g with split := sp, joins := jn } := ⟨g.split, g.joins, rfl⟩
    unfold Group.arrive
    split
    · exact stays
    · split
      · exact stays
      · split
        · exact stays
        · dsimp only
          split
          · obtain ⟨sp, jn, h⟩ := ih { g with split := _, joins := _ }
            exact ⟨sp, jn, h⟩
          · split
            · obtain ⟨sp, jn, h⟩ := ih { g with split := _, joins := _ }
              exact ⟨sp, jn, h⟩
            · exact ⟨_, _, rfl⟩

theorem goTo_eq (g : Group) (e : Nat) (pc : W64) : ∃ sp jn, g.goTo e pc = { g with split := sp, joins := jn } := by
  unfold Group.goTo
  obtain ⟨sp, jn, h⟩ := arrive_eq { g with split := tmod g.split e fun f => { f with pc := pc } } e 40
  exact ⟨sp, jn, h⟩

/-- Going on, and having issued, change only fragments, records and parking. -/
theorem issued_advance_eq (c : Ctx) (op : Nat) (o : Operands) (g : Group) :
    ∃ sp jn p, c.issued o (c.advance op o g) = { g with split := sp, joins := jn, parkedAt := p } := by
  obtain ⟨sp, jn, h⟩ := goTo_eq g c.entry (c.f.pc + BitVec.ofNat 64 (instrBytes op o))
  unfold Ctx.issued Ctx.advance
  rw [h]
  exact ⟨_, _, _, rfl⟩

/-! ## Register writes -/

/-- What a write makes of a register with no write outstanding: its tag, its contents, and when its first beat takes effect. -/
def Group.written (g : Group) (w : RegOut) (av : List Nat) : VReg :=
  ⟨w.fmt, w.cnt, mergeVal (g.reg w.n).val w.val w.mask, firstBeat w.mask av⟩

theorem written_lane (g : Group) (w : RegOut) (av : List Nat) (l : Nat) (hl : l < 64) :
    (g.written w av).val.lane l = if inMask w.mask l then w.val.lane l else (g.reg w.n).val.lane l := mergeVal_lane _ _ _ _ hl

theorem writeReg_quiet (g : Group) (w : RegOut) (av : List Nat) (h : g.regOuts w.n = []) :
    g.writeReg w av = { g with
      regs := tset g.regs w.n (g.written w av)
      outs := g.outs ++ [⟨.reg w.n (g.reg w.n), w.mask, av, g.written w av⟩] } := by
  unfold Group.writeReg Group.written
  dsimp only
  rw [h]

/-- A write of EXEC with none outstanding changes EXEC in the lanes of the mask, and its outstanding writes. -/
theorem writeExec_quiet (g : Group) (x mask : W64) (av : List Nat)
    (h : (g.outs.all fun w => match w.dst with | .exec _ => false | _ => true) = true) :
    ∃ os, g.writeExec x mask av = { g with exec := (g.exec &&& ~~~ mask) ||| (x &&& mask), outs := os } := by
  unfold Group.writeExec
  dsimp only
  split
  · exact ⟨_, rfl⟩
  · rename_i hne
    refine (hne ?_).elim
    rw [List.filter_eq_nil_iff]
    intro w hw hx
    have := List.all_eq_true.mp h w hw
    cases hd : w.dst <;> simp_all

theorem reg_tset_self (g : Group) (n : Nat) (x : VReg) (o : List Outst) :
    ({ g with regs := tset g.regs n x, outs := o } : Group).reg n = x := by simp [Group.reg]

theorem reg_tset_of_ne (g : Group) {n m : Nat} (x : VReg) (o : List Outst) (h : m ≠ n) :
    ({ g with regs := tset g.regs n x, outs := o } : Group).reg m = g.reg m := by
  simp [Group.reg, tgetD_tset_of_ne _ _ _ h]

theorem regOuts_append_of_ne (g : Group) {n m : Nat} (x : VReg) (old own : VReg) (mask : W64) (av : List Nat) (h : m ≠ n) :
    ({ g with regs := tset g.regs n x, outs := g.outs ++ [⟨.reg n old, mask, av, own⟩] } : Group).regOuts m = g.regOuts m := by
  have : (n == m) = false := by simp; omega
  simp [Group.regOuts, this]

/-- Whether a result is one value, and whether it is affine. -/
def ResVal.isUni : ResVal → Bool | .uni _ => true | _ => false
def ResVal.isAff : ResVal → Bool | .aff _ _ => true | _ => false

/-- The register writes of a result. -/
def resultRegs (r : ResVal) (gen w64 : Bool) (d fmt cnt : Nat) (mask : W64) : List RegOut :=
  (if gen then (ResVal.lanes r.at).regs w64 else r.regs w64).zipIdx.map fun (v, k) => ⟨d + k, fmt, cnt, v, mask⟩

/-- A one- or two-register write of a result to quiet registers. -/
theorem writeRegs_result (g : Group) (r : ResVal) (w64 : Bool) (d fmt cnt : Nat) (mask : W64) (av : List Nat) (gen : Bool)
    (hq : ∀ n ∈ (if w64 then [d, d + 1] else [d]), g.regOuts n = []) :
    ∃ g', (resultRegs r gen w64 d fmt cnt mask).foldl (fun g w => g.writeReg w av) g = g' ∧
      (∃ rs os, g' = { g with regs := rs, outs := os }) ∧
      (∀ n, n ∉ (if w64 then [d, d + 1] else [d]) → g'.reg n = g.reg n) ∧
      (∀ n ∈ (if w64 then [d, d + 1] else [d]), (g'.reg n).fmt = fmt ∧ (g'.reg n).cnt = cnt) ∧
      (∀ l, l < 64 → inMask mask l = true → (g'.reg d).val.lane l = BitVec.ofNat 32 (r.at l) ∧
        (w64 = true → (g'.reg (d + 1)).val.lane l = BitVec.ofNat 32 (r.at l / 2 ^ 32))) ∧
      (∀ n l, l < 64 → inMask mask l = false → (g'.reg n).val.lane l = (g.reg n).val.lane l) := by
  generalize hR : (if gen then ResVal.lanes r.at else r) = R
  have hat : R.at = r.at := by subst hR; cases gen <;> rfl
  have hregs : (if gen then (ResVal.lanes r.at).regs w64 else r.regs w64) = R.regs w64 := by subst hR; cases gen <;> rfl
  unfold resultRegs
  rw [hregs]
  have hlow := fun l hl => resVal_lane R w64 l hl
  cases w64 with
  | false =>
    obtain ⟨x, hx⟩ : ∃ x, R.regs false = [x] := by
      have := resVal_length R false
      exact List.length_eq_one_iff.mp this
    have hq0 : g.regOuts d = [] := hq d (by simp)
    refine ⟨_, rfl, ?_⟩
    simp only [hx, List.zipIdx_cons, List.zipIdx_nil, List.map_cons, List.map_nil, List.foldl_cons, List.foldl_nil, Nat.add_zero]
    rw [writeReg_quiet _ _ _ hq0]
    refine ⟨⟨_, _, rfl⟩, fun n hn => reg_tset_of_ne _ _ _ (by simpa using hn), fun n hn => ?_, fun l hl hm => ⟨?_, by simp⟩, fun n l hl hm => ?_⟩
    · have : n = d := by simpa using hn
      subst this
      rw [reg_tset_self]; exact ⟨rfl, rfl⟩
    · rw [reg_tset_self, written_lane _ _ _ _ hl, hm]
      obtain ⟨y, hy, hv⟩ := hlow l hl
      rw [hx] at hy
      simp at hy; subst hy
      rw [← hat]; exact hv
    · by_cases hnd : n = d
      · subst hnd
        rw [reg_tset_self, written_lane _ _ _ _ hl, hm]; rfl
      · rw [reg_tset_of_ne _ _ _ hnd]
  | true =>
    obtain ⟨x, y, hxy⟩ : ∃ x y, R.regs true = [x, y] := by
      have := resVal_length R true
      exact List.length_eq_two.mp this
    have hq0 : g.regOuts d = [] := hq d (by simp)
    have hq1 : g.regOuts (d + 1) = [] := hq (d + 1) (by simp)
    refine ⟨_, rfl, ?_⟩
    simp only [hxy, List.zipIdx_cons, List.zipIdx_nil, List.map_cons, List.map_nil, List.foldl_cons, List.foldl_nil, Nat.add_zero, Nat.zero_add]
    rw [writeReg_quiet g ⟨d, fmt, cnt, x, mask⟩ av hq0]
    have hq1' := hq1
    rw [← regOuts_append_of_ne g (n := d) (g.written ⟨d, fmt, cnt, x, mask⟩ av) (g.reg d) (g.written ⟨d, fmt, cnt, x, mask⟩ av) mask av
      (by omega)] at hq1'
    rw [writeReg_quiet _ _ _ hq1']
    have hne : d + 1 ≠ d := by omega
    refine ⟨⟨_, _, rfl⟩, fun n hn => ?_, fun n hn => ?_, fun l hl hm => ⟨?_, fun _ => ?_⟩, fun n l hl hm => ?_⟩
    · simp at hn
      rw [reg_tset_of_ne _ _ _ hn.2]
      exact reg_tset_of_ne _ _ _ hn.1
    · by_cases h1 : n = d + 1
      · subst h1; rw [reg_tset_self]; exact ⟨rfl, rfl⟩
      · have h0 : n = d := by simp at hn; omega
        subst h0
        rw [reg_tset_of_ne _ _ _ hne.symm]
        rw [reg_tset_self]; exact ⟨rfl, rfl⟩
    · rw [reg_tset_of_ne _ _ _ hne.symm, reg_tset_self, written_lane _ _ _ _ hl, hm]
      obtain ⟨z, hz, hv⟩ := hlow l hl
      rw [hxy] at hz; simp at hz; subst hz
      rw [← hat]; exact hv
    · rw [reg_tset_self, written_lane _ _ _ _ hl, hm]
      obtain ⟨z, hz, hv⟩ := resVal_lane_high R l hl
      rw [hxy] at hz; simp at hz; subst hz
      rw [← hat]; exact hv
    · by_cases h1 : n = d + 1
      · subst h1
        rw [reg_tset_self, written_lane _ _ _ _ hl, hm]
        rw [reg_tset_of_ne _ _ _ hne]; rfl
      · rw [reg_tset_of_ne _ _ _ h1]
        by_cases h0 : n = d
        · subst h0
          rw [reg_tset_self, written_lane _ _ _ _ hl, hm]; rfl
        · rw [reg_tset_of_ne _ _ _ h0]

/-! ## Results -/

theorem isReg_ne {d : Code} (h : isReg d = true) : (d == 120#7) = false ∧ (d == 123#7) = false := by
  have h : d.toNat < 120 := by simpa [isReg] using h
  constructor <;> (apply beq_false_of_ne; intro e; subst e; simp at h)

/-- What a result does where its destination takes it: nothing at zr or in no lane, else a write of EXEC or of registers. -/
theorem result_ok (c : Ctx) (d : Code) (w64 : Bool) (fmt cnt : Nat) (r : ResVal)
    (h : c.takes d w64 r.isUni r.isAff = true) :
    ((d = 120#7 ∨ c.mask = 0) ∧ c.result d w64 fmt cnt r c.mask = .ok {}) ∨
    (d = 123#7 ∧ ∃ v, r = .uni v ∧ c.result d w64 fmt cnt r c.mask = .ok { exec := some (BitVec.ofNat 64 v) }) ∨
    (isReg d = true ∧ c.mask ≠ 0 ∧ ∃ gen : Bool, c.result d w64 fmt cnt r c.mask =
      .ok { regs := resultRegs r gen w64 d.toNat fmt cnt c.mask }) := by
  by_cases h0 : d = 120#7 ∨ c.mask = 0
  · left
    refine ⟨h0, ?_⟩
    have : (d == 120#7 || c.mask == 0) = true := by simpa using h0
    unfold Ctx.result
    rw [this]; rfl
  · right
    rw [not_or] at h0
    have h00 : (d == 120#7 || c.mask == 0) = false := by simpa using h0
    unfold Ctx.result
    rw [h00]
    have h1 : (d == 120#7) = false := beq_false_of_ne h0.1
    by_cases h123 : d = 123#7
    · left
      subst h123
      cases r with
      | uni v => exact ⟨rfl, v, rfl, rfl⟩
      | aff b t => simp [Ctx.takes, isReg, ResVal.isUni] at h
      | lanes f => simp [Ctx.takes, isReg, ResVal.isUni] at h
    · right
      have h2 : (d == 123#7) = false := beq_false_of_ne h123
      unfold Ctx.takes at h
      rw [h1, h2] at h
      simp only [Bool.false_or, Bool.false_and, Bool.and_eq_true, Bool.or_eq_true, decide_eq_true_eq] at h
      obtain ⟨hr, hfit⟩ := h
      have hshape : (r.isGeneral c.mask && decide ((if w64 = true then d.toNat + 1 else d.toNat) ≥ c.g.g)) = false := by
        rcases hfit with hlt | ⟨hone, hfull⟩
        · have : ¬ (if w64 = true then d.toNat + 1 else d.toNat) ≥ c.g.g := by omega
          simp [this]
        · have hm : (c.mask != fullMask) = false := by simpa using hfull
          have : r.isGeneral c.mask = false := by
            unfold ResVal.isGeneral
            rw [hm]
            cases r <;> simp_all [ResVal.isUni, ResVal.isAff]
          simp [this]
      dsimp only
      rw [h2, hshape]
      exact ⟨hr, h0.2, r.isGeneral c.mask, rfl⟩

/-- The flags that an element-wise instruction raises, as events (R371). -/
def raisedOf (c : Ctx) (uni : Bool) (fl : List (Nat × BitVec 5)) : List FlagEvent :=
  fl.map fun (l, b) => FlagEvent.mk ((c.avail uni).getD (l / 16) 0) l b true

theorem group_fields (g : Group) (rs : Tbl VReg) (os : List Outst) (ex : W64) (fq : List FlagEvent) (sr : List W32) (sp : Tbl Frag)
    (jn : Tbl JoinRec) (p : Option Nat) :
    GroupFrame g { g with regs := rs, outs := os, exec := ex, flagQueue := fq, sr := sr, split := sp, joins := jn, parkedAt := p } := rfl

/-- What an effect of register writes, EXEC, stepped states and raised flags makes of a group, where no write of an EXEC that it
writes is outstanding. -/
theorem apply_result (c : Ctx) (q u : Bool) (g : Group) (regs : List RegOut) (ex : Option W64) (sr : Option (Nat → W32 → W32))
    (fl : List (Nat × BitVec 5))
    (hex : ex.isSome = true → ((regs.foldl (fun g w => g.writeReg w (c.avail u)) g).outs.all fun w =>
      match w.dst with | .exec _ => false | _ => true) = true) :
    ∃ os, ({ regs := regs, exec := ex, sr := sr, uniform := u, flags := fl } : Effect).apply c q g =
      { regs.foldl (fun g w => g.writeReg w (c.avail u)) g with
        exec := match ex with
          | some x => ((regs.foldl (fun g w => g.writeReg w (c.avail u)) g).exec &&& ~~~ c.f.mask) ||| (x &&& c.f.mask)
          | none => (regs.foldl (fun g w => g.writeReg w (c.avail u)) g).exec
        outs := os
        sr := stepStates sr (regs.foldl (fun g w => g.writeReg w (c.avail u)) g).sr
        flagQueue := (regs.foldl (fun g w => g.writeReg w (c.avail u)) g).flagQueue ++ (if q then [] else raisedOf c u fl) } := by
  unfold Effect.apply
  dsimp only
  generalize hG : regs.foldl (fun g w => g.writeReg w (c.avail u)) g = G at hex ⊢
  cases ex with
  | none =>
    refine ⟨G.outs, ?_⟩
    cases sr <;> cases q <;> simp only [List.foldl_nil, List.map_nil, List.append_nil] <;> rfl
  | some x =>
    obtain ⟨os, hw⟩ := writeExec_quiet G x c.f.mask (c.avail u) (hex rfl)
    refine ⟨os, ?_⟩
    simp only [List.foldl_nil, hw]
    cases sr <;> cases q <;> simp only [List.map_nil, List.append_nil] <;> rfl

/-- The result of an instruction on a group whose registers it has written. -/
theorem delivers_group {s t : State} {c : Ctx} {o : Operands} {r : ElementResult} (hm : MachineFrame s t c)
    (rs : Tbl VReg) (os : List Outst) (ex : W64) (fq : List FlagEvent) (sr : List W32) (sp : Tbl Frag) (jn : Tbl JoinRec) (p : Option Nat)
    (hg : t.group? c.core c.slot = some
      { c.g with regs := rs, outs := os, exec := ex, flagQueue := fq, sr := sr, split := sp, joins := jn, parkedAt := p })
    (hex : r.dst ≠ 123#7 → ex = c.g.exec)
    (hex' : r.dst = 123#7 → c.mask ≠ 0 →
      ex = (c.g.exec &&& ~~~ c.f.mask) ||| (BitVec.ofNat 64 (r.out (lowLane c.mask)).1 &&& c.f.mask))
    (hother : ∀ n, n ∉ dstRegs r.dst r.w64 → tgetD rs n {} = c.g.reg n)
    (htag : isReg r.dst = true → c.mask ≠ 0 → ∀ n ∈ dstRegs r.dst r.w64, (tgetD rs n {}).fmt = r.fmt ∧ (tgetD rs n {}).cnt = r.cnt)
    (hl : isReg r.dst = true → ∀ l, l < 64 → inMask c.mask l = true →
      (tgetD rs r.dst.toNat {}).val.lane l = BitVec.ofNat 32 (r.out l).1 ∧
      (r.w64 = true → (tgetD rs (r.dst.toNat + 1) {}).val.lane l = BitVec.ofNat 32 ((r.out l).1 / 2 ^ 32)))
    (hout : ∀ n, ∀ l, l < 64 → inMask c.mask l = false → (tgetD rs n {}).val.lane l = (c.g.reg n).val.lane l)
    (hfq : fq = c.g.flagQueue ++ (if o.q then [] else (lanesOf c.mask).filterMap fun l =>
      if (r.out l).2 == 0 then none
      else some (FlagEvent.mk ((c.avail r.uniform).getD (l / 16) 0) l (r.out l).2 true)))
    (hsr : sr = stepStates r.sr c.g.sr) :
    Delivers s t c o r :=
  ⟨hm, _, hg, rfl, rfl, rfl, hex, hex', hother, htag, hl, hout, hfq, hsr⟩

/-- An instruction whose effect is one result, raised flags and stepped states delivers it. -/
theorem runAlu_delivers {op : Nat} {o : Operands} {tm : Ctx → Timing} {s : State} {c : Ctx}
    {body : Ctx → Except Trap Effect} {e0 : Effect} (hI : Issues op o tm s c) (r : ElementResult) (rv : ResVal)
    (sr : Option (Nat → W32 → W32)) (fl : List (Nat × BitVec 5))
    (hres : c.result r.dst r.w64 r.fmt r.cnt rv c.mask = .ok e0)
    (hb : body c = .ok { e0 with sr := sr, uniform := r.uniform, flags := fl })
    (htakes : c.takes r.dst r.w64 rv.isUni rv.isAff = true)
    (hq : c.quiet (dstRegs r.dst r.w64)) (hqe : r.dst = 123#7 → c.execQuiet = true)
    (hv : ∀ l, l < 64 → inMask c.mask l = true → BitVec.ofNat 32 (rv.at l) = BitVec.ofNat 32 (r.out l).1 ∧
      (r.w64 = true → BitVec.ofNat 32 (rv.at l / 2 ^ 32) = BitVec.ofNat 32 ((r.out l).1 / 2 ^ 32)))
    (hexec : ∀ v, rv = .uni v → BitVec.ofNat 64 v = BitVec.ofNat 64 (r.out (lowLane c.mask)).1)
    (hfl : raisedOf c r.uniform fl = (lanesOf c.mask).filterMap fun l =>
      if (r.out l).2 == 0 then none
      else some (FlagEvent.mk ((c.avail r.uniform).getD (l / 16) 0) l (r.out l).2 true))
    (hsr : sr = r.sr) :
    ∃ t, runAlu op o tm s body = .next t ∧ Delivers s t c o r := by
  subst hsr
  refine ⟨_, runAlu_ok hI hb, ?_⟩
  have hframe := afterIssue_frame s c o
    (c.beats r.uniform) (c.advance op o (({ e0 with sr := r.sr, uniform := r.uniform, flags := fl } : Effect).apply c o.q c.g)) r.uniform
  have hgroup := afterIssue_group s c o
    (c.beats r.uniform) (c.advance op o (({ e0 with sr := r.sr, uniform := r.uniform, flags := fl } : Effect).apply c o.q c.g)) r.uniform
  obtain ⟨sp, jn, p, hg⟩ := issued_advance_eq c op o (({ e0 with sr := r.sr, uniform := r.uniform, flags := fl } : Effect).apply c o.q c.g)
  rw [hg] at hgroup
  have hnone : ∀ l, c.mask = 0 → inMask c.mask l = true → False := by
    intro l h hl; rw [h] at hl; simp [inMask] at hl
  rcases result_ok c r.dst r.w64 r.fmt r.cnt rv htakes with ⟨hd, he⟩ | ⟨hd, v, hrv, he⟩ | ⟨hd, hm, gen, he⟩
  · rw [he] at hres
    obtain rfl : e0 = {} := by injection hres with h; exact h.symm
    have hnr : isReg r.dst = true → c.mask ≠ 0 → False := by
      intro h hm
      rcases hd with hd | hd
      · rw [hd] at h; simp [isReg] at h
      · exact hm hd
    obtain ⟨os, ha⟩ := apply_result c o.q r.uniform c.g [] none r.sr fl (fun h => by simp at h)
    have hgroup' := hgroup.trans (congrArg some (congrArg (fun g : Group => { g with split := sp, joins := jn, parkedAt := p }) ha))
    simp only [List.foldl_nil, hfl] at hgroup'
    refine delivers_group hframe _ _ _ _ _ _ _ _ hgroup' (fun _ => rfl) (fun h hm => ?_) (fun _ _ => rfl)
      (fun h hm => (hnr h hm).elim) (fun h l _ hl => ?_) (fun _ _ _ _ => rfl) rfl rfl
    · rcases hd with hd | hd
      · rw [hd] at h; simp at h
      · exact absurd hd hm
    · exact (hnr h (fun hm => hnone l hm hl)).elim
  · rw [he] at hres
    obtain rfl : e0 = { exec := some (BitVec.ofNat 64 v) } := by
      injection hres with h; exact h.symm
    have hnr : isReg r.dst = true → False := by intro h; rw [hd] at h; simp [isReg] at h
    obtain ⟨os, ha⟩ := apply_result c o.q r.uniform c.g [] (some (BitVec.ofNat 64 v)) r.sr fl (fun _ => hqe hd)
    have hgroup' := hgroup.trans (congrArg some (congrArg (fun g : Group => { g with split := sp, joins := jn, parkedAt := p }) ha))
    simp only [List.foldl_nil, hfl] at hgroup'
    refine delivers_group hframe _ _ _ _ _ _ _ _ hgroup' (fun h => absurd hd h) (fun _ _ => ?_) (fun _ _ => rfl)
      (fun h => (hnr h).elim) (fun h => (hnr h).elim) (fun _ _ _ _ => rfl) rfl rfl
    show (c.g.exec &&& ~~~ c.f.mask) ||| (BitVec.ofNat 64 v &&& c.f.mask) = _
    rw [hexec v hrv]
  · rw [he] at hres
    obtain rfl : e0 = { regs := resultRegs rv gen r.w64 r.dst.toNat r.fmt r.cnt c.mask } := by injection hres with h; exact h.symm
    have hne : r.dst ≠ 123#7 := by intro h; rw [h] at hd; simp [isReg] at hd
    have hdr : dstRegs r.dst r.w64 = if r.w64 then [r.dst.toNat, r.dst.toNat + 1] else [r.dst.toNat] := by simp [dstRegs, hd]
    have hq' : ∀ n ∈ (if r.w64 then [r.dst.toNat, r.dst.toNat + 1] else [r.dst.toNat]), c.g.regOuts n = [] := by
      rw [← hdr]; exact hq
    obtain ⟨g', hfold, ⟨rs, os', heq⟩, hother, htag, hlanes, hout⟩ :=
      writeRegs_result c.g rv r.w64 r.dst.toNat r.fmt r.cnt c.mask (c.avail r.uniform) gen hq'
    obtain ⟨os, ha⟩ := apply_result c o.q r.uniform c.g (resultRegs rv gen r.w64 r.dst.toNat r.fmt r.cnt c.mask) none r.sr fl
      (fun h => by simp at h)
    have hgroup' := hgroup.trans (congrArg some (congrArg (fun g : Group => { g with split := sp, joins := jn, parkedAt := p }) ha))
    rw [hfold] at hgroup'
    simp only [hfl] at hgroup'
    subst heq
    refine delivers_group hframe rs os _ _ _ sp jn p hgroup' (fun _ => rfl) (fun h => absurd h hne) (by rw [hdr]; exact hother)
      (fun _ _ => by rw [hdr]; exact htag) (fun _ l hl' hm' => ?_) (fun n l hl' hm' => hout n l hl' hm') rfl rfl
    obtain ⟨h1, h2⟩ := hlanes l hl' hm'
    obtain ⟨h3, h4⟩ := hv l hl' hm'
    exact ⟨h1.trans h3, fun h => (h2 h).trans (h4 h)⟩

/-! ## Element-wise instructions -/

theorem filterMap_const (ls : List Nat) (tm : Nat → Nat) (b : BitVec 5) :
    ((if b == 0 then [] else ls.map fun l => (l, b)).map fun (x : Nat × BitVec 5) => FlagEvent.mk (tm x.1) x.1 x.2 true) =
      ls.filterMap fun l => if b == 0 then none else some (FlagEvent.mk (tm l) l b true) := by
  cases h : b == 0
  · simp only [Bool.false_eq_true, if_false, List.map_map]
    induction ls with
    | nil => rfl
    | cons a r ih => simp only [List.map_cons, List.filterMap_cons]; rw [ih]; rfl
  · simp

theorem filterMap_map (ls : List Nat) (tm : Nat → Nat) (f : Nat → BitVec 5) :
    ((ls.filterMap fun l => if f l == 0 then none else some (l, f l)).map
        fun (x : Nat × BitVec 5) => FlagEvent.mk (tm x.1) x.1 x.2 true) =
      ls.filterMap fun l => if f l == 0 then none else some (FlagEvent.mk (tm l) l (f l) true) := by
  induction ls with
  | nil => rfl
  | cons a r ih =>
    simp only [List.filterMap_cons]
    cases h : f a == 0
    · simp only [Bool.false_eq_true, if_false, List.map_cons]; rw [ih]
    · simp only [if_true]; exact ih

/-- An element-wise instruction whose checks pass and whose destination takes its result delivers in each active lane what
`fn` computes there, on every path (R203, R309). -/
theorem elementwise_delivers {op : Nat} {o : Operands} {tm : Ctx → Timing} {s : State} {c : Ctx}
    {body : Ctx → Except Trap Effect} (hI : Issues op o tm s c) (ss : List Src) (d : Code) (w64 : Bool) (fmt cnt : Nat)
    (affine : Option (W64 × W64)) (uniformOk : Bool) (steps : Nat) (fn : LaneFn)
    (hb : body c = c.elementwise o ss d w64 fmt cnt affine uniformOk steps fn)
    (htakes : c.takes d w64 (c.uniformPath ss uniformOk) affine.isSome = true)
    (hq : c.quiet (dstRegs d w64)) (hqe : d = 123#7 → c.execQuiet = true)
    (haff : ∀ b t, affine = some (b, t) → c.uniformPath ss uniformOk = false → ∀ l, l < 64 → inMask c.mask l = true →
      (c.outOf o ss true uniformOk steps fn l).2 = 0 ∧
      BitVec.ofNat 32 (b + t * BitVec.ofNat 64 l).toNat = BitVec.ofNat 32 (c.outOf o ss true uniformOk steps fn l).1 ∧
      (w64 = true → BitVec.ofNat 32 ((b + t * BitVec.ofNat 64 l).toNat / 2 ^ 32) =
        BitVec.ofNat 32 ((c.outOf o ss true uniformOk steps fn l).1 / 2 ^ 32))) :
    ∃ t, runAlu op o tm s body = .next t ∧
      Delivers s t c o ⟨d, w64, fmt, cnt, c.uniformPath ss uniformOk || affine.isSome, c.stepped steps,
        c.outOf o ss affine.isSome uniformOk steps fn⟩ := by
  unfold Ctx.elementwise at hb
  dsimp only at hb
  change body c = (if c.uniformPath ss uniformOk = true then _ else _) at hb
  cases hu : c.uniformPath ss uniformOk with
  | true =>
    have hu' : (uniformOk && ss.all c.uniformSrc) = true := hu
    rw [hu] at hb htakes
    simp only [if_true, hu', Bool.true_or, if_true] at hb
    generalize hrun : fn (lowLane c.mask) (srRun (c.srAt (lowLane c.mask) c.now) steps).1
      (ss.map fun s => c.value s o (lowLane c.mask) c.now) = out at hb
    have hout : ∀ l, c.outOf o ss affine.isSome uniformOk steps fn l = out := by
      intro l
      unfold Ctx.outOf Ctx.uniformPath
      simp only [hu', if_true, Bool.true_or]
      exact hrun
    obtain ⟨v, fl⟩ := out
    dsimp only at hb
    have htk : c.takes d w64 (ResVal.uni v).isUni (ResVal.uni v).isAff = true := by
      have : c.takes d w64 true false = true := by
        unfold Ctx.takes at htakes ⊢
        simpa using htakes
      exact this
    obtain ⟨e0, he0⟩ : ∃ e0, c.result d w64 fmt cnt (.uni v) c.mask = .ok e0 := by
      rcases result_ok c d w64 fmt cnt (.uni v) htk with ⟨_, h⟩ | ⟨_, _, _, h⟩ | ⟨_, _, _, h⟩ <;> exact ⟨_, h⟩
    rw [he0] at hb
    refine runAlu_delivers hI _ (.uni v) _ _ he0 hb htk hq hqe ?_ ?_ ?_ rfl
    · intro l _ _; dsimp only; rw [hout]; exact ⟨rfl, fun _ => rfl⟩
    · intro w hw; dsimp only; rw [hout]; injection hw with hw; rw [hw]
    · dsimp only
      simp only [hout]
      exact filterMap_const _ (fun l => (c.avail true).getD (l / 16) 0) fl
  | false =>
    have hu' : (uniformOk && ss.all c.uniformSrc) = false := hu
    rw [hu] at hb htakes
    simp only [Bool.false_eq_true, if_false, hu', Bool.false_or] at hb
    cases affine with
    | some x =>
      obtain ⟨b, t⟩ := x
      dsimp only at hb
      have htk : c.takes d w64 (ResVal.aff b t).isUni (ResVal.aff b t).isAff = true := htakes
      obtain ⟨e0, he0⟩ : ∃ e0, c.result d w64 fmt cnt (.aff b t) c.mask = .ok e0 := by
        rcases result_ok c d w64 fmt cnt (.aff b t) htk with ⟨_, h⟩ | ⟨_, _, _, h⟩ | ⟨_, _, _, h⟩ <;> exact ⟨_, h⟩
      rw [he0] at hb
      have hflags : e0.flags = [] := by
        rcases result_ok c d w64 fmt cnt (.aff b t) htk with ⟨_, h⟩ | ⟨_, _, _, h⟩ | ⟨_, _, _, h⟩ <;>
          (rw [he0] at h; injection h with h; subst h; rfl)
      have hb' : body c = .ok { e0 with sr := (if steps == 0 then none else some fun l x => if inMask c.mask l then (srRun x steps).2 else x), uniform := true, flags := [] } := by
        rw [← hflags]; exact hb
      refine runAlu_delivers hI _ (.aff b t) _ _ he0 hb' htk hq hqe ?_ (fun v hv => by cases hv) ?_ rfl
      · intro l hl hm
        have := haff b t rfl hu l hl hm
        exact this.2
      · dsimp only
        unfold raisedOf
        rw [List.map_nil]
        symm
        rw [List.filterMap_eq_nil_iff]
        intro l hl
        have hm : inMask c.mask l = true := by simpa [lanesOf] using (List.mem_filter.mp hl).2
        have := (haff b t rfl hu l (inMask_lt _ _ hm) hm).1
        simp [this]
    | none =>
      dsimp only at hb
      simp only [Option.isSome_none, Bool.false_eq_true, if_false] at hb
      have hrs : ∀ l, l < 64 → inMask c.mask l = true →
          (((List.range 64).map fun l => if inMask c.mask l then
            fn l (srRun (c.srAt l (c.laneTime l)) steps).1 (ss.map fun s => c.value s o l (c.laneTime l)) else (0, 0)).getD l (0, 0)) =
          c.outOf o ss false uniformOk steps fn l := by
        intro l hl hm
        simp only [List.getD, List.getElem?_map, List.getElem?_range hl, Option.map_some, Option.getD_some, hm, if_true]
        unfold Ctx.outOf Ctx.uniformPath
        simp only [hu', Bool.false_or, Bool.false_eq_true, if_false]
      generalize hL : ((List.range 64).map fun l => if inMask c.mask l then
            fn l (srRun (c.srAt l (c.laneTime l)) steps).1 (ss.map fun s => c.value s o l (c.laneTime l)) else (0, 0)) = rs at hb hrs
      have htk : c.takes d w64 (ResVal.lanes fun l => (rs.getD l (0, 0)).1).isUni (ResVal.lanes fun l => (rs.getD l (0, 0)).1).isAff = true := htakes
      obtain ⟨e0, he0⟩ : ∃ e0, c.result d w64 fmt cnt (.lanes fun l => (rs.getD l (0, 0)).1) c.mask = .ok e0 := by
        rcases result_ok c d w64 fmt cnt (.lanes fun l => (rs.getD l (0, 0)).1) htk with ⟨_, h⟩ | ⟨_, _, _, h⟩ | ⟨_, _, _, h⟩ <;> exact ⟨_, h⟩
      rw [he0] at hb
      have huni : e0.uniform = false := by
        rcases result_ok c d w64 fmt cnt (.lanes fun l => (rs.getD l (0, 0)).1) htk with ⟨_, h⟩ | ⟨_, _, _, h⟩ | ⟨_, _, _, h⟩ <;>
          (rw [he0] at h; injection h with h; subst h; rfl)
      have hb' : body c = .ok { e0 with sr := (if steps == 0 then none else some fun l x => if inMask c.mask l then (srRun x steps).2 else x), uniform := false, flags := (lanesOf c.mask).filterMap fun l => if (rs.getD l (0, 0)).2 == 0 then none else some (l, (rs.getD l (0, 0)).2) } := by
        rw [← huni]; exact hb
      refine runAlu_delivers hI _ (.lanes fun l => (rs.getD l (0, 0)).1) _ _ he0 hb' htk hq hqe ?_ (fun v hv => by cases hv) ?_ rfl
      · intro l hl hm
        show BitVec.ofNat 32 (rs.getD l (0, 0)).1 = _ ∧ _
        rw [hrs l hl hm]
        exact ⟨rfl, fun _ => by show BitVec.ofNat 32 ((rs.getD l (0, 0)).1 / 2 ^ 32) = _; rw [hrs l hl hm]; rfl⟩
      · dsimp only
        have : ∀ l ∈ lanesOf c.mask, (rs.getD l (0, 0)).2 = (c.outOf o ss false uniformOk steps fn l).2 := by
          intro l hl
          have hm : inMask c.mask l = true := by simpa [lanesOf] using (List.mem_filter.mp hl).2
          rw [hrs l (inMask_lt _ _ hm) hm]
        unfold raisedOf
        have h1 := filterMap_map (lanesOf c.mask) (fun l => (c.avail false).getD (l / 16) 0) (fun l => (rs.getD l (0, 0)).2)
        refine Eq.trans h1 ?_
        apply List.filterMap_congr
        intro l hl
        rw [this l hl]; rfl

end Sys2Proof.Machine
end

