-- ==== Sys2Proof/Laws/PerInstr.lean ====
section
/-! SUPPORT. For each instruction: what a well-formed one carries is read back by the decoder's tables. -/
namespace Sys2Proof.Laws.Encoding
open Sys2Proof

/-- The opcode that an instruction is encoded under gives the instruction back with the same fields, and its fields are
legal in the opcode's form (R297, R300, R303, R330). -/
def Statement (i : Instr) : Prop :=
  ∀ op o, i.word? = some (op, o) → i.wf = true → (opForm op o.fn.toNat).isSome = true → ofOp op o = some i ∧ wfWord op none o = true

theorem of_none {i : Instr} (h : i.word? = none) : Statement i := by
  intro op o h'; rw [h] at h'; cases h'

theorem of_plain {i : Instr} (op : Nat) (o : Operands) (h : i.word? = some (op, o)) (hw : i.wf = wfWord op none o)
    (ho : ofOp op o = some i) : Statement i := by
  intro op' o' h' hwf _
  rw [h] at h'
  cases h'
  exact ⟨ho, by rw [← hw]; exact hwf⟩

theorem of_label {i : Instr} (op : Nat) (o : Operands) (b : Bool) (h : i.word? = some (op, o))
    (hw : i.wf = wfWord op (some b) o) (ho : (o.b == 127#7) = b → ofOp op o = some i) : Statement i := by
  intro op' o' h' hwf _
  rw [h] at h'
  cases h'
  rw [hw] at hwf
  unfold wfWord at hwf ⊢
  split at hwf
  · cases hwf
  · simp only [Bool.and_eq_true, beq_iff_eq] at hwf ⊢
    exact ⟨ho hwf.2, hwf.1, trivial⟩

theorem nop (o : Operands) : Statement (.nop o) := of_plain 0x01 o rfl rfl rfl
theorem mode (o : Operands) : Statement (.mode o) := of_plain 0x02 o rfl rfl rfl
theorem bra (o : Operands) : Statement (.bra o) := of_label 0x03 o false rfl rfl fun h => by unfold ofOp; simp [h]
theorem braLabel (o : Operands) : Statement (.braLabel o) := of_label 0x03 o true rfl rfl fun h => by unfold ofOp; simp [h]
theorem br (o : Operands) : Statement (.br o) := of_plain 0x04 o rfl rfl rfl
theorem join (o : Operands) : Statement (.join o) := of_plain 0x05 o rfl rfl rfl
theorem brx (o : Operands) : Statement (.brx o) := of_plain 0x06 o rfl rfl rfl
theorem call (o : Operands) : Statement (.call o) := of_label 0x07 o false rfl rfl fun h => by unfold ofOp; simp [h]
theorem callLabel (o : Operands) : Statement (.callLabel o) := of_label 0x07 o true rfl rfl fun h => by unfold ofOp; simp [h]
theorem ret (o : Operands) : Statement (.ret o) := of_plain 0x08 o rfl rfl rfl
theorem exit (o : Operands) : Statement (.exit o) := of_plain 0x09 o rfl rfl rfl
theorem yield (o : Operands) : Statement (.yield o) := of_plain 0x0A o rfl rfl rfl
theorem trap (o : Operands) : Statement (.trap o) := of_plain 0x0B o rfl rfl rfl
theorem rft (o : Operands) : Statement (.rft o) := of_plain 0x0C o rfl rfl rfl
theorem rdsr (o : Operands) : Statement (.rdsr o) := of_plain 0x0D o rfl rfl rfl
theorem wrsr (o : Operands) : Statement (.wrsr o) := of_plain 0x0E o rfl rfl rfl
theorem boost (o : Operands) : Statement (.boost o) := of_plain 0x0F o rfl rfl rfl
theorem srseed (o : Operands) : Statement (.srseed o) := of_plain 0x10 o rfl rfl rfl
theorem pset (o : Operands) : Statement (.pset o) := of_plain 0x20 o rfl rfl rfl
theorem plog (o : Operands) : Statement (.plog o) := of_plain 0x21 o rfl rfl rfl
theorem pmov (o : Operands) : Statement (.pmov o) := of_plain 0x22 o rfl rfl rfl
theorem ballot (o : Operands) : Statement (.ballot o) := of_plain 0x23 o rfl rfl rfl
theorem popm (o : Operands) : Statement (.popm o) := of_plain 0x24 o rfl rfl rfl
theorem shfl (o : Operands) : Statement (.shfl o) := of_plain 0x28 o rfl rfl rfl
theorem bcast (o : Operands) : Statement (.bcast o) := of_plain 0x29 o rfl rfl rfl
theorem lred (o : Operands) : Statement (.lred o) := of_plain 0x2A o rfl rfl rfl
theorem lscan (o : Operands) : Statement (.lscan o) := of_plain 0x2B o rfl rfl rfl
theorem vote (o : Operands) : Statement (.vote o) := of_plain 0x2C o rfl rfl rfl
theorem matchLanes (o : Operands) : Statement (.matchLanes o) := of_plain 0x2D o rfl rfl rfl
theorem perm (o : Operands) : Statement (.perm o) := of_plain 0x2E o rfl rfl rfl
theorem iadd (o : Operands) : Statement (.iadd o) := of_plain 0x40 o rfl rfl rfl
theorem isub (o : Operands) : Statement (.isub o) := of_plain 0x41 o rfl rfl rfl
theorem imul (o : Operands) : Statement (.imul o) := of_plain 0x42 o rfl rfl rfl
theorem imulh (o : Operands) : Statement (.imulh o) := of_plain 0x43 o rfl rfl rfl
theorem imad (o : Operands) : Statement (.imad o) := of_plain 0x44 o rfl rfl rfl
theorem imin (o : Operands) : Statement (.imin o) := of_plain 0x45 o rfl rfl rfl
theorem imax (o : Operands) : Statement (.imax o) := of_plain 0x46 o rfl rfl rfl
theorem iabs (o : Operands) : Statement (.iabs o) := of_plain 0x47 o rfl rfl rfl
theorem ineg (o : Operands) : Statement (.ineg o) := of_plain 0x48 o rfl rfl rfl
theorem icmp (o : Operands) : Statement (.icmp o) := of_plain 0x60 o rfl rfl rfl
theorem icvt (o : Operands) : Statement (.icvt o) := of_plain 0x61 o rfl rfl rfl
theorem bitAnd (o : Operands) : Statement (.bitAnd o) := of_plain 0x50 o rfl rfl rfl
theorem bitOr (o : Operands) : Statement (.bitOr o) := of_plain 0x51 o rfl rfl rfl
theorem bitXor (o : Operands) : Statement (.bitXor o) := of_plain 0x52 o rfl rfl rfl
theorem bitNot (o : Operands) : Statement (.bitNot o) := of_plain 0x53 o rfl rfl rfl
theorem shl (o : Operands) : Statement (.shl o) := of_plain 0x54 o rfl rfl rfl
theorem shr (o : Operands) : Statement (.shr o) := of_plain 0x55 o rfl rfl rfl
theorem sar (o : Operands) : Statement (.sar o) := of_plain 0x56 o rfl rfl rfl
theorem rot (o : Operands) : Statement (.rot o) := of_plain 0x57 o rfl rfl rfl
theorem fshl (o : Operands) : Statement (.fshl o) := of_plain 0x58 o rfl rfl rfl
theorem fshr (o : Operands) : Statement (.fshr o) := of_plain 0x59 o rfl rfl rfl
theorem bfx (o : Operands) : Statement (.bfx o) := of_plain 0x5A o rfl rfl rfl
theorem bfi (o : Operands) : Statement (.bfi o) := of_plain 0x5B o rfl rfl rfl
theorem popc (o : Operands) : Statement (.popc o) := of_plain 0x5C o rfl rfl rfl
theorem clz (o : Operands) : Statement (.clz o) := of_plain 0x5D o rfl rfl rfl
theorem brev (o : Operands) : Statement (.brev o) := of_plain 0x5E o rfl rfl rfl
theorem sel (o : Operands) : Statement (.sel o) := of_plain 0x5F o rfl rfl rfl
theorem lea (o : Operands) : Statement (.lea o) := of_plain 0x68 o rfl rfl rfl
theorem adda (o : Operands) : Statement (.adda o) := of_plain 0x69 o rfl rfl rfl
theorem aff (o : Operands) : Statement (.aff o) := of_plain 0x6A o rfl rfl rfl
theorem fadd (o : Operands) : Statement (.fadd o) := of_plain 0x70 o rfl rfl rfl
theorem fsub (o : Operands) : Statement (.fsub o) := of_plain 0x71 o rfl rfl rfl
theorem fmul (o : Operands) : Statement (.fmul o) := of_plain 0x72 o rfl rfl rfl
theorem fma (o : Operands) : Statement (.fma o) := of_plain 0x73 o rfl rfl rfl
theorem fmin (o : Operands) : Statement (.fmin o) := of_plain 0x74 o rfl rfl rfl
theorem fmax (o : Operands) : Statement (.fmax o) := of_plain 0x75 o rfl rfl rfl
theorem fneg (o : Operands) : Statement (.fneg o) := of_plain 0x76 o rfl rfl rfl
theorem fabs (o : Operands) : Statement (.fabs o) := of_plain 0x77 o rfl rfl rfl
theorem fcmp (o : Operands) : Statement (.fcmp o) := of_plain 0x78 o rfl rfl rfl
theorem fclass (o : Operands) : Statement (.fclass o) := of_plain 0x79 o rfl rfl rfl
theorem frnd (o : Operands) : Statement (.frnd o) := of_plain 0x7A o rfl rfl rfl
theorem fscale (o : Operands) : Statement (.fscale o) := of_plain 0x7B o rfl rfl rfl
theorem frcp (o : Operands) : Statement (.frcp o) := of_plain 0x80 o rfl rfl rfl
theorem frsq (o : Operands) : Statement (.frsq o) := of_plain 0x81 o rfl rfl rfl
theorem fsqrt (o : Operands) : Statement (.fsqrt o) := of_plain 0x82 o rfl rfl rfl
theorem fexp2 (o : Operands) : Statement (.fexp2 o) := of_plain 0x83 o rfl rfl rfl
theorem flog2 (o : Operands) : Statement (.flog2 o) := of_plain 0x84 o rfl rfl rfl
theorem fsin (o : Operands) : Statement (.fsin o) := of_plain 0x85 o rfl rfl rfl
theorem fcos (o : Operands) : Statement (.fcos o) := of_plain 0x86 o rfl rfl rfl
theorem cvt (o : Operands) : Statement (.cvt o) := of_plain 0x90 o rfl rfl rfl
theorem pack (o : Operands) : Statement (.pack o) := of_plain 0x91 o rfl rfl rfl
theorem unpack (o : Operands) : Statement (.unpack o) := of_plain 0x92 o rfl rfl rfl
theorem flgrd (o : Operands) : Statement (.flgrd o) := of_plain 0x93 o rfl rfl rfl
theorem flgclr (o : Operands) : Statement (.flgclr o) := of_plain 0x94 o rfl rfl rfl
theorem ld (o : Operands) : Statement (.ld o) := of_plain 0xA0 o rfl rfl rfl
theorem st (o : Operands) : Statement (.st o) := of_plain 0xA1 o rfl rfl rfl
theorem lds (o : Operands) : Statement (.lds o) := of_plain 0xA2 o rfl rfl rfl
theorem sts (o : Operands) : Statement (.sts o) := of_plain 0xA3 o rfl rfl rfl
theorem ldx (o : Operands) : Statement (.ldx o) := of_plain 0xA4 o rfl rfl rfl
theorem stx (o : Operands) : Statement (.stx o) := of_plain 0xA5 o rfl rfl rfl
theorem pref (o : Operands) : Statement (.pref o) := of_plain 0xA6 o rfl rfl rfl
theorem atom (o : Operands) : Statement (.atom o) := of_plain 0xA8 o rfl rfl rfl
theorem atoms (o : Operands) : Statement (.atoms o) := of_plain 0xA9 o rfl rfl rfl
theorem red (o : Operands) : Statement (.red o) := of_plain 0xAA o rfl rfl rfl
theorem waitcnt (o : Operands) : Statement (.waitcnt o) := of_plain 0xB0 o rfl rfl rfl
theorem commit (o : Operands) : Statement (.commit o) := of_plain 0xB1 o rfl rfl rfl
theorem bar (o : Operands) : Statement (.bar o) := of_plain 0xC0 o rfl rfl rfl
theorem darrive (o : Operands) : Statement (.darrive o) := of_plain 0xC1 o rfl rfl rfl
theorem dwait (o : Operands) : Statement (.dwait o) := of_plain 0xC2 o rfl rfl rfl
theorem garrive (o : Operands) : Statement (.garrive o) := of_plain 0xC3 o rfl rfl rfl
theorem gwait (o : Operands) : Statement (.gwait o) := of_plain 0xC4 o rfl rfl rfl
theorem evset (o : Operands) : Statement (.evset o) := of_plain 0xC8 o rfl rfl rfl
theorem evclr (o : Operands) : Statement (.evclr o) := of_plain 0xC9 o rfl rfl rfl
theorem waitany (o : Operands) : Statement (.waitany o) := of_plain 0xCA o rfl rfl rfl
theorem msend (o : Operands) : Statement (.msend o) := of_plain 0xCC o rfl rfl rfl
theorem mrecv (o : Operands) : Statement (.mrecv o) := of_plain 0xCD o rfl rfl rfl
theorem xshf (o : Operands) : Statement (.xshf o) := of_plain 0xCE o rfl rfl rfl
theorem trig (o : Operands) : Statement (.trig o) := of_plain 0xD0 o rfl rfl rfl
theorem launch (o : Operands) : Statement (.launch o) := of_plain 0xD1 o rfl rfl rfl
theorem cpy (o : Operands) : Statement (.cpy o) := of_plain 0xE0 o rfl rfl rfl
theorem cpym (o : Operands) : Statement (.cpym o) := of_plain 0xE1 o rfl rfl rfl
theorem gath (o : Operands) : Statement (.gath o) := of_plain 0xE2 o rfl rfl rfl
theorem scat (o : Operands) : Statement (.scat o) := of_plain 0xE3 o rfl rfl rfl
theorem gcsr (o : Operands) : Statement (.gcsr o) := of_plain 0xE4 o rfl rfl rfl
theorem stage (o : Operands) : Statement (.stage o) := of_plain 0xE5 o rfl rfl rfl
theorem close (o : Operands) : Statement (.close o) := of_plain 0xE6 o rfl rfl rfl
theorem waitb (o : Operands) : Statement (.waitb o) := of_plain 0xE7 o rfl rfl rfl
theorem ldb (o : Operands) : Statement (.ldb o) := of_plain 0xE8 o rfl rfl rfl
theorem mfence (o : Operands) : Statement (.mfence o) := of_plain 0xE9 o rfl rfl rfl
theorem mma (o : Operands) : Statement (.mma o) := of_plain 0xEA o rfl rfl rfl
theorem mmas (o : Operands) : Statement (.mmas o) := of_plain 0xEB o rfl rfl rfl
theorem accnext (o : Operands) : Statement (.accnext o) := of_plain 0xEC o rfl rfl rfl
theorem accrd (o : Operands) : Statement (.accrd o) := of_plain 0xED o rfl rfl rfl
theorem accwr (o : Operands) : Statement (.accwr o) := of_plain 0xEE o rfl rfl rfl
theorem epi (o : Operands) : Statement (.epi o) := of_plain 0xEF o rfl rfl rfl
theorem coll (o : Operands) : Statement (.coll o) := of_plain 0xF0 o rfl rfl rfl
theorem dpfx (o : Operands) : Statement (.dpfx o) := of_plain 0xF4 o rfl rfl rfl
theorem drle (o : Operands) : Statement (.drle o) := of_plain 0xF5 o rfl rfl rfl
theorem dbit (o : Operands) : Statement (.dbit o) := of_plain 0xF6 o rfl rfl rfl
theorem dchk (o : Operands) : Statement (.dchk o) := of_plain 0xF7 o rfl rfl rfl
theorem unassignedOpcode (op : BitVec 8) (s : Bool) (q : Bool) : Statement (.unassignedOpcode op s q) := by
  intro op' o h hw hf
  cases h
  have : (opForm op.toNat 0).isNone = true := hw
  rw [Option.isNone_iff_eq_none] at this
  change (opForm op.toNat 0).isSome = true at hf
  rw [this] at hf
  cases hf
theorem powerOnReset : Statement (.powerOnReset) := of_none rfl
theorem moduleReset : Statement (.moduleReset) := of_none rfl
theorem chipletReset (run : ChipletRun) : Statement (.chipletReset run) := of_none rfl
theorem railUp (report : RailReport) : Statement (.railUp report) := of_none rfl
theorem railFault (rails : List Rail) : Statement (.railFault rails) := of_none rfl
theorem standbyPowerRemoved : Statement (.standbyPowerRemoved) := of_none rfl
theorem imageVerifyDone (image : ImageCheck) : Statement (.imageVerifyDone image) := of_none rfl
theorem recoveryGo (value : W32) : Statement (.recoveryGo value) := of_none rfl
theorem baseStageDone : Statement (.baseStageDone) := of_none rfl
theorem memoryStageDone : Statement (.memoryStageDone) := of_none rfl
theorem clusterCalibrationDone (done : Calibration) : Statement (.clusterCalibrationDone done) := of_none rfl
theorem attnonceWrite (nonce : BitVec 384) : Statement (.attnonceWrite nonce) := of_none rfl
theorem attestationGo : Statement (.attestationGo) := of_none rfl
theorem attestationDone : Statement (.attestationDone) := of_none rfl
theorem clusterRetentionEntry (cluster : Nat) : Statement (.clusterRetentionEntry cluster) := of_none rfl
theorem clusterWake (cluster : Nat) : Statement (.clusterWake cluster) := of_none rfl
theorem sliceRetentionEntry (slice : Nat) : Statement (.sliceRetentionEntry slice) := of_none rfl
theorem sliceWake (slice : Nat) : Statement (.sliceWake slice) := of_none rfl
theorem loopSample (lossTopN : Bool) (lossBottomN : Bool) : Statement (.loopSample lossTopN lossBottomN) := of_none rfl
theorem inletOutOfRange (loop : CoolLoop) : Statement (.inletOutOfRange loop) := of_none rfl
theorem loopRestored (loop : CoolLoop) : Statement (.loopRestored loop) := of_none rfl
theorem sensorSample (read : Readings) : Statement (.sensorSample read) := of_none rfl
theorem laserModuleLoss (module : Nat) : Statement (.laserModuleLoss module) := of_none rfl
theorem boostBoundary (watts : Nat) : Statement (.boostBoundary watts) := of_none rfl
theorem permitRefill (cluster : Nat) : Statement (.permitRefill cluster) := of_none rfl
theorem exclusionSubperiodEnd : Statement (.exclusionSubperiodEnd) := of_none rfl
theorem registerWrite (func : Nat) (place : BarPlace) (width : Nat) (value : BitVec 128) : Statement (.registerWrite func place width value) := of_none rfl
theorem readToClear (func : Nat) (place : BarPlace) (width : Nat) : Statement (.readToClear func place width) := of_none rfl
theorem portEnable (port : Nat) (value : W32) : Statement (.portEnable port value) := of_none rfl
theorem portDisable (port : Nat) (value : W32) : Statement (.portDisable port value) := of_none rfl
theorem portRetrain (port : Nat) (value : W32) : Statement (.portRetrain port value) := of_none rfl
theorem portTrainingDone (port : Nat) : Statement (.portTrainingDone port) := of_none rfl
theorem pwgtWrite (port : Nat) (value : W32) : Statement (.pwgtWrite port value) := of_none rfl
theorem pdevidWrite (value : W32) : Statement (.pdevidWrite value) := of_none rfl
theorem flitSlot (port : Nat) : Statement (.flitSlot port) := of_none rfl
theorem flitReceive (port : Nat) (flit : BitVec 640) : Statement (.flitReceive port flit) := of_none rfl
theorem goBackNReplay (port : Nat) (seq : BitVec 12) : Statement (.goBackNReplay port seq) := of_none rfl
theorem portReplayLimit (port : Nat) : Statement (.portReplayLimit port) := of_none rfl
theorem portReceiveTimeout (port : Nat) : Statement (.portReceiveTimeout port) := of_none rfl
theorem peerRequestSend (port : Nat) : Statement (.peerRequestSend port) := of_none rfl
theorem routeHoldRelease (device : Nat) : Statement (.routeHoldRelease device) := of_none rfl
theorem transitPacket (port : Nat) : Statement (.transitPacket port) := of_none rfl
theorem peerLoad (port : Nat) : Statement (.peerLoad port) := of_none rfl
theorem peerStore (port : Nat) : Statement (.peerStore port) := of_none rfl
theorem peerAtomic (port : Nat) : Statement (.peerAtomic port) := of_none rfl
theorem peerAtomicNoReturn (port : Nat) : Statement (.peerAtomicNoReturn port) := of_none rfl
theorem peerBulkWrite (port : Nat) : Statement (.peerBulkWrite port) := of_none rfl
theorem peerCheckpointPage (port : Nat) : Statement (.peerCheckpointPage port) := of_none rfl
theorem peerCollectivePacket (port : Nat) : Statement (.peerCollectivePacket port) := of_none rfl
theorem peerReservedOp (port : Nat) : Statement (.peerReservedOp port) := of_none rfl
theorem peerResponse (port : Nat) : Statement (.peerResponse port) := of_none rfl
theorem ckctlGo (value : W32) : Statement (.ckctlGo value) := of_none rfl
theorem ckctlAbort (value : W32) : Statement (.ckctlAbort value) := of_none rfl
theorem ckctlRestore (value : W32) : Statement (.ckctlRestore value) := of_none rfl
theorem checkpointQuiesceDone : Statement (.checkpointQuiesceDone) := of_none rfl
theorem checkpointStreamDone : Statement (.checkpointStreamDone) := of_none rfl
theorem restoreDone : Statement (.restoreDone) := of_none rfl
theorem bar4Read (off : Nat) (bytes : Nat) : Statement (.bar4Read off bytes) := of_none rfl
theorem bar4Write (off : Nat) (data : List Byte) : Statement (.bar4Write off data) := of_none rfl
theorem contextEnable (func : Nat) (ctx : Nat) (value : W32) : Statement (.contextEnable func ctx value) := of_none rfl
theorem contextDisable (func : Nat) (ctx : Nat) (value : W32) : Statement (.contextDisable func ctx value) := of_none rfl
theorem recordRingReadIndexWrite (func : Nat) (ctx : Nat) (value : W32) : Statement (.recordRingReadIndexWrite func ctx value) := of_none rfl
theorem heldRecordWrite (ctx : Nat) : Statement (.heldRecordWrite ctx) := of_none rfl
theorem atsInvalidation (func : Nat) (pasid : BitVec 20) (va : W64) (pages : Nat) : Statement (.atsInvalidation func pasid va pages) := of_none rfl
theorem atsInvalidationCompletion : Statement (.atsInvalidationCompletion) := of_none rfl
theorem prgResponse (entry : Nat) (code : PrgCode) : Statement (.prgResponse entry code) := of_none rfl
theorem priTimeout (entry : Nat) : Statement (.priTimeout entry) := of_none rfl
theorem qwinWrite (func : Nat) (queue : Nat) (value : W32) : Statement (.qwinWrite func queue value) := of_none rfl
theorem queueCreate (func : Nat) (queue : Nat) (value : W32) : Statement (.queueCreate func queue value) := of_none rfl
theorem queueDestroy (func : Nat) (queue : Nat) (value : W32) : Statement (.queueDestroy func queue value) := of_none rfl
theorem queueStop (func : Nat) (queue : Nat) (value : W32) : Statement (.queueStop func queue value) := of_none rfl
theorem queueAbort (func : Nat) (queue : Nat) (value : W32) : Statement (.queueAbort func queue value) := of_none rfl
theorem queueResume (func : Nat) (queue : Nat) (value : W32) : Statement (.queueResume func queue value) := of_none rfl
theorem recordFetch (queue : Nat) : Statement (.recordFetch queue) := of_none rfl
theorem recordFetchComplete (queue : Nat) : Statement (.recordFetchComplete queue) := of_none rfl
theorem recordStart (queue : Nat) : Statement (.recordStart queue) := of_none rfl
theorem waitAddressPoll (queue : Nat) : Statement (.waitAddressPoll queue) := of_none rfl
theorem recordCompletionActions (queue : Nat) : Statement (.recordCompletionActions queue) := of_none rfl
theorem flrVf (vf : Nat) : Statement (.flrVf vf) := of_none rfl
theorem flrPf : Statement (.flrPf) := of_none rfl
theorem flrQueueDestroy (queue : Nat) : Statement (.flrQueueDestroy queue) := of_none rfl
theorem gridStart (queue : Nat) : Statement (.gridStart queue) := of_none rfl
theorem gridReady (grid : Nat) : Statement (.gridReady grid) := of_none rfl
theorem budgetPeriodBoundary : Statement (.budgetPeriodBoundary) := of_none rfl
theorem accountCharge (index : Nat) : Statement (.accountCharge index) := of_none rfl
theorem placementDecision : Statement (.placementDecision) := of_none rfl
theorem placementReservation : Statement (.placementReservation) := of_none rfl
theorem groupReady (core : Nat) (slot : Nat) : Statement (.groupReady core slot) := of_none rfl
theorem registerRelease (core : Nat) (slot : Nat) : Statement (.registerRelease core slot) := of_none rfl
theorem teamRetire (team : Nat) : Statement (.teamRetire team) := of_none rfl
theorem parkEligible (team : Nat) : Statement (.parkEligible team) := of_none rfl
theorem plazaParkArm (team : Nat) : Statement (.plazaParkArm team) := of_none rfl
theorem parkGo (team : Nat) : Statement (.parkGo team) := of_none rfl
theorem parkSpillDone (team : Nat) : Statement (.parkSpillDone team) := of_none rfl
theorem dsuspSet (value : W64) : Statement (.dsuspSet value) := of_none rfl
theorem dsuspClear (value : W64) : Statement (.dsuspClear value) := of_none rfl
theorem preemption (team : Nat) : Statement (.preemption team) := of_none rfl
theorem preemptionSpillDone (team : Nat) : Statement (.preemptionSpillDone team) := of_none rfl
theorem chipletFenceNotice (team : Nat) : Statement (.chipletFenceNotice team) := of_none rfl
theorem elevatorPacket (message : Nat) (check : PortCheck) : Statement (.elevatorPacket message check) := of_none rfl
theorem elevatorRetireComplete (port : Nat) : Statement (.elevatorRetireComplete port) := of_none rfl
theorem cutOffChipletReset (run : ChipletRun) : Statement (.cutOffChipletReset run) := of_none rfl
theorem avenueTokenGrant (toSlice : Bool) (channel : Nat) (station : Nat) : Statement (.avenueTokenGrant toSlice channel station) := of_none rfl
theorem pinTableWrite (off : Nat) (width : Nat) (value : W64) : Statement (.pinTableWrite off width value) := of_none rfl
theorem pinMoveDone : Statement (.pinMoveDone) := of_none rfl
theorem readRequest (delivery : Delivery) : Statement (.readRequest delivery) := of_none rfl
theorem writeRequest (message : Nat) : Statement (.writeRequest message) := of_none rfl
theorem writeCompletion (message : Nat) : Statement (.writeCompletion message) := of_none rfl
theorem writeThrough (message : Nat) : Statement (.writeThrough message) := of_none rfl
theorem writeThroughAck (message : Nat) : Statement (.writeThroughAck message) := of_none rfl
theorem tokenRecall (message : Nat) : Statement (.tokenRecall message) := of_none rfl
theorem tokack (message : Nat) : Statement (.tokack message) := of_none rfl
theorem tokret (message : Nat) : Statement (.tokret message) := of_none rfl
theorem gone (message : Nat) : Statement (.gone message) := of_none rfl
theorem inv (message : Nat) : Statement (.inv message) := of_none rfl
theorem invAck (message : Nat) : Statement (.invAck message) := of_none rfl
theorem lineFree (line : Nat) : Statement (.lineFree line) := of_none rfl
theorem dramReadReturn (read : LineRead) : Statement (.dramReadReturn read) := of_none rfl
theorem dramWriteAck (slice : Nat) : Statement (.dramWriteAck slice) := of_none rfl
theorem patrolScrub (scrub : Scrub) : Statement (.patrolScrub scrub) := of_none rfl
theorem badLineClear (slice : Nat) (entry : Nat) : Statement (.badLineClear slice entry) := of_none rfl
theorem copyChunk (engine : Nat) : Statement (.copyChunk engine) := of_none rfl
theorem engineOperationComplete (operation : Nat) : Statement (.engineOperationComplete operation) := of_none rfl
theorem junctionArrival (coll : Nat) (pos : Nat) : Statement (.junctionArrival coll pos) := of_none rfl
theorem partialParkTimeout (coll : Nat) (level : Nat) (index : Nat) : Statement (.partialParkTimeout coll level index) := of_none rfl
theorem roundaboutTimeout (coll : Nat) : Statement (.roundaboutTimeout coll) := of_none rfl
theorem collectiveNameExpiry (coll : Nat) : Statement (.collectiveNameExpiry coll) := of_none rfl
theorem cmtReq (message : Nat) : Statement (.cmtReq message) := of_none rfl
theorem cmtMark (message : Nat) : Statement (.cmtMark message) := of_none rfl
theorem cmtAck (message : Nat) : Statement (.cmtAck message) := of_none rfl
theorem mergeDone (message : Nat) : Statement (.mergeDone message) := of_none rfl
theorem versionLineWrite (delivery : Delivery) : Statement (.versionLineWrite delivery) := of_none rfl
theorem versionOverflowTrap (core : Nat) (slot : Nat) : Statement (.versionOverflowTrap core slot) := of_none rfl
theorem discardRequest (slot : Nat) : Statement (.discardRequest slot) := of_none rfl
theorem discardComplete (slot : Nat) : Statement (.discardComplete slot) := of_none rfl
theorem icacheFill (core : Nat) (slot : Nat) (entry : Nat) : Statement (.icacheFill core slot entry) := of_none rfl
theorem switchMarkerRelease (core : Nat) (slot : Nat) : Statement (.switchMarkerRelease core slot) := of_none rfl
theorem loadDataReturn (access : Nat) : Statement (.loadDataReturn access) := of_none rfl
theorem chipletArrayUncorrectable (core : Nat) (slot : Nat) : Statement (.chipletArrayUncorrectable core slot) := of_none rfl
theorem yieldWaitEnd (core : Nat) (slot : Nat) (entry : Nat) : Statement (.yieldWaitEnd core slot entry) := of_none rfl
theorem matrixAccept (core : Nat) : Statement (.matrixAccept core) := of_none rfl
theorem tileComplete (operation : Nat) : Statement (.tileComplete operation) := of_none rfl
theorem epiStart (core : Nat) : Statement (.epiStart core) := of_none rfl
theorem pageWalk (p : WalkStep) : Statement (.pageWalk p) := of_none rfl
theorem dfrespServiced (func : Nat) (ctx : Nat) (value : W32) : Statement (.dfrespServiced func ctx value) := of_none rfl
theorem dfrespRefused (func : Nat) (ctx : Nat) (value : W32) : Statement (.dfrespRefused func ctx value) := of_none rfl
theorem dftTimeout (entry : Nat) : Statement (.dftTimeout entry) := of_none rfl
theorem tlbInvalidate (func : Nat) (ctx : Nat) (value : W32) : Statement (.tlbInvalidate func ctx value) := of_none rfl
theorem tlbInvalidateDone (ctx : Nat) : Statement (.tlbInvalidateDone ctx) := of_none rfl
theorem debugHalt (func : Nat) (ctx : Nat) (value : W32) : Statement (.debugHalt func ctx value) := of_none rfl
theorem debugSnapshotDone (ctx : Nat) : Statement (.debugSnapshotDone ctx) := of_none rfl
theorem debugRelease (func : Nat) (ctx : Nat) (value : W32) : Statement (.debugRelease func ctx value) := of_none rfl
theorem barrierRelease (team : Nat) : Statement (.barrierRelease team) := of_none rfl
theorem districtArrival (message : Nat) : Statement (.districtArrival message) := of_none rfl
theorem gridArrival (message : Nat) : Statement (.gridArrival message) := of_none rfl
theorem eventFiring (core : Nat) (slot : Nat) (index : Nat) : Statement (.eventFiring core slot index) := of_none rfl
theorem timerDeadline (core : Nat) (slot : Nat) (index : Nat) : Statement (.timerDeadline core slot index) := of_none rfl
theorem flagSet (message : Nat) : Statement (.flagSet message) := of_none rfl
theorem mailboxMessageArrival (message : Nat) : Statement (.mailboxMessageArrival message) := of_none rfl
theorem xshfMatch (core : Nat) (slot : Nat) : Statement (.xshfMatch core slot) := of_none rfl
theorem xshfTimeout (core : Nat) (slot : Nat) : Statement (.xshfTimeout core slot) := of_none rfl
theorem trigTaken (team : Nat) : Statement (.trigTaken team) := of_none rfl
theorem trigEffect (team : Nat) : Statement (.trigEffect team) := of_none rfl
theorem launchAppend (message : Nat) : Statement (.launchAppend message) := of_none rfl
theorem atsTranslationCompletion (index : Nat) (ok : Bool) (w : Bool) (x : Bool) (pa : Nat) : Statement (.atsTranslationCompletion index ok w x pa) := of_none rfl
theorem priStoppedClear (func : Nat) : Statement (.priStoppedClear func) := of_none rfl
theorem eventCounterWrap (block : Nat) (k : Nat) : Statement (.eventCounterWrap block k) := of_none rfl

end Sys2Proof.Laws.Encoding
end

