-- ==== Sys2Proof/Laws/State.lean ====
section
/-! SUPPORT. Laws of the updates of State: an update of one table leaves every other field as it was, and what is read after it. -/
namespace Sys2Proof.Machine

/-! ## setSlice -/

@[simp] theorem setSlice_time (s : State) (n : Nat) (x : Slice) : (s.setSlice n x).time = s.time := rfl
@[simp] theorem setSlice_sched (s : State) (n : Nat) (x : Slice) : (s.setSlice n x).sched = s.sched := rfl
@[simp] theorem setSlice_cur (s : State) (n : Nat) (x : Slice) : (s.setSlice n x).cur = s.cur := rfl
@[simp] theorem setSlice_uni (s : State) (n : Nat) (x : Slice) : (s.setSlice n x).uni = s.uni := rfl
@[simp] theorem setSlice_free (s : State) (n : Nat) (x : Slice) : (s.setSlice n x).free = s.free := rfl
@[simp] theorem setSlice_ids (s : State) (n : Nat) (x : Slice) : (s.setSlice n x).ids = s.ids := rfl
@[simp] theorem setSlice_readers (s : State) (n : Nat) (x : Slice) : (s.setSlice n x).readers = s.readers := rfl
@[simp] theorem setSlice_stage (s : State) (n : Nat) (x : Slice) : (s.setSlice n x).stage = s.stage := rfl
@[simp] theorem setSlice_boot (s : State) (n : Nat) (x : Slice) : (s.setSlice n x).boot = s.boot := rfl
@[simp] theorem setSlice_power (s : State) (n : Nat) (x : Slice) : (s.setSlice n x).power = s.power := rfl
@[simp] theorem setSlice_clusters (s : State) (n : Nat) (x : Slice) : (s.setSlice n x).clusters = s.clusters := rfl
@[simp] theorem setSlice_governor (s : State) (n : Nat) (x : Slice) : (s.setSlice n x).governor = s.governor := rfl
@[simp] theorem setSlice_counters (s : State) (n : Nat) (x : Slice) : (s.setSlice n x).counters = s.counters := rfl
@[simp] theorem setSlice_mem (s : State) (n : Nat) (x : Slice) : (s.setSlice n x).mem = s.mem := rfl
@[simp] theorem setSlice_poison (s : State) (n : Nat) (x : Slice) : (s.setSlice n x).poison = s.poison := rfl
@[simp] theorem setSlice_cores (s : State) (n : Nat) (x : Slice) : (s.setSlice n x).cores = s.cores := rfl
@[simp] theorem setSlice_groups (s : State) (n : Nat) (x : Slice) : (s.setSlice n x).groups = s.groups := rfl
@[simp] theorem setSlice_withheld (s : State) (n : Nat) (x : Slice) : (s.setSlice n x).withheld = s.withheld := rfl
@[simp] theorem setSlice_teams (s : State) (n : Nat) (x : Slice) : (s.setSlice n x).teams = s.teams := rfl
@[simp] theorem setSlice_grids (s : State) (n : Nat) (x : Slice) : (s.setSlice n x).grids = s.grids := rfl
@[simp] theorem setSlice_districts (s : State) (n : Nat) (x : Slice) : (s.setSlice n x).districts = s.districts := rfl
@[simp] theorem setSlice_dist (s : State) (n : Nat) (x : Slice) : (s.setSlice n x).dist = s.dist := rfl
@[simp] theorem setSlice_accounts (s : State) (n : Nat) (x : Slice) : (s.setSlice n x).accounts = s.accounts := rfl
@[simp] theorem setSlice_parkAreas (s : State) (n : Nat) (x : Slice) : (s.setSlice n x).parkAreas = s.parkAreas := rfl
@[simp] theorem setSlice_tasks (s : State) (n : Nat) (x : Slice) : (s.setSlice n x).tasks = s.tasks := rfl
@[simp] theorem setSlice_accs (s : State) (n : Nat) (x : Slice) : (s.setSlice n x).accs = s.accs := rfl
@[simp] theorem setSlice_msgs (s : State) (n : Nat) (x : Slice) : (s.setSlice n x).msgs = s.msgs := rfl
@[simp] theorem setSlice_flows (s : State) (n : Nat) (x : Slice) : (s.setSlice n x).flows = s.flows := rfl
@[simp] theorem setSlice_avenue (s : State) (n : Nat) (x : Slice) : (s.setSlice n x).avenue = s.avenue := rfl
@[simp] theorem setSlice_mesh (s : State) (n : Nat) (x : Slice) : (s.setSlice n x).mesh = s.mesh := rfl
@[simp] theorem setSlice_controllers (s : State) (n : Nat) (x : Slice) : (s.setSlice n x).controllers = s.controllers := rfl
@[simp] theorem setSlice_walks (s : State) (n : Nat) (x : Slice) : (s.setSlice n x).walks = s.walks := rfl
@[simp] theorem setSlice_walkCache (s : State) (n : Nat) (x : Slice) : (s.setSlice n x).walkCache = s.walkCache := rfl
@[simp] theorem setSlice_dft (s : State) (n : Nat) (x : Slice) : (s.setSlice n x).dft = s.dft := rfl
@[simp] theorem setSlice_dftWait (s : State) (n : Nat) (x : Slice) : (s.setSlice n x).dftWait = s.dftWait := rfl
@[simp] theorem setSlice_contexts (s : State) (n : Nat) (x : Slice) : (s.setSlice n x).contexts = s.contexts := rfl
@[simp] theorem setSlice_queues (s : State) (n : Nat) (x : Slice) : (s.setSlice n x).queues = s.queues := rfl
@[simp] theorem setSlice_host (s : State) (n : Nat) (x : Slice) : (s.setSlice n x).host = s.host := rfl
@[simp] theorem setSlice_pins (s : State) (n : Nat) (x : Slice) : (s.setSlice n x).pins = s.pins := rfl
@[simp] theorem setSlice_pinBusy (s : State) (n : Nat) (x : Slice) : (s.setSlice n x).pinBusy = s.pinBusy := rfl
@[simp] theorem setSlice_pinErr (s : State) (n : Nat) (x : Slice) : (s.setSlice n x).pinErr = s.pinErr := rfl
@[simp] theorem setSlice_pinMove (s : State) (n : Nat) (x : Slice) : (s.setSlice n x).pinMove = s.pinMove := rfl
@[simp] theorem setSlice_needs (s : State) (n : Nat) (x : Slice) : (s.setSlice n x).needs = s.needs := rfl
@[simp] theorem setSlice_engines (s : State) (n : Nat) (x : Slice) : (s.setSlice n x).engines = s.engines := rfl
@[simp] theorem setSlice_ops (s : State) (n : Nat) (x : Slice) : (s.setSlice n x).ops = s.ops := rfl
@[simp] theorem setSlice_colls (s : State) (n : Nat) (x : Slice) : (s.setSlice n x).colls = s.colls := rfl
@[simp] theorem setSlice_peer (s : State) (n : Nat) (x : Slice) : (s.setSlice n x).peer = s.peer := rfl
@[simp] theorem setSlice_slices (s : State) (n : Nat) (x : Slice) : (s.setSlice n x).slices = tset s.slices n x := rfl
@[simp] theorem setSlice_slice_self (s : State) (n : Nat) (x : Slice) : (s.setSlice n x).slice n = x := tgetD_tset_self ..
theorem setSlice_slice_of_ne (s : State) {n m : Nat} (x : Slice) (h : m ≠ n) : (s.setSlice n x).slice m = s.slice m := tgetD_tset_of_ne _ _ _ h

/-! ## setCluster -/

@[simp] theorem setCluster_time (s : State) (n : Nat) (x : Cluster) : (s.setCluster n x).time = s.time := rfl
@[simp] theorem setCluster_sched (s : State) (n : Nat) (x : Cluster) : (s.setCluster n x).sched = s.sched := rfl
@[simp] theorem setCluster_cur (s : State) (n : Nat) (x : Cluster) : (s.setCluster n x).cur = s.cur := rfl
@[simp] theorem setCluster_uni (s : State) (n : Nat) (x : Cluster) : (s.setCluster n x).uni = s.uni := rfl
@[simp] theorem setCluster_free (s : State) (n : Nat) (x : Cluster) : (s.setCluster n x).free = s.free := rfl
@[simp] theorem setCluster_ids (s : State) (n : Nat) (x : Cluster) : (s.setCluster n x).ids = s.ids := rfl
@[simp] theorem setCluster_readers (s : State) (n : Nat) (x : Cluster) : (s.setCluster n x).readers = s.readers := rfl
@[simp] theorem setCluster_stage (s : State) (n : Nat) (x : Cluster) : (s.setCluster n x).stage = s.stage := rfl
@[simp] theorem setCluster_boot (s : State) (n : Nat) (x : Cluster) : (s.setCluster n x).boot = s.boot := rfl
@[simp] theorem setCluster_power (s : State) (n : Nat) (x : Cluster) : (s.setCluster n x).power = s.power := rfl
@[simp] theorem setCluster_governor (s : State) (n : Nat) (x : Cluster) : (s.setCluster n x).governor = s.governor := rfl
@[simp] theorem setCluster_counters (s : State) (n : Nat) (x : Cluster) : (s.setCluster n x).counters = s.counters := rfl
@[simp] theorem setCluster_mem (s : State) (n : Nat) (x : Cluster) : (s.setCluster n x).mem = s.mem := rfl
@[simp] theorem setCluster_poison (s : State) (n : Nat) (x : Cluster) : (s.setCluster n x).poison = s.poison := rfl
@[simp] theorem setCluster_slices (s : State) (n : Nat) (x : Cluster) : (s.setCluster n x).slices = s.slices := rfl
@[simp] theorem setCluster_cores (s : State) (n : Nat) (x : Cluster) : (s.setCluster n x).cores = s.cores := rfl
@[simp] theorem setCluster_groups (s : State) (n : Nat) (x : Cluster) : (s.setCluster n x).groups = s.groups := rfl
@[simp] theorem setCluster_withheld (s : State) (n : Nat) (x : Cluster) : (s.setCluster n x).withheld = s.withheld := rfl
@[simp] theorem setCluster_teams (s : State) (n : Nat) (x : Cluster) : (s.setCluster n x).teams = s.teams := rfl
@[simp] theorem setCluster_grids (s : State) (n : Nat) (x : Cluster) : (s.setCluster n x).grids = s.grids := rfl
@[simp] theorem setCluster_districts (s : State) (n : Nat) (x : Cluster) : (s.setCluster n x).districts = s.districts := rfl
@[simp] theorem setCluster_dist (s : State) (n : Nat) (x : Cluster) : (s.setCluster n x).dist = s.dist := rfl
@[simp] theorem setCluster_accounts (s : State) (n : Nat) (x : Cluster) : (s.setCluster n x).accounts = s.accounts := rfl
@[simp] theorem setCluster_parkAreas (s : State) (n : Nat) (x : Cluster) : (s.setCluster n x).parkAreas = s.parkAreas := rfl
@[simp] theorem setCluster_tasks (s : State) (n : Nat) (x : Cluster) : (s.setCluster n x).tasks = s.tasks := rfl
@[simp] theorem setCluster_accs (s : State) (n : Nat) (x : Cluster) : (s.setCluster n x).accs = s.accs := rfl
@[simp] theorem setCluster_msgs (s : State) (n : Nat) (x : Cluster) : (s.setCluster n x).msgs = s.msgs := rfl
@[simp] theorem setCluster_flows (s : State) (n : Nat) (x : Cluster) : (s.setCluster n x).flows = s.flows := rfl
@[simp] theorem setCluster_avenue (s : State) (n : Nat) (x : Cluster) : (s.setCluster n x).avenue = s.avenue := rfl
@[simp] theorem setCluster_mesh (s : State) (n : Nat) (x : Cluster) : (s.setCluster n x).mesh = s.mesh := rfl
@[simp] theorem setCluster_controllers (s : State) (n : Nat) (x : Cluster) : (s.setCluster n x).controllers = s.controllers := rfl
@[simp] theorem setCluster_walks (s : State) (n : Nat) (x : Cluster) : (s.setCluster n x).walks = s.walks := rfl
@[simp] theorem setCluster_walkCache (s : State) (n : Nat) (x : Cluster) : (s.setCluster n x).walkCache = s.walkCache := rfl
@[simp] theorem setCluster_dft (s : State) (n : Nat) (x : Cluster) : (s.setCluster n x).dft = s.dft := rfl
@[simp] theorem setCluster_dftWait (s : State) (n : Nat) (x : Cluster) : (s.setCluster n x).dftWait = s.dftWait := rfl
@[simp] theorem setCluster_contexts (s : State) (n : Nat) (x : Cluster) : (s.setCluster n x).contexts = s.contexts := rfl
@[simp] theorem setCluster_queues (s : State) (n : Nat) (x : Cluster) : (s.setCluster n x).queues = s.queues := rfl
@[simp] theorem setCluster_host (s : State) (n : Nat) (x : Cluster) : (s.setCluster n x).host = s.host := rfl
@[simp] theorem setCluster_pins (s : State) (n : Nat) (x : Cluster) : (s.setCluster n x).pins = s.pins := rfl
@[simp] theorem setCluster_pinBusy (s : State) (n : Nat) (x : Cluster) : (s.setCluster n x).pinBusy = s.pinBusy := rfl
@[simp] theorem setCluster_pinErr (s : State) (n : Nat) (x : Cluster) : (s.setCluster n x).pinErr = s.pinErr := rfl
@[simp] theorem setCluster_pinMove (s : State) (n : Nat) (x : Cluster) : (s.setCluster n x).pinMove = s.pinMove := rfl
@[simp] theorem setCluster_needs (s : State) (n : Nat) (x : Cluster) : (s.setCluster n x).needs = s.needs := rfl
@[simp] theorem setCluster_engines (s : State) (n : Nat) (x : Cluster) : (s.setCluster n x).engines = s.engines := rfl
@[simp] theorem setCluster_ops (s : State) (n : Nat) (x : Cluster) : (s.setCluster n x).ops = s.ops := rfl
@[simp] theorem setCluster_colls (s : State) (n : Nat) (x : Cluster) : (s.setCluster n x).colls = s.colls := rfl
@[simp] theorem setCluster_peer (s : State) (n : Nat) (x : Cluster) : (s.setCluster n x).peer = s.peer := rfl
@[simp] theorem setCluster_clusters (s : State) (n : Nat) (x : Cluster) : (s.setCluster n x).clusters = tset s.clusters n x := rfl
@[simp] theorem setCluster_cluster_self (s : State) (n : Nat) (x : Cluster) : (s.setCluster n x).cluster n = x := tgetD_tset_self ..
theorem setCluster_cluster_of_ne (s : State) {n m : Nat} (x : Cluster) (h : m ≠ n) : (s.setCluster n x).cluster m = s.cluster m := tgetD_tset_of_ne _ _ _ h

/-! ## setCore -/

@[simp] theorem setCore_time (s : State) (n : Nat) (x : Core) : (s.setCore n x).time = s.time := rfl
@[simp] theorem setCore_sched (s : State) (n : Nat) (x : Core) : (s.setCore n x).sched = s.sched := rfl
@[simp] theorem setCore_cur (s : State) (n : Nat) (x : Core) : (s.setCore n x).cur = s.cur := rfl
@[simp] theorem setCore_uni (s : State) (n : Nat) (x : Core) : (s.setCore n x).uni = s.uni := rfl
@[simp] theorem setCore_free (s : State) (n : Nat) (x : Core) : (s.setCore n x).free = s.free := rfl
@[simp] theorem setCore_ids (s : State) (n : Nat) (x : Core) : (s.setCore n x).ids = s.ids := rfl
@[simp] theorem setCore_readers (s : State) (n : Nat) (x : Core) : (s.setCore n x).readers = s.readers := rfl
@[simp] theorem setCore_stage (s : State) (n : Nat) (x : Core) : (s.setCore n x).stage = s.stage := rfl
@[simp] theorem setCore_boot (s : State) (n : Nat) (x : Core) : (s.setCore n x).boot = s.boot := rfl
@[simp] theorem setCore_power (s : State) (n : Nat) (x : Core) : (s.setCore n x).power = s.power := rfl
@[simp] theorem setCore_clusters (s : State) (n : Nat) (x : Core) : (s.setCore n x).clusters = s.clusters := rfl
@[simp] theorem setCore_governor (s : State) (n : Nat) (x : Core) : (s.setCore n x).governor = s.governor := rfl
@[simp] theorem setCore_counters (s : State) (n : Nat) (x : Core) : (s.setCore n x).counters = s.counters := rfl
@[simp] theorem setCore_mem (s : State) (n : Nat) (x : Core) : (s.setCore n x).mem = s.mem := rfl
@[simp] theorem setCore_poison (s : State) (n : Nat) (x : Core) : (s.setCore n x).poison = s.poison := rfl
@[simp] theorem setCore_slices (s : State) (n : Nat) (x : Core) : (s.setCore n x).slices = s.slices := rfl
@[simp] theorem setCore_groups (s : State) (n : Nat) (x : Core) : (s.setCore n x).groups = s.groups := rfl
@[simp] theorem setCore_withheld (s : State) (n : Nat) (x : Core) : (s.setCore n x).withheld = s.withheld := rfl
@[simp] theorem setCore_teams (s : State) (n : Nat) (x : Core) : (s.setCore n x).teams = s.teams := rfl
@[simp] theorem setCore_grids (s : State) (n : Nat) (x : Core) : (s.setCore n x).grids = s.grids := rfl
@[simp] theorem setCore_districts (s : State) (n : Nat) (x : Core) : (s.setCore n x).districts = s.districts := rfl
@[simp] theorem setCore_dist (s : State) (n : Nat) (x : Core) : (s.setCore n x).dist = s.dist := rfl
@[simp] theorem setCore_accounts (s : State) (n : Nat) (x : Core) : (s.setCore n x).accounts = s.accounts := rfl
@[simp] theorem setCore_parkAreas (s : State) (n : Nat) (x : Core) : (s.setCore n x).parkAreas = s.parkAreas := rfl
@[simp] theorem setCore_tasks (s : State) (n : Nat) (x : Core) : (s.setCore n x).tasks = s.tasks := rfl
@[simp] theorem setCore_accs (s : State) (n : Nat) (x : Core) : (s.setCore n x).accs = s.accs := rfl
@[simp] theorem setCore_msgs (s : State) (n : Nat) (x : Core) : (s.setCore n x).msgs = s.msgs := rfl
@[simp] theorem setCore_flows (s : State) (n : Nat) (x : Core) : (s.setCore n x).flows = s.flows := rfl
@[simp] theorem setCore_avenue (s : State) (n : Nat) (x : Core) : (s.setCore n x).avenue = s.avenue := rfl
@[simp] theorem setCore_mesh (s : State) (n : Nat) (x : Core) : (s.setCore n x).mesh = s.mesh := rfl
@[simp] theorem setCore_controllers (s : State) (n : Nat) (x : Core) : (s.setCore n x).controllers = s.controllers := rfl
@[simp] theorem setCore_walks (s : State) (n : Nat) (x : Core) : (s.setCore n x).walks = s.walks := rfl
@[simp] theorem setCore_walkCache (s : State) (n : Nat) (x : Core) : (s.setCore n x).walkCache = s.walkCache := rfl
@[simp] theorem setCore_dft (s : State) (n : Nat) (x : Core) : (s.setCore n x).dft = s.dft := rfl
@[simp] theorem setCore_dftWait (s : State) (n : Nat) (x : Core) : (s.setCore n x).dftWait = s.dftWait := rfl
@[simp] theorem setCore_contexts (s : State) (n : Nat) (x : Core) : (s.setCore n x).contexts = s.contexts := rfl
@[simp] theorem setCore_queues (s : State) (n : Nat) (x : Core) : (s.setCore n x).queues = s.queues := rfl
@[simp] theorem setCore_host (s : State) (n : Nat) (x : Core) : (s.setCore n x).host = s.host := rfl
@[simp] theorem setCore_pins (s : State) (n : Nat) (x : Core) : (s.setCore n x).pins = s.pins := rfl
@[simp] theorem setCore_pinBusy (s : State) (n : Nat) (x : Core) : (s.setCore n x).pinBusy = s.pinBusy := rfl
@[simp] theorem setCore_pinErr (s : State) (n : Nat) (x : Core) : (s.setCore n x).pinErr = s.pinErr := rfl
@[simp] theorem setCore_pinMove (s : State) (n : Nat) (x : Core) : (s.setCore n x).pinMove = s.pinMove := rfl
@[simp] theorem setCore_needs (s : State) (n : Nat) (x : Core) : (s.setCore n x).needs = s.needs := rfl
@[simp] theorem setCore_engines (s : State) (n : Nat) (x : Core) : (s.setCore n x).engines = s.engines := rfl
@[simp] theorem setCore_ops (s : State) (n : Nat) (x : Core) : (s.setCore n x).ops = s.ops := rfl
@[simp] theorem setCore_colls (s : State) (n : Nat) (x : Core) : (s.setCore n x).colls = s.colls := rfl
@[simp] theorem setCore_peer (s : State) (n : Nat) (x : Core) : (s.setCore n x).peer = s.peer := rfl
@[simp] theorem setCore_cores (s : State) (n : Nat) (x : Core) : (s.setCore n x).cores = tset s.cores n x := rfl

/-! ## setTeam -/

@[simp] theorem setTeam_time (s : State) (n : Nat) (x : Team) : (s.setTeam n x).time = s.time := rfl
@[simp] theorem setTeam_sched (s : State) (n : Nat) (x : Team) : (s.setTeam n x).sched = s.sched := rfl
@[simp] theorem setTeam_cur (s : State) (n : Nat) (x : Team) : (s.setTeam n x).cur = s.cur := rfl
@[simp] theorem setTeam_uni (s : State) (n : Nat) (x : Team) : (s.setTeam n x).uni = s.uni := rfl
@[simp] theorem setTeam_free (s : State) (n : Nat) (x : Team) : (s.setTeam n x).free = s.free := rfl
@[simp] theorem setTeam_ids (s : State) (n : Nat) (x : Team) : (s.setTeam n x).ids = s.ids := rfl
@[simp] theorem setTeam_readers (s : State) (n : Nat) (x : Team) : (s.setTeam n x).readers = s.readers := rfl
@[simp] theorem setTeam_stage (s : State) (n : Nat) (x : Team) : (s.setTeam n x).stage = s.stage := rfl
@[simp] theorem setTeam_boot (s : State) (n : Nat) (x : Team) : (s.setTeam n x).boot = s.boot := rfl
@[simp] theorem setTeam_power (s : State) (n : Nat) (x : Team) : (s.setTeam n x).power = s.power := rfl
@[simp] theorem setTeam_clusters (s : State) (n : Nat) (x : Team) : (s.setTeam n x).clusters = s.clusters := rfl
@[simp] theorem setTeam_governor (s : State) (n : Nat) (x : Team) : (s.setTeam n x).governor = s.governor := rfl
@[simp] theorem setTeam_counters (s : State) (n : Nat) (x : Team) : (s.setTeam n x).counters = s.counters := rfl
@[simp] theorem setTeam_mem (s : State) (n : Nat) (x : Team) : (s.setTeam n x).mem = s.mem := rfl
@[simp] theorem setTeam_poison (s : State) (n : Nat) (x : Team) : (s.setTeam n x).poison = s.poison := rfl
@[simp] theorem setTeam_slices (s : State) (n : Nat) (x : Team) : (s.setTeam n x).slices = s.slices := rfl
@[simp] theorem setTeam_cores (s : State) (n : Nat) (x : Team) : (s.setTeam n x).cores = s.cores := rfl
@[simp] theorem setTeam_groups (s : State) (n : Nat) (x : Team) : (s.setTeam n x).groups = s.groups := rfl
@[simp] theorem setTeam_withheld (s : State) (n : Nat) (x : Team) : (s.setTeam n x).withheld = s.withheld := rfl
@[simp] theorem setTeam_grids (s : State) (n : Nat) (x : Team) : (s.setTeam n x).grids = s.grids := rfl
@[simp] theorem setTeam_districts (s : State) (n : Nat) (x : Team) : (s.setTeam n x).districts = s.districts := rfl
@[simp] theorem setTeam_dist (s : State) (n : Nat) (x : Team) : (s.setTeam n x).dist = s.dist := rfl
@[simp] theorem setTeam_accounts (s : State) (n : Nat) (x : Team) : (s.setTeam n x).accounts = s.accounts := rfl
@[simp] theorem setTeam_parkAreas (s : State) (n : Nat) (x : Team) : (s.setTeam n x).parkAreas = s.parkAreas := rfl
@[simp] theorem setTeam_tasks (s : State) (n : Nat) (x : Team) : (s.setTeam n x).tasks = s.tasks := rfl
@[simp] theorem setTeam_accs (s : State) (n : Nat) (x : Team) : (s.setTeam n x).accs = s.accs := rfl
@[simp] theorem setTeam_msgs (s : State) (n : Nat) (x : Team) : (s.setTeam n x).msgs = s.msgs := rfl
@[simp] theorem setTeam_flows (s : State) (n : Nat) (x : Team) : (s.setTeam n x).flows = s.flows := rfl
@[simp] theorem setTeam_avenue (s : State) (n : Nat) (x : Team) : (s.setTeam n x).avenue = s.avenue := rfl
@[simp] theorem setTeam_mesh (s : State) (n : Nat) (x : Team) : (s.setTeam n x).mesh = s.mesh := rfl
@[simp] theorem setTeam_controllers (s : State) (n : Nat) (x : Team) : (s.setTeam n x).controllers = s.controllers := rfl
@[simp] theorem setTeam_walks (s : State) (n : Nat) (x : Team) : (s.setTeam n x).walks = s.walks := rfl
@[simp] theorem setTeam_walkCache (s : State) (n : Nat) (x : Team) : (s.setTeam n x).walkCache = s.walkCache := rfl
@[simp] theorem setTeam_dft (s : State) (n : Nat) (x : Team) : (s.setTeam n x).dft = s.dft := rfl
@[simp] theorem setTeam_dftWait (s : State) (n : Nat) (x : Team) : (s.setTeam n x).dftWait = s.dftWait := rfl
@[simp] theorem setTeam_contexts (s : State) (n : Nat) (x : Team) : (s.setTeam n x).contexts = s.contexts := rfl
@[simp] theorem setTeam_queues (s : State) (n : Nat) (x : Team) : (s.setTeam n x).queues = s.queues := rfl
@[simp] theorem setTeam_host (s : State) (n : Nat) (x : Team) : (s.setTeam n x).host = s.host := rfl
@[simp] theorem setTeam_pins (s : State) (n : Nat) (x : Team) : (s.setTeam n x).pins = s.pins := rfl
@[simp] theorem setTeam_pinBusy (s : State) (n : Nat) (x : Team) : (s.setTeam n x).pinBusy = s.pinBusy := rfl
@[simp] theorem setTeam_pinErr (s : State) (n : Nat) (x : Team) : (s.setTeam n x).pinErr = s.pinErr := rfl
@[simp] theorem setTeam_pinMove (s : State) (n : Nat) (x : Team) : (s.setTeam n x).pinMove = s.pinMove := rfl
@[simp] theorem setTeam_needs (s : State) (n : Nat) (x : Team) : (s.setTeam n x).needs = s.needs := rfl
@[simp] theorem setTeam_engines (s : State) (n : Nat) (x : Team) : (s.setTeam n x).engines = s.engines := rfl
@[simp] theorem setTeam_ops (s : State) (n : Nat) (x : Team) : (s.setTeam n x).ops = s.ops := rfl
@[simp] theorem setTeam_colls (s : State) (n : Nat) (x : Team) : (s.setTeam n x).colls = s.colls := rfl
@[simp] theorem setTeam_peer (s : State) (n : Nat) (x : Team) : (s.setTeam n x).peer = s.peer := rfl
@[simp] theorem setTeam_teams (s : State) (n : Nat) (x : Team) : (s.setTeam n x).teams = tset s.teams n x := rfl
@[simp] theorem setTeam_teamAt_self (s : State) (n : Nat) (x : Team) : (s.setTeam n x).teamAt n = x := tgetD_tset_self ..
theorem setTeam_teamAt_of_ne (s : State) {n m : Nat} (x : Team) (h : m ≠ n) : (s.setTeam n x).teamAt m = s.teamAt m := tgetD_tset_of_ne _ _ _ h

/-! ## setGrid -/

@[simp] theorem setGrid_time (s : State) (n : Nat) (x : Grid) : (s.setGrid n x).time = s.time := rfl
@[simp] theorem setGrid_sched (s : State) (n : Nat) (x : Grid) : (s.setGrid n x).sched = s.sched := rfl
@[simp] theorem setGrid_cur (s : State) (n : Nat) (x : Grid) : (s.setGrid n x).cur = s.cur := rfl
@[simp] theorem setGrid_uni (s : State) (n : Nat) (x : Grid) : (s.setGrid n x).uni = s.uni := rfl
@[simp] theorem setGrid_free (s : State) (n : Nat) (x : Grid) : (s.setGrid n x).free = s.free := rfl
@[simp] theorem setGrid_ids (s : State) (n : Nat) (x : Grid) : (s.setGrid n x).ids = s.ids := rfl
@[simp] theorem setGrid_readers (s : State) (n : Nat) (x : Grid) : (s.setGrid n x).readers = s.readers := rfl
@[simp] theorem setGrid_stage (s : State) (n : Nat) (x : Grid) : (s.setGrid n x).stage = s.stage := rfl
@[simp] theorem setGrid_boot (s : State) (n : Nat) (x : Grid) : (s.setGrid n x).boot = s.boot := rfl
@[simp] theorem setGrid_power (s : State) (n : Nat) (x : Grid) : (s.setGrid n x).power = s.power := rfl
@[simp] theorem setGrid_clusters (s : State) (n : Nat) (x : Grid) : (s.setGrid n x).clusters = s.clusters := rfl
@[simp] theorem setGrid_governor (s : State) (n : Nat) (x : Grid) : (s.setGrid n x).governor = s.governor := rfl
@[simp] theorem setGrid_counters (s : State) (n : Nat) (x : Grid) : (s.setGrid n x).counters = s.counters := rfl
@[simp] theorem setGrid_mem (s : State) (n : Nat) (x : Grid) : (s.setGrid n x).mem = s.mem := rfl
@[simp] theorem setGrid_poison (s : State) (n : Nat) (x : Grid) : (s.setGrid n x).poison = s.poison := rfl
@[simp] theorem setGrid_slices (s : State) (n : Nat) (x : Grid) : (s.setGrid n x).slices = s.slices := rfl
@[simp] theorem setGrid_cores (s : State) (n : Nat) (x : Grid) : (s.setGrid n x).cores = s.cores := rfl
@[simp] theorem setGrid_groups (s : State) (n : Nat) (x : Grid) : (s.setGrid n x).groups = s.groups := rfl
@[simp] theorem setGrid_withheld (s : State) (n : Nat) (x : Grid) : (s.setGrid n x).withheld = s.withheld := rfl
@[simp] theorem setGrid_teams (s : State) (n : Nat) (x : Grid) : (s.setGrid n x).teams = s.teams := rfl
@[simp] theorem setGrid_districts (s : State) (n : Nat) (x : Grid) : (s.setGrid n x).districts = s.districts := rfl
@[simp] theorem setGrid_dist (s : State) (n : Nat) (x : Grid) : (s.setGrid n x).dist = s.dist := rfl
@[simp] theorem setGrid_accounts (s : State) (n : Nat) (x : Grid) : (s.setGrid n x).accounts = s.accounts := rfl
@[simp] theorem setGrid_parkAreas (s : State) (n : Nat) (x : Grid) : (s.setGrid n x).parkAreas = s.parkAreas := rfl
@[simp] theorem setGrid_tasks (s : State) (n : Nat) (x : Grid) : (s.setGrid n x).tasks = s.tasks := rfl
@[simp] theorem setGrid_accs (s : State) (n : Nat) (x : Grid) : (s.setGrid n x).accs = s.accs := rfl
@[simp] theorem setGrid_msgs (s : State) (n : Nat) (x : Grid) : (s.setGrid n x).msgs = s.msgs := rfl
@[simp] theorem setGrid_flows (s : State) (n : Nat) (x : Grid) : (s.setGrid n x).flows = s.flows := rfl
@[simp] theorem setGrid_avenue (s : State) (n : Nat) (x : Grid) : (s.setGrid n x).avenue = s.avenue := rfl
@[simp] theorem setGrid_mesh (s : State) (n : Nat) (x : Grid) : (s.setGrid n x).mesh = s.mesh := rfl
@[simp] theorem setGrid_controllers (s : State) (n : Nat) (x : Grid) : (s.setGrid n x).controllers = s.controllers := rfl
@[simp] theorem setGrid_walks (s : State) (n : Nat) (x : Grid) : (s.setGrid n x).walks = s.walks := rfl
@[simp] theorem setGrid_walkCache (s : State) (n : Nat) (x : Grid) : (s.setGrid n x).walkCache = s.walkCache := rfl
@[simp] theorem setGrid_dft (s : State) (n : Nat) (x : Grid) : (s.setGrid n x).dft = s.dft := rfl
@[simp] theorem setGrid_dftWait (s : State) (n : Nat) (x : Grid) : (s.setGrid n x).dftWait = s.dftWait := rfl
@[simp] theorem setGrid_contexts (s : State) (n : Nat) (x : Grid) : (s.setGrid n x).contexts = s.contexts := rfl
@[simp] theorem setGrid_queues (s : State) (n : Nat) (x : Grid) : (s.setGrid n x).queues = s.queues := rfl
@[simp] theorem setGrid_host (s : State) (n : Nat) (x : Grid) : (s.setGrid n x).host = s.host := rfl
@[simp] theorem setGrid_pins (s : State) (n : Nat) (x : Grid) : (s.setGrid n x).pins = s.pins := rfl
@[simp] theorem setGrid_pinBusy (s : State) (n : Nat) (x : Grid) : (s.setGrid n x).pinBusy = s.pinBusy := rfl
@[simp] theorem setGrid_pinErr (s : State) (n : Nat) (x : Grid) : (s.setGrid n x).pinErr = s.pinErr := rfl
@[simp] theorem setGrid_pinMove (s : State) (n : Nat) (x : Grid) : (s.setGrid n x).pinMove = s.pinMove := rfl
@[simp] theorem setGrid_needs (s : State) (n : Nat) (x : Grid) : (s.setGrid n x).needs = s.needs := rfl
@[simp] theorem setGrid_engines (s : State) (n : Nat) (x : Grid) : (s.setGrid n x).engines = s.engines := rfl
@[simp] theorem setGrid_ops (s : State) (n : Nat) (x : Grid) : (s.setGrid n x).ops = s.ops := rfl
@[simp] theorem setGrid_colls (s : State) (n : Nat) (x : Grid) : (s.setGrid n x).colls = s.colls := rfl
@[simp] theorem setGrid_peer (s : State) (n : Nat) (x : Grid) : (s.setGrid n x).peer = s.peer := rfl
@[simp] theorem setGrid_grids (s : State) (n : Nat) (x : Grid) : (s.setGrid n x).grids = tset s.grids n x := rfl
@[simp] theorem setGrid_gridAt_self (s : State) (n : Nat) (x : Grid) : (s.setGrid n x).gridAt n = x := tgetD_tset_self ..
theorem setGrid_gridAt_of_ne (s : State) {n m : Nat} (x : Grid) (h : m ≠ n) : (s.setGrid n x).gridAt m = s.gridAt m := tgetD_tset_of_ne _ _ _ h

/-! ## setTask -/

@[simp] theorem setTask_time (s : State) (n : Nat) (x : Task) : (s.setTask n x).time = s.time := rfl
@[simp] theorem setTask_sched (s : State) (n : Nat) (x : Task) : (s.setTask n x).sched = s.sched := rfl
@[simp] theorem setTask_cur (s : State) (n : Nat) (x : Task) : (s.setTask n x).cur = s.cur := rfl
@[simp] theorem setTask_uni (s : State) (n : Nat) (x : Task) : (s.setTask n x).uni = s.uni := rfl
@[simp] theorem setTask_free (s : State) (n : Nat) (x : Task) : (s.setTask n x).free = s.free := rfl
@[simp] theorem setTask_ids (s : State) (n : Nat) (x : Task) : (s.setTask n x).ids = s.ids := rfl
@[simp] theorem setTask_readers (s : State) (n : Nat) (x : Task) : (s.setTask n x).readers = s.readers := rfl
@[simp] theorem setTask_stage (s : State) (n : Nat) (x : Task) : (s.setTask n x).stage = s.stage := rfl
@[simp] theorem setTask_boot (s : State) (n : Nat) (x : Task) : (s.setTask n x).boot = s.boot := rfl
@[simp] theorem setTask_power (s : State) (n : Nat) (x : Task) : (s.setTask n x).power = s.power := rfl
@[simp] theorem setTask_clusters (s : State) (n : Nat) (x : Task) : (s.setTask n x).clusters = s.clusters := rfl
@[simp] theorem setTask_governor (s : State) (n : Nat) (x : Task) : (s.setTask n x).governor = s.governor := rfl
@[simp] theorem setTask_counters (s : State) (n : Nat) (x : Task) : (s.setTask n x).counters = s.counters := rfl
@[simp] theorem setTask_mem (s : State) (n : Nat) (x : Task) : (s.setTask n x).mem = s.mem := rfl
@[simp] theorem setTask_poison (s : State) (n : Nat) (x : Task) : (s.setTask n x).poison = s.poison := rfl
@[simp] theorem setTask_slices (s : State) (n : Nat) (x : Task) : (s.setTask n x).slices = s.slices := rfl
@[simp] theorem setTask_cores (s : State) (n : Nat) (x : Task) : (s.setTask n x).cores = s.cores := rfl
@[simp] theorem setTask_groups (s : State) (n : Nat) (x : Task) : (s.setTask n x).groups = s.groups := rfl
@[simp] theorem setTask_withheld (s : State) (n : Nat) (x : Task) : (s.setTask n x).withheld = s.withheld := rfl
@[simp] theorem setTask_teams (s : State) (n : Nat) (x : Task) : (s.setTask n x).teams = s.teams := rfl
@[simp] theorem setTask_grids (s : State) (n : Nat) (x : Task) : (s.setTask n x).grids = s.grids := rfl
@[simp] theorem setTask_districts (s : State) (n : Nat) (x : Task) : (s.setTask n x).districts = s.districts := rfl
@[simp] theorem setTask_dist (s : State) (n : Nat) (x : Task) : (s.setTask n x).dist = s.dist := rfl
@[simp] theorem setTask_accounts (s : State) (n : Nat) (x : Task) : (s.setTask n x).accounts = s.accounts := rfl
@[simp] theorem setTask_parkAreas (s : State) (n : Nat) (x : Task) : (s.setTask n x).parkAreas = s.parkAreas := rfl
@[simp] theorem setTask_accs (s : State) (n : Nat) (x : Task) : (s.setTask n x).accs = s.accs := rfl
@[simp] theorem setTask_msgs (s : State) (n : Nat) (x : Task) : (s.setTask n x).msgs = s.msgs := rfl
@[simp] theorem setTask_flows (s : State) (n : Nat) (x : Task) : (s.setTask n x).flows = s.flows := rfl
@[simp] theorem setTask_avenue (s : State) (n : Nat) (x : Task) : (s.setTask n x).avenue = s.avenue := rfl
@[simp] theorem setTask_mesh (s : State) (n : Nat) (x : Task) : (s.setTask n x).mesh = s.mesh := rfl
@[simp] theorem setTask_controllers (s : State) (n : Nat) (x : Task) : (s.setTask n x).controllers = s.controllers := rfl
@[simp] theorem setTask_walks (s : State) (n : Nat) (x : Task) : (s.setTask n x).walks = s.walks := rfl
@[simp] theorem setTask_walkCache (s : State) (n : Nat) (x : Task) : (s.setTask n x).walkCache = s.walkCache := rfl
@[simp] theorem setTask_dft (s : State) (n : Nat) (x : Task) : (s.setTask n x).dft = s.dft := rfl
@[simp] theorem setTask_dftWait (s : State) (n : Nat) (x : Task) : (s.setTask n x).dftWait = s.dftWait := rfl
@[simp] theorem setTask_contexts (s : State) (n : Nat) (x : Task) : (s.setTask n x).contexts = s.contexts := rfl
@[simp] theorem setTask_queues (s : State) (n : Nat) (x : Task) : (s.setTask n x).queues = s.queues := rfl
@[simp] theorem setTask_host (s : State) (n : Nat) (x : Task) : (s.setTask n x).host = s.host := rfl
@[simp] theorem setTask_pins (s : State) (n : Nat) (x : Task) : (s.setTask n x).pins = s.pins := rfl
@[simp] theorem setTask_pinBusy (s : State) (n : Nat) (x : Task) : (s.setTask n x).pinBusy = s.pinBusy := rfl
@[simp] theorem setTask_pinErr (s : State) (n : Nat) (x : Task) : (s.setTask n x).pinErr = s.pinErr := rfl
@[simp] theorem setTask_pinMove (s : State) (n : Nat) (x : Task) : (s.setTask n x).pinMove = s.pinMove := rfl
@[simp] theorem setTask_needs (s : State) (n : Nat) (x : Task) : (s.setTask n x).needs = s.needs := rfl
@[simp] theorem setTask_engines (s : State) (n : Nat) (x : Task) : (s.setTask n x).engines = s.engines := rfl
@[simp] theorem setTask_ops (s : State) (n : Nat) (x : Task) : (s.setTask n x).ops = s.ops := rfl
@[simp] theorem setTask_colls (s : State) (n : Nat) (x : Task) : (s.setTask n x).colls = s.colls := rfl
@[simp] theorem setTask_peer (s : State) (n : Nat) (x : Task) : (s.setTask n x).peer = s.peer := rfl
@[simp] theorem setTask_tasks (s : State) (n : Nat) (x : Task) : (s.setTask n x).tasks = tset s.tasks n x := rfl
@[simp] theorem setTask_taskAt_self (s : State) (n : Nat) (x : Task) : (s.setTask n x).taskAt n = x := tgetD_tset_self ..
theorem setTask_taskAt_of_ne (s : State) {n m : Nat} (x : Task) (h : m ≠ n) : (s.setTask n x).taskAt m = s.taskAt m := tgetD_tset_of_ne _ _ _ h

/-! ## setCtx -/

@[simp] theorem setCtx_time (s : State) (n : Nat) (x : Context) : (s.setCtx n x).time = s.time := rfl
@[simp] theorem setCtx_sched (s : State) (n : Nat) (x : Context) : (s.setCtx n x).sched = s.sched := rfl
@[simp] theorem setCtx_cur (s : State) (n : Nat) (x : Context) : (s.setCtx n x).cur = s.cur := rfl
@[simp] theorem setCtx_uni (s : State) (n : Nat) (x : Context) : (s.setCtx n x).uni = s.uni := rfl
@[simp] theorem setCtx_free (s : State) (n : Nat) (x : Context) : (s.setCtx n x).free = s.free := rfl
@[simp] theorem setCtx_ids (s : State) (n : Nat) (x : Context) : (s.setCtx n x).ids = s.ids := rfl
@[simp] theorem setCtx_readers (s : State) (n : Nat) (x : Context) : (s.setCtx n x).readers = s.readers := rfl
@[simp] theorem setCtx_stage (s : State) (n : Nat) (x : Context) : (s.setCtx n x).stage = s.stage := rfl
@[simp] theorem setCtx_boot (s : State) (n : Nat) (x : Context) : (s.setCtx n x).boot = s.boot := rfl
@[simp] theorem setCtx_power (s : State) (n : Nat) (x : Context) : (s.setCtx n x).power = s.power := rfl
@[simp] theorem setCtx_clusters (s : State) (n : Nat) (x : Context) : (s.setCtx n x).clusters = s.clusters := rfl
@[simp] theorem setCtx_governor (s : State) (n : Nat) (x : Context) : (s.setCtx n x).governor = s.governor := rfl
@[simp] theorem setCtx_counters (s : State) (n : Nat) (x : Context) : (s.setCtx n x).counters = s.counters := rfl
@[simp] theorem setCtx_mem (s : State) (n : Nat) (x : Context) : (s.setCtx n x).mem = s.mem := rfl
@[simp] theorem setCtx_poison (s : State) (n : Nat) (x : Context) : (s.setCtx n x).poison = s.poison := rfl
@[simp] theorem setCtx_slices (s : State) (n : Nat) (x : Context) : (s.setCtx n x).slices = s.slices := rfl
@[simp] theorem setCtx_cores (s : State) (n : Nat) (x : Context) : (s.setCtx n x).cores = s.cores := rfl
@[simp] theorem setCtx_groups (s : State) (n : Nat) (x : Context) : (s.setCtx n x).groups = s.groups := rfl
@[simp] theorem setCtx_withheld (s : State) (n : Nat) (x : Context) : (s.setCtx n x).withheld = s.withheld := rfl
@[simp] theorem setCtx_teams (s : State) (n : Nat) (x : Context) : (s.setCtx n x).teams = s.teams := rfl
@[simp] theorem setCtx_grids (s : State) (n : Nat) (x : Context) : (s.setCtx n x).grids = s.grids := rfl
@[simp] theorem setCtx_districts (s : State) (n : Nat) (x : Context) : (s.setCtx n x).districts = s.districts := rfl
@[simp] theorem setCtx_dist (s : State) (n : Nat) (x : Context) : (s.setCtx n x).dist = s.dist := rfl
@[simp] theorem setCtx_accounts (s : State) (n : Nat) (x : Context) : (s.setCtx n x).accounts = s.accounts := rfl
@[simp] theorem setCtx_parkAreas (s : State) (n : Nat) (x : Context) : (s.setCtx n x).parkAreas = s.parkAreas := rfl
@[simp] theorem setCtx_tasks (s : State) (n : Nat) (x : Context) : (s.setCtx n x).tasks = s.tasks := rfl
@[simp] theorem setCtx_accs (s : State) (n : Nat) (x : Context) : (s.setCtx n x).accs = s.accs := rfl
@[simp] theorem setCtx_msgs (s : State) (n : Nat) (x : Context) : (s.setCtx n x).msgs = s.msgs := rfl
@[simp] theorem setCtx_flows (s : State) (n : Nat) (x : Context) : (s.setCtx n x).flows = s.flows := rfl
@[simp] theorem setCtx_avenue (s : State) (n : Nat) (x : Context) : (s.setCtx n x).avenue = s.avenue := rfl
@[simp] theorem setCtx_mesh (s : State) (n : Nat) (x : Context) : (s.setCtx n x).mesh = s.mesh := rfl
@[simp] theorem setCtx_controllers (s : State) (n : Nat) (x : Context) : (s.setCtx n x).controllers = s.controllers := rfl
@[simp] theorem setCtx_walks (s : State) (n : Nat) (x : Context) : (s.setCtx n x).walks = s.walks := rfl
@[simp] theorem setCtx_walkCache (s : State) (n : Nat) (x : Context) : (s.setCtx n x).walkCache = s.walkCache := rfl
@[simp] theorem setCtx_dft (s : State) (n : Nat) (x : Context) : (s.setCtx n x).dft = s.dft := rfl
@[simp] theorem setCtx_dftWait (s : State) (n : Nat) (x : Context) : (s.setCtx n x).dftWait = s.dftWait := rfl
@[simp] theorem setCtx_queues (s : State) (n : Nat) (x : Context) : (s.setCtx n x).queues = s.queues := rfl
@[simp] theorem setCtx_host (s : State) (n : Nat) (x : Context) : (s.setCtx n x).host = s.host := rfl
@[simp] theorem setCtx_pins (s : State) (n : Nat) (x : Context) : (s.setCtx n x).pins = s.pins := rfl
@[simp] theorem setCtx_pinBusy (s : State) (n : Nat) (x : Context) : (s.setCtx n x).pinBusy = s.pinBusy := rfl
@[simp] theorem setCtx_pinErr (s : State) (n : Nat) (x : Context) : (s.setCtx n x).pinErr = s.pinErr := rfl
@[simp] theorem setCtx_pinMove (s : State) (n : Nat) (x : Context) : (s.setCtx n x).pinMove = s.pinMove := rfl
@[simp] theorem setCtx_needs (s : State) (n : Nat) (x : Context) : (s.setCtx n x).needs = s.needs := rfl
@[simp] theorem setCtx_engines (s : State) (n : Nat) (x : Context) : (s.setCtx n x).engines = s.engines := rfl
@[simp] theorem setCtx_ops (s : State) (n : Nat) (x : Context) : (s.setCtx n x).ops = s.ops := rfl
@[simp] theorem setCtx_colls (s : State) (n : Nat) (x : Context) : (s.setCtx n x).colls = s.colls := rfl
@[simp] theorem setCtx_peer (s : State) (n : Nat) (x : Context) : (s.setCtx n x).peer = s.peer := rfl
@[simp] theorem setCtx_contexts (s : State) (n : Nat) (x : Context) : (s.setCtx n x).contexts = tset s.contexts n x := rfl
@[simp] theorem setCtx_ctxAt_self (s : State) (n : Nat) (x : Context) : (s.setCtx n x).ctxAt n = x := tgetD_tset_self ..
theorem setCtx_ctxAt_of_ne (s : State) {n m : Nat} (x : Context) (h : m ≠ n) : (s.setCtx n x).ctxAt m = s.ctxAt m := tgetD_tset_of_ne _ _ _ h

/-! ## setQueue -/

@[simp] theorem setQueue_time (s : State) (n : Nat) (x : Queue) : (s.setQueue n x).time = s.time := rfl
@[simp] theorem setQueue_sched (s : State) (n : Nat) (x : Queue) : (s.setQueue n x).sched = s.sched := rfl
@[simp] theorem setQueue_cur (s : State) (n : Nat) (x : Queue) : (s.setQueue n x).cur = s.cur := rfl
@[simp] theorem setQueue_uni (s : State) (n : Nat) (x : Queue) : (s.setQueue n x).uni = s.uni := rfl
@[simp] theorem setQueue_free (s : State) (n : Nat) (x : Queue) : (s.setQueue n x).free = s.free := rfl
@[simp] theorem setQueue_ids (s : State) (n : Nat) (x : Queue) : (s.setQueue n x).ids = s.ids := rfl
@[simp] theorem setQueue_readers (s : State) (n : Nat) (x : Queue) : (s.setQueue n x).readers = s.readers := rfl
@[simp] theorem setQueue_stage (s : State) (n : Nat) (x : Queue) : (s.setQueue n x).stage = s.stage := rfl
@[simp] theorem setQueue_boot (s : State) (n : Nat) (x : Queue) : (s.setQueue n x).boot = s.boot := rfl
@[simp] theorem setQueue_power (s : State) (n : Nat) (x : Queue) : (s.setQueue n x).power = s.power := rfl
@[simp] theorem setQueue_clusters (s : State) (n : Nat) (x : Queue) : (s.setQueue n x).clusters = s.clusters := rfl
@[simp] theorem setQueue_governor (s : State) (n : Nat) (x : Queue) : (s.setQueue n x).governor = s.governor := rfl
@[simp] theorem setQueue_counters (s : State) (n : Nat) (x : Queue) : (s.setQueue n x).counters = s.counters := rfl
@[simp] theorem setQueue_mem (s : State) (n : Nat) (x : Queue) : (s.setQueue n x).mem = s.mem := rfl
@[simp] theorem setQueue_poison (s : State) (n : Nat) (x : Queue) : (s.setQueue n x).poison = s.poison := rfl
@[simp] theorem setQueue_slices (s : State) (n : Nat) (x : Queue) : (s.setQueue n x).slices = s.slices := rfl
@[simp] theorem setQueue_cores (s : State) (n : Nat) (x : Queue) : (s.setQueue n x).cores = s.cores := rfl
@[simp] theorem setQueue_groups (s : State) (n : Nat) (x : Queue) : (s.setQueue n x).groups = s.groups := rfl
@[simp] theorem setQueue_withheld (s : State) (n : Nat) (x : Queue) : (s.setQueue n x).withheld = s.withheld := rfl
@[simp] theorem setQueue_teams (s : State) (n : Nat) (x : Queue) : (s.setQueue n x).teams = s.teams := rfl
@[simp] theorem setQueue_grids (s : State) (n : Nat) (x : Queue) : (s.setQueue n x).grids = s.grids := rfl
@[simp] theorem setQueue_districts (s : State) (n : Nat) (x : Queue) : (s.setQueue n x).districts = s.districts := rfl
@[simp] theorem setQueue_dist (s : State) (n : Nat) (x : Queue) : (s.setQueue n x).dist = s.dist := rfl
@[simp] theorem setQueue_accounts (s : State) (n : Nat) (x : Queue) : (s.setQueue n x).accounts = s.accounts := rfl
@[simp] theorem setQueue_parkAreas (s : State) (n : Nat) (x : Queue) : (s.setQueue n x).parkAreas = s.parkAreas := rfl
@[simp] theorem setQueue_tasks (s : State) (n : Nat) (x : Queue) : (s.setQueue n x).tasks = s.tasks := rfl
@[simp] theorem setQueue_accs (s : State) (n : Nat) (x : Queue) : (s.setQueue n x).accs = s.accs := rfl
@[simp] theorem setQueue_msgs (s : State) (n : Nat) (x : Queue) : (s.setQueue n x).msgs = s.msgs := rfl
@[simp] theorem setQueue_flows (s : State) (n : Nat) (x : Queue) : (s.setQueue n x).flows = s.flows := rfl
@[simp] theorem setQueue_avenue (s : State) (n : Nat) (x : Queue) : (s.setQueue n x).avenue = s.avenue := rfl
@[simp] theorem setQueue_mesh (s : State) (n : Nat) (x : Queue) : (s.setQueue n x).mesh = s.mesh := rfl
@[simp] theorem setQueue_controllers (s : State) (n : Nat) (x : Queue) : (s.setQueue n x).controllers = s.controllers := rfl
@[simp] theorem setQueue_walks (s : State) (n : Nat) (x : Queue) : (s.setQueue n x).walks = s.walks := rfl
@[simp] theorem setQueue_walkCache (s : State) (n : Nat) (x : Queue) : (s.setQueue n x).walkCache = s.walkCache := rfl
@[simp] theorem setQueue_dft (s : State) (n : Nat) (x : Queue) : (s.setQueue n x).dft = s.dft := rfl
@[simp] theorem setQueue_dftWait (s : State) (n : Nat) (x : Queue) : (s.setQueue n x).dftWait = s.dftWait := rfl
@[simp] theorem setQueue_contexts (s : State) (n : Nat) (x : Queue) : (s.setQueue n x).contexts = s.contexts := rfl
@[simp] theorem setQueue_host (s : State) (n : Nat) (x : Queue) : (s.setQueue n x).host = s.host := rfl
@[simp] theorem setQueue_pins (s : State) (n : Nat) (x : Queue) : (s.setQueue n x).pins = s.pins := rfl
@[simp] theorem setQueue_pinBusy (s : State) (n : Nat) (x : Queue) : (s.setQueue n x).pinBusy = s.pinBusy := rfl
@[simp] theorem setQueue_pinErr (s : State) (n : Nat) (x : Queue) : (s.setQueue n x).pinErr = s.pinErr := rfl
@[simp] theorem setQueue_pinMove (s : State) (n : Nat) (x : Queue) : (s.setQueue n x).pinMove = s.pinMove := rfl
@[simp] theorem setQueue_needs (s : State) (n : Nat) (x : Queue) : (s.setQueue n x).needs = s.needs := rfl
@[simp] theorem setQueue_engines (s : State) (n : Nat) (x : Queue) : (s.setQueue n x).engines = s.engines := rfl
@[simp] theorem setQueue_ops (s : State) (n : Nat) (x : Queue) : (s.setQueue n x).ops = s.ops := rfl
@[simp] theorem setQueue_colls (s : State) (n : Nat) (x : Queue) : (s.setQueue n x).colls = s.colls := rfl
@[simp] theorem setQueue_peer (s : State) (n : Nat) (x : Queue) : (s.setQueue n x).peer = s.peer := rfl
@[simp] theorem setQueue_queues (s : State) (n : Nat) (x : Queue) : (s.setQueue n x).queues = tset s.queues n x := rfl
@[simp] theorem setQueue_queueAt_self (s : State) (n : Nat) (x : Queue) : (s.setQueue n x).queueAt n = x := tgetD_tset_self ..
theorem setQueue_queueAt_of_ne (s : State) {n m : Nat} (x : Queue) (h : m ≠ n) : (s.setQueue n x).queueAt m = s.queueAt m := tgetD_tset_of_ne _ _ _ h

/-! ## setColl -/

@[simp] theorem setColl_time (s : State) (n : Nat) (x : Coll) : (s.setColl n x).time = s.time := rfl
@[simp] theorem setColl_sched (s : State) (n : Nat) (x : Coll) : (s.setColl n x).sched = s.sched := rfl
@[simp] theorem setColl_cur (s : State) (n : Nat) (x : Coll) : (s.setColl n x).cur = s.cur := rfl
@[simp] theorem setColl_uni (s : State) (n : Nat) (x : Coll) : (s.setColl n x).uni = s.uni := rfl
@[simp] theorem setColl_free (s : State) (n : Nat) (x : Coll) : (s.setColl n x).free = s.free := rfl
@[simp] theorem setColl_ids (s : State) (n : Nat) (x : Coll) : (s.setColl n x).ids = s.ids := rfl
@[simp] theorem setColl_readers (s : State) (n : Nat) (x : Coll) : (s.setColl n x).readers = s.readers := rfl
@[simp] theorem setColl_stage (s : State) (n : Nat) (x : Coll) : (s.setColl n x).stage = s.stage := rfl
@[simp] theorem setColl_boot (s : State) (n : Nat) (x : Coll) : (s.setColl n x).boot = s.boot := rfl
@[simp] theorem setColl_power (s : State) (n : Nat) (x : Coll) : (s.setColl n x).power = s.power := rfl
@[simp] theorem setColl_clusters (s : State) (n : Nat) (x : Coll) : (s.setColl n x).clusters = s.clusters := rfl
@[simp] theorem setColl_governor (s : State) (n : Nat) (x : Coll) : (s.setColl n x).governor = s.governor := rfl
@[simp] theorem setColl_counters (s : State) (n : Nat) (x : Coll) : (s.setColl n x).counters = s.counters := rfl
@[simp] theorem setColl_mem (s : State) (n : Nat) (x : Coll) : (s.setColl n x).mem = s.mem := rfl
@[simp] theorem setColl_poison (s : State) (n : Nat) (x : Coll) : (s.setColl n x).poison = s.poison := rfl
@[simp] theorem setColl_slices (s : State) (n : Nat) (x : Coll) : (s.setColl n x).slices = s.slices := rfl
@[simp] theorem setColl_cores (s : State) (n : Nat) (x : Coll) : (s.setColl n x).cores = s.cores := rfl
@[simp] theorem setColl_groups (s : State) (n : Nat) (x : Coll) : (s.setColl n x).groups = s.groups := rfl
@[simp] theorem setColl_withheld (s : State) (n : Nat) (x : Coll) : (s.setColl n x).withheld = s.withheld := rfl
@[simp] theorem setColl_teams (s : State) (n : Nat) (x : Coll) : (s.setColl n x).teams = s.teams := rfl
@[simp] theorem setColl_grids (s : State) (n : Nat) (x : Coll) : (s.setColl n x).grids = s.grids := rfl
@[simp] theorem setColl_districts (s : State) (n : Nat) (x : Coll) : (s.setColl n x).districts = s.districts := rfl
@[simp] theorem setColl_dist (s : State) (n : Nat) (x : Coll) : (s.setColl n x).dist = s.dist := rfl
@[simp] theorem setColl_accounts (s : State) (n : Nat) (x : Coll) : (s.setColl n x).accounts = s.accounts := rfl
@[simp] theorem setColl_parkAreas (s : State) (n : Nat) (x : Coll) : (s.setColl n x).parkAreas = s.parkAreas := rfl
@[simp] theorem setColl_tasks (s : State) (n : Nat) (x : Coll) : (s.setColl n x).tasks = s.tasks := rfl
@[simp] theorem setColl_accs (s : State) (n : Nat) (x : Coll) : (s.setColl n x).accs = s.accs := rfl
@[simp] theorem setColl_msgs (s : State) (n : Nat) (x : Coll) : (s.setColl n x).msgs = s.msgs := rfl
@[simp] theorem setColl_flows (s : State) (n : Nat) (x : Coll) : (s.setColl n x).flows = s.flows := rfl
@[simp] theorem setColl_avenue (s : State) (n : Nat) (x : Coll) : (s.setColl n x).avenue = s.avenue := rfl
@[simp] theorem setColl_mesh (s : State) (n : Nat) (x : Coll) : (s.setColl n x).mesh = s.mesh := rfl
@[simp] theorem setColl_controllers (s : State) (n : Nat) (x : Coll) : (s.setColl n x).controllers = s.controllers := rfl
@[simp] theorem setColl_walks (s : State) (n : Nat) (x : Coll) : (s.setColl n x).walks = s.walks := rfl
@[simp] theorem setColl_walkCache (s : State) (n : Nat) (x : Coll) : (s.setColl n x).walkCache = s.walkCache := rfl
@[simp] theorem setColl_dft (s : State) (n : Nat) (x : Coll) : (s.setColl n x).dft = s.dft := rfl
@[simp] theorem setColl_dftWait (s : State) (n : Nat) (x : Coll) : (s.setColl n x).dftWait = s.dftWait := rfl
@[simp] theorem setColl_contexts (s : State) (n : Nat) (x : Coll) : (s.setColl n x).contexts = s.contexts := rfl
@[simp] theorem setColl_queues (s : State) (n : Nat) (x : Coll) : (s.setColl n x).queues = s.queues := rfl
@[simp] theorem setColl_host (s : State) (n : Nat) (x : Coll) : (s.setColl n x).host = s.host := rfl
@[simp] theorem setColl_pins (s : State) (n : Nat) (x : Coll) : (s.setColl n x).pins = s.pins := rfl
@[simp] theorem setColl_pinBusy (s : State) (n : Nat) (x : Coll) : (s.setColl n x).pinBusy = s.pinBusy := rfl
@[simp] theorem setColl_pinErr (s : State) (n : Nat) (x : Coll) : (s.setColl n x).pinErr = s.pinErr := rfl
@[simp] theorem setColl_pinMove (s : State) (n : Nat) (x : Coll) : (s.setColl n x).pinMove = s.pinMove := rfl
@[simp] theorem setColl_needs (s : State) (n : Nat) (x : Coll) : (s.setColl n x).needs = s.needs := rfl
@[simp] theorem setColl_engines (s : State) (n : Nat) (x : Coll) : (s.setColl n x).engines = s.engines := rfl
@[simp] theorem setColl_ops (s : State) (n : Nat) (x : Coll) : (s.setColl n x).ops = s.ops := rfl
@[simp] theorem setColl_peer (s : State) (n : Nat) (x : Coll) : (s.setColl n x).peer = s.peer := rfl
@[simp] theorem setColl_colls (s : State) (n : Nat) (x : Coll) : (s.setColl n x).colls = tset s.colls n x := rfl

/-! ## setGroup -/

@[simp] theorem setGroup_time (s : State) (core slot : Nat) (g : Group) : (s.setGroup core slot g).time = s.time := rfl
@[simp] theorem setGroup_sched (s : State) (core slot : Nat) (g : Group) : (s.setGroup core slot g).sched = s.sched := rfl
@[simp] theorem setGroup_cur (s : State) (core slot : Nat) (g : Group) : (s.setGroup core slot g).cur = s.cur := rfl
@[simp] theorem setGroup_uni (s : State) (core slot : Nat) (g : Group) : (s.setGroup core slot g).uni = s.uni := rfl
@[simp] theorem setGroup_free (s : State) (core slot : Nat) (g : Group) : (s.setGroup core slot g).free = s.free := rfl
@[simp] theorem setGroup_ids (s : State) (core slot : Nat) (g : Group) : (s.setGroup core slot g).ids = s.ids := rfl
@[simp] theorem setGroup_readers (s : State) (core slot : Nat) (g : Group) : (s.setGroup core slot g).readers = s.readers := rfl
@[simp] theorem setGroup_stage (s : State) (core slot : Nat) (g : Group) : (s.setGroup core slot g).stage = s.stage := rfl
@[simp] theorem setGroup_boot (s : State) (core slot : Nat) (g : Group) : (s.setGroup core slot g).boot = s.boot := rfl
@[simp] theorem setGroup_power (s : State) (core slot : Nat) (g : Group) : (s.setGroup core slot g).power = s.power := rfl
@[simp] theorem setGroup_clusters (s : State) (core slot : Nat) (g : Group) : (s.setGroup core slot g).clusters = s.clusters := rfl
@[simp] theorem setGroup_governor (s : State) (core slot : Nat) (g : Group) : (s.setGroup core slot g).governor = s.governor := rfl
@[simp] theorem setGroup_counters (s : State) (core slot : Nat) (g : Group) : (s.setGroup core slot g).counters = s.counters := rfl
@[simp] theorem setGroup_mem (s : State) (core slot : Nat) (g : Group) : (s.setGroup core slot g).mem = s.mem := rfl
@[simp] theorem setGroup_poison (s : State) (core slot : Nat) (g : Group) : (s.setGroup core slot g).poison = s.poison := rfl
@[simp] theorem setGroup_slices (s : State) (core slot : Nat) (g : Group) : (s.setGroup core slot g).slices = s.slices := rfl
@[simp] theorem setGroup_cores (s : State) (core slot : Nat) (g : Group) : (s.setGroup core slot g).cores = s.cores := rfl
@[simp] theorem setGroup_withheld (s : State) (core slot : Nat) (g : Group) : (s.setGroup core slot g).withheld = s.withheld := rfl
@[simp] theorem setGroup_teams (s : State) (core slot : Nat) (g : Group) : (s.setGroup core slot g).teams = s.teams := rfl
@[simp] theorem setGroup_grids (s : State) (core slot : Nat) (g : Group) : (s.setGroup core slot g).grids = s.grids := rfl
@[simp] theorem setGroup_districts (s : State) (core slot : Nat) (g : Group) : (s.setGroup core slot g).districts = s.districts := rfl
@[simp] theorem setGroup_dist (s : State) (core slot : Nat) (g : Group) : (s.setGroup core slot g).dist = s.dist := rfl
@[simp] theorem setGroup_accounts (s : State) (core slot : Nat) (g : Group) : (s.setGroup core slot g).accounts = s.accounts := rfl
@[simp] theorem setGroup_parkAreas (s : State) (core slot : Nat) (g : Group) : (s.setGroup core slot g).parkAreas = s.parkAreas := rfl
@[simp] theorem setGroup_tasks (s : State) (core slot : Nat) (g : Group) : (s.setGroup core slot g).tasks = s.tasks := rfl
@[simp] theorem setGroup_accs (s : State) (core slot : Nat) (g : Group) : (s.setGroup core slot g).accs = s.accs := rfl
@[simp] theorem setGroup_msgs (s : State) (core slot : Nat) (g : Group) : (s.setGroup core slot g).msgs = s.msgs := rfl
@[simp] theorem setGroup_flows (s : State) (core slot : Nat) (g : Group) : (s.setGroup core slot g).flows = s.flows := rfl
@[simp] theorem setGroup_avenue (s : State) (core slot : Nat) (g : Group) : (s.setGroup core slot g).avenue = s.avenue := rfl
@[simp] theorem setGroup_mesh (s : State) (core slot : Nat) (g : Group) : (s.setGroup core slot g).mesh = s.mesh := rfl
@[simp] theorem setGroup_controllers (s : State) (core slot : Nat) (g : Group) : (s.setGroup core slot g).controllers = s.controllers := rfl
@[simp] theorem setGroup_walks (s : State) (core slot : Nat) (g : Group) : (s.setGroup core slot g).walks = s.walks := rfl
@[simp] theorem setGroup_walkCache (s : State) (core slot : Nat) (g : Group) : (s.setGroup core slot g).walkCache = s.walkCache := rfl
@[simp] theorem setGroup_dft (s : State) (core slot : Nat) (g : Group) : (s.setGroup core slot g).dft = s.dft := rfl
@[simp] theorem setGroup_dftWait (s : State) (core slot : Nat) (g : Group) : (s.setGroup core slot g).dftWait = s.dftWait := rfl
@[simp] theorem setGroup_contexts (s : State) (core slot : Nat) (g : Group) : (s.setGroup core slot g).contexts = s.contexts := rfl
@[simp] theorem setGroup_queues (s : State) (core slot : Nat) (g : Group) : (s.setGroup core slot g).queues = s.queues := rfl
@[simp] theorem setGroup_host (s : State) (core slot : Nat) (g : Group) : (s.setGroup core slot g).host = s.host := rfl
@[simp] theorem setGroup_pins (s : State) (core slot : Nat) (g : Group) : (s.setGroup core slot g).pins = s.pins := rfl
@[simp] theorem setGroup_pinBusy (s : State) (core slot : Nat) (g : Group) : (s.setGroup core slot g).pinBusy = s.pinBusy := rfl
@[simp] theorem setGroup_pinErr (s : State) (core slot : Nat) (g : Group) : (s.setGroup core slot g).pinErr = s.pinErr := rfl
@[simp] theorem setGroup_pinMove (s : State) (core slot : Nat) (g : Group) : (s.setGroup core slot g).pinMove = s.pinMove := rfl
@[simp] theorem setGroup_needs (s : State) (core slot : Nat) (g : Group) : (s.setGroup core slot g).needs = s.needs := rfl
@[simp] theorem setGroup_engines (s : State) (core slot : Nat) (g : Group) : (s.setGroup core slot g).engines = s.engines := rfl
@[simp] theorem setGroup_ops (s : State) (core slot : Nat) (g : Group) : (s.setGroup core slot g).ops = s.ops := rfl
@[simp] theorem setGroup_colls (s : State) (core slot : Nat) (g : Group) : (s.setGroup core slot g).colls = s.colls := rfl
@[simp] theorem setGroup_peer (s : State) (core slot : Nat) (g : Group) : (s.setGroup core slot g).peer = s.peer := rfl
@[simp] theorem setGroup_groups (s : State) (core slot : Nat) (g : Group) : (s.setGroup core slot g).groups = tset s.groups (slotKey core slot) g := rfl

/-! ## setPort -/

@[simp] theorem setPort_time (s : State) (n : Nat) (x : Port) : (s.setPort n x).time = s.time := rfl
@[simp] theorem setPort_sched (s : State) (n : Nat) (x : Port) : (s.setPort n x).sched = s.sched := rfl
@[simp] theorem setPort_cur (s : State) (n : Nat) (x : Port) : (s.setPort n x).cur = s.cur := rfl
@[simp] theorem setPort_uni (s : State) (n : Nat) (x : Port) : (s.setPort n x).uni = s.uni := rfl
@[simp] theorem setPort_free (s : State) (n : Nat) (x : Port) : (s.setPort n x).free = s.free := rfl
@[simp] theorem setPort_ids (s : State) (n : Nat) (x : Port) : (s.setPort n x).ids = s.ids := rfl
@[simp] theorem setPort_readers (s : State) (n : Nat) (x : Port) : (s.setPort n x).readers = s.readers := rfl
@[simp] theorem setPort_stage (s : State) (n : Nat) (x : Port) : (s.setPort n x).stage = s.stage := rfl
@[simp] theorem setPort_boot (s : State) (n : Nat) (x : Port) : (s.setPort n x).boot = s.boot := rfl
@[simp] theorem setPort_power (s : State) (n : Nat) (x : Port) : (s.setPort n x).power = s.power := rfl
@[simp] theorem setPort_clusters (s : State) (n : Nat) (x : Port) : (s.setPort n x).clusters = s.clusters := rfl
@[simp] theorem setPort_governor (s : State) (n : Nat) (x : Port) : (s.setPort n x).governor = s.governor := rfl
@[simp] theorem setPort_counters (s : State) (n : Nat) (x : Port) : (s.setPort n x).counters = s.counters := rfl
@[simp] theorem setPort_mem (s : State) (n : Nat) (x : Port) : (s.setPort n x).mem = s.mem := rfl
@[simp] theorem setPort_poison (s : State) (n : Nat) (x : Port) : (s.setPort n x).poison = s.poison := rfl
@[simp] theorem setPort_slices (s : State) (n : Nat) (x : Port) : (s.setPort n x).slices = s.slices := rfl
@[simp] theorem setPort_cores (s : State) (n : Nat) (x : Port) : (s.setPort n x).cores = s.cores := rfl
@[simp] theorem setPort_groups (s : State) (n : Nat) (x : Port) : (s.setPort n x).groups = s.groups := rfl
@[simp] theorem setPort_withheld (s : State) (n : Nat) (x : Port) : (s.setPort n x).withheld = s.withheld := rfl
@[simp] theorem setPort_teams (s : State) (n : Nat) (x : Port) : (s.setPort n x).teams = s.teams := rfl
@[simp] theorem setPort_grids (s : State) (n : Nat) (x : Port) : (s.setPort n x).grids = s.grids := rfl
@[simp] theorem setPort_districts (s : State) (n : Nat) (x : Port) : (s.setPort n x).districts = s.districts := rfl
@[simp] theorem setPort_dist (s : State) (n : Nat) (x : Port) : (s.setPort n x).dist = s.dist := rfl
@[simp] theorem setPort_accounts (s : State) (n : Nat) (x : Port) : (s.setPort n x).accounts = s.accounts := rfl
@[simp] theorem setPort_parkAreas (s : State) (n : Nat) (x : Port) : (s.setPort n x).parkAreas = s.parkAreas := rfl
@[simp] theorem setPort_tasks (s : State) (n : Nat) (x : Port) : (s.setPort n x).tasks = s.tasks := rfl
@[simp] theorem setPort_accs (s : State) (n : Nat) (x : Port) : (s.setPort n x).accs = s.accs := rfl
@[simp] theorem setPort_msgs (s : State) (n : Nat) (x : Port) : (s.setPort n x).msgs = s.msgs := rfl
@[simp] theorem setPort_flows (s : State) (n : Nat) (x : Port) : (s.setPort n x).flows = s.flows := rfl
@[simp] theorem setPort_avenue (s : State) (n : Nat) (x : Port) : (s.setPort n x).avenue = s.avenue := rfl
@[simp] theorem setPort_mesh (s : State) (n : Nat) (x : Port) : (s.setPort n x).mesh = s.mesh := rfl
@[simp] theorem setPort_controllers (s : State) (n : Nat) (x : Port) : (s.setPort n x).controllers = s.controllers := rfl
@[simp] theorem setPort_walks (s : State) (n : Nat) (x : Port) : (s.setPort n x).walks = s.walks := rfl
@[simp] theorem setPort_walkCache (s : State) (n : Nat) (x : Port) : (s.setPort n x).walkCache = s.walkCache := rfl
@[simp] theorem setPort_dft (s : State) (n : Nat) (x : Port) : (s.setPort n x).dft = s.dft := rfl
@[simp] theorem setPort_dftWait (s : State) (n : Nat) (x : Port) : (s.setPort n x).dftWait = s.dftWait := rfl
@[simp] theorem setPort_contexts (s : State) (n : Nat) (x : Port) : (s.setPort n x).contexts = s.contexts := rfl
@[simp] theorem setPort_queues (s : State) (n : Nat) (x : Port) : (s.setPort n x).queues = s.queues := rfl
@[simp] theorem setPort_host (s : State) (n : Nat) (x : Port) : (s.setPort n x).host = s.host := rfl
@[simp] theorem setPort_pins (s : State) (n : Nat) (x : Port) : (s.setPort n x).pins = s.pins := rfl
@[simp] theorem setPort_pinBusy (s : State) (n : Nat) (x : Port) : (s.setPort n x).pinBusy = s.pinBusy := rfl
@[simp] theorem setPort_pinErr (s : State) (n : Nat) (x : Port) : (s.setPort n x).pinErr = s.pinErr := rfl
@[simp] theorem setPort_pinMove (s : State) (n : Nat) (x : Port) : (s.setPort n x).pinMove = s.pinMove := rfl
@[simp] theorem setPort_needs (s : State) (n : Nat) (x : Port) : (s.setPort n x).needs = s.needs := rfl
@[simp] theorem setPort_engines (s : State) (n : Nat) (x : Port) : (s.setPort n x).engines = s.engines := rfl
@[simp] theorem setPort_ops (s : State) (n : Nat) (x : Port) : (s.setPort n x).ops = s.ops := rfl
@[simp] theorem setPort_colls (s : State) (n : Nat) (x : Port) : (s.setPort n x).colls = s.colls := rfl
@[simp] theorem setPort_ports (s : State) (n : Nat) (x : Port) : (s.setPort n x).peer.ports = tset s.peer.ports n x := rfl

/-! ## setCk -/

@[simp] theorem setCk_time (s : State) (x : Checkpoint) : (s.setCk x).time = s.time := rfl
@[simp] theorem setCk_sched (s : State) (x : Checkpoint) : (s.setCk x).sched = s.sched := rfl
@[simp] theorem setCk_cur (s : State) (x : Checkpoint) : (s.setCk x).cur = s.cur := rfl
@[simp] theorem setCk_uni (s : State) (x : Checkpoint) : (s.setCk x).uni = s.uni := rfl
@[simp] theorem setCk_free (s : State) (x : Checkpoint) : (s.setCk x).free = s.free := rfl
@[simp] theorem setCk_ids (s : State) (x : Checkpoint) : (s.setCk x).ids = s.ids := rfl
@[simp] theorem setCk_readers (s : State) (x : Checkpoint) : (s.setCk x).readers = s.readers := rfl
@[simp] theorem setCk_stage (s : State) (x : Checkpoint) : (s.setCk x).stage = s.stage := rfl
@[simp] theorem setCk_boot (s : State) (x : Checkpoint) : (s.setCk x).boot = s.boot := rfl
@[simp] theorem setCk_power (s : State) (x : Checkpoint) : (s.setCk x).power = s.power := rfl
@[simp] theorem setCk_clusters (s : State) (x : Checkpoint) : (s.setCk x).clusters = s.clusters := rfl
@[simp] theorem setCk_governor (s : State) (x : Checkpoint) : (s.setCk x).governor = s.governor := rfl
@[simp] theorem setCk_counters (s : State) (x : Checkpoint) : (s.setCk x).counters = s.counters := rfl
@[simp] theorem setCk_mem (s : State) (x : Checkpoint) : (s.setCk x).mem = s.mem := rfl
@[simp] theorem setCk_poison (s : State) (x : Checkpoint) : (s.setCk x).poison = s.poison := rfl
@[simp] theorem setCk_slices (s : State) (x : Checkpoint) : (s.setCk x).slices = s.slices := rfl
@[simp] theorem setCk_cores (s : State) (x : Checkpoint) : (s.setCk x).cores = s.cores := rfl
@[simp] theorem setCk_groups (s : State) (x : Checkpoint) : (s.setCk x).groups = s.groups := rfl
@[simp] theorem setCk_withheld (s : State) (x : Checkpoint) : (s.setCk x).withheld = s.withheld := rfl
@[simp] theorem setCk_teams (s : State) (x : Checkpoint) : (s.setCk x).teams = s.teams := rfl
@[simp] theorem setCk_grids (s : State) (x : Checkpoint) : (s.setCk x).grids = s.grids := rfl
@[simp] theorem setCk_districts (s : State) (x : Checkpoint) : (s.setCk x).districts = s.districts := rfl
@[simp] theorem setCk_dist (s : State) (x : Checkpoint) : (s.setCk x).dist = s.dist := rfl
@[simp] theorem setCk_accounts (s : State) (x : Checkpoint) : (s.setCk x).accounts = s.accounts := rfl
@[simp] theorem setCk_parkAreas (s : State) (x : Checkpoint) : (s.setCk x).parkAreas = s.parkAreas := rfl
@[simp] theorem setCk_tasks (s : State) (x : Checkpoint) : (s.setCk x).tasks = s.tasks := rfl
@[simp] theorem setCk_accs (s : State) (x : Checkpoint) : (s.setCk x).accs = s.accs := rfl
@[simp] theorem setCk_msgs (s : State) (x : Checkpoint) : (s.setCk x).msgs = s.msgs := rfl
@[simp] theorem setCk_flows (s : State) (x : Checkpoint) : (s.setCk x).flows = s.flows := rfl
@[simp] theorem setCk_avenue (s : State) (x : Checkpoint) : (s.setCk x).avenue = s.avenue := rfl
@[simp] theorem setCk_mesh (s : State) (x : Checkpoint) : (s.setCk x).mesh = s.mesh := rfl
@[simp] theorem setCk_controllers (s : State) (x : Checkpoint) : (s.setCk x).controllers = s.controllers := rfl
@[simp] theorem setCk_walks (s : State) (x : Checkpoint) : (s.setCk x).walks = s.walks := rfl
@[simp] theorem setCk_walkCache (s : State) (x : Checkpoint) : (s.setCk x).walkCache = s.walkCache := rfl
@[simp] theorem setCk_dft (s : State) (x : Checkpoint) : (s.setCk x).dft = s.dft := rfl
@[simp] theorem setCk_dftWait (s : State) (x : Checkpoint) : (s.setCk x).dftWait = s.dftWait := rfl
@[simp] theorem setCk_contexts (s : State) (x : Checkpoint) : (s.setCk x).contexts = s.contexts := rfl
@[simp] theorem setCk_queues (s : State) (x : Checkpoint) : (s.setCk x).queues = s.queues := rfl
@[simp] theorem setCk_host (s : State) (x : Checkpoint) : (s.setCk x).host = s.host := rfl
@[simp] theorem setCk_pins (s : State) (x : Checkpoint) : (s.setCk x).pins = s.pins := rfl
@[simp] theorem setCk_pinBusy (s : State) (x : Checkpoint) : (s.setCk x).pinBusy = s.pinBusy := rfl
@[simp] theorem setCk_pinErr (s : State) (x : Checkpoint) : (s.setCk x).pinErr = s.pinErr := rfl
@[simp] theorem setCk_pinMove (s : State) (x : Checkpoint) : (s.setCk x).pinMove = s.pinMove := rfl
@[simp] theorem setCk_needs (s : State) (x : Checkpoint) : (s.setCk x).needs = s.needs := rfl
@[simp] theorem setCk_engines (s : State) (x : Checkpoint) : (s.setCk x).engines = s.engines := rfl
@[simp] theorem setCk_ops (s : State) (x : Checkpoint) : (s.setCk x).ops = s.ops := rfl
@[simp] theorem setCk_colls (s : State) (x : Checkpoint) : (s.setCk x).colls = s.colls := rfl
@[simp] theorem setCk_ck (s : State) (x : Checkpoint) : (s.setCk x).peer.ck = x := rfl

end Sys2Proof.Machine
end

