-- ==== Sys2Proof/Tests/Slice0.lean ====
section
/-! SUPPORT. Tests of decoding, of well-formedness and of single steps, whose expected values are the spec's, and for each statement
with hypotheses a witness that they can be met. -/
set_option Elab.async false
namespace Sys2Proof.Tests
open Sys2Proof Sys2Proof.Machine


/-! ## Small states -/

/-- A state whose group 0 of core 0 issues its one fragment. -/
def lab : State := (State.reset.withFetchWord 32 0x00400000).issuing 0 0 0 0 false

/-- The group of `lab`. -/
def labGroup : Group := { g := 64, c := 16, ready := true, split := [(0, { mask := fullMask, pc := 0 })]
                          sr := (List.range 64).map fun l => BitVec.ofNat 32 (0x6A09E667 + l) }

/-- The one fragment of `lab`. -/
def labFrag : Frag := { mask := fullMask, pc := 0 }

/-- `lab` with another group. -/
def withGroup (g : Group) : State := { lab with groups := [(0, g)] }

/-- `lab` with its team changed. -/
def withTeam (f : Team → Team) : State := lab.setTeam 0 (f (lab.teamAt 0))

/-- `lab` with its task changed. -/
def withTask (f : Task → Task) : State := lab.setTask 0 (f (lab.taskAt 0))

/-- A message that stands at its receiver. -/
def theMsg (k : MsgKind) : Msg := { kind := k, core := 0, slice := 0, toSlice := true, avenue := false, sent := 0, stage := .arrived }

/-- `lab` with that message. -/
def withMsg (k : MsgKind) : State := { lab with msgs := [(5, theMsg k)] }

/-- A load of one lane that has its value. -/
def theAcc : Access :=
  { core := 0, slot := 0, guid := 0, team := 0, ctx := 0, task := 0, pc := 0, op := .load, space := .mem, bytes := 4
    lanes := [{ lane := 0, loc := .dev 0x1000, got := some 7, done := true }], dst := 3, mask := 1, ldc := true, issued := 0 }

/-- A module at a bring-up stage with every rail up. -/
def upAt (st : BringStage) : State :=
  { State.reset with stage := st, power := { vbase := true, vmem := true, vlas := true, vch := 0xFF }, time := 7200000000 }

/-- A module in service that holds nothing. -/
def served : State := { upAt .full with clusters := (List.range 48).map fun c => (c, { cal := true }) }

/-- `labGroup` with its fragment waiting. -/
def waiter (w : Wait) : Group := { labGroup with split := [(0, { labFrag with wait := w })] }

/-- A group whose descriptors are timers that have expired, and which waits for one of them. -/
def timed : Group := { waiter (.event 3) with armed := true, evm := 0xFF, evd := List.replicate 8 (0x5000000000000000#64, 0x40#64) }

/-- A module whose device identifier is 9. -/
def named : State := { served with peer := { devid := 9, devidV := true, devidSet := true, routes := [(5, 0x80000300), (9, 0x80000300)] } }

/-- A packet from device 5 to device 9. -/
def pkt (op : BitVec 8) (data : List Byte) : Packet :=
  { op := op, src := 5, dst := 9, tag := 1, fn := 0, stat := 0, size := 3, addr := 0x1000, tc := 1, data := data }

/-- `named` with that packet at port 3, and an inbound window that lets it in. -/
def fromPeer (op : BitVec 8) (data : List Byte) : State :=
  let s := named.setPort 3 { state := .up, inbox := [pkt op data] }
  { s with peer := { s.peer with windows := [(0, { base := 0x8000000000000000, lim := 0x3FFFFFFFF000, src := 0x3FFF0000, perm := 31 })] } }

theorem fromPeer_inbound (data : List Byte) :
    (fromPeer 0x30#8 data).inbound 3 (fun y => [0x30#8].contains y.op) = some (pkt 0x30#8 data) := rfl

/-- The state of a pass that places a unit. -/
def thePlaced (r : PassResult × Option Nat) : State := match r with | (.placed t, _) => t | _ => served

theorem placed_of {r : PassResult × Option Nat} (h : (match r with | (.placed _, none) => true | _ => false) = true) :
    r = (.placed (thePlaced r), none) := by
  obtain ⟨_ | _ | _, _ | _⟩ := r <;> simp_all [thePlaced]

/-- A module whose context 0 is resident and maps its first 1 GiB of addresses to the same physical ones. -/
def mapped : State :=
  { served with
    contexts := [(0, { en := true, ptb := 0x10000, hbase := 0x1000, rqb := 0x8000, spbase := 0x100000, spsize := 64 })]
    mem := [(0x10000, 1), (0x10001, 0x10), (0x10002, 1), (0x11000, 0x8F), (0x11001, 7)] }

/-- `mapped` with the group of `lab`. -/
def mappedLab : State := { lab with contexts := mapped.contexts, mem := mapped.mem, stage := .full, power := mapped.power, clusters := mapped.clusters }

/-- The translation of `mapped`. -/
def theEntry : TlbEntry :=
  { ctx := 0, vpage := 0, size := 30, pa := 0, w := true, x := true, d := true, nc := false, pin := false, peer := false
    devid := 0, m := true, ats := false, used := 0 }

/-- The result of a computation that succeeds. -/
def okOr {ε α : Type} (d : α) (x : Except ε α) : α := match x with | .ok a => a | .error _ => d

/-! ## Decoding -/

/-- Whether each row's words decode to its instruction, with that many words. -/
def decodes (l : List (List W32 × Instr)) : Bool :=
  l.all fun x => match decode x.1 with | .ok (i, n) => i == x.2 && n == x.1.length | .error _ => false

/-! Words written from the encoding tables of the spec (R297, R301, R315, R330, R335, R340, R343 to R350, R358 to R379, R381, R388, R393,
R423): OP in [29:22], D 4 in [21:15], A 6 in [14:8] (a multiple of 4 in MMA, R433), B 2 in [7:1], E in [0], C 4 in [31:25] and FN in [24:20] of the extension word. -/

theorem test_decode_control : decodes [
    ([0xC0400000#32], .nop ⟨true, true, 0, 0, 0, 0, 0, 0⟩),
    ([0xC0800600#32], .mode ⟨true, true, 0, 6, 0, 0, 0, 0⟩),
    ([0xC0C00600#32], .bra ⟨true, true, 0, 6, 0, 0, 0, 0⟩),
    ([0x00C000FE#32, 0x00000010#32], .braLabel ⟨false, false, 0, 0, 127, 0, 0, 16⟩),
    ([0x010006FF#32, 0x00100000#32, 0x00050003#32], .br ⟨false, false, 0, 6, 127, 0, 1, 0x00050003⟩),
    ([0xC1400000#32], .join ⟨true, true, 0, 0, 0, 0, 0, 0⟩),
    ([0x018006FE#32, 0x00000010#32], .brx ⟨false, false, 0, 6, 127, 0, 0, 16⟩),
    ([0xC1C20600#32], .call ⟨true, true, 4, 6, 0, 0, 0, 0⟩),
    ([0x01C200FE#32, 0x00000010#32], .callLabel ⟨false, false, 4, 0, 127, 0, 0, 16⟩),
    ([0xC2000600#32], .ret ⟨true, true, 0, 6, 0, 0, 0, 0⟩),
    ([0xC2400000#32], .exit ⟨true, true, 0, 0, 0, 0, 0, 0⟩),
    ([0xC2800000#32], .yield ⟨true, true, 0, 0, 0, 0, 0, 0⟩),
    ([0xC2C00600#32], .trap ⟨true, true, 0, 6, 0, 0, 0, 0⟩),
    ([0xC3000000#32], .rft ⟨true, true, 0, 0, 0, 0, 0, 0⟩),
    ([0x03427F00#32, 0x00000020#32], .rdsr ⟨false, false, 4, 127, 0, 0, 0, 32⟩),
    ([0x038006FE#32, 0x00000040#32], .wrsr ⟨false, false, 0, 6, 127, 0, 0, 64⟩),
    ([0xC3C00600#32], .boost ⟨true, true, 0, 6, 0, 0, 0, 0⟩),
    ([0xC4000600#32], .srseed ⟨true, true, 0, 6, 0, 0, 0, 0⟩)] = true := by decide +kernel

theorem test_decode_predicates_and_lanes : decodes [
    ([0x08020601#32, 0x00100000#32], .pset ⟨false, false, 4, 6, 0, 0, 1, 0⟩),
    ([0x08420605#32, 0x00300000#32], .plog ⟨false, false, 4, 6, 2, 0, 3, 0⟩),
    ([0xC8820600#32], .pmov ⟨true, true, 4, 6, 0, 0, 0, 0⟩),
    ([0xC8C20600#32], .ballot ⟨true, true, 4, 6, 0, 0, 0, 0⟩),
    ([0xC9020600#32], .popm ⟨true, true, 4, 6, 0, 0, 0, 0⟩),
    ([0x0A020605#32, 0x00100000#32], .shfl ⟨false, false, 4, 6, 2, 0, 1, 0⟩),
    ([0xCA420604#32], .bcast ⟨true, true, 4, 6, 2, 0, 0, 0⟩),
    ([0x0A820601#32, 0x00200000#32], .lred ⟨false, false, 4, 6, 0, 0, 2, 0⟩),
    ([0x0AC20601#32, 0x01100000#32], .lscan ⟨false, false, 4, 6, 0, 0, 17, 0⟩),
    ([0x0B020601#32, 0x00100000#32], .vote ⟨false, false, 4, 6, 0, 0, 1, 0⟩),
    ([0xCB420600#32], .matchLanes ⟨true, true, 4, 6, 0, 0, 0, 0⟩),
    ([0x0B820605#32, 0x08100000#32], .perm ⟨false, false, 4, 6, 2, 4, 1, 0⟩)] = true := by decide +kernel

theorem test_decode_integer_1 : decodes [
    ([0xD0020604#32], .iadd ⟨true, true, 4, 6, 2, 0, 0, 0⟩),
    ([0xD0420604#32], .isub ⟨true, true, 4, 6, 2, 0, 0, 0⟩),
    ([0xD0820604#32], .imul ⟨true, true, 4, 6, 2, 0, 0, 0⟩),
    ([0xD0C20604#32], .imulh ⟨true, true, 4, 6, 2, 0, 0, 0⟩),
    ([0x11020605#32, 0x08000000#32], .imad ⟨false, false, 4, 6, 2, 4, 0, 0⟩),
    ([0xD1420604#32], .imin ⟨true, true, 4, 6, 2, 0, 0, 0⟩),
    ([0xD1820604#32], .imax ⟨true, true, 4, 6, 2, 0, 0, 0⟩),
    ([0xD1C20600#32], .iabs ⟨true, true, 4, 6, 0, 0, 0, 0⟩),
    ([0xD2020600#32], .ineg ⟨true, true, 4, 6, 0, 0, 0, 0⟩),
    ([0xD4020604#32], .bitAnd ⟨true, true, 4, 6, 2, 0, 0, 0⟩),
    ([0xD4420604#32], .bitOr ⟨true, true, 4, 6, 2, 0, 0, 0⟩),
    ([0xD4820604#32], .bitXor ⟨true, true, 4, 6, 2, 0, 0, 0⟩),
    ([0xD4C20600#32], .bitNot ⟨true, true, 4, 6, 0, 0, 0, 0⟩),
    ([0xD5020604#32], .shl ⟨true, true, 4, 6, 2, 0, 0, 0⟩),
    ([0xD5420604#32], .shr ⟨true, true, 4, 6, 2, 0, 0, 0⟩),
    ([0xD5820604#32], .sar ⟨true, true, 4, 6, 2, 0, 0, 0⟩),
    ([0xD5C20604#32], .rot ⟨true, true, 4, 6, 2, 0, 0, 0⟩),
    ([0x16020605#32, 0x08100000#32], .fshl ⟨false, false, 4, 6, 2, 4, 1, 0⟩),
    ([0x16420605#32, 0x08100000#32], .fshr ⟨false, false, 4, 6, 2, 4, 1, 0⟩),
    ([0x16820605#32, 0x00100000#32], .bfx ⟨false, false, 4, 6, 2, 0, 1, 0⟩)] = true := by decide +kernel

theorem test_decode_integer_2 : decodes [
    ([0x16C20605#32, 0x08000000#32], .bfi ⟨false, false, 4, 6, 2, 4, 0, 0⟩),
    ([0xD7020600#32], .popc ⟨true, true, 4, 6, 0, 0, 0, 0⟩),
    ([0xD7420600#32], .clz ⟨true, true, 4, 6, 0, 0, 0, 0⟩),
    ([0xD7820600#32], .brev ⟨true, true, 4, 6, 0, 0, 0, 0⟩),
    ([0x17C20605#32, 0x08100000#32], .sel ⟨false, false, 4, 6, 2, 4, 1, 0⟩),
    ([0x18020605#32, 0x00200000#32], .icmp ⟨false, false, 4, 6, 2, 0, 2, 0⟩),
    ([0x18420601#32, 0x00900000#32], .icvt ⟨false, false, 4, 6, 0, 0, 9, 0⟩),
    ([0x1A020605#32, 0x01100000#32], .lea ⟨false, false, 4, 6, 2, 0, 17, 0⟩),
    ([0xDA420604#32], .adda ⟨true, true, 4, 6, 2, 0, 0, 0⟩),
    ([0xDA820604#32], .aff ⟨true, true, 4, 6, 2, 0, 0, 0⟩)] = true := by decide +kernel

theorem test_decode_float_1 : decodes [
    ([0xDC020604#32], .fadd ⟨true, true, 4, 6, 2, 0, 0, 0⟩),
    ([0xDC420604#32], .fsub ⟨true, true, 4, 6, 2, 0, 0, 0⟩),
    ([0xDC820604#32], .fmul ⟨true, true, 4, 6, 2, 0, 0, 0⟩),
    ([0x1CC20605#32, 0x08200000#32], .fma ⟨false, false, 4, 6, 2, 4, 2, 0⟩),
    ([0xDD020604#32], .fmin ⟨true, true, 4, 6, 2, 0, 0, 0⟩),
    ([0xDD420604#32], .fmax ⟨true, true, 4, 6, 2, 0, 0, 0⟩),
    ([0xDD820600#32], .fneg ⟨true, true, 4, 6, 0, 0, 0, 0⟩),
    ([0xDDC20600#32], .fabs ⟨true, true, 4, 6, 0, 0, 0, 0⟩),
    ([0x1E020605#32, 0x00200000#32], .fcmp ⟨false, false, 4, 6, 2, 0, 2, 0⟩),
    ([0xDE420600#32], .fclass ⟨true, true, 4, 6, 0, 0, 0, 0⟩),
    ([0xDE820600#32], .frnd ⟨true, true, 4, 6, 0, 0, 0, 0⟩),
    ([0xDEC20604#32], .fscale ⟨true, true, 4, 6, 2, 0, 0, 0⟩),
    ([0xE0020600#32], .frcp ⟨true, true, 4, 6, 0, 0, 0, 0⟩),
    ([0xE0420600#32], .frsq ⟨true, true, 4, 6, 0, 0, 0, 0⟩),
    ([0xE0820600#32], .fsqrt ⟨true, true, 4, 6, 0, 0, 0, 0⟩),
    ([0xE0C20600#32], .fexp2 ⟨true, true, 4, 6, 0, 0, 0, 0⟩),
    ([0xE1020600#32], .flog2 ⟨true, true, 4, 6, 0, 0, 0, 0⟩),
    ([0xE1420600#32], .fsin ⟨true, true, 4, 6, 0, 0, 0, 0⟩),
    ([0xE1820600#32], .fcos ⟨true, true, 4, 6, 0, 0, 0, 0⟩),
    ([0x24020601#32, 0x00900000#32], .cvt ⟨false, false, 4, 6, 0, 0, 9, 0⟩)] = true := by decide +kernel

theorem test_decode_float_2 : decodes [
    ([0x24420605#32, 0x08300000#32], .pack ⟨false, false, 4, 6, 2, 4, 3, 0⟩),
    ([0x24820601#32, 0x00500000#32], .unpack ⟨false, false, 4, 6, 0, 0, 5, 0⟩),
    ([0xE4C20000#32], .flgrd ⟨true, true, 4, 0, 0, 0, 0, 0⟩),
    ([0xE5000600#32], .flgclr ⟨true, true, 0, 6, 0, 0, 0, 0⟩)] = true := by decide +kernel

theorem test_decode_memory : decodes [
    ([0x28020605#32, 0x00100000#32], .ld ⟨false, false, 4, 6, 2, 0, 1, 0⟩),
    ([0x28400605#32, 0x08100000#32], .st ⟨false, false, 0, 6, 2, 4, 1, 0⟩),
    ([0x28820605#32, 0x00100000#32], .lds ⟨false, false, 4, 6, 2, 0, 1, 0⟩),
    ([0x28C00605#32, 0x08100000#32], .sts ⟨false, false, 0, 6, 2, 4, 1, 0⟩),
    ([0x29020605#32, 0x00100000#32], .ldx ⟨false, false, 4, 6, 2, 0, 1, 0⟩),
    ([0x29400605#32, 0x08100000#32], .stx ⟨false, false, 0, 6, 2, 4, 1, 0⟩),
    ([0xE9800604#32], .pref ⟨true, true, 0, 6, 2, 0, 0, 0⟩),
    ([0x2A020605#32, 0x09100000#32], .atom ⟨false, false, 4, 6, 2, 4, 17, 0⟩),
    ([0x2A420605#32, 0x08100000#32], .atoms ⟨false, false, 4, 6, 2, 4, 1, 0⟩),
    ([0x2A800605#32, 0x08100000#32], .red ⟨false, false, 0, 6, 2, 4, 1, 0⟩),
    ([0xEC000604#32], .waitcnt ⟨true, true, 0, 6, 2, 0, 0, 0⟩),
    ([0xEC400000#32], .commit ⟨true, true, 0, 0, 0, 0, 0, 0⟩)] = true := by decide +kernel

theorem test_decode_sync : decodes [
    ([0xF0000000#32], .bar ⟨true, true, 0, 0, 0, 0, 0, 0⟩),
    ([0xF0420000#32], .darrive ⟨true, true, 4, 0, 0, 0, 0, 0⟩),
    ([0xF0800600#32], .dwait ⟨true, true, 0, 6, 0, 0, 0, 0⟩),
    ([0xF0C20000#32], .garrive ⟨true, true, 4, 0, 0, 0, 0, 0⟩),
    ([0xF1000600#32], .gwait ⟨true, true, 0, 6, 0, 0, 0, 0⟩),
    ([0xF2000604#32], .evset ⟨true, true, 0, 6, 2, 0, 0, 0⟩),
    ([0xF2400600#32], .evclr ⟨true, true, 0, 6, 0, 0, 0, 0⟩),
    ([0xF2820604#32], .waitany ⟨true, true, 4, 6, 2, 0, 0, 0⟩),
    ([0xF3020604#32], .msend ⟨true, true, 4, 6, 2, 0, 0, 0⟩),
    ([0xF3420600#32], .mrecv ⟨true, true, 4, 6, 0, 0, 0, 0⟩),
    ([0x33820605#32, 0x00100000#32], .xshf ⟨false, false, 4, 6, 2, 0, 1, 0⟩),
    ([0xF4000000#32], .trig ⟨true, true, 0, 0, 0, 0, 0, 0⟩),
    ([0xF4420604#32], .launch ⟨true, true, 4, 6, 2, 0, 0, 0⟩)] = true := by decide +kernel

theorem test_decode_engines_1 : decodes [
    ([0x38000605#32, 0x08100000#32], .cpy ⟨false, false, 0, 6, 2, 4, 1, 0⟩),
    ([0x38400605#32, 0x08000000#32], .cpym ⟨false, false, 0, 6, 2, 4, 0, 0⟩),
    ([0x38800601#32, 0x00000000#32], .gath ⟨false, false, 0, 6, 0, 0, 0, 0⟩),
    ([0x38C00601#32, 0x00000000#32], .scat ⟨false, false, 0, 6, 0, 0, 0, 0⟩),
    ([0x39000601#32, 0x00000000#32], .gcsr ⟨false, false, 0, 6, 0, 0, 0, 0⟩),
    ([0x39400601#32, 0x00100000#32], .stage ⟨false, false, 0, 6, 0, 0, 1, 0⟩),
    ([0x39820001#32, 0x00300000#32], .close ⟨false, false, 4, 0, 0, 0, 3, 0⟩),
    ([0x39C00601#32, 0x00B00000#32], .waitb ⟨false, false, 0, 6, 0, 0, 11, 0⟩),
    ([0x3A000605#32, 0x08A00000#32], .ldb ⟨false, false, 0, 6, 2, 4, 10, 0⟩),
    ([0xFA400000#32], .mfence ⟨true, true, 0, 0, 0, 0, 0, 0⟩),
    ([0x3A820805#32, 0x08100000#32], .mma ⟨false, false, 4, 8, 2, 4, 1, 0⟩),
    ([0x3AC20605#32, 0x08100000#32], .mmas ⟨false, false, 4, 6, 2, 4, 1, 0⟩),
    ([0xFB000600#32], .accnext ⟨true, true, 0, 6, 0, 0, 0, 0⟩),
    ([0x3B420601#32, 0x00000000#32], .accrd ⟨false, false, 4, 6, 0, 0, 0, 0⟩),
    ([0x3B800601#32, 0x08000000#32], .accwr ⟨false, false, 0, 6, 0, 4, 0, 0⟩),
    ([0x3BC00605#32, 0x08100000#32], .epi ⟨false, false, 0, 6, 2, 4, 1, 0⟩),
    ([0x3C000601#32, 0x00400000#32], .coll ⟨false, false, 0, 6, 0, 0, 4, 0⟩),
    ([0x3D000601#32, 0x00200000#32], .dpfx ⟨false, false, 0, 6, 0, 0, 2, 0⟩),
    ([0x3D400601#32, 0x00300000#32], .drle ⟨false, false, 0, 6, 0, 0, 3, 0⟩),
    ([0x3D800601#32, 0x00100000#32], .dbit ⟨false, false, 0, 6, 0, 0, 1, 0⟩)] = true := by decide +kernel

theorem test_decode_engines_2 : decodes [
    ([0x3DC00601#32, 0x00200000#32], .dchk ⟨false, false, 0, 6, 0, 0, 2, 0⟩)] = true := by decide +kernel

/-! The words that the examples of the spec give: R297 (`fma!`), R330 (`bra`, `yield`), 14 (`pset.odd!`, `br`, `iadd`, `join`, `bfx.sx`),
15 (`fcmp.lt`, `mode`, `fadd!`, `flgrd`, `lred.fadd!`, `lscan.fadd`) and 16 (`st`, `ld`, `atom.add`, `waitcnt`). -/

theorem test_decode_examples : decodes [
    ([0x9CC20813#32, 0x08000000#32], .fma ⟨true, false, 4, 8, 9, 4, 0, 0⟩),
    ([0x8800F901#32, 0x00300000#32], .pset ⟨true, false, 1, 121, 0, 0, 3, 0⟩),
    ([0x010001FF#32, 0x00000000#32, 0x00080006#32], .br ⟨false, false, 0, 1, 127, 0, 0, 0x00080006⟩),
    ([0x100279FE#32, 0x00000064#32], .iadd ⟨false, false, 4, 121, 127, 0, 0, 100⟩),
    ([0x01400000#32], .join ⟨false, false, 0, 0, 0, 0, 0, 0⟩),
    ([0x02400000#32], .exit ⟨false, false, 0, 0, 0, 0, 0, 0⟩),
    ([0x168205FF#32, 0x00100000#32, 0x00000C08#32], .bfx ⟨false, false, 4, 5, 127, 0, 1, 0x0C08⟩),
    ([0x1E01050D#32, 0x00200000#32], .fcmp ⟨false, false, 2, 5, 6, 0, 2, 0⟩),
    ([0x00807F00#32, 0x00000120#32], .mode ⟨false, false, 0, 127, 0, 0, 0, 0x120⟩),
    ([0x9C02050C#32], .fadd ⟨true, false, 4, 5, 6, 0, 0, 0⟩),
    ([0x24C38000#32], .flgrd ⟨false, false, 7, 0, 0, 0, 0, 0⟩),
    ([0x8A820501#32, 0x00600000#32], .lred ⟨true, false, 4, 5, 0, 0, 6, 0⟩),
    ([0x0AC30501#32, 0x00600000#32], .lscan ⟨false, false, 6, 5, 0, 0, 6, 0⟩),
    ([0x284008F1#32, 0x18000000#32], .st ⟨false, false, 0, 8, 120, 12, 0, 0⟩),
    ([0x28020AF1#32, 0x00000000#32], .ld ⟨false, false, 4, 10, 120, 0, 0, 0⟩),
    ([0x2A0208F1#32, 0x18000000#32], .atom ⟨false, false, 4, 8, 120, 12, 0, 0⟩),
    ([0x2C000002#32], .waitcnt ⟨false, false, 0, 0, 1, 0, 0, 0⟩),
    ([0x2C000100#32], .waitcnt ⟨false, false, 0, 1, 0, 0, 0, 0⟩)] = true := by decide +kernel

/-- The SUB with which words are illegal; 0 where they are not. -/
def subOf (ws : List W32) : Nat := match decode ws with | .error (.illegal n) => n | _ => 0

/-- R303: an unlisted FN is SUB 2, two literals SUB 3, and a field that is no operand of its kind SUB 4. -/
theorem test_illegal_words :
    subOf [0x1682050D#32, 0x01F00000#32] = 2 ∧ subOf [0x1002FFFE#32, 5#32] = 3 ∧ subOf [0x00400100#32] = 4 ∧ subOf [0x00400001#32, 0#32] = 4 := by
  decide +kernel

/-- R316: words of zeros and of ones are unassigned opcodes. -/
theorem test_unassigned_words :
    (match decode [0#32] with | .ok (.unassignedOpcode op _ _, n) => op == 0 && n == 1 | _ => false) = true ∧
    (match decode [0xFFFFFFFF#32] with | .ok (.unassignedOpcode op _ _, n) => op == 0xFF && n == 1 | _ => false) = true := by decide +kernel

theorem test_unassigned_count :
    ((List.range 256).filter fun op => (List.range 32).all fun fn => (opForm op fn).isNone).length = 128 := by decide +kernel

/-! ## Well-formedness -/

/-- Each check of an instruction's fields refuses a term: a field that the form does not have, D that is no register, an odd pair, no
predicate, a literal where none may stand, two literals, an FN that is not listed, C or FN without an extension word, a literal
word without a code 127, and the wrong target selector. -/
theorem test_wf_refuses_words : ([
    .nop ⟨false, false, 1, 0, 0, 0, 0, 0⟩, .iadd ⟨false, false, 127, 6, 2, 0, 0, 0⟩, .ballot ⟨false, false, 5, 6, 0, 0, 0, 0⟩,
    .popm ⟨false, false, 4, 8, 0, 0, 0, 0⟩, .fma ⟨false, false, 4, 6, 2, 127, 0, 1⟩, .iadd ⟨false, false, 4, 127, 127, 0, 0, 1⟩,
    .bfx ⟨false, false, 4, 6, 2, 0, 31, 0⟩, .iadd ⟨false, false, 4, 6, 2, 4, 0, 0⟩, .iadd ⟨false, false, 4, 6, 2, 0, 0, 1⟩,
    .bra ⟨false, false, 0, 0, 127, 0, 0, 1⟩, .braLabel ⟨false, false, 0, 6, 0, 0, 0, 0⟩, .call ⟨false, false, 4, 0, 127, 0, 0, 1⟩,
    .callLabel ⟨false, false, 4, 6, 0, 0, 0, 0⟩] : List Instr).all (fun i => !i.wf) = true := by decide +kernel

theorem test_wf_accepts_words : ([.iadd ⟨false, false, 4, 6, 2, 0, 0, 0⟩, .bra ⟨false, false, 0, 6, 0, 0, 0, 0⟩,
    .braLabel ⟨false, false, 0, 0, 127, 0, 0, 16⟩, .unassignedOpcode 255 false false] : List Instr).all Instr.wf = true := by decide +kernel

/-! Each check of an event refuses a term whose agent, number or width lies just past its range. -/

theorem test_wf_refuses_events_1 : ([
    .unassignedOpcode 1 false false, .chipletReset ⟨8, ⟨true, 0⟩⟩, .clusterCalibrationDone ⟨48, true⟩, .clusterRetentionEntry 48,
    .clusterWake 48, .sliceRetentionEntry 96, .sliceWake 96, .sensorSample ⟨[], 0, 0⟩,
    .laserModuleLoss 6, .permitRefill 48, .registerWrite 17 ⟨0, 0⟩ 4 0, .registerWrite 0 ⟨1, 0⟩ 4 0,
    .registerWrite 0 ⟨0, 0⟩ 3 0, .registerWrite 0 ⟨0, 2⟩ 4 0, .readToClear 17 ⟨0, 0⟩ 4, .readToClear 0 ⟨1, 0⟩ 4,
    .readToClear 0 ⟨0, 0⟩ 3, .readToClear 0 ⟨0, 2⟩ 4, .portEnable 16 default, .portDisable 16 default,
    .portRetrain 16 default, .portTrainingDone 16, .pwgtWrite 16 default, .flitSlot 16,
    .flitReceive 16 default, .goBackNReplay 16 default, .portReplayLimit 16, .portReceiveTimeout 16,
    .peerRequestSend 16, .routeHoldRelease 16384, .transitPacket 16, .peerLoad 16,
    .peerStore 16, .peerAtomic 16, .peerAtomicNoReturn 16, .peerBulkWrite 16] : List Instr).all (fun i => !i.wf) = true := by decide +kernel

theorem test_wf_refuses_events_2 : ([
    .peerBulkWrite 16, .peerCheckpointPage 16, .peerCollectivePacket 16, .peerReservedOp 16,
    .peerResponse 16, .bar4Read default 0, .bar4Read default 65, .bar4Write default [],
    .bar4Write default (List.replicate 65 0), .contextEnable 17 0 default, .contextEnable 0 64 default, .contextDisable 17 0 default,
    .contextDisable 0 64 default, .recordRingReadIndexWrite 17 0 default, .recordRingReadIndexWrite 0 64 default, .heldRecordWrite 64,
    .atsInvalidation 17 default default default, .prgResponse 512 .success, .priTimeout 512, .qwinWrite 17 0 default,
    .qwinWrite 0 4096 default, .queueCreate 17 0 default, .queueCreate 0 4096 default, .queueDestroy 17 0 default,
    .queueDestroy 0 4096 default, .queueStop 17 0 default, .queueStop 0 4096 default, .queueAbort 17 0 default,
    .queueAbort 0 4096 default, .queueResume 17 0 default, .queueResume 0 4096 default, .recordFetch 4096,
    .recordFetchComplete 4096, .recordStart 4096, .waitAddressPoll 4096, .recordCompletionActions 4096] : List Instr).all (fun i => !i.wf) = true := by decide +kernel

theorem test_wf_refuses_events_3 : ([
    .recordCompletionActions 4096, .flrVf 0, .flrVf 17, .flrQueueDestroy 4096,
    .gridStart 4096, .accountCharge 1024, .groupReady 384 0, .groupReady 0 128,
    .registerRelease 384 0, .registerRelease 0 128, .elevatorRetireComplete 96, .cutOffChipletReset ⟨8, ⟨true, 0⟩⟩,
    .avenueTokenGrant true 96 0, .avenueTokenGrant false 48 0, .avenueTokenGrant true 0 48, .avenueTokenGrant false 0 97,
    .pinTableWrite 0 2 default, .pinTableWrite 2 4 default, .lineFree 3221225472, .dramReadReturn ⟨3221225472, 0⟩,
    .dramWriteAck 96, .patrolScrub ⟨12884901888, .clean, .dram⟩, .badLineClear 96 0, .badLineClear 0 64,
    .copyChunk 8, .versionOverflowTrap 384 0, .versionOverflowTrap 0 128, .discardRequest 131072,
    .discardComplete 131072, .icacheFill 384 0 0, .icacheFill 0 128 0, .icacheFill 0 0 8,
    .switchMarkerRelease 384 0, .switchMarkerRelease 0 128, .chipletArrayUncorrectable 384 0, .chipletArrayUncorrectable 0 128] : List Instr).all (fun i => !i.wf) = true := by decide +kernel

theorem test_wf_refuses_events_4 : ([
    .chipletArrayUncorrectable 0 128, .yieldWaitEnd 384 0 0, .yieldWaitEnd 0 128 0, .yieldWaitEnd 0 0 8,
    .matrixAccept 384, .epiStart 384, .pageWalk ⟨8, 0⟩, .pageWalk ⟨0, 16⟩,
    .dfrespServiced 17 0 default, .dfrespServiced 0 64 default, .dfrespRefused 17 0 default, .dfrespRefused 0 64 default,
    .dftTimeout 256, .tlbInvalidate 17 0 default, .tlbInvalidate 0 64 default, .tlbInvalidateDone 64,
    .debugHalt 17 0 default, .debugHalt 0 64 default, .debugSnapshotDone 64, .debugRelease 17 0 default,
    .debugRelease 0 64 default, .eventFiring 384 0 0, .eventFiring 0 128 0, .eventFiring 0 0 8,
    .timerDeadline 384 0 0, .timerDeadline 0 128 0, .timerDeadline 0 0 8, .xshfMatch 384 0,
    .xshfMatch 0 128, .xshfTimeout 384 0, .xshfTimeout 0 128, .priStoppedClear 17,
    .eventCounterWrap 496 0, .eventCounterWrap 0 8] : List Instr).all (fun i => !i.wf) = true := by decide +kernel

/-! ## Instructions -/

/-- Lane `l` of register `n` after an instruction that issues in `s` has completed. -/
def laneAfter (s : State) (i : Instr) (n l : Nat) : W32 :=
  match exec i s with
  | .next t => ((t.group? 0 0).map fun g => (g.reg n).val.lane l).getD 0
  | _ => 0

/-- `lab` under a MODE value, with general registers v5, v6 and v7 that hold a value in every lane, under a format. -/
def with567 (m : W32) (fmt : Nat) (a b c : W32) : State :=
  let r (v : W32) : VReg := { fmt := fmt, cnt := 0, val := .general (List.replicate 64 v) }
  withGroup { labGroup with mode := m, regs := [(5, r a), (6, r b), (7, r c)] }

/-- v4, v5, v6, v7 with an FN, and with a literal at B. -/
def o456 (fn : BitVec 5) : Operands := ⟨false, false, 4, 5, 6, 7, fn, 0⟩
def o45 (fn : BitVec 5) (lit : W32) : Operands := ⟨false, false, 4, 5, 127, 0, fn, lit⟩

/-! The results are those of the examples of 14 (elements, clamps and fields) and of 15 (a packed add). -/

theorem test_iadd_clamps : laneAfter (withGroup { labGroup with mode := 0x10A0, regs := [
    (5, { fmt := 5, cnt := 2, val := .general (List.replicate 64 0x7F800105) }),
    (6, { fmt := 5, cnt := 2, val := .general (List.replicate 64 0x01FFFF05) })] }) (.iadd (o456 0)) 4 9 = 0x7F80000A := by decide +kernel
theorem test_iadd_wraps : laneAfter (withGroup { labGroup with mode := 0x00A0, regs := [
    (5, { fmt := 5, cnt := 2, val := .general (List.replicate 64 0x7F800105) }),
    (6, { fmt := 5, cnt := 2, val := .general (List.replicate 64 0x01FFFF05) })] }) (.iadd (o456 0)) 4 9 = 0x807F000A := by decide +kernel
theorem test_imulh_signed : laneAfter (with567 0 0 0x80000000 3 0) (.imulh (o456 0)) 4 63 = 0xFFFFFFFE := by decide +kernel
theorem test_imulh_unsigned : laneAfter (with567 0x20 1 0x80000000 3 0) (.imulh (o456 0)) 4 0 = 1 := by decide +kernel
theorem test_bfx_zero : laneAfter (with567 0 1 0xDEADBEEF 0 0) (.bfx (o45 0 0x0C08)) 4 1 = 0x00000DBE := by decide +kernel
theorem test_bfx_sign : laneAfter (with567 0 1 0xDEADBEEF 0 0) (.bfx (o45 1 0x0C08)) 4 1 = 0xFFFFFDBE := by decide +kernel
theorem test_fshl : laneAfter (with567 0 1 0xDEADBEEF 0x12345678 4) (.fshl (o456 0)) 4 2 = 0xEADBEEF1 := by decide +kernel
theorem test_fshr : laneAfter (with567 0 1 0xDEADBEEF 0x12345678 4) (.fshr (o456 0)) 4 2 = 0xF1234567 := by decide +kernel
theorem test_sar_past_width : laneAfter (with567 0 0 0x80000000 0 0) (.sar (o45 0 40)) 4 3 = 0xFFFFFFFF := by decide +kernel
theorem test_rot_wraps : laneAfter (with567 0 0 0x80000000 0 0) (.rot (o45 0 36)) 4 3 = 0x00000008 := by decide +kernel

/-- 1.0 + 2⁻⁸ is a tie that goes to even, and element 1 overflows to infinity. -/
theorem test_fadd_packed : laneAfter (withGroup { labGroup with mode := 0x120, regs := [
    (5, { fmt := 9, cnt := 1, val := .uniform 0x7F7F3F80 }), (6, { fmt := 9, cnt := 1, val := .uniform 0x7F7F3B80 })] })
    (.fadd (o456 0)) 4 17 = 0x7F803F80 := by decide +kernel

/-- The group of the example of 15 (tree against fold). -/
def treeLab : State :=
  withGroup { labGroup with mode := 0xC0, exec := 0xF, regs := [
    (5, { fmt := 6, cnt := 0, val := .general (0x3F800000 :: List.replicate 63 0x33800000) })] }

theorem test_lred_tree : laneAfter treeLab (.lred ⟨false, false, 4, 5, 0, 0, 6, 0⟩) 4 3 = 0x3F800001 := by decide +kernel
theorem test_lscan_fold : laneAfter treeLab (.lscan ⟨false, false, 6, 5, 0, 0, 6, 0⟩) 6 3 = 0x3F800000 := by decide +kernel

/-! ## Reset and invariants -/

theorem test_reset_memory : Memory.wf State.reset.mem = true ∧ State.reset.teams = [] := by decide

/-- R331: YIELD keeps the fragment from issuing for 32 cycles of 45 units after its issue. -/
theorem test_yield_waits : (match exec (.yield ⟨false, false, 0, 0, 0, 0, 0, 0⟩) lab with
    | .next t => (t.group? 0 0).map fun g => g.split.map fun e => (e.2.wait, e.2.pc)
    | _ => none) = some [(.yield (32 * 45), 4)] := by decide +kernel


/-! ## Instructions that issue -/

/-- `lab` under a MODE value. -/
def labMode (m : W32) : State := withGroup { labGroup with mode := m }

/-- What the fragment that issues sees under a timing. -/
def ctxOf (s : State) (tm : Ctx → Timing) (h : (s.ctx? ⟨.ctl, 1, 1, true⟩).isSome = true := by decide) : Ctx :=
  { (s.ctx? ⟨.ctl, 1, 1, true⟩).get h with tm := tm ((s.ctx? ⟨.ctl, 1, 1, true⟩).get h) }

theorem issues_ctxOf {op : Nat} {o : Operands} {tm : Ctx → Timing} {s : State} (h : (s.ctx? ⟨.ctl, 1, 1, true⟩).isSome = true)
    (hp : fieldsPast op o ((ctxOf s tm h).g.g + (ctxOf s tm h).g.c) = false) (ht : (ctxOf s tm h).g.badTags = false) :
    Issues op o tm s (ctxOf s tm h) := ⟨_, (Option.some_get h).symm, rfl, hp, ht⟩

/-- Whether checks pass. -/
def passes (x : Except Trap Unit) : Bool := match x with | .ok _ => true | .error _ => false

theorem eq_of_passes {x : Except Trap Unit} (h : passes x = true) : x = .ok () := by
  obtain _ | _ := x
  · exact nomatch h
  · rfl

/-- Whether the hypotheses of a result's statement hold of operands in a state. -/
def ready (op : Nat) (o : Operands) (tm : Ctx → Timing) (s : State) (allowed : Ctx → Bool) (srcs : Ctx → List Src) (w64 one affine : Ctx → Bool) :
    Bool :=
  if h : (s.ctx? ⟨.ctl, 1, 1, true⟩).isSome = true then
    let c := ctxOf s tm h
    !fieldsPast op o (c.g.g + c.g.c) && !c.g.badTags && allowed c && passes (c.check true (srcs c) o.d (w64 c)) &&
      ((srcs c).flatMap Src.regs ++ dstRegs o.d (w64 c)).all (fun n => c.g.regOuts n == []) && c.takes o.d (w64 c) (one c) (affine c)
  else false

theorem ready_met {op : Nat} {o : Operands} {tm : Ctx → Timing} {s : State} {allowed : Ctx → Bool} {srcs : Ctx → List Src}
    {w64 one affine : Ctx → Bool} (hd : o.d ≠ 123#7) (h : ready op o tm s allowed srcs w64 one affine = true) :
    ∃ c, Issues op o tm s c ∧ allowed c = true ∧ c.check true (srcs c) o.d (w64 c) = .ok () ∧
      c.quiet ((srcs c).flatMap Src.regs ++ dstRegs o.d (w64 c)) ∧ (o.d = 123#7 → c.execQuiet = true) ∧ c.takes o.d (w64 c) (one c) (affine c) = true := by
  unfold ready at h
  split at h
  · next hs =>
    simp only [Bool.and_eq_true, Bool.not_eq_true'] at h
    obtain ⟨⟨⟨⟨⟨h1, h2⟩, h3⟩, h4⟩, h5⟩, h6⟩ := h
    refine ⟨ctxOf s tm hs, issues_ctxOf hs h1 h2, h3, eq_of_passes h4, ?_, fun e => absurd e hd, h6⟩
    intro n hn
    exact eq_of_beq (List.all_eq_true.mp h5 n hn)
  · exact nomatch h

/-- The hypotheses under which an element-wise instruction delivers can be met. -/
def Met (x : ElementForm) : Prop :=
  ∃ o s c, Issues x.op o x.tm s c ∧ x.allowed c o = true ∧ c.check true (x.srcs c o) o.d (x.w64 c o) = .ok () ∧
    c.quiet ((x.srcs c o).flatMap Src.regs ++ dstRegs o.d (x.w64 c o)) ∧ (o.d = 123#7 → c.execQuiet = true) ∧
    c.takes o.d (x.w64 c o) (c.uniformPath (x.srcs c o) (x.uniformOk c o)) (x.affine c o).isSome = true

/-- Whether they are met under a MODE value. -/
def meets (m : W32) (o : Operands) (x : ElementForm) : Bool :=
  ready x.op o x.tm (labMode m) (fun c => x.allowed c o) (fun c => x.srcs c o) (fun c => x.w64 c o)
    (fun c => c.uniformPath (x.srcs c o) (x.uniformOk c o)) (fun c => (x.affine c o).isSome)

theorem met_of (m : W32) (o : Operands) (hd : o.d ≠ 123#7) {l : List ElementForm} (h : l.all (meets m o) = true) : ∀ x ∈ l, Met x := by
  intro x hx
  obtain ⟨c, hc⟩ := ready_met hd (List.all_eq_true.mp h x hx)
  exact ⟨o, _, c, hc⟩

/-- Operands that name even registers. -/
def evenRegs : Operands := ⟨false, false, 4, 2, 6, 8, 0, 0⟩

theorem witness_IntegerArithmeticDelivers : ∀ x ∈ integerForms ++ shiftForms, Met x := met_of (3 <<< 5) evenRegs (by decide) (by decide +kernel)
theorem witness_LogicAndBitOperationsDeliver : ∀ x ∈ logicForms ++ bitForms, Met x := met_of (3 <<< 5) evenRegs (by decide) (by decide +kernel)
theorem witness_SelectionsAndAddressesDeliver : ∀ x ∈ selectForms ++ addressForms, Met x := met_of 0 evenRegs (by decide) (by decide +kernel)
theorem witness_FloatArithmeticDelivers : ∀ x ∈ floatForms, Met x := met_of (7 <<< 5) evenRegs (by decide) (by decide +kernel)
theorem witness_TranscendentalsDeliver : ∀ x ∈ xuForms, Met x := met_of (6 <<< 5) evenRegs (by decide) (by decide +kernel)
theorem witness_ClassesAndConversionsDeliver : ∀ x ∈ classForms ++ convertForms, Met x := by
  intro x hx
  obtain h | h := List.mem_append.mp hx
  · exact met_of (l := classForms) (6 <<< 5) evenRegs (by decide) (by decide +kernel) x h
  · exact met_of (l := convertForms) (4 <<< 5) evenRegs (by decide) (by decide +kernel) x h

theorem witness_PredicateWritesDeliver : ∀ x ∈ predForms, ∃ o s c, Issues x.op o x.tm s c ∧ x.allowed c o = true ∧
    c.check true (x.srcs c o) 120#7 false [] x.own = .ok () ∧ o.d.toNat < 8 ∧ c.g.preds.length = 8 ∧ c.predQuiet o.d.toNat = true := by
  have h : predForms.all (fun x => [3#32 <<< 5, 7#32 <<< 5].any fun m =>
      let o : Operands := ⟨false, false, 7, 2, 6, 8, 0, 0⟩
      if h : ((labMode m).ctx? ⟨.ctl, 1, 1, true⟩).isSome = true then
        let c := ctxOf (labMode m) x.tm h
        !fieldsPast x.op o (c.g.g + c.g.c) && !c.g.badTags && x.allowed c o && passes (c.check true (x.srcs c o) 120#7 false [] x.own) &&
          c.g.preds.length == 8 && c.predQuiet 7
      else false) = true := by decide +kernel
  intro x hx
  obtain ⟨m, -, hm⟩ := List.any_eq_true.mp (List.all_eq_true.mp h x hx)
  split at hm
  · next hs =>
    simp only [Bool.and_eq_true, Bool.not_eq_true', beq_iff_eq] at hm
    obtain ⟨⟨⟨⟨⟨h1, h2⟩, h3⟩, h4⟩, h5⟩, h6⟩ := hm
    exact ⟨_, _, ctxOf (labMode m) x.tm hs, issues_ctxOf hs h1 h2, h3, eq_of_passes h4, by decide, h5, h6⟩
  · exact nomatch hm

theorem witness_LaneExchangeAndRdsrDeliver : ∀ x ∈ laneForms ++ systemForms, ∃ o s c, Issues x.op o x.tm s c ∧ x.allowed s c o = true ∧
    c.check true (x.srcs c o) o.d (x.w64 c o) = .ok () ∧ c.quiet ((x.srcs c o).flatMap Src.regs ++ dstRegs o.d (x.w64 c o)) ∧
    (o.d = 123#7 → c.execQuiet = true) ∧ c.takes o.d (x.w64 c o) (x.one c o) false = true := by
  intro x hx
  have h : (laneForms ++ systemForms).all (fun x => ready x.op evenRegs x.tm (labMode (1 <<< 5))
      (fun c => x.allowed (labMode (1 <<< 5)) c evenRegs) (fun c => x.srcs c evenRegs) (fun c => x.w64 c evenRegs) (fun c => x.one c evenRegs)
      (fun _ => false)) = true := by decide +kernel
  obtain ⟨c, hc⟩ := ready_met (by decide) (List.all_eq_true.mp h x hx)
  exact ⟨_, _, c, hc⟩


/-! ## A bench for the memory, engine and matrix instructions -/

/-- A group whose one fragment has one lane. -/
def benchGroup : Group := { labGroup with split := [(0, { labFrag with mask := 1 })] }

/-- `mappedLab` with its page in the core's TLB, a scratchpad of 32 KiB that holds small descriptors, accumulator tiles, two groups to
a team, and an operand die of context 0. -/
def bench : State :=
  { mappedLab with
    cores := [(0, { tlb := [theEntry], dieOwner := (List.range 64).map fun b => (b, 0) })]
    grids := [(0, { lab.gridAt 0 with eff := { (lab.gridAt 0).eff with scr := 1, acc := 16, groups := 2 } })]
    teams := [(0, { lab.teamAt 0 with tiles := List.range 16, scratch :=
      [(12, 1), (16, 4), (92, 1), (160, 1), (168, 1), (224, 1), (330, 1), (352, 1), (357, 1), (362, 1)] })]
    groups := [(0, benchGroup)] }

/-- `bench` with another group. -/
def benchWith (g : Group) : State := { bench with groups := [(0, g)] }

theorem okGet_eq {ε α : Type} (d : α) {x : Except ε α} (h : (match x with | .ok _ => true | .error _ => false) = true) :
    x = .ok (okOr d x) := by
  obtain _ | _ := x
  · exact nomatch h
  · rfl


/-! ## Forms and the step -/

/-- Whether an instruction of a form, under some MODE value and with no field past the registers, passes its checks in a state whose group
has a bad tag (`b`), or fails them in one that has none. -/
def stopsAt (at' : W32 → State) (b : Bool) (x : ElementForm) : Bool := [3#32 <<< 5, 7#32 <<< 5, 4#32 <<< 5, 6#32 <<< 5].any fun m =>
  if h : ((at' m).ctx? ⟨.ctl, 1, 1, true⟩).isSome = true then
    let c := ctxOf (at' m) x.tm h
    !fieldsPast x.op evenRegs (c.g.g + c.g.c) && c.g.badTags == b && x.allowed c evenRegs &&
      passes (c.check true (x.srcs c evenRegs) evenRegs.d (x.w64 c evenRegs)) == b
  else false

/-- A group with a bad tag. -/
def tagged (m : W32) : State := withGroup { labGroup with mode := m, badTags := true }

/-- A group whose even registers are pending under HZ. -/
def hazarded (m : W32) : State := withGroup { labGroup with mode := m ||| 1#32 <<< 14, pendRegs := [2, 3, 4, 5, 6, 7, 8, 9] }

theorem witness_TrapsMakeNoEffect : ∀ x ∈ integerForms ++ shiftForms ++ floatForms ++ xuForms ++ convertForms ++ logicForms ++ bitForms,
    (∃ (o : Operands) (s : State) (c0 : Ctx), s.ctx? ⟨.ctl, 1, 1, true⟩ = some c0 ∧ fieldsPast x.op o (c0.g.g + c0.g.c) = true) ∧
    (∃ (o : Operands) (s : State) (c0 : Ctx), s.ctx? ⟨.ctl, 1, 1, true⟩ = some c0 ∧
      let c : Ctx := { c0 with tm := x.tm c0 }
      fieldsPast x.op o (c.g.g + c.g.c) = false ∧ c.g.badTags = true ∧ x.allowed c o = true ∧
        c.check true (x.srcs c o) o.d (x.w64 c o) = .ok ()) ∧
    (∃ (o : Operands) (s : State) (c0 : Ctx), s.ctx? ⟨.ctl, 1, 1, true⟩ = some c0 ∧
      let c : Ctx := { c0 with tm := x.tm c0 }
      fieldsPast x.op o (c.g.g + c.g.c) = false ∧ x.allowed c o = true ∧ ∃ t, c.check true (x.srcs c o) o.d (x.w64 c o) = .error t) := by
  have h : (integerForms ++ shiftForms ++ floatForms ++ xuForms ++ convertForms ++ logicForms ++ bitForms).all (fun x =>
      fieldsPast x.op ⟨false, false, 4, 100, 6, 8, 0, 0⟩ 80 && stopsAt tagged true x && stopsAt hazarded false x) = true := by decide +kernel
  intro x hx
  have hb := List.all_eq_true.mp h x hx
  simp only [Bool.and_eq_true] at hb
  obtain ⟨⟨h1, h2⟩, h3⟩ := hb
  have hl : (lab.ctx? ⟨.ctl, 1, 1, true⟩).isSome = true := by decide +kernel
  have h80 : ((lab.ctx? ⟨.ctl, 1, 1, true⟩).get hl).g.g + ((lab.ctx? ⟨.ctl, 1, 1, true⟩).get hl).g.c = 80 := rfl
  refine ⟨⟨⟨false, false, 4, 100, 6, 8, 0, 0⟩, lab, _, (Option.some_get hl).symm, h80 ▸ h1⟩, ?_, ?_⟩
  · obtain ⟨m, -, hm⟩ := List.any_eq_true.mp h2
    split at hm
    · next hs =>
      simp only [Bool.and_eq_true, Bool.not_eq_true', beq_iff_eq] at hm
      obtain ⟨⟨⟨h4, h5⟩, h6⟩, h7⟩ := hm
      exact ⟨evenRegs, _, _, (Option.some_get hs).symm, h4, h5, h6, eq_of_passes h7⟩
    · exact nomatch hm
  · obtain ⟨m, -, hm⟩ := List.any_eq_true.mp h3
    split at hm
    · next hs =>
      simp only [Bool.and_eq_true, Bool.not_eq_true', beq_iff_eq] at hm
      obtain ⟨⟨⟨h4, -⟩, h6⟩, h7⟩ := hm
      refine ⟨evenRegs, _, _, (Option.some_get hs).symm, h4, h6, ?_⟩
      generalize hc : Ctx.check _ _ _ _ _ = r
      obtain t | _ := r
      · exact ⟨t, rfl⟩
      · exact absurd ((congrArg passes hc).symm.trans h7) nofun
    · exact nomatch hm

/-- Operands under which an engine instruction starts on `bench`. -/
def engineOperands (op : Nat) : Operands :=
  match op with
  | 0xE1 => ⟨false, false, 4, 2, 6, 127, 0, 0x01000000⟩
  | 0xE4 => ⟨false, false, 4, 127, 6, 8, 0, 64⟩
  | 0xE8 => ⟨false, false, 4, 2, 6, 127, 0, 2⟩
  | 0xF4 | 0xF6 => ⟨false, false, 4, 127, 6, 8, 0, 128⟩
  | 0xF5 => ⟨false, false, 4, 127, 6, 8, 0, 192⟩
  | 0xF7 => ⟨false, false, 4, 127, 6, 8, 0, 256⟩
  | _ => evenRegs

theorem witness_EngineInstructionsStart : ∀ x ∈ engineForms,
    (∃ o s c, Issues x.op o memTiming s c ∧ c.check true (x.srcs o) 120#7 false = .ok () ∧ c.mask = 0) ∧
    (∃ o s c, Issues x.op o memTiming s c ∧ c.check true (x.srcs o) 120#7 false = .ok () ∧ c.mask ≠ 0 ∧
      s.opsFull c.g.uid x.cls = false ∧ ∃ a, x.start o s c = .ok a) := by
  have h : engineForms.all (fun x =>
      let o := engineOperands x.op
      let s0 := benchWith { benchGroup with exec := 0 }
      (if h : (s0.ctx? ⟨.ctl, 1, 1, true⟩).isSome = true then
        let c := ctxOf s0 memTiming h
        !fieldsPast x.op o (c.g.g + c.g.c) && !c.g.badTags && passes (c.check true (x.srcs o) 120#7 false) && c.mask == 0
      else false) &&
      (if h : (bench.ctx? ⟨.ctl, 1, 1, true⟩).isSome = true then
        let c := ctxOf bench memTiming h
        !fieldsPast x.op o (c.g.g + c.g.c) && !c.g.badTags && passes (c.check true (x.srcs o) 120#7 false) && c.mask == 1 &&
          !bench.opsFull c.g.uid x.cls && passes ((x.start o bench c).map fun _ => ())
      else false)) = true := by decide +kernel
  intro x hx
  have hb := List.all_eq_true.mp h x hx
  simp only [Bool.and_eq_true] at hb
  obtain ⟨ha, hb⟩ := hb
  refine ⟨?_, ?_⟩
  · split at ha
    · next hs =>
      simp only [Bool.and_eq_true, Bool.not_eq_true', beq_iff_eq] at ha
      obtain ⟨⟨⟨h1, h2⟩, h3⟩, h4⟩ := ha
      exact ⟨_, _, _, issues_ctxOf hs h1 h2, eq_of_passes h3, h4⟩
    · exact nomatch ha
  · split at hb
    · next hs =>
      simp only [Bool.and_eq_true, Bool.not_eq_true', beq_iff_eq] at hb
      obtain ⟨⟨⟨⟨⟨h1, h2⟩, h3⟩, h4⟩, h5⟩, h6⟩ := hb
      refine ⟨_, _, _, issues_ctxOf hs h1 h2, eq_of_passes h3, ?_, h5, ?_⟩
      · rw [h4]; decide
      · generalize x.start (engineOperands x.op) bench (ctxOf bench memTiming hs) = r at h6
        obtain _ | a := r
        · exact nomatch h6
        · exact ⟨a, rfl⟩
    · exact nomatch hb

theorem witness_MemoryStaysCanonical : ∃ s t : State, s.mem ≠ [] ∧ Memory.wf s.mem = true ∧ step s = .next t :=
  ⟨{ bench with sched := [] }, _, by decide +kernel, by decide +kernel, rfl⟩

theorem witness_ScratchpadsStayCanonical : ∃ s t : State, (∃ e ∈ s.teams, e.2.scratch ≠ []) ∧
    (∀ e ∈ s.teams, Memory.wf e.2.scratch = true) ∧ step s = .next t :=
  ⟨{ bench with sched := [] }, _, by decide +kernel, by decide +kernel, rfl⟩

/-- `bench` with a word at its fragment's PC and an issue slot next. -/
def about (w : W32) : State :=
  { bench with
    sched := [(0, .issue 0 0)], cur := none
    cores := [(0, { icache := [{ ctx := 0, vline := 0, words := [w, 0, 0], filled := 0, used := 0 }] })] }

theorem witness_StepRunsTheDecodedInstruction :
    (∃ (k : Core) (ctx a : Nat) (i : Instr) (n : Nat), decode (k.wordsAt ctx a) = .ok (i, n)) ∧
    (∃ (s : State) (core quad : Nat) (w : Cand), w ∈ s.candidates core quad) ∧
    (∃ (s : State) (dt core quad : Nat) (rest : List (Nat × Act)) (w : Cand) (others : List Cand) (i : Instr) (t : State),
      s.sched = (dt, .issue core quad) :: rest ∧
      let s1 := ({ s.elapse dt with sched := rest, cur := none } : State).settleJoins core quad
      (s1.core core).pipeFree quad 4 s1.time = true ∧ rank (s1.candidates core quad) = w :: others ∧ w.what = .instr i ∧
      let s0 := s1.issuing core w.slot w.entry 0 false
      exec i s0 = .next t ∧ stalledIn s0 t core w.slot w.entry = false ∧ (t.uni = true ∨ s1.partners core quad w = [])) ∧
    (∃ (s : State) (dt core quad : Nat) (rest : List (Nat × Act)) (w : Cand) (others : List Cand) (i : Instr) (t : State),
      s.sched = (dt, .issue core quad) :: rest ∧
      let s1 := ({ s.elapse dt with sched := rest, cur := none } : State).settleJoins core quad
      (s1.core core).pipeFree quad 4 s1.time = true ∧ rank (s1.candidates core quad) = w :: others ∧ w.what = .instr i ∧
      let s0 := s1.issuing core w.slot w.entry 0 false
      exec i s0 = .next t ∧ stalledIn s0 t core w.slot w.entry = true) ∧
    (∃ (s : State) (dt core quad sub : Nat) (rest : List (Nat × Act)) (w : Cand) (others : List Cand), s.sched = (dt, .issue core quad) :: rest ∧
      let s1 := ({ s.elapse dt with sched := rest, cur := none } : State).settleJoins core quad
      (s1.core core).pipeFree quad 4 s1.time = true ∧ rank (s1.candidates core quad) = w :: others ∧ w.what = .illegal sub) := by
  refine ⟨⟨(about 0x00400000).core 0, 0, 0, _, _, okGet_eq (.nop ⟨false, false, 0, 0, 0, 0, 0, 0⟩, 1) (by decide +kernel)⟩,
    ⟨about 0x00400000, 0, 0, _, List.head_mem (by decide +kernel)⟩,
    ⟨about 0x00400000, 0, 0, 0, [], _, _, .nop ⟨false, false, 0, 0, 0, 0, 0, 0⟩, _, rfl, by decide +kernel,
      (List.cons_head_tail (by decide +kernel)).symm, by decide +kernel, rfl, by decide +kernel, .inr (by decide +kernel)⟩,
    ⟨{ about 0x28020AF1 with groups := [(0, { benchGroup with ldcnt := 63 })] }, 0, 0, 0, [], _, _, .ld ⟨false, false, 4, 10, 120, 0, 0, 0⟩, _,
      rfl, by decide +kernel, (List.cons_head_tail (by decide +kernel)).symm, by decide +kernel, rfl, by decide +kernel⟩,
    ⟨about 0x00400001, 0, 0, 0, 4, [], _, _, rfl, by decide +kernel, (List.cons_head_tail (by decide +kernel)).symm, by decide +kernel⟩⟩


/-! ## Witnesses of the statements about instructions -/

theorem witness_GroupStateWrites :
    (∃ o s c, Issues 0x02 o ctlTiming s c ∧ modeAllowed (c.single o o.a) = true ∧ c.check true [raw32 o.a] 120#7 false [] false = .ok ()) ∧
    (∃ o s c, Issues 0x02 o ctlTiming s c ∧ modeAllowed (c.single o o.a) = false) ∧
    (∃ o s c w64, Issues 0x0E o wrsrTiming s c ∧ srInfo o.lit.toNat = some (w64, true) ∧ (w64 && isReg o.a && o.a.toNat % 2 == 1) = false ∧ (c.mask ≠ 0 → c.g.handler = true → o.lit = 0x41#32 → modeAllowed (c.single o o.a w64) = true) ∧ c.check true [⟨o.a, w64, [], .zext⟩] 120#7 false = .ok () ∧ (c.mask = 0 ∨ c.g.handler = false)) ∧
    (∃ o s c w64, Issues 0x0E o wrsrTiming s c ∧ srInfo o.lit.toNat = some (w64, true) ∧ (w64 && isReg o.a && o.a.toNat % 2 == 1) = false ∧ (c.mask ≠ 0 → c.g.handler = true → o.lit = 0x41#32 → modeAllowed (c.single o o.a w64) = true) ∧ c.check true [⟨o.a, w64, [], .zext⟩] 120#7 false = .ok () ∧ c.mask ≠ 0 ∧ c.g.handler = true) ∧
    (∃ o s c, Issues 0x0E o wrsrTiming s c ∧ (∀ w64, srInfo o.lit.toNat ≠ some (w64, true))) ∧
    (∃ o s c, Issues 0x0F o ctlTiming s c ∧ c.check true [raw32 o.a] 120#7 false = .ok ()) ∧
    (∃ o s c, Issues 0x10 o srseedTiming s c ∧ c.check true [raw32 o.a] 120#7 false = .ok ()) ∧
    (∃ o s c, Issues 0x94 o flagTiming s c ∧ c.check true [raw32 o.a] 120#7 false = .ok ()) ∧
    (∃ o s c, Issues 0xC9 o ctlTiming s c ∧ c.check true [raw32 o.a] 120#7 false [] false = .ok ()) :=
  ⟨⟨⟨false, false, 4, 2, 6, 8, 0, 0⟩, bench, _, issues_ctxOf (by decide +kernel) (by decide +kernel) (by decide +kernel), by decide +kernel, eq_of_passes (by decide +kernel)⟩,
   ⟨⟨false, false, 4, 127, 6, 8, 0, 32767⟩, bench, _, issues_ctxOf (by decide +kernel) (by decide +kernel) (by decide +kernel), by decide +kernel⟩,
   ⟨⟨false, false, 4, 4, 6, 8, 0, 64⟩, bench, _, true, issues_ctxOf (by decide +kernel) (by decide +kernel) (by decide +kernel), by decide +kernel, by decide +kernel, by decide +kernel, eq_of_passes (by decide +kernel), by decide +kernel⟩,
   ⟨⟨false, false, 4, 4, 6, 8, 0, 64⟩, benchWith { benchGroup with handler := true }, _, true, issues_ctxOf (by decide +kernel) (by decide +kernel) (by decide +kernel), by decide +kernel, by decide +kernel, by decide +kernel, eq_of_passes (by decide +kernel), by decide +kernel⟩,
   ⟨⟨false, false, 4, 2, 6, 8, 0, 4095⟩, bench, _, issues_ctxOf (by decide +kernel) (by decide +kernel) (by decide +kernel), by decide +kernel⟩,
   ⟨⟨false, false, 4, 2, 6, 8, 0, 0⟩, bench, _, issues_ctxOf (by decide +kernel) (by decide +kernel) (by decide +kernel), eq_of_passes (by decide +kernel)⟩,
   ⟨⟨false, false, 4, 2, 6, 8, 0, 0⟩, bench, _, issues_ctxOf (by decide +kernel) (by decide +kernel) (by decide +kernel), eq_of_passes (by decide +kernel)⟩,
   ⟨⟨false, false, 4, 2, 6, 8, 0, 0⟩, bench, _, issues_ctxOf (by decide +kernel) (by decide +kernel) (by decide +kernel), eq_of_passes (by decide +kernel)⟩,
   ⟨⟨false, false, 4, 2, 6, 8, 0, 0⟩, bench, _, issues_ctxOf (by decide +kernel) (by decide +kernel) (by decide +kernel), eq_of_passes (by decide +kernel)⟩⟩

theorem witness_BranchesGo :
    (∃ o s c, Issues 0x01 o ctlTiming s c) ∧
    (∃ o s c, Issues 0x03 o ctlTiming s c ∧ c.check true [⟨o.a, true, [], .zext⟩] 120#7 false [] false = .ok () ∧ c.single o o.a true % 4 = 0) ∧
    (∃ o s c, Issues 0x03 o ctlTiming s c ∧ c.check true [⟨o.a, true, [], .zext⟩] 120#7 false [] false = .ok () ∧ c.single o o.a true % 4 ≠ 0) ∧
    (∃ o s c, Issues 0x03 o ctlTiming s c) ∧
    (∃ o s c, Issues 0x08 o ctlTiming s c ∧ c.check true [⟨o.a, true, [], .zext⟩] 120#7 false [] false = .ok () ∧ c.single o o.a true % 4 = 0) ∧
    (∃ o s c k, Issues 0x05 o ctlTiming s c ∧ tget? c.g.joins c.f.jrec = some k) ∧
    (∃ o s c, Issues 0x05 o ctlTiming s c ∧ tget? c.g.joins c.f.jrec = none) ∧
    (∃ o s c, Issues 0x0A o ctlTiming s c) :=
  ⟨⟨⟨false, false, 4, 2, 6, 8, 0, 0⟩, bench, _, issues_ctxOf (by decide +kernel) (by decide +kernel) (by decide +kernel)⟩,
   ⟨⟨false, false, 4, 2, 6, 8, 0, 0⟩, bench, _, issues_ctxOf (by decide +kernel) (by decide +kernel) (by decide +kernel), eq_of_passes (by decide +kernel), by decide +kernel⟩,
   ⟨⟨false, false, 4, 123, 6, 8, 0, 0⟩, bench, _, issues_ctxOf (by decide +kernel) (by decide +kernel) (by decide +kernel), eq_of_passes (by decide +kernel), by decide +kernel⟩,
   ⟨⟨false, false, 4, 2, 6, 8, 0, 0⟩, bench, _, issues_ctxOf (by decide +kernel) (by decide +kernel) (by decide +kernel)⟩,
   ⟨⟨false, false, 4, 2, 6, 8, 0, 0⟩, bench, _, issues_ctxOf (by decide +kernel) (by decide +kernel) (by decide +kernel), eq_of_passes (by decide +kernel), by decide +kernel⟩,
   ⟨⟨false, false, 4, 2, 6, 8, 0, 0⟩, benchWith { benchGroup with joins := [(0, { join := 8, pend := 1 })], split := [(0, { labFrag with mask := 1, jrec := 0 })] }, _, { join := 8, pend := 1 }, issues_ctxOf (by decide +kernel) (by decide +kernel) (by decide +kernel), by decide +kernel⟩,
   ⟨⟨false, false, 4, 2, 6, 8, 0, 0⟩, bench, _, issues_ctxOf (by decide +kernel) (by decide +kernel) (by decide +kernel), by decide +kernel⟩,
   ⟨⟨false, false, 4, 2, 6, 8, 0, 0⟩, bench, _, issues_ctxOf (by decide +kernel) (by decide +kernel) (by decide +kernel)⟩⟩

theorem witness_CallsLink :
    (∃ o s c e, Issues 0x07 o callTiming s c ∧ c.check true [⟨o.a, true, [], .zext⟩] 120#7 false [] false = .ok () ∧ c.single o o.a true % 4 = 0 ∧ c.result o.d true 3 0 (.uni (c.next 0x07 o).toNat) c.f.mask = .ok e) ∧
    (∃ o s c e, Issues 0x07 o callTiming s c ∧ c.check true [] o.d true [] false = .ok () ∧ c.result o.d true 3 0 (.uni (c.next 0x07 o).toNat) c.f.mask = .ok e) ∧
    (∃ o s c, Issues 0x07 o callTiming s c ∧ c.check true [⟨o.a, true, [], .zext⟩] 120#7 false [] false = .ok () ∧ isReg o.d = true ∧ c.g.g ≤ o.d.toNat + 1 ∧ c.f.mask ≠ 0 ∧ c.f.mask ≠ fullMask) ∧
    (∃ (o : Operands) (c : Ctx) (e : Effect), c.result o.d true 3 0 (.uni (c.next 0x07 o).toNat) c.f.mask = .ok e ∧ isReg o.d = true ∧ c.quiet [o.d.toNat, o.d.toNat + 1] ∧ c.f.mask ≠ 0) :=
  ⟨⟨⟨false, false, 4, 2, 6, 8, 0, 0⟩, bench, _, _, issues_ctxOf (by decide +kernel) (by decide +kernel) (by decide +kernel), eq_of_passes (by decide +kernel), by decide +kernel, rfl⟩,
   ⟨⟨false, false, 4, 2, 6, 8, 0, 0⟩, bench, _, _, issues_ctxOf (by decide +kernel) (by decide +kernel) (by decide +kernel), eq_of_passes (by decide +kernel), rfl⟩,
   ⟨⟨false, false, 63, 2, 6, 8, 0, 0⟩, benchWith { benchGroup with split := [(0, { labFrag with mask := 1 })] }, _, issues_ctxOf (by decide +kernel) (by decide +kernel) (by decide +kernel), eq_of_passes (by decide +kernel), by decide +kernel⟩,
   ⟨⟨false, false, 4, 2, 6, 8, 0, 0⟩, ctxOf bench ctlTiming, _, rfl, by decide +kernel, by intro n hn; revert n; decide +kernel, by decide +kernel⟩⟩

theorem witness_DivergentBranchesSplit :
    (∃ o s c, Issues 0x04 o ctlTiming s c ∧ c.hazard [] [o.a.toNat] false = false ∧ (let p := if o.fn = 1#5 then ~~~ c.g.predAt c.seed o.a.toNat c.now else c.g.predAt c.seed o.a.toNat c.now; (let split := c.g.splitAt c.entry (c.f.mask &&& p) (c.f.mask &&& ~~~ p) (c.f.pc + 4#64 * (o.lit.extractLsb' 0 16).signExtend 64) (c.f.pc + BitVec.ofNat 64 (instrBytes 0x04 o)) (c.f.pc + 4#64 * (o.lit.extractLsb' 16 16).signExtend 64) c.now; ∃ g, split = some g))) ∧
    (∃ o s c, Issues 0x04 o ctlTiming s c ∧ c.hazard [] [o.a.toNat] false = false ∧ (let p := if o.fn = 1#5 then ~~~ c.g.predAt c.seed o.a.toNat c.now else c.g.predAt c.seed o.a.toNat c.now; (let split := c.g.splitAt c.entry (c.f.mask &&& p) (c.f.mask &&& ~~~ p) (c.f.pc + 4#64 * (o.lit.extractLsb' 0 16).signExtend 64) (c.f.pc + BitVec.ofNat 64 (instrBytes 0x04 o)) (c.f.pc + 4#64 * (o.lit.extractLsb' 16 16).signExtend 64) c.now; split = none))) ∧
    (∃ o s c, Issues 0x06 o ctlTiming s c ∧ c.check true [⟨o.a, true, [], .zext⟩] 120#7 false = .ok () ∧ (let target := fun l => BitVec.ofNat 64 (c.value ⟨o.a, true, [], .zext⟩ o l c.now); (let first := target (lowLane c.mask); (let taken := (c.f.mask &&& ~~~ c.mask) ||| maskOf fun l => inMask c.mask l && target l == first; (let split := c.g.splitAt c.entry taken (c.f.mask &&& ~~~ taken) first c.f.pc (c.f.pc + 4#64 * o.lit.signExtend 64) c.now; c.mask = 0))))) ∧
    (∃ o s c, Issues 0x06 o ctlTiming s c ∧ c.check true [⟨o.a, true, [], .zext⟩] 120#7 false = .ok () ∧ (let target := fun l => BitVec.ofNat 64 (c.value ⟨o.a, true, [], .zext⟩ o l c.now); (let first := target (lowLane c.mask); (let taken := (c.f.mask &&& ~~~ c.mask) ||| maskOf fun l => inMask c.mask l && target l == first; (let split := c.g.splitAt c.entry taken (c.f.mask &&& ~~~ taken) first c.f.pc (c.f.pc + 4#64 * o.lit.signExtend 64) c.now; c.mask ≠ 0 ∧ ∃ g, split = some g ∧ first.extractLsb' 0 2 = 0#2))))) ∧
    (∃ o s c, Issues 0x06 o ctlTiming s c ∧ c.check true [⟨o.a, true, [], .zext⟩] 120#7 false = .ok () ∧ (let target := fun l => BitVec.ofNat 64 (c.value ⟨o.a, true, [], .zext⟩ o l c.now); (let first := target (lowLane c.mask); (let taken := (c.f.mask &&& ~~~ c.mask) ||| maskOf fun l => inMask c.mask l && target l == first; (let split := c.g.splitAt c.entry taken (c.f.mask &&& ~~~ taken) first c.f.pc (c.f.pc + 4#64 * o.lit.signExtend 64) c.now; c.mask ≠ 0 ∧ split = none))))) ∧
    (∃ o s c, Issues 0x06 o ctlTiming s c ∧ c.check true [⟨o.a, true, [], .zext⟩] 120#7 false = .ok () ∧ (let target := fun l => BitVec.ofNat 64 (c.value ⟨o.a, true, [], .zext⟩ o l c.now); (let first := target (lowLane c.mask); (let taken := (c.f.mask &&& ~~~ c.mask) ||| maskOf fun l => inMask c.mask l && target l == first; (let split := c.g.splitAt c.entry taken (c.f.mask &&& ~~~ taken) first c.f.pc (c.f.pc + 4#64 * o.lit.signExtend 64) c.now; c.mask ≠ 0 ∧ split.isSome = true ∧ first.extractLsb' 0 2 ≠ 0#2))))) ∧
    (∃ (g : Group) (e : Nat) (t n tpc npc j : W64) (now : Nat) (f : Frag), tget? g.split e = some f ∧ n = 0) ∧
    (∃ (g : Group) (e : Nat) (t n tpc npc j : W64) (now : Nat) (f : Frag), tget? g.split e = some f ∧ n ≠ 0 ∧ t = 0) ∧
    (∃ (g : Group) (e : Nat) (t n tpc npc j : W64) (now : Nat) (f : Frag), tget? g.split e = some f ∧ n ≠ 0 ∧ t ≠ 0) ∧
    (∃ (g : Group) (e : Nat) (pc : W64) (f : Frag), tget? g.split e = some f ∧ (∀ k, tget? g.joins f.jrec = some k → k.join ≠ pc)) :=
  ⟨⟨⟨false, false, 4, 2, 6, 8, 0, 0⟩, benchWith { benchGroup with preds := [0, 0, 1, 0, 0, 0, 0, 0], split := [(0, { labFrag with mask := 3 })] }, _, issues_ctxOf (by decide +kernel) (by decide +kernel) (by decide +kernel), by decide +kernel, _, (Option.some_get (by decide +kernel)).symm⟩,
   ⟨⟨false, false, 4, 2, 6, 8, 0, 0⟩, benchWith { benchGroup with preds := [0, 0, 1, 0, 0, 0, 0, 0], split := [(0, { labFrag with mask := 3 })], joins := (List.range 16).map fun i => (i, { join := 8, pend := 1 }) }, _, issues_ctxOf (by decide +kernel) (by decide +kernel) (by decide +kernel), by decide +kernel⟩,
   ⟨⟨false, false, 4, 2, 6, 8, 0, 0⟩, benchWith { benchGroup with split := [(0, { labFrag with mask := 1 })], exec := 0 }, _, issues_ctxOf (by decide +kernel) (by decide +kernel) (by decide +kernel), eq_of_passes (by decide +kernel), by decide +kernel⟩,
   ⟨⟨false, false, 4, 2, 6, 8, 0, 0⟩, benchWith { benchGroup with regs := [(2, { fmt := 3, cnt := 0, val := .general [0, 4] }), (3, { fmt := 3, cnt := 0, val := .uniform 0 })], split := [(0, { labFrag with mask := 3 })] }, _, issues_ctxOf (by decide +kernel) (by decide +kernel) (by decide +kernel), eq_of_passes (by decide +kernel), by decide +kernel, _, (Option.some_get (by decide +kernel)).symm, by decide +kernel⟩,
   ⟨⟨false, false, 4, 2, 6, 8, 0, 0⟩, benchWith { benchGroup with regs := [(2, { fmt := 3, cnt := 0, val := .general [0, 4] }), (3, { fmt := 3, cnt := 0, val := .uniform 0 })], split := [(0, { labFrag with mask := 3 })], joins := (List.range 16).map fun i => (i, { join := 8, pend := 1 }) }, _, issues_ctxOf (by decide +kernel) (by decide +kernel) (by decide +kernel), eq_of_passes (by decide +kernel), by decide +kernel⟩,
   ⟨⟨false, false, 4, 123, 6, 8, 0, 0⟩, bench, _, issues_ctxOf (by decide +kernel) (by decide +kernel) (by decide +kernel), eq_of_passes (by decide +kernel), by decide +kernel⟩,
   ⟨benchGroup, 0, 1, 0, 8, 4, 12, 0, { labFrag with mask := 1 }, by decide +kernel⟩,
   ⟨benchGroup, 0, 0, 1, 8, 4, 12, 0, { labFrag with mask := 1 }, by decide +kernel⟩,
   ⟨benchGroup, 0, 1, 1, 8, 4, 12, 0, { labFrag with mask := 1 }, by decide +kernel⟩,
   ⟨benchGroup, 0, 8, { labFrag with mask := 1 }, by decide +kernel⟩⟩

theorem witness_ExitsAndTraps :
    (∃ o s c, Issues 0x09 o ctlTiming s c ∧ c.mask = 0) ∧
    (∃ o s c, Issues 0x09 o ctlTiming s c ∧ c.mask ≠ 0 ∧ c.g.handler = true) ∧
    (∃ o s c, Issues 0x09 o ctlTiming s c ∧ c.mask ≠ 0 ∧ c.g.handler = false ∧ (c.g.exitLanes c.entry c.mask).gone = true) ∧
    (∃ o s c, Issues 0x09 o ctlTiming s c ∧ c.mask ≠ 0 ∧ c.g.handler = false ∧ (c.g.exitLanes c.entry c.mask).gone = false) ∧
    (∃ o s c, Issues 0x0B o ctlTiming s c ∧ c.check true [raw32 o.a] 120#7 false = .ok () ∧ c.mask = 0) ∧
    (∃ o s c, Issues 0x0B o ctlTiming s c ∧ c.check true [raw32 o.a] 120#7 false = .ok () ∧ c.mask ≠ 0) ∧
    (∃ o s c, Issues 0x0C o ctlTiming s c ∧ c.g.handler = false) ∧
    (∃ o s c, Issues 0x0C o ctlTiming s c ∧ c.g.handler = true) ∧
    (∃ (op : Nat) (b q : Bool) (s : State) (c : Ctx), s.ctx? ⟨.ctl, 1, 1, true⟩ = some c) :=
  ⟨⟨⟨false, false, 4, 2, 6, 8, 0, 0⟩, benchWith { benchGroup with exec := 0 }, _, issues_ctxOf (by decide +kernel) (by decide +kernel) (by decide +kernel), by decide +kernel⟩,
   ⟨⟨false, false, 4, 2, 6, 8, 0, 0⟩, benchWith { benchGroup with handler := true }, _, issues_ctxOf (by decide +kernel) (by decide +kernel) (by decide +kernel), by decide +kernel⟩,
   ⟨⟨false, false, 4, 2, 6, 8, 0, 0⟩, benchWith { benchGroup with exited := BitVec.allOnes 64 }, _, issues_ctxOf (by decide +kernel) (by decide +kernel) (by decide +kernel), by decide +kernel⟩,
   ⟨⟨false, false, 4, 2, 6, 8, 0, 0⟩, benchWith { benchGroup with split := [(0, { labFrag with mask := 3 })], exec := 1 }, _, issues_ctxOf (by decide +kernel) (by decide +kernel) (by decide +kernel), by decide +kernel⟩,
   ⟨⟨false, false, 4, 2, 6, 8, 0, 0⟩, benchWith { benchGroup with exec := 0 }, _, issues_ctxOf (by decide +kernel) (by decide +kernel) (by decide +kernel), eq_of_passes (by decide +kernel), by decide +kernel⟩,
   ⟨⟨false, false, 4, 2, 6, 8, 0, 0⟩, bench, _, issues_ctxOf (by decide +kernel) (by decide +kernel) (by decide +kernel), eq_of_passes (by decide +kernel), by decide +kernel⟩,
   ⟨⟨false, false, 4, 2, 6, 8, 0, 0⟩, bench, _, issues_ctxOf (by decide +kernel) (by decide +kernel) (by decide +kernel), by decide +kernel⟩,
   ⟨⟨false, false, 4, 2, 6, 8, 0, 0⟩, benchWith { benchGroup with handler := true }, _, issues_ctxOf (by decide +kernel) (by decide +kernel) (by decide +kernel), by decide +kernel⟩,
   ⟨255, false, false, bench, _, (Option.some_get (by decide +kernel)).symm⟩⟩

theorem witness_TrapEntrySavesAndRedirects : (∃ (s : State) (core slot entry : Nat) (t : Trap) (pc : W64) (g : Group) (f : Frag), s.group? core slot = some g ∧ tget? g.split entry = some f ∧ g.handler = false ∧ (s.gridAt (s.teamOf g).grid).eff.handler ≠ 0) :=
  ⟨{ bench with grids := [(0, { bench.gridAt 0 with eff := { (bench.gridAt 0).eff with handler := 0x40 } })] }, 0, 0, 0, .illegal 1, 4, benchGroup, { labFrag with mask := 1 }, by decide +kernel⟩

theorem witness_ReturnRestores : (∃ (g : Group) (e : Nat) (f : Frag), tget? g.split e = some f) :=
  ⟨benchGroup, 0, { labFrag with mask := 1 }, by decide +kernel⟩

theorem witness_TrapWithoutHandlerEndsTheDomain :
    (∃ (s : State) (core slot entry : Nat) (t : Trap) (pc : W64) (g : Group), s.group? core slot = some g ∧ g.handler = true) ∧
    (∃ (s : State) (core slot entry : Nat) (t : Trap) (pc : W64) (g : Group), s.group? core slot = some g ∧ g.handler = false ∧ (s.gridAt (s.teamOf g).grid).eff.handler = 0) :=
  ⟨⟨benchWith { benchGroup with handler := true }, 0, 0, 0, .illegal 1, 4, { benchGroup with handler := true }, by decide +kernel⟩,
   ⟨bench, 0, 0, 0, .illegal 1, 4, benchGroup, by decide +kernel⟩⟩

theorem witness_LoadsBegin :
    (∃ (o : Operands) (s : State) (c : Ctx), Issues 0xA0 o memTiming s c ∧ c.g.ldcnt < 63 ∧ c.check true [basePair o, offWord o] 120#7 false = .ok () ∧ c.dstCheck o.d (loadBytes o.fn.toNat) (c.uniformAddress o true) = .ok () ∧ (let one := c.uniformAddress o true; (let lanes := (if one then [lowLane c.mask] else lanesOf c.mask).map fun l => (l, c.memAddr o (if one then c.now else c.laneTime l) l); c.mask = 0))) ∧
    (∃ (o : Operands) (s : State) (c : Ctx), Issues 0xA0 o memTiming s c ∧ c.g.ldcnt < 63 ∧ c.check true [basePair o, offWord o] 120#7 false = .ok () ∧ c.dstCheck o.d (loadBytes o.fn.toNat) (c.uniformAddress o true) = .ok () ∧ (let one := c.uniformAddress o true; (let lanes := (if one then [lowLane c.mask] else lanesOf c.mask).map fun l => (l, c.memAddr o (if one then c.now else c.laneTime l) l); c.mask ≠ 0 ∧ memChecks lanes (loadBytes o.fn.toNat) false = .ok () ∧ ∃ es, s.translate c.core (s.teamOf c.g).ctx (slotKey c.core c.slot) c.entry lanes false false = .ok (.lanes es)))) :=
  ⟨⟨⟨false, false, 4, 2, 6, 8, 0, 0⟩, benchWith { benchGroup with exec := 0 }, _, issues_ctxOf (by decide +kernel) (by decide +kernel) (by decide +kernel), by decide +kernel, eq_of_passes (by decide +kernel), eq_of_passes (by decide +kernel), by decide +kernel⟩,
   ⟨⟨false, false, 4, 2, 6, 8, 0, 0⟩, bench, _, issues_ctxOf (by decide +kernel) (by decide +kernel) (by decide +kernel), by decide +kernel, eq_of_passes (by decide +kernel), eq_of_passes (by decide +kernel), by decide +kernel, eq_of_passes (by decide +kernel), [(0, 0, theEntry)], rfl⟩⟩

theorem witness_ScratchpadLoadsBegin :
    (∃ (o : Operands) (s : State) (c : Ctx), Issues 0xA2 o memTiming s c ∧ c.g.ldcnt < 63 ∧ c.check true [baseWord32 o, offWord o] 120#7 false = .ok () ∧ c.dstCheck o.d (loadBytes o.fn.toNat) (c.uniformAddress o false) = .ok () ∧ c.mask ≠ 0 ∧ (let one := c.uniformAddress o false; (let lanes := (c.scratchBeats o (loadBytes o.fn.toNat) 22 one).1; scratchChecks lanes (loadBytes o.fn.toNat) false (fun a => a ≥ s.scratchSize c.g.team) = .ok () ∧ s.ownRemote c lanes (loadBytes o.fn.toNat) = true))) ∧
    (∃ (o : Operands) (s : State) (c : Ctx), Issues 0xA2 o memTiming s c ∧ c.g.ldcnt < 63 ∧ c.check true [baseWord32 o, offWord o] 120#7 false = .ok () ∧ c.dstCheck o.d (loadBytes o.fn.toNat) (c.uniformAddress o false) = .ok () ∧ c.mask ≠ 0 ∧ (let one := c.uniformAddress o false; (let lanes := (c.scratchBeats o (loadBytes o.fn.toNat) 22 one).1; scratchChecks lanes (loadBytes o.fn.toNat) false (fun a => a ≥ s.scratchSize c.g.team) = .ok () ∧ s.ownRemote c lanes (loadBytes o.fn.toNat) = false))) ∧
    (∃ (o : Operands) (s : State) (c : Ctx), Issues 0xA4 o memTiming s c ∧ c.g.ldcnt < 63 ∧ c.check true [baseWord32 o, offWord o] 120#7 false = .ok () ∧ c.dstCheck o.d (loadBytes o.fn.toNat) (c.uniformAddress o false) = .ok () ∧ c.mask ≠ 0 ∧ (let one := c.uniformAddress o false; (let lanes := (if one then [lowLane c.mask] else lanesOf c.mask).map fun l => (l, c.scratchAddr o (if one then c.now else c.laneTime l) l); scratchChecks lanes (loadBytes o.fn.toNat) false (fun a => s.remoteBad c.g.team a) = .ok ()))) :=
  ⟨⟨⟨false, false, 4, 2, 6, 8, 0, 0⟩, { bench with accs := [(3, { theAcc with space := .remote, op := .store, ldc := false, lanes := [{ lane := 0, loc := .dev 0, team := 0 }] })] }, _, issues_ctxOf (by decide +kernel) (by decide +kernel) (by decide +kernel), by decide +kernel, eq_of_passes (by decide +kernel), eq_of_passes (by decide +kernel), by decide +kernel, eq_of_passes (by decide +kernel), by decide +kernel⟩,
   ⟨⟨false, false, 4, 2, 6, 8, 0, 0⟩, bench, _, issues_ctxOf (by decide +kernel) (by decide +kernel) (by decide +kernel), by decide +kernel, eq_of_passes (by decide +kernel), eq_of_passes (by decide +kernel), by decide +kernel, eq_of_passes (by decide +kernel), by decide +kernel⟩,
   ⟨⟨false, false, 4, 2, 6, 8, 0, 0⟩, bench, _, issues_ctxOf (by decide +kernel) (by decide +kernel) (by decide +kernel), by decide +kernel, eq_of_passes (by decide +kernel), eq_of_passes (by decide +kernel), by decide +kernel, eq_of_passes (by decide +kernel)⟩⟩

theorem witness_LoadDataArrives : (∃ (s : State) (id key : Nat) (a : Access) (g : Group), tget? s.accs id = some a ∧ a.ldc = true ∧ a.readyAt ≤ s.time ∧ s.dataComing id = false ∧ a.dead = false ∧ a.space ≠ .remote ∧ a.hasHost = false ∧ a.lanes.all (fun x => x.done && x.err == 0) = true ∧ a.acks = 0 ∧ s.groupKey? a.guid = some key ∧ tget? s.groups key = some g ∧ isReg a.dst = true ∧ a.bytes ≤ 4 ∧ a.one = false ∧ (∀ n ∈ a.dstRegs, (g.settle s.time).regOuts n = [])) :=
  ⟨{ bench with accs := [(5, theAcc)] }, 5, 0, theAcc, benchGroup, by decide +kernel⟩

theorem witness_StoresAndAtomicsBegin :
    (∃ (o : Operands) (s : State) (c : Ctx), Issues 0xA1 o memTiming s c ∧ c.g.stcnt < 63 ∧ c.check true ([basePair o, offWord o] ++ storeSrcs o (storeBytes o.fn.toNat)) 120#7 false = .ok () ∧ c.mask ≠ 0 ∧ (let n := storeBytes o.fn.toNat; (let lanes := (lanesOf c.mask).map fun l => (l, c.memAddr o (c.laneTime l) l); (let team := s.teamOf c.g; memChecks lanes n true = .ok () ∧ ∃ es, s.translate c.core team.ctx (slotKey c.core c.slot) c.entry lanes true false = .ok (.lanes es) ∧ (let ver := fun e : TlbEntry => (s.gridAt team.grid).eff.vmode == 0 && !e.d && !e.nc && !e.ats && !e.peer; (let u := s.touchPages c.core team.ctx es; (let full := es.any fun (_, va, e) => ver e && (u.storeWaits c.core team.task (e.target va) || u.olderMeets c.g.uid u.ids (e.loc va) n); full = true))))))) ∧
    (∃ (o : Operands) (s : State) (c : Ctx), Issues 0xA1 o memTiming s c ∧ c.g.stcnt < 63 ∧ c.check true ([basePair o, offWord o] ++ storeSrcs o (storeBytes o.fn.toNat)) 120#7 false = .ok () ∧ c.mask ≠ 0 ∧ (let n := storeBytes o.fn.toNat; (let lanes := (lanesOf c.mask).map fun l => (l, c.memAddr o (c.laneTime l) l); (let team := s.teamOf c.g; memChecks lanes n true = .ok () ∧ ∃ es, s.translate c.core team.ctx (slotKey c.core c.slot) c.entry lanes true false = .ok (.lanes es) ∧ (let ver := fun e : TlbEntry => (s.gridAt team.grid).eff.vmode == 0 && !e.d && !e.nc && !e.ats && !e.peer; (let u := s.touchPages c.core team.ctx es; (let full := es.any fun (_, va, e) => ver e && (u.storeWaits c.core team.task (e.target va) || u.olderMeets c.g.uid u.ids (e.loc va) n); full = false ∧ (let merged := es.foldl (fun s (l, va, e) => if ver e then s.versionedStore c.core team.task (e.target va) (leBytes n (c.storeData o n l)) else s) u; (let direct := es.filter fun x => !ver x.2.2; direct = []))))))))) ∧
    (∃ (o : Operands) (s : State) (c : Ctx), Issues 0xA1 o memTiming s c ∧ c.g.stcnt < 63 ∧ c.check true ([basePair o, offWord o] ++ storeSrcs o (storeBytes o.fn.toNat)) 120#7 false = .ok () ∧ c.mask ≠ 0 ∧ (let n := storeBytes o.fn.toNat; (let lanes := (lanesOf c.mask).map fun l => (l, c.memAddr o (c.laneTime l) l); (let team := s.teamOf c.g; memChecks lanes n true = .ok () ∧ ∃ es, s.translate c.core team.ctx (slotKey c.core c.slot) c.entry lanes true false = .ok (.lanes es) ∧ (let ver := fun e : TlbEntry => (s.gridAt team.grid).eff.vmode == 0 && !e.d && !e.nc && !e.ats && !e.peer; (let u := s.touchPages c.core team.ctx es; (let full := es.any fun (_, va, e) => ver e && (u.storeWaits c.core team.task (e.target va) || u.olderMeets c.g.uid u.ids (e.loc va) n); full = false ∧ (let merged := es.foldl (fun s (l, va, e) => if ver e then s.versionedStore c.core team.task (e.target va) (leBytes n (c.storeData o n l)) else s) u; (let direct := es.filter fun x => !ver x.2.2; direct ≠ []))))))))) ∧
    (∃ (con : Operands → Instr) (op : Nat) (dst : Operands → Code), (con, op, dst) ∈ [(Instr.atom, 0xA8, fun o : Operands => o.d), (Instr.red, 0xAA, fun _ => 120#7)] ∧ ∃ (o : Operands) (s : State) (c : Ctx), Issues op o memTiming s c ∧ c.counterFull (dst o != 120#7) = false ∧ c.check true ([basePair o, offWord o] ++ atomSrcs o (o.fn.toNat % 16) (o.fn.toNat ≥ 16)) 120#7 false = .ok () ∧ c.dstCheck (dst o) (atomBytes o.fn.toNat) false = .ok () ∧ c.mask ≠ 0 ∧ (let lanes := (lanesOf c.mask).map fun l => (l, c.memAddr o (c.laneTime l) l); memChecks lanes (atomBytes o.fn.toNat) true = .ok () ∧ ∃ es, s.translate c.core (s.teamOf c.g).ctx (slotKey c.core c.slot) c.entry lanes true false true = .ok (.lanes es))) :=
  ⟨⟨⟨false, false, 4, 2, 6, 8, 0, 0⟩, { bench with cores := [(0, { tlb := [{ theEntry with d := false }] })], accs := [(3, { theAcc with lanes := [{ lane := 0, loc := .dev 0 }] })], ids := 9 }, _, issues_ctxOf (by decide +kernel) (by decide +kernel) (by decide +kernel), by decide +kernel, eq_of_passes (by decide +kernel), by decide +kernel, eq_of_passes (by decide +kernel), [(0, 0, { theEntry with d := false })], rfl, by decide +kernel⟩,
   ⟨⟨false, false, 4, 2, 6, 8, 0, 0⟩, { bench with cores := [(0, { tlb := [{ theEntry with d := false }] })] }, _, issues_ctxOf (by decide +kernel) (by decide +kernel) (by decide +kernel), by decide +kernel, eq_of_passes (by decide +kernel), by decide +kernel, eq_of_passes (by decide +kernel), [(0, 0, { theEntry with d := false })], rfl, by decide +kernel⟩,
   ⟨⟨false, false, 4, 2, 6, 8, 0, 0⟩, bench, _, issues_ctxOf (by decide +kernel) (by decide +kernel) (by decide +kernel), by decide +kernel, eq_of_passes (by decide +kernel), by decide +kernel, eq_of_passes (by decide +kernel), [(0, 0, theEntry)], rfl, by decide +kernel⟩,
   ⟨.atom, 0xA8, fun o => o.d, .head _, ⟨false, false, 4, 2, 6, 8, 0, 0⟩, bench, _, issues_ctxOf (by decide +kernel) (by decide +kernel) (by decide +kernel), by decide +kernel, eq_of_passes (by decide +kernel), eq_of_passes (by decide +kernel), by decide +kernel, eq_of_passes (by decide +kernel), [(0, 0, theEntry)], rfl⟩⟩

theorem witness_ScratchpadWritesLand :
    (∃ (o : Operands) (s : State) (c : Ctx), Issues 0xA3 o memTiming s c ∧ c.g.stcnt < 63 ∧ c.check true ([baseWord32 o, offWord o] ++ storeSrcs o (storeBytes o.fn.toNat)) 120#7 false = .ok () ∧ c.mask ≠ 0 ∧ (let n := storeBytes o.fn.toNat; (let lanes := (c.scratchBeats o n 22 false).1; scratchChecks lanes n true (fun a => a ≥ s.scratchSize c.g.team) = .ok () ∧ s.ownRemote c lanes n = true))) ∧
    (∃ (o : Operands) (s : State) (c : Ctx), Issues 0xA3 o memTiming s c ∧ c.g.stcnt < 63 ∧ c.check true ([baseWord32 o, offWord o] ++ storeSrcs o (storeBytes o.fn.toNat)) 120#7 false = .ok () ∧ c.mask ≠ 0 ∧ (let n := storeBytes o.fn.toNat; (let lanes := (c.scratchBeats o n 22 false).1; scratchChecks lanes n true (fun a => a ≥ s.scratchSize c.g.team) = .ok () ∧ s.ownRemote c lanes n = false))) ∧
    (∃ (o : Operands) (s : State) (c : Ctx) (n cycles : Nat) (lanes before after : List (Nat × Nat)) (g : Group) (l p i : Nat), Memory.wf (s.teamAt c.g.team).scratch = true ∧ lanes = before ++ (l, p) :: after ∧ i < n ∧ (∀ x ∈ after, p + i < x.2 ∨ x.2 + n ≤ p + i)) ∧
    (∃ (o : Operands) (s : State) (c : Ctx), Issues 0xA9 o memTiming s c ∧ c.counterFull (o.d != 120#7) = false ∧ c.check true ([baseWord32 o, offWord o] ++ atomSrcs o (o.fn.toNat % 16) (o.fn.toNat ≥ 16)) 120#7 false = .ok () ∧ c.dstCheck o.d (atomBytes o.fn.toNat) false = .ok () ∧ c.mask ≠ 0 ∧ (let n := atomBytes o.fn.toNat; (let beats := c.scratchBeats o n 26 false; scratchChecks beats.1 n true (fun a => a ≥ s.scratchSize c.g.team) = .ok () ∧ (let r := s.atomScratch c o beats.1; s.ownRemote c beats.1 n = true)))) ∧
    (∃ (o : Operands) (s : State) (c : Ctx), Issues 0xA9 o memTiming s c ∧ c.counterFull (o.d != 120#7) = false ∧ c.check true ([baseWord32 o, offWord o] ++ atomSrcs o (o.fn.toNat % 16) (o.fn.toNat ≥ 16)) 120#7 false = .ok () ∧ c.dstCheck o.d (atomBytes o.fn.toNat) false = .ok () ∧ c.mask ≠ 0 ∧ (let n := atomBytes o.fn.toNat; (let beats := c.scratchBeats o n 26 false; scratchChecks beats.1 n true (fun a => a ≥ s.scratchSize c.g.team) = .ok () ∧ (let r := s.atomScratch c o beats.1; s.ownRemote c beats.1 n = false ∧ o.d = 120#7)))) ∧
    (∃ (o : Operands) (s : State) (c : Ctx), Issues 0xA9 o memTiming s c ∧ c.counterFull (o.d != 120#7) = false ∧ c.check true ([baseWord32 o, offWord o] ++ atomSrcs o (o.fn.toNat % 16) (o.fn.toNat ≥ 16)) 120#7 false = .ok () ∧ c.dstCheck o.d (atomBytes o.fn.toNat) false = .ok () ∧ c.mask ≠ 0 ∧ (let n := atomBytes o.fn.toNat; (let beats := c.scratchBeats o n 26 false; scratchChecks beats.1 n true (fun a => a ≥ s.scratchSize c.g.team) = .ok () ∧ (let r := s.atomScratch c o beats.1; s.ownRemote c beats.1 n = false ∧ o.d ≠ 120#7)))) ∧
    (∃ (o : Operands) (s : State) (c : Ctx) (lanes before after : List (Nat × Nat)) (l p i : Nat), Memory.wf (s.teamAt c.g.team).scratch = true ∧ lanes = before ++ (l, p) :: after ∧ (∀ x ∈ before ++ after, p + atomBytes o.fn.toNat ≤ x.2 ∨ x.2 + atomBytes o.fn.toNat ≤ p) ∧ i < atomBytes o.fn.toNat) :=
  ⟨⟨⟨false, false, 4, 2, 6, 8, 0, 0⟩, { bench with accs := [(3, { theAcc with space := .remote, op := .store, ldc := false, lanes := [{ lane := 0, loc := .dev 0, team := 0 }] })] }, _, issues_ctxOf (by decide +kernel) (by decide +kernel) (by decide +kernel), by decide +kernel, eq_of_passes (by decide +kernel), by decide +kernel, eq_of_passes (by decide +kernel), by decide +kernel⟩,
   ⟨⟨false, false, 4, 2, 6, 8, 0, 0⟩, bench, _, issues_ctxOf (by decide +kernel) (by decide +kernel) (by decide +kernel), by decide +kernel, eq_of_passes (by decide +kernel), by decide +kernel, eq_of_passes (by decide +kernel), by decide +kernel⟩,
   ⟨⟨false, false, 4, 2, 6, 8, 0, 0⟩, bench, ctxOf bench memTiming (by decide +kernel), 4, 1, [(0, 8), (1, 16)], [], [(1, 16)], benchGroup, 0, 8, 3, by decide +kernel⟩,
   ⟨⟨false, false, 4, 2, 6, 8, 0, 0⟩, { bench with accs := [(3, { theAcc with space := .remote, op := .store, ldc := false, lanes := [{ lane := 0, loc := .dev 0, team := 0 }] })] }, _, issues_ctxOf (by decide +kernel) (by decide +kernel) (by decide +kernel), by decide +kernel, eq_of_passes (by decide +kernel), eq_of_passes (by decide +kernel), by decide +kernel, eq_of_passes (by decide +kernel), by decide +kernel⟩,
   ⟨⟨false, false, 120, 2, 6, 8, 0, 0⟩, bench, _, issues_ctxOf (by decide +kernel) (by decide +kernel) (by decide +kernel), by decide +kernel, eq_of_passes (by decide +kernel), eq_of_passes (by decide +kernel), by decide +kernel, eq_of_passes (by decide +kernel), by decide +kernel⟩,
   ⟨⟨false, false, 4, 2, 6, 8, 0, 0⟩, bench, _, issues_ctxOf (by decide +kernel) (by decide +kernel) (by decide +kernel), by decide +kernel, eq_of_passes (by decide +kernel), eq_of_passes (by decide +kernel), by decide +kernel, eq_of_passes (by decide +kernel), by decide +kernel⟩,
   ⟨⟨false, false, 4, 2, 6, 8, 0, 0⟩, bench, ctxOf bench memTiming (by decide +kernel), [(0, 8), (1, 16)], [(0, 8)], [], 1, 16, 3, by decide +kernel⟩⟩

theorem witness_RemoteStoresHintsAndWaits :
    (∃ (o : Operands) (s : State) (c : Ctx), Issues 0xA5 o memTiming s c ∧ c.g.stcnt < 63 ∧ c.check true ([baseWord32 o, offWord o] ++ storeSrcs o (storeBytes o.fn.toNat)) 120#7 false = .ok () ∧ c.mask ≠ 0 ∧ (let n := storeBytes o.fn.toNat; (let lanes := (lanesOf c.mask).map fun l => (l, c.scratchAddr o (c.laneTime l) l); scratchChecks lanes n true (fun a => s.remoteBad c.g.team a) = .ok ()))) ∧
    (∃ (o : Operands) (s : State) (c : Ctx), Issues 0xA6 o memTiming s c ∧ c.check true [basePair o, offWord o] 120#7 false = .ok ()) ∧
    (∃ (o : Operands) (s : State) (c : Ctx), Issues 0xB0 o (fun _ => ⟨.ctl, 1, 1, true⟩) s c ∧ (let bound := fun x : Code => if x = 0#7 then none else some (x.toNat - 1); (let met := (∀ n, bound o.a = some n → c.g.ldcnt ≤ n) ∧ ∀ n, bound o.b = some n → c.g.stcnt ≤ n; met))) ∧
    (∃ (o : Operands) (s : State) (c : Ctx), Issues 0xB0 o (fun _ => ⟨.ctl, 1, 1, true⟩) s c ∧ (let bound := fun x : Code => if x = 0#7 then none else some (x.toNat - 1); (let met := (∀ n, bound o.a = some n → c.g.ldcnt ≤ n) ∧ ∀ n, bound o.b = some n → c.g.stcnt ≤ n; ¬ met))) :=
  ⟨⟨⟨false, false, 4, 2, 6, 8, 0, 0⟩, bench, _, issues_ctxOf (by decide +kernel) (by decide +kernel) (by decide +kernel), by decide +kernel, eq_of_passes (by decide +kernel), by decide +kernel, eq_of_passes (by decide +kernel)⟩,
   ⟨⟨false, false, 4, 2, 6, 8, 0, 0⟩, bench, _, issues_ctxOf (by decide +kernel) (by decide +kernel) (by decide +kernel), eq_of_passes (by decide +kernel)⟩,
   ⟨⟨false, false, 4, 2, 6, 8, 0, 0⟩, bench, _, issues_ctxOf (by decide +kernel) (by decide +kernel) (by decide +kernel), by decide +kernel⟩,
   ⟨⟨false, false, 4, 1, 6, 8, 0, 0⟩, benchWith { benchGroup with ldcnt := 5 }, _, issues_ctxOf (by decide +kernel) (by decide +kernel) (by decide +kernel), by decide +kernel⟩⟩

theorem witness_BarrierInstructionsArrive :
    (∃ o s c, Issues 0xC0 o ctlTiming s c) ∧
    (∃ o s c, Issues 0xD0 o ctlTiming s c) ∧
    (∃ o s c e, Issues 0xC1 o (fun _ => ⟨.ctl, 4, 1, true⟩) s c ∧ c.g.darr = (tgetD s.districts (s.districtKey (s.teamOf c.g)) {}).cd ∧ c.check true [] o.d false [] false = .ok () ∧ c.result o.d false 1 0 (.uni (c.g.darr + 1).toNat) c.f.mask = .ok e) ∧
    (∃ o s c e, Issues 0xC3 o (fun _ => ⟨.ctl, 4, 1, true⟩) s c ∧ c.g.garr = (s.gridAt (s.teamOf c.g).grid).cg ∧ c.check true [] o.d false [] false = .ok () ∧ c.result o.d false 1 0 (.uni (c.g.garr + 1).toNat) c.f.mask = .ok e) ∧
    (∃ o s c, Issues 0xC2 o ctlTiming s c ∧ c.check true [raw32 o.a] 120#7 false [] false = .ok ()) ∧
    (∃ o s c, Issues 0xC4 o ctlTiming s c ∧ c.check true [raw32 o.a] 120#7 false [] false = .ok ()) :=
  ⟨⟨⟨false, false, 4, 2, 6, 8, 0, 0⟩, bench, _, issues_ctxOf (by decide +kernel) (by decide +kernel) (by decide +kernel)⟩,
   ⟨⟨false, false, 4, 2, 6, 8, 0, 0⟩, bench, _, issues_ctxOf (by decide +kernel) (by decide +kernel) (by decide +kernel)⟩,
   ⟨⟨false, false, 4, 2, 6, 8, 0, 0⟩, bench, _, _, issues_ctxOf (by decide +kernel) (by decide +kernel) (by decide +kernel), by decide +kernel, eq_of_passes (by decide +kernel), rfl⟩,
   ⟨⟨false, false, 4, 2, 6, 8, 0, 0⟩, bench, _, _, issues_ctxOf (by decide +kernel) (by decide +kernel) (by decide +kernel), by decide +kernel, eq_of_passes (by decide +kernel), rfl⟩,
   ⟨⟨false, false, 4, 2, 6, 8, 0, 0⟩, bench, _, issues_ctxOf (by decide +kernel) (by decide +kernel) (by decide +kernel), eq_of_passes (by decide +kernel)⟩,
   ⟨⟨false, false, 4, 2, 6, 8, 0, 0⟩, bench, _, issues_ctxOf (by decide +kernel) (by decide +kernel) (by decide +kernel), eq_of_passes (by decide +kernel)⟩⟩

theorem witness_EventAndMailboxInstructionsComplete :
    (∃ o s c, Issues 0xC8 o ctlTiming s c ∧ c.check true [raw32 o.a, raw32 o.b] 120#7 false [] false = .ok ()) ∧
    (∃ o s c, Issues 0xCC o ctlTiming s c ∧ c.syncCheck [raw32 o.a, ⟨o.b, true, [], .zext⟩] o.d false = .ok ()) ∧
    (∃ o s c, Issues 0xCD o ctlTiming s c ∧ c.syncCheck [raw32 o.a] o.d true = .ok ()) ∧
    (∃ o s c, Issues 0xCA o ctlTiming s c ∧ c.syncCheck [raw32 o.a, raw32 o.b] o.d false = .ok () ∧ c.g.converged = true ∧ (let base := c.single o o.a; (let mask := BitVec.ofNat 8 (c.single o o.b); base % 16 = 0 ∧ (∀ k, k < 8 → mask.getLsbD k = true → base + 16 * k + 16 ≤ s.scratchSize c.g.team)))) ∧
    (∃ o s c, Issues 0xCA o ctlTiming s c ∧ c.syncCheck [raw32 o.a, raw32 o.b] o.d false = .ok () ∧ c.g.converged = false) :=
  ⟨⟨⟨false, false, 4, 2, 6, 8, 0, 0⟩, bench, _, issues_ctxOf (by decide +kernel) (by decide +kernel) (by decide +kernel), eq_of_passes (by decide +kernel)⟩,
   ⟨⟨false, false, 4, 2, 6, 8, 0, 0⟩, bench, _, issues_ctxOf (by decide +kernel) (by decide +kernel) (by decide +kernel), eq_of_passes (by decide +kernel)⟩,
   ⟨⟨false, false, 4, 2, 6, 8, 0, 0⟩, bench, _, issues_ctxOf (by decide +kernel) (by decide +kernel) (by decide +kernel), eq_of_passes (by decide +kernel)⟩,
   ⟨⟨false, false, 4, 2, 6, 8, 0, 0⟩, bench, _, issues_ctxOf (by decide +kernel) (by decide +kernel) (by decide +kernel), eq_of_passes (by decide +kernel), by decide +kernel⟩,
   ⟨⟨false, false, 4, 2, 6, 8, 0, 0⟩, benchWith { benchGroup with split := [(0, { labFrag with mask := 1 }), (1, { labFrag with mask := 2 })] }, _, issues_ctxOf (by decide +kernel) (by decide +kernel) (by decide +kernel), eq_of_passes (by decide +kernel), by decide +kernel⟩⟩

theorem witness_ExchangesMatch :
    (∃ o s c, Issues 0xCE o xshfTiming s c ∧ c.g.exchange = none ∧ c.check true [raw32 o.a, raw32 o.b] o.d false = .ok () ∧ (isReg o.d && o.d.toNat ≥ c.g.g) = false ∧ (let partner := c.single o o.b; (partner ≠ c.g.gix ∧ partner < (s.gridAt (s.teamOf c.g).grid).eff.groups ∧ (s.groupOf c.g.team partner).isSome = true))) ∧
    (∃ o s c, Issues 0xCE o xshfTiming s c ∧ c.g.exchange = none ∧ c.check true [raw32 o.a, raw32 o.b] o.d false = .ok () ∧ (isReg o.d && o.d.toNat ≥ c.g.g) = false ∧ (let partner := c.single o o.b; (partner = c.g.gix ∨ (s.gridAt (s.teamOf c.g).grid).eff.groups ≤ partner ∨ (s.groupOf c.g.team partner).isSome = false))) ∧
    (∃ (s : State) (core slot : Nat) (g : Group) (x : Exchange) (key : Nat) (p : Group) (y : Exchange), s.group? core slot = some g ∧ g.exchange = some x ∧ s.groupOf g.team x.partner = some (key, p) ∧ p.exchange = some y ∧ y.partner = g.gix ∧ key ≠ slotKey core slot) :=
  ⟨⟨⟨false, false, 4, 2, 127, 8, 0, 1⟩, { bench with groups := [(0, benchGroup), (1, { benchGroup with uid := 1, gix := 1 })] }, _, issues_ctxOf (by decide +kernel) (by decide +kernel) (by decide +kernel), by decide +kernel, eq_of_passes (by decide +kernel), by decide +kernel⟩,
   ⟨⟨false, false, 4, 2, 6, 8, 0, 0⟩, bench, _, issues_ctxOf (by decide +kernel) (by decide +kernel) (by decide +kernel), by decide +kernel, eq_of_passes (by decide +kernel), by decide +kernel⟩,
   ⟨{ bench with groups := [(0, { benchGroup with exchange := some { partner := 1, rev := false, dst := 4, lanes := [], mask := 1, since := 0, entry := 0, src := { fmt := 0, cnt := 0, val := .raw }, next := 4 } }), (1, { benchGroup with uid := 1, gix := 1, exchange := some { partner := 0, rev := false, dst := 4, lanes := [], mask := 1, since := 0, entry := 0, src := { fmt := 0, cnt := 0, val := .raw }, next := 4 } })] }, 0, 0, { benchGroup with exchange := some { partner := 1, rev := false, dst := 4, lanes := [], mask := 1, since := 0, entry := 0, src := { fmt := 0, cnt := 0, val := .raw }, next := 4 } }, { partner := 1, rev := false, dst := 4, lanes := [], mask := 1, since := 0, entry := 0, src := { fmt := 0, cnt := 0, val := .raw }, next := 4 }, 1, { benchGroup with uid := 1, gix := 1, exchange := some { partner := 0, rev := false, dst := 4, lanes := [], mask := 1, since := 0, entry := 0, src := { fmt := 0, cnt := 0, val := .raw }, next := 4 } }, { partner := 0, rev := false, dst := 4, lanes := [], mask := 1, since := 0, entry := 0, src := { fmt := 0, cnt := 0, val := .raw }, next := 4 }, by decide +kernel⟩⟩

theorem witness_BatchInstructionsComplete :
    (∃ o s c e, Issues 0xE6 o ctlTiming s c ∧ (let b := c.g.batches.getD o.fn.toNat {}; b.closed - b.donev ≠ 32767 ∧ c.check true [] o.d false [] false = .ok () ∧ c.result o.d false 1 0 (.uni (b.closed + 1).toNat) c.f.mask = .ok e)) ∧
    (∃ o s c, Issues 0xE7 o ctlTiming s c ∧ c.check true [raw32 o.a] 120#7 false [] false = .ok ()) ∧
    (∃ o s c, Issues 0xE9 o ctlTiming s c) ∧
    (∃ (s : State) (c : Ctx), c.g.outs = [] ∧ (∀ k a, (k, a) ∈ s.accs → a.guid ≠ c.g.uid) ∧ (∀ k f, (k, f) ∈ c.g.split → f.wait.writes = false) ∧ c.g.exchange = none) ∧
    (∃ (s : State) (c : Ctx) (w : Outst) (n : Nat) (old : VReg) (b : Nat), w ∈ c.g.outs ∧ w.dst = .reg n old ∧ b ∈ w.avail ∧ c.now < b) ∧
    (∃ (s : State) (c : Ctx) (k : Nat) (a : Access), (k, a) ∈ s.accs ∧ a.guid = c.g.uid ∧ a.ldc = true ∧ a.dst.toNat < 120) :=
  ⟨⟨⟨false, false, 4, 2, 6, 8, 0, 0⟩, bench, _, _, issues_ctxOf (by decide +kernel) (by decide +kernel) (by decide +kernel), by decide +kernel, eq_of_passes (by decide +kernel), rfl⟩,
   ⟨⟨false, false, 4, 2, 6, 8, 0, 0⟩, bench, _, issues_ctxOf (by decide +kernel) (by decide +kernel) (by decide +kernel), eq_of_passes (by decide +kernel)⟩,
   ⟨⟨false, false, 4, 2, 6, 8, 0, 0⟩, bench, _, issues_ctxOf (by decide +kernel) (by decide +kernel) (by decide +kernel)⟩,
   ⟨lab, ctxOf lab ctlTiming, by decide +kernel, (fun _ _ h => absurd h List.not_mem_nil), (by intro k f h; cases List.mem_singleton.mp h; rfl), by decide +kernel⟩,
   ⟨lab, { ctxOf lab ctlTiming with g := { labGroup with outs := [⟨.reg 4 {}, 1, [9, 9, 9, 9], {}⟩] } }, ⟨.reg 4 {}, 1, [9, 9, 9, 9], {}⟩, 4, {}, 9, by decide +kernel⟩,
   ⟨{ lab with accs := [(9, theAcc)] }, ctxOf lab ctlTiming, 9, theAcc, by decide +kernel⟩⟩

theorem witness_MatrixInstructionsComplete :
    (∃ (con : Operands → Instr) (op : Nat) (scr : Bool), (con, op, scr) ∈ [(Instr.mma, 0xEA, false), (Instr.mmas, 0xEB, true)] ∧ ∃ (o : Operands) (s : State) (c : Ctx) (kind : OpKind) (u : State), Issues op o ctlTiming s c ∧ s.opsFull c.g.uid 3 = false ∧ s.epiPending c.g.uid ((s.teamOf c.g).tile (o.d.toNat % 16)) = false ∧ c.check (mmaFormat c.et o.fn.toNat).isSome ((if scr then [raw32 o.a] else (List.range 8).map fun k => (⟨o.a + BitVec.ofNat 7 k, false, [c.et], .zext⟩ : Src)) ++ [raw32 o.b, raw32 o.c]) 120#7 false = .ok () ∧ c.mask = 0) ∧
    (∃ (con : Operands → Instr) (op : Nat) (scr : Bool), (con, op, scr) ∈ [(Instr.mma, 0xEA, false), (Instr.mmas, 0xEB, true)] ∧ ∃ (o : Operands) (s : State) (c : Ctx) (kind : OpKind) (u : State), Issues op o ctlTiming s c ∧ s.opsFull c.g.uid 3 = false ∧ s.epiPending c.g.uid ((s.teamOf c.g).tile (o.d.toNat % 16)) = false ∧ c.check (mmaFormat c.et o.fn.toNat).isSome ((if scr then [raw32 o.a] else (List.range 8).map fun k => (⟨o.a + BitVec.ofNat 7 k, false, [c.et], .zext⟩ : Src)) ++ [raw32 o.b, raw32 o.c]) 120#7 false = .ok () ∧ c.mask ≠ 0 ∧ mmaStart scr o s c = .ok kind ∧ s.ringCheck c = .go u) ∧
    (∃ o s c u, Issues 0xEC o ctlTiming s c ∧ s.opsFull c.g.uid 3 = false ∧ s.epiPending c.g.uid ((s.teamOf c.g).tile (c.single o o.a)) = false ∧ c.check true [raw32 o.a] 120#7 false = .ok () ∧ c.mask ≠ 0 ∧ s.tileCheck c.g.team (c.single o o.a) = .ok () ∧ s.ringCheck c = .go u) ∧
    (∃ o s c u, Issues 0xED o accTiming s c ∧ c.check true [raw32 o.a] 120#7 false = .ok () ∧ o.d.toNat + 15 < c.g.g ∧ c.mask ≠ 0 ∧ s.tileCheck c.g.team (c.single o o.a) = .ok () ∧ s.ringCheck c = .go u ∧ (∀ r, r < 16 → c.g.regOuts (o.d.toNat + r) = [])) ∧
    (∃ o s c u, Issues 0xEE o accTiming s c ∧ s.epiPending c.g.uid ((s.teamOf c.g).tile (c.single o o.a)) = false ∧ c.check true (raw32 o.a :: (List.range 16).map fun k => (⟨o.c + BitVec.ofNat 7 k, false, [6], .zext⟩ : Src)) 120#7 false = .ok () ∧ c.mask ≠ 0 ∧ s.tileCheck c.g.team (c.single o o.a) = .ok () ∧ s.ringCheck c = .go u) ∧
    (∃ (o : Operands) (s : State) (c : Ctx) (kind : OpKind) (u : State), Issues 0xEF o memTiming s c ∧ s.opsFull c.g.uid 4 = false ∧ (s.core c.core).matrix.epi.length < 4 ∧ c.check true [⟨o.a, !(o.fn == 1#5), [], .zext⟩, raw32 o.b, raw32 o.c] 120#7 false = .ok () ∧ c.mask ≠ 0 ∧ epiOp o s c = .ok kind ∧ s.ringCheck c = .go u) ∧
    (∃ (s : State) (core tile seed n : Nat), s.tileOps core tile true = [] ∧ s.tileOps core tile false = []) ∧
    (∃ (s : State) (c : Ctx), (s.teamOf c.g).tspill = 0 ∧ (s.teamOf c.g).untouched = [] ∧ (s.core c.core).accown = some (s.teamOf c.g).ctx) :=
  ⟨⟨.mma, 0xEA, false, .head _, ⟨false, false, 0, 8, 6, 8, 0, 0⟩, benchWith { benchGroup with mode := 6 <<< 5, exec := 0 }, _, .accnext 0 0, bench, issues_ctxOf (by decide +kernel) (by decide +kernel) (by decide +kernel), by decide +kernel, by decide +kernel, eq_of_passes (by decide +kernel), by decide +kernel⟩,
   ⟨.mmas, 0xEB, true, .tail _ (.head _), ⟨false, false, 0, 2, 6, 8, 0, 0⟩, benchWith { benchGroup with mode := 6 <<< 5 }, _, _, _, issues_ctxOf (by decide +kernel) (by decide +kernel) (by decide +kernel), by decide +kernel, by decide +kernel, eq_of_passes (by decide +kernel), by decide +kernel, okGet_eq (.accnext 0 0) (by decide +kernel), rfl⟩,
   ⟨⟨false, false, 4, 2, 6, 8, 0, 0⟩, bench, _, _, issues_ctxOf (by decide +kernel) (by decide +kernel) (by decide +kernel), by decide +kernel, by decide +kernel, eq_of_passes (by decide +kernel), by decide +kernel, eq_of_passes (by decide +kernel), rfl⟩,
   ⟨⟨false, false, 4, 2, 6, 8, 0, 0⟩, bench, _, _, issues_ctxOf (by decide +kernel) (by decide +kernel) (by decide +kernel), eq_of_passes (by decide +kernel), by decide +kernel, by decide +kernel, eq_of_passes (by decide +kernel), rfl, by decide +kernel⟩,
   ⟨⟨false, false, 4, 2, 6, 16, 0, 0⟩, bench, _, _, issues_ctxOf (by decide +kernel) (by decide +kernel) (by decide +kernel), by decide +kernel, eq_of_passes (by decide +kernel), by decide +kernel, eq_of_passes (by decide +kernel), rfl⟩,
   ⟨⟨false, false, 4, 2, 127, 8, 0, 96⟩, bench, _, _, _, issues_ctxOf (by decide +kernel) (by decide +kernel) (by decide +kernel), by decide +kernel, by decide +kernel, eq_of_passes (by decide +kernel), by decide +kernel, okGet_eq (.accnext 0 0) (by decide +kernel), rfl⟩,
   ⟨lab, 0, 0, 0, 0, by decide +kernel⟩,
   ⟨{ bench with cores := [(0, { accown := some 0 })] }, ctxOf { bench with cores := [(0, { accown := some 0 })] } ctlTiming, by decide +kernel⟩⟩

theorem witness_CommitsLaunchesAndCollectivesStart :
    (∃ o s c, Issues 0xB1 o (fun _ => ⟨.ctl, 1, 1, true⟩) s c) ∧
    (∃ o s c, Issues 0xD1 o ctlTiming s c ∧ c.syncCheck [raw32 o.a, raw32 o.b] o.d false = .ok () ∧ c.single o o.a % 64 = 0 ∧ c.single o o.a + 64 ≤ s.scratchSize c.g.team) ∧
    (∃ o s c d es pa, Issues 0xF0 o memTiming s c ∧ s.opsFull c.g.uid 5 = false ∧ c.check true [raw32 o.a] 120#7 false = .ok () ∧ c.mask ≠ 0 ∧ collChecks o s c = .ok d ∧ s.translate c.core (s.teamOf c.g).ctx (slotKey c.core c.slot) c.entry [(255, collDst d)] true false = .ok (.lanes es) ∧ (es.head?.map fun x => x.2.2.loc (collDst d)) = some (.dev pa)) :=
  ⟨⟨⟨false, false, 4, 2, 6, 8, 0, 0⟩, bench, _, issues_ctxOf (by decide +kernel) (by decide +kernel) (by decide +kernel)⟩,
   ⟨⟨false, false, 4, 2, 6, 8, 0, 0⟩, bench, _, issues_ctxOf (by decide +kernel) (by decide +kernel) (by decide +kernel), eq_of_passes (by decide +kernel), by decide +kernel⟩,
   ⟨⟨false, false, 4, 127, 6, 8, 0, 320⟩, bench, _, _, [(255, 0x10000, theEntry)], 0x10000, issues_ctxOf (by decide +kernel) (by decide +kernel) (by decide +kernel), by decide +kernel, eq_of_passes (by decide +kernel), by decide +kernel, rfl, rfl, by decide +kernel⟩⟩

theorem witness_StepRunsTheEvent : (∃ (s : State) (dt : Nat) (i : Instr) (rest : List (Nat × Act)), s.sched = (dt, .event i) :: rest) :=
  ⟨{ bench with sched := [(5, .event .powerOnReset)] }, 5, .powerOnReset, [], by decide +kernel⟩

theorem witness_UnassignedWordsAreRefused :
    (∃ (o : Operands) (op : Nat) (f : Form) (ws : List W32), op < 256 ∧ opForm op o.fn.toNat = some f ∧ f.1 = true ∧ fnAccepted op o.fn.toNat = false) ∧
    (∃ (w : W32) (ws : List W32), (∀ fn, opForm (bits w 22 8).toNat fn = none)) ∧
    (∃ (op : Nat) (b q : Bool) (s : State) (c : Ctx), s.ctx? ⟨.ctl, 1, 1, true⟩ = some c) :=
  ⟨⟨⟨false, false, 4, 2, 6, 8, 31, 0⟩, 0x5A, (opForm 0x5A 31).get (by decide), [], by decide +kernel, (Option.some_get (by decide)).symm, by decide +kernel⟩,
   ⟨0xFFFFFFFF, [], fun _ => rfl⟩,
   ⟨255, false, false, bench, _, (Option.some_get (by decide +kernel)).symm⟩⟩

theorem witness_DecodeOfEncode : (∃ (i : Instr) (ws : List W32), i.wf = true ∧ i.word?.isSome = true) :=
  ⟨.iadd ⟨true, false, 3, 1, 2, 0, 0, 0⟩, [5], by decide +kernel⟩

/-! ## Witnesses of the statements about events -/

theorem witness_BarriersAndTriggersGoOn :
    (∃ (s : State) (team t0 : Nat), (s.teamAt team).barAt = some t0 ∧ s.barWaits team = false) ∧
    (∃ (s : State) (m : Nat) (x : Msg) (team guid : Nat), s.Has m x (.district team guid)) ∧
    (∃ (s : State) (m : Nat) (x : Msg) (team guid : Nat), s.Has m x (.grid team guid)) ∧
    (∃ (s : State) (team t0 : Nat), (let key := s.districtKey (s.teamAt team); (let d := tgetD s.districts key {}; (let members := tkeys s.teams fun _ x => x.grid == (s.teamAt team).grid && s.districtKey x == key; members.length = (let d := max 1 (s.gridAt (s.teamAt team).grid).eff.dist; min d ((s.gridAt (s.teamAt team).grid).teams - (s.teamAt team).tix.toNat / d * d)) ∧ (∃ k ∈ members, s.liveGroups k ≠ []) ∧ (∀ k ∈ members, s.teamArrived k false d.cd = true))))) ∧
    (∃ (s : State) (team t0 : Nat), (let key := s.districtKey (s.teamAt team); (let d := tgetD s.districts key {}; (let members := tkeys s.teams fun _ x => x.grid == (s.teamAt team).grid && s.districtKey x == key; (∃ k ∈ members, s.teamArrived k false d.cd = false))))) ∧
    (∃ (s : State) (grid t0 : Nat), (let members := tkeys s.teams fun _ x => x.grid == grid; (s.gridAt grid).next = (s.gridAt grid).teams ∧ (∃ k ∈ members, s.liveGroups k ≠ []) ∧ (∀ k ∈ members, s.teamArrived k true (s.gridAt grid).cg = true))) ∧
    (∃ (s : State) (grid t0 : Nat), (let members := tkeys s.teams fun _ x => x.grid == grid; (∃ k ∈ members, s.teamArrived k true (s.gridAt grid).cg = false))) ∧
    (∃ (s : State) (team t0 : Nat), (s.teamAt team).trigAt = some t0 ∧ (s.taskAt (s.teamAt team).task).commit = none ∧ (s.teamAt team).state.over = false) ∧
    (∃ (s : State) (team : Nat) (ids : List Nat), (s.teamAt team).trigWait = some ids ∧ (s.teamAt team).trigDone = true ∧ (s.teamAt team).triggered = false ∧ (∀ k ∈ ids, tget? s.accs k = none ∧ ∀ o, tget? s.ops k = some o → o.vDone = true)) :=
  ⟨⟨withTeam fun t => { t with barAt := some 5 }, 0, 5, by decide +kernel⟩,
   ⟨withMsg (.district 0 0), 5, theMsg (.district 0 0), 0, 0, ⟨rfl, rfl, by decide⟩⟩,
   ⟨withMsg (.grid 0 0), 5, theMsg (.grid 0 0), 0, 0, ⟨rfl, rfl, by decide⟩⟩,
   ⟨withGroup { labGroup with darrSet := fullMask, darr := 1 }, 0, 5, by decide +kernel⟩,
   ⟨lab, 0, 5, by decide +kernel⟩,
   ⟨withGroup { labGroup with garrSet := fullMask, garr := 1 }, 0, 5, by decide +kernel⟩,
   ⟨lab, 0, 5, by decide +kernel⟩,
   ⟨withTeam fun t => { t with trigAt := some 5 }, 0, 5, by decide +kernel⟩,
   ⟨withTeam fun t => { t with trigWait := some [], trigDone := true }, 0, [], by decide +kernel⟩⟩

theorem witness_PlazaEventsComplete :
    (∃ (s : State) (core slot index e : Nat) (g : Group) (f : Frag) (d : Code), s.group? core slot = some g ∧ g.split = [(e, f)] ∧ f.wait = .event d ∧ g.armed = true ∧ index < 8 ∧ s.eventTrue g.team g (g.evd.getD index (0, 0)).1 = true ∧ (s.teamAt g.team).state.latches = false) ∧
    (∃ (s : State) (core slot index e : Nat) (g : Group) (f : Frag) (d : Code), s.group? core slot = some g ∧ g.split = [(e, f)] ∧ f.wait = .event d ∧ index < 8 ∧ g.timerAt index = true ∧ s.eventTrue g.team g (g.evd.getD index (0, 0)).1 = true ∧ (s.teamAt g.team).state.latches = false) ∧
    (∃ (s : State) (core slot index e at' : Nat) (g : Group) (f : Frag) (d : Code), s.group? core slot = some g ∧ g.split = [(e, f)] ∧ f.wait = .resume d at' true ∧ at' ≤ s.time ∧ (g.pev ||| s.eventsTrue g.team g) &&& g.evm = 0) ∧
    (∃ (s : State) (core slot index e at' k : Nat) (g : Group) (f : Frag) (d : Code), s.group? core slot = some g ∧ g.split = [(e, f)] ∧ g.joins = [] ∧ f.wait = .resume d at' false ∧ at' ≤ s.time ∧ k < 8 ∧ (g.pev &&& g.evm).getLsbD k = true ∧ (∀ j, j < k → (g.pev &&& g.evm).getLsbD j = false) ∧ d.toNat < 120 ∧ (g.settle s.time).regOuts d.toNat = [] ∧ ∃ l, l < 64 ∧ inMask f.mask l = true) ∧
    (∃ (s : State) (m : Nat) (x : Msg) (ctx k : Nat) (v : Bool), s.Has m x (.flag ctx k v)) ∧
    (∃ (s : State) (m : Nat) (x : Msg) (ctx box : Nat) (v : W64) (core slot entry : Nat), s.Has m x (.mail ctx box v core slot entry) ∧ s.earlierMail m ctx box core slot = false ∧ tgetD (s.ctxAt ctx).boxWaits box [] = []) ∧
    (∃ (s : State) (core slot : Nat) (g : Group) (x : Exchange) (f : Frag), s.group? core slot = some g ∧ g.exchange = some x ∧ tget? g.split x.entry = some f ∧ (x.since + 65536 * s.cyc core ≤ s.time ∨ (s.groupOf g.team x.partner = none ∧ ∀ e ∈ (s.teamAt g.team).kept, e.2.gix ≠ x.partner))) ∧
    (∃ (s : State) (core slot entry at' : Nat) (g : Group) (f : Frag), s.group? core slot = some g ∧ tget? g.split entry = some f ∧ f.wait = .yield at' ∧ at' ≤ s.time) :=
  ⟨⟨withGroup timed, 0, 0, 7, 0, timed, { labFrag with wait := .event 3 }, 3, by decide +kernel⟩,
   ⟨withGroup timed, 0, 0, 7, 0, timed, { labFrag with wait := .event 3 }, 3, by decide +kernel⟩,
   ⟨withGroup { waiter (.resume 3 0 true) with evm := 1 }, 0, 0, 0, 0, 0, { waiter (.resume 3 0 true) with evm := 1 }, { labFrag with wait := .resume 3 0 true }, 3, by decide +kernel⟩,
   ⟨withGroup { waiter (.resume 3 0 false) with evm := 0xFF, pev := 0x80 }, 0, 0, 0, 0, 0, 7, { waiter (.resume 3 0 false) with evm := 0xFF, pev := 0x80 }, { labFrag with wait := .resume 3 0 false }, 3, by decide +kernel, by decide +kernel, by decide +kernel, of_decide_eq_true (by decide +kernel), by decide +kernel, by decide +kernel, by decide +kernel, of_decide_eq_true (by decide +kernel), by decide +kernel, by decide +kernel, 63, by decide +kernel⟩,
   ⟨withMsg (.flag 0 1023 true), 5, theMsg (.flag 0 1023 true), 0, 1023, true, ⟨rfl, rfl, by decide⟩⟩,
   ⟨withMsg (.mail 0 255 9 0 0 0), 5, theMsg (.mail 0 255 9 0 0 0), 0, 255, 9, 0, 0, 0, ⟨rfl, rfl, by decide⟩, by decide +kernel⟩,
   ⟨withGroup { waiter .xshf with exchange := some ⟨0, 1, false, 3, 1, {}, [], 0, 0⟩ }, 0, 0, { waiter .xshf with exchange := some ⟨0, 1, false, 3, 1, {}, [], 0, 0⟩ }, ⟨0, 1, false, 3, 1, {}, [], 0, 0⟩, { labFrag with wait := .xshf }, by decide +kernel⟩,
   ⟨withGroup (waiter (.yield 0)), 0, 0, 0, 0, waiter (.yield 0), { labFrag with wait := .yield 0 }, by decide +kernel⟩⟩

theorem witness_CommitsProceed :
    (∃ (s : State) (team : Nat), (s.teamAt team).state = .resident ∧ s.teamGroups team = [] ∧ (s.teamAt team).inbound = 0 ∧ (∀ e ∈ s.accs, e.2.team ≠ team) ∧ (∀ e ∈ s.ops, e.2.team = team → e.2.vDone = true)) ∧
    (∃ (s : State) (m : Nat) (x : Msg) (team core slot entry : Nat), s.Has m x (.cmtReq team core slot entry) ∧ ((s.teamAt team).state.over = false ∨ (s.taskAt (s.teamAt team).task).discard = true) ∧ (tget? s.teams team).isSome = true ∧ s.cmtFirst m x (s.teamAt team).task = true ∧ (s.taskAt (s.teamAt team).task).state = .running ∧ (s.taskAt (s.teamAt team).task).commit = none ∧ ((s.teamAt team).inL1 = true ∨ ∀ e ∈ s.msgs, ∀ v, e.2.kind = .version v → v.task ≠ (s.teamAt team).task)) ∧
    (∃ (s : State) (m : Nat) (x : Msg) (task slice : Nat) (epoch : Bool), s.HasHome m x (.cmtMark task epoch slice)) ∧
    (∃ (s : State) (m : Nat) (x : Msg) (task slice : Nat) (epoch : Bool) (c : Commit), s.Has m x (.cmtAck task epoch slice) ∧ (s.taskAt task).commit = some c ∧ c.epoch = epoch ∧ c.decided = false ∧ slice ∉ c.acks ∧ c.acks.length < 95) ∧
    (∃ (s : State) (m : Nat) (x : Msg) (task slice : Nat) (epoch : Bool) (c : Commit), s.Has m x (.cmtAck task epoch slice) ∧ (s.taskAt task).commit = some c ∧ c.epoch = epoch ∧ c.decided = false ∧ slice ∉ c.acks ∧ c.acks.length = 95) ∧
    (∃ (s : State) (m : Nat) (x : Msg) (task slice : Nat) (epoch : Bool) (c : Commit), s.Has m x (.mergeDone task epoch slice) ∧ (s.taskAt task).commit = some c ∧ slice ∉ c.merged ∧ (let u := (s.dropMsg m).mergeInOrder slice task epoch; c.merged.length < 95)) ∧
    (∃ (s : State) (m : Nat) (x : Msg) (task slice : Nat) (epoch : Bool) (c : Commit), s.Has m x (.mergeDone task epoch slice) ∧ (s.taskAt task).commit = some c ∧ slice ∉ c.merged ∧ (let u := (s.dropMsg m).mergeInOrder slice task epoch; c.merged.length = 95)) ∧
    (∃ (s : State) (slice task : Nat) (epoch : Bool) (c : Commit), (s.taskAt task).commit = some c ∧ s.decidedBefore c.order = []) ∧
    (∃ (s : State) (core slot : Nat) (g : Group), s.group? core slot = some g ∧ (s.taskAt (s.teamOf g).task).ovf = true ∧ g.uid ∉ (s.taskAt (s.teamOf g).task).ovfSeen ∧ g.atBoundary s.time = true) :=
  ⟨⟨withTeam (fun t => t) |> fun s => { s with groups := [] }, 0, by decide +kernel⟩,
   ⟨withMsg (.cmtReq 0 0 0 0), 5, theMsg (.cmtReq 0 0 0 0), 0, 0, 0, 0, ⟨rfl, rfl, by decide⟩, by decide +kernel, by decide +kernel, by decide +kernel, of_decide_eq_true (by decide +kernel), by decide +kernel, .inl (by decide +kernel)⟩,
   ⟨withMsg (.cmtMark 0 false 0), 5, theMsg (.cmtMark 0 false 0), 0, 0, false, ⟨⟨rfl, rfl, by decide⟩, by decide⟩⟩,
   ⟨(withMsg (.cmtAck 0 false 0)).setTask 0 { state := .running, commit := some { id := 1, epoch := false } }, 5, theMsg (.cmtAck 0 false 0), 0, 0, false, { id := 1, epoch := false }, ⟨rfl, rfl, by decide⟩, by decide +kernel⟩,
   ⟨(withMsg (.cmtAck 0 false 95)).setTask 0 { state := .running, commit := some { id := 1, epoch := false, acks := List.range 95 } }, 5, theMsg (.cmtAck 0 false 95), 0, 95, false, { id := 1, epoch := false, acks := List.range 95 }, ⟨rfl, rfl, by decide⟩, by decide +kernel⟩,
   ⟨(withMsg (.mergeDone 0 false 0)).setTask 0 { state := .committing, commit := some { id := 1, epoch := false } }, 5, theMsg (.mergeDone 0 false 0), 0, 0, false, { id := 1, epoch := false }, ⟨rfl, rfl, by decide⟩, by decide +kernel⟩,
   ⟨(withMsg (.mergeDone 0 false 95)).setTask 0 { state := .committing, commit := some { id := 1, epoch := false, merged := List.range 95 } }, 5, theMsg (.mergeDone 0 false 95), 0, 95, false, { id := 1, epoch := false, merged := List.range 95 }, ⟨rfl, rfl, by decide⟩, by decide +kernel⟩,
   ⟨lab.setTask 0 { state := .committing, commit := some { id := 1, epoch := false } }, 3, 0, false, { id := 1, epoch := false }, by decide +kernel⟩,
   ⟨withTask fun t => { t with ovf := true }, 0, 0, labGroup, by decide +kernel⟩⟩

theorem witness_VersionsAreHeldAndDiscarded :
    (∃ (s : State) (m : Nat) (x : Msg) (v : VersionLine), s.HasHome m x (.version v) ∧ (s.taskAt v.task).state = .running ∧ (∀ y ∈ (s.slice x.slice).versions, y.same v = false) ∧ ((s.slice x.slice).versionSet v.line).length < 4) ∧
    (∃ (s : State) (m : Nat) (x : Msg) (v : VersionLine), s.HasHome m x (.version v) ∧ (s.taskAt v.task).state = .running) ∧
    (∃ (s : State) (slot : Nat), (s.taskAt slot).discard = true ∧ (s.taskAt slot).commit = none) ∧
    (∃ (s : State) (slot : Nat), (s.taskAt slot).state = .discarding ∧ (s.taskAt slot).commit = none) ∧
    (∃ (s : State) (v : VersionLine), Memory.wf s.mem = true ∧ (∀ k m acc l cells, (k, m) ∈ s.msgs → m.kind = .through acc l cells → l / 16 ≠ v.line / 16)) :=
  ⟨⟨withMsg (.version { line := 16, task := 0, epoch := false, mask := 1, data := [⟨0, 9⟩], age := 0 }), 5, theMsg (.version { line := 16, task := 0, epoch := false, mask := 1, data := [⟨0, 9⟩], age := 0 }), { line := 16, task := 0, epoch := false, mask := 1, data := [⟨0, 9⟩], age := 0 }, ⟨⟨rfl, rfl, by decide⟩, by decide⟩, by decide +kernel⟩,
   ⟨withMsg (.version { line := 16, task := 0, epoch := false, mask := 1, data := [⟨0, 9⟩], age := 0 }), 5, theMsg (.version { line := 16, task := 0, epoch := false, mask := 1, data := [⟨0, 9⟩], age := 0 }), { line := 16, task := 0, epoch := false, mask := 1, data := [⟨0, 9⟩], age := 0 }, ⟨⟨rfl, rfl, by decide⟩, by decide⟩, by decide +kernel⟩,
   ⟨withTask fun t => { t with discard := true }, 0, by decide +kernel⟩,
   ⟨withTask fun t => { t with state := .discarding }, 0, by decide +kernel⟩,
   ⟨lab, { line := 16, task := 0, epoch := false, mask := 1, data := [⟨0, 9⟩], age := 0 }, by decide +kernel, fun _ _ _ _ _ h => absurd h List.not_mem_nil⟩⟩

theorem witness_HomesServeRequests :
    (∃ (s : State) (m : Nat) (x : Msg) (acc line : Nat) (bad : Bool), s.HasHome m x (.read acc line) ∧ s.lineBlocked m acc line = false ∧ s.rqTurn m x = true) ∧
    (∃ (s : State) (m : Nat) (x : Msg) (acc line : Nat) (wt : Bool), s.HasHome m x (.write acc line wt) ∧ s.lineBlocked m acc line = false) ∧
    (∃ (s : State) (m : Nat) (x : Msg) (acc line : Nat) (a : Access), tget? s.msgs m = some x ∧ x.kind = .read acc line ∧ tget? s.accs acc = some a ∧ m < s.ids ∧ (let sl := s.slice (s.homeOf (256 * line)); (let cached := !(a.lanes.any fun y => y.nc && y.inLine line); (∀ q ∈ a.sectors line, sl.sector line q ≠ 0) ∧ sl.recallFrom line (some (s.holderOf x.core)) = none ∧ sl.needsRoom line (x.core / 8) (s.holderOf x.core) false cached = none ∧ (cached = true → s.copyOf x.core line = none → s.placeStays x.core line = false)))) ∧
    (∃ (s : State) (m : Nat) (x : Msg) (acc line : Nat), s.Has m x (.completion acc line)) ∧
    (∃ (s : State) (m : Nat) (x : Msg) (acc : Nat) (a : Access), s.Has m x (.stx acc) ∧ tget? s.accs acc = some a ∧ s.remoteOlder acc a = false) ∧
    (∃ (s : State) (acc key : Nat) (a : Access) (g : Group), tget? s.accs acc = some a ∧ a.ldc = false ∧ a.acks = 0 ∧ (∀ y ∈ a.lanes, y.done = true) ∧ (∀ e ∈ s.msgs, ∀ l, e.2.kind ≠ .completion acc l) ∧ s.groupKey? a.guid = some key ∧ tget? s.groups key = some g) ∧
    (∃ (s : State) (m : Nat) (x : Msg) (acc line : Nat) (cells : List (Nat × List Byte)), s.HasHome m x (.through acc line cells)) ∧
    (∃ (s : State) (m acc line core p : Nat) (bs : List Byte), Memory.wf s.mem = true) ∧
    (∃ (s : State) (m : Nat) (x : Msg) (acc line : Nat) (a : Access), s.Has m x (.throughAck acc line) ∧ tget? s.accs acc = some a) :=
  ⟨⟨{ lab with msgs := [(5, theMsg (.read 9 16))], accs := [(9, { theAcc with lanes := [{ lane := 0, loc := .dev 0x1000 }] })] }, 5, theMsg (.read 9 16), 9, 16, false, ⟨⟨rfl, rfl, by decide⟩, by decide⟩, by decide +kernel⟩,
   ⟨{ lab with msgs := [(5, theMsg (.write 9 16 false))], accs := [(9, { theAcc with lanes := [{ lane := 0, loc := .dev 0x1000 }] })] }, 5, theMsg (.write 9 16 false), 9, 16, false, ⟨⟨rfl, rfl, by decide⟩, by decide⟩, by decide +kernel⟩,
   ⟨{ ({ lab with msgs := [(5, theMsg (.read 9 16))], accs := [(9, { theAcc with lanes := [{ lane := 0, loc := .dev 0x1000 }] })] } : State).setSlice (lab.homeOf 4096) { sectors := [(16, [1, 1, 1, 1])] } with ids := 6 }, 5, theMsg (.read 9 16), 9, 16, { theAcc with lanes := [{ lane := 0, loc := .dev 0x1000 }] }, by decide +kernel⟩,
   ⟨{ lab with msgs := [(5, theMsg (.completion 9 16))], accs := [(9, { theAcc with lanes := [{ lane := 0, loc := .dev 0x1000 }] })] }, 5, theMsg (.completion 9 16), 9, 16, ⟨rfl, rfl, by decide⟩⟩,
   ⟨{ lab with msgs := [(5, theMsg (.stx 9))], accs := [(9, { theAcc with op := .store, ldc := false, space := .remote })] }, 5, theMsg (.stx 9), 9, { theAcc with op := .store, ldc := false, space := .remote }, ⟨rfl, rfl, by decide⟩, by decide +kernel⟩,
   ⟨{ lab with accs := [(9, { theAcc with op := .store, ldc := false })] }, 9, 0, { theAcc with op := .store, ldc := false }, labGroup, by decide +kernel, by decide +kernel, by decide +kernel, of_decide_eq_true (by decide +kernel), fun _ h => absurd h List.not_mem_nil, by decide +kernel⟩,
   ⟨{ lab with msgs := [(5, theMsg (.through 9 16 []))], accs := [(9, { theAcc with lanes := [{ lane := 0, loc := .dev 0x1000 }] })] }, 5, theMsg (.through 9 16 []), 9, 16, [], ⟨⟨rfl, rfl, by decide⟩, by decide⟩⟩,
   ⟨lab, 5, 9, 16, 0, 0x1000, [77], by decide +kernel⟩,
   ⟨{ lab with msgs := [(5, theMsg (.throughAck 9 16))], accs := [(9, { theAcc with op := .store, ldc := false, acks := 1 })] }, 5, theMsg (.throughAck 9 16), 9, 16, { theAcc with op := .store, ldc := false, acks := 1 }, ⟨rfl, rfl, by decide⟩, by decide +kernel⟩⟩

theorem witness_TokensAndDramGoOn :
    (∃ (s : State) (m : Nat) (x : Msg) (line : Nat) (region inval : Bool), s.Has m x (.recall line region inval) ∧ s.holdsToken x.core line region = false) ∧
    (∃ (s : State) (m : Nat) (x : Msg) (line : Nat) (region : Bool), s.HasHome m x (.tokAck line region)) ∧
    (∃ (s : State) (m : Nat) (x : Msg) (line : Nat) (region : Bool), s.HasHome m x (.tokRet line region)) ∧
    (∃ (sl : Slice) (line : Nat) (h : Holder), (tgetD sl.regions (line / 16) {}).state = .t ∧ (tgetD sl.regions (line / 16) {}).holder = some h ∧ (tgetD sl.regions (line / 16) {}).sharers = 0) ∧
    (∃ (sl : Slice) (line : Nat) (h : Holder), (tgetD sl.regions (line / 16) {}).state = .t ∧ (tgetD sl.regions (line / 16) {}).holder = some h ∧ h.cluster < 48) ∧
    (∃ (s : State) (m : Nat) (x : Msg) (line : Nat) (region : Bool), s.HasHome m x (.gone line region)) ∧
    (∃ (s : State) (m : Nat) (x : Msg) (line : Nat) (region : Bool) (exempt : Option Nat), s.Has m x (.inv line region exempt) ∧ exempt = none) ∧
    (∃ (s : State) (m : Nat) (x : Msg) (line cluster : Nat), s.HasHome m x (.invAck line cluster)) ∧
    (∃ (s : State) (slice line cluster : Nat) (b : Busy), tget? (s.slice slice).busy line = some b ∧ (∃ c ∈ b.invs, c ≠ cluster)) ∧
    (∃ (s : State) (line : Nat) (ids : List Nat), (let home := s.homeOf (256 * line); tget? (s.slice home).busy line = none ∧ tget? (s.slice home).waiting line = some ids ∧ (s.slice home).freeing (line / 16 * 16) true = false)) ∧
    (∃ (s : State) (line : Nat), (let home := s.homeOf (256 * line); (let sl := s.slice home; ∃ r, (s.controller (controllerOf (256 * line))).next s.time = some (r, false) ∧ r.line = line ∧ line ∈ sl.misses ∧ sl.busy = [] ∧ (∀ q, q < 4 → 4 * line + q ∉ s.poison) ∧ r.sector < (tgetD sl.sectors line [0, 0, 0, 0]).length))) ∧
    (∃ (s : State) (line : Nat), (let home := s.homeOf (256 * line); (let sl := s.slice home; ∃ r, (s.controller (controllerOf (256 * line))).next s.time = some (r, false) ∧ r.line = line ∧ line ∈ sl.misses ∧ sl.busy = [] ∧ (∀ q, q < 4 → 4 * line + q ∉ s.poison) ∧ ∃ q, q ≠ r.sector))) ∧
    (∃ (s : State) (slice mc : Nat) (r : DramRequest), mc < 24 ∧ (s.controller mc).next s.time = some (r, true) ∧ r.slice = slice ∧ (∀ k q, k < mc → (s.controller k).next s.time = some (q, true) → q.slice ≠ slice)) ∧
    (∃ (s : State) (slice entry : Nat) (b : BadLine), s.bar0Open = true ∧ tget? (s.slice slice).bad entry = some b) ∧
    (∃ (s : State) (slice : Nat), (s.slice slice).retained = false ∧ (s.chipOnline (chipOf (slice / 2)) = false ∨ (s.cluster (slice / 2)).cal = true) ∧ (s.slice slice).lastUse + 50 * usec ≤ s.time ∧ s.sliceIdle slice = true) ∧
    (∃ (s : State) (slice at' : Nat), (s.slice slice).wakeAt = some at' ∧ at' ≤ s.time) :=
  ⟨⟨withMsg (.recall 16 false true), 5, theMsg (.recall 16 false true), 16, false, true, ⟨rfl, rfl, by decide⟩, by decide +kernel⟩,
   ⟨withMsg (.tokAck 16 false), 5, theMsg (.tokAck 16 false), 16, false, ⟨⟨rfl, rfl, by decide⟩, by decide⟩⟩,
   ⟨withMsg (.tokRet 16 false), 5, theMsg (.tokRet 16 false), 16, false, ⟨⟨rfl, rfl, by decide⟩, by decide⟩⟩,
   ⟨{ regions := [(1, { state := .t, holder := some (.core 0) })] }, 16, .core 0, by decide +kernel⟩,
   ⟨{ regions := [(1, { state := .t, holder := some (.core 0), sharers := 4 })] }, 16, .core 0, by decide +kernel⟩,
   ⟨withMsg (.gone 16 false), 5, theMsg (.gone 16 false), 16, false, ⟨⟨rfl, rfl, by decide⟩, by decide⟩⟩,
   ⟨withMsg (.inv 16 false none), 5, theMsg (.inv 16 false none), 16, false, none, ⟨rfl, rfl, by decide⟩, by decide +kernel⟩,
   ⟨withMsg (.invAck 16 0), 5, theMsg (.invAck 16 0), 16, 0, ⟨⟨rfl, rfl, by decide⟩, by decide⟩⟩,
   ⟨lab.setSlice 3 { busy := [(16, { msg := none, tokens := [], invs := [1, 2] })] }, 3, 16, 1, { msg := none, tokens := [], invs := [1, 2] }, by decide +kernel⟩,
   ⟨lab.setSlice (lab.homeOf 4096) { waiting := [(16, [5])] }, 16, [5], by decide +kernel⟩,
   ⟨{ lab.setSlice (lab.homeOf 4096) { misses := [16], sectors := [(16, [0, 1, 1, 1])] } with controllers := [(controllerOf 4096, { reads := [⟨16, 0, 4, 0, 0⟩] })] }, 16, ⟨16, 0, 4, 0, 0⟩, by decide +kernel⟩,
   ⟨{ lab.setSlice (lab.homeOf 4096) { misses := [16], sectors := [(16, [0, 1, 1, 1])] } with controllers := [(controllerOf 4096, { reads := [⟨16, 0, 4, 0, 0⟩] })] }, 16, ⟨16, 0, 4, 0, 0⟩, by decide +kernel, by decide +kernel, by decide +kernel, of_decide_eq_true (by decide +kernel), by decide +kernel, 3, by decide +kernel⟩,
   ⟨{ lab with controllers := [(3, { writes := [⟨16, 1, 5, 4, 0⟩], drain := true })] }, 5, 3, ⟨16, 1, 5, 4, 0⟩, by decide +kernel, by decide +kernel, by decide +kernel, fun k q hk h => by
    have none_next : ∀ j < 3, (({ lab with controllers := [(3, { writes := [⟨16, 1, 5, 4, 0⟩], drain := true })] } : State).controller j).next ({ lab with controllers := [(3, { writes := [⟨16, 1, 5, 4, 0⟩], drain := true })] } : State).time = none := by decide +kernel
    rw [none_next k hk] at h; cases h⟩,
   ⟨({ served with poison := [8] } : State).setSlice 0 { bad := [(0, { cause := 1, line := 2 })] }, 0, 0, { cause := 1, line := 2 }, by decide +kernel⟩,
   ⟨served, 5, by decide +kernel⟩,
   ⟨served.setSlice 5 { retained := true, wakeAt := some 9 }, 5, 9, by decide +kernel⟩⟩

theorem witness_EnginesAndCollectivesProceed :
    (∃ (s : State) (engine k id : Nat) (o : EngineOp), (tgetD s.engines engine {}).active = [k] ∧ (s.ops.find? fun e => e.2.engine == some engine && e.2.stream e.1 == k && e.2.canStep) = some (id, o)) ∧
    (∃ (s : State) (payer : Option Nat) (f : State → State) (l : Lack) (ls : List Lack), (let t := f { s with needs := some [] }; t.needs = some [] ∧ s.overfills t = false)) ∧
    (∃ (s : State) (payer : Option Nat) (f : State → State) (l : Lack) (ls : List Lack), (let t := f { s with needs := some [] }; t.needs = some (l :: ls))) ∧
    (∃ (s : State) (id dst src len room : Nat) (o : EngineOp), tget? s.ops id = some o ∧ o.kind = .cpy true true dst src len ∧ o.held = [] ∧ o.units < len ∧ (let bs := cread (s.teamAt o.team).scratch (src + o.units) (min (4096 - o.units % 4096) (len - o.units)); o.early = [])) ∧
    (∃ (s : State) (id dst src len room : Nat) (o : EngineOp), tget? s.ops id = some o ∧ o.kind = .cpy true true dst src len ∧ o.held = [] ∧ o.units < len ∧ (let bs := cread (s.teamAt o.team).scratch (src + o.units) (min (4096 - o.units % 4096) (len - o.units)); o.early = bs.map some)) ∧
    (∃ (s : State) (id dst src len room : Nat) (o : EngineOp), tget? s.ops id = some o ∧ o.kind = .cpy true true dst src len ∧ o.half = none ∧ o.held ≠ [] ∧ o.held.length % 4 = 0 ∧ o.held.length ≤ room ∧ Memory.wf (s.teamAt o.team).scratch = true) ∧
    (∃ (s : State) (id : Nat) (o : EngineOp), tget? s.ops id = some o) ∧
    (∃ (s : State) (id dst src len : Nat) (o : EngineOp) (fromScr toScr : Bool), tget? s.ops id = some o ∧ o.kind = .cpy fromScr toScr dst src len ∧ o.ended = false ∧ o.stalled = false ∧ o.reads = 0 ∧ len ≤ o.units + o.held.length ∧ o.rDone = false) ∧
    (∃ (s : State) (id dst src len : Nat) (o : EngineOp) (fromScr toScr : Bool), tget? s.ops id = some o ∧ o.kind = .cpy fromScr toScr dst src len ∧ o.ended = false ∧ o.stalled = false ∧ o.reads = 0 ∧ len ≤ o.units + o.held.length ∧ o.rDone = true ∧ len ≤ o.units ∧ o.bulk = 0) ∧
    (∃ (s : State) (core id : Nat) (o : EngineOp), (let u := s.exclude (core / 8); (u.core core).matrix.busyUntil ≤ s.time ∧ u.nextArray core = some id ∧ tget? u.ops id = some o ∧ o.ended = false)) ∧
    (∃ (s : State) (core id tile : Nat) (mask : W64) (o : EngineOp), o.kind = .accnext tile mask) ∧
    (∃ (s : State) (core id tile : Nat) (mask : W64) (o : EngineOp), o.kind = .accnext tile mask) ∧
    (∃ (s : State) (id : Nat) (o : EngineOp), tget? s.ops id = some o ∧ o.kind.array = true ∧ o.accepted.isSome = true ∧ o.finish ≤ s.time) ∧
    (∃ (s : State) (core id tile dst pitch ofmt act : Nat) (toScr sat : Bool) (scale : W32) (rest : List Nat) (o : EngineOp), (s.core core).matrix.epi = id :: rest ∧ tget? s.ops id = some o ∧ o.kind = .epi toScr tile dst pitch ofmt act sat scale ∧ o.ended = false ∧ (s.core core).matrix.epiBusyUntil ≤ s.time ∧ (∀ e ∈ s.ops, ¬ (e.1 < id ∧ e.2.guid = o.guid ∧ e.2.kind.array = true ∧ e.2.kind.tile = some tile ∧ e.2.vDone = false)) ∧ tgetD (s.core core).matrix.accwr tile 0 ≤ s.time) ∧
    (∃ (s : State) (k k' pos id level index : Nat) (m : Msg) (data : List W32) (c : Coll), s.reduction k pos = some (id, m) ∧ m.kind = .reduce k' level index data ∧ tget? s.colls k = some c ∧ (c.ended = true ∨ c.failedAt ≠ none)) ∧
    (∃ (s : State) (k k' pos id level index : Nat) (m : Msg) (data : List W32) (c : Coll), s.reduction k pos = some (id, m) ∧ m.kind = .reduce k' level index data ∧ tget? s.colls k = some c ∧ c.ended = false ∧ c.failedAt = none ∧ m.slice ≠ s.reduceAt c level index) ∧
    (∃ (s : State) (k k' pos id level index : Nat) (m : Msg) (data : List W32) (c : Coll), s.reduction k pos = some (id, m) ∧ m.kind = .reduce k' level index data ∧ tget? s.colls k = some c ∧ c.ended = false ∧ c.failedAt = none ∧ m.slice = s.reduceAt c level index) ∧
    (∃ (s : State) (k level index here : Nat) (data : List W32) (c : Coll), 1 < nodesAt c.n level ∧ (let sibling := c.sums.find? fun y => y.level == level && y.index == (if index % 2 == 0 then index + 1 else index - 1); ∃ x, sibling = some x)) ∧
    (∃ (s : State) (k level index here : Nat) (data : List W32) (c : Coll), 1 < nodesAt c.n level ∧ (let sibling := c.sums.find? fun y => y.level == level && y.index == (if index % 2 == 0 then index + 1 else index - 1); sibling = none ∧ c.parked = false ∧ s.buffersAt (junctionSlice level index) < 64)) ∧
    (∃ (s : State) (k level index here : Nat) (data : List W32) (c : Coll), nodesAt c.n level ≤ 1) ∧
    (∃ (s : State) (k level index : Nat) (c : Coll) (x : NodeSum), tget? s.colls k = some c ∧ x ∈ c.sums ∧ x.level = level ∧ x.index = index ∧ x.parked = false ∧ x.since + 100 * usec ≤ s.time ∧ s.partialsAt (s.homeOf c.dst) + (c.sums.filter fun y => !y.parked).length ≤ 1024) ∧
    (∃ (s : State) (k at' : Nat) (c : Coll), tget? s.colls k = some c ∧ c.ringSince = some at' ∧ c.mode = 2 ∧ c.device = none ∧ c.cto ≠ 0 ∧ c.failedAt = none ∧ c.ended = false ∧ at' + c.cto * usec ≤ s.time) ∧
    (∃ (s : State) (k at' : Nat) (c : Coll), tget? s.colls k = some c ∧ c.failedAt = some at' ∧ c.cto ≠ 0 ∧ at' + c.cto * usec ≤ s.time) :=
  ⟨⟨{ lab with engines := [(0, { active := [0] })], ops := [(4, { kind := .cpy true true 0 0 64, ctx := 0, cls := 0, engine := some 0 })] }, 0, 0, 4, { kind := .cpy true true 0 0 64, ctx := 0, cls := 0, engine := some 0 }, by decide +kernel⟩,
   ⟨lab, none, id, .pass, [], by decide +kernel⟩,
   ⟨lab, none, State.hold, .pass, [], by decide +kernel⟩,
   ⟨{ lab with ops := [(4, { kind := .cpy true true 0 0 4, ctx := 0, cls := 0 })] }, 4, 0, 0, 4, 4096, { kind := .cpy true true 0 0 4, ctx := 0, cls := 0 }, by decide +kernel⟩,
   ⟨{ lab with ops := [(4, { kind := .cpy true true 0 0 4, ctx := 0, cls := 0, early := [some 0, some 0, some 0, some 0] })] }, 4, 0, 0, 4, 4096, { kind := .cpy true true 0 0 4, ctx := 0, cls := 0, early := [some 0, some 0, some 0, some 0] }, by decide +kernel⟩,
   ⟨{ lab with ops := [(4, { kind := .cpy true true 0 0 4, ctx := 0, cls := 0, held := [0, 0, 0, 0] })] }, 4, 0, 0, 4, 4, { kind := .cpy true true 0 0 4, ctx := 0, cls := 0, held := [0, 0, 0, 0] }, by decide +kernel⟩,
   ⟨{ lab with ops := [(4, { kind := .cpy true true 0 0 4, ctx := 0, cls := 0 })] }, 4, { kind := .cpy true true 0 0 4, ctx := 0, cls := 0 }, by decide +kernel⟩,
   ⟨{ lab with ops := [(4, { kind := .cpy true true 0 0 64, ctx := 0, cls := 0, units := 64 })] }, 4, 0, 0, 64, { kind := .cpy true true 0 0 64, ctx := 0, cls := 0, units := 64 }, true, true, by decide +kernel⟩,
   ⟨{ lab with ops := [(4, { kind := .cpy true true 0 0 64, ctx := 0, cls := 0, units := 64, rDone := true })] }, 4, 0, 0, 64, { kind := .cpy true true 0 0 64, ctx := 0, cls := 0, units := 64, rDone := true }, true, true, by decide +kernel⟩,
   ⟨({ lab with ops := [(4, { kind := .accnext 0 1, ctx := 0, cls := 3 })] } : State).setCore 0 { (lab.core 0) with matrix := { waiting := [4] } }, 0, 4, { kind := .accnext 0 1, ctx := 0, cls := 3 }, by decide +kernel⟩,
   ⟨lab, 0, 4, 0, 1, { kind := .accnext 0 1, ctx := 0, cls := 3 }, by decide +kernel⟩,
   ⟨lab, 0, 4, 0, 1, { kind := .accnext 0 1, ctx := 0, cls := 3 }, by decide +kernel⟩,
   ⟨{ lab with ops := [(4, { kind := .accnext 0 1, ctx := 0, cls := 3, accepted := some 0 })] }, 4, { kind := .accnext 0 1, ctx := 0, cls := 3, accepted := some 0 }, by decide +kernel⟩,
   ⟨({ lab with ops := [(4, { kind := .epi true 0 0 0 0 0 false 0, ctx := 0, cls := 3 })] } : State).setCore 0 { (lab.core 0) with matrix := { epi := [4] } }, 0, 4, 0, 0, 0, 0, 0, true, false, 0, [], { kind := .epi true 0 0 0 0 0 false 0, ctx := 0, cls := 3 }, by decide +kernel⟩,
   ⟨{ lab with colls := [(0, { ctx := 0, dst := 0, n := 2, count := 1, m := 1, dpos := 0, list := [], fn := 0, ended := true })], msgs := [(5, { (theMsg (.reduce 0 0 0 [1])) with stage := .arrived, slice := 0 })] }, 0, 0, 0, 5, 0, 0, { (theMsg (.reduce 0 0 0 [1])) with stage := .arrived, slice := 0 }, [1], { ctx := 0, dst := 0, n := 2, count := 1, m := 1, dpos := 0, list := [], fn := 0, ended := true }, by decide +kernel⟩,
   ⟨{ lab with colls := [(0, { ctx := 0, dst := 0, n := 2, count := 1, m := 1, dpos := 0, list := [], fn := 0, contribs := [] })], msgs := [(5, { (theMsg (.reduce 0 0 0 [1])) with stage := .arrived, slice := 1 })] }, 0, 0, 0, 5, 0, 0, { (theMsg (.reduce 0 0 0 [1])) with stage := .arrived, slice := 1 }, [1], { ctx := 0, dst := 0, n := 2, count := 1, m := 1, dpos := 0, list := [], fn := 0, contribs := [] }, by decide +kernel⟩,
   ⟨{ lab with colls := [(0, { ctx := 0, dst := 0, n := 2, count := 1, m := 1, dpos := 0, list := [], fn := 0, contribs := [] })], msgs := [(5, { (theMsg (.reduce 0 0 0 [1])) with stage := .arrived, slice := 0 })] }, 0, 0, 0, 5, 0, 0, { (theMsg (.reduce 0 0 0 [1])) with stage := .arrived, slice := 0 }, [1], { ctx := 0, dst := 0, n := 2, count := 1, m := 1, dpos := 0, list := [], fn := 0, contribs := [] }, by decide +kernel⟩,
   ⟨lab, 0, 0, 0, 0, [2], { ctx := 0, dst := 0, n := 2, count := 1, m := 1, dpos := 0, list := [], fn := 0, sums := [{ level := 0, index := 1, data := [1], since := 0 }] }, by decide +kernel, { level := 0, index := 1, data := [1], since := 0 }, by decide +kernel⟩,
   ⟨lab, 0, 0, 0, 0, [2], { ctx := 0, dst := 0, n := 2, count := 1, m := 1, dpos := 0, list := [], fn := 0, contribs := [] }, by decide +kernel⟩,
   ⟨lab, 0, 1, 0, 0, [2], { ctx := 0, dst := 0, n := 2, count := 1, m := 1, dpos := 0, list := [], fn := 0, contribs := [] }, by decide +kernel⟩,
   ⟨{ served with colls := [(0, { ctx := 0, dst := 0, n := 2, count := 1, m := 1, dpos := 0, list := [], fn := 0, sums := [{ level := 0, index := 1, data := [1], since := 0 }] })] }, 0, 0, 1, { ctx := 0, dst := 0, n := 2, count := 1, m := 1, dpos := 0, list := [], fn := 0, sums := [{ level := 0, index := 1, data := [1], since := 0 }] }, { level := 0, index := 1, data := [1], since := 0 }, by decide +kernel⟩,
   ⟨{ served with colls := [(0, { ctx := 0, dst := 0, n := 2, count := 1, m := 1, dpos := 0, list := [], fn := 2, ringSince := some 0, cto := 1 })] }, 0, 0, { ctx := 0, dst := 0, n := 2, count := 1, m := 1, dpos := 0, list := [], fn := 2, ringSince := some 0, cto := 1 }, by decide +kernel⟩,
   ⟨{ served with colls := [(0, { ctx := 0, dst := 0, n := 2, count := 1, m := 1, dpos := 0, list := [], fn := 0, failedAt := some 0, cto := 1 })] }, 0, 0, { ctx := 0, dst := 0, n := 2, count := 1, m := 1, dpos := 0, list := [], fn := 0, failedAt := some 0, cto := 1 }, by decide +kernel⟩⟩

theorem witness_PowerAndBringUpProceed :
    (∃ s : State, s.power.vaux = true) ∧
    (∃ s : State, s.power.vaux = true) ∧
    (∃ (s : State) (rails : List Rail), Rail.vaux ∉ rails ∧ Rail.vbase ∈ rails ∧ s.commanded .vbase = true) ∧
    (∃ s : State, s.commanded .vmem = true) ∧
    (∃ s : State, s.commanded .vlas = true) ∧
    (∃ (s : State) (n : Nat), s.commanded (.vch n) = true) ∧
    (∃ (s : State) (n : Nat), s.commanded (.vch n) = true ∧ s.commanded .vlas = true) ∧
    (∃ s : State, s.power.t3 = true ∧ s.power.down = false ∧ s.power.t3step < 5) ∧
    (∃ s : State, s.power.t3 = true ∧ s.power.down = false ∧ s.power.t3step = 6) ∧
    (∃ (s : State) (r : Rail) (check : ChipletCheck), (s.power.down = true ∨ s.power.t3 = true)) ∧
    (∃ (s : State) (check : ChipletCheck), s.power.down = false ∧ s.power.t3 = false ∧ s.stage = .base ∧ s.power.vaux = true) ∧
    (∃ (s : State) (check : ChipletCheck), s.power.down = false ∧ s.power.t3 = false ∧ s.stage = .base ∧ s.power.vaux = true ∧ s.power.vbase = true) ∧
    (∃ (s : State) (check : ChipletCheck), s.power.down = false ∧ s.power.t3 = false ∧ s.stage = .memory ∧ s.power.vaux = true ∧ s.power.vbase = true ∧ s.power.vmem = true) ∧
    (∃ (s : State) (n : Nat) (check : ChipletCheck), n < 8 ∧ s.stage = .compute ∧ s.power.baseUp = true ∧ s.power.vch.getLsbD n = false ∧ s.power.fenced.getLsbD n = false ∧ (∀ k, k < n → s.chipletDone k = true)) ∧
    (∃ (s : State) (n : Nat) (check : ChipletCheck), n < 8 ∧ (s.stage = .compute ∨ s.stage = .full) ∧ s.power.baseUp = true ∧ (s.power.vch.getLsbD n = true ∨ s.power.fenced.getLsbD n = true) ∧ s.chipletBusy n = false) ∧
    (∃ (s : State) (n : Nat) (check : ChipletCheck), check.scanOk = true ∧ check.badPorts = 0) ∧
    (∃ (s : State) (n : Nat) (check : ChipletCheck), check.scanOk = false) ∧
    (∃ (s : State) (n : Nat), s.stage = .compute ∧ s.chipletDone n = false) ∧
    (∃ s : State, s.power.stageFailed = true) ∧
    (∃ (s : State) (c : ImageCheck), s.stage = .boot ∧ s.linkUp = true ∧ (s.boot.state = .verifying ∨ s.boot.state = .recoveryVerifying)) ∧
    (∃ (flash : Bool) (i : Image) (c : ImageCheck), flash = true ∧ c.flashOk = false) ∧
    (∃ (flash : Bool) (i : Image) (c : ImageCheck), (flash = false ∨ c.flashOk = true)) ∧
    (∃ (s : State) (v : W32), v.getLsbD 0 = true ∧ s.linkUp = true ∧ s.boot.state = .recovery) ∧
    (∃ s : State, s.stage = .base ∧ s.power.vbase = true ∧ s.power.vmem = true ∧ s.power.t3 = false) ∧
    (∃ s : State, s.stage = .memory ∧ s.power.vlas = true ∧ s.power.t3 = false) ∧
    (∃ (s : State) (c : Nat), s.clusterOnline c = true ∧ (s.cluster c).cal = false ∧ s.betweenInstrs c = true) ∧
    (∃ (s : State) (c : Nat), s.clusterOnline c = true ∧ (s.cluster c).cal = false) ∧
    (∃ (s : State) (n : BitVec 384), s.bar0Open = true) ∧
    (∃ s : State, s.bar0Open = true) ∧
    (∃ s : State, s.boot.attGo = true) :=
  ⟨⟨served, by decide +kernel⟩,
   ⟨served, by decide +kernel⟩,
   ⟨served, [.vbase], by decide +kernel⟩,
   ⟨served, by decide +kernel⟩,
   ⟨served, by decide +kernel⟩,
   ⟨served, 0, by decide +kernel⟩,
   ⟨served, 0, by decide +kernel⟩,
   ⟨{ served with power := { served.power with t3 := true, t3step := 1 } }, by decide +kernel⟩,
   ⟨{ served with power := { served.power with t3 := true, t3step := 6 } }, by decide +kernel⟩,
   ⟨{ served with power := { served.power with t3 := true } }, .vlas, { scanOk := true, badPorts := 0 }, by decide +kernel⟩,
   ⟨upAt .base, { scanOk := true, badPorts := 0 }, by decide +kernel⟩,
   ⟨upAt .base, { scanOk := true, badPorts := 0 }, by decide +kernel⟩,
   ⟨upAt .memory, { scanOk := true, badPorts := 0 }, by decide +kernel⟩,
   ⟨{ upAt .compute with power := { vbase := true, vmem := true, vlas := true } }, 0, { scanOk := true, badPorts := 0 }, by decide +kernel⟩,
   ⟨served, 7, { scanOk := true, badPorts := 0 }, by decide +kernel⟩,
   ⟨served, 0, { scanOk := true, badPorts := 0 }, by decide +kernel⟩,
   ⟨served, 0, { scanOk := false, badPorts := 0 }, by decide +kernel⟩,
   ⟨upAt .compute, 0, by decide +kernel⟩,
   ⟨{ served with power := { served.power with stageFailed := true } }, by decide +kernel⟩,
   ⟨{ lab with stage := .boot, boot := { state := .verifying, flash := some { body := [], length := 0, version := Config.minVersion, digest := Config.digest384 [], signature := [] } } }, { flashOk := true }, by decide +kernel⟩,
   ⟨true, { body := [], length := 0, version := Config.minVersion, digest := Config.digest384 [], signature := [] }, { flashOk := false }, by decide +kernel⟩,
   ⟨false, { body := [], length := 0, version := Config.minVersion, digest := Config.digest384 [], signature := [] }, { flashOk := false }, by decide +kernel⟩,
   ⟨{ lab with boot := { state := .recovery } }, 1, by decide +kernel⟩,
   ⟨upAt .base, by decide +kernel⟩,
   ⟨upAt .memory, by decide +kernel⟩,
   ⟨upAt .full, 47, by decide +kernel⟩,
   ⟨upAt .full, 47, by decide +kernel⟩,
   ⟨served, 9, by decide +kernel⟩,
   ⟨served, by decide +kernel⟩,
   ⟨{ lab with boot := { attGo := true } }, by decide +kernel⟩⟩

theorem witness_CoolingAndBoostProceed :
    (∃ (s : State) (c : Nat), s.clusterOnline c = true ∧ (s.cluster c).ret = false ∧ s.clusterBusy c = false ∧ (s.cluster c).idleSince + 50 * usec ≤ s.time) ∧
    (∃ (s : State) (c at' : Nat), (s.cluster c).wakeAt = some at' ∧ (s.cluster c).ret = true ∧ at' ≤ s.time) ∧
    (∃ (s : State) (a b : Bool), sampleDue s.power.looked s.time = true) ∧
    (∃ s : State, s.power.top.inletLost s.time = true) ∧
    (∃ s : State, s.power.bottom.inletLost s.time = true) ∧
    (∃ (l : Loop) (now : Nat), l.lost = false ∧ l.lowRun = 0) ∧
    (∃ (l : Loop) (now : Nat), (l.dieHot = true ∨ l.inletOut.isSome = true)) ∧
    (∃ (l : Loop) (now : Nat), ∃ g, l.goodSince = some g ∧ g + 1000000 * usec ≤ now) ∧
    (∃ (l : Loop) (now : Nat), ∃ g, l.goodSince = some g ∧ now < g + 1000000 * usec) ∧
    (∃ (s : State) (top bottom : Loop), s.power.t3 = false ∧ s.power.vaux = true) ∧
    (∃ (s : State) (temps : List (BitVec 12)) (it ib : BitVec 12), s.power.vaux = true ∧ sampleDue s.power.sensed s.time = true ∧ (∀ x ∈ temps, x.toNat ≤ 1272) ∧ s.power.t3 = false ∧ s.power.table = 0) ∧
    (∃ (s : State) (n : Nat), n < 4 ∧ s.power.lasersLost.getLsbD n = false) ∧
    (∃ (s : State) (n : Nat), (n = 4 ∨ n = 5) ∧ s.power.lasersLost.getLsbD n = false) ∧
    (∃ (s : State) (watts : Nat), s.time % (4 * usec) = 0 ∧ s.governor.last < s.time) ∧
    (∃ (g : Governor) (table watts : Nat), (table = 1 ∨ table = 3)) ∧
    (∃ (g : Governor) (table watts : Nat), table ≠ 1 ∧ table ≠ 3 ∧ 2650 < watts) ∧
    (∃ (g : Governor) (table watts : Nat), table ≠ 1 ∧ table ≠ 3 ∧ watts ≤ 2550) ∧
    (∃ (g : Governor) (table watts : Nat), table ≠ 1 ∧ table ≠ 3 ∧ 2550 < watts ∧ watts ≤ 2650) ∧
    (∃ (s : State) (c : Nat), s.clusterOnline c = true ∧ s.clusterBusy c = false ∧ max (s.cluster c).idleSince (s.cluster c).refillAt + 8 * usec ≤ s.time ∧ ∃ k, k ≠ c) ∧
    (∃ s : State, s.time % usec = 0) ∧
    (∃ (s : State) (b k : Nat) (c : EventCounter), tget? s.counters (8 * b + k) = some c) :=
  ⟨⟨served, 47, by decide +kernel⟩,
   ⟨served.setCluster 3 { ret := true, wakeAt := some 5 }, 3, 5, by decide +kernel⟩,
   ⟨served, true, false, by decide +kernel⟩,
   ⟨{ served with power := { served.power with top := { inletOut := some 0 } } }, by decide +kernel⟩,
   ⟨{ served with power := { served.power with bottom := { inletOut := some 0 } } }, by decide +kernel⟩,
   ⟨{}, 9, by decide +kernel⟩,
   ⟨{ dieHot := true }, 9, by decide +kernel⟩,
   ⟨{ goodSince := some 0 }, 72000000000, 0, by decide +kernel⟩,
   ⟨{ goodSince := some 0 }, 71999999999, 0, by decide +kernel⟩,
   ⟨served, {}, {}, by decide +kernel⟩,
   ⟨served, [1272], 0, 0, by decide +kernel⟩,
   ⟨served, 3, by decide +kernel⟩,
   ⟨served, 4, by decide +kernel⟩,
   ⟨served, 2000, by decide +kernel⟩,
   ⟨{}, 1, 2000, by decide +kernel⟩,
   ⟨{}, 0, 2651, by decide +kernel⟩,
   ⟨{}, 2, 2550, by decide +kernel⟩,
   ⟨{}, 0, 2650, by decide +kernel⟩,
   ⟨served, 47, by decide +kernel, by decide +kernel, by decide +kernel, 0, by decide +kernel⟩,
   ⟨served, by decide +kernel⟩,
   ⟨{ lab with counters := [(9, { en := true })] }, 1, 1, { en := true }, by decide +kernel⟩⟩

theorem witness_PortsChangeState :
    (∃ (s : State) (n : Nat) (v : W32), s.bar0Open = true ∧ n < 16 ∧ v.getLsbD 0 = true ∧ v.getLsbD 1 = false) ∧
    (∃ (s : State) (n : Nat) (v : W32), s.bar0Open = true ∧ n < 16 ∧ v.getLsbD 0 = false ∧ v.getLsbD 1 = false ∧ (s.port n).state = .down) ∧
    (∃ (s : State) (n : Nat) (v : W32), s.bar0Open = true ∧ n < 16 ∧ v.getLsbD 0 = true ∧ v.getLsbD 1 = true ∧ s.peer.devidV = true ∧ s.portLit n = true ∧ ((s.port n).state = .down ∨ (s.port n).state = .failed)) ∧
    (∃ (s : State) (n : Nat), (s.port n).state = .training ∧ s.portLit n = true) ∧
    (∃ (s : State) (n : Nat) (v : W32), s.bar0Open = true ∧ n < 16 ∧ (pwgtOf v).foldl (fun a b => a + b) 0 = 16 ∧ 0 ∉ pwgtOf v) ∧
    (∃ (s : State) (v : W32), s.bar0Open = true ∧ s.peer.devidSet = false) ∧
    (∃ (s : State) (n : Nat), (s.port n).state = .up ∧ (∃ f ∈ (s.port n).sent, 8 ≤ f.resends)) ∧
    (∃ (s : State) (n : Nat), (s.port n).state = .up ∧ (s.port n).lastAccept + 10 * usec ≤ s.time) ∧
    (∃ (s : State) (n : Nat) (q : BitVec 12), (s.port n).state = .up ∧ (s.port n).asked = some q) ∧
    (∃ (p : Port) (q : BitVec 12), p.asked = some q) ∧
    (∃ (s : State) (d : Nat) (h : RouteHold), (s.peer.holds.find? fun x => x.dst.toNat == d) = some h ∧ (∀ x ∈ (s.port h.oldPort).tags, x.dst ≠ h.dst)) :=
  ⟨⟨served, 15, 1, by decide +kernel⟩,
   ⟨served, 15, 0, by decide +kernel⟩,
   ⟨named, 15, 3, by decide +kernel⟩,
   ⟨served.setPort 3 { state := .training }, 3, by decide +kernel⟩,
   ⟨served, 15, 0xD111, by decide +kernel⟩,
   ⟨served, 0x80000009, by decide +kernel⟩,
   ⟨served.setPort 3 { state := .up, sent := [{ kind := 1, tc := 1, seq := 0, dst := 9, pay := 0, resends := 8 }] }, 3, by decide +kernel⟩,
   ⟨served.setPort 3 { state := .up }, 3, by decide +kernel⟩,
   ⟨served.setPort 3 { state := .up, asked := some 4, sent := [{ kind := 1, tc := 1, seq := 4, dst := 9, pay := 0 }] }, 3, 4, by decide +kernel⟩,
   ⟨{ asked := some 4 }, 4, by decide +kernel⟩,
   ⟨{ served with peer := { holds := [{ dst := 9, oldPort := 3 }] } }, 9, { dst := 9, oldPort := 3 }, by decide +kernel⟩⟩

theorem witness_FlitsAndPacketsGoOn :
    (∃ (s : State) (n : Nat), (s.port n).state = .up ∧ s.portLit n = true ∧ (s.port n).asked = none ∧ (s.port n).resend = none ∧ (s.port n).nak = false ∧ (s.port n).canSend 2 = true) ∧
    (∃ (s : State) (n : Nat), (s.port n).state = .up ∧ s.portLit n = true ∧ (s.port n).asked = none ∧ (s.port n).resend = none ∧ (s.port n).nak = true) ∧
    (∃ (s : State) (n tc ptr : Nat) (i : Outgoing), tget? (s.port n).sending tc = none ∧ (s.port n).pick tc = some (i, ptr)) ∧
    (∃ (s : State) (n : Nat) (flit : BitVec 640), (s.port n).state = .up ∧ s.portLit n = true) ∧
    (∃ (s : State) (n : Nat) (p : Port) (body : BitVec 600), (bodyHeader body).kind = 1 ∧ tget? p.recv (bodyHeader body).tc = none ∧ (let p1 := { p.heard (bodyHeader body) s.time with expect := p.expect + 1 }; ((s.setPort n p1).flitsToCome p1 (bodyHeader body).dst (BitVec.ofNat 512 (body.toNat % 2 ^ 512))).1 = 0)) ∧
    (∃ (s : State) (n k : Nat) (i : Outgoing) (rest : List Outgoing), (s.port n).waiting = i :: rest ∧ i.owner.isPage = false ∧ s.routePort i.pkt.dst = some n ∧ k < 4096 ∧ (∀ x ∈ (s.port n).tags, x.tag ≠ k) ∧ (∀ j, j < k → ∃ x ∈ (s.port n).tags, x.tag = j)) ∧
    (∃ (s : State) (n m : Nat) (k : Packet) (x : Outstanding), s.inbound n (fun y => y.op == 0x80#8) = some k ∧ (let u := s.setPort n ((s.port n).takeIn k); ((n :: List.range 16).findSome? fun j => ((u.port j).tags.find? fun y => y.tag == k.tag.toNat && y.size == k.size.toNat).map fun y => (j, y)) = some (m, x))) ∧
    (∃ (s : State) (n m : Nat) (k : Packet), ((s.port n).inbox.find? fun y => !s.mine y) = some k ∧ s.routePort k.dst = some m) :=
  ⟨⟨served.setPort 3 { state := .up, credits := [4, 4, 4, 4, 4, 4], queues := [(2, [{ pkt := pkt 0x01#8 [], source := .cluster 0 }])] }, 3, by decide +kernel⟩,
   ⟨served.setPort 3 { state := .up, nak := true }, 3, by decide +kernel⟩,
   ⟨served.setPort 3 { state := .up, queues := [(1, [{ pkt := pkt 0x01#8 [], source := .cluster 0 }])] }, 3, 1, 1, { pkt := pkt 0x01#8 [], source := .cluster 0 }, by decide +kernel⟩,
   ⟨served.setPort 3 { state := .up }, 3, 0, by decide +kernel⟩,
   ⟨served, 3, { state := .up }, BitVec.ofNat 600 (2 ^ 572 + 9 * 2 ^ 531 + 2 ^ 120), by decide +kernel⟩,
   ⟨named.setPort 3 { state := .up, waiting := [{ pkt := pkt 0x01#8 [], source := .cluster 0 }] }, 3, 0, { pkt := pkt 0x01#8 [], source := .cluster 0 }, [], by decide +kernel⟩,
   ⟨named.setPort 3 { state := .up, inbox := [pkt 0x80#8 []], tags := [{ tag := 1, op := 0x01, dst := 5, owner := .none, size := 3 }] }, 3, 3, pkt 0x80#8 [], { tag := 1, op := 0x01, dst := 5, owner := .none, size := 3 }, by decide +kernel⟩,
   ⟨named.setPort 3 { state := .up, inbox := [{ pkt 0x01#8 [] with dst := 5 }] }, 3, 3, { pkt 0x01#8 [] with dst := 5 }, by decide +kernel⟩⟩

theorem witness_InboundRequestsAreServed :
    (∃ (s : State) (n op bytes : Nat) (k : Packet) (i : Instr), (op, bytes, i) ∈ [(0x01, k.size.toNat + 1, Instr.peerLoad n), (0x02, k.size.toNat + 1, .peerStore n), (0x03, atomBytes k.fn.toNat, .peerAtomic n), (0x04, atomBytes k.fn.toNat, .peerAtomicNoReturn n), (0x10, k.data.length, .peerBulkWrite n), (0x30, 4096, .peerCheckpointPage n)] ∧ s.inbound n (fun y => [BitVec.ofNat 8 op].contains y.op) = some k ∧ s.windowAllows k = false) ∧
    (∃ (s : State) (n : Nat) (k : Packet), s.inbound n (fun y => [0x01#8].contains y.op) = some k ∧ s.windowAllows k = true ∧ k.addr.toNat + (k.size.toNat + 1) ≤ memTop) ∧
    (∃ (s : State) (n : Nat) (k : Packet), s.inbound n (fun y => [0x02#8].contains y.op) = some k ∧ s.windowAllows k = true ∧ k.addr.toNat + (k.size.toNat + 1) ≤ memTop) ∧
    (∃ (s : State) (n : Nat) (k : Packet), s.inbound n (fun y => [0x03#8].contains y.op) = some k ∧ s.windowAllows k = true ∧ k.addr.toNat + atomBytes k.fn.toNat ≤ memTop) ∧
    (∃ (s : State) (n : Nat) (k : Packet), s.inbound n (fun y => [0x04#8].contains y.op) = some k ∧ s.windowAllows k = true ∧ k.addr.toNat + atomBytes k.fn.toNat ≤ memTop) ∧
    (∃ (s : State) (k : Packet), (let n := atomBytes k.fn.toNat; (let v := s.reach k.addr.toNat n false; v.badRange k.addr.toNat n = true))) ∧
    (∃ (s : State) (k : Packet), (let n := atomBytes k.fn.toNat; (let v := s.reach k.addr.toNat n false; v.badRange k.addr.toNat n = false))) ∧
    (∃ (s : State) (n : Nat) (k : Packet), s.inbound n (fun y => [0x10#8].contains y.op) = some k ∧ s.windowAllows k = true ∧ k.addr.toNat + k.data.length ≤ memTop) ∧
    (∃ (s : State) (n : Nat) (k : Packet), s.inbound n (fun y => [0x30#8].contains y.op) = some k ∧ s.windowAllows k = true ∧ k.addr.toNat + 4096 ≤ memTop ∧ k.data.length = 4096) ∧
    (∃ (s : State) (n : Nat) (k : Packet), s.inbound n (fun y => y.op == 0x20#8) = some k) ∧
    (∃ (s : State) (n : Nat) (k : Packet), s.inbound n (fun y => !opKnown y.op) = some k) ∧
    (∃ (s : State) (req : Packet) (stat n : Nat) (data : List Byte), s.routePort req.src = some n) :=
  ⟨⟨named.setPort 3 { state := .up, inbox := [pkt 0x01#8 []] }, 3, 1, 4, pkt 0x01#8 [], .peerLoad 3, by decide +kernel⟩,
   ⟨fromPeer 0x01#8 [], 3, pkt 0x01#8 [], by decide +kernel⟩,
   ⟨fromPeer 0x02#8 [1, 2, 3, 4], 3, pkt 0x02#8 [1, 2, 3, 4], by decide +kernel⟩,
   ⟨fromPeer 0x03#8 [1, 2, 3, 4], 3, pkt 0x03#8 [1, 2, 3, 4], by decide +kernel⟩,
   ⟨fromPeer 0x04#8 [1, 2, 3, 4], 3, pkt 0x04#8 [1, 2, 3, 4], by decide +kernel⟩,
   ⟨({ served with poison := [128] } : State).setSlice (served.homeOf 4096) { bad := [(0, { cause := 1, line := 16 })] }, pkt 0x03#8 [1, 2, 3, 4], by decide +kernel⟩,
   ⟨served, pkt 0x03#8 [1, 2, 3, 4], by decide +kernel⟩,
   ⟨fromPeer 0x10#8 [1, 2, 3, 4], 3, pkt 0x10#8 [1, 2, 3, 4], by decide +kernel⟩,
   ⟨fromPeer 0x30#8 (List.replicate 4096 7), 3, pkt 0x30#8 (List.replicate 4096 7), fromPeer_inbound _, by decide +kernel, by decide, List.length_replicate⟩,
   ⟨fromPeer 0x20#8 [], 3, pkt 0x20#8 [], by decide +kernel⟩,
   ⟨fromPeer 0x77#8 [], 3, pkt 0x77#8 [], by decide +kernel⟩,
   ⟨named.setPort 3 { state := .up }, pkt 0x01#8 [], 0, 3, [], by decide +kernel⟩⟩

theorem witness_HostAccessesComplete :
    (∃ (s : State) (func off base : Nat) (v : BitVec 128) (r : Reg), s.linkUp = true ∧ off % 4 = 0 ∧ regAt func off = some (r, base) ∧ s.inService r = true ∧ s.visible func r = true ∧ r.whole = false ∧ r.wide = false) ∧
    (∃ (s : State) (func off base : Nat) (v : BitVec 128) (r : Reg), s.linkUp = true ∧ off % 4 = 0 ∧ regAt func off = some (r, base) ∧ s.inService r = true ∧ s.visible func r = true ∧ r.whole = false ∧ r.wide = true) ∧
    (∃ (s : State) (func off : Nat) (v : BitVec 128) (r : Reg), s.linkUp = true ∧ off % 8 = 0 ∧ regAt func off = some (r, off) ∧ s.inService r = true ∧ s.visible func r = true ∧ r.wide = true) ∧
    (∃ (s : State) (func off : Nat) (v : BitVec 128), s.linkUp = true ∧ off % 16 = 0) ∧
    (∃ (s : State) (func q : Nat) (v : BitVec 128), s.linkUp = true ∧ s.bar0Open = true ∧ s.queueTouch func q = true) ∧
    (∃ (s : State) (func off base : Nat) (r : Reg), s.linkUp = true ∧ off % 4 = 0 ∧ regAt func off = some (r, base) ∧ s.inService r = true ∧ s.visible func r = true) ∧
    (∃ (s : State) (off n : Nat), s.inBar4 off n = true ∧ s.bar0Open = false) ∧
    (∃ (s : State) (off n : Nat), s.inBar4 off n = true ∧ s.bar0Open = true ∧ s.rangeMoving (s.bar4Addr off) n = false) ∧
    (∃ (s : State) (pa n : Nat), 0 < n ∧ pa % 256 + n ≤ 256 ∧ pa < memTop ∧ s.badRange pa n = false) ∧
    (∃ (s : State) (pa n : Nat), 0 < n ∧ pa % 256 + n ≤ 256 ∧ (memTop ≤ pa ∨ s.badRange pa n = true)) ∧
    (∃ (s : State) (off : Nat) (data : List Byte), s.inBar4 off data.length = true ∧ s.bar0Open = true ∧ s.rangeMoving (s.bar4Addr off) data.length = false ∧ s.bar4Addr off < memTop) ∧
    (∃ (s : State) (func ctx : Nat) (v : W32), s.bar0Open = true ∧ s.mayTouch func ctx = true ∧ v.getLsbD 31 = true ∧ (s.ctxAt ctx).en = false ∧ fld v.toNat 30 26 ≤ 16 ∧ (∀ e ∈ s.contexts, e.1 ≠ ctx → e.2.en = true → e.2.func = fld v.toNat 30 26 → e.2.pasid ≠ v.extractLsb' 0 20) ∧ (s.ctxAt ctx).msiv < vectorsOf (fld v.toNat 30 26) ∧ 6 ≤ (s.ctxAt ctx).log2 ∧ (s.ctxAt ctx).log2 ≤ 16 ∧ s.ringOnPeer ctx = false ∧ s.host.buffered = []) ∧
    (∃ (s : State) (func ctx : Nat) (v : W32), s.bar0Open = true ∧ s.mayTouch func ctx = true ∧ v.getLsbD 31 = false ∧ (s.ctxAt ctx).en = true ∧ (s.ctxAt ctx).func = fld v.toNat 30 26 ∧ (s.ctxAt ctx).pasid = v.extractLsb' 0 20 ∧ (∀ e ∈ s.queues, e.2.ctx = ctx → e.2.state = .off)) ∧
    (∃ (s : State) (ctx : Nat), (let t := s.forgetCtx ctx; ∃ k, k ≠ ctx)) ∧
    (∃ (s : State) (ctx : Nat), (let t := s.forgetCtx ctx; ∃ n k, tget? t.cores n = some k)) ∧
    (∃ (s : State) (ctx : Nat), (let t := s.forgetCtx ctx; ∃ n c, tget? t.clusters n = some c)) ∧
    (∃ (s : State) (func ctx : Nat) (v : W32), s.bar0Open = true ∧ s.mayTouch func ctx = true ∧ (v - (s.ctxAt ctx).rri).toNat ≤ ((s.ctxAt ctx).rwi - (s.ctxAt ctx).rri).toNat) ∧
    (∃ (s u : State) (ctx guid : Nat) (bs : List Byte) (rest : List (List Byte × Nat)), (s.ctxAt ctx).held = (bs, guid) :: rest ∧ s.ringWrite ctx bs = .ok u) :=
  ⟨⟨served, 0, 0x182000, 0x182000, 5, .prito, by decide +kernel⟩,
   ⟨served, 0, 0x1004, 0x1000, 5, .bar4off, by decide +kernel⟩,
   ⟨served, 0, 0x1000, 5, .bar4off, by decide +kernel⟩,
   ⟨served, 0, 0x1000, 5, by decide +kernel⟩,
   ⟨mapped, 0, 7, 5, by decide +kernel⟩,
   ⟨served, 0, 0x1004, 0x1000, .bar4off, by decide +kernel⟩,
   ⟨lab, 0, 4, by decide +kernel⟩,
   ⟨served, 0x10FC, 4, by decide +kernel⟩,
   ⟨served, 0x10FC, 4, by decide +kernel⟩,
   ⟨served, memTop, 4, by decide +kernel⟩,
   ⟨served, 0x10FE, [1, 2, 3, 4], by decide +kernel⟩,
   ⟨served, 0, 63, 0xC00FFFFF, by decide +kernel⟩,
   ⟨mapped, 0, 0, 0, by decide +kernel⟩,
   ⟨mapped, 0, 1, by decide +kernel⟩,
   ⟨{ mapped with cores := [(0, { tlb := [{ theEntry with ctx := 1 }] })] }, 0, 0, { tlb := [{ theEntry with ctx := 1 }] }, by decide +kernel⟩,
   ⟨mapped, 0, 3, { cal := true }, by decide +kernel⟩,
   ⟨mapped, 0, 0, 0, by decide +kernel⟩,
   ⟨mapped.setCtx 0 { mapped.ctxAt 0 with held := [(List.replicate 64 1, 5)] }, okOr mapped ((mapped.setCtx 0 { mapped.ctxAt 0 with held := [(List.replicate 64 1, 5)] }).ringWrite 0 (List.replicate 64 1)), 0, 5, List.replicate 64 1, [], by decide +kernel⟩⟩

theorem witness_TranslationsProceed :
    (∃ (s : State) (p : WalkStep) (id : Nat) (w : Walk), (let u := s.giveWalkers; (u.walks.find? fun e => e.2.chiplet == p.chiplet && e.2.walker == some p.walker) = some (id, w) ∧ u.walkMsg id = none)) ∧
    (∃ (s : State) (p : WalkStep) (id : Nat) (w : Walk), (let u := s.giveWalkers; (u.walks.find? fun e => e.2.chiplet == p.chiplet && e.2.walker == some p.walker) = some (id, w) ∧ ∃ k m n a, u.walkMsg id = some (k, m) ∧ m.stage = .arrived ∧ m.kind = .walk n a)) ∧
    (∃ (s : State) (p : WalkStep) (id : Nat) (w : Walk), (let u := s.giveWalkers; (u.walks.find? fun e => e.2.chiplet == p.chiplet && e.2.walker == some p.walker) = some (id, w) ∧ ∃ k m n a pte, u.walkMsg id = some (k, m) ∧ m.stage = .arrived ∧ m.kind = .walkData n a pte)) ∧
    (∃ (s : State) (id l va : Nat) (w : Walk), w.vas = [(l, va)] ∧ (let u := s.walkSeen w.chiplet w.ctx va (some w.seen); ∃ a, u.2 = .error a)) ∧
    (∃ (s : State) (id l va : Nat) (w : Walk), w.vas = [(l, va)] ∧ (let u := s.walkSeen w.chiplet w.ctx va (some w.seen); ∃ r, u.2 = .ok r)) ∧
    (∃ (s : State) (id key entry l va : Nat) (w : Walk) (r : WalkResult) (g : Group) (f : Frag), w.frag = some (key, entry) ∧ (let u := ({ s with walks := tdel s.walks id } : State).giveWalkers; u.walker? key entry = some (g, f) ∧ ∃ e pte, r = .leaf e pte)) ∧
    (∃ (s : State) (id key entry l va : Nat) (w : Walk) (r : WalkResult) (g : Group) (f : Frag), w.frag = some (key, entry) ∧ (let u := ({ s with walks := tdel s.walks id } : State).giveWalkers; u.walker? key entry = some (g, f) ∧ r = .fault)) ∧
    (∃ (s : State) (core slot entry a : Nat) (g : Group) (f : Frag), s.frag? core slot entry = some (g, f) ∧ g.waitOver f.wait s.time = true ∧ f.stopped = false ∧ (s.core core).fetch (s.teamOf g).ctx f.pc.toNat = .missing a) ∧
    (∃ (s : State) (core slot entry a l x : Nat) (g : Group) (f : Frag) (e : TlbEntry), a < 2 ^ 52 ∧ s.translate core (s.teamOf g).ctx (slotKey core slot) entry [(255, a)] false true = .ok (.lanes [(l, x, e)]) ∧ (∀ pa, e.loc a = .dev pa → s.badRange (pa / 256 * 256) 256 = false)) ∧
    (∃ (s : State) (func ctx : Nat) (v : W32), s.bar0Open = true ∧ s.mayTouch func ctx = true ∧ v.getLsbD 31 = true ∧ (s.ctxAt ctx).tinvDone = true) ∧
    (∃ (s t : State) (func ctx : Nat) (v : W32), s.bar0Open = true ∧ s.mayTouch func ctx = true ∧ v.getLsbD 31 = true ∧ (s.ctxAt ctx).tinvDone = true) ∧
    (∃ (s : State) (ctx : Nat), (s.ctxAt ctx).tinvDone = false ∧ (∀ a ∈ (s.ctxAt ctx).tinvPending, s.stillOpen a = false)) ∧
    (∃ (s : State) (func ctx : Nat) (v : W32) (d : DftEntry), s.bar0Open = true ∧ s.mayTouch func ctx = true ∧ v.getLsbD 31 = true ∧ tget? s.dft (v.extractLsb' 0 8).toNat = some d ∧ d.ctx = ctx ∧ v.getLsbD 16 = false) ∧
    (∃ (s : State) (func ctx : Nat) (v : W32) (d : DftEntry), s.bar0Open = true ∧ s.mayTouch func ctx = true ∧ v.getLsbD 31 = true ∧ tget? s.dft (v.extractLsb' 0 8).toNat = some d ∧ d.ctx = ctx ∧ v.getLsbD 16 = true) ∧
    (∃ (s : State) (e : Nat) (d : DftEntry), s.dftWait = []) ∧
    (∃ (s : State) (e : Nat) (d : DftEntry), tget? s.dft e = some d ∧ s.host.prito ≠ 0 ∧ d.since + s.host.prito * 1000 * usec ≤ s.time) ∧
    (∃ (s : State) (i lane va : Nat) (w x : Bool) (pa : Nat) (k : Walk) (rest : List (Nat × Nat)) (f : Nat × Nat), (let u := s.hostPump; (let e := atsEntry k.ctx va pa w x u.time; tget? u.walks i = some k ∧ k.ats = true ∧ u.asked (.walk i) = true ∧ k.vas = (lane, va) :: rest ∧ k.frag = some f ∧ (k.write = true → w = true) ∧ (k.fetch = true → x = true)))) ∧
    (∃ (s : State) (i lane va : Nat) (w x : Bool) (pa : Nat) (k : Walk) (rest : List (Nat × Nat)), (let u := s.hostPump; tget? u.walks i = some k ∧ k.ats = true ∧ u.asked (.walk i) = true ∧ k.vas = (lane, va) :: rest)) ∧
    (∃ (s : State) (x : AtsInval), s.host.invals.find? s.invalOver = some x) ∧
    (∃ (s : State) (e : Nat) (t : TagEntry), tget? s.host.tags e = some t ∧ (let u : State := { s with host := { s.host with tags := tdel s.host.tags e } }; s.host.prito ≠ 0 ∧ t.sent + s.host.prito * 1000 * usec ≤ s.time)) ∧
    (∃ (s : State) (func : Nat), s.host.tagWait = [] ∧ ∃ f, f ≠ func) :=
  ⟨⟨{ mapped with walks := [(4, { chiplet := 0, core := 0, ctx := 0, vas := [(0, 0x2000)], write := false, fetch := false, ats := false, frag := some (0, 0), started := 0, walker := some 0 })] }, ⟨0, 0⟩, 4, { chiplet := 0, core := 0, ctx := 0, vas := [(0, 0x2000)], write := false, fetch := false, ats := false, frag := some (0, 0), started := 0, walker := some 0 }, by decide +kernel⟩,
   ⟨{ mapped with walks := [(4, { chiplet := 0, core := 0, ctx := 0, vas := [(0, 0x2000)], write := false, fetch := false, ats := false, frag := some (0, 0), started := 0, walker := some 0 })], msgs := [(5, theMsg (.walk 4 0x10000))] }, ⟨0, 0⟩, 4, { chiplet := 0, core := 0, ctx := 0, vas := [(0, 0x2000)], write := false, fetch := false, ats := false, frag := some (0, 0), started := 0, walker := some 0 }, by decide +kernel, 5, theMsg (.walk 4 0x10000), 4, 0x10000, by decide +kernel⟩,
   ⟨{ mapped with walks := [(4, { chiplet := 0, core := 0, ctx := 0, vas := [(0, 0x2000)], write := false, fetch := false, ats := false, frag := some (0, 0), started := 0, walker := some 0 })], msgs := [(5, theMsg (.walkData 4 0x10000 1))] }, ⟨0, 0⟩, 4, { chiplet := 0, core := 0, ctx := 0, vas := [(0, 0x2000)], write := false, fetch := false, ats := false, frag := some (0, 0), started := 0, walker := some 0 }, by decide +kernel, 5, theMsg (.walkData 4 0x10000 1), 4, 0x10000, 1, by decide +kernel⟩,
   ⟨mapped, 4, 0, 0x2000, { chiplet := 0, core := 0, ctx := 0, vas := [(0, 0x2000)], write := false, fetch := false, ats := false, frag := some (0, 0), started := 0, walker := some 0 }, by decide +kernel, 0x10000, by decide +kernel⟩,
   ⟨mapped, 4, 0, 0x2000, { chiplet := 0, core := 0, ctx := 0, vas := [(0, 0x2000)], write := false, fetch := false, ats := false, frag := some (0, 0), started := 0, seen := [(0x10000, 0)] }, by decide +kernel, .fault, by decide +kernel⟩,
   ⟨{ mappedLab with groups := [(0, waiter .walk)] }, 4, 0, 0, 0, 0x2000, { chiplet := 0, core := 0, ctx := 0, vas := [(0, 0x2000)], write := false, fetch := false, ats := false, frag := some (0, 0), started := 0, walker := some 0 }, .leaf theEntry 0x11000, waiter .walk, { labFrag with wait := .walk }, by decide +kernel, by decide +kernel, theEntry, 0x11000, by decide +kernel⟩,
   ⟨{ mappedLab with groups := [(0, waiter .walk)] }, 4, 0, 0, 0, 0x2000, { chiplet := 0, core := 0, ctx := 0, vas := [(0, 0x2000)], write := false, fetch := false, ats := false, frag := some (0, 0), started := 0, walker := some 0 }, .fault, waiter .walk, { labFrag with wait := .walk }, by decide +kernel⟩,
   ⟨{ mappedLab with cores := [(0, { tlb := [theEntry] })] }, 0, 0, 0, 0, labGroup, labFrag, by decide +kernel⟩,
   ⟨{ mappedLab with cores := [(0, { tlb := [theEntry] })] }, 0, 0, 0, 0, 255, 0, labGroup, labFrag, theEntry, by decide +kernel, rfl, by intro pa h; cases h; decide⟩,
   ⟨mapped, 0, 0, 0x80000000, by decide +kernel⟩,
   ⟨mapped, mapped, 0, 0, 0x80000000, by decide +kernel⟩,
   ⟨mapped.setCtx 0 { mapped.ctxAt 0 with tinvDone := false }, 0, by decide +kernel⟩,
   ⟨{ mapped with host := { prito := 1 }, dft := [(0, { page := 2, x := false, w := false, r := true, ctx := 0, since := 0 })] }, 0, 0, 0x80000000, { page := 2, x := false, w := false, r := true, ctx := 0, since := 0 }, by decide +kernel⟩,
   ⟨{ mapped with host := { prito := 1 }, dft := [(0, { page := 2, x := false, w := false, r := true, ctx := 0, since := 0 })] }, 0, 0, 0x80010000, { page := 2, x := false, w := false, r := true, ctx := 0, since := 0 }, by decide +kernel⟩,
   ⟨mapped, 0, { page := 2, x := false, w := false, r := true, ctx := 0, since := 0 }, by decide +kernel⟩,
   ⟨{ mapped with host := { prito := 1 }, dft := [(0, { page := 2, x := false, w := false, r := true, ctx := 0, since := 0 })] }, 0, { page := 2, x := false, w := false, r := true, ctx := 0, since := 0 }, by decide +kernel⟩,
   ⟨{ mapped with walks := [(4, { chiplet := 0, core := 0, ctx := 0, vas := [(0, 0x2000)], write := false, fetch := false, ats := true, frag := some (0, 0), started := 0 })], host := { asks := [{ func := 0, owner := .walk 4, msg := .atsRequest 0 0 2 false, issued := true }] } }, 4, 0, 0x2000, false, false, 0, { chiplet := 0, core := 0, ctx := 0, vas := [(0, 0x2000)], write := false, fetch := false, ats := true, frag := some (0, 0), started := 0 }, [], (0, 0), by decide +kernel⟩,
   ⟨{ mapped with walks := [(4, { chiplet := 0, core := 0, ctx := 0, vas := [(0, 0x2000)], write := false, fetch := false, ats := true, frag := some (0, 0), started := 0 })], host := { asks := [{ func := 0, owner := .walk 4, msg := .atsRequest 0 0 2 false, issued := true }] } }, 4, 0, 0x2000, false, false, 0, { chiplet := 0, core := 0, ctx := 0, vas := [(0, 0x2000)], write := false, fetch := false, ats := true, frag := some (0, 0), started := 0 }, [], by decide +kernel⟩,
   ⟨{ mapped with host := { invals := [{ func := 0, pasid := 0, va := 0, pages := 1, since := 0, pending := [] }] } }, { func := 0, pasid := 0, va := 0, pages := 1, since := 0, pending := [] }, by decide +kernel⟩,
   ⟨{ mapped with host := { prito := 1, tags := [(3, { page := 2, w := false, r := true, ctx := 0, pasid := 0, sent := 0 })] } }, 3, { page := 2, w := false, r := true, ctx := 0, pasid := 0, sent := 0 }, by decide +kernel⟩,
   ⟨mapped, 0, by decide +kernel, 1, by decide +kernel⟩⟩

theorem witness_QueuesChangeState :
    (∃ (s : State) (func q : Nat) (v : W32), s.bar0Open = true ∧ s.queueTouch func q = true ∧ (let x := s.queueAt q; x.state ≠ .off ∧ (v - x.qri).toNat ≤ 2 ^ x.log2)) ∧
    (∃ (s : State) (func q : Nat) (v : W32), s.bar0Open = true ∧ s.queueTouch func q = true ∧ (let x := s.queueAt q; x.fetching = none ∧ x.state = .off ∧ v.getLsbD 0 = true ∧ v.getLsbD 1 = false ∧ v.getLsbD 2 = false ∧ v.getLsbD 3 = false ∧ (s.ctxAt (fld v.toNat 21 16)).en = true ∧ 4 ≤ x.log2 ∧ x.log2 ≤ 16)) ∧
    (∃ (s : State) (func q : Nat) (v : W32), s.bar0Open = true ∧ s.queueTouch func q = true ∧ (let x := s.queueAt q; x.fetching = none ∧ (x.state = .stopped ∨ x.state = .faulted ∧ x.recs = []) ∧ v.getLsbD 0 = false ∧ v.getLsbD 1 = false ∧ v.getLsbD 2 = false ∧ v.getLsbD 3 = false)) ∧
    (∃ (s : State) (func q : Nat) (v : W32), s.bar0Open = true ∧ s.queueTouch func q = true ∧ (let x := s.queueAt q; x.fetching = none ∧ (x.state = .active ∨ x.state = .faulted) ∧ v.getLsbD 0 = true ∧ v.getLsbD 1 = true ∧ v.getLsbD 2 = false ∧ v.getLsbD 3 = false)) ∧
    (∃ (s : State) (func q : Nat) (v : W32), s.bar0Open = true ∧ s.queueTouch func q = true ∧ (let x := s.queueAt q; x.fetching = none ∧ x.state = .active ∧ (∀ r ∈ x.recs, r.grid = none) ∧ v.getLsbD 0 = true ∧ v.getLsbD 1 = false ∧ v.getLsbD 2 = true ∧ v.getLsbD 3 = false)) ∧
    (∃ (s : State) (func q : Nat) (v : W32), s.bar0Open = true ∧ s.queueTouch func q = true ∧ (let x := s.queueAt q; x.fetching = none ∧ (x.state = .stopped ∨ x.state = .faulted) ∧ v.getLsbD 0 = true ∧ v.getLsbD 1 = false ∧ v.getLsbD 2 = false ∧ v.getLsbD 3 = true)) ∧
    (∃ (s : State) (vf : Nat), vf < 16 ∧ (∀ e ∈ s.queues, e.2.state = .off) ∧ ∃ k c, tget? s.contexts k = some c ∧ (∀ e ∈ s.contexts, e.1 = k → e.2 = c)) ∧
    (∃ (s : State) (q : Nat), (s.queueAt q).resetOff = true ∧ (s.queueAt q).recs = [] ∧ ((s.queueAt q).state = .stopped ∨ (s.queueAt q).state = .faulted)) :=
  ⟨⟨{ mapped with queues := [(7, { ctx := 0, qbase := 0x2000, state := .active })] }, 0, 7, 16, by decide +kernel⟩,
   ⟨{ mapped with queues := [(7, { ctx := 0, qbase := 0x2000, state := .off })] }, 0, 7, 1, by decide +kernel⟩,
   ⟨{ mapped with queues := [(7, { ctx := 0, qbase := 0x2000, state := .stopped })] }, 0, 7, 0, by decide +kernel⟩,
   ⟨{ mapped with queues := [(7, { ctx := 0, qbase := 0x2000, state := .active })] }, 0, 7, 3, by decide +kernel⟩,
   ⟨{ mapped with queues := [(7, { ctx := 0, qbase := 0x2000, state := .active })] }, 0, 7, 5, by decide +kernel⟩,
   ⟨{ mapped with queues := [(7, { ctx := 0, qbase := 0x2000, state := .faulted })] }, 0, 7, 9, by decide +kernel⟩,
   ⟨mapped, 15, by decide +kernel, by decide +kernel, 0, { en := true, ptb := 0x10000, hbase := 0x1000, rqb := 0x8000, spbase := 0x100000, spsize := 64 }, by decide +kernel⟩,
   ⟨{ mapped with queues := [(7, { ctx := 0, qbase := 0x2000, state := .stopped, resetOff := true })] }, 7, by decide +kernel⟩⟩

theorem witness_RecordsProceed :
    (∃ (s : State) (q : Nat), (s.queueAt q).state = .active ∧ (s.queueAt q).fetching = none ∧ (s.queueAt q).qri ≠ (s.queueAt q).qwi ∧ (s.queueAt q).recs.length < 16 ∧ s.power.t3 = false) ∧
    (∃ (s : State) (q : Nat), (let x := s.queueAt q; (let c := s.ctxAt x.ctx; (let v := s.atsAsk x.ctx x.nextAddr false; ∃ pa, v.xlateNow x.ctx x.nextAddr false = .ok (.dev pa))))) ∧
    (∃ (s : State) (q : Nat), (let x := s.queueAt q; (let c := s.ctxAt x.ctx; (let v := s.atsAsk x.ctx x.nextAddr false; ∃ a, v.xlateNow x.ctx x.nextAddr false = .ok (.host a))))) ∧
    (∃ (s : State) (q : Nat), (let x := s.queueAt q; (let c := s.ctxAt x.ctx; (let v := s.atsAsk x.ctx x.nextAddr false; ∃ e, v.xlateNow x.ctx x.nextAddr false = .error e)))) ∧
    (∃ (s : State) (q pa since : Nat), (let x := s.queueAt q; (let u := (s.setQueue q { x with fetching := none }).readNow pa 64; x.fetching = some ⟨since, some (.dev pa)⟩ ∧ u.1.recordOk x.ctx u.2 = true))) ∧
    (∃ (s : State) (q pa since : Nat), (let x := s.queueAt q; (let u := (s.setQueue q { x with fetching := none }).readNow pa 64; x.fetching = some ⟨since, some (.dev pa)⟩ ∧ u.1.recordOk x.ctx u.2 = false ∧ x.state = .active))) ∧
    (∃ (s : State) (q since : Nat), (s.queueAt q).fetching = some ⟨since, none⟩ ∧ (s.queueAt q).state = .active) ∧
    (∃ (s : State) (q i : Nat) (r : QRecord) (prev : Option QRecord), (s.queueAt q).nextRec = some (i, r, prev) ∧ (s.queueAt q).state ≠ .off ∧ s.ordOk (s.queueAt q) i r = true ∧ s.dist.awaits q r.index.toNat = false ∧ (s.queueAt q).predFailed r prev = false ∧ (r.launch.waddr = 0 ∨ r.waitOk = true) ∧ r.launch.kind ≠ 0) ∧
    (∃ (s : State) (q i : Nat) (r : QRecord) (prev : Option QRecord), (s.queueAt q).nextRec = some (i, r, prev) ∧ (s.queueAt q).state ≠ .off ∧ s.ordOk (s.queueAt q) i r = true ∧ s.dist.awaits q r.index.toNat = false ∧ (s.queueAt q).predFailed r prev = false ∧ (r.launch.waddr = 0 ∨ r.waitOk = true) ∧ r.launch.kind = 0) ∧
    (∃ (s : State) (q i : Nat) (r : QRecord) (prev : Option QRecord), (s.queueAt q).nextRec = some (i, r, prev) ∧ r.polled = none ∧ ∃ u bs, r.launch.waddr ≠ 0 ∧ r.waitOk = false ∧ s.ordOk (s.queueAt q) i r = true ∧ s.unitRead (s.queueAt q).ctx r.launch.waddr 8 = (u, .ok bs)) ∧
    (∃ (s : State) (q : Nat) (r : QRecord) (rest : List QRecord), (s.queueAt q).recs = r :: rest ∧ r.complete = true) ∧
    (∃ (s : State) (q : Nat) (r : QRecord) (rest : List QRecord), r.launch.sigw = false) ∧
    (∃ (s : State) (m : Nat) (x : Msg) (team q at' core slot entry : Nat), s.Has m x (.launch team q at' core slot entry)) ∧
    (∃ (s u : State) (m team q at' core slot entry sent st : Nat) (g : Group) (f : Frag) (d : Code), (s.teamAt team).state.over = false ∧ (s.dropMsg m).append team q at' = (u, st) ∧ u.frag? core slot entry = some (g, f) ∧ f.wait = .status m d) ∧
    (∃ (s u : State) (team q at' : Nat), (let x := s.queueAt q; (x.state = .off ∨ x.ctx ≠ (s.teamAt team).ctx))) ∧
    (∃ (s u : State) (team q at' : Nat), (let x := s.queueAt q; x.state ≠ .off ∧ x.ctx = (s.teamAt team).ctx ∧ (x.qwi + 1 - x.qri).toNat ≤ 2 ^ x.log2 ∧ s.unitWrite x.ctx (x.qbase.toNat + 64 * (x.qwi.toNat % 2 ^ x.log2)) (cread (s.teamAt team).scratch at' 64) = (u, none))) :=
  ⟨⟨{ mapped with queues := [(7, { ctx := 0, qbase := 0x2000, state := .active, qwi := 1 })] }, 7, by decide +kernel⟩,
   ⟨{ mapped with queues := [(7, { ctx := 0, qbase := 0x2000, state := .active, qwi := 1 })] }, 7, 0x2000, by decide +kernel⟩,
   ⟨{ ({ mapped with queues := [(7, { ctx := 0, qbase := 0x2000, state := .active, qwi := 1 })] } : State) with contexts := [(0, { mapped.ctxAt 0 with hbase := 0, hlim := 0x4000000000 })], host := { atc := [{ theEntry with ats := true, nc := true }] } }, 7, 0x2000, by decide +kernel⟩,
   ⟨{ ({ mapped with queues := [(7, { ctx := 0, qbase := 0x2000, state := .active, qwi := 1 })] } : State) with mem := [] }, 7, ⟨7, 1⟩, by decide +kernel⟩,
   ⟨{ mapped with queues := [(7, { ctx := 0, qbase := 0x2000, state := .active, qwi := 1, fetching := some ⟨0, some (.dev 0x2000)⟩ })] }, 7, 0x2000, 0, by decide +kernel⟩,
   ⟨{ ({ mapped with queues := [(7, { ctx := 0, qbase := 0x2000, state := .active, qwi := 1, fetching := some ⟨0, some (.dev 0x2000)⟩ })] } : State) with mem := [(0x2000, 255)] }, 7, 0x2000, 0, by decide +kernel⟩,
   ⟨{ mapped with queues := [(7, { ctx := 0, qbase := 0x2000, state := .active, qwi := 1, fetching := some ⟨0, none⟩ })] }, 7, 0, by decide +kernel⟩,
   ⟨{ mapped with queues := [(7, { ctx := 0, qbase := 0x2000, state := .active, recs := [{ index := 0, bytes := [1] ++ List.replicate 63 0 }] })] }, 7, 0, { index := 0, bytes := [1] ++ List.replicate 63 0 }, none, by decide +kernel⟩,
   ⟨{ mapped with queues := [(7, { ctx := 0, qbase := 0x2000, state := .active, recs := [{ index := 0, bytes := List.replicate 64 0 }] })] }, 7, 0, { index := 0, bytes := List.replicate 64 0 }, none, by decide +kernel⟩,
   ⟨{ mapped with queues := [(7, { ctx := 0, qbase := 0x2000, state := .active, recs := [{ index := 0, bytes := [1] ++ List.replicate 15 0 ++ [0, 0x30] ++ List.replicate 46 0 }] })] }, 7, 0, { index := 0, bytes := [1] ++ List.replicate 15 0 ++ [0, 0x30] ++ List.replicate 46 0 }, none, by decide +kernel, by decide +kernel, (({ mapped with queues := [(7, { ctx := 0, qbase := 0x2000, state := .active, recs := [{ index := 0, bytes := [1] ++ List.replicate 15 0 ++ [0, 0x30] ++ List.replicate 46 0 }] })] } : State).unitRead 0 0x3000 8).1, List.replicate 8 0, by decide +kernel⟩,
   ⟨{ mapped with queues := [(7, { ctx := 0, qbase := 0x2000, state := .active, recs := [{ index := 0, bytes := List.replicate 64 0, complete := true }] })] }, 7, { index := 0, bytes := List.replicate 64 0, complete := true }, [], by decide +kernel⟩,
   ⟨mapped, 7, { index := 0, bytes := List.replicate 64 0, complete := true }, [], by decide +kernel⟩,
   ⟨({ mappedLab with msgs := [(5, theMsg (.launch 0 7 0 0 0 0))], queues := [(7, { ctx := 0, state := .active, qbase := 0x2000 })], groups := [(0, waiter (.status 5 3))] } : State), 5, theMsg (.launch 0 7 0 0 0 0), 0, 7, 0, 0, 0, 0, ⟨rfl, rfl, by decide⟩⟩,
   ⟨({ mappedLab with msgs := [(5, theMsg (.launch 0 7 0 0 0 0))], queues := [(7, { ctx := 0, state := .active, qbase := 0x2000 })], groups := [(0, waiter (.status 5 3))] } : State), ((({ mappedLab with msgs := [(5, theMsg (.launch 0 7 0 0 0 0))], queues := [(7, { ctx := 0, state := .active, qbase := 0x2000 })], groups := [(0, waiter (.status 5 3))] } : State).dropMsg 5).append 0 7 0).1, 5, 0, 7, 0, 0, 0, 0, 0, 0, waiter (.status 5 3), { labFrag with wait := .status 5 3 }, 3, by decide +kernel⟩,
   ⟨mapped, mapped, 0, 7, 0, by decide +kernel⟩,
   ⟨({ mappedLab with msgs := [(5, theMsg (.launch 0 7 0 0 0 0))], queues := [(7, { ctx := 0, state := .active, qbase := 0x2000 })], groups := [(0, waiter (.status 5 3))] } : State), (({ mappedLab with msgs := [(5, theMsg (.launch 0 7 0 0 0 0))], queues := [(7, { ctx := 0, state := .active, qbase := 0x2000 })], groups := [(0, waiter (.status 5 3))] } : State).unitWrite 0 0x2000 (cread (({ mappedLab with msgs := [(5, theMsg (.launch 0 7 0 0 0 0))], queues := [(7, { ctx := 0, state := .active, qbase := 0x2000 })], groups := [(0, waiter (.status 5 3))] } : State).teamAt 0).scratch 0 64)).1, 0, 7, 0, by decide +kernel⟩⟩

theorem witness_GridsAndBudgetsProceed :
    (∃ (s : State) (q index since entry : Nat) (rest : List (Nat × Nat × Nat)), s.dispatchHalted = false ∧ s.stage = .full ∧ s.unfunded q = none ∧ s.dist.waiting = (q, index, since) :: rest ∧ (s.queueAt q).beforeFailed index = false ∧ tfree s.grids 2048 = some entry) ∧
    (∃ (s : State) (q g : Nat), s.dispatchHalted = false ∧ s.stage = .full ∧ s.unfunded q = some g ∧ (s.takeAccounts g (s.gridAt g).needs).isSome = true) ∧
    (∃ (s : State) (k : Nat) (g : Grid), tget? s.grids k = some g ∧ g.ready = false ∧ g.failed = false ∧ g.preLeft = [] ∧ g.needs = [] ∧ g.copies = []) ∧
    (∃ (s : State) (k : Nat) (a : Account), tget? s.accounts k = some a ∧ a.period = periodAt s.time ∧ a.isOver = false ∧ a.limit ≤ a.count ∧ a.hard = false) ∧
    (∃ (s : State) (k : Nat) (a : Account), tget? s.accounts k = some a ∧ a.period = periodAt s.time ∧ a.isOver = false ∧ a.limit ≤ a.count ∧ a.hard = true) ∧
    (∃ s : State, s.dist.period < s.time / (10 * usec)) ∧
    (∃ (s : State) (v : W64), s.bar0Open = true) ∧
    (∃ (s t : State) (lv : Option Nat), s.bclks % 4 = 0 ∧ s.dispatchHalted = false ∧ s.dist.decided ≠ some s.bclks ∧ ({ s with dist := { s.dist with decided := some s.bclks } } : State).tryLevels true levels = (.placed t, lv)) ∧
    (∃ (s : State) (first : Bool) (n ptr : Nat) (i : Item) (rest : List (Nat × Item)) (site : List (Nat × Need)), s.dist.items.getD n i = i ∧ s.ineligible i = false ∧ (first = true → s.overSoft i.grid = false) ∧ s.search (s.nextUnit i) = some (site, ptr)) ∧
    (∃ (s : State) (lv : Nat), lv < 8 ∧ (∃ i ∈ s.dist.items, i.level = lv ∧ s.ineligible i = false ∧ s.overSoft i.grid = false ∧ 100 * usec ≤ i.waited s.time) ∧ (∀ i ∈ s.dist.items, lv < i.level → s.ineligible i = true ∨ s.overSoft i.grid = true ∨ i.waited s.time < 100 * usec)) :=
  ⟨⟨{ mapped with dist := { waiting := [(7, 0, 0)] } }, 7, 0, 0, 0, [], by decide +kernel⟩,
   ⟨{ mapped with grids := [(2, { queue := 7, needs := [(0, 1, 5)] })] }, 7, 2, by decide +kernel⟩,
   ⟨{ mapped with grids := [(2, { queue := 7 })] }, 2, { queue := 7 }, by decide +kernel⟩,
   ⟨{ mapped with accounts := [(1, { ctx := 0, node := 0, res := 0, limit := 10, count := 10, period := periodAt mapped.time })] }, 1, { ctx := 0, node := 0, res := 0, limit := 10, count := 10, period := periodAt mapped.time }, by decide +kernel⟩,
   ⟨{ mapped with accounts := [(1, { ctx := 0, node := 0, res := 0, limit := 10, count := 10, period := periodAt mapped.time, hard := true })] }, 1, { ctx := 0, node := 0, res := 0, limit := 10, count := 10, period := periodAt mapped.time, hard := true }, by decide +kernel⟩,
   ⟨mapped, by decide +kernel⟩,
   ⟨mapped, 1, by decide +kernel⟩,
   ⟨{ mapped with grids := [(0, { teams := 1, eff := { gx := 1, parkt := 4, pslots := 1 }, ready := true })], dist := { items := [{ level := 7, head := false, grid := 0 }] } }, thePlaced (({ ({ mapped with grids := [(0, { teams := 1, eff := { gx := 1, parkt := 4, pslots := 1 }, ready := true })], dist := { items := [{ level := 7, head := false, grid := 0 }] } } : State) with dist := { ({ mapped with grids := [(0, { teams := 1, eff := { gx := 1, parkt := 4, pslots := 1 }, ready := true })], dist := { items := [{ level := 7, head := false, grid := 0 }] } } : State).dist with decided := some ({ mapped with grids := [(0, { teams := 1, eff := { gx := 1, parkt := 4, pslots := 1 }, ready := true })], dist := { items := [{ level := 7, head := false, grid := 0 }] } } : State).bclks } } : State).tryLevels true levels), none, by decide +kernel, by decide +kernel, by decide +kernel, placed_of (by decide +kernel)⟩,
   ⟨{ mapped with grids := [(0, { teams := 1, eff := { gx := 1, parkt := 4, pslots := 1 }, ready := true })], dist := { items := [{ level := 7, head := false, grid := 0 }] } }, true, 0, 1, { level := 7, head := false, grid := 0 }, [], (match ({ mapped with grids := [(0, { teams := 1, eff := { gx := 1, parkt := 4, pslots := 1 }, ready := true })], dist := { items := [{ level := 7, head := false, grid := 0 }] } } : State).search (({ mapped with grids := [(0, { teams := 1, eff := { gx := 1, parkt := 4, pslots := 1 }, ready := true })], dist := { items := [{ level := 7, head := false, grid := 0 }] } } : State).nextUnit { level := 7, head := false, grid := 0 }) with | some (x, _) => x | none => []), by decide +kernel⟩,
   ⟨{ mapped with grids := [(0, { teams := 1, eff := { gx := 1, parkt := 4, pslots := 1 }, ready := true })], dist := { items := [{ level := 7, head := false, grid := 0, since := some 0 }] } }, 7, by decide +kernel⟩⟩

theorem witness_SlotsAndParkingProceed :
    (∃ (s : State) (core slot : Nat) (g : Group), s.group? core slot = some g ∧ g.readyAt ≤ s.time ∧ (s.cluster (core / 8)).ret = false ∧ s.emptying core = false) ∧
    (∃ (s : State) (core slot : Nat) (g : Group), s.group? core slot = some g ∧ g.parkedAt.isSome = true ∧ g.outstanding s.time = 0) ∧
    (∃ (s : State) (core slot e : Nat) (g : Group) (f : Frag), s.group? core slot = some g ∧ g.boundaryEntry = some (e, f)) ∧
    (∃ (s : State) (team : Nat), (let v := s.nameOver team; (let u := v.stopGroups team .preempt; v.preemptDue (v.teamAt team) = true ∧ v.noticeDue team = false))) ∧
    (∃ (s : State) (team : Nat), (s.teamAt team).state = .preempting ∧ s.time < (s.teamAt team).spillUntil) ∧
    (∃ (s : State) (team : Nat), (s.teamAt team).state = .preempting ∧ (s.teamAt team).spillUntil ≤ s.time ∧ s.scratchBusy team = false) ∧
    (∃ (s : State) (func ctx : Nat) (v : W32), s.bar0Open = true ∧ s.mayTouch func ctx = true ∧ v.getLsbD 0 = true) ∧
    (∃ (s : State) (ctx : Nat), (s.ctxAt ctx).halt = true ∧ (s.ctxAt ctx).halted = false ∧ (let u := (s.residentOf ctx).foldl (fun (x : State) k => x.stopGroups k .halt) s; (let mine := (s.residentOf ctx).filter fun k => u.groups.any fun e => e.2.team == k && e.2.stop == .halt; (∀ e ∈ u.groups, (u.teamAt e.2.team).ctx = ctx → e.2.stop ≠ .none) ∧ (∀ k ∈ mine, u.scratchBusy k = false)))) ∧
    (∃ (s : State) (func ctx : Nat) (v : W32), s.bar0Open = true ∧ s.mayTouch func ctx = true ∧ v.getLsbD 0 = false ∧ (s.ctxAt ctx).halt = true ∧ (let u := s.setCtx ctx { s.ctxAt ctx with halt := false, halted := false }; u.residentOf ctx = [])) ∧
    (∃ (s : State) (func ctx : Nat) (v : W32), s.bar0Open = true ∧ s.mayTouch func ctx = true ∧ v.getLsbD 0 = false ∧ (s.ctxAt ctx).halt = true ∧ (let u := s.setCtx ctx { s.ctxAt ctx with halt := false, halted := false }; ∃ k, u.residentOf ctx = [k] ∧ (u.teamAt k).snap = false ∧ (u.teamAt k).causes = [])) ∧
    (∃ (s : State) (func ctx : Nat) (v : W32), s.bar0Open = true ∧ s.mayTouch func ctx = true ∧ v.getLsbD 0 = false ∧ (s.ctxAt ctx).halt = true ∧ (let u := s.setCtx ctx { s.ctxAt ctx with halt := false, halted := false }; ∃ k, u.residentOf ctx = [k] ∧ (u.teamAt k).snap = true ∧ ((u.loadSnapshot k).teamAt k).causes = [])) ∧
    (∃ (s : State) (team : Nat), (s.teamAt team).state = .resident ∧ (s.gridAt (s.teamAt team).grid).eff.parkt ≠ 0 ∧ s.groupsByGix team ≠ [] ∧ (∀ e ∈ s.groupsByGix team, e.2.stop = .none ∧ ∃ since, e.2.parkSince = some since ∧ since + (s.gridAt (s.teamAt team).grid).eff.parkt * s.cyc (s.teamAt team).core ≤ s.time)) ∧
    (∃ (s : State) (team : Nat), s.parkUnit team ≠ [] ∧ (∀ k ∈ s.parkUnit team, (s.teamAt k).state = .parkEligible) ∧ ∃ u, (s.parkUnit team).foldlM (fun (x : State) k => x.takeSlot k) s = some u) ∧
    (∃ (s : State) (team : Nat), s.parkUnit team ≠ [] ∧ (∀ k ∈ s.parkUnit team, (s.teamAt k).state = .parkEligible) ∧ (s.parkUnit team).foldlM (fun (x : State) k => x.takeSlot k) s = none) ∧
    (∃ (s : State) (team i : Nat), (s.teamAt team).slot = none ∧ i < (s.gridAt (s.teamAt team).grid).eff.pslots ∧ i ∉ tgetD s.parkAreas (s.parkKey (s.teamAt team)) [] ∧ (∀ j, j < i → j ∈ tgetD s.parkAreas (s.parkKey (s.teamAt team)) []) ∧ i ≤ (tgetD s.parkAreas (s.parkKey (s.teamAt team)) []).length) ∧
    (∃ (s : State) (team : Nat), s.parkUnit team ≠ [] ∧ (∀ k ∈ s.parkUnit team, (s.teamAt k).state = .parkArmed)) ∧
    (∃ (s : State) (team : Nat), (s.teamAt team).state = .parkSpilling ∧ (s.teamAt team).spillUntil ≤ s.time ∧ s.scratchBusy team = false) :=
  ⟨⟨lab, 0, 0, labGroup, by decide +kernel⟩,
   ⟨withGroup { labGroup with parkedAt := some 0 }, 0, 0, { labGroup with parkedAt := some 0 }, by decide +kernel⟩,
   ⟨lab, 0, 0, 0, labGroup, labFrag, by decide +kernel⟩,
   ⟨withTeam fun t => { t with causes := [.suspend] }, 0, by decide +kernel⟩,
   ⟨withTeam fun t => { t with state := .preempting, spillUntil := 10 ^ 12 }, 0, by decide +kernel⟩,
   ⟨withTeam fun t => { t with state := .preempting }, 0, by decide +kernel⟩,
   ⟨mapped, 0, 0, 1, by decide +kernel⟩,
   ⟨mappedLab.setCtx 0 { mapped.ctxAt 0 with halt := true }, 0, by decide +kernel⟩,
   ⟨mapped.setCtx 0 { mapped.ctxAt 0 with halt := true }, 0, 0, 0, by decide +kernel⟩,
   ⟨mappedLab.setCtx 0 { mapped.ctxAt 0 with halt := true }, 0, 0, 0, by decide +kernel, by decide +kernel, by decide +kernel, of_decide_eq_true (by decide +kernel), 0, by decide +kernel⟩,
   ⟨((({ mappedLab with grids := [(0, { teams := 1, eff := { gx := 1, parkt := 4, pslots := 1 }, ready := true })] } : State).setTeam 0 { lab.teamAt 0 with snap := true })).setCtx 0 { mapped.ctxAt 0 with halt := true }, 0, 0, 0, by decide +kernel, by decide +kernel, by decide +kernel, of_decide_eq_true (by decide +kernel), 0, by decide +kernel⟩,
   ⟨(({ mappedLab with grids := [(0, { teams := 1, eff := { gx := 1, parkt := 4, pslots := 1 }, ready := true })], groups := [(0, { labGroup with parkSince := some 0 })], time := 720000 } : State).setTeam 0 { lab.teamAt 0 with state := .resident }), 0, by decide +kernel, by decide +kernel, by decide +kernel, fun e h => by
    have key : (({ mappedLab with grids := [(0, { teams := 1, eff := { gx := 1, parkt := 4, pslots := 1 }, ready := true })], groups := [(0, { labGroup with parkSince := some 0 })], time := 720000 } : State).setTeam 0 { lab.teamAt 0 with state := .resident }).groupsByGix 0 = [(0, { labGroup with parkSince := some 0 })] := by decide +kernel
    have h : e ∈ (({ mappedLab with grids := [(0, { teams := 1, eff := { gx := 1, parkt := 4, pslots := 1 }, ready := true })], groups := [(0, { labGroup with parkSince := some 0 })], time := 720000 } : State).setTeam 0 { lab.teamAt 0 with state := .resident }).groupsByGix 0 := h
    rw [key, List.mem_singleton] at h
    subst h
    exact ⟨rfl, 0, rfl, by decide +kernel⟩⟩,
   ⟨(({ mappedLab with grids := [(0, { teams := 1, eff := { gx := 1, parkt := 4, pslots := 1 }, ready := true })] } : State).setTeam 0 { lab.teamAt 0 with state := .parkEligible }), 0, by decide +kernel, by decide +kernel, (((({ mappedLab with grids := [(0, { teams := 1, eff := { gx := 1, parkt := 4, pslots := 1 }, ready := true })] } : State).setTeam 0 { lab.teamAt 0 with state := .parkEligible }).parkUnit 0).foldlM (fun (x : State) k => x.takeSlot k) (({ mappedLab with grids := [(0, { teams := 1, eff := { gx := 1, parkt := 4, pslots := 1 }, ready := true })] } : State).setTeam 0 { lab.teamAt 0 with state := .parkEligible })).getD mapped, by decide +kernel⟩,
   ⟨(({ mappedLab with grids := [(0, { teams := 1, eff := { gx := 1, parkt := 4, pslots := 0 }, ready := true })] } : State).setTeam 0 { lab.teamAt 0 with state := .parkEligible }), 0, by decide +kernel⟩,
   ⟨(({ mappedLab with grids := [(0, { teams := 1, eff := { gx := 1, parkt := 4, pslots := 1 }, ready := true })] } : State).setTeam 0 { lab.teamAt 0 with state := .parkEligible }), 0, 0, by decide +kernel⟩,
   ⟨(({ mappedLab with grids := [(0, { teams := 1, eff := { gx := 1, parkt := 4, pslots := 1 }, ready := true })] } : State).setTeam 0 { lab.teamAt 0 with state := .parkArmed }), 0, by decide +kernel⟩,
   ⟨(({ mappedLab with grids := [(0, { teams := 1, eff := { gx := 1, parkt := 4, pslots := 1 }, ready := true })] } : State).setTeam 0 { lab.teamAt 0 with state := .parkSpilling }), 0, by decide +kernel⟩⟩

theorem witness_FabricProceeds :
    (∃ (s : State) (team k : Nat) (x : Group), team ∈ (s.gridAt (s.teamAt team).grid).notices ∧ ((s.teamAt team).state = .resident ∨ (s.teamAt team).state = .parkEligible) ∧ s.teamGroups team = [k] ∧ tget? s.groups k = some x ∧ x.atBoundary s.time = true) ∧
    (∃ (s : State) (team : Nat), (s.teamAt team).state.over = false ∧ (s.teamAt team).state ≠ .committing ∧ (s.teamAt team).state ≠ .resident ∧ (s.teamAt team).state ≠ .parkEligible) ∧
    (∃ (s : State) (m : Nat) (x : Msg), (let v := s.numberPacket m; (let port := s.portOf x; tget? s.msgs m = some x ∧ s.atPort x = true ∧ s.flowBlocked m x = false ∧ s.flowHeld x = false ∧ (x.toSlice = true → x.avenue = false → s.meshRoom port x.kind.meshClass = true)))) ∧
    (∃ (s : State) (m : Nat) (x : Msg) (check : PortCheck), tget? s.msgs m = some x ∧ s.flowHeld x = true) ∧
    (∃ (s : State) (x : Msg), s.elevatorState x.port = 0) ∧
    (∃ (s : State) (x : Msg), ∃ l, tget? s.power.drains x.port = some l ∧ x.flow ∈ l) ∧
    (∃ (s : State) (m port : Nat) (x : Msg), tget? s.msgs m = some x ∧ (∀ acc l n, x.kind ≠ .data acc l n) ∧ (∀ acc, x.kind ≠ .stx acc) ∧ s.accepted x = true) ∧
    (∃ (s : State) (m port : Nat) (x : Msg), tget? s.msgs m = some x ∧ (∀ acc l n, x.kind ≠ .data acc l n) ∧ (∀ acc, x.kind ≠ .stx acc) ∧ s.accepted x = false) ∧
    (∃ (s : State) (p : Nat), s.elevatorState p = 1 ∧ (∀ e ∈ s.msgs, e.2.port = p → e.2.stage ≠ .port)) ∧
    (∃ (s : State) (n i : Nat) (check : ChipletCheck), i < 6 ∧ s.power.cutOff.getLsbD (6 * n + i) = true ∧ s.power.baseUp = true ∧ s.chipletBusy n = false ∧ s.power.fenced.getLsbD n = false) ∧
    (∃ (s : State) (up : Bool) (channel station due : Nat), s.power.avenueLit = true ∧ s.tokenTurn up channel = some (station, due) ∧ due ≤ s.time) ∧
    (∃ (s : State) (k : Nat) (v : W64), s.bar0Open = true ∧ k < 64 ∧ s.grids = [] ∧ s.pinBusy = false) ∧
    (∃ s : State, s.pinBusy = true) :=
  ⟨⟨{ lab with grids := [(0, { lab.gridAt 0 with notices := [0] })] }, 0, 0, labGroup, by decide +kernel⟩,
   ⟨withTeam fun t => { t with state := .parkArmed }, 0, by decide +kernel⟩,
   ⟨{ served with msgs := [(5, { theMsg (.read 9 16) with stage := .port })] }, 5, { theMsg (.read 9 16) with stage := .port }, by decide +kernel⟩,
   ⟨{ { served with power := { served.power with drains := [(1, [0])] } } with msgs := [(5, { theMsg (.read 9 16) with stage := .port })] }, 5, { theMsg (.read 9 16) with stage := .port }, .clean, by decide +kernel⟩,
   ⟨served, { theMsg (.read 9 16) with stage := .port }, by decide +kernel⟩,
   ⟨{ served with power := { served.power with drains := [(0, [0])] } }, { theMsg (.read 9 16) with stage := .port }, [0], by decide +kernel⟩,
   ⟨{ served with msgs := [(5, { theMsg (.read 9 16) with stage := .port, seq := some 4095 })] }, 5, 0, { theMsg (.read 9 16) with stage := .port, seq := some 4095 }, by decide +kernel, by simp [theMsg], by simp [theMsg], by decide +kernel⟩,
   ⟨{ served with msgs := [(5, { theMsg (.read 9 16) with stage := .port })] }, 5, 0, { theMsg (.read 9 16) with stage := .port }, by decide +kernel, by simp [theMsg], by simp [theMsg], by decide +kernel⟩,
   ⟨{ served with power := { served.power with portState := [(3, 1)] } }, 3, by decide +kernel⟩,
   ⟨{ served with power := { served.power with cutOff := 1#48 <<< 47 } }, 7, 5, { scanOk := true, badPorts := 0 }, by decide +kernel⟩,
   ⟨{ served with msgs := [(5, { theMsg (.read 9 16) with stage := .fifo, avenue := true })] }, true, 0, 0, 0, by decide +kernel⟩,
   ⟨served, 63, 5, by decide +kernel⟩,
   ⟨{ served with pinBusy := true }, by decide +kernel⟩⟩

theorem witness_CheckpointsProceed :
    (∃ (s : State) (v : W32), s.bar0Open = true ∧ v.getLsbD 31 = true ∧ v.getLsbD 30 = false ∧ v.getLsbD 29 = false ∧ v.getLsbD 10 = false ∧ (s.peer.ck.state = .idle ∨ s.peer.ck.state = .done)) ∧
    (∃ (s : State) (v : W32), s.bar0Open = true ∧ v.getLsbD 31 = false ∧ v.getLsbD 30 = true ∧ v.getLsbD 29 = false ∧ v.getLsbD 10 = false ∧ (s.peer.ck.state = .quiesce ∨ s.peer.ck.state = .stream)) ∧
    (∃ (s : State) (v : W32), s.bar0Open = true ∧ v.getLsbD 31 = false ∧ v.getLsbD 30 = false ∧ v.getLsbD 29 = true ∧ v.getLsbD 10 = false ∧ (s.peer.ck.state = .idle ∨ s.peer.ck.state = .done) ∧ s.residentCtxs = [] ∧ s.grids = []) ∧
    (∃ s : State, s.peer.ck.state = .quiesce ∧ s.quiescing = false ∧ s.peer.ck.committing = false) ∧
    (∃ s : State, s.peer.ck.state = .quiesce ∧ s.quiescing = false ∧ s.peer.ck.committing = true ∧ s.commitsOpen = false) ∧
    (∃ s : State, s.peer.ck.state = .stream ∧ s.peer.ck.pages = 0 ∧ (∀ e ∈ s.ops, ∀ src dst len dev port, e.2.kind = .page src dst len dev port → len ≤ e.2.units)) ∧
    (∃ s : State, s.peer.ck.state = .restore ∧ (let base := fld s.peer.ck.image.toNat 49 16 * 65536; (let h := (s.readNow base 4096).2; (let u := (s.readNow base 4096).1; (bytesAt h 0 2 ≠ 1 ∨ 32 * 2 ^ 20 < bytesAt h 16 8))))) ∧
    (∃ s : State, s.peer.ck.state = .restore ∧ (let base := fld s.peer.ck.image.toNat 49 16 * 65536; (let h := (s.readNow base 4096).2; (let u := (s.readNow base 4096).1; bytesAt h 0 2 = 1 ∧ bytesAt h 16 8 ≤ 32 * 2 ^ 20)))) :=
  ⟨⟨{ mappedLab with peer := {} }, 0x80000000, by decide +kernel⟩,
   ⟨{ served with peer := { ck := { state := .stream } } }, 0x40000000, by decide +kernel⟩,
   ⟨{ served with peer := { ck := { state := .done } } }, 0x20000000, by decide +kernel⟩,
   ⟨{ served with peer := { ck := { state := .quiesce } } }, by decide +kernel⟩,
   ⟨{ served with peer := { ck := { state := .quiesce, committing := true } } }, by decide +kernel⟩,
   ⟨{ served with peer := { ck := { state := .stream } } }, by decide +kernel, by decide +kernel, fun _ h => absurd h List.not_mem_nil⟩,
   ⟨{ served with peer := { ck := { state := .restore } } }, by decide +kernel⟩,
   ⟨{ { served with peer := { ck := { state := .restore } } } with mem := [(0, 1)] }, by decide +kernel⟩⟩

end Sys2Proof.Tests
end

/-! What a host access to BAR0, to a submission page and to BAR4 does (R7, R51, R53, R62, R461), and what becomes of a context and
its record ring (R54, R57, R58, R405). -/
namespace Sys2Proof.Machine

/-! ## Register writes (R7, R461) -/

theorem execRegisterWrite_word {s : State} (func : Nat) {off : Nat} (v : BitVec 128) (hlink : s.linkUp = true) (halign : off % 4 = 0) :
    execRegisterWrite func ⟨0, off⟩ 4 v s = .next (s.write32 func off (v.setWidth 32)) := by
  simp [execRegisterWrite, hlink, halign]

theorem execRegisterWrite_double {s : State} (func : Nat) {off : Nat} (v : BitVec 128) (hlink : s.linkUp = true) (halign : off % 8 = 0) :
    execRegisterWrite func ⟨0, off⟩ 8 v s = .next (s.write64 func off (v.setWidth 64)) := by
  simp [execRegisterWrite, hlink, halign]

theorem execRegisterWrite_quad {s : State} (func : Nat) {off : Nat} (v : BitVec 128) (hlink : s.linkUp = true) (halign : off % 16 = 0) :
    execRegisterWrite func ⟨0, off⟩ 16 v s =
      .next ((s.write64 func off (v.setWidth 64)).write64 func (off + 8) (v.extractLsb' 64 64)) := by
  simp [execRegisterWrite, hlink, halign]

section
variable {s : State} {func off base : Nat} {r : Reg} (hreg : regAt func off = some (r, base)) (hserv : s.inService r = true)
  (hvis : s.visible func r = true)
include hreg hserv hvis

theorem write32_narrow (hwhole : r.whole = false) (hwide : r.wide = false) (v : W32) :
    s.write32 func off v = s.writeReg func r (v.setWidth 64) := by
  simp [State.write32, hreg, hserv, hvis, hwhole, hwide]

theorem write32_half (hwhole : r.whole = false) (hwide : r.wide = true) (v : W32) :
    s.write32 func off v = s.writeReg func r (BitVec.ofNat 64 (merge64 (s.keptHalf r) (off - base) 4 (v.setWidth 64))) := by
  simp [State.write32, hreg, hserv, hvis, hwhole, hwide]

theorem read32_shown : s.read32 func off = (s.clearRead r, s.regValue r / 2 ^ (8 * (off - base)) % 2 ^ 32) := by
  simp [State.read32, hreg, hserv, hvis]

end

theorem write64_wide {s : State} {func off : Nat} {r : Reg} (hreg : regAt func off = some (r, off)) (hserv : s.inService r = true)
    (hvis : s.visible func r = true) (hwide : r.wide = true) (v : W64) : s.write64 func off v = s.writeReg func r v := by
  simp [State.write64, hreg, hserv, hvis, hwide]

/-! ## Register reads (R7, R461) -/

theorem readWords_one (s : State) (func off : Nat) :
    s.readWords func off 1 = ((s.read32 func off).1, leBytes 4 (s.read32 func off).2) := by
  simp [State.readWords]

theorem execReadToClear_word {s : State} (func : Nat) {off : Nat} (hlink : s.linkUp = true) (halign : off % 4 = 0) :
    execReadToClear func ⟨0, off⟩ 4 s = .next { (s.read32 func off).1 with
      host := { (s.read32 func off).1.host with readBytes := leBytes 4 (s.read32 func off).2 } } := by
  simp [execReadToClear, hlink, halign, readWords_one]

@[simp] theorem setPort_port_self (s : State) (n : Nat) (p : Port) : (s.setPort n p).port n = p := tgetD_tset_self ..

/-! ## Submission pages (R62) -/

theorem execRegisterWrite_page {s : State} (func q : Nat) (v : BitVec 128) (hlink : s.linkUp = true) (hopen : s.bar0Open = true)
    (htouch : s.queueTouch func q = true) :
    execRegisterWrite func ⟨2, 4096 * q⟩ 4 v s = .next (s.qwin q (v.setWidth 32)) := by
  have halign : 4096 * q % 4 = 0 := by omega
  simp [execRegisterWrite, State.writePage, hlink, hopen, htouch, halign]

theorem execReadToClear_page {s : State} (func q : Nat) (hlink : s.linkUp = true) (hopen : s.bar0Open = true)
    (htouch : s.queueTouch func q = true) :
    execReadToClear func ⟨2, 4096 * q⟩ 4 s =
      .next { s with host := { s.host with readBytes := leBytes 4 (s.queueAt q).qwi.toNat } } := by
  simp [execReadToClear, State.readPage, hlink, hopen, htouch]

/-! ## BAR4 (R53, R77) -/

theorem execBar4Read_closed {s : State} {off n : Nat} (hin : s.inBar4 off n = true) (hclosed : s.bar0Open = false) :
    execBar4Read off n s = .next { s with host := { s.host with readBytes := List.replicate n 255 } } := by
  simp [execBar4Read, hin, hclosed]

/-- What is attempted counts only at the state with no access noted yet. -/
theorem attempt_congr {s : State} {payer : Option Nat} {f g : State → State}
    (h : f { s with needs := some [] } = g { s with needs := some [] }) : s.attempt payer f = s.attempt payer g := by
  simp only [State.attempt, h]

theorem execBar4Read_open {s : State} {off n : Nat} (hin : s.inBar4 off n = true) (hopen : s.bar0Open = true)
    (hstill : s.rangeMoving (s.bar4Addr off) n = false) :
    execBar4Read off n s = .next (s.attempt none fun u => u.bar4Read (s.bar4Addr off) n) := by
  have hsame : (s.attempt none fun u => u.bar4Read (u.bar4Addr off) n) = s.attempt none fun u => u.bar4Read (s.bar4Addr off) n :=
    attempt_congr rfl
  simp [execBar4Read, hin, hopen, hstill, hsame]

theorem execBar4Write_open {s : State} {off : Nat} {data : List Byte} (hin : s.inBar4 off data.length = true) (hopen : s.bar0Open = true)
    (hstill : s.rangeMoving (s.bar4Addr off) data.length = false) (htop : s.bar4Addr off < memTop) :
    execBar4Write off data s = .next (s.attempt none fun u => u.writeNow (s.bar4Addr off) (data.take (memTop - s.bar4Addr off))) := by
  simp [execBar4Write, hin, hopen, hstill, htop]

theorem linePieces_within_line {pa n : Nat} (hn : 0 < n) (hline : pa % 256 + n ≤ 256) : linePieces pa n = [(pa, n)] := by
  have hcount : (pa + n + 255) / 256 - pa / 256 = 1 := by omega
  have hlow : max pa (pa / 256 * 256) = pa := by omega
  have hhigh : min (pa + n) ((pa / 256 + 1) * 256) - pa = n := by omega
  simp [linePieces, hcount, hlow, hhigh]

theorem bar4Read_within_line (s : State) {pa n : Nat} (hn : 0 < n) (hline : pa % 256 + n ≤ 256) :
    s.bar4Read pa n = { (s.hostLine pa n).1 with host := { (s.hostLine pa n).1.host with readBytes := (s.hostLine pa n).2 } } := by
  simp [State.bar4Read, linePieces_within_line hn hline]

theorem hostLine_good {s : State} {pa n : Nat} (htop : pa < memTop) (hgood : s.badRange pa n = false) :
    s.hostLine pa n = s.readNow pa n := by
  simp [State.hostLine, hgood, Nat.not_le.mpr htop]

theorem hostLine_bytes_of_bad {s : State} {pa n : Nat} (h : memTop ≤ pa ∨ s.badRange pa n = true) :
    (s.hostLine pa n).2 = List.replicate n 255 := by
  by_cases htop : memTop ≤ pa
  · simp [State.hostLine, htop]
  · simp [State.hostLine, htop, h.resolve_left htop]

/-! ## Contexts (R54, R273, R405) -/

theorem execContextEnable_open {s : State} {func ctx : Nat} {v : W32} (hopen : s.bar0Open = true) (htouch : s.mayTouch func ctx = true)
    (hen : v.getLsbD 31 = true) : execContextEnable func ctx v s = .next (s.cxctlWrite ctx v) := by
  simp [execContextEnable, hopen, htouch, hen]

theorem execContextDisable_open {s : State} {func ctx : Nat} {v : W32} (hopen : s.bar0Open = true) (htouch : s.mayTouch func ctx = true)
    (hen : v.getLsbD 31 = false) : execContextDisable func ctx v s = .next (s.cxctlWrite ctx v) := by
  simp only [execContextDisable, hopen, htouch, hen, Bool.not_true, Bool.not_false, Bool.and_true, Bool.false_eq_true, if_true, if_false]

theorem cxctlWrite_enable {s : State} {ctx : Nat} {v : W32} (hv : v.getLsbD 31 = true) (hoff : (s.ctxAt ctx).en = false)
    (hfunc : fld v.toNat 30 26 ≤ 16)
    (htwin : ∀ e ∈ s.contexts, e.1 ≠ ctx → e.2.en = true → e.2.func = fld v.toNat 30 26 → e.2.pasid ≠ v.extractLsb' 0 20)
    (hvec : (s.ctxAt ctx).msiv < vectorsOf (fld v.toNat 30 26)) (hlow : 6 ≤ (s.ctxAt ctx).log2) (hhigh : (s.ctxAt ctx).log2 ≤ 16)
    (hring : s.ringOnPeer ctx = false) : s.cxctlWrite ctx v = s.enableCtx ctx (fld v.toNat 30 26) (v.extractLsb' 0 20) := by
  have hno : (s.contexts.any fun e => e.1 != ctx && e.2.en && e.2.func == fld v.toNat 30 26 && e.2.pasid == v.extractLsb' 0 20) = false := by
    simpa [List.any_eq_false, and_imp] using htwin
  simp only [State.cxctlWrite, hv, hoff, hno, hring]
  simp [Nat.not_lt.mpr hfunc, Nat.not_le.mpr hvec, Nat.not_lt.mpr hlow, Nat.not_lt.mpr hhigh]

/-- Where no record is buffered (R60), the first context of the physical function has none to take. -/
theorem enableCtx_unbuffered {s : State} (ctx func : Nat) (pasid : BitVec 20) (hbuf : s.host.buffered = []) :
    s.enableCtx ctx func pasid = s.setCtx ctx { s.ctxAt ctx with
      en := true, func := func, pasid := pasid, rwi := 0, rri := 0, held := [], flags := [], boxes := [], boxWaits := [] } := by
  have hhost : ({ s.host with buffered := [] } : HostLink) = s.host := by rw [← hbuf]
  simp only [State.enableCtx, setCtx_host, hbuf, hhost, List.foldl_nil]
  split <;> rfl

theorem cxctlWrite_disable {s : State} {ctx : Nat} {v : W32} (hv : v.getLsbD 31 = false) (hen : (s.ctxAt ctx).en = true)
    (hfunc : (s.ctxAt ctx).func = fld v.toNat 30 26) (hpasid : (s.ctxAt ctx).pasid = v.extractLsb' 0 20)
    (hqueues : ∀ e ∈ s.queues, e.2.ctx = ctx → e.2.state = .off) : s.cxctlWrite ctx v = s.forgetCtx ctx := by
  have hno : (s.queues.any fun e => e.2.ctx == ctx && e.2.state != .off) = false := by
    simpa [List.any_eq_false] using hqueues
  simp only [State.cxctlWrite, hv, hen, hfunc, hpasid, hno, bne_self_eq_false, Bool.or_self, Bool.false_eq_true, if_true, if_false]

@[simp] theorem tget?_tmap {α : Type} (t : Tbl α) (f : Nat → α → α) (k : Nat) : tget? (tmap t f) k = (tget? t k).map (f k) := by
  induction t with
  | nil => rfl
  | cons p r ih =>
    obtain ⟨j, x⟩ := p
    by_cases h : j = k
    · simp [tmap, tget?, h]
    · simpa [tmap, tget?, h] using ih

theorem forgetCtx_ctxAt_self (s : State) (ctx : Nat) : (s.forgetCtx ctx).ctxAt ctx = { s.ctxAt ctx with en := false, held := [] } :=
  setCtx_ctxAt_self ..

theorem forgetCtx_ctxAt_of_ne (s : State) {ctx k : Nat} (h : k ≠ ctx) : (s.forgetCtx ctx).ctxAt k = s.ctxAt k :=
  setCtx_ctxAt_of_ne _ _ h

theorem tlbRemove_core_tlb {s : State} {p : TlbEntry → Bool} {n : Nat} {k : Core} (h : tget? (s.tlbRemove p).cores n = some k) :
    ∀ e ∈ k.tlb, p e = false := by
  rw [State.tlbRemove, tget?_tmap, Option.map_eq_some_iff] at h
  obtain ⟨_, -, rfl⟩ := h
  simp

theorem tlbRemove_cluster_tlb {s : State} {p : TlbEntry → Bool} {n : Nat} {c : Cluster}
    (h : tget? (s.tlbRemove p).clusters n = some c) : ∀ e ∈ c.tlb, p e = false := by
  rw [State.tlbRemove, tget?_tmap, Option.map_eq_some_iff] at h
  obtain ⟨_, -, rfl⟩ := h
  simp

theorem forgetCtx_core_tlb {s : State} {ctx n : Nat} {k : Core} (h : tget? (s.forgetCtx ctx).cores n = some k) :
    ∀ e ∈ k.tlb, e.ctx ≠ ctx :=
  fun e he => by simpa using tlbRemove_core_tlb (p := fun e => e.ctx == ctx) h e he

theorem forgetCtx_cluster_tlb {s : State} {ctx n : Nat} {c : Cluster} (h : tget? (s.forgetCtx ctx).clusters n = some c) :
    ∀ e ∈ c.tlb, e.ctx ≠ ctx :=
  fun e he => by simpa using tlbRemove_cluster_tlb (p := fun e => e.ctx == ctx) h e he

/-! ## The record ring (R57, R58) -/

theorem execRecordRingReadIndexWrite_open {s : State} {func ctx : Nat} (v : W32) (hopen : s.bar0Open = true)
    (htouch : s.mayTouch func ctx = true) : execRecordRingReadIndexWrite func ctx v s = .next (s.cxrriWrite ctx v) := by
  simp [execRecordRingReadIndexWrite, hopen, htouch]

theorem cxrriWrite_within {s : State} {ctx : Nat} {v : W32}
    (hle : (v - (s.ctxAt ctx).rri).toNat ≤ ((s.ctxAt ctx).rwi - (s.ctxAt ctx).rri).toNat) :
    s.cxrriWrite ctx v =
      let t := s.setCtx ctx { s.ctxAt ctx with rri := v }
      if v = (s.ctxAt ctx).rwi then t else t.msix ctx (s.ctxAt ctx).msiv := by
  simp only [State.cxrriWrite, gt_iff_lt, Nat.not_lt.mpr hle, if_false, bne_iff_ne, ne_eq, ite_not]

@[simp] theorem msix_mem (s : State) (ctx vector : Nat) : (s.msix ctx vector).mem = s.mem := rfl

@[simp] theorem msix_ctxAt (s : State) (ctx vector k : Nat) : (s.msix ctx vector).ctxAt k = s.ctxAt k := rfl

@[simp] theorem msix_sent (s : State) (ctx vector : Nat) :
    (s.msix ctx vector).host.sent = s.host.sent ++ [.msix (s.ctxAt ctx).func (s.ctxAt ctx).pasid vector] := rfl

theorem cxrriWrite_mem {s : State} {ctx : Nat} {v : W32}
    (hle : (v - (s.ctxAt ctx).rri).toNat ≤ ((s.ctxAt ctx).rwi - (s.ctxAt ctx).rri).toNat) : (s.cxrriWrite ctx v).mem = s.mem := by
  rw [cxrriWrite_within hle]
  split <;> simp

theorem cxrriWrite_ctxAt {s : State} {ctx : Nat} {v : W32}
    (hle : (v - (s.ctxAt ctx).rri).toNat ≤ ((s.ctxAt ctx).rwi - (s.ctxAt ctx).rri).toNat) :
    (s.cxrriWrite ctx v).ctxAt ctx = { s.ctxAt ctx with rri := v } := by
  rw [cxrriWrite_within hle]
  split <;> simp

theorem cxrriWrite_sent {s : State} {ctx : Nat} {v : W32}
    (hle : (v - (s.ctxAt ctx).rri).toNat ≤ ((s.ctxAt ctx).rwi - (s.ctxAt ctx).rri).toNat) :
    (s.cxrriWrite ctx v).host.sent = if v = (s.ctxAt ctx).rwi then s.host.sent
      else s.host.sent ++ [.msix (s.ctxAt ctx).func (s.ctxAt ctx).pasid (s.ctxAt ctx).msiv] := by
  rw [cxrriWrite_within hle]
  split <;> simp

theorem writeHeld_ok {s u : State} {ctx guid : Nat} {bs : List Byte} {rest : List (List Byte × Nat)}
    (hheld : (s.ctxAt ctx).held = (bs, guid) :: rest) (hring : s.ringWrite ctx bs = .ok u) :
    s.writeHeld ctx = u.setCtx ctx { u.ctxAt ctx with held := rest } := by
  simp [State.writeHeld, hheld, hring]

/-! ## The statement -/

/-- Settles O52: each access reduces to the register, page, line or context that it names. -/
theorem hostAccessesComplete : Obligations.HostAccessesComplete := by
  unfold Obligations.HostAccessesComplete
  refine ⟨?writeWord, ?writeDouble, ?writeQuad, ?page, ?writeFields, ?read, ?clear, ?flr, ?closed, ?bar4Read, ?line, ?bar4Write,
    ?enable, ?disable, ?forget, ?readIndex, ?held, fun _ _ => rfl⟩
  case writeWord =>
    intro s func off base v r hlink halign hreg hserv hvis hwhole
    have hexec := execRegisterWrite_word func v hlink halign
    exact ⟨fun hwide => hexec.trans (by rw [write32_narrow hreg hserv hvis hwhole hwide]),
      fun hwide => hexec.trans (by rw [write32_half hreg hserv hvis hwhole hwide])⟩
  case writeDouble =>
    intro s func off v r hlink halign hreg hserv hvis hwide
    exact (execRegisterWrite_double func v hlink halign).trans (by rw [write64_wide hreg hserv hvis hwide])
  case writeQuad => exact fun _ func _ v hlink halign => execRegisterWrite_quad func v hlink halign
  case page =>
    exact fun _ func q v hlink hopen htouch =>
      ⟨execRegisterWrite_page func q v hlink hopen htouch, execReadToClear_page func q hlink hopen htouch⟩
  case writeFields => exact fun s func v => ⟨rfl, rfl, rfl, rfl, fun sl => setSlice_slice_self .., rfl, rfl, rfl⟩
  case read =>
    intro s func off base r hlink halign hreg hserv hvis
    exact (execReadToClear_word func hlink halign).trans (by rw [read32_shown hreg hserv hvis])
  case clear => exact fun s n => ⟨setPort_port_self .., setCtx_ctxAt_self .., rfl, rfl⟩
  case flr => exact fun s => ⟨_, rfl, rfl, rfl⟩
  case closed => exact fun s off n hin hclosed => ⟨_, execBar4Read_closed hin hclosed, rfl, rfl⟩
  case bar4Read => exact fun s off n hin hopen hstill => execBar4Read_open hin hopen hstill
  case line =>
    intro s pa n hn hline
    rw [bar4Read_within_line s hn hline]
    refine ⟨fun htop hgood => ?_, hostLine_bytes_of_bad⟩
    rw [hostLine_good htop hgood]
    exact ⟨rfl, rfl⟩
  case bar4Write => exact fun s off data hin hopen hstill htop => execBar4Write_open hin hopen hstill htop
  case enable =>
    intro s func ctx v hopen htouch hv hoff hfunc htwin hvec hlow hhigh hring hbuf
    refine ⟨s.enableCtx ctx (fld v.toNat 30 26) (v.extractLsb' 0 20), ?_, ?_⟩
    · exact (execContextEnable_open hopen htouch hv).trans (by rw [cxctlWrite_enable hv hoff hfunc htwin hvec hlow hhigh hring])
    · rw [enableCtx_unbuffered _ _ _ hbuf]
      exact ⟨rfl, rfl, setCtx_ctxAt_self .., fun k hk => setCtx_ctxAt_of_ne _ _ hk⟩
  case disable =>
    intro s func ctx v hopen htouch hv hen hfunc hpasid hqueues
    exact (execContextDisable_open hopen htouch hv).trans (by rw [cxctlWrite_disable hv hen hfunc hpasid hqueues])
  case forget =>
    exact fun s ctx => ⟨rfl, rfl, forgetCtx_ctxAt_self s ctx, fun k hk => forgetCtx_ctxAt_of_ne s hk,
      fun n k hk => forgetCtx_core_tlb hk, fun n c hc => forgetCtx_cluster_tlb hc⟩
  case readIndex =>
    exact fun s func ctx v hopen htouch hle => ⟨_, execRecordRingReadIndexWrite_open v hopen htouch, cxrriWrite_mem hle,
      cxrriWrite_ctxAt hle, cxrriWrite_sent hle⟩
  case held => exact fun s u ctx guid bs rest hheld hring => writeHeld_ok hheld hring

end Sys2Proof.Machine

/-! What leaves the peer side as it is: accesses at their home, translations and records, and the ends of grids, teams, accesses and
engine operations (R40, R43, R46). -/
namespace Sys2Proof.Machine

/-! ## Folds -/

/-- A fold keeps what each of its steps keeps. -/
theorem foldl_keeps {α β σ : Type} (view : σ → β) {f : σ → α → σ} (h : ∀ s a, view (f s a) = view s) (l : List α) (s : σ) :
    view (l.foldl f s) = view s := by
  induction l generalizing s with
  | nil => rfl
  | cons a l ih => exact (ih _).trans (h s a)

@[simp] theorem foldl_peer {α : Type} {f : State → α → State} (h : ∀ s a, (f s a).peer = s.peer) (l : List α) (s : State) :
    (l.foldl f s).peer = s.peer := foldl_keeps State.peer h l s

@[simp] theorem ite_peer (c : Prop) [Decidable c] (s t : State) : (if c then s else t).peer = if c then s.peer else t.peer :=
  apply_ite ..

/-! ## Accesses at their home (R157 to R159, R174) -/

@[simp] theorem tally_peer (s : State) (block src n : Nat) : (s.tally block src n).peer = s.peer := by simp [State.tally]

@[simp] theorem charge_peer (s : State) (grid kind n : Nat) : (s.charge grid kind n).peer = s.peer := by
  obtain ⟨accounts, h⟩ := charge_eq s grid kind n
  rw [h]

@[simp] theorem send_peer (s : State) (kind : MsgKind) (core slice : Nat) (toSlice : Bool) (held : List Nat) :
    (s.send kind core slice toSlice held).peer = s.peer := rfl

@[simp] theorem dropMsg_peer (s : State) (id : Nat) : (s.dropMsg id).peer = s.peer := rfl

@[simp] theorem rouseSlice_peer (s : State) (n : Nat) : (s.rouseSlice n).peer = s.peer := by simp [State.rouseSlice]

@[simp] theorem l1Drop_peer (s : State) (core : Nat) (p : L1Line → Bool) : (s.l1Drop core p).peer = s.peer := by simp [State.l1Drop]

@[simp] theorem l1Map_peer (s : State) (core : Nat) (p : L1Line → Bool) (f : L1Line → L1Line) : (s.l1Map core p f).peer = s.peer := by
  simp [State.l1Map]

theorem feedOnce_some {s t : State} {mc : Nat} (h : s.feedOnce mc = some t) : ∃ c, t = s.setController mc c := by
  obtain ⟨⟨n, _⟩, _, hx⟩ := List.exists_of_findSome?_eq_some h
  dsimp only at hx
  split at hx
  · exact ⟨_, (Option.some.inj hx).symm⟩
  · exact ⟨_, (Option.some.inj hx).symm⟩
  · cases hx

/-- Requests that a controller takes change that controller only (R157). -/
theorem feed_keeps {β : Type} (view : State → β) (h : ∀ (s : State) (mc : Nat) (c : Controller), view (s.setController mc c) = view s)
    (s : State) (mc fuel : Nat) : view (s.feed mc fuel) = view s := by
  induction fuel generalizing s with
  | zero => rfl
  | succ n ih =>
    simp only [State.feed]
    split
    · next hsome =>
      obtain ⟨c, rfl⟩ := feedOnce_some hsome
      exact (ih _).trans (h ..)
    · rfl

@[simp] theorem feed_peer (s : State) (mc fuel : Nat) : (s.feed mc fuel).peer = s.peer := feed_keeps State.peer (fun _ _ _ => rfl) s mc fuel

@[simp] theorem allocate_peer (s : State) (n line : Nat) (version : Bool) : (s.allocate n line version).peer = s.peer := by
  simp only [State.allocate]
  split <;> simp

@[simp] theorem homeStore_peer (s : State) (pa : Nat) (bs : List Byte) : (s.homeStore pa bs).peer = s.peer := by simp [State.homeStore]

@[simp] theorem applyThrough_peer (s : State) (id acc line core : Nat) (cells : List (Nat × List Byte)) :
    (s.applyThrough id acc line core cells).peer = s.peer := by simp [State.applyThrough]

@[simp] theorem drainLine_peer (s : State) (line : Nat) : (s.drainLine line).peer = s.peer := by
  refine foldl_keeps State.peer (fun s ⟨id, m⟩ => ?_) _ _
  dsimp only
  split <;> simp

@[simp] theorem dropCopies_peer (s : State) (cluster line : Nat) (region : Bool) (exempt : Option Nat) :
    (s.dropCopies cluster line region exempt).peer = s.peer := by simp [State.dropCopies]

@[simp] theorem settleLine_peer (s : State) (line : Nat) (write : Bool) : (s.settleLine line write).peer = s.peer := by
  simp only [State.settleLine, ite_peer, setSlice_peer, foldl_peer, dropCopies_peer, implies_true, ite_self]
  split <;> simp

@[simp] theorem reach_peer (s : State) (pa n : Nat) (write : Bool) : (s.reach pa n write).peer = s.peer := by
  simp only [State.reach]
  split <;> rfl

@[simp] theorem readNow_peer (s : State) (pa n : Nat) : (s.readNow pa n).1.peer = s.peer := by simp [State.readNow]

@[simp] theorem writeNow_peer (s : State) (pa : Nat) (bs : List Byte) : (s.writeNow pa bs).peer = s.peer := by
  simp [State.writeNow, State.claimRange]

/-! ## Translation and records (R55 to R60) -/

@[simp] theorem hold_peer (s : State) : s.hold.peer = s.peer := rfl

@[simp] theorem tellRead_peer (s : State) (ctx addr n : Nat) : (s.tellRead ctx addr n).peer = s.peer := by
  simp [State.tellRead, State.tellHost]

@[simp] theorem atsAsk_peer (s : State) (ctx va : Nat) (write : Bool) : (s.atsAsk ctx va write).peer = s.peer := by
  simp [State.atsAsk, State.tellHost, State.atcFill]

@[simp] theorem touchPte_peer (s : State) (pte : Nat) (write : Bool) : (s.touchPte pte write).peer = s.peer := by simp [State.touchPte]

@[simp] theorem xlateTouch_peer (s : State) (ctx va : Nat) (write : Bool) : (s.xlateTouch ctx va write).peer = s.peer := by
  simp only [State.xlateTouch]
  split
  · rfl
  · split <;> simp

@[simp] theorem unitRead_peer (s : State) (ctx va n : Nat) : (s.unitRead ctx va n).1.peer = s.peer := by
  simp only [State.unitRead]
  split <;> simp

@[simp] theorem unitWrite_peer (s : State) (ctx va : Nat) (bs : List Byte) : (s.unitWrite ctx va bs).1.peer = s.peer := by
  simp only [State.unitWrite]
  split <;> simp [State.hostWrite, State.hostPut, State.tellHost]

@[simp] theorem msix_peer (s : State) (ctx vector : Nat) : (s.msix ctx vector).peer = s.peer := rfl

theorem ringWrite_peer {s t : State} {ctx : Nat} {bs : List Byte} (h : s.ringWrite ctx bs = .ok t ∨ s.ringWrite ctx bs = .error t) :
    t.peer = s.peer := by
  have hwrite (va : Nat) : (s.unitWrite ctx va bs).1.peer = s.peer := unitWrite_peer ..
  simp only [State.ringWrite] at h
  split at h
  · obtain h | h := h <;> cases h
    rfl
  · split at h <;> next heq =>
      have hkeep := hwrite _ ▸ congrArg (fun x : State × Option XFault => x.1.peer) heq
      obtain h | h := h <;> cases h
      simpa using hkeep.symm

@[simp] theorem postBytes_peer (s : State) (ctx : Nat) (bs : List Byte) (stopped : Option Nat) :
    (s.postBytes ctx bs stopped).peer = s.peer := by
  simp only [State.postBytes]
  split
  · rfl
  · split
    · split
      · rfl
      · split
        · next h => exact ringWrite_peer (.inl h)
        · next h => exact (setCtx_peer ..).trans (ringWrite_peer (.inr h))
    · split
      · next h => exact ringWrite_peer (.inl h)
      · next h => exact (setCtx_peer ..).trans (ringWrite_peer (.inr h))

@[simp] theorem post_peer (s : State) (r : Record) (stopped : Option Nat) : (s.post r stopped).peer = s.peer := postBytes_peer ..

@[simp] theorem postPhysical_peer (s : State) (r : Record) : (s.postPhysical r).peer = s.peer := by
  simp only [State.postPhysical]
  split <;> simp

/-! ## Records of queues, and the end of a grid (R65, R70) -/

@[simp] theorem queueFault_peer (s : State) (q cause : Nat) (addr : W64) : (s.queueFault q cause addr).peer = s.peer := by
  simp [State.queueFault]

@[simp] theorem recordDone_peer (s : State) (queue index : Nat) (failed raise : Bool) :
    (s.recordDone queue index failed raise).peer = s.peer := by simp [State.recordDone]

@[simp] theorem joinStream_peer (s : State) (engine key : Nat) : (s.joinStream engine key).peer = s.peer := by simp [State.joinStream]

@[simp] theorem openPosts_peer (s : State) (grid : Nat) : (s.openPosts grid).peer = s.peer := by
  refine foldl_keeps State.peer (fun s id => ?_) _ _
  split <;> simp

@[simp] theorem gridCheck_peer (s : State) (grid : Nat) : (s.gridCheck grid).peer = s.peer := by
  simp only [State.gridCheck]
  split <;> simp [State.releaseAccounts]

/-! ## The end of a team (R244) -/

@[simp] theorem freeUnits_peer (s : State) (team : Nat) : (s.freeUnits team).peer = s.peer := rfl

@[simp] theorem releaseRing_peer (s : State) (core : Nat) : (s.releaseRing core).peer = s.peer := by simp [State.releaseRing]

@[simp] theorem freeTiles_peer (s : State) (team : Nat) : (s.freeTiles team).peer = s.peer := by simp [State.freeTiles]

@[simp] theorem freeReservation_peer (s : State) (team : Nat) : (s.freeReservation team).peer = s.peer := rfl

@[simp] theorem freePark_peer (s : State) (team : Nat) : (s.freePark team).peer = s.peer := by
  simp only [State.freePark]
  split <;> rfl

@[simp] theorem dropGroup_peer (s : State) (key : Nat) : (s.dropGroup key).peer = s.peer := by
  simp only [State.dropGroup]
  split <;> simp [State.foldCounters]

@[simp] theorem releaseTeam_peer (s : State) (team : Nat) : (s.releaseTeam team).peer = s.peer := by simp [State.releaseTeam]

@[simp] theorem leaveWaiters_peer (s : State) (key : Nat) : (s.leaveWaiters key).peer = s.peer := rfl

@[simp] theorem askDiscard_peer (s : State) (task : Nat) : (s.askDiscard task).peer = s.peer := rfl

@[simp] theorem endTeam_peer (s : State) (team : Nat) : (s.endTeam team).peer = s.peer := by simp [State.endTeam]

@[simp] theorem failColl_peer (s : State) (k : Nat) : (s.failColl k).peer = s.peer := rfl

@[simp] theorem abortGrid_peer (s : State) (grid : Nat) : (s.abortGrid grid).peer = s.peer := by
  simp only [State.abortGrid]
  split
  · rfl
  · rw [gridCheck_peer, foldl_peer failColl_peer]
    simp

@[simp] theorem abortDomain_peer (s : State) (ctx : Nat) (fdid : BitVec 16) : (s.abortDomain ctx fdid).peer = s.peer := by
  simp [State.abortDomain]

@[simp] theorem abortTeam_peer (s : State) (team : Nat) : (s.abortTeam team).peer = s.peer := abortDomain_peer ..

/-! ## Replay and readmission (R142, R245) -/

@[simp] theorem readmit_peer (s : State) (grid : Nat) (teams : List Nat) (deferTo : Option Nat) :
    (s.readmit grid teams deferTo).peer = s.peer := rfl

@[simp] theorem readmitUnit_peer (s : State) (team : Nat) : (s.readmitUnit team).peer = s.peer := by
  simp only [State.readmitUnit, ite_peer, readmit_peer]
  rw [foldl_peer (fun _ _ => setTeam_peer ..), ite_self]

@[simp] theorem readmitPreempted_peer (s : State) : s.readmitPreempted.peer = s.peer := by simp [State.readmitPreempted]

@[simp] theorem replaceTeam_peer (s : State) (team : Nat) (errorRun : Bool) : (s.replaceTeam team errorRun).1.peer = s.peer := by
  simp [State.replaceTeam, State.fresh]

@[simp] theorem redispatch_peer (s : State) (team : Nat) (errorRun : Bool) : (s.redispatch team errorRun).peer = s.peer := by
  simp only [State.redispatch, readmit_peer]
  exact foldl_keeps (fun st : State × List Nat => st.1.peer) (fun st k => replaceTeam_peer ..) _ _

@[simp] theorem discardTeam_peer (s : State) (team : Nat) (errorTrap : Bool) : (s.discardTeam team errorTrap).peer = s.peer := by
  simp [State.discardTeam]

/-! ## Errors of accesses and engine operations (R421) -/

@[simp] theorem errorTrap_peer (s : State) (core slot : Nat) (g : Group) (r : Record) : (s.errorTrap core slot g r).peer = s.peer := by
  simp [State.errorTrap]

@[simp] theorem accError_peer (s : State) (acc lane err info : Nat) : (s.accError acc lane err info).peer = s.peer := by
  simp only [State.accError]
  split <;> simp

@[simp] theorem opAbort_peer (s : State) (id cause sub addr info : Nat) (wr : Bool) : (s.opAbort id cause sub addr info wr).peer = s.peer := by
  simp only [State.opAbort]
  split
  · rfl
  · split <;> simp

@[simp] theorem mapLanes_peer (s : State) (acc : Nat) (f : LaneAcc → LaneAcc) : (s.mapLanes acc f).peer = s.peer := rfl

@[simp] theorem modGroup_peer (s : State) (guid : Nat) (f : Group → Group) : (s.modGroup guid f).peer = s.peer := by
  simp only [State.modGroup]
  split
  · rfl
  · split <;> rfl

@[simp] theorem leaveStore_peer (s : State) (acc : Nat) : (s.leaveStore acc).peer = s.peer := by
  simp only [State.leaveStore]
  split <;> simp

@[simp] theorem dropOp_peer (s : State) (id : Nat) : (s.dropOp id).peer = s.peer := by
  simp only [State.dropOp]
  split
  · rfl
  · split
    · exact foldl_peer (fun _ _ => setTeam_peer ..) ..
    · rfl

/-! ## Groups go on (R108, R408) -/

@[simp] theorem answer_peer (s : State) (core slot entry : Nat) (d : Code) (w64 : Bool) (v at' : Nat) :
    (s.answer core slot entry d w64 v at').peer = s.peer := by
  simp only [State.answer]
  split
  · rfl
  · exact setGroup_peer ..

@[simp] theorem takeMail_peer (s : State) (ctx box core slot entry : Nat) : (s.takeMail ctx box core slot entry).peer = s.peer := by
  simp only [State.takeMail]
  split
  · split
    · exact answer_peer ..
    · rfl
  · rfl

@[simp] theorem serveBox_peer (s : State) (ctx box : Nat) : (s.serveBox ctx box).peer = s.peer := by
  simp only [State.serveBox]
  split <;> simp

@[simp] theorem enterBox_peer (s : State) (ctx box core slot entry : Nat) : (s.enterBox ctx box core slot entry).peer = s.peer := by
  simp [State.enterBox]

@[simp] theorem goOnTeam_peer (s : State) (team : Nat) (why : Stop) : (s.goOnTeam team why).peer = s.peer := by
  refine foldl_keeps State.peer (fun s key => ?_) _ _
  simp only [State.goOnGroup]
  split <;> simp

@[simp] theorem endCauses_peer (s : State) (p : Team → PreemptCause → Bool) : (s.endCauses p).peer = s.peer := by
  simp only [State.endCauses, readmitPreempted_peer]
  rw [foldl_peer (fun s k => by simp), foldl_peer (fun _ _ => setTeam_peer ..)]

end Sys2Proof.Machine

/-! The ports of the device (R27 to R44): what their packets leave of the link as it is, the loss of a port, and the events and registers
that change a port's state. -/
namespace Sys2Proof.Machine

/-! ## Ports -/

theorem setPort_port_of_ne (s : State) {n m : Nat} (p : Port) (h : m ≠ n) : (s.setPort n p).port m = s.port m :=
  tgetD_tset_of_ne _ _ _ h

theorem port_of_peer {s t : State} (h : t.peer = s.peer) (n : Nat) : t.port n = s.port n := by rw [State.port, h, State.port]

/-- What a port keeps of its link: all but the packets that wait there and those that it is sending. -/
def Port.link (p : Port) : Port := { p with waiting := [], queues := [], sending := [] }

theorem eq_of_link {p q : Port} (h : p.link = q.link) :
    p = { q with waiting := p.waiting, queues := p.queues, sending := p.sending } := by
  cases p; cases q
  simpa [Port.link] using h

theorem setPort_link {s : State} {n : Nat} {p : Port} (h : p.link = (s.port n).link) (m : Nat) :
    ((s.setPort n p).port m).link = (s.port m).link := by
  by_cases hm : m = n
  · rw [hm, setPort_port_self, h]
  · rw [setPort_port_of_ne s p hm]

theorem foldl_link {α : Type} (m : Nat) {f : State → α → State} (h : ∀ s a, ((f s a).port m).link = (s.port m).link) (l : List α)
    (s : State) : ((l.foldl f s).port m).link = (s.port m).link := foldl_keeps (fun s => (s.port m).link) h l s

theorem ite_link (c : Prop) [Decidable c] (s t : State) (m : Nat) :
    ((if c then s else t).port m).link = if c then (s.port m).link else (t.port m).link := apply_ite (fun u => (State.port u m).link) ..

theorem link_of_peer {s t : State} (h : t.peer = s.peer) (m : Nat) : (t.port m).link = (s.port m).link := by
  rw [port_of_peer h]

/-- Changes of what waits at every port keep each port's link. -/
theorem tmap_port_link (ports : Tbl Port) {f : Nat → Port → Port} (hf : ∀ n p, (f n p).link = p.link) (m : Nat) :
    (tgetD (tmap ports f) m {}).link = (tgetD ports m {}).link := by
  simp only [tgetD, tget?_tmap]
  cases tget? ports m with
  | none => rfl
  | some p => exact hf m p

/-! ## What keeps the links (R39 to R43) -/

theorem enqueue_link (p : Port) (i : Outgoing) : (p.enqueue i).link = p.link := rfl

theorem respond_link (s : State) (req : Packet) (stat : Nat) (data : List Byte) (source : PktSource) (m : Nat) :
    ((s.respond req stat data source).port m).link = (s.port m).link := by
  simp only [State.respond]
  split
  · rfl
  · exact setPort_link (enqueue_link ..) m

theorem feedOut_link (s : State) (port tc : Nat) (pays : List (BitVec 512)) (last : Bool) (m : Nat) :
    ((s.feedOut port tc pays last).port m).link = (s.port m).link := by
  simp only [State.feedOut, State.port]
  exact tmap_port_link s.peer.ports (fun _ _ => by rfl) m

theorem ckFinish_link (s : State) (ok : Bool) (m : Nat) : ((s.ckFinish ok).port m).link = (s.port m).link := by
  simp only [State.ckFinish, State.port, postPhysical_peer, endCauses_peer, foldl_peer dropOp_peer]
  exact tmap_port_link s.peer.ports (fun _ _ => by rfl) m

theorem peerAsk_link (s : State) (source : PktSource) (owner : ReqOwner) (pkt : Packet) (m : Nat) :
    ((s.peerAsk source owner pkt).port m).link = (s.port m).link := by
  simp only [State.peerAsk]
  split
  · rfl
  · exact setPort_link (s := s) (by rfl) m

/-- A collective that fails changes the collectives and asks its peers, and nothing else (R168). -/
theorem collFails_keeps {β : Type} (view : State → β) (hcolls : ∀ (s : State) (c : Tbl Coll), view { s with colls := c } = view s)
    (hask : ∀ (s : State) (source : PktSource) (owner : ReqOwner) (pkt : Packet), view (s.peerAsk source owner pkt) = view s)
    (s : State) (k : Nat) : view (s.collFails k) = view s := by
  have hcheck (u : State) : view (u.collCheck k) = view u := by
    simp only [State.collCheck]
    split
    · rfl
    · split
      · exact hcolls ..
      · rfl
  have htell (u : State) : view (u.tellFailed k) = view u := by
    simp only [State.tellFailed]
    split
    · rfl
    · split
      · rfl
      · exact (foldl_keeps view (fun s p => hask ..) _ _).trans (hcolls ..)
  rw [State.collFails, hcheck, htell]
  exact hcolls ..

/-- A request that completes FAILED keeps the links: it ends an access, an operation, a checkpoint or a collective (R43). -/
theorem peerDone_failed_link (s : State) (port : Nat) (owner : ReqOwner) (data : List Byte) (m : Nat) :
    ((s.peerDone port owner 3 data).port m).link = (s.port m).link := by
  cases owner with
  | lane acc lane =>
    refine link_of_peer ?_ m
    simp only [State.peerDone]
    split <;> simp
  | opRead op va => exact link_of_peer (opAbort_peer ..) m
  | opWrite op => exact link_of_peer (opAbort_peer ..) m
  | page run =>
    simp only [State.peerDone]
    split
    · rfl
    · exact ckFinish_link ..
  | collective k =>
    refine collFails_keeps (fun s => (s.port m).link) (fun _ _ => rfl) ?_ s k
    exact fun s source owner pkt => peerAsk_link s source owner pkt m
  | none => rfl

/-- A route's change moves packets that wait for a tag to the holds of their destinations (R39). -/
theorem holdRoutes_link (s : State) (m : Nat) : (s.holdRoutes.port m).link = (s.port m).link := by
  refine foldl_link m (fun s n => foldl_link m (fun s d => ?_) _ s) _ s
  dsimp only
  split
  · rfl
  · exact setPort_link (s := s) (by rfl) m

theorem holdRoutes_mem (s : State) : s.holdRoutes.mem = s.mem := by
  refine foldl_keeps State.mem (fun s n => foldl_keeps State.mem (fun s d => ?_) _ s) _ s
  dsimp only
  split <;> rfl

/-! ## Port loss (R31, R43) -/

/-- What is left of the link of a port that goes down. -/
def Port.lost (p : Port) (state : LinkState) : Port :=
  { p with state := state, asked := none, sent := [], resend := none, recv := [], tags := [], nak := false
           owed := [0, 0, 0, 0, 0, 0], trainedAt := none }

theorem lost_link {p q : Port} (h : p.link = q.link) (state : LinkState) : (p.lost state).link = (q.lost state).link :=
  congrArg (Port.lost · state) h

/-- Once the port's link is cleared, no answer, error or re-routing that follows its loss touches the link again (R43). -/
theorem portLost_link (s : State) (n : Nat) (state : LinkState) :
    ((s.portLost n state).port n).link = ((s.port n).lost state).link := by
  simp only [State.portLost]
  rw [holdRoutes_link, link_of_peer (postPhysical_peer ..), ite_link, ckFinish_link, ite_self]
  refine (foldl_link n (fun s (t : Outstanding) => peerDone_failed_link s n t.owner [] n) _ _).trans ?_
  refine (foldl_link n (fun s i => ?reroute) _ _).trans ?_
  case reroute =>
    split
    · exact setPort_link (enqueue_link ..) n
    · rfl
  rw [foldl_link n fun s k => respond_link s k 3 [] .answer n, setPort_port_self]
  exact lost_link (foldl_link n (fun s e => feedOut_link ..) _ s) state

theorem portLost_port_state (s : State) (n : Nat) (state : LinkState) : ((s.portLost n state).port n).state = state := by
  rw [eq_of_link (portLost_link s n state), Port.lost]

theorem portLost_port_sent (s : State) (n : Nat) (state : LinkState) : ((s.portLost n state).port n).sent = [] := by
  rw [eq_of_link (portLost_link s n state), Port.lost]

theorem portLost_port_en (s : State) (n : Nat) (state : LinkState) : ((s.portLost n state).port n).en = (s.port n).en := by
  rw [eq_of_link (portLost_link s n state), Port.lost]

/-! ## Port registers (R44) -/

theorem execPortEnable_write {s : State} {n : Nat} {v : W32} (hopen : s.bar0Open = true) (hn : n < 16) (hen : v.getLsbD 0 = true) :
    execPortEnable n v s = .next (s.pctlWrite n v) := by simp [execPortEnable, hopen, hn, hen, -BitVec.getLsbD_eq_getElem]

theorem execPortDisable_write {s : State} {n : Nat} {v : W32} (hopen : s.bar0Open = true) (hn : n < 16) (hen : v.getLsbD 0 = false) :
    execPortDisable n v s = .next (s.pctlWrite n v) := by simp [execPortDisable, hopen, hn, hen, -BitVec.getLsbD_eq_getElem]

theorem execPortRetrain_write {s : State} {n : Nat} {v : W32} (hopen : s.bar0Open = true) (hn : n < 16) (htrain : v.getLsbD 1 = true) :
    execPortRetrain n v s = .next (s.pctlWrite n v) := by
  simp [execPortRetrain, hopen, hn, htrain, -BitVec.getLsbD_eq_getElem]

theorem pctlWrite_enable {s : State} {n : Nat} {v : W32} (hen : v.getLsbD 0 = true) (htrain : v.getLsbD 1 = false) :
    s.pctlWrite n v = s.setPort n { s.port n with en := true } := by
  simp [State.pctlWrite, hen, htrain, -BitVec.getLsbD_eq_getElem]

theorem pctlWrite_disable {s : State} {n : Nat} {v : W32} (hen : v.getLsbD 0 = false) (htrain : v.getLsbD 1 = false) :
    s.pctlWrite n v = if (s.port n).state = .down then s.setPort n { s.port n with en := false }
      else (s.setPort n { s.port n with en := false }).portLost n .down := by
  simp [State.pctlWrite, hen, htrain, -BitVec.getLsbD_eq_getElem]

theorem pctlWrite_retrain {s : State} {n : Nat} {v : W32} (hen : v.getLsbD 0 = true) (htrain : v.getLsbD 1 = true)
    (hid : s.peer.devidV = true) (hlit : s.portLit n = true) (hstate : (s.port n).state = .down ∨ (s.port n).state = .failed) :
    s.pctlWrite n v = (s.setPort n { s.port n with en := true }).setPort n
      { s.port n with en := true, state := .training, trainedAt := some s.time } := by
  have hid' (p : Port) : (s.setPort n p).peer.devidV = true := hid
  have hlit' (p : Port) : (s.setPort n p).portLit n = true := hlit
  simp [State.pctlWrite, State.train, hen, htrain, hid', hlit', hstate, -BitVec.getLsbD_eq_getElem]

/-- A disabled port is down, whatever it was (R44). -/
theorem pctlWrite_disabled_port {s : State} {n : Nat} {v : W32} (hen : v.getLsbD 0 = false) (htrain : v.getLsbD 1 = false) :
    ((s.pctlWrite n v).port n).en = false ∧ ((s.pctlWrite n v).port n).state = .down := by
  rw [pctlWrite_disable hen htrain]
  split
  · next hdown => simp [hdown]
  · exact ⟨by rw [portLost_port_en, setPort_port_self], portLost_port_state ..⟩

/-! ## Events of a port (R30, R31, R39) -/

/-- PORT_TRAINING_DONE (R31): the port's link as it starts afresh. -/
def Port.fresh (p : Port) (now : Nat) : Port :=
  { p with state := .up, seq := 0, expect := 0, sent := [], resend := none, asked := none, sending := [], recv := [], nak := false, slot := 0
           credits := (List.range 6).map Config.classBuffers, owed := [0, 0, 0, 0, 0, 0], lastAccept := now, trainedAt := some now }

theorem execPortTrainingDone_trained {s : State} {n : Nat} (hstate : (s.port n).state = .training) (hlit : s.portLit n = true) :
    execPortTrainingDone n s = .next (s.setPort n ((s.port n).fresh s.time)).holdRoutes := by
  simp [execPortTrainingDone, Port.fresh, hstate, hlit]

theorem execPwgtWrite_whole {s : State} {n : Nat} {v : W32} (hopen : s.bar0Open = true) (hn : n < 16)
    (hsum : (pwgtOf v).foldl (fun a b => a + b) 0 = 16) (hpos : 0 ∉ pwgtOf v) :
    execPwgtWrite n v s = .next (s.setPort n { s.port n with weights := pwgtOf v }) := by
  simp [execPwgtWrite, hopen, hn, hsum, hpos]

theorem execPdevidWrite_first {s : State} {v : W32} (hopen : s.bar0Open = true) (hset : s.peer.devidSet = false) :
    execPdevidWrite v s = .next { s with peer := { s.peer with
      devid := v.extractLsb' 0 14, devidV := v.getLsbD 31, devidSet := true } } := by simp [execPdevidWrite, hopen, hset]

theorem execPortReplayLimit_reached {s : State} {n : Nat} (hup : (s.port n).state = .up) (hlimit : ∃ f ∈ (s.port n).sent, 8 ≤ f.resends) :
    execPortReplayLimit n s = .next (s.portLost n .failed) := by
  simp [execPortReplayLimit, hup, hlimit]

theorem execPortReceiveTimeout_reached {s : State} {n : Nat} (hup : (s.port n).state = .up)
    (hlate : (s.port n).lastAccept + 10 * usec ≤ s.time) : execPortReceiveTimeout n s = .next (s.portLost n .failed) := by
  simp [execPortReceiveTimeout, hup, hlate]

theorem execGoBackNReplay_asked {s : State} {n : Nat} {q : BitVec 12} (hup : (s.port n).state = .up) (hasked : (s.port n).asked = some q) :
    execGoBackNReplay n q s = .next (s.setPort n (s.port n).goBack) := by simp [execGoBackNReplay, hup, hasked]

theorem goBack_asked {p : Port} {q : BitVec 12} (hasked : p.asked = some q) :
    p.goBack = { p with asked := none, resend := if p.sent.any fun f => f.seq == q then some q.toNat else p.resend } := by
  simp only [Port.goBack, hasked]

/-- The hold for a destination is lifted (R39). -/
def State.liftHold (s : State) (dst : BitVec 14) : State :=
  { s with peer := { s.peer with holds := s.peer.holds.filter fun x => x.dst != dst } }

theorem execRouteHoldRelease_free {s : State} {d : Nat} {h : RouteHold} (hfind : (s.peer.holds.find? fun x => x.dst.toNat == d) = some h)
    (hfree : ∀ x ∈ (s.port h.oldPort).tags, x.dst ≠ h.dst) :
    execRouteHoldRelease d s = .next ((s.liftHold h.dst).setPort (s.homePort h.dst)
      { s.port (s.homePort h.dst) with waiting := (s.port (s.homePort h.dst)).waiting ++ h.held }) := by
  have hnone : ((s.port h.oldPort).tags.any fun t => t.dst == h.dst) = false := by simpa [List.any_eq_false] using hfree
  simp only [execRouteHoldRelease, hfind, hnone, Bool.false_eq_true, if_false]
  rfl

/-! ## The statement -/

/-- Settles O49: each register write and each event reduces to the port's new state; of what follows a port's loss, nothing touches its link
again. -/
theorem portsChangeState : Obligations.PortsChangeState := by
  unfold Obligations.PortsChangeState
  refine ⟨?enable, ?disable, ?retrain, ?trained, ?weights, ?identifier, ?lost, ?replay, fun p q => goBack_asked, ?release⟩
  case enable =>
    intro s n v hopen hn hen htrain
    exact (execPortEnable_write hopen hn hen).trans (by rw [pctlWrite_enable hen htrain])
  case disable =>
    intro s n v hopen hn hen htrain
    obtain ⟨hoff, hdown⟩ := pctlWrite_disabled_port (s := s) (n := n) hen htrain
    exact ⟨_, execPortDisable_write hopen hn hen, hoff, hdown, fun hwas => by rw [pctlWrite_disable hen htrain, if_pos hwas]⟩
  case retrain =>
    intro s n v hopen hn hen htrain hid hlit hstate
    refine ⟨_, execPortRetrain_write hopen hn htrain, ?_⟩
    rw [pctlWrite_retrain hen htrain hid hlit hstate]
    exact ⟨rfl, setPort_port_self ..⟩
  case trained =>
    intro s n hstate hlit
    have hlink := holdRoutes_link (s.setPort n ((s.port n).fresh s.time)) n
    rw [setPort_port_self] at hlink
    refine ⟨_, execPortTrainingDone_trained hstate hlit, holdRoutes_mem _, ?_⟩
    rw [eq_of_link hlink, Port.fresh]
    exact ⟨rfl, rfl, rfl, rfl, rfl⟩
  case weights => exact fun s n v hopen hn hsum hpos => execPwgtWrite_whole hopen hn hsum hpos
  case identifier => exact fun s v hopen hset => execPdevidWrite_first hopen hset
  case lost =>
    intro s n hup
    exact ⟨execPortReplayLimit_reached hup, execPortReceiveTimeout_reached hup, portLost_port_state .., portLost_port_sent ..⟩
  case replay => exact fun s n q hup hasked => execGoBackNReplay_asked hup hasked
  case release =>
    intro s d h hfind hfree
    exact ⟨_, execRouteHoldRelease_free hfind hfree, rfl, rfl, setPort_port_self ..⟩

end Sys2Proof.Machine

/-! Flits, requests and packets of the peer links (R28 to R42): what a slot sends, what a receiver takes in, and where requests, responses
and packets in transit go. -/
namespace Sys2Proof.Machine

/-! ## What a slot sends (R30, R33) -/

@[simp] theorem tally_port (s : State) (block src k n : Nat) : (s.tally block src k).port n = s.port n := port_of_peer (tally_peer ..) n

@[simp] theorem tally_mem (s : State) (block src k : Nat) : (s.tally block src k).mem = s.mem := by
  obtain ⟨counters, h⟩ := tally_eq s block src k
  rw [h]

theorem goBack_unasked {p : Port} (hasked : p.asked = none) : p.goBack = p := by simp only [Port.goBack, hasked]

section
variable {s : State} {n : Nat} (hup : (s.port n).state = .up) (hlit : s.portLit n = true) (hasked : (s.port n).asked = none)
  (hresend : (s.port n).resend = none)
include hup hlit hasked hresend

theorem execFlitSlot_response (hnak : (s.port n).nak = false) (hcan : (s.port n).canSend 2 = true) :
    execFlitSlot n s = .next (s.sendNew n 2) := by
  simp [execFlitSlot, goBack_unasked hasked, hup, hlit, hresend, hnak, hcan]

theorem execFlitSlot_control (hnak : (s.port n).nak = true) :
    execFlitSlot n s =
      .next ((s.setPort n { (s.port n).emit 3 0 (s.port n).seq 0 0 with nak := false }).tally (480 + n) 1 1) := by
  simp [execFlitSlot, goBack_unasked hasked, hup, hlit, hresend, hnak]

end

/-- The first flit of a packet, as the replay buffer keeps it (R30). -/
def State.firstFlit (s : State) (n tc : Nat) (i : Outgoing) : SentFlit :=
  { kind := 1, tc := tc, seq := (s.port n).seq, dst := i.pkt.dst, pay := i.flits.getD 0 0
    head := if i.source == .transit then i.flits.head? else none
    grid := if tc == 2 then none else s.payer i }

theorem sendNew_first {s : State} {n tc ptr : Nat} {i : Outgoing} (hidle : tget? (s.port n).sending tc = none)
    (hpick : (s.port n).pick tc = some (i, ptr)) :
    ((s.sendNew n tc).port n).seq = (s.port n).seq + 1 ∧
    ((s.sendNew n tc).port n).credits = (s.port n).credits.set tc ((s.port n).credits.getD tc 0 - 1) ∧
    ((s.sendNew n tc).port n).sent = (s.port n).sent ++ [s.firstFlit n tc i] := by
  simp [State.sendNew, State.firstFlit, hidle, hpick]

/-! ## Flits that come in (R28 to R30, R36) -/

theorem execFlitReceive_lit {s : State} {n : Nat} (flit : BitVec 640) (hup : (s.port n).state = .up) (hlit : s.portLit n = true) :
    execFlitReceive n flit s =
      let p := { s.port n with corr := BitVec.ofNat 16 (min 65535 ((s.port n).corr.toNat + (fecBody flit).2)) }
      let u := (s.tally (480 + n) 2 1).tally (480 + n) 4 (fecBody flit).2
      .next (if p.accepts (fecBody flit).1 then u.acceptFlit n p (fecBody flit).1 else u.setPort n p.reject) := by
  unfold execFlitReceive
  generalize fecBody flit = corrected
  obtain ⟨body, fixed⟩ := corrected
  simp [hup, hlit]

/-- The payload of a flit's corrected bits. -/
def bodyPayload (body : BitVec 600) : BitVec 512 := BitVec.ofNat 512 (body.toNat % 2 ^ 512)

/-- A port that has accepted a flit that carries data (R29, R30). -/
def Port.took (p : Port) (body : BitVec 600) (now : Nat) : Port := { p.heard (bodyHeader body) now with expect := p.expect + 1 }

theorem heard_expect (p : Port) (h : LinkHeader) (now : Nat) : (p.heard h now).expect = p.expect := rfl

/-- A flit that is a whole packet stands in the inbox (R36). -/
theorem acceptFlit_whole {s : State} {n : Nat} {p : Port} {body : BitVec 600} {soft : Bool} (hkind : (bodyHeader body).kind = 1)
    (hclosed : tget? p.recv (bodyHeader body).tc = none)
    (hwhole : (s.setPort n (p.took body s.time)).flitsToCome (p.took body s.time) (bodyHeader body).dst (bodyPayload body) = (0, soft)) :
    (s.acceptFlit n p body).port n = (p.took body s.time).deliver
      { tc := (bodyHeader body).tc, dst := (bodyHeader body).dst, pays := [bodyPayload body], left := 0, soft := soft } := by
  simp only [Port.took, bodyPayload] at hwhole
  simp only [State.acceptFlit, hkind, hclosed, setPort_port_self, heard_expect, hwhole, Port.took, bodyPayload]
  rfl

/-! ## Requests, responses and packets in transit (R40 to R42) -/

theorem tc_withTag (i : Outgoing) (tag : BitVec 12) : Outgoing.tc { i with pkt := { i.pkt with tag := tag } } = i.tc := by
  cases h : i.source <;> simp [Outgoing.tc, h]

/-- The lowest free tag (log entry 109). -/
theorem lowest_free_tag {tags : List Outstanding} {k : Nat} (hk : k < 4096) (hfree : ∀ x ∈ tags, x.tag ≠ k)
    (htaken : ∀ j, j < k → ∃ x ∈ tags, x.tag = j) :
    ((List.range 4096).find? fun t => !(tags.any fun x => x.tag == t)) = some k := by
  rw [List.find?_range_eq_some]
  exact ⟨by simpa using hfree, List.mem_range.mpr hk, fun j hj => by simpa using htaken j hj⟩

/-- A request takes a tag and joins its class (R41). -/
def Port.ask (p : Port) (i : Outgoing) (rest : List Outgoing) (tag : Nat) : Port :=
  let o : Outstanding := { tag := tag, op := i.pkt.op, dst := i.pkt.dst, owner := i.owner, size := i.pkt.size.toNat }
  ({ p with waiting := rest, tags := p.tags ++ [o] } : Port).enqueue { i with pkt := { i.pkt with tag := BitVec.ofNat 12 tag } }

theorem execPeerRequestSend_tagged {s : State} {n k : Nat} {i : Outgoing} {rest : List Outgoing} (hwait : (s.port n).waiting = i :: rest)
    (hpage : i.owner.isPage = false) (hroute : s.routePort i.pkt.dst = some n)
    (htag : ((List.range 4096).find? fun t => !((s.port n).tags.any fun x => x.tag == t)) = some k) :
    execPeerRequestSend n s = .next (s.setPort n ((s.port n).ask i rest k)) := by
  simp only [execPeerRequestSend, hwait, hpage, hroute, htag, Port.ask]
  simp

theorem ask_queue (p : Port) (i : Outgoing) (rest : List Outgoing) (tag : Nat) :
    tgetD (p.ask i rest tag).queues i.tc [] = tgetD p.queues i.tc [] ++ [{ i with pkt := { i.pkt with tag := BitVec.ofNat 12 tag } }] := by
  simp [Port.ask, Port.enqueue, tc_withTag]

theorem execPeerResponse_outstanding {s : State} {n m : Nat} {k : Packet} {x : Outstanding}
    (hin : s.inbound n (fun y => y.op == 0x80#8) = some k)
    (hfind : ((n :: List.range 16).findSome? fun j => (((s.setPort n ((s.port n).takeIn k)).port j).tags.find? fun y =>
      y.tag == k.tag.toNat && y.size == k.size.toNat).map fun y => (j, y)) = some (m, x)) :
    execPeerResponse n s =
      let u := s.setPort n ((s.port n).takeIn k)
      .next ((u.setPort m { u.port m with tags := (u.port m).tags.filter fun y => y.tag != x.tag }).peerDone m x.owner
        k.stat.toNat (k.data.take (x.size + 1))) := by
  simp only [execPeerResponse, hin, hfind]

theorem setPort_routePort {s : State} {n : Nat} {p : Port} (hstate : p.state = (s.port n).state) (dst : BitVec 14) :
    (s.setPort n p).routePort dst = s.routePort dst := by
  have hkeep (m : Nat) : ((s.setPort n p).port m).state = (s.port m).state := by
    by_cases hm : m = n
    · rw [hm, setPort_port_self, hstate]
    · rw [setPort_port_of_ne s p hm]
  simp only [State.routePort, hkeep]
  rfl

theorem execTransitPacket_routed {s : State} {n m : Nat} {k : Packet} (hfind : ((s.port n).inbox.find? fun y => !s.mine y) = some k)
    (hroute : s.routePort k.dst = some m) :
    execTransitPacket n s =
      let u := s.setPort n ((s.port n).takeIn k)
      .next (u.setPort m ((u.port m).enqueue { pkt := k, source := .transit })) := by
  have hkept : (s.setPort n ((s.port n).takeIn k)).routePort k.dst = some m := (setPort_routePort (by rfl) _).trans hroute
  simp only [execTransitPacket, hfind, hkept]

/-! ## The statement -/

/-- Settles O50: a slot, a flit, a request, a response and a packet in transit each reduce to what becomes of the port. -/
theorem flitsAndPacketsGoOn : Obligations.FlitsAndPacketsGoOn := by
  unfold Obligations.FlitsAndPacketsGoOn
  refine ⟨?response, ?control, ?first, ?receive, ?accept, ?ask, ?answer, ?transit⟩
  case response => exact fun s n hup hlit hasked hresend hnak hcan => execFlitSlot_response hup hlit hasked hresend hnak hcan
  case control =>
    intro s n hup hlit hasked hresend hnak
    exact ⟨_, execFlitSlot_control hup hlit hasked hresend hnak, by simp⟩
  case first => exact fun s n tc ptr i hidle hpick => sendNew_first hidle hpick
  case receive => exact fun s n flit hup hlit => execFlitReceive_lit flit hup hlit
  case accept =>
    intro s n p body hkind hclosed p1 hwhole
    have hport := acceptFlit_whole hkind hclosed (Prod.ext hwhole rfl)
    rw [hport]
    exact ⟨rfl, rfl, rfl⟩
  case ask =>
    intro s n k i rest hwait hpage hroute hk hfree htaken
    refine ⟨_, execPeerRequestSend_tagged hwait hpage hroute (lowest_free_tag hk hfree htaken), rfl, ?_⟩
    rw [setPort_port_self]
    exact ⟨rfl, rfl, ask_queue ..⟩
  case answer => exact fun s n m k x hin hfind => execPeerResponse_outstanding hin hfind
  case transit => exact fun s n m k hfind hroute => execTransitPacket_routed hfind hroute

end Sys2Proof.Machine

/-! Inbound peer requests (R35, R38, R40, R45, R165): how a request that a window lets in is done at its home, and one that none lets in is
denied. -/
namespace Sys2Proof.Machine

/-! ## Bytes of memory -/

theorem cwrite_append (m : List Host.Cell) (a : Nat) (bs : List Byte) (b : Byte) :
    cwrite m a (bs ++ [b]) = cset (cwrite m a bs) (a + bs.length) b := by
  simp [cwrite, List.zipIdx_append]

/-- What was written is read. -/
theorem cget_cwrite_inside {m : List Host.Cell} (a : Nat) {bs : List Byte} {i : Nat} (h : Memory.wf m = true) (hi : i < bs.length) :
    cget (cwrite m a bs) (a + i) = bs.getD i 0 := by
  induction bs using List.reverseRecOn with
  | nil => simp at hi
  | append_singleton bs b ih =>
    have hwf := cwrite_wf m a bs h
    rw [cwrite_append]
    by_cases hlast : i = bs.length
    · rw [hlast, cget_cset_self _ _ _ hwf]
      simp
    · have hin : i < bs.length := by simp at hi; omega
      rw [cget_cset_of_ne _ _ hwf (by omega), ih hin]
      simp [List.getD_eq_getElem?_getD, List.getElem?_append_left hin]

/-! ## A line settles in a memory of canonical form (R157 to R159, R174) -/

/-- Whether the memory of a state has the canonical form. -/
def State.memWf (s : State) : Prop := Memory.wf s.mem = true

theorem memWf_of_mem {s t : State} (hmem : t.mem = s.mem) (h : s.memWf) : t.memWf := by rwa [State.memWf, hmem]

theorem foldl_memWf {α : Type} {f : State → α → State} (hf : ∀ s a, s.memWf → (f s a).memWf) (l : List α) {s : State} (h : s.memWf) :
    (l.foldl f s).memWf := List.foldlRecOn l f h fun s hs a _ => hf s a hs

@[simp] theorem foldl_mem {α : Type} {f : State → α → State} (h : ∀ s a, (f s a).mem = s.mem) (l : List α) (s : State) :
    (l.foldl f s).mem = s.mem := foldl_keeps State.mem h l s

@[simp] theorem ite_mem (c : Prop) [Decidable c] (s t : State) : (if c then s else t).mem = if c then s.mem else t.mem :=
  apply_ite ..

@[simp] theorem rouseSlice_mem (s : State) (n : Nat) : (s.rouseSlice n).mem = s.mem := by simp [State.rouseSlice]

@[simp] theorem l1Drop_mem (s : State) (core : Nat) (p : L1Line → Bool) : (s.l1Drop core p).mem = s.mem := by simp [State.l1Drop]

@[simp] theorem l1Map_mem (s : State) (core : Nat) (p : L1Line → Bool) (f : L1Line → L1Line) : (s.l1Map core p f).mem = s.mem := by
  simp [State.l1Map]

@[simp] theorem dropCopies_mem (s : State) (cluster line : Nat) (region : Bool) (exempt : Option Nat) :
    (s.dropCopies cluster line region exempt).mem = s.mem := by simp [State.dropCopies]

@[simp] theorem feed_mem (s : State) (mc fuel : Nat) : (s.feed mc fuel).mem = s.mem := feed_keeps State.mem (fun _ _ _ => rfl) s mc fuel

@[simp] theorem allocate_mem (s : State) (n line : Nat) (version : Bool) : (s.allocate n line version).mem = s.mem := by
  simp only [State.allocate]
  split <;> simp

@[simp] theorem homeStore_mem (s : State) (pa : Nat) (bs : List Byte) : (s.homeStore pa bs).mem = cwrite s.mem pa bs := by
  simp [State.homeStore]

theorem applyThrough_memWf {s : State} (id acc line core : Nat) (cells : List (Nat × List Byte)) (h : s.memWf) :
    (s.applyThrough id acc line core cells).memWf :=
  foldl_memWf (fun s e hs => by simpa [State.memWf] using cwrite_wf s.mem e.1 e.2 hs) cells h

theorem drainLine_memWf {s : State} (line : Nat) (h : s.memWf) : (s.drainLine line).memWf := by
  refine foldl_memWf (fun s ⟨id, m⟩ hs => ?_) _ h
  dsimp only
  split
  · split
    · exact applyThrough_memWf _ _ _ _ _ hs
    · exact hs
  · exact hs

theorem settleLine_memWf {s : State} (line : Nat) (write : Bool) (h : s.memWf) : (s.settleLine line write).memWf := by
  unfold State.settleLine
  extract_lets home drained sl e region settled sl' e' cleared
  have hsettled : settled.memWf := by
    have hdrained : drained.memWf := drainLine_memWf line (memWf_of_mem (rouseSlice_mem ..) h)
    simp only [settled]
    split
    · refine memWf_of_mem (setSlice_mem ..) ?_
      split
      · refine foldl_memWf (fun s i hs => drainLine_memWf _ hs) _ ?_
        exact memWf_of_mem (foldl_mem (fun _ _ => l1Map_mem ..) _ _) hdrained
      · exact memWf_of_mem (foldl_mem (fun _ _ => l1Map_mem ..) _ _) hdrained
    · exact hdrained
  split
  · exact hsettled
  · have hcleared : cleared.mem = settled.mem := foldl_mem (fun _ _ => dropCopies_mem ..) _ _
    split
    · exact memWf_of_mem ((setSlice_mem ..).trans hcleared) hsettled
    · exact memWf_of_mem hcleared hsettled

theorem reach_mem (s : State) (pa n : Nat) (write : Bool) : (s.reach pa n write).mem = s.mem := by
  simp only [State.reach]
  split <;> rfl

/-! ## Requests at their home (R38, R40) -/

section
variable {s : State} {n : Nat} {ops : List (BitVec 8)} {bytes : Packet → Nat}
  {act : State → Packet → State × Nat × List Byte} {k : Packet} (hin : s.inbound n (fun y => ops.contains y.op) = some k)
include hin

theorem serveInbound_denied (hdeny : s.windowAllows k = false) :
    s.serveInbound n ops bytes act = .next ((s.setPort n ((s.port n).takeIn k)).respond k 1 []) := by
  simp only [State.serveInbound, hin, hdeny, Bool.not_false, Bool.true_or, if_true]

theorem serveInbound_allowed (hallow : s.windowAllows k = true) (htop : k.addr.toNat + bytes k ≤ memTop) :
    s.serveInbound n ops bytes act = .next (s.attempt none fun u =>
      let r := act (u.setPort n ((u.port n).takeIn k)) k
      r.1.respond k r.2.1 r.2.2) := by
  simp only [State.serveInbound, hin, hallow, Bool.not_true, Bool.false_or, gt_iff_lt, decide_eq_true_eq, Nat.not_lt.mpr htop, if_false]

end

/-- An inbound load at its home (R38): the bytes, or an uncorrectable line. -/
def State.peerLoadAt (s : State) (k : Packet) : State × Nat × List Byte :=
  let v := s.reach k.addr.toNat (k.size.toNat + 1) false
  if v.badRange k.addr.toNat (k.size.toNat + 1) then (v, 2, [])
  else ((v.readNow k.addr.toNat (k.size.toNat + 1)).1, 0, (v.readNow k.addr.toNat (k.size.toNat + 1)).2)

/-- The lines of a page have been called back to their homes and are in no slice (R45). -/
def State.freePage (s : State) (pa : Nat) : State :=
  (linesOf pa 4096).foldl (fun s l =>
    let s := s.settleLine l true
    let home := s.homeOf (256 * l)
    let sl := s.slice home
    s.setSlice home { sl with sectors := tdel sl.sectors l }) (s.reach pa 4096 true)

/-- A checkpoint page is written to DRAM (R45). -/
def State.putPage (s : State) (k : Packet) : State :=
  let t := s.freePage k.addr.toNat
  { t with mem := cwrite t.mem k.addr.toNat k.data
           poison := t.poison.filter fun q => !(k.addr.toNat / 64 ≤ q && q < k.addr.toNat / 64 + 64) }

theorem execPeerCheckpointPage_eq (n : Nat) (s : State) :
    execPeerCheckpointPage n s = s.serveInbound n [0x30#8] (fun _ => 4096) fun s k => (s.putPage k, 0, []) := rfl

theorem execPeerLoad_eq (n : Nat) (s : State) :
    execPeerLoad n s = s.serveInbound n [0x01#8] (fun k => k.size.toNat + 1) fun s k => s.peerLoadAt k := rfl

theorem execPeerStore_eq (n : Nat) (s : State) :
    execPeerStore n s = s.serveInbound n [0x02#8] (fun k => k.size.toNat + 1) fun s k =>
      (s.writeNow k.addr.toNat (k.data.take (k.size.toNat + 1)), 0, []) := rfl

theorem execPeerAtomic_eq (n : Nat) (s : State) :
    execPeerAtomic n s = s.serveInbound n [0x03#8] (fun k => atomBytes k.fn.toNat) fun s k => s.peerAtomicAt k := rfl

theorem execPeerAtomicNoReturn_eq (n : Nat) (s : State) :
    execPeerAtomicNoReturn n s = s.serveInbound n [0x04#8] (fun k => atomBytes k.fn.toNat) fun s k =>
      ((s.peerAtomicAt k).1, (s.peerAtomicAt k).2.1, []) := rfl

theorem execPeerBulkWrite_eq (n : Nat) (s : State) :
    execPeerBulkWrite n s = s.serveInbound n [0x10#8] (fun k => k.data.length) fun s k => (s.writeNow k.addr.toNat k.data, 0, []) := rfl

theorem freePage_memWf {s : State} (pa : Nat) (h : s.memWf) : (s.freePage pa).memWf := by
  refine foldl_memWf (fun s l hs => ?_) _ (memWf_of_mem (reach_mem ..) h)
  exact memWf_of_mem (setSlice_mem ..) (settleLine_memWf l true hs)

theorem putPage_byte {s : State} {k : Packet} {i : Nat} (h : s.memWf) (hi : i < k.data.length) :
    cget (s.putPage k).mem (k.addr.toNat + i) = k.data.getD i 0 := cget_cwrite_inside _ (freePage_memWf _ h) hi

theorem putPage_poison {s : State} {k : Packet} {q : Nat} (h : q ∈ (s.putPage k).poison) :
    q < k.addr.toNat / 64 ∨ k.addr.toNat / 64 + 64 ≤ q := by
  have hout := (List.mem_filter.mp h).2
  simp at hout
  omega

theorem respond_queue {s : State} {req : Packet} {n : Nat} (stat : Nat) (data : List Byte) (hroute : s.routePort req.src = some n) :
    tgetD ((s.respond req stat data).port n).queues 2 [] = tgetD (s.port n).queues 2 [] ++
      [{ pkt := { op := 0x80#8, src := req.src, dst := req.src, tag := req.tag, fn := req.fn, stat := BitVec.ofNat 3 stat
                  size := req.size, addr := 0, tc := 2, data := data }
         source := .answer }] := by
  simp [State.respond, hroute, Port.enqueue, Outgoing.tc, packetClass]

/-! ## The statement -/

/-- Settles O51: each request is one service of an inbound request; what it does at its home is read off the operation's own act. -/
theorem inboundRequestsAreServed : Obligations.InboundRequestsAreServed := by
  unfold Obligations.InboundRequestsAreServed
  refine ⟨?denied, ?load, ?store, ?atomic, ?reduce, ?atomicAt, ?bulk, ?page, ?collective, ?reserved, ?response⟩
  case denied =>
    intro s n op bytes k i hop hin hdeny
    simp only [List.mem_cons, Prod.mk.injEq, List.not_mem_nil, or_false] at hop
    rcases hop with ⟨hop, -, hi⟩ | ⟨hop, -, hi⟩ | ⟨hop, -, hi⟩ | ⟨hop, -, hi⟩ | ⟨hop, -, hi⟩ | ⟨hop, -, hi⟩
    all_goals
      rw [hop] at hin
      rw [hi]
    · exact (execPeerLoad_eq n s).trans (serveInbound_denied hin hdeny)
    · exact (execPeerStore_eq n s).trans (serveInbound_denied hin hdeny)
    · exact (execPeerAtomic_eq n s).trans (serveInbound_denied hin hdeny)
    · exact (execPeerAtomicNoReturn_eq n s).trans (serveInbound_denied hin hdeny)
    · exact (execPeerBulkWrite_eq n s).trans (serveInbound_denied hin hdeny)
    · exact (execPeerCheckpointPage_eq n s).trans (serveInbound_denied hin hdeny)
  case load =>
    intro s n k hin hallow htop
    refine ((execPeerLoad_eq n s).trans (serveInbound_allowed hin hallow htop)).trans ?_
    refine congrArg (fun f => Host.Outcome.next (s.attempt none f)) ?_
    funext u
    simp only [State.peerLoadAt]
    split <;> rfl
  case store => exact fun s n k hin hallow htop => (execPeerStore_eq n s).trans (serveInbound_allowed hin hallow htop)
  case atomic => exact fun s n k hin hallow htop => (execPeerAtomic_eq n s).trans (serveInbound_allowed hin hallow htop)
  case reduce => exact fun s n k hin hallow htop => (execPeerAtomicNoReturn_eq n s).trans (serveInbound_allowed hin hallow htop)
  case atomicAt =>
    intro s k n v
    exact ⟨fun hbad => if_pos hbad, fun hgood => if_neg (Bool.not_eq_true _ ▸ hgood)⟩
  case bulk => exact fun s n k hin hallow htop => (execPeerBulkWrite_eq n s).trans <| serveInbound_allowed hin hallow htop
  case page =>
    intro s n k hin hallow htop hlen
    refine ⟨fun u => (u.setPort n ((u.port n).takeIn k)).putPage k,
      (execPeerCheckpointPage_eq n s).trans (serveInbound_allowed hin hallow htop), fun u hwf => ⟨?_, fun q hq => putPage_poison hq⟩⟩
    exact fun i hi => putPage_byte hwf (hlen ▸ hi)
  case collective =>
    intro s n k hin
    show execPeerCollectivePacket n s = _
    simp only [execPeerCollectivePacket, hin]
  case reserved =>
    intro s n k hin
    show execPeerReservedOp n s = _
    simp only [execPeerReservedOp, hin]
  case response => exact fun s req stat n data hroute => respond_queue stat data hroute

end Sys2Proof.Machine

/-! The checkpoint and the restore (R44 to R47). -/
namespace Sys2Proof.Machine

/-! ## CKCTL (R44) -/

section
variable {s : State} {v : W32} (hopen : s.bar0Open = true)
include hopen

theorem execCkctlGo_write (hgo : v.getLsbD 31 = true) : execCkctlGo v s = .next (s.ckctlWrite v) := by
  simp only [execCkctlGo, hopen, hgo, Bool.not_true, Bool.or_self, Bool.false_eq_true, if_false]

theorem execCkctlAbort_write (habort : v.getLsbD 30 = true) : execCkctlAbort v s = .next (s.ckctlWrite v) := by
  simp only [execCkctlAbort, hopen, habort, Bool.not_true, Bool.or_self, Bool.false_eq_true, if_false]

theorem execCkctlRestore_write (hrestore : v.getLsbD 29 = true) : execCkctlRestore v s = .next (s.ckctlWrite v) := by
  simp only [execCkctlRestore, hopen, hrestore, Bool.not_true, Bool.or_self, Bool.false_eq_true, if_false]

end

section
variable {s : State} {v : W32}

theorem ckctlWrite_go (hgo : v.getLsbD 31 = true) (habort : v.getLsbD 30 = false) (hrestore : v.getLsbD 29 = false)
    (hclear : v.getLsbD 10 = false) (hrest : s.peer.ck.state = .idle ∨ s.peer.ck.state = .done) :
    s.ckctlWrite v = s.startCheckpoint := by
  simp [State.ckctlWrite, hgo, habort, hrestore, hclear, hrest, -BitVec.getLsbD_eq_getElem]

theorem ckctlWrite_abort (hgo : v.getLsbD 31 = false) (habort : v.getLsbD 30 = true) (hrestore : v.getLsbD 29 = false)
    (hclear : v.getLsbD 10 = false) (hbusy : s.peer.ck.state = .quiesce ∨ s.peer.ck.state = .stream) :
    s.ckctlWrite v = s.ckFinish false := by
  simp [State.ckctlWrite, hgo, habort, hrestore, hclear, hbusy, -BitVec.getLsbD_eq_getElem]

theorem ckctlWrite_restore (hgo : v.getLsbD 31 = false) (habort : v.getLsbD 30 = false) (hrestore : v.getLsbD 29 = true)
    (hclear : v.getLsbD 10 = false) (hrest : s.peer.ck.state = .idle ∨ s.peer.ck.state = .done) (hctxs : s.residentCtxs = [])
    (hgrids : s.grids = []) : s.ckctlWrite v = s.setCk { s.peer.ck with state := .restore } := by
  simp [State.ckctlWrite, hgo, habort, hrestore, hclear, hrest, hctxs, hgrids, -BitVec.getLsbD_eq_getElem]

end

/-! ## A checkpoint starts (R46) -/

theorem nameCause_peer (s : State) (team : Nat) (c : PreemptCause) : (s.nameCause team c).peer = s.peer := by
  simp [State.nameCause]

theorem nameCause_groups (s : State) (team : Nat) (c : PreemptCause) : (s.nameCause team c).groups = s.groups := by
  refine foldl_keeps State.groups (fun s k => ?_) _ s
  dsimp only
  rw [apply_ite State.groups, setTeam_groups, ite_self]

theorem peerAsk_ck (s : State) (source : PktSource) (owner : ReqOwner) (pkt : Packet) :
    (s.peerAsk source owner pkt).peer.ck = s.peer.ck := by
  simp only [State.peerAsk]
  split <;> rfl

theorem peerAsk_groups (s : State) (source : PktSource) (owner : ReqOwner) (pkt : Packet) :
    (s.peerAsk source owner pkt).groups = s.groups := by
  simp only [State.peerAsk]
  split <;> rfl

/-- The checkpoint as it starts (R46). -/
def Checkpoint.started (c : Checkpoint) : Checkpoint :=
  { c with state := .quiesce, result := 0, committing := false, pages := 0, ports := [], run := c.run + 1 }

theorem startCheckpoint_ck (s : State) : s.startCheckpoint.peer.ck = s.peer.ck.started := by
  simp only [State.startCheckpoint]
  rw [foldl_keeps (fun u : State => u.peer.ck) fun u k => collFails_keeps (fun u : State => u.peer.ck) (fun _ _ => rfl) peerAsk_ck u k,
    foldl_peer fun u k => nameCause_peer u k .quiesce]
  rfl

theorem startCheckpoint_groups (s : State) : s.startCheckpoint.groups = tmap s.groups fun _ g => { g with boost := false } := by
  simp only [State.startCheckpoint]
  rw [foldl_keeps State.groups fun u k => collFails_keeps State.groups (fun _ _ => rfl) peerAsk_groups u k,
    foldl_keeps State.groups fun u k => nameCause_groups u k .quiesce]
  rfl

theorem startCheckpoint_boost {s : State} {k : Nat} {g : Group} (h : tget? s.startCheckpoint.groups k = some g) : g.boost = false := by
  rw [startCheckpoint_groups, tget?_tmap, Option.map_eq_some_iff] at h
  obtain ⟨_, -, rfl⟩ := h
  rfl

/-! ## Quiesce, Stream and the end (R46) -/

theorem ckFinish_ck (s : State) (ok : Bool) : (s.ckFinish ok).peer.ck =
    { s.peer.ck with state := .done, result := if ok then 1 else 2, pages := 0, ports := [], committing := false } := by
  simp only [State.ckFinish, postPhysical_peer, endCauses_peer, foldl_peer dropOp_peer]

/-- The saved teams' versions are to be committed (R46). -/
def State.commitSaved (s : State) : State :=
  s.savedTeams.foldl (fun s k =>
    (s.setTask (s.teamAt k).task { s.taskAt (s.teamAt k).task with nr := true }).commitFromBase k causeQuiesce) s

theorem commitSaved_mem (s : State) : s.commitSaved.mem = s.mem := by
  refine foldl_keeps State.mem (fun _ _ => ?_) _ s
  rfl

section
variable {s : State} (hstate : s.peer.ck.state = .quiesce) (hquiet : s.quiescing = false)
include hstate hquiet

theorem execCheckpointQuiesceDone_commit (hcommit : s.peer.ck.committing = false) :
    execCheckpointQuiesceDone s = .next (s.commitSaved.setCk { s.peer.ck with committing := true }) := by
  simp [execCheckpointQuiesceDone, State.commitSaved, hstate, hquiet, hcommit]

theorem execCheckpointQuiesceDone_image (hcommit : s.peer.ck.committing = true) (hopen : s.commitsOpen = false) :
    let w := s.spillAll.patchSaves.writeNow (fld s.peer.ck.image.toNat 49 16 * 65536) s.spillAll.patchSaves.imageBytes
    execCheckpointQuiesceDone s =
      .next ((w.ckList s.peer.ck.list.toNat (memTop / 32)).elim (w.ckFinish false) fun p => p.1.startStream p.2) := by
  intro w
  simp only [execCheckpointQuiesceDone, hstate, hquiet, hcommit, hopen, bne_self_eq_false, Bool.or_self, Bool.not_true,
    Bool.false_eq_true, if_false]
  split
  · next hlist => rw [show w.ckList s.peer.ck.list.toNat (memTop / 32) = none from hlist, Option.elim_none]
  · next u l hlist => rw [show w.ckList s.peer.ck.list.toNat (memTop / 32) = some (u, l) from hlist, Option.elim_some]

end

theorem execCheckpointStreamDone_sent {s : State} (hstate : s.peer.ck.state = .stream) (hpages : s.peer.ck.pages = 0)
    (hsent : ∀ e ∈ s.ops, ∀ src dst len dev port, e.2.kind = .page src dst len dev port → len ≤ e.2.units) :
    execCheckpointStreamDone s = .next (s.ckFinish true) := by
  refine if_neg fun hmore => ?_
  rw [Bool.or_eq_true, Bool.or_eq_true] at hmore
  obtain (hother | hleft) | hpage := hmore
  · simp [hstate] at hother
  · obtain ⟨e, he, hless⟩ := List.any_eq_true.mp hleft
    split at hless
    · next src dst len dev port hkind => exact absurd (hsent e he src dst len dev port hkind) (by simpa using hless)
    · cases hless
  · simp [hpages] at hpage

/-! ## Restore (R47) -/

section
variable {s : State} (hstate : s.peer.ck.state = .restore)
include hstate

theorem execRestoreDone_malformed {u : State} {h : List Byte} (hread : s.readNow (fld s.peer.ck.image.toNat 49 16 * 65536) 4096 = (u, h))
    (hbad : bytesAt h 0 2 ≠ 1 ∨ 32 * 2 ^ 20 < bytesAt h 16 8) : execRestoreDone s = .next (u.ckFinish false) := by
  unfold execRestoreDone
  rw [if_neg (by simp [hstate])]
  simp only [hread]
  exact if_pos (by simpa using hbad)

theorem execRestoreDone_loaded {u : State} {h : List Byte} (hread : s.readNow (fld s.peer.ck.image.toNat 49 16 * 65536) 4096 = (u, h))
    (hversion : bytesAt h 0 2 = 1) (hlen : bytesAt h 16 8 ≤ 32 * 2 ^ 20) :
    let r := u.readNow (fld s.peer.ck.image.toNat 49 16 * 65536) (bytesAt h 16 8)
    execRestoreDone s = .next (((r.1.uncarried.loadImage r.2).readmitSaved).ckFinish true) := by
  intro r
  unfold execRestoreDone
  rw [if_neg (by simp [hstate])]
  simp only [hread]
  exact if_neg (by simpa [hversion] using hlen)

end

/-! ## The statement -/

/-- Settles O59: a write of CKCTL and each event of a checkpoint reduce to the checkpoint's next state; what a start names and a collective's
failure asks leave the checkpoint and the groups as they are. -/
theorem checkpointsProceed : Obligations.CheckpointsProceed := by
  unfold Obligations.CheckpointsProceed
  refine ⟨?go, ?abort, ?finish, ?restore, ?quiesced, fun s => execCheckpointStreamDone_sent, ?restored⟩
  case go =>
    intro s v hopen hgo habort hrestore hclear hrest
    refine ⟨(execCkctlGo_write hopen hgo).trans (by rw [ckctlWrite_go hgo habort hrestore hclear hrest]), ?_, ?_,
      fun k g => startCheckpoint_boost⟩ <;> rw [startCheckpoint_ck, Checkpoint.started]
  case abort =>
    intro s v hopen hgo habort hrestore hclear hbusy
    exact (execCkctlAbort_write hopen habort).trans (by rw [ckctlWrite_abort hgo habort hrestore hclear hbusy])
  case finish => exact fun s ok => by rw [ckFinish_ck]; exact ⟨rfl, rfl⟩
  case restore =>
    intro s v hopen hgo habort hrestore hclear hrest hctxs hgrids
    exact (execCkctlRestore_write hopen hrestore).trans (by rw [ckctlWrite_restore hgo habort hrestore hclear hrest hctxs hgrids])
  case quiesced =>
    intro s hstate hquiet
    refine ⟨fun hcommit => ⟨_, execCheckpointQuiesceDone_commit hstate hquiet hcommit, commitSaved_mem s, rfl⟩, fun hcommit hopen => ?_⟩
    exact execCheckpointQuiesceDone_image hstate hquiet hcommit hopen
  case restored =>
    intro s hstate base h u
    have hread : s.readNow base 4096 = (u, h) := Prod.mk.eta.symm
    exact ⟨fun hbad => execRestoreDone_malformed hstate hread hbad,
      fun hversion hlen => execRestoreDone_loaded hstate hread hversion hlen⟩

end Sys2Proof.Machine

/-! How queues change state (R62, R65, R66), and the reset of a function (R74). -/
namespace Sys2Proof.Machine

/-! ## Queues of the state -/

/-- A later entry of a table takes the place of an earlier one. -/
@[simp] theorem tset_tset {α : Type} (t : Tbl α) (k : Nat) (x y : α) : tset (tset t k x) k y = tset t k y := by
  induction t with
  | nil => simp [tset]
  | cons p r ih =>
    obtain ⟨j, z⟩ := p
    by_cases hj : j = k
    · simp [tset, hj]
    · by_cases hlt : k < j
      · simp [tset, hj, hlt]
      · simp [tset, hj, hlt, ih]

@[simp] theorem setQueue_setQueue (s : State) (q : Nat) (x y : Queue) : (s.setQueue q x).setQueue q y = s.setQueue q y := by
  simp [State.setQueue]

@[simp] theorem setQueue_ctxAt (s : State) (q : Nat) (x : Queue) (n : Nat) : (s.setQueue q x).ctxAt n = s.ctxAt n := rfl

/-- A queue that is Draining stops where it has no record left (R65). -/
theorem settle_of_draining {x : Queue} (hx : x.state = .draining) :
    x.settle = { x with state := if x.recs = [] then .stopped else .draining } := by
  by_cases h : x.recs = []
  · simp [Queue.settle, hx, h]
  · rw [if_neg h, ← hx]
    simp [Queue.settle, h]

/-! ## The write index (R62) -/

theorem qwin_within {s : State} {q : Nat} {v : W32} (hon : (s.queueAt q).state ≠ .off)
    (hle : (v - (s.queueAt q).qri).toNat ≤ 2 ^ (s.queueAt q).log2) :
    s.qwin q v = s.setQueue q { s.queueAt q with qwi := v } := by
  simp only [State.qwin, beq_iff_eq, hon, if_false, gt_iff_lt, Nat.not_lt.mpr hle]

theorem execQwinWrite_open {s : State} {func q : Nat} (v : W32) (hopen : s.bar0Open = true) (htouch : s.queueTouch func q = true) :
    execQwinWrite func q v s = .next (s.qwin q v) := by
  simp [execQwinWrite, hopen, htouch]

/-! ## The parts of a write of QCTL (R65, R66) -/

section
variable {s : State} {q : Nat}

theorem finishFetch_idle (hidle : (s.queueAt q).fetching = none) : s.finishFetch q = s := by
  simp [State.finishFetch, hidle]

theorem stopQueue_running (hstate : (s.queueAt q).state = .active ∨ (s.queueAt q).state = .faulted) :
    s.stopQueue q = s.setQueue q { s.queueAt q with state := if (s.queueAt q).recs = [] then .stopped else .draining } := by
  obtain hstate | hstate := hstate <;> simp only [State.stopQueue, hstate, settle_of_draining]

theorem resumeQueue_halted (hstate : (s.queueAt q).state = .stopped ∨ (s.queueAt q).state = .faulted) :
    s.resumeQueue q = s.setQueue q { s.queueAt q with state := .active } :=
  if_pos (by simpa using hstate)

/-- EN = 1 has an effect on a queue that is Off only. -/
theorem enableQueue_on (hon : (s.queueAt q).state ≠ .off) : s.enableQueue q true = s := by
  simp [State.enableQueue, hon]

theorem enableQueue_create (hoff : (s.queueAt q).state = .off) (hen : (s.ctxAt (s.queueAt q).ctx).en = true)
    (hlow : 4 ≤ (s.queueAt q).log2) (hhigh : (s.queueAt q).log2 ≤ 16) :
    s.enableQueue q true = s.setQueue q { s.queueAt q with
      state := .active, qri := 0, qwi := 0, qdone := 0, recs := [], lastFailed := false, resetOff := false } := by
  simp [State.enableQueue, hoff, hen, hlow, hhigh]

theorem enableQueue_destroy (hstate : (s.queueAt q).state = .stopped ∨ (s.queueAt q).state = .faulted ∧ (s.queueAt q).recs = []) :
    s.enableQueue q false = s.setQueue q { s.queueAt q with state := .off, recs := [], resetOff := false } :=
  if_pos (by simpa [Queue.infl] using hstate)

/-- A record after QCTL.ABORT: one that is not complete has failed, and is complete where it has no grid (R65). -/
def QRecord.aborted (r : QRecord) : QRecord :=
  if r.complete then r else { r with quiet := true, complete := r.grid.isNone, failed := true, started := true }

theorem aborted_complete {r : QRecord} (hgrid : r.grid = none) : r.aborted.complete = true := by
  by_cases h : r.complete = true <;> simp [QRecord.aborted, h, hgrid]

/-- A queue after QCTL.ABORT, before it settles (R65). -/
def Queue.aborted (x : Queue) : Queue := { x with recs := x.recs.map QRecord.aborted, state := .draining }

theorem aborted_settle_state (x : Queue) : x.aborted.settle.state = if x.recs = [] then .stopped else .draining := by
  rw [settle_of_draining rfl]
  simp [Queue.aborted]

theorem aborted_settle_recs (x : Queue) : x.aborted.settle.recs = x.recs.map QRecord.aborted := by
  rw [settle_of_draining rfl]
  rfl

/-- The records of a queue wait for the distributor no more. -/
def State.unwaited (s : State) (q : Nat) : State :=
  { s with dist := { s.dist with waiting := s.dist.waiting.filter fun w => w.1 != q } }

/-- ABORT of a queue none of whose records has a grid aborts no fault domain. -/
theorem abortQueue_ungridded (hon : (s.queueAt q).state ≠ .off) (hgrid : ∀ r ∈ (s.queueAt q).recs, r.grid = none) :
    s.abortQueue q = (s.unwaited q).setQueue q (s.queueAt q).aborted.settle := by
  have hgrids : ((s.queueAt q).recs.filterMap fun r => if r.complete then none else r.grid) = [] := by
    simpa using fun r hr _ => hgrid r hr
  simp only [State.abortQueue, beq_iff_eq, hon, if_false, hgrids, List.foldl_nil]
  change ((s.unwaited q).setQueue q (s.queueAt q).aborted).setQueue q ((s.setQueue q (s.queueAt q).aborted).queueAt q).settle = _
  rw [setQueue_setQueue, setQueue_queueAt_self]

end

/-! ## A write of QCTL (R66) -/

section
variable {s : State} {q : Nat} {v : W32} (hidle : (s.queueAt q).fetching = none)
include hidle

/-- A write of QCTL to a queue that is not Off and has no fetch in progress: its parts in their order. -/
theorem qctlWrite_on (hon : (s.queueAt q).state ≠ .off) :
    s.qctlWrite q v =
      let s := if v.getLsbD 2 then s.abortQueue q else s
      let s := if v.getLsbD 1 then s.stopQueue q else s
      let s := if v.getLsbD 3 then s.resumeQueue q else s
      s.enableQueue q (v.getLsbD 0) := by
  simp [State.qctlWrite, finishFetch_idle hidle, hon]

theorem qctlWrite_create (hoff : (s.queueAt q).state = .off) (hen : v.getLsbD 0 = true) (hstop : v.getLsbD 1 = false)
    (habort : v.getLsbD 2 = false) (hresume : v.getLsbD 3 = false) (hctx : (s.ctxAt (fld v.toNat 21 16)).en = true)
    (hlow : 4 ≤ (s.queueAt q).log2) (hhigh : (s.queueAt q).log2 ≤ 16) :
    s.qctlWrite q v = s.setQueue q { s.queueAt q with
      ctx := fld v.toNat 21 16, state := .active, qri := 0, qwi := 0, qdone := 0, recs := [], lastFailed := false, resetOff := false } := by
  simp only [State.qctlWrite, finishFetch_idle hidle, hoff, hen, hstop, habort, hresume, beq_self_eq_true, if_true, Bool.false_eq_true,
    if_false]
  rw [enableQueue_create] <;> simp [hctx, hlow, hhigh]

theorem qctlWrite_destroy (hstate : (s.queueAt q).state = .stopped ∨ (s.queueAt q).state = .faulted ∧ (s.queueAt q).recs = [])
    (hen : v.getLsbD 0 = false) (hstop : v.getLsbD 1 = false) (habort : v.getLsbD 2 = false) (hresume : v.getLsbD 3 = false) :
    s.qctlWrite q v = s.setQueue q { s.queueAt q with state := .off, recs := [], resetOff := false } := by
  have hon : (s.queueAt q).state ≠ .off := by
    obtain h | ⟨h, -⟩ := hstate <;> simp [h]
  simp only [qctlWrite_on hidle hon, hen, hstop, habort, hresume, enableQueue_destroy hstate, Bool.false_eq_true, if_false]

variable (hen : v.getLsbD 0 = true)
include hen

theorem qctlWrite_stop (hstate : (s.queueAt q).state = .active ∨ (s.queueAt q).state = .faulted) (hstop : v.getLsbD 1 = true)
    (habort : v.getLsbD 2 = false) (hresume : v.getLsbD 3 = false) :
    s.qctlWrite q v = s.setQueue q { s.queueAt q with state := if (s.queueAt q).recs = [] then .stopped else .draining } := by
  have hon : (s.queueAt q).state ≠ .off := by
    obtain h | h := hstate <;> simp [h]
  simp only [qctlWrite_on hidle hon, hen, hstop, habort, hresume, stopQueue_running hstate, if_true, Bool.false_eq_true, if_false]
  refine enableQueue_on ?_
  rw [setQueue_queueAt_self]
  dsimp only
  split <;> simp

theorem qctlWrite_resume (hstate : (s.queueAt q).state = .stopped ∨ (s.queueAt q).state = .faulted) (hstop : v.getLsbD 1 = false)
    (habort : v.getLsbD 2 = false) (hresume : v.getLsbD 3 = true) :
    s.qctlWrite q v = s.setQueue q { s.queueAt q with state := .active } := by
  have hon : (s.queueAt q).state ≠ .off := by
    obtain h | h := hstate <;> simp [h]
  simp only [qctlWrite_on hidle hon, hen, hstop, habort, hresume, resumeQueue_halted hstate, if_true, Bool.false_eq_true, if_false]
  exact enableQueue_on (by simp)

theorem qctlWrite_abort (hon : (s.queueAt q).state ≠ .off) (hgrid : ∀ r ∈ (s.queueAt q).recs, r.grid = none) (hstop : v.getLsbD 1 = false)
    (habort : v.getLsbD 2 = true) (hresume : v.getLsbD 3 = false) : s.qctlWrite q v = s.abortQueue q := by
  simp only [qctlWrite_on hidle hon, hen, hstop, habort, hresume, if_true, Bool.false_eq_true, if_false]
  refine enableQueue_on ?_
  rw [abortQueue_ungridded hon hgrid, setQueue_queueAt_self, aborted_settle_state]
  split <;> simp

end

/-! ## Writes of QCTL while BAR0 is open (R65, R66) -/

section
variable {s : State} {func q : Nat} {v : W32} (hopen : s.bar0Open = true) (htouch : s.queueTouch func q = true)
include hopen htouch

theorem execQueueCreate_open (hen : v.getLsbD 0 = true) (hoff : (s.queueAt q).state = .off) :
    execQueueCreate func q v s = .next (s.qctlWrite q v) :=
  (if_neg (by simp [hopen])).trans (if_pos (by rw [htouch, hen, hoff]; rfl))

theorem execQueueDestroy_open (hen : v.getLsbD 0 = false) : execQueueDestroy func q v s = .next (s.qctlWrite q v) :=
  (if_neg (by simp [hopen])).trans (if_pos (by rw [htouch, hen]; rfl))

theorem execQueueStop_open (hstop : v.getLsbD 1 = true) : execQueueStop func q v s = .next (s.qctlWrite q v) :=
  (if_neg (by simp [hopen])).trans (if_pos (by rw [htouch, hstop]; rfl))

theorem execQueueAbort_open (habort : v.getLsbD 2 = true) : execQueueAbort func q v s = .next (s.qctlWrite q v) :=
  (if_neg (by simp [hopen])).trans (if_pos (by rw [htouch, habort]; rfl))

theorem execQueueResume_open (hresume : v.getLsbD 3 = true) : execQueueResume func q v s = .next (s.qctlWrite q v) :=
  (if_neg (by simp [hopen])).trans (if_pos (by rw [htouch, hresume]; rfl))

end

/-! ## The reset of a function (R74) -/

/-- A context as it is removed. -/
def Context.removed (c : Context) : Context := { c with en := false, held := [] }

theorem tget?_mem {α : Type} {t : Tbl α} {k : Nat} {x : α} (h : tget? t k = some x) : (k, x) ∈ t := by
  induction t with
  | nil => cases h
  | cons p r ih =>
    obtain ⟨j, y⟩ := p
    by_cases hj : j = k
    · simp_all [tget?]
    · exact List.mem_cons_of_mem _ (ih (by simpa [tget?, hj] using h))

theorem ctxAt_of_tget? {s : State} {k : Nat} {c : Context} (h : tget? s.contexts k = some c) : s.ctxAt k = c := by
  simp [State.ctxAt, tgetD, h]

/-- The removal of contexts removes those that are named, and leaves the others. -/
theorem foldl_forgetCtx_contexts (l : List Nat) {s : State} {k : Nat} {c : Context} (h : tget? s.contexts k = some c) :
    tget? (l.foldl (fun s n => s.forgetCtx n) s).contexts k = some (if k ∈ l then c.removed else c) := by
  induction l generalizing s c with
  | nil => simpa using h
  | cons n l ih =>
    by_cases hn : k = n
    · subst hn
      have hforgot : tget? (s.forgetCtx k).contexts k = some c.removed := by
        rw [← ctxAt_of_tget? h]
        exact tget?_tset_self ..
      have hagain : c.removed.removed = c.removed := rfl
      rw [List.foldl_cons, ih hforgot, hagain]
      simp
    · have hkept : tget? (s.forgetCtx n).contexts k = some c := (tget?_tset_of_ne _ _ hn).trans h
      rw [List.foldl_cons, ih hkept]
      simp [hn]

theorem endFlr_drained {s : State} (func : Nat) (hoff : ∀ e ∈ s.queues, e.2.state = .off) :
    (s.endFlr func).contexts =
      ((tkeys s.contexts fun _ c => func == 0 || c.func == func).foldl (fun s n => s.forgetCtx n) s).contexts := by
  have hno : (s.queues.any fun e => e.2.state != .off && (func == 0 || (s.ctxAt e.2.ctx).func == func)) = false := by
    simpa [List.any_eq_false] using fun k x hx hon => absurd (hoff (k, x) hx) hon
  simp [State.endFlr, hno]

/-- The end of a reset keeps what the removal of a context and a change of the host's side keep. -/
theorem endFlr_keeps {β : Type} (view : State → β) (hforget : ∀ s n, view (State.forgetCtx s n) = view s)
    (hhost : ∀ (s : State) (x : HostLink), view { s with host := x } = view s) (s : State) (func : Nat) :
    view (s.endFlr func) = view s := by
  simp only [State.endFlr]
  split
  · rfl
  · rw [hhost, foldl_keeps view hforget]

theorem endFlr_mem (s : State) (func : Nat) : (s.endFlr func).mem = s.mem :=
  endFlr_keeps State.mem (fun _ _ => rfl) (fun _ _ => rfl) s func

theorem endFlr_queueAt (q : Nat) (s : State) (func : Nat) : (s.endFlr func).queueAt q = s.queueAt q :=
  endFlr_keeps (fun s => s.queueAt q) (fun _ _ => rfl) (fun _ _ => rfl) s func

/-- What a page fault's waiters and the tag table keep: the contexts and the queues. -/
def State.hostTables (s : State) : Tbl Context × Tbl Queue := (s.contexts, s.queues)

theorem walkWait_hostTables (s : State) (w : Walk) (x : Wait) : (s.walkWait w x).hostTables = s.hostTables := by
  simp only [State.walkWait, State.setWait]
  split
  · split <;> rfl
  · rfl

theorem enterTag_hostTables (s : State) (w : Walk) (lane va : Nat) : (s.enterTag w lane va).hostTables = s.hostTables := by
  simp only [State.enterTag]
  split
  · exact walkWait_hostTables ..
  · split <;> exact walkWait_hostTables ..

theorem serveTags_hostTables (s : State) : s.serveTags.hostTables = s.hostTables := by
  refine foldl_keeps State.hostTables (fun s w => ?_) _ _
  split
  · split
    · exact enterTag_hostTables ..
    · rfl
  · rfl

/-- A reset of a function that finds every queue Off removes the function's contexts at once. -/
theorem flr_contexts {s : State} {func k : Nat} {c : Context} (hfunc : func ≠ 0) (hoff : ∀ e ∈ s.queues, e.2.state = .off)
    (hc : tget? s.contexts k = some c) (hone : ∀ e ∈ s.contexts, e.1 = k → e.2 = c) :
    tget? (s.flr func).contexts k = some (if c.func = func then c.removed else c) := by
  have hqs : (tkeys s.queues fun _ q => q.state != .off && (func == 0 || (s.ctxAt q.ctx).func == func)) = [] := by
    simpa [tkeys] using fun k x hx hon => absurd (hoff (k, x) hx) hon
  have hkey : k ∈ tkeys s.contexts (fun _ c => func == 0 || c.func == func) ↔ c.func = func := by
    constructor
    · intro hk
      obtain ⟨e, he, rfl⟩ := List.mem_map.mp hk
      obtain ⟨hmem, hmine⟩ := List.mem_filter.mp he
      simpa [hfunc, hone e hmem rfl] using hmine
    · exact fun hmine => List.mem_map.mpr ⟨(k, c), List.mem_filter.mpr ⟨tget?_mem hc, by simp [hmine]⟩, rfl⟩
  simp only [State.flr, hqs, List.foldl_nil]
  set served := State.serveTags _
  have htables : served.hostTables = s.hostTables := serveTags_hostTables _
  have hcontexts : served.contexts = s.contexts := congrArg Prod.fst htables
  have hqueues : served.queues = s.queues := congrArg Prod.snd htables
  rw [endFlr_drained func (by rwa [hqueues]), foldl_forgetCtx_contexts _ (by rwa [hcontexts]), hcontexts]
  simp only [hkey]

theorem execFlrQueueDestroy_drained {s : State} {q : Nat} (hreset : (s.queueAt q).resetOff = true) (hrecs : (s.queueAt q).recs = [])
    (hstate : (s.queueAt q).state = .stopped ∨ (s.queueAt q).state = .faulted) :
    execFlrQueueDestroy q s = .next (s.host.flr.foldl (fun s f => s.endFlr f)
      (s.setQueue q { s.queueAt q with state := .off, recs := [], resetOff := false })) := by
  have hdestroy := enableQueue_destroy (s := s) (q := q) (hstate.imp_right fun h => ⟨h, hrecs⟩)
  simp [execFlrQueueDestroy, hreset, hrecs, hstate, hdestroy, Queue.infl]

/-! ## The statement -/

/-- Settles O54: a write of QWIN or QCTL reduces to the parts that its bits name, and a reset to the contexts that it removes and to the
queue that it destroys. -/
theorem queuesChangeState : Obligations.QueuesChangeState := by
  unfold Obligations.QueuesChangeState
  refine ⟨?writes, ?reset, ?drained⟩
  case writes =>
    intro s func q v hopen htouch x
    refine ⟨fun hon hle => ?_, fun hidle hoff hen hstop habort hresume hctx hlow hhigh => ?_,
      fun hidle hstate hen hstop habort hresume => ?_, fun hidle hstate hen hstop habort hresume => ?_,
      fun hidle hstate hgrid hen hstop habort hresume => ?_, fun hidle hstate hen hstop habort hresume => ?_⟩
    · exact (execQwinWrite_open v hopen htouch).trans (by rw [qwin_within hon hle])
    · exact (execQueueCreate_open hopen htouch hen hoff).trans
        (by rw [qctlWrite_create hidle hoff hen hstop habort hresume hctx hlow hhigh])
    · exact (execQueueDestroy_open hopen htouch hen).trans (by rw [qctlWrite_destroy hidle hstate hen hstop habort hresume])
    · exact (execQueueStop_open hopen htouch hstop).trans (by rw [qctlWrite_stop hidle hen hstate hstop habort hresume])
    · have hon : x.state ≠ .off := by simp [hstate]
      refine ⟨_, execQueueAbort_open hopen htouch habort, ?_⟩
      rw [qctlWrite_abort hidle hen hon hgrid hstop habort hresume, abortQueue_ungridded hon hgrid, setQueue_queueAt_self,
        aborted_settle_state, aborted_settle_recs]
      refine ⟨rfl, rfl, List.length_map .., fun r hr => ?_⟩
      obtain ⟨r₀, hr₀, rfl⟩ := List.mem_map.mp hr
      exact aborted_complete (hgrid r₀ hr₀)
    · exact (execQueueResume_open hopen htouch hresume).trans (by rw [qctlWrite_resume hidle hen hstate hstop habort hresume])
  case reset =>
    intro s vf hvf
    exact ⟨if_pos hvf, fun hoff k c hc hone => flr_contexts (Nat.succ_ne_zero vf) hoff hc hone⟩
  case drained =>
    intro s q hreset hrecs hstate
    refine ⟨_, execFlrQueueDestroy_drained hreset hrecs hstate, ?_, ?_⟩
    · exact foldl_keeps State.mem endFlr_mem _ _
    · refine (congrArg Queue.state (foldl_keeps (fun s : State => s.queueAt q) (endFlr_queueAt q) _ _)).trans ?_
      rw [setQueue_queueAt_self]

end Sys2Proof.Machine

/-! Fetch, start, polls and completion of queue records (R64, R67 to R70), and LAUNCH (R412). -/
namespace Sys2Proof.Machine

/-! ## What an access at its home leaves alone (R157 to R159, R174) -/

/-- A state without what an access at its home may change: memory, slices, L1s, event counters, messages, DRAM controllers, and the note
of what the access still lacks. -/
def State.offHome (s : State) : State :=
  { s with mem := [], slices := [], cores := [], counters := [], msgs := [], ids := 0, controllers := [], needs := none }

theorem foldl_offHome {α : Type} {f : State → α → State} (h : ∀ s a, (f s a).offHome = s.offHome) (l : List α) (s : State) :
    (l.foldl f s).offHome = s.offHome := foldl_keeps State.offHome h l s

@[simp] theorem ite_offHome (c : Prop) [Decidable c] (s t : State) : (if c then s else t).offHome = if c then s.offHome else t.offHome :=
  apply_ite ..

@[simp] theorem setSlice_offHome (s : State) (n : Nat) (x : Slice) : (s.setSlice n x).offHome = s.offHome := rfl

@[simp] theorem rouseSlice_offHome (s : State) (n : Nat) : (s.rouseSlice n).offHome = s.offHome := by
  simp only [State.rouseSlice, State.tally]
  split
  · split <;> rfl
  · rfl

@[simp] theorem l1Drop_offHome (s : State) (core : Nat) (p : L1Line → Bool) : (s.l1Drop core p).offHome = s.offHome := by
  simp only [State.l1Drop]
  split <;> rfl

@[simp] theorem l1Map_offHome (s : State) (core : Nat) (p : L1Line → Bool) (f : L1Line → L1Line) :
    (s.l1Map core p f).offHome = s.offHome := by
  simp only [State.l1Map]
  split <;> rfl

@[simp] theorem dropCopies_offHome (s : State) (cluster line : Nat) (region : Bool) (exempt : Option Nat) :
    (s.dropCopies cluster line region exempt).offHome = s.offHome :=
  foldl_offHome (fun s i => by simp) _ s

theorem allocate_offHome (s : State) (n line : Nat) (version : Bool) : (s.allocate n line version).offHome = s.offHome := by
  simp only [State.allocate]
  split
  · rfl
  · split
    · rfl
    · exact feed_keeps State.offHome (fun _ _ _ => rfl) ..

theorem homeStore_offHome (s : State) (pa : Nat) (bs : List Byte) : (s.homeStore pa bs).offHome = s.offHome :=
  foldl_offHome (fun s _ => (setSlice_offHome ..).trans (allocate_offHome s ..)) _ { s with mem := cwrite s.mem pa bs }

theorem applyThrough_offHome (s : State) (id acc line core : Nat) (cells : List (Nat × List Byte)) :
    (s.applyThrough id acc line core cells).offHome = s.offHome :=
  foldl_offHome (fun s _ => homeStore_offHome s ..) cells s

@[simp] theorem drainLine_offHome (s : State) (line : Nat) : (s.drainLine line).offHome = s.offHome := by
  refine foldl_offHome (fun s ⟨id, m⟩ => ?_) _ s
  dsimp only
  split
  · rw [ite_offHome, applyThrough_offHome, ite_self]
  · rfl

theorem settleLine_offHome (s : State) (line : Nat) (write : Bool) : (s.settleLine line write).offHome = s.offHome := by
  simp only [State.settleLine, ite_offHome, setSlice_offHome, foldl_offHome, dropCopies_offHome, implies_true, ite_self]
  split
  · simp [foldl_offHome]
  · simp

theorem reach_offHome (s : State) (pa n : Nat) (write : Bool) : (s.reach pa n write).offHome = s.offHome := by
  simp only [State.reach]
  split <;> rfl

@[simp] theorem writeNow_offHome (s : State) (pa : Nat) (bs : List Byte) : (s.writeNow pa bs).offHome = s.offHome := by
  rw [State.writeNow, homeStore_offHome, State.claimRange, foldl_offHome (fun s l => settleLine_offHome s l true), reach_offHome]

/-- A translation changes no more than its access to the page table does (R271). -/
theorem xlateTouch_offHome (s : State) (ctx va : Nat) (write : Bool) : (s.xlateTouch ctx va write).offHome = s.offHome := by
  simp only [State.xlateTouch]
  split
  · rfl
  · split
    · simp [State.touchPte]
    · rfl

theorem xlateTouch_time (s : State) (ctx va : Nat) (write : Bool) : (s.xlateTouch ctx va write).time = s.time :=
  show (s.xlateTouch ctx va write).offHome.time = s.offHome.time from congrArg State.time (xlateTouch_offHome ..)

/-! ## Fetch (R64, R65, R67) -/

section
variable {s : State} {q : Nat}

theorem execRecordFetch_ready (hstate : (s.queueAt q).state = .active) (hidle : (s.queueAt q).fetching = none)
    (hmore : (s.queueAt q).qri ≠ (s.queueAt q).qwi) (hroom : (s.queueAt q).recs.length < 16) (ht3 : s.power.t3 = false) :
    execRecordFetch q s = .next (s.attempt none fun u => u.issueFetch q) :=
  if_pos (by simp [hstate, hidle, hmore, hroom, ht3, Queue.infl])

section
variable {x : Queue} {v : State} (hx : s.queueAt q = x) (hv : s.atsAsk x.ctx x.nextAddr false = v)
include hx hv

theorem issueFetch_device {pa : Nat} (hplace : v.xlateNow x.ctx x.nextAddr false = .ok (.dev pa)) :
    s.issueFetch q = (v.xlateTouch x.ctx x.nextAddr false).setQueue q
      { x with fetching := some ⟨(v.xlateTouch x.ctx x.nextAddr false).time, some (.dev pa)⟩ } := by
  simp only [State.issueFetch, hx, hv, hplace, xlateTouch_time]

theorem issueFetch_host {a : Nat} (hplace : v.xlateNow x.ctx x.nextAddr false = .ok (.host a)) :
    s.issueFetch q = if v.tagsOut (s.ctxAt x.ctx).func then v.hold
      else (v.setQueue q { x with fetching := some ⟨v.time, some (.host a)⟩ }).hostAsk
        [{ func := (s.ctxAt x.ctx).func, owner := .fetch q, msg := .read (s.ctxAt x.ctx).func (s.ctxAt x.ctx).pasid a 64 }] := by
  simp only [State.issueFetch, hx, hv, hplace]

theorem issueFetch_untranslated {e : XFault} (hplace : v.xlateNow x.ctx x.nextAddr false = .error e) :
    s.issueFetch q = v.setQueue q { x with fetching := some ⟨v.time, none⟩ } := by
  simp only [State.issueFetch, hx, hv, hplace]

end

/-- The next record's address, as a queue's fault records it. -/
theorem ofNat_nextAddr (x : Queue) : BitVec.ofNat 64 x.nextAddr = x.qbase + 64 * BitVec.ofNat 64 (x.qri.toNat % 2 ^ x.log2) := by
  rw [Queue.nextAddr, BitVec.ofNat_toNat, BitVec.setWidth_eq]

theorem finishFetch_untranslated {since : Nat} (hfetch : (s.queueAt q).fetching = some ⟨since, none⟩)
    (hstate : (s.queueAt q).state = .active) :
    s.finishFetch q =
      (s.setQueue q { s.queueAt q with fetching := none }).queueFault q 1 (BitVec.ofNat 64 (s.queueAt q).nextAddr) := by
  simp [State.finishFetch, hfetch, hstate, ofNat_nextAddr]

section
variable {pa since : Nat} {u : State} {bs : List Byte} (hfetch : (s.queueAt q).fetching = some ⟨since, some (.dev pa)⟩)
  (hread : (s.setQueue q { s.queueAt q with fetching := none }).readNow pa 64 = (u, bs))
include hfetch hread

theorem finishFetch_good (hok : u.recordOk (s.queueAt q).ctx bs = true) :
    s.finishFetch q = u.setQueue q { u.queueAt q with
      qri := (u.queueAt q).qri + 1, recs := (u.queueAt q).recs ++ [{ index := (u.queueAt q).qri, bytes := bs }] } := by
  simp only [State.finishFetch, hfetch, hread, hok, if_true]

theorem finishFetch_bad (hbad : u.recordOk (s.queueAt q).ctx bs = false) (hstate : (s.queueAt q).state = .active) :
    s.finishFetch q = u.queueFault q 2 (BitVec.ofNat 64 (s.queueAt q).nextAddr) := by
  simp only [State.finishFetch, hfetch, hread, hbad, ofNat_nextAddr, Bool.false_eq_true, if_false]
  exact if_pos (by simp [hstate])

end

/-! ## Start and poll (R68, R69, R122) -/

/-- The records of a record's index have started. -/
def State.begun (s : State) (q : Nat) (r : QRecord) : State :=
  s.setQueue q { s.queueAt q with recs := (s.queueAt q).recs.map fun y => if y.index == r.index then { y with started := true } else y }

section
variable {i : Nat} {r : QRecord} {prev : Option QRecord} (hnext : (s.queueAt q).nextRec = some (i, r, prev))
include hnext

section
variable (hon : (s.queueAt q).state ≠ .off) (hord : s.ordOk (s.queueAt q) i r = true) (hnew : s.dist.awaits q r.index.toNat = false)
  (hprev : (s.queueAt q).predFailed r prev = false) (hword : r.launch.waddr = 0 ∨ r.waitOk = true)
include hon hord hnew hprev hword

/-- A record whose conditions hold starts as its kind says: a NOP completes, a GRID waits for the distributor. -/
theorem execRecordStart_ready :
    execRecordStart q s = if r.launch.kind = 0 then .next ((s.begun q r).recordDone q r.index.toNat false false)
      else .next { s with dist := s.dist.await q r.index.toNat s.bclks } := by
  have hgo : (r.launch.waddr != 0 && !r.waitOk) = false := by
    obtain h | h := hword <;> simp [h]
  have hopen : ((s.queueAt q).state == .off || !s.ordOk (s.queueAt q) i r) = false := by simp [hon, hord]
  simp only [execRecordStart, hnext, hopen, hnew, hprev, hgo, State.begun, Bool.false_eq_true, if_false, beq_iff_eq]

end

theorem execWaitAddressPoll_first (hpolled : r.polled = none) :
    execWaitAddressPoll q s = .next (s.attempt none fun u => u.poll q) := by
  simp only [execWaitAddressPoll, hnext, hpolled]

theorem poll_read {u : State} {bs : List Byte} (hword : r.launch.waddr ≠ 0) (hwait : r.waitOk = false)
    (hord : s.ordOk (s.queueAt q) i r = true) (hread : s.unitRead (s.queueAt q).ctx r.launch.waddr 8 = (u, .ok bs)) :
    s.poll q = u.setQueue q { u.queueAt q with recs := (u.queueAt q).recs.map fun y =>
      if y.index == r.index then { y with polled := some u.time, waitOk := decide (r.launch.wval ≤ leNat bs) } else y } := by
  have hgo : (r.launch.waddr == 0 || r.waitOk || !s.ordOk (s.queueAt q) i r) = false := by simp [hword, hwait, hord]
  simp only [State.poll, hnext, hgo, hread, Bool.false_eq_true, if_false, ge_iff_le]

end

/-- A record that completes well raises no fault of its queue (R65). -/
theorem recordDone_good (s : State) (q index : Nat) (raise : Bool) :
    s.recordDone q index false raise = s.setQueue q { s.queueAt q with recs := (s.queueAt q).recs.map fun r =>
      if r.index.toNat == index then { r with complete := true, failed := false } else r } := by
  simp [State.recordDone]

theorem begun_recordDone_recs {r y : QRecord} {raise : Bool}
    (hy : y ∈ (((s.begun q r).recordDone q r.index.toNat false raise).queueAt q).recs) (hindex : y.index = r.index) :
    y.started = true ∧ y.complete = true ∧ y.failed = false := by
  rw [recordDone_good, setQueue_queueAt_self, State.begun, setQueue_queueAt_self, List.map_map] at hy
  obtain ⟨z, -, rfl⟩ := List.mem_map.mp hy
  by_cases hz : z.index = r.index
  · simp [hz]
  · have hother : z.index.toNat ≠ r.index.toNat := fun h => hz (BitVec.eq_of_toNat_eq h)
    simp [hz, hother] at hindex

/-! ## Completion actions (R70) -/

theorem execRecordCompletionActions_complete {r : QRecord} {rest : List QRecord} (hrecs : (s.queueAt q).recs = r :: rest)
    (hdone : r.complete = true) : execRecordCompletionActions q s = .next (s.attempt none fun u => u.complete q r rest) := by
  simp only [execRecordCompletionActions, hrecs, hdone, if_true]

theorem complete_unsignalled {r : QRecord} (rest : List QRecord) (hsig : r.launch.sigw = false) :
    let u := s.setQueue q ({ s.queueAt q with recs := rest, qdone := (s.queueAt q).qdone + 1, lastFailed := r.failed } : Queue).settle
    s.complete q r rest = if !r.failed && r.launch.irq then u.msix (s.queueAt q).ctx r.launch.msiv else u := by
  simp [State.complete, hsig]

end

/-! ## LAUNCH (R412) -/

theorem execLaunchAppend_ready {s : State} {m : Nat} {x : Msg} {team q at' core slot entry : Nat}
    (hmsg : s.Has m x (.launch team q at' core slot entry)) :
    execLaunchAppend m s = .next (s.attempt none fun u => u.launched m team q at' core slot entry x.sent) := by
  obtain ⟨hget, hkind, hready⟩ := hmsg
  simp [execLaunchAppend, hget, hkind, hready]

theorem launched_answered {s u : State} {m team q at' core slot entry st : Nat} {g : Group} {f : Frag} {d : Code} (sent : Nat)
    (hlive : (s.teamAt team).state.over = false) (happ : (s.dropMsg m).append team q at' = (u, st))
    (hfrag : u.frag? core slot entry = some (g, f)) (hwait : f.wait = .status m d) :
    s.launched m team q at' core slot entry sent = u.answer core slot entry d false st (max u.time (sent + fixedCycles 480)) := by
  have hlive' : ((s.dropMsg m).teamAt team).state.over = false := hlive
  simp [State.launched, hlive', happ, hfrag, hwait]

section
variable {s : State} {team q : Nat} (at' : Nat)

theorem append_refused (hno : (s.queueAt q).state = .off ∨ (s.queueAt q).ctx ≠ (s.teamAt team).ctx) : s.append team q at' = (s, 2) :=
  if_pos (by simpa using hno)

theorem append_written {u : State} (hon : (s.queueAt q).state ≠ .off) (hctx : (s.queueAt q).ctx = (s.teamAt team).ctx)
    (hroom : ((s.queueAt q).qwi + 1 - (s.queueAt q).qri).toNat ≤ 2 ^ (s.queueAt q).log2)
    (hwrite : s.unitWrite (s.queueAt q).ctx ((s.queueAt q).qbase.toNat + 64 * ((s.queueAt q).qwi.toNat % 2 ^ (s.queueAt q).log2))
      (cread (s.teamAt team).scratch at' 64) = (u, none)) :
    s.append team q at' = (u.setQueue q { u.queueAt q with qwi := (s.queueAt q).qwi + 1 }, 0) := by
  have hgo : ((s.queueAt q).state == .off || (s.queueAt q).ctx != (s.teamAt team).ctx) = false := by simp [hon, hctx]
  simp only [State.append, hgo, hwrite, gt_iff_lt, Nat.not_lt.mpr hroom, Bool.false_eq_true, if_false]

end

/-! ## The statement -/

/-- Settles O55: each event reduces to its attempt, and each attempt, where its conditions hold, to the queue that it leaves. -/
theorem recordsProceed : Obligations.RecordsProceed := by
  unfold Obligations.RecordsProceed
  refine ⟨fun s q => execRecordFetch_ready, ?issue, fun _ _ => rfl, ?fetched, fun s q since => finishFetch_untranslated, ?start, ?poll,
    fun s q r rest => execRecordCompletionActions_complete, fun s q r rest => complete_unsignalled rest,
    fun s m x team q at' core slot entry => execLaunchAppend_ready, ?answered, ?appended⟩
  case issue =>
    exact fun s q => ⟨fun pa => issueFetch_device rfl rfl, fun a => issueFetch_host rfl rfl, fun e => issueFetch_untranslated rfl rfl⟩
  case fetched =>
    intro s q pa since x u hfetch
    exact ⟨finishFetch_good hfetch rfl, finishFetch_bad hfetch rfl⟩
  case start =>
    intro s q i r prev hnext hon hord hnew hprev hword
    have hexec := execRecordStart_ready hnext hon hord hnew hprev hword
    refine ⟨fun hkind => hexec.trans (if_neg hkind),
      fun hkind => ⟨_, hexec.trans (if_pos hkind), ?_, fun y hy hindex => begun_recordDone_recs hy hindex⟩⟩
    rw [recordDone_good]
    rfl
  case poll =>
    exact fun s q i r prev hnext hpolled => ⟨execWaitAddressPoll_first hnext hpolled,
      fun u bs hword hwait hord hread => poll_read hnext hword hwait hord hread⟩
  case answered =>
    exact fun s u m team q at' core slot entry sent st g f d hlive happ hfrag hwait =>
      launched_answered sent hlive happ hfrag hwait
  case appended => exact fun s u team q at' => ⟨append_refused at', append_written at'⟩

end Sys2Proof.Machine

/-! # The canonical form of memory at reset -/

namespace Sys2Proof.Machine

/-- Settles O39: the memory at reset is the empty one, and no team holds a scratchpad yet. -/
theorem memoryCanonicalAtReset : Obligations.MemoryCanonicalAtReset := by
  unfold Obligations.MemoryCanonicalAtReset
  have hmem : Memory.wf State.reset.mem = true := rfl
  have hteams : State.reset.teams = [] := rfl
  refine ⟨hmem, ?_⟩
  rw [hteams]
  exact fun _ he => absurd he List.not_mem_nil

end Sys2Proof.Machine

/-! # Steady states

Memory is written in few places: at a home, by a block of a commit, by a page of a checkpoint and by the resets. All the
rest of the machine only has to be followed through its calls: one lemma per function says that the function keeps a steady
state, and cites those of the functions that it calls. -/

namespace Sys2Proof.Machine

/-- What most of the machine keeps: the canonical form of memory, which is claimed where `w` holds, and a property `r` of the
power state. It unfolds on sight, so that a state which differs in other fields only is seen to be steady with the first. -/
@[reducible] def State.Steady (w : Prop) (r : Power → Prop) (s : State) : Prop := (w → Memory.wf s.mem = true) ∧ r s.power

/-- No property of the power state: what is said of the operations that change it. -/
def anyPower : Power → Prop := fun _ => True

/-- The state that an outcome goes on with is steady. -/
def Steadies (w : Prop) (r : Power → Prop) (o : Host.Outcome State Fault Refusal) : Prop := ∀ t, o = .next t → t.Steady w r

/-- The state that an instruction ends in is steady. -/
def Done.Steady (w : Prop) (r : Power → Prop) : Done → Prop
  | .issued s _ _ => s.Steady w r
  | .stall s => s.Steady w r

/-- What an instruction does, where it does not trap, leaves the state steady. -/
def DoneSteady (w : Prop) (r : Power → Prop) (x : Except Trap Done) : Prop := ∀ d, x = .ok d → d.Steady w r

variable {s : State} {W : Prop} {R : Power → Prop}

theorem next_steadies (h : s.Steady W R) : Steadies W R (.next s) := by
  rintro _ ⟨⟩
  exact h

theorem issued_doneSteady {g : Group} {uni : Bool} (h : s.Steady W R) : DoneSteady W R (.ok (.issued s g uni)) := by
  rintro _ ⟨⟩
  exact h

theorem stall_doneSteady (h : s.Steady W R) : DoneSteady W R (.ok (.stall s)) := by
  rintro _ ⟨⟩
  exact h

theorem error_doneSteady {x : Trap} : DoneSteady W R (.error x) := by
  rintro _ ⟨⟩

theorem bind_doneSteady {α : Type} {x : Except Trap α} {f : α → Except Trap Done} (h : ∀ a, DoneSteady W R (f a)) :
    DoneSteady W R (x >>= f) := by
  cases x with
  | error => exact error_doneSteady
  | ok a => exact h a

section
variable {c : Prop} [Decidable c]

theorem ite_steady {t : State} (hs : s.Steady W R) (ht : t.Steady W R) : (if c then s else t).Steady W R := by split <;> assumption

theorem ite_fst_steady {α : Type} {p q : State × α} (hp : p.1.Steady W R) (hq : q.1.Steady W R) : (if c then p else q).1.Steady W R := by
  split <;> assumption

theorem ite_snd_steady {α : Type} {p q : α × State} (hp : p.2.Steady W R) (hq : q.2.Steady W R) : (if c then p else q).2.Steady W R := by
  split <;> assumption

theorem ite_steadies {x y : Host.Outcome State Fault Refusal} (hx : Steadies W R x) (hy : Steadies W R y) :
    Steadies W R (if c then x else y) := by
  split <;> assumption

theorem ite_doneSteady {x y : Except Trap Done} (hx : DoneSteady W R x) (hy : DoneSteady W R y) : DoneSteady W R (if c then x else y) := by
  split <;> assumption

end

section
variable {α β : Type} {l : List α}

theorem foldl_steady {f : State → α → State} (hf : ∀ t a, t.Steady W R → (f t a).Steady W R) (h : s.Steady W R) :
    (l.foldl f s).Steady W R := List.foldlRecOn l f h fun t ht a _ => hf t a ht

theorem foldl_fst_steady {f : State × β → α → State × β} {p : State × β} (hf : ∀ q a, q.1.Steady W R → (f q a).1.Steady W R)
    (h : p.1.Steady W R) : (l.foldl f p).1.Steady W R :=
  List.foldlRecOn (motive := fun q => q.1.Steady W R) l f h fun q hq a _ => hf q a hq

end

theorem steady_of_fst {α : Type} {p : State × α} {t : State} {a : α} (h : p.1.Steady W R) (hp : p = (t, a)) : t.Steady W R := by
  rwa [hp] at h

theorem steady_of_snd {α : Type} {p : α × State} {t : State} {a : α} (h : p.2.Steady W R) (hp : p = (a, t)) : t.Steady W R := by
  rwa [hp] at h

end Sys2Proof.Machine

/-! # Memory through a step: the caches, the directory and the controllers -/

namespace Sys2Proof.Machine

variable {s : State} {W : Prop} {R : Power → Prop}

/-! ## The parts of the machine -/

theorem setSlice_steady {n x} (h : s.Steady W R) : (s.setSlice n x).Steady W R := h

theorem setCluster_steady {n x} (h : s.Steady W R) : (s.setCluster n x).Steady W R := h

theorem setCore_steady {n c} (h : s.Steady W R) : (s.setCore n c).Steady W R := h

theorem setTeam_steady {n t} (h : s.Steady W R) : (s.setTeam n t).Steady W R := h

theorem setGrid_steady {n g} (h : s.Steady W R) : (s.setGrid n g).Steady W R := h

theorem setTask_steady {n t} (h : s.Steady W R) : (s.setTask n t).Steady W R := h

theorem setCtx_steady {n c} (h : s.Steady W R) : (s.setCtx n c).Steady W R := h

theorem setQueue_steady {n q} (h : s.Steady W R) : (s.setQueue n q).Steady W R := h

theorem foldCycles_steady {cluster} (h : s.Steady W R) : (s.foldCycles cluster).Steady W R :=
  foldl_steady (fun _ _ h1 => setCore_steady h1) h

/-! ## Event counters -/

theorem tally_steady {block src n} (h : s.Steady W R) : (s.tally block src n).Steady W R := ite_steady h h

/-! ## Where an address lives -/

theorem rouseSlice_steady {n} (h : s.Steady W R) : (s.rouseSlice n).Steady W R := ite_steady (tally_steady (setSlice_steady h)) h

/-! ## Messages -/

theorem fresh_steady (h : s.Steady W R) : s.fresh.2.Steady W R := h

/-! ## Accounts -/

theorem charge_steady {grid res n} (h : s.Steady W R) : (s.charge grid res n).Steady W R := by
  unfold State.charge
  split
  · exact h
  · refine foldl_steady (fun _ _ h1 => ?_) h
    split
    · exact ite_steady h1 h1
    · exact h1

/-! ## Messages -/

theorem sendOn_steady {avenue kind core slice toSlice held} (h : s.Steady W R) :
    (s.sendOn avenue kind core slice toSlice held).Steady W R :=
  fresh_steady h

theorem send_steady {kind core slice toSlice held} (h : s.Steady W R) :
    (s.send kind core slice toSlice held).Steady W R :=
  sendOn_steady h

theorem sendBase_steady {kind source slice} (h : s.Steady W R) : (s.sendBase kind source slice).Steady W R := fresh_steady h

theorem dropMsg_steady {id} (h : s.Steady W R) : (s.dropMsg id).Steady W R := h

/-! ## L1 caches -/

theorem l1Drop_steady {core p} (h : s.Steady W R) : (s.l1Drop core p).Steady W R := ite_steady (setCore_steady h) h

theorem evictLine_steady {core x} (h : s.Steady W R) : (s.evictLine core x).Steady W R := by
  unfold State.evictLine
  extract_lets +onlyGivenNames home k s1
  have hs1 : s1.Steady W R := setCore_steady h
  split
  · exact send_steady hs1
  · exact ite_steady (ite_steady hs1 (send_steady hs1)) (ite_steady (send_steady hs1) hs1)

theorem installLine_steady {core x} (h : s.Steady W R) : (s.installLine core x).Steady W R := by
  unfold State.installLine
  extract_lets +onlyGivenNames n k
  split
  · exact setCore_steady h
  · split
    · exact h
    · exact setCore_steady (evictLine_steady h)

theorem l1Map_steady {core p f} (h : s.Steady W R) : (s.l1Map core p f).Steady W R := ite_steady (setCore_steady h) h

theorem touchLine_steady {core line task} (h : s.Steady W R) : (s.touchLine core line task).Steady W R := l1Map_steady h

theorem installClean_steady {core line sector} (h : s.Steady W R) : (s.installClean core line sector).Steady W R := by
  unfold State.installClean
  extract_lets +onlyGivenNames n
  split
  · exact l1Map_steady h
  · exact installLine_steady h

/-! ## Memory controllers -/

theorem setController_steady {mc c} (h : s.Steady W R) : (s.setController mc c).Steady W R := h

theorem feed_steady {mc fuel} (h : s.Steady W R) : (s.feed mc fuel).Steady W R := by
  have hmem := feed_keeps State.mem (fun _ _ _ => rfl) s mc fuel
  have hpower := feed_keeps State.power (fun _ _ _ => rfl) s mc fuel
  rwa [State.Steady, hmem, hpower]

theorem allocate_steady {n line version} (h : s.Steady W R) : (s.allocate n line version).Steady W R := by
  unfold State.allocate
  extract_lets +onlyGivenNames sl
  split
  · exact h
  · exact ite_steady (setSlice_steady h) (feed_steady (setSlice_steady h))

/-! ## Values -/

theorem homeStore_steady {pa bs} (h : s.Steady W R) : (s.homeStore pa bs).Steady W R :=
  foldl_steady (fun _ _ h1 => setSlice_steady (allocate_steady h1)) (⟨fun hw => cwrite_wf _ _ _ (h.1 hw), h.2⟩)

/-! ## Accesses -/

theorem mapLanes_steady {acc f} (h : s.Steady W R) : (s.mapLanes acc f).Steady W R := h

theorem applyLanes_steady {acc line} (h : s.Steady W R) : (s.applyLanes acc line).Steady W R := by
  unfold State.applyLanes
  split
  · exact h
  · refine foldl_steady (fun _ _ h1 => ?_) h
    extract_lets +onlyGivenNames lane
    have hlane : ∀ u x1, u.Steady W R → (lane u x1).Steady W R := fun u x1 hu => mapLanes_steady hu
    split
    · split
      · exact h1
      · split
        · exact h1
        · exact hlane _ _ (homeStore_steady h1)
        · exact ite_steady (hlane _ _ h1) (hlane _ _ (homeStore_steady h1))
    · exact h1

theorem modGroup_steady {guid f} (h : s.Steady W R) : (s.modGroup guid f).Steady W R := by
  unfold State.modGroup
  split
  · exact h
  · split
    · exact setTeam_steady h
    · exact h

theorem leaveStore_steady {acc} (h : s.Steady W R) : (s.leaveStore acc).Steady W R := by
  unfold State.leaveStore
  split
  · exact h
  · exact ite_steady (modGroup_steady h) h

/-! ## Recalls -/

theorem applyThrough_steady {id acc line core cells} (h : s.Steady W R) : (s.applyThrough id acc line core cells).Steady W R :=
  send_steady (dropMsg_steady (foldl_steady (fun _ _ h1 => homeStore_steady h1) h))

theorem drainLine_steady {line} (h : s.Steady W R) : (s.drainLine line).Steady W R := by
  unfold State.drainLine
  refine foldl_steady (fun _ _ h1 => ?_) h
  split
  split
  · exact ite_steady (applyThrough_steady h1) h1
  · exact h1

theorem dropCopies_steady {cluster line region exempt} (h : s.Steady W R) : (s.dropCopies cluster line region exempt).Steady W R :=
  foldl_steady (fun _ _ h1 => ite_steady h1 (l1Drop_steady h1)) h

theorem settleLine_steady {line write} (h : s.Steady W R) : (s.settleLine line write).Steady W R := by
  unfold State.settleLine
  extract_lets +onlyGivenNames home s1
  have hs1 : s1.Steady W R := drainLine_steady (rouseSlice_steady h)
  extract_lets +onlyGivenNames sl e region s2
  have hs2 : s2.Steady W R := by
    unfold s2
    split
    · extract_lets +onlyGivenNames s3
      have hs3 : s3.Steady W R := foldl_steady (fun _ _ h2 => l1Map_steady h2) hs1
      exact setSlice_steady (ite_steady (foldl_steady (fun _ _ h3 => drainLine_steady h3) hs3) hs3)
    · exact hs1
  split
  · exact hs2
  · extract_lets +onlyGivenNames sl1 e1 s3
    have hs3 : s3.Steady W R := foldl_steady (fun _ _ h3 => dropCopies_steady h3) hs2
    exact ite_steady (setSlice_steady hs3) hs3

/-! ## Accesses of the units of the base die -/

theorem wakeSlice_steady {slice} (h : s.Steady W R) : (s.wakeSlice slice).Steady W R := by
  unfold State.wakeSlice
  extract_lets +onlyGivenNames sl
  split
  · exact h
  · exact setSlice_steady h

theorem reach_steady {pa n write} (h : s.Steady W R) : (s.reach pa n write).Steady W R := by
  unfold State.reach
  split <;> exact h

theorem hold_steady (h : s.Steady W R) : s.hold.Steady W R := h

theorem begin_steady {payer n} (h : s.Steady W R) : (s.begin payer n).Steady W R := by
  unfold State.begin
  split
  · exact ite_steady (wakeSlice_steady h) h
  · exact ite_steady h (feed_steady (setSlice_steady (allocate_steady h)))
  · exact h

theorem attempt_steady {payer f} (hf : ∀ t, t.Steady W R → (f t).Steady W R) (h : s.Steady W R) : (s.attempt payer f).Steady W R := by
  unfold State.attempt
  extract_lets +onlyGivenNames t
  split
  · exact foldl_steady (fun _ _ h1 => begin_steady h1) h
  · exact ite_steady h (hf _ h)

theorem readNow_steady {pa n} (h : s.Steady W R) : (s.readNow pa n).1.Steady W R :=
  foldl_steady (fun _ _ h1 => settleLine_steady h1) (reach_steady h)

theorem claimRange_steady {pa n} (h : s.Steady W R) : (s.claimRange pa n).Steady W R :=
  foldl_steady (fun _ _ h1 => settleLine_steady h1) (reach_steady h)

theorem writeNow_steady {pa bs} (h : s.Steady W R) : (s.writeNow pa bs).Steady W R := homeStore_steady (claimRange_steady h)

/-! ## Serving a request at its home -/

theorem fillLanes_steady {acc line} (h : s.Steady W R) : (s.fillLanes acc line).Steady W R := by
  unfold State.fillLanes
  split
  · exact h
  · exact mapLanes_steady h

theorem setBusy_steady {home line b} (h : s.Steady W R) : (s.setBusy home line b).Steady W R := setSlice_steady h

/-! ## Room in the directory -/

theorem freeEntry_steady {home region key} (h : s.Steady W R) : (s.freeEntry home region key).Steady W R := by
  unfold State.freeEntry
  extract_lets +onlyGivenNames one
  have hone : ∀ u x1 x2, u.Steady W R → (one u x1 x2).Steady W R := by
    intro u x1 x2 hu
    unfold one
    extract_lets +onlyGivenNames sl line e tokens invs
    split
    · exact setSlice_steady hu
    · exact foldl_steady (fun _ _ h2 => send_steady h2) (foldl_steady (fun _ _ h2 => send_steady h2) (setSlice_steady hu))
  exact ite_steady (foldl_steady (fun _ _ h1 => hone _ _ _ h1) h) (hone _ _ _ h)

theorem deferLine_steady {home id line} (h : s.Steady W R) : (s.deferLine home id line).Steady W R := by
  unfold State.deferLine
  extract_lets +onlyGivenNames sl src
  have hsrc : src.Steady W R := setSlice_steady h
  exact hsrc

/-! ## The pipeline's service of a request -/

theorem reply_steady {avenue kind acc core home} (h : s.Steady W R) : (s.reply avenue kind acc core home).Steady W R :=
  ite_steady (ite_steady h h) (sendOn_steady h)

theorem startBypass_steady {home id acc line cluster} (h : s.Steady W R) : (s.startBypass home id acc line cluster).Steady W R := by
  unfold State.startBypass
  extract_lets +onlyGivenNames sl lacking s1 s2
  have hs2 : s2.Steady W R := setSlice_steady h
  extract_lets +onlyGivenNames s3
  have hs3 : s3.Steady W R := ite_steady (tally_steady hs2) hs2
  extract_lets +onlyGivenNames s4
  have hs4 : s4.Steady W R := mapLanes_steady hs3
  exact feed_steady hs4

theorem serveRead_steady {home id acc line core a} (h : s.Steady W R) : (s.serveRead home id acc line core a).Steady W R := by
  unfold State.serveRead
  extract_lets +onlyGivenNames nc qs s1
  have hs1 : s1.Steady W R := fillLanes_steady h
  extract_lets +onlyGivenNames returning s2
  have hs2 : s2.Steady W R := ite_steady hs1 (foldl_steady (fun _ _ h2 => installClean_steady h2) (setSlice_steady hs1))
  exact reply_steady (setBusy_steady (dropMsg_steady hs2))

theorem chargeAcc_steady {acc res n} (h : s.Steady W R) : (s.chargeAcc acc res n).Steady W R := by
  unfold State.chargeAcc
  split
  · exact charge_steady h
  · exact h

theorem serveWrite_steady {home id acc line core grant} (h : s.Steady W R) : (s.serveWrite home id acc line core grant).Steady W R := by
  unfold State.serveWrite
  extract_lets +onlyGivenNames grant1 uncached data s1
  have hs1 : s1.Steady W R := applyLanes_steady (chargeAcc_steady h)
  extract_lets +onlyGivenNames s2
  have hs2 : s2.Steady W R := setSlice_steady hs1
  extract_lets +onlyGivenNames s3
  have hs3 : s3.Steady W R := foldl_steady (fun _ _ h3 => installClean_steady h3) hs2
  exact reply_steady (setBusy_steady (dropMsg_steady (ite_steady (l1Map_steady hs3) hs2)))

theorem serveHome_steady {id} (h : s.Steady W R) : (s.serveHome id).Steady W R := by
  unfold State.serveHome
  split
  · exact h
  · extract_lets +onlyGivenNames go
    have hgo : ∀ x0 x1 x2 x3, (go x0 x1 x2 x3).Steady W R := by
      intro x0 x1 x2 x3
      unfold go
      extract_lets +onlyGivenNames home
      split
      · exact setBusy_steady (dropMsg_steady h)
      · extract_lets +onlyGivenNames s1 s2
        have hs2 : s2.Steady W R := setSlice_steady h
        extract_lets +onlyGivenNames sl b mine cached needs
        split
        · exact deferLine_steady (setBusy_steady hs2)
        · split
          · exact deferLine_steady (freeEntry_steady (setBusy_steady hs2))
          · exact deferLine_steady (setBusy_steady hs2)
          · split
            · split
              · exact setBusy_steady hs2
              · split
                · split
                  · exact deferLine_steady (setBusy_steady hs2)
                  · exact feed_steady (setBusy_steady (setSlice_steady (allocate_steady hs2)))
                · exact ite_steady (startBypass_steady hs2) (setBusy_steady hs2)
            · split
              · exact ite_steady (setBusy_steady hs2) (send_steady (setBusy_steady hs2))
              · split
                · exact serveRead_steady hs2
                · extract_lets +onlyGivenNames targets
                  split
                  · exact serveWrite_steady hs2
                  · exact ite_steady (setBusy_steady hs2) (foldl_steady (fun _ _ h2 => send_steady h2) (setBusy_steady hs2))
    split
    · exact hgo _ _ _ _
    · exact hgo _ _ _ _
    · exact h

theorem goOn_steady {slice line} (h : s.Steady W R) : (s.goOn slice line).Steady W R := by
  unfold State.goOn
  split
  · exact h
  · split
    · exact ite_steady h (ite_steady (setSlice_steady h) (foldl_steady (fun _ _ h1 => send_steady h1) (setBusy_steady h)))
    · exact serveHome_steady h
    · exact h

theorem admitLine_steady {id line} (h : s.Steady W R) : (s.admitLine id line).Steady W R :=
  ite_steady h (ite_steady (deferLine_steady h) (serveHome_steady h))

/-! ## Versions -/

theorem versionedStore_steady {core task pa bs} (h : s.Steady W R) : (s.versionedStore core task pa bs).Steady W R := by
  unfold State.versionedStore
  extract_lets +onlyGivenNames line e n s1
  have hs1 : s1.Steady W R := by
    unfold s1
    split
    · exact evictLine_steady h
    · exact h
  extract_lets +onlyGivenNames under
  split
  · split
    · exact l1Map_steady hs1
    · exact hs1
  · exact installLine_steady hs1

end Sys2Proof.Machine

/-! # Memory through a step: translation, records, traps and plain instructions -/

namespace Sys2Proof.Machine

variable {s : State} {W : Prop} {R : Power → Prop}

/-! ## Translation -/

theorem tlbFill_steady {core e} (h : s.Steady W R) : (s.tlbFill core e).Steady W R := setCluster_steady (setCore_steady h)

theorem tlbTouch_steady {core ctx va} (h : s.Steady W R) : (s.tlbTouch core ctx va).Steady W R := by
  unfold State.tlbTouch
  split
  · exact h
  · exact setCore_steady (ite_steady (setCluster_steady h) h)

theorem tlbRemove_steady {p} (h : s.Steady W R) : (s.tlbRemove p).Steady W R := h

theorem atcFill_steady {e} (h : s.Steady W R) : (s.atcFill e).Steady W R := h

theorem tellHost_steady {m} (h : s.Steady W R) : (s.tellHost m).Steady W R := h

/-! ## Non-posted requests -/

theorem sendAsks_steady {kept asks} (h : s.Steady W R) : (s.sendAsks kept asks).Steady W R := by
  induction asks generalizing s kept with
  | nil => exact h
  | cons a rest ih =>
    unfold State.sendAsks
    exact ite_steady (ih h) (ih h)

theorem hostPump_steady (h : s.Steady W R) : s.hostPump.Steady W R := sendAsks_steady h

theorem hostAsk_steady {l} (h : s.Steady W R) : (s.hostAsk l).Steady W R := hostPump_steady h

theorem tellRead_steady {ctx addr n} (h : s.Steady W R) : (s.tellRead ctx addr n).Steady W R :=
  ite_steady (hold_steady h) (tellHost_steady h)

theorem giveWalkers_steady (h : s.Steady W R) : s.giveWalkers.Steady W R := h

theorem beginWalk_steady {w} (h : s.Steady W R) : (s.beginWalk w).Steady W R := by
  unfold State.beginWalk
  split
  rename_i s1 es1
  have hs1 : s1.Steady W R := steady_of_snd (fresh_steady h) es1
  extract_lets +onlyGivenNames s2
  have hs2 : s2.Steady W R := giveWalkers_steady hs1
  extract_lets +onlyGivenNames c
  split
  · exact hostAsk_steady hs2
  · exact hs2

theorem askLanes_steady {id a} (h : s.Steady W R) : (s.askLanes id a).Steady W R := hostAsk_steady h

/-! ## Translation by units -/

theorem atsAsk_steady {ctx va write} (h : s.Steady W R) : (s.atsAsk ctx va write).Steady W R := by
  unfold State.atsAsk
  extract_lets +onlyGivenNames c
  split
  · exact h
  · exact ite_steady (hold_steady h) (ite_steady (tellHost_steady h) (atcFill_steady (tellHost_steady h)))

theorem touchPte_steady {pte write} (h : s.Steady W R) : (s.touchPte pte write).Steady W R :=
  ite_steady (writeNow_steady (ite_steady h (writeNow_steady h))) (ite_steady h (writeNow_steady h))

theorem xlateTouch_steady {ctx va write} (h : s.Steady W R) : (s.xlateTouch ctx va write).Steady W R := by
  unfold State.xlateTouch
  split
  · exact h
  · split
    · exact touchPte_steady h
    · exact h

theorem hostPut_steady {addr bs} (h : s.Steady W R) : (s.hostPut addr bs).Steady W R := h

theorem hostWrite_steady {ctx addr bs} (h : s.Steady W R) : (s.hostWrite ctx addr bs).Steady W R := hostPut_steady (tellHost_steady h)

theorem unitRead_steady {ctx va n} (h : s.Steady W R) : (s.unitRead ctx va n).1.Steady W R := by
  unfold State.unitRead
  extract_lets +onlyGivenNames s1
  have hs1 : s1.Steady W R := atsAsk_steady h
  split
  · exact hs1
  · exact readNow_steady (xlateTouch_steady hs1)
  · exact tellRead_steady hs1
  · exact hs1

theorem unitWrite_steady {ctx va bs} (h : s.Steady W R) : (s.unitWrite ctx va bs).1.Steady W R := by
  unfold State.unitWrite
  extract_lets +onlyGivenNames s1
  have hs1 : s1.Steady W R := atsAsk_steady h
  split
  · exact hs1
  · exact writeNow_steady (xlateTouch_steady hs1)
  · exact hostWrite_steady hs1
  · exact hs1

/-! ## Event counters and accounts -/

theorem foldCounters_steady (h : s.Steady W R) : s.foldCounters.Steady W R := h

/-! ## Host records -/

theorem msix_steady {ctx vector} (h : s.Steady W R) : (s.msix ctx vector).Steady W R := tellHost_steady h

/-- A context's ring after a record has been put in it (`.ok`), or has found no room (`.error`). -/
theorem ringWrite_steady {t ctx bs} (h : s.Steady W R) (ht : s.ringWrite ctx bs = .ok t ∨ s.ringWrite ctx bs = .error t) :
    t.Steady W R := by
  unfold State.ringWrite at ht
  extract_lets c at ht
  split at ht
  · simp only [reduceCtorEq, Except.error.injEq, false_or] at ht
    exact ht ▸ h
  · split at ht
    all_goals
      rename_i heq
      have hwrite := steady_of_fst (unitWrite_steady h) heq
      simp only [reduceCtorEq, Except.error.injEq, Except.ok.injEq, false_or, or_false] at ht
    · exact ht ▸ setCtx_steady hwrite
    · exact ht ▸ ite_steady (msix_steady (setCtx_steady hwrite)) (setCtx_steady hwrite)

theorem postBytes_steady {ctx bs stopped} (h : s.Steady W R) : (s.postBytes ctx bs stopped).Steady W R := by
  unfold State.postBytes
  extract_lets +onlyGivenNames c
  split
  · exact h
  · split
    · split
      · exact setCtx_steady h
      · split
        · exact ringWrite_steady h (.inl ‹_›)
        · exact setCtx_steady (ringWrite_steady h (.inr ‹_›))
    · split
      · exact ringWrite_steady h (.inl ‹_›)
      · exact setCtx_steady (ringWrite_steady h (.inr ‹_›))

theorem post_steady {r stopped} (h : s.Steady W R) : (s.post r stopped).Steady W R := postBytes_steady h

theorem postPhysical_steady {r} (h : s.Steady W R) : (s.postPhysical r).Steady W R := by
  unfold State.postPhysical
  split
  · exact h
  · exact foldl_steady (fun _ _ h1 => post_steady h1) h

theorem postAll_steady {r} (h : s.Steady W R) : (s.postAll r).Steady W R := foldl_steady (fun _ _ h1 => post_steady h1) h

/-! ## Queues, records and grids complete -/

theorem queueFault_steady {q cause addr} (h : s.Steady W R) : (s.queueFault q cause addr).Steady W R := post_steady (setQueue_steady h)

theorem recordDone_steady {queue index failed raise} (h : s.Steady W R) : (s.recordDone queue index failed raise).Steady W R :=
  ite_steady (queueFault_steady (setQueue_steady h)) (setQueue_steady h)

theorem releaseAccounts_steady {grid} (h : s.Steady W R) : (s.releaseAccounts grid).Steady W R := h

theorem joinStream_steady {engine key} (h : s.Steady W R) : (s.joinStream engine key).Steady W R := ite_steady h (ite_steady h h)

theorem openPosts_steady {grid} (h : s.Steady W R) : (s.openPosts grid).Steady W R := by
  unfold State.openPosts
  refine foldl_steady (fun _ _ h1 => ?_) h
  split
  · exact joinStream_steady h1
  · exact h1

theorem gridCheck_steady {grid} (h : s.Steady W R) : (s.gridCheck grid).Steady W R := by
  unfold State.gridCheck
  split
  · exact h
  · extract_lets +onlyGivenNames mine
    split
    · exact h
    · extract_lets +onlyGivenNames finish
      have hfinish : ∀ u x1, u.Steady W R → (finish u x1).Steady W R := by
        intro u x1 hu
        unfold finish
        extract_lets +onlyGivenNames s1
        have hs1 : s1.Steady W R := recordDone_steady hu
        extract_lets +onlyGivenNames s2
        have hs2 : s2.Steady W R := releaseAccounts_steady hs1
        exact hs2
      split
      · exact hfinish _ _ h
      · exact ite_steady h (ite_steady (openPosts_steady (setGrid_steady h)) (ite_steady h (hfinish _ _ h)))

/-! ## Ending teams -/

theorem askDiscard_steady {task} (h : s.Steady W R) : (s.askDiscard task).Steady W R := setTask_steady h

theorem freeUnits_steady {team} (h : s.Steady W R) : (s.freeUnits team).Steady W R := setTeam_steady (setCore_steady h)

theorem releaseRing_steady {core} (h : s.Steady W R) : (s.releaseRing core).Steady W R := ite_steady h (setCore_steady h)

theorem freeTiles_steady {team} (h : s.Steady W R) : (s.freeTiles team).Steady W R := releaseRing_steady (setTeam_steady h)

theorem freeReservation_steady {team} (h : s.Steady W R) : (s.freeReservation team).Steady W R := setTeam_steady (setCtx_steady h)

theorem freePark_steady {team} (h : s.Steady W R) : (s.freePark team).Steady W R := by
  unfold State.freePark
  extract_lets +onlyGivenNames t key
  split
  · exact h
  · extract_lets +onlyGivenNames left src
    have hsrc : src.Steady W R := setTeam_steady h
    exact hsrc

theorem dropStrays_steady (h : s.Steady W R) : s.dropStrays.Steady W R := h

theorem leaveWaiters_steady {key} (h : s.Steady W R) : (s.leaveWaiters key).Steady W R := dropStrays_steady h

theorem dropGroup_steady {key} (h : s.Steady W R) : (s.dropGroup key).Steady W R := by
  unfold State.dropGroup
  split
  · exact h
  · exact ite_steady (foldCounters_steady h) h

theorem releaseTeam_steady {team} (h : s.Steady W R) : (s.releaseTeam team).Steady W R := by
  unfold State.releaseTeam
  extract_lets +onlyGivenNames s1
  have hs1 : s1.Steady W R := freeReservation_steady (freeTiles_steady (freeUnits_steady h))
  exact ite_steady hs1 hs1

theorem releaseDrained_steady {core} (h : s.Steady W R) : (s.releaseDrained core).Steady W R :=
  foldl_steady (fun _ _ h1 => ite_steady (releaseTeam_steady h1) h1) h

theorem endTeam_steady {team} (h : s.Steady W R) : (s.endTeam team).Steady W R := by
  unfold State.endTeam
  extract_lets +onlyGivenNames t
  split
  · exact h
  · split
    · exact ite_steady (releaseTeam_steady (setTeam_steady h)) (setTeam_steady h)
    · extract_lets +onlyGivenNames s1
      have hs1 : s1.Steady W R := foldl_steady (fun _ _ h1 => dropGroup_steady (leaveWaiters_steady h1)) h
      extract_lets +onlyGivenNames s2 s3
      have hs3 : s3.Steady W R := ite_steady hs1 (askDiscard_steady hs1)
      exact ite_steady (releaseTeam_steady (setTeam_steady (freePark_steady hs3))) (setTeam_steady (freePark_steady hs3))

theorem failColl_steady {k} (h : s.Steady W R) : (s.failColl k).Steady W R := h

theorem abortGrid_steady {grid} (h : s.Steady W R) : (s.abortGrid grid).Steady W R := by
  unfold State.abortGrid
  split
  · exact h
  · extract_lets +onlyGivenNames s1
    have hs1 : s1.Steady W R := setGrid_steady h
    extract_lets +onlyGivenNames items s2 s3 ops s4 s5
    have hs5 : s5.Steady W R := foldl_steady (fun _ _ h2 => ite_steady h2 (endTeam_steady h2)) hs1
    exact gridCheck_steady (foldl_steady (fun _ _ h3 => failColl_steady h3) hs5)

theorem abortDomain_steady {ctx fdid} (h : s.Steady W R) : (s.abortDomain ctx fdid).Steady W R :=
  post_steady (foldl_steady (fun _ _ h1 => abortGrid_steady h1) h)

theorem abortTeam_steady {team} (h : s.Steady W R) : (s.abortTeam team).Steady W R := abortDomain_steady h

/-! ## Ready lists -/

theorem readmit_steady {grid teams deferTo} (h : s.Steady W R) : (s.readmit grid teams deferTo).Steady W R := h

theorem readmitUnit_steady {team} (h : s.Steady W R) : (s.readmitUnit team).Steady W R :=
  ite_steady (readmit_steady (foldl_steady (fun _ _ h1 => setTeam_steady h1) h)) h

theorem readmitPreempted_steady (h : s.Steady W R) :
    s.readmitPreempted.Steady W R :=
  foldl_steady (fun _ _ h1 => readmitUnit_steady h1) h

theorem replaceTeam_steady {team errorRun} (h : s.Steady W R) : (s.replaceTeam team errorRun).1.Steady W R := by
  unfold State.replaceTeam
  extract_lets +onlyGivenNames past s1
  have hs1 : s1.Steady W R := ite_steady h (endTeam_steady h)
  extract_lets +onlyGivenNames x
  split
  rename_i s2 es2
  have hs2 : s2.Steady W R := steady_of_snd (fresh_steady hs1) es2
  extract_lets +onlyGivenNames s3
  have hs3 : s3.Steady W R := setTeam_steady hs2
  exact ite_steady (setTeam_steady hs3) hs3

theorem redispatch_steady {team errorRun} (h : s.Steady W R) : (s.redispatch team errorRun).Steady W R :=
  readmit_steady (foldl_fst_steady (fun _ _ h1 => replaceTeam_steady h1) (setGrid_steady h))

theorem discardTeam_steady {team errorTrap} (h : s.Steady W R) : (s.discardTeam team errorTrap).Steady W R :=
  ite_steady (redispatch_steady h) (abortTeam_steady (endTeam_steady h))

theorem errorTrap_steady {core slot g r} (h : s.Steady W R) : (s.errorTrap core slot g r).Steady W R :=
  ite_steady h (discardTeam_steady (post_steady h))

/-! ## Commit requests -/

theorem askCommit_steady {team core held slot entry} (h : s.Steady W R) : (s.askCommit team core held slot entry).Steady W R :=
  send_steady h

theorem setNr_steady {team} (h : s.Steady W R) : (s.setNr team).Steady W R := setTask_steady h

theorem setPort_steady {n p} (h : s.Steady W R) : (s.setPort n p).Steady W R := h

theorem peerAsk_steady {source owner pkt} (h : s.Steady W R) :
    (s.peerAsk source owner pkt).Steady W R :=
  ite_steady h (setPort_steady h)

/-! ## Taking a trap and returning from one -/

theorem setGroup_steady {core slot g} (h : s.Steady W R) : (s.setGroup core slot g).Steady W R := h

theorem trapTo_steady {core slot entry t pc} (h : s.Steady W R) : (s.trapTo core slot entry t pc).Steady W R := by
  unfold State.trapTo
  split
  · exact h
  · extract_lets +onlyGivenNames s1
    have hs1 : s1.Steady W R := tally_steady h
    extract_lets +onlyGivenNames handler r
    split
    · exact post_steady (abortTeam_steady hs1)
    · exact ite_steady (post_steady (abortTeam_steady hs1)) (setGroup_steady hs1)

theorem boundaryTrap_steady {core slot cause} (h : s.Steady W R) : (s.boundaryTrap core slot cause).Steady W R := by
  unfold State.boundaryTrap
  split
  · exact h
  · split
    · exact setGroup_steady h
    · split
      · exact h
      · exact trapTo_steady h

/-! ## Issue -/

theorem onIssue_steady {c beats} (h : s.Steady W R) : (s.onIssue c beats).Steady W R := by
  unfold State.onIssue
  extract_lets +onlyGivenNames s1
  have hs1 : s1.Steady W R := ite_steady (tally_steady h) (charge_steady h)
  extract_lets +onlyGivenNames s2
  have hs2 : s2.Steady W R := tally_steady hs1
  extract_lets +onlyGivenNames s3
  have hs3 : s3.Steady W R := tally_steady hs2
  split
  · exact tally_steady hs3
  · exact tally_steady hs3
  · exact hs3

theorem takeTrap_steady {c t} (h : s.Steady W R) : (s.takeTrap c t).Steady W R := trapTo_steady h

theorem afterIssue_steady {c o beats g} (h : s.Steady W R) : (s.afterIssue c o beats g).Steady W R :=
  onIssue_steady (setCore_steady (setGroup_steady h))

theorem runGroup_steadies {op o tm body} (h : s.Steady W R) : Steadies W R (runGroup op o tm s body) := by
  unfold runGroup
  split
  · exact next_steadies h
  · extract_lets +onlyGivenNames c
    split
    · exact next_steadies (takeTrap_steady h)
    · split
      · exact next_steadies (takeTrap_steady h)
      · split
        · exact next_steadies (takeTrap_steady h)
        · exact next_steadies (afterIssue_steady h)

theorem runAlu_steadies {op o tm body} (h : s.Steady W R) : Steadies W R (runAlu op o tm s body) := runGroup_steadies h

theorem runState_steadies {op o tm body} (hbody : ∀ c, DoneSteady W R (body c)) (h : s.Steady W R) :
    Steadies W R (runState op o tm s body) := by
  unfold runState
  split
  · exact next_steadies h
  · extract_lets +onlyGivenNames c
    split
    · exact next_steadies (takeTrap_steady h)
    · split
      · exact next_steadies (takeTrap_steady h)
      · split
        · exact next_steadies (takeTrap_steady h)
        · next hstall => exact next_steadies (hbody c _ hstall)
        · next hissued => exact next_steadies (afterIssue_steady (hbody c _ hissued))

theorem waitFrag_steady {c w} (h : s.Steady W R) : (s.waitFrag c w).Steady W R := setGroup_steady h

theorem setWait_steady {core slot entry w} (h : s.Steady W R) : (s.setWait core slot entry w).Steady W R := by
  unfold State.setWait
  split
  · exact setGroup_steady h
  · exact h

theorem settleJoins_steady {core quad} (h : s.Steady W R) : (s.settleJoins core quad).Steady W R := h

end Sys2Proof.Machine

/-! # Memory through a step: memory instructions, the Plaza and control -/

namespace Sys2Proof.Machine

variable {s : State} {W : Prop} {R : Power → Prop}

/-! ## Traps of check 7, and translation at issue -/

theorem startWalk_steady {c w} (h : s.Steady W R) : (s.startWalk c w).Steady W R := waitFrag_steady (beginWalk_steady h)

theorem touchPages_steady {core ctx es} (h : s.Steady W R) : (s.touchPages core ctx es).Steady W R :=
  foldl_steady (fun _ _ h1 => tlbTouch_steady h1) h

/-! ## Accesses -/

theorem sendPeers_steady {id a} (h : s.Steady W R) : (s.sendPeers id a).Steady W R := by
  unfold State.sendPeers
  refine foldl_steady (fun _ _ h1 => ?_) h
  split
  · exact ite_steady h1 (peerAsk_steady h1)
  · exact h1

theorem waitCounter_steady {c ldc} (h : s.Steady W R) : (s.waitCounter c ldc).Steady W R := waitFrag_steady h

/-! ## LD -/

theorem readLine_steady {id line} (h : s.Steady W R) : (s.readLine id line).Steady W R := by
  unfold State.readLine
  split
  · exact h
  · extract_lets +onlyGivenNames value waits a left s1
    have hs1 : s1.Steady W R := ite_steady (touchLine_steady h) h
    exact ite_steady hs1 (ite_steady (send_steady (tally_steady hs1)) (tally_steady hs1))

theorem readLines_steady {id} (h : s.Steady W R) : (s.readLines id).Steady W R := by
  unfold State.readLines
  split
  · exact h
  · exact foldl_steady (fun _ _ h1 => readLine_steady h1) h

theorem execLd_steadies {o} (h : s.Steady W R) : Steadies W R (execLd o s) := by
  unfold execLd
  refine runState_steadies (fun _ => ?_) h
  extract_lets +onlyGivenNames n one
  split
  · exact stall_doneSteady (waitCounter_steady h)
  · refine bind_doneSteady fun _ => ?_
    refine bind_doneSteady fun _ => ?_
    split
    · exact issued_doneSteady h
    · extract_lets +onlyGivenNames ls lanes
      refine bind_doneSteady fun _ => ?_
      extract_lets +onlyGivenNames ctx
      refine bind_doneSteady fun _ => ?_
      split
      · exact stall_doneSteady (startWalk_steady h)
      · extract_lets +onlyGivenNames s1
        have hs1 : s1.Steady W R := touchPages_steady h
        split
        rename_i s2 es2
        have hs2 : s2.Steady W R := steady_of_snd (fresh_steady hs1) es2
        split
        extract_lets +onlyGivenNames a a1 s3
        have hs3 : s3.Steady W R := readLines_steady hs2
        exact issued_doneSteady (sendPeers_steady (ite_steady (askLanes_steady hs3) hs3))

/-! ## ST -/

theorem applyInL1_steady {id line} (h : s.Steady W R) : (s.applyInL1 id line).Steady W R := by
  unfold State.applyInL1
  split
  · exact h
  · exact send_steady (touchLine_steady h)

theorem writeLine_steady {id line} (h : s.Steady W R) : (s.writeLine id line).Steady W R := by
  unfold State.writeLine
  split
  · exact h
  · exact ite_steady (ite_steady (applyInL1_steady h) h) (send_steady h)

theorem writeLines_steady {id} (h : s.Steady W R) : (s.writeLines id).Steady W R := by
  unfold State.writeLines
  split
  · exact h
  · exact foldl_steady (fun _ _ h1 => writeLine_steady h1) h

theorem retryPending_steady (h : s.Steady W R) : s.retryPending.Steady W R := by
  unfold State.retryPending
  refine foldl_steady (fun _ _ h1 => ?_) h
  exact ite_steady h1 (foldl_steady (fun _ _ h2 => ite_steady (readLine_steady h2) (writeLine_steady h2)) h1)

theorem startWrites_steady {id a} (h : s.Steady W R) : (s.startWrites id a).Steady W R := by
  unfold State.startWrites
  extract_lets +onlyGivenNames a1 s1
  have hs1 : s1.Steady W R := setNr_steady h
  extract_lets +onlyGivenNames s2
  have hs2 : s2.Steady W R := sendPeers_steady (writeLines_steady hs1)
  exact ite_steady (send_steady (askLanes_steady hs2)) hs2

theorem execSt_steadies {o} (h : s.Steady W R) : Steadies W R (execSt o s) := by
  unfold execSt
  refine runState_steadies (fun _ => ?_) h
  extract_lets +onlyGivenNames n
  split
  · exact stall_doneSteady (waitCounter_steady h)
  · refine bind_doneSteady fun _ => ?_
    split
    · exact issued_doneSteady h
    · extract_lets +onlyGivenNames lanes
      refine bind_doneSteady fun _ => ?_
      extract_lets +onlyGivenNames t
      refine bind_doneSteady fun _ => ?_
      split
      · exact stall_doneSteady (startWalk_steady h)
      · extract_lets +onlyGivenNames s1
        have hs1 : s1.Steady W R := touchPages_steady h
        extract_lets +onlyGivenNames vmode ver
        split
        · exact stall_doneSteady (waitFrag_steady hs1)
        · extract_lets +onlyGivenNames s2
          have hs2 : s2.Steady W R := foldl_steady (fun _ _ h2 => ite_steady (versionedStore_steady h2) h2) hs1
          exact ite_doneSteady (issued_doneSteady hs2) (issued_doneSteady (startWrites_steady (fresh_steady hs2)))

/-! ## Atomics -/

theorem atomMem_steadies {code dst o} (h : s.Steady W R) : Steadies W R (atomMem code dst o s) := by
  unfold atomMem
  refine runState_steadies (fun _ => ?_) h
  extract_lets +onlyGivenNames op w64 n ldc
  split
  · exact stall_doneSteady (waitCounter_steady h)
  · refine bind_doneSteady fun _ => ?_
    refine bind_doneSteady fun _ => ?_
    split
    · exact issued_doneSteady h
    · extract_lets +onlyGivenNames lanes
      refine bind_doneSteady fun _ => ?_
      extract_lets +onlyGivenNames ctx
      refine bind_doneSteady fun _ => ?_
      split
      · exact stall_doneSteady (startWalk_steady h)
      · exact issued_doneSteady (startWrites_steady (fresh_steady (touchPages_steady h)))

/-! ## The scratchpad -/

theorem holdMem_steady {c cycles beats} (h : s.Steady W R) : (s.holdMem c cycles beats).Steady W R :=
  ite_steady (ite_steady h (setCore_steady h)) (tally_steady (ite_steady h (setCore_steady h)))

theorem scratchWrite_steady {team off bs} (h : s.Steady W R) : (s.scratchWrite team off bs).Steady W R := setTeam_steady h

theorem issueScratch_steady {c o one cycles g} (h : s.Steady W R) : (s.issueScratch c o one cycles g).Steady W R :=
  holdMem_steady (afterIssue_steady h)

theorem waitCycle_steady {c} (h : s.Steady W R) : (s.waitCycle c).Steady W R := setGroup_steady h

theorem execLds_steadies {o} (h : s.Steady W R) : Steadies W R (execLds o s) := by
  unfold execLds
  refine runState_steadies (fun _ => ?_) h
  extract_lets +onlyGivenNames n one
  split
  · exact stall_doneSteady (waitCounter_steady h)
  · refine bind_doneSteady fun _ => ?_
    refine bind_doneSteady fun _ => ?_
    split
    · exact issued_doneSteady h
    · split
      extract_lets +onlyGivenNames size
      refine bind_doneSteady fun _ => ?_
      split
      · exact stall_doneSteady (waitCycle_steady h)
      · exact stall_doneSteady (issueScratch_steady (fresh_steady h))

theorem storeScratch_steady {c o n lanes} (h : s.Steady W R) : (s.storeScratch c o n lanes).Steady W R :=
  foldl_steady (fun _ _ h1 => scratchWrite_steady h1) h

theorem execSts_steadies {o} (h : s.Steady W R) : Steadies W R (execSts o s) := by
  unfold execSts
  refine runState_steadies (fun _ => ?_) h
  extract_lets +onlyGivenNames n
  split
  · exact stall_doneSteady (waitCounter_steady h)
  · refine bind_doneSteady fun _ => ?_
    split
    · exact issued_doneSteady h
    · split
      extract_lets +onlyGivenNames size
      refine bind_doneSteady fun _ => ?_
      split
      · exact stall_doneSteady (waitCycle_steady h)
      · exact stall_doneSteady (issueScratch_steady (storeScratch_steady h))

theorem atomScratch_steady {c o lanes} (h : s.Steady W R) : (s.atomScratch c o lanes).1.Steady W R :=
  foldl_fst_steady (fun _ _ h1 => scratchWrite_steady h1) h

theorem execAtoms_steadies {o} (h : s.Steady W R) : Steadies W R (execAtoms o s) := by
  unfold execAtoms
  refine runState_steadies (fun _ => ?_) h
  extract_lets +onlyGivenNames op w64 n ldc
  split
  · exact stall_doneSteady (waitCounter_steady h)
  · refine bind_doneSteady fun _ => ?_
    refine bind_doneSteady fun _ => ?_
    split
    · exact issued_doneSteady h
    · split
      extract_lets +onlyGivenNames size
      refine bind_doneSteady fun _ => ?_
      split
      · exact stall_doneSteady (waitCycle_steady h)
      · split
        rename_i s1 _ es1
        have hs1 : s1.Steady W R := steady_of_fst (atomScratch_steady h) es1
        split
        · exact stall_doneSteady (issueScratch_steady (fresh_steady hs1))
        · exact stall_doneSteady (issueScratch_steady hs1)

/-! ## Remote scratchpads -/

theorem execLdx_steadies {o} (h : s.Steady W R) : Steadies W R (execLdx o s) := by
  unfold execLdx
  refine runState_steadies (fun _ => ?_) h
  extract_lets +onlyGivenNames n one
  split
  · exact stall_doneSteady (waitCounter_steady h)
  · refine bind_doneSteady fun _ => ?_
    refine bind_doneSteady fun _ => ?_
    exact ite_doneSteady (issued_doneSteady h) (bind_doneSteady fun _ => issued_doneSteady (fresh_steady h))

theorem execStx_steadies {o} (h : s.Steady W R) : Steadies W R (execStx o s) := by
  unfold execStx
  refine runState_steadies (fun _ => ?_) h
  extract_lets +onlyGivenNames n
  split
  · exact stall_doneSteady (waitCounter_steady h)
  · refine bind_doneSteady fun _ => ?_
    split
    · exact issued_doneSteady h
    · extract_lets +onlyGivenNames lanes
      refine bind_doneSteady fun _ => ?_
      exact issued_doneSteady (send_steady (foldl_steady (fun _ _ h1 => setTeam_steady h1) (fresh_steady h)))

/-! ## PREF -/

theorem execPref_steadies {o} (h : s.Steady W R) : Steadies W R (execPref o s) := by
  unfold execPref
  refine runState_steadies (fun _ => ?_) h
  refine bind_doneSteady fun _ => ?_
  extract_lets +onlyGivenNames ctx uni lanes lines
  split
  · exact issued_doneSteady h
  · exact issued_doneSteady (foldl_steady (fun _ _ h1 => send_steady h1) (fresh_steady h))

/-! ## Data returns -/

theorem accError_steady {acc lane err info} (h : s.Steady W R) : (s.accError acc lane err info).Steady W R := by
  unfold State.accError
  split
  · exact h
  · exact ite_steady (errorTrap_steady h) (ite_steady h (post_steady (abortTeam_steady h)))

theorem takeData_steady {acc} (h : s.Steady W R) : (s.takeData acc).Steady W R := h

theorem execLoadDataReturn_steadies {access} (h : s.Steady W R) : Steadies W R (execLoadDataReturn access s) := by
  unfold execLoadDataReturn
  split
  · exact next_steadies h
  · extract_lets +onlyGivenNames pref
    split
    · exact next_steadies h
    · extract_lets +onlyGivenNames s1
      have hs1 : s1.Steady W R := ite_steady (hostPump_steady h) h
      extract_lets +onlyGivenNames b s2
      split
      · exact next_steadies hs1
      · extract_lets +onlyGivenNames s3
        have hs3 : s3.Steady W R := takeData_steady hs1
        split
        · exact next_steadies hs3
        · split
          · exact next_steadies (retryPending_steady (accError_steady hs3))
          · exact next_steadies (retryPending_steady (modGroup_steady hs3))

/-! ## The groups of a team -/

theorem mapTeam_steady {team f} (h : s.Steady W R) : (s.mapTeam team f).Steady W R := ite_steady h (setTeam_steady h)

/-! ## BAR and TRIG -/

theorem noteArrivals_steady {team} (h : s.Steady W R) : (s.noteArrivals team).Steady W R := setTeam_steady h

/-! ## District and grid barriers -/

theorem districtCheck_steady {team t0} (h : s.Steady W R) : (s.districtCheck team t0).Steady W R :=
  ite_steady (foldl_steady (fun _ _ h1 => mapTeam_steady h1) h) h

theorem gridBarrierCheck_steady {grid t0} (h : s.Steady W R) : (s.gridBarrierCheck grid t0).Steady W R :=
  ite_steady (foldl_steady (fun _ _ h1 => mapTeam_steady h1) (setGrid_steady h)) h

theorem arriveAt_steady {grid g lanes core} (h : s.Steady W R) : (s.arriveAt grid g lanes core).1.Steady W R :=
  ite_fst_steady h (ite_fst_steady (send_steady h) (send_steady h))

theorem lateArrivals_steady {core slot} (h : s.Steady W R) : (s.lateArrivals core slot).Steady W R := by
  unfold State.lateArrivals
  split
  · exact h
  · split
    rename_i s1 _ es1
    have hs1 : s1.Steady W R := steady_of_fst (ite_fst_steady (arriveAt_steady h) h) es1
    exact setGroup_steady (ite_fst_steady (arriveAt_steady hs1) hs1)

theorem barrierCheck_steady {team} (h : s.Steady W R) : (s.barrierCheck team).Steady W R :=
  ite_steady (gridBarrierCheck_steady (districtCheck_steady (noteArrivals_steady h))) (noteArrivals_steady h)

/-! ## Events -/

theorem wakeParked_steady {team} (h : s.Steady W R) : (s.wakeParked team).Steady W R :=
  ite_steady (readmit_steady (foldl_steady (fun _ _ h1 => setTeam_steady h1) h)) h

theorem firePlaza_steady (h : s.Steady W R) : s.firePlaza.Steady W R := foldl_steady (fun _ _ h1 => wakeParked_steady h1) h

theorem jumpTo_steadies {op o} (h : s.Steady W R) : Steadies W R (jumpTo op o s) := runGroup_steadies h

theorem exitGroup_steady {core slot} (h : s.Steady W R) : (s.exitGroup core slot).Steady W R := by
  unfold State.exitGroup
  split
  · exact h
  · exact barrierCheck_steady (setTeam_steady (dropGroup_steady h))

theorem execExit_steadies {o} (h : s.Steady W R) : Steadies W R (execExit o s) := by
  unfold execExit
  refine runState_steadies (fun _ => ?_) h
  split
  · exact issued_doneSteady h
  · extract_lets +onlyGivenNames g g1
    split
    · exact stall_doneSteady (exitGroup_steady (afterIssue_steady h))
    · exact stall_doneSteady (noteArrivals_steady (lateArrivals_steady (afterIssue_steady h)))

theorem execYieldWaitEnd_steadies {core slot entry} (h : s.Steady W R) : Steadies W R (execYieldWaitEnd core slot entry s) := by
  unfold execYieldWaitEnd
  split
  · split
    · exact ite_steadies (next_steadies (setWait_steady h)) (next_steadies h)
    · exact next_steadies h
  · exact next_steadies h

theorem execTrap_steadies {o} (h : s.Steady W R) : Steadies W R (execTrap o s) := by
  unfold execTrap
  refine runState_steadies (fun _ => ?_) h
  refine bind_doneSteady fun _ => ?_
  exact ite_doneSteady (issued_doneSteady h) (stall_doneSteady (trapTo_steady (afterIssue_steady h)))

theorem takeHeld_steady {core slot} (h : s.Steady W R) : (s.takeHeld core slot).Steady W R := by
  unfold State.takeHeld
  split
  · exact h
  · extract_lets +onlyGivenNames ovf s1
    have hs1 : s1.Steady W R := setGroup_steady h
    exact ite_steady (boundaryTrap_steady hs1) (ite_steady (boundaryTrap_steady hs1) hs1)

theorem execRft_steadies {o} (h : s.Steady W R) : Steadies W R (execRft o s) := by
  unfold execRft
  refine runState_steadies (fun _ => ?_) h
  exact ite_doneSteady error_doneSteady (stall_doneSteady (takeHeld_steady (afterIssue_steady h)))

/-! ## System registers -/

theorem execUnassignedOpcode_steadies {_op _s' _q} (h : s.Steady W R) : Steadies W R (execUnassignedOpcode _op _s' _q s) := by
  unfold execUnassignedOpcode
  split
  · exact next_steadies h
  · exact next_steadies (takeTrap_steady h)

end Sys2Proof.Machine

/-! # Memory through a step: homes, the mesh, versions and the elevators -/

namespace Sys2Proof.Machine

variable {s : State} {W : Prop} {R : Power → Prop}

/-! ## Charges and records -/

theorem waitHome_steady {id m} (h : s.Steady W R) : (s.waitHome id m).Steady W R := ite_steady (wakeSlice_steady h) h

theorem poisonSector_steady {sector} (h : s.Steady W R) : (s.poisonSector sector).Steady W R := ite_steady h h

theorem addBad_steady {slice line cause} (h : s.Steady W R) : (s.addBad slice line cause).Steady W R := by
  unfold State.addBad
  extract_lets +onlyGivenNames sl
  split
  · exact h
  · split
    · exact ite_steady (foldl_steady (fun _ _ h1 => poisonSector_steady h1) (setSlice_steady h)) (setSlice_steady h)
    · exact foldl_steady (fun _ _ h1 => post_steady h1) (setSlice_steady h)

/-! ## Requests at the home -/

theorem arrive_steady {id acc line} (h : s.Steady W R) : (s.arrive id acc line).Steady W R :=
  admitLine_steady (setSlice_steady (tally_steady h))

/-! ## Vertical exclusion -/

theorem exclude_steady {cluster} (h : s.Steady W R) : (s.exclude cluster).Steady W R :=
  ite_steady h (foldl_steady (fun _ _ h1 => tally_steady h1) (setCluster_steady h))

theorem execReadRequest_steadies {delivery} (h : s.Steady W R) : Steadies W R (execReadRequest delivery s) := by
  unfold execReadRequest
  split
  · exact next_steadies h
  · split
    · split
      · exact next_steadies (waitHome_steady h)
      · split
        · exact next_steadies h
        · exact next_steadies (arrive_steady (ite_steady (addBad_steady (exclude_steady h)) (exclude_steady h)))
    · exact next_steadies h

theorem hostLane_steady {acc a x} (h : s.Steady W R) : (s.hostLane acc a x).Steady W R := by
  unfold State.hostLane
  split
  · split
    · exact h
    · extract_lets +onlyGivenNames done
      have hdone : ∀ u x1, u.Steady W R → (done u x1).Steady W R := fun u x1 hu => mapLanes_steady hu
      split
      · exact h
      · exact hdone _ _ (hostWrite_steady h)
      · exact hdone _ _ (hostPut_steady h)
  · exact h

theorem execWriteRequest_steadies {message} (h : s.Steady W R) : Steadies W R (execWriteRequest message s) := by
  unfold execWriteRequest
  split
  · exact next_steadies h
  · split
    · split
      · exact next_steadies (waitHome_steady h)
      · exact ite_steadies (next_steadies h) (next_steadies (arrive_steady h))
    · split
      · exact next_steadies h
      · split
        · exact next_steadies (dropMsg_steady h)
        · extract_lets +onlyGivenNames s1
          have hs1 : s1.Steady W R := hostPump_steady h
          split
          · exact next_steadies hs1
          · extract_lets +onlyGivenNames n s2
            have hs2 : s2.Steady W R := chargeAcc_steady (chargeAcc_steady hs1)
            extract_lets +onlyGivenNames s3
            have hs3 : s3.Steady W R := foldl_steady (fun _ _ h3 => hostLane_steady h3) hs2
            refine next_steadies ?_
            refine leaveStore_steady ?_
            extract_lets +onlyGivenNames src
            have hsrc : src.Steady W R := dropMsg_steady hs3
            exact hsrc
    · exact next_steadies h

theorem performStx_steady {acc a} (h : s.Steady W R) : (s.performStx acc a).Steady W R := by
  unfold State.performStx
  extract_lets +onlyGivenNames s1
  have hs1 : s1.Steady W R := by
    unfold s1
    refine foldl_steady (fun _ _ h1 => ?_) h
    split
    · exact ite_steady h1 (scratchWrite_steady h1)
    · exact h1
  exact leaveStore_steady (mapLanes_steady (foldl_steady (fun _ _ h2 => setTeam_steady h2) hs1))

theorem completeWrite_steady {acc} (h : s.Steady W R) : (s.completeWrite acc).Steady W R := by
  unfold State.completeWrite
  split
  · exact retryPending_steady (accError_steady h)
  · exact retryPending_steady (leaveStore_steady h)

theorem execWriteCompletion_steadies {message} (h : s.Steady W R) : Steadies W R (execWriteCompletion message s) := by
  unfold execWriteCompletion
  split
  · exact next_steadies h
  · split
    · exact ite_steadies (next_steadies (completeWrite_steady (dropMsg_steady h))) (next_steadies h)
    · split
      · exact next_steadies h
      · split
        · exact next_steadies (dropMsg_steady h)
        · exact ite_steadies (next_steadies h) (next_steadies (performStx_steady (dropMsg_steady h)))
    · split
      · exact next_steadies h
      · split
        · exact next_steadies (dropMsg_steady h)
        · refine next_steadies ?_
          extract_lets +onlyGivenNames src
          have hsrc : src.Steady W R := scratchWrite_steady (dropMsg_steady h)
          exact hsrc
    · exact next_steadies h

/-! ## Write-throughs and tokens -/

theorem execWriteThrough_steadies {message} (h : s.Steady W R) : Steadies W R (execWriteThrough message s) := by
  unfold execWriteThrough
  split
  · exact next_steadies h
  · split
    · exact ite_steadies (next_steadies (applyThrough_steady h)) (next_steadies (waitHome_steady h))
    · exact next_steadies h

theorem execWriteThroughAck_steadies {message} (h : s.Steady W R) : Steadies W R (execWriteThroughAck message s) := by
  unfold execWriteThroughAck
  split
  · exact next_steadies h
  · split
    · split
      · extract_lets +onlyGivenNames s1
        have hs1 : s1.Steady W R := dropMsg_steady h
        exact next_steadies (retryPending_steady (leaveStore_steady hs1))
      · exact next_steadies h
    · exact next_steadies h

theorem yieldToken_steady {core line region inval} (h : s.Steady W R) : (s.yieldToken core line region inval).Steady W R :=
  foldl_steady (fun _ _ h1 => ite_steady (l1Drop_steady h1) (l1Map_steady h1)) h

theorem execTokenRecall_steadies {message} (h : s.Steady W R) : Steadies W R (execTokenRecall message s) := by
  unfold execTokenRecall
  split
  · exact next_steadies h
  · split
    · split
      · exact next_steadies h
      · extract_lets +onlyGivenNames has s1
        have hs1 : s1.Steady W R := dropMsg_steady h
        split
        · exact next_steadies (retryPending_steady (send_steady (yieldToken_steady hs1)))
        · exact next_steadies (send_steady hs1)
    · exact next_steadies h

theorem answered_steady {slice line x} (h : s.Steady W R) : (s.answered slice line x).Steady W R := by
  unfold State.answered
  extract_lets +onlyGivenNames sl
  split
  · exact h
  · exact goOn_steady (setSlice_steady h)

theorem execTokack_steadies {message} (h : s.Steady W R) : Steadies W R (execTokack message s) := by
  unfold execTokack
  split
  · exact next_steadies h
  · split
    · split
      · exact next_steadies (waitHome_steady h)
      · exact next_steadies (answered_steady (setSlice_steady (dropMsg_steady h)))
    · exact next_steadies h

theorem execTokret_steadies {message} (h : s.Steady W R) : Steadies W R (execTokret message s) := by
  unfold execTokret
  split
  · exact next_steadies h
  · split
    · exact ite_steadies (next_steadies (waitHome_steady h)) (next_steadies (setSlice_steady (dropMsg_steady h)))
    · exact next_steadies h

theorem execGone_steadies {message} (h : s.Steady W R) : Steadies W R (execGone message s) := by
  unfold execGone
  split
  · exact next_steadies h
  · split
    · exact ite_steadies (next_steadies (waitHome_steady h)) (next_steadies (answered_steady (dropMsg_steady h)))
    · exact next_steadies h

theorem execInv_steadies {message} (h : s.Steady W R) : Steadies W R (execInv message s) := by
  unfold execInv
  split
  · exact next_steadies h
  · split
    · exact ite_steadies (next_steadies h) (next_steadies (send_steady (dropCopies_steady (dropMsg_steady h))))
    · exact next_steadies h

theorem invDone_steady {slice line cluster} (h : s.Steady W R) : (s.invDone slice line cluster).Steady W R := by
  unfold State.invDone
  extract_lets +onlyGivenNames sl
  split
  · exact h
  · exact ite_steady (goOn_steady (setSlice_steady h)) (setSlice_steady h)

theorem execInvAck_steadies {message} (h : s.Steady W R) : Steadies W R (execInvAck message s) := by
  unfold execInvAck
  split
  · exact next_steadies h
  · split
    · exact ite_steadies (next_steadies (waitHome_steady h)) (next_steadies (invDone_steady (dropMsg_steady h)))
    · exact next_steadies h

theorem execLineFree_steadies {line} (h : s.Steady W R) : Steadies W R (execLineFree line s) := by
  unfold execLineFree
  extract_lets +onlyGivenNames home sl
  split
  · split
    · exact next_steadies h
    · extract_lets +onlyGivenNames s1
      have hs1 : s1.Steady W R := setSlice_steady h
      exact next_steadies (foldl_steady (fun _ _ h2 => admitLine_steady h2) hs1)
  · exact next_steadies h

/-! ## DRAM -/

theorem readSector_steady {sector} (h : s.Steady W R) : (s.readSector sector).Steady W R := ite_steady (addBad_steady h) h

theorem endBypass_steady {slice line sector} (h : s.Steady W R) : (s.endBypass slice line sector).Steady W R := by
  unfold State.endBypass
  extract_lets +onlyGivenNames sl left s1
  have hs1 : s1.Steady W R := setSlice_steady h
  refine foldl_steady (fun _ _ h1 => ?_) hs1
  extract_lets +onlyGivenNames id
  split
  · split
    · exact send_steady (chargeAcc_steady (tally_steady (dropMsg_steady (mapLanes_steady h1))))
    · exact h1
  · exact h1

theorem issueDram_steady {mc r write} (h : s.Steady W R) : (s.issueDram mc r write).Steady W R := setController_steady h

theorem fillSector_steady {home line q} (h : s.Steady W R) : (s.fillSector home line q).Steady W R := by
  unfold State.fillSector
  extract_lets +onlyGivenNames sl b acc n s1
  have hs1 : s1.Steady W R := by
    unfold s1
    clear_value acc
    split
    · exact chargeAcc_steady h
    · exact charge_steady h
    · exact h
  extract_lets +onlyGivenNames sl1
  split
  · exact setSlice_steady hs1
  · extract_lets +onlyGivenNames s2
    have hs2 : s2.Steady W R := setSlice_steady hs1
    extract_lets +onlyGivenNames s3
    have hs3 : s3.Steady W R := by
      unfold s3
      split
      · exact serveHome_steady hs2
      · exact setBusy_steady hs2
    split
    · exact serveHome_steady hs3
    · exact hs3

theorem execDramReadReturn_steadies {read} (h : s.Steady W R) : Steadies W R (execDramReadReturn read s) := by
  unfold execDramReadReturn
  extract_lets +onlyGivenNames home mc
  split
  · split
    · exact next_steadies h
    · extract_lets +onlyGivenNames sl s1
      have hs1 : s1.Steady W R := issueDram_steady h
      extract_lets +onlyGivenNames s2
      have hs2 : s2.Steady W R := ite_steady (readSector_steady (ite_steady (poisonSector_steady hs1) hs1)) hs1
      exact next_steadies (feed_steady (ite_steady (fillSector_steady hs2) (endBypass_steady hs2)))
  · exact next_steadies h

theorem execDramWriteAck_steadies {slice} (h : s.Steady W R) : Steadies W R (execDramWriteAck slice s) := by
  unfold execDramWriteAck
  split
  · exact next_steadies h
  · exact next_steadies (feed_steady (setSlice_steady (issueDram_steady h)))

theorem execBadLineClear_steadies {slice entry} (h : s.Steady W R) : Steadies W R (execBadLineClear slice entry s) := by
  unfold execBadLineClear
  split
  · exact next_steadies h
  · extract_lets +onlyGivenNames sl
    split
    · exact next_steadies h
    · exact next_steadies (setSlice_steady (setSlice_steady (writeNow_steady h)))

/-! ## Retention of slices -/

theorem execSliceRetentionEntry_steadies {slice} (h : s.Steady W R) : Steadies W R (execSliceRetentionEntry slice s) :=
  ite_steadies (next_steadies h) (next_steadies (setSlice_steady h))

theorem execSliceWake_steadies {slice} (h : s.Steady W R) : Steadies W R (execSliceWake slice s) := by
  unfold execSliceWake
  extract_lets +onlyGivenNames sl
  split
  · exact ite_steadies (next_steadies (tally_steady (setSlice_steady h))) (next_steadies h)
  · exact next_steadies h

/-! ## Packets -/

theorem meshMove_steady {p t} (h : s.Steady W R) : (s.meshMove p t).Steady W R := ite_steady (exclude_steady (setSlice_steady h)) h

theorem meshRun_steady {limit fuel} (h : s.Steady W R) : (s.meshRun limit fuel).Steady W R := by
  induction fuel generalizing s with
  | zero => exact h
  | succ n ih =>
    unfold State.meshRun
    split
    · exact ih (meshMove_steady h)
    · exact h

theorem elapse_steady {dt} (h : s.Steady W R) : (s.elapse dt).Steady W R := ite_steady (meshRun_steady h) h

/-! ## Teams and tasks -/

theorem commitFromBase_steady {team cause} (h : s.Steady W R) : (s.commitFromBase team cause).Steady W R := sendBase_steady h

/-! ## Overflow -/

theorem writeBlock_steady {slice task block} (h : s.Steady W R) : (s.writeBlock slice task block).Steady W R := by
  unfold State.writeBlock
  extract_lets +onlyGivenNames k va
  split
  · extract_lets +onlyGivenNames s1 held index entry head m
    have hs1 : s1.Steady W R := xlateTouch_steady h
    refine ⟨fun hw => ?_, hs1.2⟩
    refine List.foldlRecOn (motive := fun m => Memory.wf m = true) _ _ (cwrite_wf _ _ _ (hs1.1 hw)) fun m hm v _ => ?_
    split
    · exact cwrite_wf _ _ _ hm
    · exact hm
  · exact h

theorem rewriteBlocks_steady {slice task blocks} (h : s.Steady W R) : (s.rewriteBlocks slice task blocks).Steady W R :=
  setTask_steady (foldl_steady (fun _ _ h1 => writeBlock_steady h1) h)

theorem chargeOverflow_steady {task} (h : s.Steady W R) : (s.chargeOverflow task).Steady W R := by
  unfold State.chargeOverflow
  split
  · exact charge_steady h
  · exact h

theorem displace_steady {slice v} (h : s.Steady W R) : (s.displace slice v).Steady W R := by
  unfold State.displace
  extract_lets +onlyGivenNames k sl
  split
  · exact chargeOverflow_steady (writeBlock_steady (setSlice_steady h))
  · split
    · exact setSlice_steady h
    · split
      · exact tally_steady (chargeOverflow_steady (writeBlock_steady (setTask_steady (setSlice_steady h))))
      · extract_lets +onlyGivenNames s1
        have hs1 : s1.Steady W R := setSlice_steady h
        split
        · split
          · exact commitFromBase_steady (setTask_steady hs1)
          · exact hs1
        · exact setTask_steady hs1

theorem takeVersion_steady {slice v} (h : s.Steady W R) : (s.takeVersion slice v).Steady W R := by
  unfold State.takeVersion
  extract_lets +onlyGivenNames sl
  split
  · exact setSlice_steady h
  · split
    rename_i s1 es1
    have hs1 : s1.Steady W R := steady_of_snd (fresh_steady h) es1
    extract_lets +onlyGivenNames put
    have hput : ∀ u, u.Steady W R → (put u).Steady W R := fun u hu => tally_steady (setSlice_steady (allocate_steady hu))
    extract_lets +onlyGivenNames set
    split
    · exact hput _ hs1
    · split
      · exact hput _ hs1
      · exact displace_steady (hput _ (setSlice_steady hs1))

theorem versionBad_steady {v} (h : s.Steady W R) : (s.versionBad v).Steady W R := by
  unfold State.versionBad
  split
  · exact h
  · exact errorTrap_steady h

theorem takeOut_steady {slice v} (h : s.Steady W R) : (s.takeOut slice v).Steady W R := by
  unfold State.takeOut
  extract_lets +onlyGivenNames sl s1
  have hs1 : s1.Steady W R := setSlice_steady h
  split
  · exact rewriteBlocks_steady hs1
  · exact hs1

theorem execPatrolScrub_steadies {scrub} (h : s.Steady W R) : Steadies W R (execPatrolScrub scrub s) := by
  unfold execPatrolScrub
  extract_lets +onlyGivenNames line home found
  split
  · exact next_steadies (readSector_steady (ite_steady (poisonSector_steady h) h))
  · exact next_steadies (ite_steady (addBad_steady h) h)
  · split
    · exact next_steadies (versionBad_steady (takeOut_steady h))
    · exact next_steadies h

theorem execVersionLineWrite_steadies {delivery} (h : s.Steady W R) : Steadies W R (execVersionLineWrite delivery s) := by
  unfold execVersionLineWrite
  split
  · exact next_steadies h
  · split
    · split
      · exact next_steadies (waitHome_steady h)
      · extract_lets +onlyGivenNames live live1
        split
        · exact next_steadies (dropMsg_steady h)
        · split
          · exact next_steadies (versionBad_steady (dropMsg_steady h))
          · exact ite_steadies (next_steadies h) (next_steadies (takeVersion_steady (dropMsg_steady h)))
    · exact next_steadies h

/-! ## Retirement -/

theorem retired_steady {team} (h : s.Steady W R) : (s.retired team).Steady W R := by
  unfold State.retired
  extract_lets +onlyGivenNames t s1 s2
  have hs2 : s2.Steady W R := setTask_steady h
  extract_lets +onlyGivenNames s3
  have hs3 : s3.Steady W R := freeReservation_steady (freeTiles_steady hs2)
  extract_lets +onlyGivenNames s4 s5
  have hs5 : s5.Steady W R := setTeam_steady hs3
  split
  · extract_lets +onlyGivenNames src
    have hsrc : src.Steady W R := freeUnits_steady hs5
    exact hsrc
  · extract_lets +onlyGivenNames members s6
    have hs6 : s6.Steady W R := ite_steady (foldl_steady (fun _ _ h4 => freeUnits_steady h4) hs5) hs5
    exact gridCheck_steady (readmitPreempted_steady (barrierCheck_steady (setGrid_steady hs6)))

theorem execTeamRetire_steadies {team} (h : s.Steady W R) : Steadies W R (execTeamRetire team s) :=
  ite_steadies (next_steadies (askCommit_steady (setTeam_steady h))) (next_steadies h)

/-! ## Commit -/

theorem sendVersions_steady {core p} (h : s.Steady W R) : (s.sendVersions core p).Steady W R :=
  foldl_steady (fun _ _ h1 => foldl_steady (fun _ _ h2 => evictLine_steady h2) h1) h

theorem startCommit_steady {team core slot entry} (h : s.Steady W R) : (s.startCommit team core slot entry).Steady W R := by
  unfold State.startCommit
  extract_lets +onlyGivenNames t k
  split
  rename_i s1 es1
  have hs1 : s1.Steady W R := steady_of_snd (fresh_steady h) es1
  extract_lets +onlyGivenNames c s2
  have hs2 : s2.Steady W R := setTask_steady hs1
  extract_lets +onlyGivenNames waits s3
  have hs3 : s3.Steady W R := ite_steady (setWait_steady hs2) hs2
  extract_lets +onlyGivenNames s4
  have hs4 : s4.Steady W R := ite_steady (sendVersions_steady hs3) hs3
  exact foldl_steady (fun _ _ h5 => ite_steady (send_steady h5) (sendBase_steady h5)) hs4

theorem execCmtReq_steadies {message} (h : s.Steady W R) : Steadies W R (execCmtReq message s) := by
  unfold execCmtReq
  split
  · exact next_steadies h
  · split
    · split
      · exact next_steadies h
      · extract_lets +onlyGivenNames t k coming
        split
        · exact next_steadies (dropMsg_steady h)
        · exact ite_steadies (next_steadies h) (next_steadies (startCommit_steady (dropMsg_steady h)))
    · exact next_steadies h

theorem execCmtMark_steadies {message} (h : s.Steady W R) : Steadies W R (execCmtMark message s) := by
  unfold execCmtMark
  split
  · exact next_steadies h
  · split
    · exact ite_steadies (next_steadies (waitHome_steady h)) (next_steadies (sendBase_steady (dropMsg_steady h)))
    · exact next_steadies h

theorem mergeWords_steady {v} (h : s.Steady W R) : (s.mergeWords v).Steady W R :=
  foldl_steady (fun _ _ h1 => ite_steady (homeStore_steady h1) h1) (settleLine_steady h)

theorem mergeSlice_steady {slice task epoch which} (h : s.Steady W R) : (s.mergeSlice slice task epoch which).Steady W R := by
  unfold State.mergeSlice
  extract_lets +onlyGivenNames sl mine lines blocks s1
  have hs1 : s1.Steady W R := foldl_steady (fun _ _ h1 => mergeWords_steady h1) h
  exact ite_steady (setSlice_steady hs1) (rewriteBlocks_steady (setSlice_steady hs1))

theorem mergeInOrder_steady {slice task epoch which} (h : s.Steady W R) : (s.mergeInOrder slice task epoch which).Steady W R :=
  mergeSlice_steady (foldl_steady (fun _ _ h1 => mergeSlice_steady h1) h)

theorem askMerges_steady {seed task epoch} (h : s.Steady W R) : (s.askMerges seed task epoch).Steady W R :=
  foldl_steady (fun _ _ h1 => sendBase_steady (mergeInOrder_steady h1)) h

theorem execCmtAck_steadies {message} (h : s.Steady W R) : Steadies W R (execCmtAck message s) := by
  unfold execCmtAck
  split
  · exact next_steadies h
  · split
    · split
      · exact next_steadies h
      · extract_lets +onlyGivenNames s1
        have hs1 : s1.Steady W R := dropMsg_steady h
        extract_lets +onlyGivenNames k
        split
        · exact next_steadies hs1
        · split
          · exact next_steadies hs1
          · extract_lets +onlyGivenNames acks
            split
            · exact next_steadies (setTask_steady hs1)
            · split
              rename_i s2 es2
              have hs2 : s2.Steady W R := steady_of_snd (fresh_steady hs1) es2
              extract_lets +onlyGivenNames s3
              have hs3 : s3.Steady W R := setTask_steady hs2
              extract_lets +onlyGivenNames s4
              have hs4 : s4.Steady W R := by
                unfold s4
                split
                · exact setTeam_steady hs3
                · exact hs3
              exact next_steadies (askMerges_steady hs4)
    · exact next_steadies h

theorem wakeCommit_steady {id} (h : s.Steady W R) : (s.wakeCommit id).Steady W R := h

theorem commitDone_steady {task c} (h : s.Steady W R) : (s.commitDone task c).Steady W R := by
  unfold State.commitDone
  extract_lets +onlyGivenNames k s1
  have hs1 : s1.Steady W R := setTask_steady h
  extract_lets +onlyGivenNames s2
  have hs2 : s2.Steady W R := wakeCommit_steady hs1
  split
  · exact ite_steady (setTask_steady hs2) hs2
  · exact ite_steady (retired_steady hs2) (ite_steady (setTeam_steady hs2) hs2)

theorem execMergeDone_steadies {message} (h : s.Steady W R) : Steadies W R (execMergeDone message s) := by
  unfold execMergeDone
  split
  · exact next_steadies h
  · split
    · split
      · exact next_steadies h
      · extract_lets +onlyGivenNames s1
        have hs1 : s1.Steady W R := dropMsg_steady h
        split
        · exact next_steadies hs1
        · extract_lets +onlyGivenNames s2
          have hs2 : s2.Steady W R := mergeInOrder_steady hs1
          exact ite_steadies (next_steadies (setTask_steady hs2)) (next_steadies (commitDone_steady hs2))
    · exact next_steadies h

theorem execCommit_steadies {o} (h : s.Steady W R) : Steadies W R (execCommit o s) :=
  runState_steadies (fun _ => issued_doneSteady (askCommit_steady (setNr_steady h))) h

/-! ## Version overflow traps -/

theorem execVersionOverflowTrap_steadies {core slot} (h : s.Steady W R) : Steadies W R (execVersionOverflowTrap core slot s) := by
  unfold execVersionOverflowTrap
  split
  · exact next_steadies h
  · exact ite_steadies (next_steadies h) (next_steadies (boundaryTrap_steady (setTask_steady h)))

/-! ## Discard -/

theorem execDiscardRequest_steadies {slot} (h : s.Steady W R) : Steadies W R (execDiscardRequest slot s) :=
  ite_steadies (next_steadies h) (next_steadies (setTask_steady h))

theorem execDiscardComplete_steadies {slot} (h : s.Steady W R) : Steadies W R (execDiscardComplete slot s) :=
  ite_steadies (next_steadies (setTask_steady h)) (next_steadies h)

/-! ## Fences -/

theorem fenceFabric_steady {cs} (h : s.Steady W R) : (s.fenceFabric cs).Steady W R := by
  unfold State.fenceFabric
  extract_lets +onlyGivenNames s1 s2
  have hs2 : s2.Steady W R := by
    unfold s2
    refine foldl_steady (fun _ _ h1 => ?_) h
    split
    split
    · exact ite_steady (dropMsg_steady (foldl_steady (fun _ _ h2 => homeStore_steady h2) h1)) h1
    · exact h1
  exact foldl_steady (fun _ _ h2 => goOn_steady h2) hs2

theorem fenceClusters_steady {cs info} (h : s.Steady W R) : (s.fenceClusters cs info).Steady W R := by
  unfold State.fenceClusters
  extract_lets +onlyGivenNames s1
  have hs1 : s1.Steady W R := foldl_steady (fun _ _ h1 => foldCycles_steady h1) (foldCounters_steady (fenceFabric_steady h))
  extract_lets +onlyGivenNames hit grids s2
  have hs2 : s2.Steady W R := foldl_steady (fun _ _ h2 => ite_steady (discardTeam_steady h2) h2) hs1
  extract_lets +onlyGivenNames s3
  have hs3 : s3.Steady W R := dropStrays_steady hs2
  extract_lets +onlyGivenNames s4
  have hs4 : s4.Steady W R := by
    unfold s4
    refine foldl_steady (fun _ _ h1 => ?_) hs3
    split
    · exact ite_steady h1 (setGrid_steady h1)
    · exact h1
  exact postAll_steady hs4

theorem fenceChiplet_steady {n} (h : s.Steady W anyPower) : (s.fenceChiplet n).Steady W anyPower :=
  ite_steady h (fenceClusters_steady (foldCounters_steady h))

theorem cutOff_steady {c} (h : s.Steady W anyPower) : (s.cutOff c).Steady W anyPower := fenceClusters_steady (foldCounters_steady h)

theorem execChipletFenceNotice_steadies {team} (h : s.Steady W R) : Steadies W R (execChipletFenceNotice team s) := by
  unfold execChipletFenceNotice
  extract_lets +onlyGivenNames t g
  split
  · exact next_steadies h
  · extract_lets +onlyGivenNames keys drop
    have hdrop : ∀ u, u.Steady W R → (drop u).Steady W R := fun u hu => setGrid_steady hu
    split
    · exact next_steadies (hdrop _ h)
    · split
      · exact next_steadies h
      · clear_value keys
        split
        · exact next_steadies (hdrop _ h)
        · split
          · exact next_steadies h
          · exact ite_steadies (next_steadies (boundaryTrap_steady (hdrop _ h))) (next_steadies h)

/-! ## The Chiplet stage -/

theorem chipletStart_steady {n} (h : s.Steady W anyPower) : (s.chipletStart n).Steady W anyPower := by
  unfold State.chipletStart
  extract_lets +onlyGivenNames mine was s1
  have hs1 : s1.Steady W anyPower := foldCounters_steady (fenceFabric_steady h)
  extract_lets +onlyGivenNames p off p1 cycles s2 s3
  have hs3 : s3.Steady W anyPower := foldl_steady (fun _ _ h2 => setCore_steady h2) hs1
  refine foldl_steady (fun _ _ h1 => ?_) hs3
  exact ite_steady (setCluster_steady h1) (rouseSlice_steady (rouseSlice_steady (setCluster_steady h1)))

theorem checkFull_steady (h : s.Steady W R) : s.checkFull.Steady W R := ite_steady h h

theorem failStage_steady {n} (h : s.Steady W anyPower) : (s.failStage n).Steady W anyPower := ite_steady h h

/-! ## Elevator ports -/

theorem failElevator_steady {p carries} (h : s.Steady W anyPower) : (s.failElevator p carries).Steady W anyPower :=
  ite_steady h (ite_steady (setCluster_steady h) (ite_steady (fenceChiplet_steady h) (cutOff_steady h)))

theorem correctable_steady {p} (h : s.Steady W anyPower) : (s.correctable p).Steady W anyPower := ite_steady (failElevator_steady h) h

/-! ## The Chiplet stage and chiplet resets -/

theorem chipletStage_steady {n check} (h : s.Steady W anyPower) : (s.chipletStage n check).Steady W anyPower := by
  unfold State.chipletStage
  extract_lets +onlyGivenNames s1
  have hs1 : s1.Steady W anyPower := chipletStart_steady h
  split
  · exact fenceChiplet_steady (failStage_steady hs1)
  · exact checkFull_steady (foldl_steady (fun _ _ h2 => failElevator_steady h2) hs1)

theorem rejoin_steady {n check} (h : s.Steady W anyPower) : (s.rejoin n check).Steady W anyPower :=
  chipletStage_steady (foldl_steady (fun _ _ h1 => ite_steady (discardTeam_steady h1) h1) h)

theorem execCutOffChipletReset_steadies {run} (h : s.Steady W anyPower) : Steadies W anyPower (execCutOffChipletReset run s) :=
  ite_steadies (next_steadies h) (next_steadies (rejoin_steady h))

/-! ## Packets on elevator ports -/

theorem numberPacket_steady {id} (h : s.Steady W R) : (s.numberPacket id).Steady W R := by
  unfold State.numberPacket
  split
  · exact h
  · exact ite_steady h h

theorem crossPort_steady {id port} (h : s.Steady W R) : (s.crossPort id port).Steady W R := by
  unfold State.crossPort
  split
  · exact h
  · split
    · exact dropMsg_steady h
    · extract_lets +onlyGivenNames f s1
      split
      · exact ite_steady (dropMsg_steady h) h
      · exact h

theorem execElevatorPacket_steadies {message check} (h : s.Steady W anyPower) :
    Steadies W anyPower (execElevatorPacket message check s) := by
  unfold execElevatorPacket
  split
  · exact next_steadies h
  · extract_lets +onlyGivenNames port
    split
    · exact next_steadies h
    · extract_lets +onlyGivenNames s1
      have hs1 : s1.Steady W anyPower := numberPacket_steady h
      split
      · exact next_steadies (crossPort_steady hs1)
      · exact next_steadies (correctable_steady (crossPort_steady hs1))
      · exact next_steadies (failElevator_steady (ite_steady hs1 hs1))

theorem execElevatorRetireComplete_steadies {port} (h : s.Steady W anyPower) :
    Steadies W anyPower (execElevatorRetireComplete port s) :=
  ite_steadies (next_steadies h) (next_steadies h)

/-! ## The Avenue -/

theorem execAvenueTokenGrant_steadies {toSlice channel station} (h : s.Steady W R) :
    Steadies W R (execAvenueTokenGrant toSlice channel station s) := by
  unfold execAvenueTokenGrant
  split
  · exact next_steadies h
  · split
    · exact next_steadies h
    · split
      extract_lets +onlyGivenNames s1
      have hs1 : s1.Steady W R := by
        unfold s1
        refine foldl_steady (fun _ _ h1 => ?_) h
        split
        · exact charge_steady h1
        · exact h1
      exact next_steadies hs1

/-! ## The pin table -/

theorem execPinTableWrite_steadies {off width value} (h : s.Steady W R) : Steadies W R (execPinTableWrite off width value s) := by
  unfold execPinTableWrite
  split
  · exact next_steadies h
  · exact ite_steadies (next_steadies h) (ite_steadies (next_steadies h) (next_steadies h))

theorem execPinMoveDone_steadies (h : s.Steady W R) :
    Steadies W R (execPinMoveDone s) :=
  ite_steadies (next_steadies h) (next_steadies h)

end Sys2Proof.Machine

/-! # Memory through a step: saves, barriers, events and parking -/

namespace Sys2Proof.Machine

variable {s : State} {W : Prop} {R : Power → Prop}

/-! ## Save areas -/

theorem putArea_steady {a off bs} (h : s.Steady W R) : (s.putArea a off bs).Steady W R :=
  ite_steady (writeNow_steady h) (foldl_steady (fun _ _ h1 => unitWrite_steady h1) h)

theorem getArea_steady {a off n} (h : s.Steady W R) : (s.getArea a off n).1.Steady W R := by
  unfold State.getArea
  split
  · exact readNow_steady h
  · refine foldl_fst_steady (fun _ _ h1 => ?_) h
    split
    · rename_i s1 _ es1
      have hs1 : s1.Steady W R := steady_of_fst (unitRead_steady h1) es1
      exact hs1
    · rename_i s1 _ es1
      have hs1 : s1.Steady W R := steady_of_fst (unitRead_steady h1) es1
      exact hs1

theorem saveGroup_steady {a e g} (h : s.Steady W R) : (s.saveGroup a e g).Steady W R := putArea_steady h

theorem saveTeam_steady {team kind} (h : s.Steady W R) : (s.saveTeam team kind).Steady W R := by
  unfold State.saveTeam
  extract_lets +onlyGivenNames t e park a s1
  have hs1 : s1.Steady W R := putArea_steady h
  extract_lets +onlyGivenNames s2
  have hs2 : s2.Steady W R := foldl_steady (fun _ _ h2 => saveGroup_steady h2) hs1
  extract_lets +onlyGivenNames s3
  have hs3 : s3.Steady W R := ite_steady hs2 (putArea_steady hs2)
  exact ite_steady (foldl_steady (fun _ _ h4 => putArea_steady (ite_fst_steady (getArea_steady h4) h4)) hs3) hs3

theorem loadGroup_steady {a e g} (h : s.Steady W R) : (s.loadGroup a e g).1.Steady W R :=
  getArea_steady (ite_fst_steady (getArea_steady h) (getArea_steady (getArea_steady h)))

theorem loadScratch_steady {team park} (h : s.Steady W R) : (s.loadScratch team park).Steady W R :=
  ite_steady h (setTeam_steady (getArea_steady h))

theorem answer_steady {core slot entry d w64 v at'} (h : s.Steady W R) : (s.answer core slot entry d w64 v at').Steady W R := by
  unfold State.answer
  split
  · exact h
  · exact setGroup_steady h

/-! ## Barriers -/

theorem execBar_steadies {o} (h : s.Steady W R) : Steadies W R (execBar o s) :=
  runState_steadies (fun _ => stall_doneSteady (noteArrivals_steady (afterIssue_steady h))) h

theorem execBarrierRelease_steadies {team} (h : s.Steady W R) : Steadies W R (execBarrierRelease team s) := by
  unfold execBarrierRelease
  extract_lets +onlyGivenNames t
  split
  · exact next_steadies h
  · exact ite_steadies (next_steadies h) (next_steadies (mapTeam_steady (setTeam_steady h)))

theorem arriveInstr_steadies {op grid o} (h : s.Steady W R) : Steadies W R (arriveInstr op grid o s) := by
  unfold arriveInstr
  refine runState_steadies (fun _ => ?_) h
  extract_lets +onlyGivenNames t count done
  split
  · exact stall_doneSteady (waitFrag_steady h)
  · refine bind_doneSteady fun _ => ?_
    exact bind_doneSteady fun _ => issued_doneSteady (arriveAt_steady (ite_steady (setNr_steady h) h))

theorem execDwait_steadies {o} (h : s.Steady W R) : Steadies W R (execDwait o s) :=
  runState_steadies (fun _ => bind_doneSteady fun _ => issued_doneSteady h) h

theorem execGwait_steadies {o} (h : s.Steady W R) : Steadies W R (execGwait o s) :=
  runState_steadies (fun _ => bind_doneSteady fun _ => issued_doneSteady h) h

theorem execDistrictArrival_steadies {message} (h : s.Steady W R) : Steadies W R (execDistrictArrival message s) := by
  unfold execDistrictArrival
  split
  · split
    · exact ite_steadies (next_steadies (firePlaza_steady (districtCheck_steady (dropMsg_steady h)))) (next_steadies h)
    · exact next_steadies h
  · exact next_steadies h

theorem execGridArrival_steadies {message} (h : s.Steady W R) : Steadies W R (execGridArrival message s) := by
  unfold execGridArrival
  split
  · split
    · exact ite_steadies (next_steadies (firePlaza_steady (gridBarrierCheck_steady (dropMsg_steady h)))) (next_steadies h)
    · exact next_steadies h
  · exact next_steadies h

/-! ## Events -/

theorem execWaitany_steadies {o} (h : s.Steady W R) : Steadies W R (execWaitany o s) := by
  unfold execWaitany
  refine runState_steadies (fun _ => ?_) h
  refine bind_doneSteady fun _ => ?_
  split
  · exact error_doneSteady
  · extract_lets +onlyGivenNames base mask size
    split
    · exact error_doneSteady
    · split
      · exact error_doneSteady
      · exact issued_doneSteady h

theorem resumeEvent_steady {core slot entry d} (h : s.Steady W R) : (s.resumeEvent core slot entry d).Steady W R := by
  unfold State.resumeEvent
  split
  · exact h
  · split
    · exact h
    · exact ite_steady (setTeam_steady (setGroup_steady h)) (setGroup_steady h)

theorem plazaGroup_steady {core slot index} (h : s.Steady W R) : (s.plazaGroup core slot index).Steady W R := by
  unfold State.plazaGroup
  split
  · exact h
  · split
    · exact h
    · split
      · exact ite_steady h (ite_steady (resumeEvent_steady (setGroup_steady h)) (setGroup_steady h))
      · exact ite_steady (resumeEvent_steady h) (ite_steady (setGroup_steady h) h)
      · exact ite_steady (setGroup_steady h) h

theorem plazaKept_steady {core slot index} (h : s.Steady W R) : (s.plazaKept core slot index).Steady W R :=
  foldl_steady (fun _ _ h1 => wakeParked_steady h1) h

theorem execEventFiring_steadies {core slot index} (h : s.Steady W R) : Steadies W R (execEventFiring core slot index s) :=
  next_steadies (plazaKept_steady (plazaGroup_steady h))

theorem execTimerDeadline_steadies {core slot index} (h : s.Steady W R) : Steadies W R (execTimerDeadline core slot index s) := by
  unfold execTimerDeadline
  extract_lets +onlyGivenNames here s1
  have hs1 : s1.Steady W R := ite_steady (plazaGroup_steady h) h
  exact next_steadies (ite_steady (plazaKept_steady hs1) hs1)

theorem execEvset_steadies {o} (h : s.Steady W R) : Steadies W R (execEvset o s) :=
  runState_steadies (fun _ => bind_doneSteady fun _ => issued_doneSteady (send_steady (setNr_steady h))) h

theorem execFlagSet_steadies {message} (h : s.Steady W R) : Steadies W R (execFlagSet message s) := by
  unfold execFlagSet
  split
  · exact next_steadies h
  · split
    · exact ite_steadies (next_steadies h) (next_steadies (firePlaza_steady (setCtx_steady (dropMsg_steady h))))
    · exact next_steadies h

/-! ## Mailboxes -/

theorem execMsend_steadies {o} (h : s.Steady W R) : Steadies W R (execMsend o s) :=
  runState_steadies (fun _ => bind_doneSteady fun _ => issued_doneSteady (send_steady (setNr_steady h))) h

theorem takeMail_steady {ctx box core slot entry} (h : s.Steady W R) : (s.takeMail ctx box core slot entry).Steady W R := by
  unfold State.takeMail
  split
  · split
    · exact answer_steady (setCtx_steady h)
    · exact h
  · exact h

theorem serveBox_steady {ctx box} (h : s.Steady W R) : (s.serveBox ctx box).Steady W R := by
  unfold State.serveBox
  extract_lets +onlyGivenNames c
  split
  · exact takeMail_steady (setCtx_steady h)
  · exact h

theorem enterBox_steady {ctx box core slot entry} (h : s.Steady W R) : (s.enterBox ctx box core slot entry).Steady W R :=
  serveBox_steady (setCtx_steady h)

theorem execMrecv_steadies {o} (h : s.Steady W R) : Steadies W R (execMrecv o s) := by
  unfold execMrecv
  refine runState_steadies (fun _ => ?_) h
  exact bind_doneSteady fun _ => stall_doneSteady (enterBox_steady (afterIssue_steady h))

theorem execMailboxMessageArrival_steadies {message} (h : s.Steady W R) : Steadies W R (execMailboxMessageArrival message s) := by
  unfold execMailboxMessageArrival
  split
  · exact next_steadies h
  · split
    · split
      · exact next_steadies h
      · extract_lets +onlyGivenNames s1
        have hs1 : s1.Steady W R := dropMsg_steady h
        extract_lets +onlyGivenNames c held full s2
        have hs2 : s2.Steady W R := ite_steady hs1 (serveBox_steady (firePlaza_steady (setCtx_steady hs1)))
        split
        · split
          · exact next_steadies (ite_steady (answer_steady hs2) hs2)
          · exact next_steadies hs2
        · exact next_steadies hs2
    · exact next_steadies h

/-! ## XSHF -/

theorem execXshf_steadies {o} (h : s.Steady W R) : Steadies W R (execXshf o s) := by
  unfold execXshf
  refine runState_steadies (fun _ => ?_) h
  split
  · exact stall_doneSteady (waitFrag_steady h)
  · refine bind_doneSteady fun _ => ?_
    exact ite_doneSteady error_doneSteady (ite_doneSteady error_doneSteady (stall_doneSteady (afterIssue_steady h)))

theorem execXshfMatch_steadies {core slot} (h : s.Steady W R) : Steadies W R (execXshfMatch core slot s) := by
  unfold execXshfMatch
  split
  · exact next_steadies h
  · split
    · exact next_steadies h
    · split
      · exact next_steadies h
      · split
        · exact next_steadies h
        · split
          · exact next_steadies h
          · extract_lets +onlyGivenNames at0 s1
            have hs1 : s1.Steady W R := setGroup_steady h
            exact next_steadies hs1

theorem execXshfTimeout_steadies {core slot} (h : s.Steady W R) : Steadies W R (execXshfTimeout core slot s) := by
  unfold execXshfTimeout
  split
  · exact next_steadies h
  · split
    · exact next_steadies h
    · exact ite_steadies (next_steadies (trapTo_steady (setGroup_steady h))) (next_steadies h)

/-! ## TRIG -/

theorem execTrig_steadies {o} (h : s.Steady W R) : Steadies W R (execTrig o s) :=
  runState_steadies (fun _ => stall_doneSteady (noteArrivals_steady (afterIssue_steady h))) h

theorem execTrigTaken_steadies {team} (h : s.Steady W R) : Steadies W R (execTrigTaken team s) := by
  unfold execTrigTaken
  extract_lets +onlyGivenNames t
  split
  · exact next_steadies h
  · split
    · exact next_steadies h
    · exact next_steadies (startCommit_steady (setNr_steady (mapTeam_steady (setTeam_steady h))))

theorem execTrigEffect_steadies {team} (h : s.Steady W R) : Steadies W R (execTrigEffect team s) := by
  unfold execTrigEffect
  extract_lets +onlyGivenNames t
  split
  · exact next_steadies h
  · exact ite_steadies (next_steadies h) (next_steadies (setGrid_steady (setTeam_steady h)))

/-! ## Slots and registers -/

theorem execGroupReady_steadies {core slot} (h : s.Steady W R) : Steadies W R (execGroupReady core slot s) := by
  unfold execGroupReady
  split
  · exact next_steadies h
  · exact ite_steadies (next_steadies (setGroup_steady h)) (next_steadies h)

theorem execSwitchMarkerRelease_steadies {core slot} (h : s.Steady W R) : Steadies W R (execSwitchMarkerRelease core slot s) := by
  unfold execSwitchMarkerRelease
  split
  · exact next_steadies h
  · exact ite_steadies (next_steadies (setGroup_steady (foldCounters_steady h))) (next_steadies h)

theorem execChipletArrayUncorrectable_steadies {core slot} (h : s.Steady W R) :
    Steadies W R (execChipletArrayUncorrectable core slot s) := by
  unfold execChipletArrayUncorrectable
  split
  · exact next_steadies h
  · exact next_steadies (errorTrap_steady (tally_steady h))

/-! ## Lazily held tiles -/

theorem spillTiles_steady {team js firstUse} (h : s.Steady W R) : (s.spillTiles team js firstUse).Steady W R := by
  unfold State.spillTiles
  extract_lets +onlyGivenNames t e a s1
  have hs1 : s1.Steady W R := foldl_steady (fun _ _ h1 => putArea_steady h1) h
  extract_lets +onlyGivenNames bits s2
  have hs2 : s2.Steady W R := setTeam_steady hs1
  exact releaseRing_steady (ite_steady (setCore_steady (putArea_steady hs2)) (putArea_steady hs2))

theorem spillAll_steady (h : s.Steady W R) : s.spillAll.Steady W R := foldl_steady (fun _ _ h1 => spillTiles_steady h1) h

/-! ## Leaving a core -/

theorem beginSave_steady {team state kind} (h : s.Steady W R) : (s.beginSave team state kind).Steady W R :=
  sendVersions_steady (mapTeam_steady (setTeam_steady h))

theorem leaveGroup_steady {key} (h : s.Steady W R) : (s.leaveGroup key).Steady W R := by
  unfold State.leaveGroup
  split
  · exact h
  · exact dropGroup_steady (leaveWaiters_steady (setTeam_steady h))

theorem leaveCore_steady {team} (h : s.Steady W R) : (s.leaveCore team).Steady W R :=
  freeUnits_steady (foldl_steady (fun _ _ h1 => leaveGroup_steady h1) h)

theorem leaveWritten_steady {team} (h : s.Steady W R) : (s.leaveWritten team).Steady W R :=
  foldl_fst_steady (fun _ _ h1 => ite_fst_steady (leaveGroup_steady (saveGroup_steady h1)) h1) h

theorem goOnGroup_steady {key} (h : s.Steady W R) : (s.goOnGroup key).Steady W R := by
  unfold State.goOnGroup
  split
  · exact h
  · exact foldl_steady (fun _ _ h1 => enterBox_steady h1) h

theorem goOnTeam_steady {team why} (h : s.Steady W R) : (s.goOnTeam team why).Steady W R :=
  foldl_steady (fun _ _ h1 => goOnGroup_steady h1) h

theorem stopGroups_steady {team why} (h : s.Steady W R) : (s.stopGroups team why).Steady W R := by
  unfold State.stopGroups
  refine foldl_steady (fun _ _ h1 => ?_) h
  extract_lets +onlyGivenNames s1
  have hs1 : s1.Steady W R := leaveWaiters_steady h1
  exact hs1

/-! ## Parking -/

theorem execParkEligible_steadies {team} (h : s.Steady W R) : Steadies W R (execParkEligible team s) :=
  ite_steadies (next_steadies (setTeam_steady h)) (next_steadies h)

theorem armTeam_steady {team state} (h : s.Steady W R) : (s.armTeam team state).Steady W R := mapTeam_steady (setTeam_steady h)

theorem takeSlot_steady {t : State} {team} (h : s.Steady W R) (ht : s.takeSlot team = some t) : t.Steady W R := by
  unfold State.takeSlot at ht
  extract_lets +onlyGivenNames x key used at ht
  split at ht
  · simp at ht
  · split at ht
    · simp at ht
    · obtain rfl := Option.some.inj ht
      exact h

theorem foldlM_steady {α : Type} {f : State → α → Option State} (hf : ∀ t u a, t.Steady W R → f t a = some u → u.Steady W R)
    {l : List α} {t : State} (h : s.Steady W R) (ht : l.foldlM f s = some t) : t.Steady W R := by
  induction l generalizing s with
  | nil => exact Option.some.inj ht ▸ h
  | cons a l ih =>
    rw [List.foldlM_cons, Option.bind_eq_bind, Option.bind_eq_some_iff] at ht
    obtain ⟨u, hu, ht⟩ := ht
    exact ih (hf _ _ _ h hu) ht

theorem execPlazaParkArm_steadies {team} (h : s.Steady W R) : Steadies W R (execPlazaParkArm team s) := by
  unfold execPlazaParkArm
  extract_lets unit
  split
  · exact next_steadies h
  · split
    · next hunit =>
      have hslots := foldlM_steady (fun _ _ _ => takeSlot_steady) h hunit
      exact next_steadies (foldl_steady (fun _ _ h1 => armTeam_steady h1) hslots)
    · exact next_steadies (foldl_steady (fun _ _ h1 => setTeam_steady h1) h)

theorem cancelPark_steady {team} (h : s.Steady W R) :
    (s.cancelPark team).Steady W R :=
  mapTeam_steady (setTeam_steady (freePark_steady h))

theorem execParkGo_steadies {team} (h : s.Steady W R) : Steadies W R (execParkGo team s) := by
  unfold execParkGo
  extract_lets +onlyGivenNames unit
  split
  · exact next_steadies h
  · split
    · exact next_steadies (foldl_steady (fun _ _ h1 => cancelPark_steady h1) h)
    · exact next_steadies (foldl_steady (fun _ _ h1 => beginSave_steady (mapTeam_steady h1)) h)

theorem execParkSpillDone_steadies {team} (h : s.Steady W R) : Steadies W R (execParkSpillDone team s) := by
  unfold execParkSpillDone
  extract_lets +onlyGivenNames t
  split
  · extract_lets +onlyGivenNames s1
    have hs1 : s1.Steady W R := freeReservation_steady (freeTiles_steady (leaveCore_steady (saveTeam_steady h)))
    exact next_steadies (wakeParked_steady (setTeam_steady hs1))
  · exact next_steadies h

/-! ## Pre-emption -/

theorem nameCause_steady {team c} (h : s.Steady W R) : (s.nameCause team c).Steady W R :=
  foldl_steady (fun _ _ h1 => ite_steady (setTeam_steady h1) h1) h

theorem nameOver_steady {team} (h : s.Steady W R) : (s.nameOver team).Steady W R := foldl_steady (fun _ _ h1 => nameCause_steady h1) h

theorem execPreemption_steadies {team} (h : s.Steady W R) : Steadies W R (execPreemption team s) := by
  unfold execPreemption
  extract_lets +onlyGivenNames s1
  have hs1 : s1.Steady W R := nameOver_steady h
  extract_lets +onlyGivenNames t
  split
  · exact next_steadies hs1
  · extract_lets +onlyGivenNames s2
    have hs2 : s2.Steady W R := stopGroups_steady hs1
    exact ite_steadies (next_steadies (beginSave_steady (tally_steady hs2))) (next_steadies hs2)

theorem execPreemptionSpillDone_steadies {team} (h : s.Steady W R) : Steadies W R (execPreemptionSpillDone team s) := by
  unfold execPreemptionSpillDone
  extract_lets +onlyGivenNames t
  split
  · exact next_steadies h
  · split
    · exact next_steadies (readmitPreempted_steady (setTeam_steady (leaveCore_steady (saveTeam_steady h))))
    · exact next_steadies (leaveWritten_steady h)

theorem endCauses_steady {p} (h : s.Steady W R) : (s.endCauses p).Steady W R := by
  unfold State.endCauses
  extract_lets +onlyGivenNames touched s1
  have hs1 : s1.Steady W R := foldl_steady (fun _ _ h1 => setTeam_steady h1) h
  extract_lets +onlyGivenNames s2
  have hs2 : s2.Steady W R := foldl_steady (fun _ _ h2 => ite_steady h2 (ite_steady (setTeam_steady h2) (goOnTeam_steady h2))) hs1
  exact readmitPreempted_steady hs2

/-! ## The debugger's halt -/

theorem execDebugHalt_steadies {func ctx value} (h : s.Steady W R) : Steadies W R (execDebugHalt func ctx value s) :=
  ite_steadies (next_steadies h) (ite_steadies (next_steadies (setCtx_steady h)) (next_steadies h))

theorem execDebugSnapshotDone_steadies {ctx} (h : s.Steady W R) : Steadies W R (execDebugSnapshotDone ctx s) := by
  unfold execDebugSnapshotDone
  extract_lets +onlyGivenNames c
  split
  · exact next_steadies h
  · extract_lets +onlyGivenNames teams s1
    have hs1 : s1.Steady W R := foldl_steady (fun _ _ h1 => stopGroups_steady h1) h
    extract_lets +onlyGivenNames still mine
    split
    · exact next_steadies hs1
    · extract_lets +onlyGivenNames s2
      have hs2 : s2.Steady W R := spillAll_steady hs1
      exact next_steadies (setCtx_steady (foldl_steady (fun _ _ h3 => setTeam_steady (saveTeam_steady h3)) hs2))

theorem loadSnapshot_steady {team} (h : s.Steady W R) : (s.loadSnapshot team).Steady W R :=
  setTeam_steady (foldl_steady (fun _ _ h1 => loadGroup_steady h1) (loadScratch_steady h))

theorem execDebugRelease_steadies {func ctx value} (h : s.Steady W R) : Steadies W R (execDebugRelease func ctx value s) := by
  unfold execDebugRelease
  split
  · exact next_steadies h
  · extract_lets +onlyGivenNames c
    split
    · exact next_steadies h
    · extract_lets +onlyGivenNames s1
      have hs1 : s1.Steady W R := setCtx_steady h
      refine next_steadies ?_
      refine foldl_steady (fun _ _ h1 => ?_) hs1
      extract_lets +onlyGivenNames s2
      have hs2 : s2.Steady W R := ite_steady (loadSnapshot_steady h1) h1
      exact ite_steady (mapTeam_steady hs2) (goOnTeam_steady hs2)

/-! ## Candidates -/

theorem issuing_steady {core slot entry mate second mateCyc} (h : s.Steady W R) :
    (s.issuing core slot entry mate second mateCyc).Steady W R :=
  setWait_steady h

theorem issueIllegal_steady {sub} (h : s.Steady W R) : (s.issueIllegal sub).Steady W R := by
  unfold State.issueIllegal
  split
  · exact h
  · exact takeTrap_steady h

theorem slotUsed_steady {core quad} (h : s.Steady W R) : (s.slotUsed core quad).Steady W R := by
  unfold State.slotUsed
  extract_lets +onlyGivenNames k src
  have hsrc : src.Steady W R := setCore_steady h
  exact hsrc

theorem trapLower_steady {t : State} {core slot took low} (h : t.Steady W R) : (t.trapLower s core slot took low).Steady W R := by
  unfold State.trapLower
  split
  · exact h
  · split
    · split
      · exact setGroup_steady h
      · exact h
    · exact h

end Sys2Proof.Machine

/-! # Memory through a step: page walks, engine operations and the matrix array -/

namespace Sys2Proof.Machine

variable {s : State} {W : Prop} {R : Power → Prop}

/-! ## Walks through a chiplet's walk cache -/

theorem walkCached_steady {chip ctx va seen base lv} (h : s.Steady W R) : (s.walkCached chip ctx va seen base lv).1.Steady W R := by
  induction lv generalizing s base with
  | zero => exact h
  | succ lv ih =>
    unfold State.walkCached
    extract_lets +onlyGivenNames cache mine
    split
    · exact ih h
    · extract_lets +onlyGivenNames index at0
      split
      next s1 got heq =>
      have hs1 : s1.Steady W R := by
        refine steady_of_fst ?_ heq
        split
        · exact readNow_steady h
        · exact h
      split
      · exact hs1
      · split
        · exact hs1
        · split
          · split
            · exact hs1
            · split <;> exact hs1
          · exact ih hs1

theorem walkSeen_steady {chip ctx va seen} (h : s.Steady W R) : (s.walkSeen chip ctx va seen).1.Steady W R := walkCached_steady h

theorem walkBy_steady {chip ctx va} (h : s.Steady W R) : (s.walkBy chip ctx va).1.Steady W R := by
  unfold State.walkBy
  split
  · rename_i s1 _ es1
    have hs1 : s1.Steady W R := steady_of_fst (walkSeen_steady h) es1
    exact hs1
  · rename_i s1 _ es1
    have hs1 : s1.Steady W R := steady_of_fst (walkSeen_steady h) es1
    exact hs1

/-! ## Faults of fragments and of engine operations -/

theorem opAbort_steady {id cause sub addr info wr} (h : s.Steady W R) : (s.opAbort id cause sub addr info wr).Steady W R := by
  unfold State.opAbort
  split
  · exact h
  · extract_lets +onlyGivenNames r close
    have hclose : ∀ u, u.Steady W R → (close u).Steady W R := fun u hu => hu
    split
    · exact hclose _ (abortDomain_steady h)
    · exact post_steady (hclose _ (abortTeam_steady h))

theorem trapWaiter_steady {key entry cause sub info} (h : s.Steady W R) : (s.trapWaiter key entry cause sub info).Steady W R := by
  unfold State.trapWaiter
  split
  · exact h
  · exact trapTo_steady (setWait_steady h)

theorem retryWaiters_steady {frags ops mine} (h : s.Steady W R) : (s.retryWaiters frags ops mine).Steady W R := by
  unfold State.retryWaiters
  extract_lets +onlyGivenNames s1
  have hs1 : s1.Steady W R := by
    unfold s1
    refine foldl_steady (fun _ _ h1 => ?_) h
    split
    split
    · exact ite_steady (setWait_steady h1) h1
    · exact h1
  exact foldl_steady (fun _ _ h2 => h2) hs1

theorem noteFault_steady {w lane va sub} (h : s.Steady W R) : (s.noteFault w lane va sub).1.Steady W R := by
  unfold State.noteFault
  split
  · split
    · exact h
    · exact ite_fst_steady (trapWaiter_steady (setGroup_steady h)) (setGroup_steady h)
  · exact h
  · exact h

theorem walkWait_steady {w x} (h : s.Steady W R) : (s.walkWait w x).Steady W R := by
  unfold State.walkWait
  split
  · exact setWait_steady h
  · exact h

/-! ## The device fault table -/

theorem joinDft_steady {e w} (h : s.Steady W R) : (s.joinDft e w).Steady W R := walkWait_steady h

theorem postPageRequest_steady {e w lane va} (h : s.Steady W R) : (s.postPageRequest e w lane va).Steady W R := by
  unfold State.postPageRequest
  extract_lets +onlyGivenNames fl
  split
  · split
    · exact post_steady h
    · exact h
  · split
    · exact post_steady h
    · exact h
  · exact h

theorem enterDft_steady {w lane va} (h : s.Steady W R) : (s.enterDft w lane va).Steady W R := by
  unfold State.enterDft
  split
  · exact joinDft_steady h
  · split
    · exact postPageRequest_steady (joinDft_steady h)
    · exact walkWait_steady h

theorem pageFault_steady {w lane va} (h : s.Steady W R) : (s.pageFault w lane va).Steady W R := by
  unfold State.pageFault
  split
  · exact opAbort_steady h
  · exact ite_steady (enterDft_steady (noteFault_steady h)) (noteFault_steady h)

theorem serveDft_steady (h : s.Steady W R) : s.serveDft.Steady W R := by
  unfold State.serveDft
  extract_lets +onlyGivenNames q
  refine foldl_steady (fun _ _ h1 => ?_) h
  split
  · split
    · exact enterDft_steady h1
    · exact h1
  · exact h1

theorem dftServiced_steady {e d} (h : s.Steady W R) : (s.dftServiced e d).Steady W R := serveDft_steady (retryWaiters_steady h)

theorem dftRefused_steady {e d} (h : s.Steady W R) : (s.dftRefused e d).Steady W R := by
  unfold State.dftRefused
  extract_lets +onlyGivenNames s1 s2
  have hs2 : s2.Steady W R := by
    unfold s2
    refine foldl_steady (fun _ _ h1 => ?_) h
    split
    split
    · exact ite_steady (trapWaiter_steady h1) h1
    · exact h1
  extract_lets +onlyGivenNames s3
  have hs3 : s3.Steady W R := by
    unfold s3
    refine foldl_steady (fun _ _ h1 => ?_) hs2
    split
    · exact opAbort_steady h1
    · exact h1
  exact serveDft_steady hs3

theorem dfresp_steady {func ctx value fail} (h : s.Steady W R) : (s.dfresp func ctx value fail).Steady W R := by
  unfold State.dfresp
  split
  · exact h
  · extract_lets +onlyGivenNames e
    split
    · exact ite_steady (setCtx_steady h) (ite_steady (dftRefused_steady h) (dftServiced_steady h))
    · exact setCtx_steady h

theorem execDfrespServiced_steadies {func ctx value} (h : s.Steady W R) : Steadies W R (execDfrespServiced func ctx value s) :=
  ite_steadies (next_steadies h) (next_steadies (dfresp_steady h))

theorem execDfrespRefused_steadies {func ctx value} (h : s.Steady W R) : Steadies W R (execDfrespRefused func ctx value s) :=
  ite_steadies (next_steadies h) (next_steadies (dfresp_steady h))

theorem execDftTimeout_steadies {entry} (h : s.Steady W R) : Steadies W R (execDftTimeout entry s) := by
  unfold execDftTimeout
  split
  · exact next_steadies (ite_steady (dftRefused_steady h) h)
  · exact next_steadies h

/-! ## Page walks -/

theorem takeLeaf_steady {core va write e pte} (h : s.Steady W R) : (s.takeLeaf core va write e pte).Steady W R :=
  tlbFill_steady (touchPte_steady h)

theorem endWalk_steady {id w rs} (h : s.Steady W R) : (s.endWalk id w rs).Steady W R := by
  unfold State.endWalk
  extract_lets +onlyGivenNames s1
  have hs1 : s1.Steady W R := giveWalkers_steady h
  split
  · exact hs1
  · split
    · exact hs1
    · split
      · exact pageFault_steady hs1
      · split
        · exact trapWaiter_steady (setGroup_steady hs1)
        · extract_lets +onlyGivenNames s2
          have hs2 : s2.Steady W R := by
            unfold s2
            refine foldl_steady (fun _ _ h1 => ?_) hs1
            split
            split
            · exact takeLeaf_steady h1
            · exact h1
          exact setWait_steady hs2

theorem runWalk_steady {id w} (h : s.Steady W R) : (s.runWalk id w).Steady W R := by
  unfold State.runWalk
  split
  next s1 rs heq =>
  have hs1 : s1.Steady W R := by
    refine steady_of_fst (foldl_fst_steady (fun q a hq => ?_) h) heq
    obtain ⟨t, r⟩ := q
    obtain ⟨l, va⟩ := a
    cases r with
    | error => exact hq
    | ok done =>
      dsimp only
      split
      · next hseen => exact steady_of_fst (walkSeen_steady hq) hseen
      · next hseen => exact steady_of_fst (walkSeen_steady hq) hseen
  split
  · exact sendBase_steady hs1
  · exact endWalk_steady hs1

theorem serveWalk_steady {message m chip id at'} (h : s.Steady W R) : (s.serveWalk message m chip id at').Steady W R :=
  sendBase_steady (dropMsg_steady (readNow_steady h))

theorem execPageWalk_steadies {p} (h : s.Steady W R) : Steadies W R (execPageWalk p s) := by
  unfold execPageWalk
  extract_lets +onlyGivenNames s1
  have hs1 : s1.Steady W R := giveWalkers_steady h
  split
  · exact next_steadies hs1
  · split
    · exact next_steadies (runWalk_steady hs1)
    · split
      · exact next_steadies hs1
      · split
        · exact next_steadies (attempt_steady (fun _ h2 => serveWalk_steady h2) hs1)
        · extract_lets +onlyGivenNames w
          refine next_steadies ?_
          refine runWalk_steady ?_
          extract_lets +onlyGivenNames src
          have hsrc : src.Steady W R := dropMsg_steady hs1
          exact hsrc
        · exact next_steadies hs1

/-! ## ATS and page requests -/

theorem joinTag_steady {e w} (h : s.Steady W R) : (s.joinTag e w).Steady W R := walkWait_steady h

theorem enterTag_steady {w lane va} (h : s.Steady W R) : (s.enterTag w lane va).Steady W R := by
  unfold State.enterTag
  extract_lets +onlyGivenNames c
  split
  · exact joinTag_steady h
  · split
    · exact joinTag_steady h
    · exact walkWait_steady h

theorem serveTags_steady (h : s.Steady W R) : s.serveTags.Steady W R := by
  unfold State.serveTags
  extract_lets +onlyGivenNames q
  refine foldl_steady (fun _ _ h1 => ?_) h
  split
  · split
    · exact enterTag_steady h1
    · exact h1
  · exact h1

theorem hostFault_steady {w lane va} (h : s.Steady W R) : (s.hostFault w lane va).Steady W R := by
  unfold State.hostFault
  split
  · exact opAbort_steady h
  · exact ite_steady (enterTag_steady (noteFault_steady h)) (noteFault_steady h)

theorem execAtsTranslationCompletion_steadies {index ok w x pa} (h : s.Steady W R) :
    Steadies W R (execAtsTranslationCompletion index ok w x pa s) := by
  unfold execAtsTranslationCompletion
  extract_lets +onlyGivenNames s1
  have hs1 : s1.Steady W R := hostPump_steady h
  split
  · exact next_steadies hs1
  · split
    · exact next_steadies hs1
    · extract_lets +onlyGivenNames s2
      split
      · exact next_steadies hs1
      · extract_lets +onlyGivenNames e s3
        have hs3 : s3.Steady W R := ite_steady (atcFill_steady (tlbFill_steady hs1)) hs1
        split
        · split
          · exact next_steadies (retryWaiters_steady hs3)
          · exact next_steadies (retryWaiters_steady hs3)
          · exact next_steadies hs3
        · exact next_steadies (hostFault_steady hs3)

theorem tagFailed_steady {e t} (h : s.Steady W R) : (s.tagFailed e t).Steady W R := by
  unfold State.tagFailed
  extract_lets +onlyGivenNames s1
  have hs1 : s1.Steady W R := by
    unfold s1
    refine foldl_steady (fun _ _ h1 => ?_) h
    split
    split
    · exact h1
    · exact ite_steady h1 (ite_steady (retryWaiters_steady h1) (trapWaiter_steady (post_steady h1)))
  refine foldl_steady (fun _ _ h1 => ?_) hs1
  split
  · exact ite_steady (retryWaiters_steady h1) (opAbort_steady h1)
  · exact h1

theorem execPrgResponse_steadies {entry code} (h : s.Steady W R) : Steadies W R (execPrgResponse entry code s) := by
  unfold execPrgResponse
  split
  · exact next_steadies h
  · extract_lets +onlyGivenNames s1 s2
    split
    · exact next_steadies (serveTags_steady (retryWaiters_steady h))
    · exact next_steadies (serveTags_steady (tagFailed_steady h))
    · exact next_steadies (serveTags_steady (tagFailed_steady h))

theorem execPriTimeout_steadies {entry} (h : s.Steady W R) : Steadies W R (execPriTimeout entry s) := by
  unfold execPriTimeout
  split
  · exact next_steadies h
  · exact ite_steadies (next_steadies (serveTags_steady (tagFailed_steady h))) (next_steadies h)

/-! ## Invalidations -/

theorem execTlbInvalidate_steadies {func ctx value} (h : s.Steady W R) : Steadies W R (execTlbInvalidate func ctx value s) := by
  unfold execTlbInvalidate
  split
  · exact next_steadies h
  · split
    · exact next_steadies h
    · extract_lets +onlyGivenNames c
      split
      · exact next_steadies (setCtx_steady h)
      · extract_lets +onlyGivenNames page n s1
        have hs1 : s1.Steady W R := tlbRemove_steady h
        exact next_steadies (setCtx_steady hs1)

theorem execTlbInvalidateDone_steadies {ctx} (h : s.Steady W R) : Steadies W R (execTlbInvalidateDone ctx s) :=
  ite_steadies (next_steadies h) (next_steadies (setCtx_steady h))

theorem execAtsInvalidation_steadies {func pasid va pages} (h : s.Steady W R) :
    Steadies W R (execAtsInvalidation func pasid va pages s) := by
  unfold execAtsInvalidation
  extract_lets +onlyGivenNames cs gone s1
  have hs1 : s1.Steady W R := tlbRemove_steady h
  exact next_steadies hs1

theorem execAtsInvalidationCompletion_steadies (h : s.Steady W R) : Steadies W R (execAtsInvalidationCompletion s) := by
  unfold execAtsInvalidationCompletion
  split <;> exact next_steadies h

/-! ## Instruction fetch -/

theorem fetchLine_steady {e va} (h : s.Steady W R) : (s.fetchLine e va).1.Steady W R := by
  unfold State.fetchLine
  split
  · exact readNow_steady h
  · exact tellRead_steady h
  · exact h

theorem fillLine_steady {core slot entry g f a} (h : s.Steady W R) : (s.fillLine core slot entry g f a).Steady W R := by
  unfold State.fillLine
  extract_lets +onlyGivenNames t trap
  have htrap : ∀ x, (trap x).Steady W R := fun _ => trapTo_steady h
  clear_value trap
  split
  · exact htrap _
  · split
    · exact htrap _
    · exact setWait_steady (beginWalk_steady h)
    · split
      · exact h
      · extract_lets +onlyGivenNames loc s1 s2
        clear_value loc
        have hs1 : s1.Steady W R := touchPages_steady h
        have hs2 : s2.Steady W R := by
          unfold s2
          split
          · exact charge_steady hs1
          · exact hs1
        refine ite_steady (errorTrap_steady h) ?_
        split
        next hfetch => exact setCore_steady (steady_of_fst (fetchLine_steady hs2) hfetch)

theorem execIcacheFill_steadies {core slot entry} (h : s.Steady W R) : Steadies W R (execIcacheFill core slot entry s) := by
  unfold execIcacheFill
  split
  · exact next_steadies h
  · split
    · exact next_steadies h
    · split
      · exact next_steadies (attempt_steady (fun _ h1 => fillLine_steady h1) h)
      · exact next_steadies h

/-! ## Batches -/

theorem advanceBatches_steady {guid cls} (h : s.Steady W R) : (s.advanceBatches guid cls).Steady W R :=
  ite_steady h (firePlaza_steady (modGroup_steady h))

theorem execClose_steadies {o} (h : s.Steady W R) : Steadies W R (execClose o s) := by
  unfold execClose
  refine runState_steadies (fun _ => ?_) h
  extract_lets +onlyGivenNames cls b
  split
  · exact stall_doneSteady (waitFrag_steady h)
  · refine bind_doneSteady fun _ => ?_
    exact bind_doneSteady fun _ => stall_doneSteady (advanceBatches_steady (afterIssue_steady h))

theorem execWaitb_steadies {o} (h : s.Steady W R) : Steadies W R (execWaitb o s) :=
  runState_steadies (fun _ => bind_doneSteady fun _ => issued_doneSteady h) h

/-! ## Issue -/

theorem addOp_steady {o} (h : s.Steady W R) : (s.addOp o).2.Steady W R := by
  unfold State.addOp
  split
  rename_i s1 es1
  have hs1 : s1.Steady W R := steady_of_snd (fresh_steady h) es1
  extract_lets +onlyGivenNames s2
  dsimp only
  split
  · exact joinStream_steady hs1
  · exact hs1

theorem asyncInstr_steadies {code cls srcs o body} (h : s.Steady W R) : Steadies W R (asyncInstr code cls srcs o s body) := by
  unfold asyncInstr
  refine runState_steadies (fun _ => ?_) h
  split
  · exact stall_doneSteady (waitFrag_steady h)
  · refine bind_doneSteady fun _ => ?_
    split
    · exact issued_doneSteady h
    · refine bind_doneSteady fun _ => ?_
      extract_lets +onlyGivenNames s1
      have hs1 : s1.Steady W R := ite_steady (setNr_steady h) h
      exact issued_doneSteady (addOp_steady (foldl_steady (fun _ _ h2 => setTeam_steady h2) hs1))

/-! ## Translation and data of an operation -/

theorem opCharge_steady {o res n} (h : s.Steady W R) : (s.opCharge o res n).Steady W R := by
  unfold State.opCharge
  split
  · exact h
  · exact charge_steady h

theorem opXlate_steady {id va write} (h : s.Steady W R) : (s.opXlate id va write).1.Steady W R := by
  unfold State.opXlate
  split
  · exact h
  · extract_lets +onlyGivenNames w ask
    have hask : ∀ u, u.Steady W R → (ask u).Steady W R := fun u hu => beginWalk_steady hu
    split
    · exact opAbort_steady h
    · split
      · split
        · exact ite_fst_steady h (hask _ h)
        · exact hask _ h
      · split
        rename_i s1 _ es1
        have hs1 : s1.Steady W R := steady_of_fst (walkBy_steady h) es1
        split
        · exact pageFault_steady hs1
        · exact opAbort_steady hs1
        · split
          · exact opAbort_steady hs1
          · exact ite_fst_steady (opAbort_steady hs1) (ite_fst_steady (opAbort_steady hs1) (touchPte_steady hs1))

theorem opPlaces_steady {id va n write} (h : s.Steady W R) : (s.opPlaces id va n write).1.Steady W R := by
  unfold State.opPlaces
  refine foldl_fst_steady (fun _ _ h1 => ?_) h
  split
  · exact h1
  · exact opXlate_steady h1

theorem opTake_steady {id va bs} (h : s.Steady W R) : (s.opTake id va bs).Steady W R := h

theorem askPeer_steady {id va n dev pa} (h : s.Steady W R) : (s.askPeer id va n dev pa).Steady W R := by
  unfold State.askPeer
  refine foldl_steady (fun _ _ h1 => ?_) h
  split
  · exact h1
  · exact ite_steady h1 (peerAsk_steady h1)

theorem opRead_steady {id va n} (h : s.Steady W R) : (s.opRead id va n).1.Steady W R := by
  unfold State.opRead
  split
  · next s1 places o hplaces _ =>
    have hs1 : s1.Steady W R := steady_of_fst (opPlaces_steady h) hplaces
    extract_lets +onlyGivenNames lacks
    split
    · refine foldl_steady (fun t a ht => ?_) hs1
      obtain ⟨off, k, loc⟩ := a
      cases loc with
      | peer => exact askPeer_steady ht
      | dev | host => exact ht
    · refine foldl_fst_steady (fun q a hq => ?_) hs1
      obtain ⟨t, r⟩ := q
      obtain ⟨off, k, loc⟩ := a
      cases r with
      | none => exact hq
      | some bs =>
        cases loc with
        | dev pa =>
          dsimp only
          split
          · exact opAbort_steady hq
          · exact readNow_steady (opCharge_steady hq)
        | host a => exact tellRead_steady (opCharge_steady hq)
        | peer => exact hq
  · next hplaces _ => exact steady_of_fst (opPlaces_steady h) hplaces

theorem writePeer_steady {id o dev pa bs} (h : s.Steady W R) : (s.writePeer id o dev pa bs).Steady W R :=
  foldl_steady (fun _ _ h1 => peerAsk_steady h1) h

theorem opWrite_steady {id va bs} (h : s.Steady W R) : (s.opWrite id va bs).1.Steady W R := by
  unfold State.opWrite
  split
  · rename_i s1 _ _ es1 _
    have hs1 : s1.Steady W R := steady_of_fst (opPlaces_steady h) es1
    dsimp only
    refine foldl_steady (fun _ _ h1 => ?_) hs1
    split
    · exact writeNow_steady (opCharge_steady h1)
    · exact hostWrite_steady (opCharge_steady (opCharge_steady h1))
    · exact writePeer_steady (opCharge_steady h1)
  · rename_i s1 _ es1 _
    have hs1 : s1.Steady W R := steady_of_fst (opPlaces_steady h) es1
    exact hs1

/-! ## Units of the copy engines' operations -/

theorem opDid_steady {id n} (h : s.Steady W R) : (s.opDid id n).Steady W R := h

theorem opPut_steady {id o toScr dst w seed first bs} (h : s.Steady W R) : (s.opPut id o toScr dst w seed first bs).1.Steady W R := by
  unfold State.opPut
  split
  · exact foldl_steady (fun _ _ h1 => scratchWrite_steady h1) h
  · split
    · rename_i s1 es1
      have hs1 : s1.Steady W R := steady_of_fst (opPlaces_steady h) es1
      exact hs1
    · rename_i s1 _ es1
      have hs1 : s1.Steady W R := steady_of_fst (opPlaces_steady h) es1
      dsimp only
      refine foldl_steady (fun _ _ h1 => ?_) hs1
      split
      · exact foldl_steady (fun _ _ h3 => homeStore_steady h3) (claimRange_steady (opCharge_steady h1))
      · exact ite_steady h1 (hostWrite_steady (opCharge_steady (opCharge_steady h1)))
      · exact ite_steady h1 (writePeer_steady (opCharge_steady h1))

theorem opMove_steady {id o fromScr toScr src dst n w room} (h : s.Steady W R) :
    (s.opMove id o fromScr toScr src dst n w room).1.Steady W R := by
  unfold State.opMove
  extract_lets +onlyGivenNames upd
  have hupd : ∀ u x1, u.Steady W R → (upd u x1).Steady W R := fun u x1 hu => hu
  split
  · split
    · exact hupd _ _ h
    · split
      · rename_i s1 es1
        have hs1 : s1.Steady W R := steady_of_fst (ite_fst_steady h (opRead_steady h)) es1
        exact hs1
      · rename_i s1 _ es1
        have hs1 : s1.Steady W R := steady_of_fst (ite_fst_steady h (opRead_steady h)) es1
        exact hupd _ _ hs1
  · split
    · extract_lets +onlyGivenNames k
      split
      · rename_i s1 es1
        have hs1 : s1.Steady W R := steady_of_fst (opPut_steady h) es1
        exact hupd _ _ hs1
      · rename_i s1 es1
        have hs1 : s1.Steady W R := steady_of_fst (opPut_steady h) es1
        exact hs1
    · split
      · rename_i s1 es1
        have hs1 : s1.Steady W R := steady_of_fst (opPut_steady h) es1
        exact hupd _ _ hs1
      · rename_i s1 es1
        have hs1 : s1.Steady W R := steady_of_fst (opPut_steady h) es1
        exact hs1

theorem gcsrPart_steady {id o rows rowptr colidx vals out off cap room} (h : s.Steady W R) :
    (s.gcsrPart id o rows rowptr colidx vals out off cap room).1.Steady W R := by
  -- what is read stays a variable: the kernel is not to compute the bytes of a row
  have hread : ∃ read, State.opRead = read ∧ ∀ {t : State} {id va n}, t.Steady W R → (read t id va n).1.Steady W R :=
    ⟨_, rfl, opRead_steady⟩
  obtain ⟨read, hop, hread⟩ := hread
  unfold State.gcsrPart
  rw [hop]
  extract_lets +onlyGivenNames upd next
  have hupd : ∀ t f, t.Steady W R → (upd t f).Steady W R := fun _ _ ht => ht
  clear_value upd next
  split
  · exact h
  · split
    · split
      · next heq => exact steady_of_fst (hread h) heq
      · next heq => exact hupd _ _ (scratchWrite_steady (steady_of_fst (hread h) heq))
    · extract_lets +onlyGivenNames k
      split
      · next hcols => exact steady_of_fst (hread h) hcols
      · next hcols =>
        have hcols := steady_of_fst (hread h) hcols
        split
        · next hvals => exact steady_of_fst (hread hcols) hvals
        · next hvals => exact hupd _ _ (scratchWrite_steady (steady_of_fst (hread hcols) hvals))

theorem sendPanel_steady {id team off bs} (h : s.Steady W R) : (s.sendPanel id team off bs).Steady W R :=
  foldl_steady (fun _ _ h1 => send_steady h1) h

theorem sendPage_steady {o src dst port dev} (h : s.Steady W R) : (s.sendPage o src dst port dev).1.Steady W R := by
  unfold State.sendPage
  split
  rename_i s1 _ es1
  have hs1 : s1.Steady W R := steady_of_fst (readNow_steady h) es1
  extract_lets +onlyGivenNames item p s2
  have hs2 : s2.Steady W R := setPort_steady hs1
  exact hs2

theorem warm_steady {id src n} (h : s.Steady W R) : (s.warm id src n).1.Steady W R := by
  unfold State.warm
  split
  · next hplaces => exact steady_of_fst (opPlaces_steady h) hplaces
  · next hplaces =>
    have hplaces := steady_of_fst (opPlaces_steady h) hplaces
    split
    next s1 bad hfold =>
    have hs1 : s1.Steady W R := by
      refine steady_of_fst (foldl_fst_steady (fun q a hq => ?_) hplaces) hfold
      obtain ⟨off, k, loc⟩ := a
      cases loc with
      | dev pa => exact reach_steady hq
      | host | peer => exact hq
    split
    · exact opAbort_steady hs1
    · exact hs1

theorem opStep_steady {id o room} (h : s.Steady W R) : (s.opStep id o room).1.Steady W R := by
  unfold State.opStep
  extract_lets +onlyGivenNames did move left unit
  have hdid : ∀ r n, r.1.Steady W R → (did r n).1.Steady W R := fun r n hr => by
    unfold did
    split
    · exact opDid_steady hr
    · exact hr
  have hmove : ∀ f t src dst n, (move f t src dst n).1.Steady W R := fun f t src dst n => by
    have hs :=
      opMove_steady (id := id) (o := o) (fromScr := f) (toScr := t) (src := src) (dst := dst) (n := n) (w := 4) (room := room) h
    unfold move
    dsimp only
    split
    · exact hs
    · exact opDid_steady hs
  clear_value did move
  split
  · exact hmove _ _ _ _ _
  · extract_lets +onlyGivenNames n
    split
    · next hread => exact steady_of_fst (opRead_steady h) hread
    · next hread => exact hdid _ _ (foldl_steady (fun _ _ ht => sendPanel_steady ht) (steady_of_fst (opRead_steady h) hread))
  · dsimp only
    split
    · exact hmove _ _ _ _ _
    · exact hmove _ _ _ _ _
  · split
    extract_lets +onlyGivenNames at0
    split
    · exact opAbort_steady h
    · split
      · exact h
      · split
        next s1 k heq =>
        have hs1 : s1.Steady W R := by
          refine steady_of_fst ?_ heq
          split
          · exact opMove_steady h
          · exact opMove_steady h
        split
        · exact hs1
        · exact opDid_steady hs1
  · exact gcsrPart_steady h
  · extract_lets +onlyGivenNames n
    split
    · exact hdid _ _ (warm_steady h)
    · exact hmove _ _ _ _ _
  · exact hdid _ _ (sendPage_steady h)
  · exact h

theorem dropOp_steady {id} (h : s.Steady W R) : (s.dropOp id).Steady W R := by
  unfold State.dropOp
  split
  · exact h
  · extract_lets +onlyGivenNames s1
    have hs1 : s1.Steady W R := by
      unfold s1
      split
      · exact foldl_steady (fun _ _ h1 => setTeam_steady h1) h
      · exact h
    exact hs1

theorem refreshEngine_steady {e} (h : s.Steady W R) : (s.refreshEngine e).Steady W R := h

theorem serveStream_steady {engine id o i} (h : s.Steady W R) : (s.serveStream engine id o i).Steady W R :=
  ite_steady (refreshEngine_steady (dropOp_steady h)) (refreshEngine_steady (opStep_steady h))

theorem execCopyChunk_steadies {engine} (h : s.Steady W R) : Steadies W R (execCopyChunk engine s) := by
  unfold execCopyChunk
  extract_lets +onlyGivenNames x order pick
  clear_value pick
  split
  · exact next_steadies h
  · exact next_steadies (attempt_steady (fun _ h1 => serveStream_steady h1) h)

/-! ## Gathers -/

theorem gathInstr_steadies {code scat o} (h : s.Steady W R) : Steadies W R (gathInstr code scat o s) := asyncInstr_steadies h

/-! ## The operand die -/

theorem loadDie_steady {id o src off rows width col} (h : s.Steady W R) : (s.loadDie id o src off rows width col).1.Steady W R := by
  unfold State.loadDie
  split
  · rename_i s1 es1
    have hs1 : s1.Steady W R := steady_of_fst (opRead_steady h) es1
    exact hs1
  · rename_i s1 _ es1
    have hs1 : s1.Steady W R := steady_of_fst (opRead_steady h) es1
    exact setCore_steady hs1

/-! ## Tiles -/

theorem retryLater_steady {c cycles} (h : s.Steady W R) : (s.retryLater c cycles).Steady W R := setGroup_steady h

/-! ## Accumulator First-Use -/

theorem readTiles_steady {team} (h : s.Steady W R) : (s.readTiles team).Steady W R := by
  unfold State.readTiles
  extract_lets +onlyGivenNames t e a js s1
  have hs1 : s1.Steady W R := by
    unfold s1
    refine foldl_steady (fun _ _ h1 => ?_) h
    split
    rename_i s2 _ es2
    have hs2 : s2.Steady W R := steady_of_fst (getArea_steady h1) es2
    exact setCore_steady hs2
  exact putArea_steady (setTeam_steady hs1)

theorem zeroFresh_steady {core ctx} (h : s.Steady W R) : (s.zeroFresh core ctx).Steady W R :=
  foldl_steady (fun _ _ h1 => setTeam_steady (foldl_steady (fun _ _ h2 => setCore_steady h2) h1)) h

theorem firstUse_steady {core team} (h : s.Steady W R) : (s.firstUse core team).1.Steady W R := by
  unfold State.firstUse
  extract_lets +onlyGivenNames t others out back s1
  have hs1 : s1.Steady W R := foldl_steady (fun _ _ h1 => spillTiles_steady h1) h
  exact setCore_steady (ite_steady (zeroFresh_steady hs1) (readTiles_steady (zeroFresh_steady hs1)))

/-! ## MMA, MMAS and ACCNEXT -/

theorem queueArray_steady {core id} (h : s.Steady W R) : (s.queueArray core id).Steady W R := setCore_steady h

theorem startMma_steady {c grid cycles kind} (h : s.Steady W R) : (s.startMma c grid cycles kind).Steady W R := by
  unfold State.startMma
  extract_lets +onlyGivenNames s1
  have hs1 : s1.Steady W R := tally_steady (charge_steady h)
  split
  rename_i s2 es2
  have hs2 : s2.Steady W R := steady_of_snd (addOp_steady hs1) es2
  exact exclude_steady (queueArray_steady hs2)

theorem ringDo_doneSteady {c body} (hbody : ∀ t, t.Steady W R → DoneSteady W R (body t)) (h : s.Steady W R) :
    DoneSteady W R (s.ringDo c body) := by
  unfold State.ringDo State.ringCheck
  extract_lets t k reached used
  split
  · next hgo =>
    refine hbody _ ?_
    split at hgo
    · exact RingCheck.go.inj hgo ▸ h
    · split at hgo
      · exact RingCheck.go.inj hgo ▸ setCore_steady h
      · split at hgo <;> simp at hgo
  · next hagain =>
    refine stall_doneSteady ?_
    split at hagain
    · simp at hagain
    · split at hagain
      · simp at hagain
      · split at hagain
        · exact RingCheck.again.inj hagain ▸ retryLater_steady h
        · exact RingCheck.again.inj hagain ▸ setGroup_steady (tally_steady (firstUse_steady h))

theorem mmaInstr_steadies {code scr o} (h : s.Steady W R) : Steadies W R (mmaInstr code scr o s) := by
  unfold mmaInstr
  refine runState_steadies (fun c => ?_) h
  extract_lets +onlyGivenNames pos t tile
  split
  · exact stall_doneSteady (waitFrag_steady h)
  · split
    · exact stall_doneSteady (waitFrag_steady h)
    · refine bind_doneSteady fun _ => ?_
      split
      · exact issued_doneSteady h
      · exact bind_doneSteady fun _ => ringDo_doneSteady (fun _ ht => issued_doneSteady (startMma_steady ht)) h

theorem execAccnext_steadies {o} (h : s.Steady W R) : Steadies W R (execAccnext o s) := by
  unfold execAccnext
  refine runState_steadies (fun c => ?_) h
  extract_lets +onlyGivenNames pos tile
  split
  · exact stall_doneSteady (waitFrag_steady h)
  · split
    · exact stall_doneSteady (waitFrag_steady h)
    · refine bind_doneSteady fun _ => ?_
      split
      · exact issued_doneSteady h
      · refine bind_doneSteady fun _ => ringDo_doneSteady (fun _ ht => ?_) h
        split
        next hop => exact issued_doneSteady (queueArray_steady (steady_of_snd (addOp_steady ht) hop))

/-! ## The array -/

theorem acceptOp_steady {core id o} (h : s.Steady W R) : (s.acceptOp core id o).Steady W R := tally_steady (setCore_steady h)

theorem execMatrixAccept_steadies {core} (h : s.Steady W R) : Steadies W R (execMatrixAccept core s) := by
  unfold execMatrixAccept
  extract_lets +onlyGivenNames s1
  have hs1 : s1.Steady W R := exclude_steady h
  extract_lets +onlyGivenNames k
  split
  · exact next_steadies hs1
  · split
    · exact next_steadies hs1
    · split
      · exact ite_steadies (next_steadies (dropOp_steady (setCore_steady hs1))) (next_steadies (acceptOp_steady hs1))
      · exact next_steadies (setCore_steady hs1)

theorem opDone_steady {id} (h : s.Steady W R) : (s.opDone id).Steady W R := by
  unfold State.opDone
  split
  · exact h
  · exact advanceBatches_steady (dropOp_steady h)

theorem opRead'_steady {id} (h : s.Steady W R) : (s.opRead' id).Steady W R := by
  unfold State.opRead'
  split
  · exact h
  · exact advanceBatches_steady h

theorem execTileComplete_steadies {operation} (h : s.Steady W R) : Steadies W R (execTileComplete operation s) := by
  unfold execTileComplete
  split
  · exact next_steadies h
  · exact next_steadies (ite_steady (opDone_steady h) h)

/-! ## ACCRD and ACCWR -/

theorem execAccrd_steadies {o} (h : s.Steady W R) : Steadies W R (execAccrd o s) := by
  unfold execAccrd
  refine runState_steadies (fun c => bind_doneSteady fun _ => ?_) h
  split
  · exact error_doneSteady
  · split
    · exact issued_doneSteady h
    · exact bind_doneSteady fun _ => ringDo_doneSteady (fun _ ht => issued_doneSteady ht) h

theorem execAccwr_steadies {o} (h : s.Steady W R) : Steadies W R (execAccwr o s) := by
  unfold execAccwr
  refine runState_steadies (fun c => ?_) h
  extract_lets +onlyGivenNames pos tile
  split
  · exact stall_doneSteady (waitFrag_steady h)
  · refine bind_doneSteady fun _ => ?_
    split
    · exact issued_doneSteady h
    · exact bind_doneSteady fun _ => ringDo_doneSteady (fun _ ht => issued_doneSteady ht) h

/-! ## EPI -/

theorem startEpi_steady {c toScr kind} (h : s.Steady W R) : (s.startEpi c toScr kind).Steady W R := by
  unfold State.startEpi
  extract_lets +onlyGivenNames s1
  have hs1 : s1.Steady W R := ite_steady h (setNr_steady h)
  split
  rename_i s2 es2
  have hs2 : s2.Steady W R := steady_of_snd (addOp_steady hs1) es2
  exact setCore_steady hs2

theorem execEpi_steadies {o} (h : s.Steady W R) : Steadies W R (execEpi o s) := by
  unfold execEpi
  refine runState_steadies (fun c => ?_) h
  extract_lets +onlyGivenNames toScr
  split
  · exact stall_doneSteady (waitFrag_steady h)
  · split
    · exact stall_doneSteady (retryLater_steady h)
    · refine bind_doneSteady fun _ => ?_
      split
      · exact issued_doneSteady h
      · exact bind_doneSteady fun _ => ringDo_doneSteady (fun _ ht => issued_doneSteady (startEpi_steady ht)) h

theorem execEpiStart_steadies {core} (h : s.Steady W R) : Steadies W R (execEpiStart core s) := by
  unfold execEpiStart
  extract_lets +onlyGivenNames k
  split
  · exact next_steadies h
  · extract_lets +onlyGivenNames left
    have hleft : ∀ u, u.Steady W R → (left u).Steady W R := fun u hu => setCore_steady hu
    split
    · exact next_steadies (hleft _ h)
    · split
      · extract_lets +onlyGivenNames earlier
        split
        · exact next_steadies (dropOp_steady (hleft _ h))
        · split
          · exact next_steadies h
          · extract_lets +onlyGivenNames finish s1
            have hs1 : s1.Steady W R := hleft _ h
            extract_lets +onlyGivenNames k1 s2 s3
            have hs3 : s3.Steady W R := setCore_steady hs1
            exact next_steadies hs3
      · exact next_steadies (hleft _ h)

theorem epiWrite_steady {id o toScr dst pitch ofmt} (h : s.Steady W R) : (s.epiWrite id o toScr dst pitch ofmt).1.Steady W R := by
  unfold State.epiWrite
  refine foldl_fst_steady (fun _ _ h1 => ?_) h
  split
  · exact h1
  · extract_lets +onlyGivenNames bs
    split
    rename_i s1 _ es1
    have hs1 : s1.Steady W R := by
      refine steady_of_fst ?_ es1
      exact ite_fst_steady (scratchWrite_steady h1) (opWrite_steady h1)
    exact ite_fst_steady hs1 hs1

end Sys2Proof.Machine

/-! # Memory through a step: collectives and the decode instructions -/

namespace Sys2Proof.Machine

variable {s : State} {W : Prop} {R : Power → Prop}

/-! ## The descriptor -/

theorem execColl_steadies {o} (h : s.Steady W R) : Steadies W R (execColl o s) := by
  unfold execColl
  refine runState_steadies (fun _ => ?_) h
  extract_lets +onlyGivenNames mode
  split
  · exact stall_doneSteady (waitFrag_steady h)
  · refine bind_doneSteady fun _ => ?_
    split
    · exact issued_doneSteady h
    · refine bind_doneSteady fun _ => ?_
      extract_lets +onlyGivenNames dst ctx
      refine bind_doneSteady fun _ => ?_
      split
      · exact stall_doneSteady (startWalk_steady h)
      · split
        · exact issued_doneSteady (addOp_steady (setNr_steady (touchPages_steady h)))
        · exact error_doneSteady

/-! ## Names -/

theorem setColl_steady {k c} (h : s.Steady W R) : (s.setColl k c).Steady W R := h

theorem collCheck_steady {k} (h : s.Steady W R) : (s.collCheck k).Steady W R := by
  unfold State.collCheck
  split
  · exact h
  · exact ite_steady h h

/-! ## Packets between devices -/

theorem sendVector_steady {k c pos data} (h : s.Steady W R) : (s.sendVector k c pos data).Steady W R :=
  foldl_steady (fun _ _ h1 => peerAsk_steady h1) h

theorem tellFailed_steady {k} (h : s.Steady W R) : (s.tellFailed k).Steady W R := by
  unfold State.tellFailed
  split
  · exact h
  · exact ite_steady h (foldl_steady (fun _ _ h1 => peerAsk_steady h1) (setColl_steady h))

theorem collFails_steady {k} (h : s.Steady W R) : (s.collFails k).Steady W R := collCheck_steady (tellFailed_steady (failColl_steady h))

/-! ## Results -/

theorem writeResult_steady {k c sum} (h : s.Steady W R) : (s.writeResult k c sum).Steady W R :=
  setColl_steady (foldl_steady (fun _ _ h1 => writeNow_steady (ite_fst_steady (readNow_steady h1) h1)) h)

theorem sendDown_steady {k c sum} (h : s.Steady W R) : (s.sendDown k c sum).Steady W R :=
  foldl_steady (fun _ _ h1 => ite_steady (sendVector_steady h1) h1) h

theorem climbDevices_steady {k c data level fuel} (h : s.Steady W R) : (s.climbDevices k c data level fuel).Steady W R := by
  induction fuel generalizing data level with
  | zero => exact h
  | succ fuel ih =>
    rw [State.climbDevices]
    extract_lets +onlyGivenNames i
    refine ite_steady (writeResult_steady (sendDown_steady h)) (ite_steady ?_ (ite_steady ih ?_))
    · split
      · exact writeResult_steady (sendDown_steady h)
      · exact setColl_steady (ite_steady h (sendVector_steady h))
    · split
      · exact ih
      · exact setColl_steady h

theorem ringStep_steady {k c own} (h : s.Steady W R) : (s.ringStep k c own).Steady W R := by
  unfold State.ringStep
  extract_lets +onlyGivenNames prev next
  split
  · exact writeResult_steady h
  · split
    · split
      · exact setColl_steady (sendVector_steady h)
      · split
        · exact setColl_steady h
        · exact ite_steady (writeResult_steady (sendVector_steady (setColl_steady h))) (sendVector_steady (setColl_steady h))
    · split
      · exact h
      · exact writeResult_steady (ite_steady h (sendVector_steady h))

theorem collStep_steady {k} (h : s.Steady W R) : (s.collStep k).Steady W R := by
  unfold State.collStep
  split
  · exact h
  · split
    · exact h
    · split
      · exact h
      · split
        · exact writeResult_steady h
        · exact climbDevices_steady h
        · exact ringStep_steady h

/-! ## The junction tree of the device -/

theorem parkColl_steady {k} (h : s.Steady W R) : (s.parkColl k).Steady W R := by
  unfold State.parkColl
  split
  · exact h
  · exact ite_steady (collFails_steady h) (setColl_steady h)

theorem forward_steady {k c level index data here} (h : s.Steady W R) : (s.forward k c level index data here).Steady W R :=
  ite_steady (collStep_steady (setColl_steady h)) (sendBase_steady h)

theorem climb_steady {k c level index data here} (h : s.Steady W R) : (s.climb k c level index data here).Steady W R := by
  unfold State.climb
  split
  · exact collStep_steady (setColl_steady h)
  · extract_lets +onlyGivenNames sib
    split
    · exact forward_steady (setColl_steady h)
    · exact ite_steady (parkColl_steady (setColl_steady h)) (setColl_steady h)

theorem execJunctionArrival_steadies {coll pos} (h : s.Steady W R) : Steadies W R (execJunctionArrival coll pos s) := by
  unfold execJunctionArrival
  split
  · exact next_steadies h
  · split
    · split
      · exact next_steadies (dropMsg_steady h)
      · split
        · exact next_steadies (sendBase_steady (dropMsg_steady h))
        · exact next_steadies (attempt_steady (fun _ h1 => climb_steady (dropMsg_steady h1)) h)
    · exact next_steadies (dropMsg_steady h)

theorem execPartialParkTimeout_steadies {coll level index} (h : s.Steady W R) :
    Steadies W R (execPartialParkTimeout coll level index s) := by
  unfold execPartialParkTimeout
  split
  · exact next_steadies h
  · exact ite_steadies (next_steadies (parkColl_steady h)) (next_steadies h)

/-! ## Contributions -/

theorem contribute_steady {o d fn dst list data} (h : s.Steady W R) : (s.contribute o d fn dst list data).1.Steady W R := by
  unfold State.contribute
  extract_lets +onlyGivenNames grid x fresh
  split
  next k c s1 hcoll =>
  have hs1 : s1.Steady W R := by
    split at hcoll
    · obtain ⟨-, -, rfl⟩ := by simpa using hcoll
      exact h
    · obtain ⟨-, -, rfl⟩ := by simpa using hcoll
      exact h
  extract_lets +onlyGivenNames wrong s2
  have hs2 : s2.Steady W R := setColl_steady hs1
  refine ite_fst_steady (collCheck_steady (tellFailed_steady hs2)) (ite_fst_steady (collFails_steady hs2) ?_)
  dsimp only
  exact send_steady hs2

theorem collRead_steady {id o d mode res dst} (h : s.Steady W R) : (s.collRead id o d mode res dst).Steady W R := by
  unfold State.collRead
  extract_lets +onlyGivenNames bytes
  split
  · rename_i s1 es1
    have hs1 : s1.Steady W R := steady_of_fst (opPlaces_steady h) es1
    exact hs1
  · rename_i s1 _ es1
    have hs1 : s1.Steady W R := steady_of_fst (opPlaces_steady h) es1
    split
    · rename_i s2 es2
      have hs2 : s2.Steady W R := steady_of_fst (ite_fst_steady hs1 (opRead_steady hs1)) es2
      exact hs2
    · rename_i s2 _ es2
      have hs2 : s2.Steady W R := steady_of_fst (ite_fst_steady hs1 (opRead_steady hs1)) es2
      split
      · rename_i s3 es3
        have hs3 : s3.Steady W R := steady_of_fst (ite_fst_steady hs2 (opRead_steady hs2)) es3
        exact hs3
      · rename_i s3 _ es3
        have hs3 : s3.Steady W R := steady_of_fst (ite_fst_steady hs2 (opRead_steady hs2)) es3
        exact opRead'_steady (contribute_steady hs3)

theorem forgetColl_steady {k} (h : s.Steady W R) : (s.forgetColl k).Steady W R := by
  unfold State.forgetColl
  split
  · exact h
  · exact ite_steady h h

theorem collFinish_steady {id o d} (h : s.Steady W R) : (s.collFinish id o d).Steady W R := by
  unfold State.collFinish
  split
  · exact h
  · extract_lets +onlyGivenNames s1
    have hs1 : s1.Steady W R := tellFailed_steady h
    split
    · split
      · rename_i s2 es2
        have hs2 : s2.Steady W R := steady_of_fst (opWrite_steady hs1) es2
        exact hs2
      · rename_i s2 es2
        have hs2 : s2.Steady W R := steady_of_fst (opWrite_steady hs1) es2
        extract_lets +onlyGivenNames s3
        have hs3 : s3.Steady W R := opDid_steady hs2
        split
        · exact ite_steady (forgetColl_steady (opDone_steady hs3)) hs3
        · exact hs3
    · exact ite_steady (forgetColl_steady (opDone_steady hs1)) hs1

theorem execCollectiveNameExpiry_steadies {coll} (h : s.Steady W R) : Steadies W R (execCollectiveNameExpiry coll s) := by
  unfold execCollectiveNameExpiry
  split
  · exact next_steadies h
  · split
    · exact next_steadies (ite_steady (tellFailed_steady h) h)
    · exact next_steadies h

/-! ## What comes from peers -/

theorem takeCollective_steady {p} (h : s.Steady W R) : (s.takeCollective p).Steady W R := by
  unfold State.takeCollective
  extract_lets +onlyGivenNames addr near anon failed
  clear_value near anon
  split
  next k c s1 hcoll =>
  have hs1 : s1.Steady W R := by
    split at hcoll
    all_goals
      obtain ⟨-, -, rfl⟩ := by simpa using hcoll
      exact h
  refine ite_steady (ite_steady hs1 (collFails_steady (setColl_steady hs1))) (ite_steady hs1 ?_)
  exact collStep_steady (setColl_steady hs1)

theorem execRoundaboutTimeout_steadies {coll} (h : s.Steady W R) : Steadies W R (execRoundaboutTimeout coll s) := by
  unfold execRoundaboutTimeout
  split
  · exact next_steadies h
  · split
    · exact ite_steadies (next_steadies (collFails_steady h)) (next_steadies h)
    · exact next_steadies h

/-! ## Issue -/

theorem decodeInstr_steadies {code which o} (h : s.Steady W R) : Steadies W R (decodeInstr code which o s) := asyncInstr_steadies h

/-! ## Decoding -/

theorem decodeOp_steady {id o which fn d at'} (h : s.Steady W R) : (s.decodeOp id o which fn d at').Steady W R := by
  unfold State.decodeOp
  extract_lets +onlyGivenNames scr
  split
  extract_lets +onlyGivenNames t
  split
  · rename_i s1 es1
    have hs1 : s1.Steady W R := steady_of_fst (ite_fst_steady h (ite_fst_steady h (opRead_steady h))) es1
    exact hs1
  · rename_i s1 _ es1
    have hs1 : s1.Steady W R := steady_of_fst (ite_fst_steady h (ite_fst_steady h (opRead_steady h))) es1
    extract_lets +onlyGivenNames src r out s2 s3
    have hs3 : s3.Steady W R := setTeam_steady hs1
    exact opDone_steady hs3

/-! ## DCHK -/

theorem dchkOp_steady {id o fn d at'} (h : s.Steady W R) : (s.dchkOp id o fn d at').Steady W R := by
  unfold State.dchkOp
  extract_lets +onlyGivenNames ok last
  split
  · split
    · rename_i s1 es1
      have hs1 : s1.Steady W R := steady_of_fst (opRead_steady h) es1
      exact hs1
    · rename_i s1 _ es1
      have hs1 : s1.Steady W R := steady_of_fst (opRead_steady h) es1
      exact opDid_steady hs1
  · split
    · extract_lets +onlyGivenNames off n
      split
      · rename_i s1 es1
        have hs1 : s1.Steady W R := steady_of_fst (opWrite_steady h) es1
        exact opDid_steady hs1
      · rename_i s1 es1
        have hs1 : s1.Steady W R := steady_of_fst (opWrite_steady h) es1
        exact hs1
    · exact ite_steady (opRead'_steady h) (ite_steady h (opDone_steady (scratchWrite_steady (scratchWrite_steady h))))

/-! ## Completion -/

theorem copyDone_steady {id o} (h : s.Steady W R) : (s.copyDone id o).Steady W R := by
  unfold State.copyDone
  split
  · exact h
  · split
    · exact opRead'_steady h
    · split
      · exact h
      · split
        · exact opDone_steady (scratchWrite_steady h)
        · extract_lets +onlyGivenNames s1
          have hs1 : s1.Steady W R := dropOp_steady h
          exact ite_steady hs1 (ite_steady (gridCheck_steady (setGrid_steady hs1)) (setGrid_steady hs1))
        · exact opDone_steady h

theorem epiDone_steady {id o toScr dst pitch ofmt} (h : s.Steady W R) : (s.epiDone id o toScr dst pitch ofmt).Steady W R := by
  unfold State.epiDone
  split
  · exact h
  · split
    · exact opRead'_steady h
    · split
      · split
        · rename_i s1 es1
          have hs1 : s1.Steady W R := steady_of_fst (epiWrite_steady h) es1
          exact hs1
        · rename_i s1 es1
          have hs1 : s1.Steady W R := steady_of_fst (epiWrite_steady h) es1
          split
          · exact ite_steady (opDone_steady hs1) hs1
          · exact hs1
      · exact ite_steady (opDone_steady h) h

theorem forgetFailed_steady {k} (h : s.Steady W R) : (s.forgetFailed k).Steady W R := by
  unfold State.forgetFailed
  split
  · exact h
  · exact ite_steady h h

theorem completeOp_steady {id o} (h : s.Steady W R) : (s.completeOp id o).Steady W R := by
  unfold State.completeOp
  split
  · split
    · exact h
    · exact h
    · exact dropOp_steady (forgetFailed_steady (tellFailed_steady h))
    · exact ite_steady h (dropOp_steady h)
    · exact dropOp_steady h
  · split
    · exact h
    · split
      · exact h
      · exact h
      · split
        · rename_i s1 es1
          have hs1 : s1.Steady W R := steady_of_fst (loadDie_steady h) es1
          exact opDone_steady hs1
        · rename_i s1 es1
          have hs1 : s1.Steady W R := steady_of_fst (loadDie_steady h) es1
          exact hs1
      · exact epiDone_steady h
      · exact ite_steady (collFinish_steady h) (collRead_steady h)
      · exact decodeOp_steady h
      · exact dchkOp_steady h
      · exact copyDone_steady h

theorem execEngineOperationComplete_steadies {operation} (h : s.Steady W R) :
    Steadies W R (execEngineOperationComplete operation s) := by
  unfold execEngineOperationComplete
  split
  · exact next_steadies h
  · exact next_steadies (attempt_steady (fun _ h1 => completeOp_steady h1) h)

end Sys2Proof.Machine

/-! # Memory through a step: grids and placement -/

namespace Sys2Proof.Machine

variable {s : State} {W : Prop} {R : Power → Prop}

/-! ## Region control blocks -/

theorem readNode_steady {ctx addr} (h : s.Steady W R) : (s.readNode ctx addr).1.Steady W R := by
  unfold State.readNode
  split
  · exact h
  · split
    · rename_i s1 _ es1
      have hs1 : s1.Steady W R := steady_of_fst (unitRead_steady h) es1
      exact hs1
    · rename_i s1 _ es1
      have hs1 : s1.Steady W R := steady_of_fst (unitRead_steady h) es1
      exact hs1

/-! ## Grid start -/

theorem startCopies_steady {grid es} (h : s.Steady W R) : (s.startCopies grid es).Steady W R := by
  unfold State.startCopies
  extract_lets +onlyGivenNames engine ctx
  refine foldl_steady (fun _ _ h1 => ?_) h
  split
  extract_lets +onlyGivenNames op
  split
  rename_i s1 es1
  have hs1 : s1.Steady W R := steady_of_snd (addOp_steady h1) es1
  extract_lets +onlyGivenNames g
  split
  · exact setGrid_steady hs1
  · exact setGrid_steady hs1
  · exact hs1

theorem takeAccounts_steady {t : State} {grid needs} (h : s.Steady W R) (ht : s.takeAccounts grid needs = some t) : t.Steady W R := by
  refine foldlM_steady (fun u v a hu hv => ?_) h ht
  obtain ⟨node, res, w⟩ := a
  dsimp only at hv
  split at hv
  all_goals
    obtain ⟨k, -, rfl⟩ := Option.map_eq_some_iff.mp hv
    exact hu

theorem fundGrid_steady {grid} (h : s.Steady W R) : (s.fundGrid grid).Steady W R := by
  unfold State.fundGrid
  extract_lets g
  split
  · exact h
  · next hneeds => exact startCopies_steady (setGrid_steady (takeAccounts_steady h hneeds))

theorem badGrid_steady {queue index node} (h : s.Steady W R) :
    (s.badGrid queue index node).Steady W R :=
  recordDone_steady (post_steady h)

/-- The state that a chain of RCB nodes was read in. -/
def Chain.state : Chain → State
  | .ok s _ => s
  | .bad s _ => s

theorem climbChain_steady {ctx nodes parent fuel} (h : s.Steady W R) : (s.climbChain ctx nodes parent fuel).state.Steady W R := by
  induction fuel generalizing s nodes parent with
  | zero => exact h
  | succ fuel ih =>
    unfold State.climbChain
    split
    · next hnode => exact steady_of_fst (readNode_steady h) hnode
    · next hnode =>
      have hnode := steady_of_fst (readNode_steady h) hnode
      extract_lets +onlyGivenNames kindOk
      split
      · exact hnode
      · split
        · split <;> exact hnode
        · exact ih hnode

theorem readChain_steady {ctx grid} (h : s.Steady W R) : (s.readChain ctx grid).state.Steady W R := by
  unfold State.readChain
  split
  · next hgrid => exact steady_of_fst (readNode_steady h) hgrid
  · next hgrid =>
    have hgrid := steady_of_fst (readNode_steady h) hgrid
    extract_lets +onlyGivenNames teams
    split
    · exact hgrid
    · split
      · next hleaf =>
        have hleaf := steady_of_fst (readNode_steady hgrid) hleaf
        split <;> exact hleaf
      · next hleaf =>
        have hleaf := steady_of_fst (readNode_steady hgrid) hleaf
        split
        · exact hleaf
        · split
          · exact hleaf
          · exact climbChain_steady hleaf

theorem foldlM_fst_steady {α β : Type} {f : State × β → α → Option (State × β)}
    (hf : ∀ p q a, p.1.Steady W R → f p a = some q → q.1.Steady W R) {l : List α} {p q : State × β} (h : p.1.Steady W R)
    (hq : l.foldlM f p = some q) : q.1.Steady W R := by
  induction l generalizing p with
  | nil => exact Option.some.inj hq ▸ h
  | cons a l ih =>
    rw [List.foldlM_cons, Option.bind_eq_bind, Option.bind_eq_some_iff] at hq
    obtain ⟨u, hu, hq⟩ := hq
    exact ih (hf _ _ _ h hu) hq

theorem readSchedule_steady {ctx e p} (h : s.Steady W R) (hp : s.readSchedule ctx e = some p) : p.1.Steady W R := by
  refine foldlM_fst_steady (fun q r a hq hr => ?_) h hp
  split at hr
  · simp at hr
  · next hread =>
    extract_lets n ok at hr
    dsimp only at hr
    split at hr
    · simp at hr
    · exact Option.some.inj hr ▸ steady_of_fst (unitRead_steady hq) hread

theorem checkInForce_steady {ctx e p} (h : s.Steady W R) (hp : s.checkInForce ctx e = .ok p) : p.1.Steady W R := by
  unfold State.checkInForce at hp
  simp only [ite_eq_iff, reduceCtorEq, and_false, false_or] at hp
  obtain ⟨-, -, -, -, -, hp⟩ := hp
  split at hp
  · simp at hp
  · next hsched =>
    split at hp
    · exact Except.ok.inj hp ▸ readSchedule_steady h hsched
    · simp at hp

theorem startGrid_steady {queue index entry} (h : s.Steady W R) : (s.startGrid queue index entry).Steady W R := by
  unfold State.startGrid
  extract_lets +onlyGivenNames q s1 s2 addr
  have hs2 : s2.Steady W R := setQueue_steady h
  have hchain := readChain_steady (ctx := q.ctx) (grid := addr) hs2
  split
  · next heq =>
    rw [heq] at hchain
    exact badGrid_steady hchain
  · next heq =>
    rw [heq] at hchain
    extract_lets +onlyGivenNames own e
    split
    · exact badGrid_steady hchain
    · next hcheck =>
      have hs3 := checkInForce_steady hchain hcheck
      exact fundGrid_steady (setGrid_steady hs3)

theorem failWaiting_steady {queue index} (h : s.Steady W R) : (s.failWaiting queue index).Steady W R :=
  recordDone_steady (setQueue_steady h)

theorem execGridStart_steadies {queue} (h : s.Steady W R) : Steadies W R (execGridStart queue s) := by
  unfold execGridStart
  split
  · exact next_steadies h
  · split
    · exact next_steadies (fundGrid_steady h)
    · split
      · exact next_steadies h
      · split
        · exact next_steadies h
        · split
          · exact next_steadies (failWaiting_steady h)
          · split
            · exact next_steadies (startGrid_steady h)
            · exact next_steadies h

theorem execGridReady_steadies {grid} (h : s.Steady W R) : Steadies W R (execGridReady grid s) := by
  unfold execGridReady
  split
  · exact next_steadies h
  · split
    · exact next_steadies h
    · extract_lets +onlyGivenNames s1
      have hs1 : s1.Steady W R := setGrid_steady h
      exact next_steadies hs1

/-! ## Eligibility and wait clocks -/

theorem runClocks_steady (h : s.Steady W R) : s.runClocks.Steady W R := h

/-! ## Budget periods -/

theorem execAccountCharge_steadies {index} (h : s.Steady W R) : Steadies W R (execAccountCharge index s) := by
  unfold execAccountCharge
  split
  · exact next_steadies h
  · extract_lets +onlyGivenNames a
    split
    · exact next_steadies h
    · extract_lets +onlyGivenNames s1
      split
      · exact next_steadies h
      · exact next_steadies (runClocks_steady (foldl_steady (fun _ _ h1 => nameCause_steady h1) h))

theorem execBudgetPeriodBoundary_steadies (h : s.Steady W R) : Steadies W R (execBudgetPeriodBoundary s) :=
  ite_steadies (next_steadies h) (next_steadies (runClocks_steady (endCauses_steady h)))

/-! ## Suspension -/

theorem suspend_steady {bits} (h : s.Steady W R) : (s.suspend bits).Steady W R :=
  runClocks_steady (foldl_steady (fun _ _ h1 => nameCause_steady h1) h)

theorem unsuspend_steady {bits} (h : s.Steady W R) : (s.unsuspend bits).Steady W R := runClocks_steady (endCauses_steady h)

theorem execDsuspSet_steadies {value} (h : s.Steady W R) : Steadies W R (execDsuspSet value s) :=
  ite_steadies (next_steadies h) (next_steadies (suspend_steady h))

theorem execDsuspClear_steadies {value} (h : s.Steady W R) : Steadies W R (execDsuspClear value s) :=
  ite_steadies (next_steadies h) (next_steadies (unsuspend_steady h))

/-! ## A team comes onto its core -/

theorem emptyLines_steady {core p} (h : s.Steady W R) : (s.emptyLines core p).Steady W R :=
  foldl_steady (fun _ _ h1 => evictLine_steady h1) h

theorem setFused_steady {cluster fused} (h : s.Steady W R) : (s.setFused cluster fused).Steady W R :=
  ite_steady h (setCluster_steady (foldl_steady (fun _ _ h1 => emptyLines_steady h1) h))

theorem takeUnits_steady {team core n} (h : s.Steady W R) : (s.takeUnits team core n).Steady W R :=
  setTeam_steady (setCore_steady (emptyLines_steady h))

theorem takeTiles_steady {team core afresh} (h : s.Steady W R) : (s.takeTiles team core afresh).1.Steady W R := by
  unfold State.takeTiles
  extract_lets +onlyGivenNames t e kept numbers taken holders own left new s1
  have hs1 : s1.Steady W R := setTeam_steady h
  exact foldl_steady (fun _ _ h2 => setCore_steady h2) (foldl_steady (fun _ _ h2 => spillTiles_steady h2) hs1)

theorem reserve_steady {team} (h : s.Steady W R) : (s.reserve team).Steady W R := by
  unfold State.reserve
  extract_lets +onlyGivenNames t c n
  split
  · exact h
  · exact setTeam_steady (setCtx_steady h)

theorem takeTask_steady {team} (h : s.Steady W R) : (s.takeTask team).Steady W R := by
  unfold State.takeTask
  extract_lets +onlyGivenNames t e
  split
  · exact h
  · exact setTeam_steady (setTeam_steady (setTask_steady h))

theorem newGroup_steady {team gix ready} (h : s.Steady W R) : (s.newGroup team gix ready).Steady W R := setGroup_steady (fresh_steady h)

theorem startBase_steady {core} (h : s.Steady W R) : (s.startBase core).2.Steady W R := ite_snd_steady h (setCluster_steady h)

theorem restoreGroups_steady {team base park} (h : s.Steady W R) : (s.restoreGroups team base park).Steady W R := by
  unfold State.restoreGroups
  extract_lets +onlyGivenNames t e a kept
  split
  rename_i s1 _ es1
  have hs1 : s1.Steady W R :=
    steady_of_fst
      (foldl_fst_steady (fun _ _ h1 => foldl_steady (fun _ _ h2 => enterBox_steady h2) (setGroup_steady (loadGroup_steady h1))) h) es1
  exact setTeam_steady hs1

theorem restoreTiles_steady {team core left} (h : s.Steady W R) : (s.restoreTiles team core left).Steady W R := by
  -- what is read of an area stays a variable: the kernel is not to compute the 4096 bytes of a tile
  have hread : ∃ read, State.getArea = read ∧ ∀ {t : State} {a off n}, t.Steady W R → (read t a off n).1.Steady W R :=
    ⟨_, rfl, getArea_steady⟩
  obtain ⟨read, hget, hread⟩ := hread
  unfold State.restoreTiles
  rw [hget]
  extract_lets +onlyGivenNames t e
  refine foldl_steady (fun u a hu => ?_) h
  split
  split
  next harea =>
  have harea := steady_of_fst (hread hu) harea
  exact ite_steady (setTeam_steady (putArea_steady harea)) (setCore_steady harea)

theorem dropStale_steady {core ctx started} (h : s.Steady W R) : (s.dropStale core ctx started).Steady W R := setCore_steady h

theorem placeTeam_steady {team core} (h : s.Steady W R) : (s.placeTeam team core).Steady W R := by
  unfold State.placeTeam
  extract_lets +onlyGivenNames t g e afresh park s1
  have hs1 : s1.Steady W R := setFused_steady h
  extract_lets +onlyGivenNames s2
  have hs2 : s2.Steady W R := ite_steady (takeTask_steady hs1) hs1
  extract_lets +onlyGivenNames s3
  have hs3 : s3.Steady W R := ite_steady (reserve_steady hs2) hs2
  extract_lets +onlyGivenNames s4
  have hs4 : s4.Steady W R := takeUnits_steady hs3
  split
  rename_i s5 es5
  have hs5 : s5.Steady W R := steady_of_snd (startBase_steady hs4) es5
  extract_lets +onlyGivenNames s6 s7
  have hs7 : s7.Steady W R := ite_steady (setTeam_steady hs5) hs5
  split
  rename_i s8 _ _ es8
  have hs8 : s8.Steady W R := steady_of_fst (takeTiles_steady hs7) es8
  extract_lets +onlyGivenNames base s9 s10
  have hs10 : s10.Steady W R := setTeam_steady hs8
  extract_lets +onlyGivenNames s11
  have hs11 : s11.Steady W R := dropStale_steady hs10
  extract_lets +onlyGivenNames s12 s13
  have hs13 : s13.Steady W R := setCluster_steady hs11
  split
  · exact foldl_steady (fun _ _ h11 => newGroup_steady h11) (setTeam_steady hs13)
  · extract_lets +onlyGivenNames s14
    have hs14 : s14.Steady W R := loadScratch_steady hs13
    extract_lets +onlyGivenNames s15
    have hs15 : s15.Steady W R := restoreGroups_steady hs14
    extract_lets +onlyGivenNames s16
    have hs16 : s16.Steady W R := ite_steady (restoreTiles_steady hs15) hs15
    exact setTeam_steady (ite_steady (freePark_steady hs16) hs16)

/-! ## The placement step -/

theorem placeUnit_steady {i site} (h : s.Steady W R) : (s.placeUnit i site).Steady W R := by
  unfold State.placeUnit
  refine foldl_steady (fun _ _ h1 => ?_) h
  split
  split
  · exact placeTeam_steady h1
  · exact placeTeam_steady (setGrid_steady (setTeam_steady (fresh_steady h1)))

/-- The state that a pass over the items of the distributor leaves. -/
def PassResult.state : PassResult → State
  | .placed s => s
  | .held s => s
  | .nothing s => s

theorem tryItems_steady {first items} (h : s.Steady W R) : (s.tryItems first items).state.Steady W R := by
  induction items generalizing s with
  | nil => exact h
  | cons a rest ih =>
    obtain ⟨n, i⟩ := a
    unfold State.tryItems
    extract_lets +onlyGivenNames i'
    split
    · exact ih h
    · split
      · exact placeUnit_steady h
      · extract_lets +onlyGivenNames i1 d s1
        split
        · exact h
        · exact ih h

theorem tryLevels_steady {first levels} (h : s.Steady W R) : (s.tryLevels first levels).1.state.Steady W R := by
  induction levels generalizing s with
  | nil => exact h
  | cons lv rest ih =>
    have hitems := tryItems_steady (first := first) (items := s.dist.level lv) h
    unfold State.tryLevels
    split
    · next heq =>
      rw [heq] at hitems
      exact hitems
    · next heq =>
      rw [heq] at hitems
      exact hitems
    · next heq =>
      rw [heq] at hitems
      exact ih hitems

theorem secondPass_steadies {levels lv} (h : s.Steady W R) : Steadies W R (match (s.tryLevels false levels).1 with
    | .placed t => .next { t with dist := { t.dist with reserved := lv } }
    | .held t => .next t
    | .nothing t => .next t) := by
  have hpass := tryLevels_steady (first := false) (levels := levels) h
  generalize (s.tryLevels false levels).1 = r at *
  cases r with
  | placed => exact next_steadies hpass
  | held => exact next_steadies hpass
  | nothing => exact next_steadies hpass

theorem execPlacementDecision_steadies (h : s.Steady W R) : Steadies W R (execPlacementDecision s) := by
  unfold execPlacementDecision
  refine ite_steadies (next_steadies h) ?_
  extract_lets +onlyGivenNames d s1
  have hs1 : s1.Steady W R := h
  have hfirst := tryLevels_steady (first := true) (levels := levels) hs1
  split
  · next heq =>
    rw [heq] at hfirst
    exact next_steadies hfirst
  · next heq =>
    rw [heq] at hfirst
    exact secondPass_steadies hfirst
  · next heq =>
    rw [heq] at hfirst
    exact secondPass_steadies hfirst

theorem execPlacementReservation_steadies (h : s.Steady W R) : Steadies W R (execPlacementReservation s) := by
  unfold execPlacementReservation
  extract_lets +onlyGivenNames held
  split <;> exact next_steadies h

end Sys2Proof.Machine

/-! # Memory through a step: contexts and queues -/

namespace Sys2Proof.Machine

variable {s : State} {W : Prop} {R : Power → Prop}

/-! ## BAR4 -/

theorem tellBad_steady {line} (h : s.Steady W R) : (s.tellBad line).Steady W R := foldl_steady (fun _ _ h1 => post_steady h1) h

theorem hostLine_steady {pa n} (h : s.Steady W R) : (s.hostLine pa n).1.Steady W R := by
  unfold State.hostLine
  split
  · exact h
  · split
    · exact ite_steady (tellBad_steady (ite_steady h (addBad_steady h))) (ite_steady h (addBad_steady h))
    · exact readNow_steady h

theorem bar4Read_steady {pa n} (h : s.Steady W R) :
    (s.bar4Read pa n).Steady W R :=
  foldl_fst_steady (fun _ _ h1 => hostLine_steady h1) h

theorem execBar4Read_steadies {off bytes} (h : s.Steady W R) : Steadies W R (execBar4Read off bytes s) := by
  unfold execBar4Read
  split
  · exact next_steadies h
  · split
    · exact next_steadies h
    · exact ite_steadies (next_steadies h) (next_steadies (attempt_steady (fun _ h1 => bar4Read_steady h1) h))

theorem execBar4Write_steadies {off data} (h : s.Steady W R) : Steadies W R (execBar4Write off data s) := by
  unfold execBar4Write
  split
  · exact next_steadies h
  · exact ite_steadies (next_steadies h) (next_steadies (attempt_steady (fun _ h1 => writeNow_steady h1) h))

/-! ## Context registers -/

theorem ctxError_steady {ctx} (h : s.Steady W R) : (s.ctxError ctx).Steady W R := setCtx_steady h

theorem enableCtx_steady {ctx func pasid} (h : s.Steady W R) : (s.enableCtx ctx func pasid).Steady W R := by
  unfold State.enableCtx
  extract_lets +onlyGivenNames first s1 s2
  have hs2 : s2.Steady W R := setCtx_steady h
  exact ite_steady hs2 (foldl_steady (fun _ _ h2 => postBytes_steady h2) hs2)

theorem forgetCtx_steady {ctx} (h : s.Steady W R) : (s.forgetCtx ctx).Steady W R := by
  unfold State.forgetCtx
  extract_lets +onlyGivenNames s1
  have hs1 : s1.Steady W R := tlbRemove_steady h
  exact setCtx_steady hs1

theorem cxctlWrite_steady {ctx value} (h : s.Steady W R) : (s.cxctlWrite ctx value).Steady W R := by
  unfold State.cxctlWrite
  extract_lets +onlyGivenNames c en func pasid
  split
  · exact ite_steady (ctxError_steady h) (ite_steady h (ite_steady (ctxError_steady h) (forgetCtx_steady h)))
  · exact ite_steady (setCtx_steady h) (ite_steady (ctxError_steady h) (enableCtx_steady h))

theorem execContextEnable_steadies {func ctx value} (h : s.Steady W R) : Steadies W R (execContextEnable func ctx value s) :=
  ite_steadies (next_steadies h) (ite_steadies (next_steadies (cxctlWrite_steady h)) (next_steadies h))

theorem execContextDisable_steadies {func ctx value} (h : s.Steady W R) : Steadies W R (execContextDisable func ctx value s) :=
  ite_steadies (next_steadies h) (ite_steadies (next_steadies (cxctlWrite_steady h)) (next_steadies h))

/-! ## The record ring -/

theorem cxrriWrite_steady {ctx value} (h : s.Steady W R) : (s.cxrriWrite ctx value).Steady W R :=
  ite_steady (ctxError_steady h) (ite_steady (msix_steady (setCtx_steady h)) (setCtx_steady h))

theorem execRecordRingReadIndexWrite_steadies {func ctx value} (h : s.Steady W R) :
    Steadies W R (execRecordRingReadIndexWrite func ctx value s) :=
  ite_steadies (next_steadies h) (ite_steadies (next_steadies (cxrriWrite_steady h)) (next_steadies h))

theorem writeHeld_steady {ctx} (h : s.Steady W R) : (s.writeHeld ctx).Steady W R := by
  unfold State.writeHeld
  split
  · exact h
  · split
    · next hring => exact setCtx_steady (ringWrite_steady h (.inl hring))
    · next hring => exact ringWrite_steady h (.inr hring)

theorem execHeldRecordWrite_steadies {ctx} (h : s.Steady W R) : Steadies W R (execHeldRecordWrite ctx s) :=
  next_steadies (attempt_steady (fun _ h1 => writeHeld_steady h1) h)

/-! ## The write index -/

theorem overrun_steady {q} (h : s.Steady W R) : (s.overrun q).Steady W R := ite_steady (queueFault_steady h) h

theorem qwin_steady {q value} (h : s.Steady W R) : (s.qwin q value).Steady W R :=
  ite_steady h (ite_steady (overrun_steady h) (setQueue_steady h))

theorem execQwinWrite_steadies {func queue value} (h : s.Steady W R) : Steadies W R (execQwinWrite func queue value s) :=
  ite_steadies (next_steadies h) (ite_steadies (next_steadies (qwin_steady h)) (next_steadies h))

/-! ## Fetch -/

theorem finishFetch_steady {q} (h : s.Steady W R) : (s.finishFetch q).Steady W R := by
  unfold State.finishFetch
  extract_lets +onlyGivenNames x
  split
  · exact h
  · extract_lets +onlyGivenNames s1
    have hs1 : s1.Steady W R := setQueue_steady h
    extract_lets +onlyGivenNames fail
    have hfail : ∀ u x1, u.Steady W R → (fail u x1).Steady W R := fun u x1 hu => ite_steady (queueFault_steady hu) hu
    extract_lets +onlyGivenNames take
    have htake : ∀ u x1, u.Steady W R → (take u x1).Steady W R := fun u x1 hu => ite_steady (setQueue_steady hu) (hfail _ _ hu)
    split
    · exact htake _ _ (readNow_steady hs1)
    · exact htake _ _ hs1
    · exact hfail _ _ hs1

theorem issueFetch_steady {queue} (h : s.Steady W R) : (s.issueFetch queue).Steady W R := by
  unfold State.issueFetch
  extract_lets +onlyGivenNames x c s1
  have hs1 : s1.Steady W R := atsAsk_steady h
  split
  · exact setQueue_steady (xlateTouch_steady hs1)
  · exact ite_steady (hold_steady hs1) (hostAsk_steady (setQueue_steady hs1))
  · exact setQueue_steady hs1

theorem execRecordFetch_steadies {queue} (h : s.Steady W R) : Steadies W R (execRecordFetch queue s) :=
  ite_steadies (next_steadies (attempt_steady (fun _ h1 => issueFetch_steady h1) h)) (next_steadies h)

theorem execRecordFetchComplete_steadies {queue} (h : s.Steady W R) : Steadies W R (execRecordFetchComplete queue s) :=
  next_steadies (attempt_steady (fun _ h1 => finishFetch_steady h1) h)

/-! ## Queue control -/

theorem abortQueue_steady {q} (h : s.Steady W R) : (s.abortQueue q).Steady W R := by
  unfold State.abortQueue
  extract_lets +onlyGivenNames x
  split
  · exact h
  · extract_lets +onlyGivenNames grids recs s1
    have hs1 : s1.Steady W R := setQueue_steady h
    extract_lets +onlyGivenNames s2 s3 s4
    have hs4 : s4.Steady W R := by
      unfold s4
      refine foldl_steady (fun _ _ h1 => ?_) hs1
      split
      · exact ite_steady h1 (abortDomain_steady h1)
      · exact h1
    exact setQueue_steady hs4

theorem stopQueue_steady {q} (h : s.Steady W R) : (s.stopQueue q).Steady W R := by
  unfold State.stopQueue
  extract_lets +onlyGivenNames x
  split
  · exact setQueue_steady h
  · exact setQueue_steady h
  · exact h

theorem resumeQueue_steady {q} (h : s.Steady W R) : (s.resumeQueue q).Steady W R := ite_steady (setQueue_steady h) h

theorem enableQueue_steady {q en} (h : s.Steady W R) : (s.enableQueue q en).Steady W R :=
  ite_steady (ite_steady (setQueue_steady h) h) (ite_steady (setQueue_steady h) h)

theorem qctlWrite_steady {q value} (h : s.Steady W R) : (s.qctlWrite q value).Steady W R := by
  unfold State.qctlWrite
  extract_lets +onlyGivenNames s1
  have hs1 : s1.Steady W R := finishFetch_steady h
  extract_lets +onlyGivenNames x s2
  have hs2 : s2.Steady W R := ite_steady (setQueue_steady hs1) hs1
  extract_lets +onlyGivenNames s3
  have hs3 : s3.Steady W R := ite_steady (abortQueue_steady hs2) hs2
  extract_lets +onlyGivenNames s4
  have hs4 : s4.Steady W R := ite_steady (stopQueue_steady hs3) hs3
  exact enableQueue_steady (ite_steady (resumeQueue_steady hs4) hs4)

theorem execQueueCreate_steadies {func queue value} (h : s.Steady W R) : Steadies W R (execQueueCreate func queue value s) :=
  ite_steadies (next_steadies h) (ite_steadies (next_steadies (qctlWrite_steady h)) (next_steadies h))

theorem execQueueDestroy_steadies {func queue value} (h : s.Steady W R) : Steadies W R (execQueueDestroy func queue value s) :=
  ite_steadies (next_steadies h) (ite_steadies (next_steadies (qctlWrite_steady h)) (next_steadies h))

theorem execQueueStop_steadies {func queue value} (h : s.Steady W R) : Steadies W R (execQueueStop func queue value s) :=
  ite_steadies (next_steadies h) (ite_steadies (next_steadies (qctlWrite_steady h)) (next_steadies h))

theorem execQueueAbort_steadies {func queue value} (h : s.Steady W R) : Steadies W R (execQueueAbort func queue value s) :=
  ite_steadies (next_steadies h) (ite_steadies (next_steadies (qctlWrite_steady h)) (next_steadies h))

theorem execQueueResume_steadies {func queue value} (h : s.Steady W R) : Steadies W R (execQueueResume func queue value s) :=
  ite_steadies (next_steadies h) (ite_steadies (next_steadies (qctlWrite_steady h)) (next_steadies h))

/-! ## Starting records -/

theorem addressFault_steady {q cause addr} (h : s.Steady W R) : (s.addressFault q cause addr).Steady W R :=
  ite_steady (queueFault_steady h) h

theorem poll_steady {queue} (h : s.Steady W R) : (s.poll queue).Steady W R := by
  unfold State.poll
  extract_lets +onlyGivenNames q
  split
  · exact h
  · extract_lets +onlyGivenNames l
    split
    · exact h
    · extract_lets +onlyGivenNames note
      have hnote : ∀ u x1, u.Steady W R → (note u x1).Steady W R := fun u x1 hu => setQueue_steady hu
      split
      · rename_i s1 _ es1
        have hs1 : s1.Steady W R := steady_of_fst (unitRead_steady h) es1
        exact addressFault_steady (hnote _ _ hs1)
      · rename_i s1 _ es1
        have hs1 : s1.Steady W R := steady_of_fst (unitRead_steady h) es1
        exact hnote _ _ hs1

theorem execWaitAddressPoll_steadies {queue} (h : s.Steady W R) : Steadies W R (execWaitAddressPoll queue s) := by
  unfold execWaitAddressPoll
  extract_lets +onlyGivenNames q
  split
  · exact next_steadies h
  · extract_lets +onlyGivenNames period
    split
    · exact ite_steadies (next_steadies (attempt_steady (fun _ h1 => poll_steady h1) h)) (next_steadies h)
    · exact next_steadies (attempt_steady (fun _ h1 => poll_steady h1) h)

theorem execRecordStart_steadies {queue} (h : s.Steady W R) : Steadies W R (execRecordStart queue s) := by
  unfold execRecordStart
  extract_lets +onlyGivenNames q
  split
  · exact next_steadies h
  · extract_lets +onlyGivenNames l index
    split
    · exact next_steadies h
    · split
      · exact next_steadies (ite_steady (failWaiting_steady h) h)
      · extract_lets +onlyGivenNames begun
        have hbegun : ∀ u, u.Steady W R → (begun u).Steady W R := fun u hu => setQueue_steady hu
        split
        · exact next_steadies (recordDone_steady (hbegun _ h))
        · split
          · exact next_steadies h
          · exact ite_steadies (next_steadies (recordDone_steady (hbegun _ h))) (next_steadies h)

/-! ## Completion actions -/

theorem pollWord_steady {ctx addr} (h : s.Steady W R) :
    (s.pollWord ctx addr).Steady W R :=
  foldl_steady (fun _ _ h1 => poll_steady h1) h

theorem complete_steady {queue r rest} (h : s.Steady W R) : (s.complete queue r rest).Steady W R := by
  unfold State.complete
  extract_lets +onlyGivenNames ctx l ok
  split
  rename_i s1 _ es1
  have hs1 : s1.Steady W R := by
    refine steady_of_fst ?_ es1
    split
    · exact h
    · split
      · rename_i s2 es2
        have hs2 : s2.Steady W R := steady_of_fst (unitWrite_steady h) es2
        exact hs2
      · rename_i s2 _ es2
        have hs2 : s2.Steady W R := steady_of_fst (unitWrite_steady h) es2
        exact addressFault_steady hs2
  extract_lets +onlyGivenNames q s2
  have hs2 : s2.Steady W R := setQueue_steady hs1
  exact ite_steady (msix_steady (ite_steady (pollWord_steady hs2) hs2)) (ite_steady (pollWord_steady hs2) hs2)

theorem execRecordCompletionActions_steadies {queue} (h : s.Steady W R) : Steadies W R (execRecordCompletionActions queue s) := by
  unfold execRecordCompletionActions
  split
  · exact next_steadies h
  · exact ite_steadies (next_steadies (attempt_steady (fun _ h1 => complete_steady h1) h)) (next_steadies h)

/-! ## LAUNCH -/

theorem execLaunch_steadies {o} (h : s.Steady W R) : Steadies W R (execLaunch o s) := by
  unfold execLaunch
  refine runState_steadies (fun _ => ?_) h
  refine bind_doneSteady fun _ => ?_
  exact bind_doneSteady fun _ => bind_doneSteady fun _ => issued_doneSteady (send_steady (setNr_steady h))

theorem append_steady {team queue at'} (h : s.Steady W R) : (s.append team queue at').1.Steady W R := by
  unfold State.append
  extract_lets +onlyGivenNames q t
  split
  · exact h
  · split
    · exact overrun_steady h
    · split
      · rename_i s1 _ es1
        have hs1 : s1.Steady W R := steady_of_fst (unitWrite_steady h) es1
        exact hs1
      · rename_i s1 es1
        have hs1 : s1.Steady W R := steady_of_fst (unitWrite_steady h) es1
        exact setQueue_steady hs1

theorem launched_steady {message team queue at' core slot entry sent} (h : s.Steady W R) :
    (s.launched message team queue at' core slot entry sent).Steady W R := by
  unfold State.launched
  extract_lets +onlyGivenNames s1
  have hs1 : s1.Steady W R := dropMsg_steady h
  split
  · exact hs1
  · split
    rename_i s2 _ es2
    have hs2 : s2.Steady W R := steady_of_fst (append_steady hs1) es2
    split
    · split
      · exact ite_steady (answer_steady hs2) hs2
      · exact hs2
    · exact hs2

theorem execLaunchAppend_steadies {message} (h : s.Steady W R) : Steadies W R (execLaunchAppend message s) := by
  unfold execLaunchAppend
  split
  · exact next_steadies h
  · split
    · exact ite_steadies (next_steadies h) (next_steadies (attempt_steady (fun _ h1 => launched_steady h1) h))
    · exact next_steadies h

/-! ## Function Level Reset -/

theorem endFlr_steady {func} (h : s.Steady W R) : (s.endFlr func).Steady W R :=
  ite_steady h (foldl_steady (fun _ _ h1 => forgetCtx_steady h1) h)

theorem flr_steady {func} (h : s.Steady W R) : (s.flr func).Steady W R := by
  unfold State.flr
  extract_lets +onlyGivenNames mine qs s1
  have hs1 : s1.Steady W R := foldl_steady (fun _ _ h1 => setQueue_steady (abortQueue_steady (finishFetch_steady h1))) h
  exact endFlr_steady (serveTags_steady hs1)

theorem execFlrVf_steadies {vf} (h : s.Steady W R) : Steadies W R (execFlrVf vf s) :=
  ite_steadies (next_steadies (flr_steady h)) (next_steadies h)

theorem execFlrQueueDestroy_steadies {queue} (h : s.Steady W R) : Steadies W R (execFlrQueueDestroy queue s) := by
  unfold execFlrQueueDestroy
  extract_lets +onlyGivenNames q
  split
  · exact next_steadies (foldl_steady (fun _ _ h1 => endFlr_steady h1) (enableQueue_steady h))
  · exact next_steadies h

end Sys2Proof.Machine

/-! # Memory through a step: the peer links -/

namespace Sys2Proof.Machine

variable {s : State} {W : Prop} {R : Power → Prop}

/-! ## The end of a checkpoint -/

theorem ckFinish_steady {ok} (h : s.Steady W R) : (s.ckFinish ok).Steady W R :=
  postPhysical_steady (endCauses_steady (foldl_steady (fun _ _ h1 => dropOp_steady h1) h))

/-! ## Completing a request of this device -/

theorem peerDone_steady {port owner stat data} (h : s.Steady W R) : (s.peerDone port owner stat data).Steady W R := by
  unfold State.peerDone
  extract_lets +onlyGivenNames err
  split
  split
  · split
    · exact h
    · exact ite_steady (accError_steady h) (ite_steady (mapLanes_steady h) (leaveStore_steady (mapLanes_steady h)))
  · exact ite_steady (opTake_steady h) (opAbort_steady h)
  · exact ite_steady h (opAbort_steady h)
  · exact ite_steady h (ite_steady (ckFinish_steady h) h)
  · exact ite_steady (collFails_steady h) h
  · exact h

/-! ## Routes -/

theorem holdRoutes_steady (h : s.Steady W R) : s.holdRoutes.Steady W R := by
  unfold State.holdRoutes
  refine foldl_steady (fun _ _ h1 => ?_) h
  extract_lets +onlyGivenNames p moved
  refine foldl_steady (fun _ _ h11 => ?_) h1
  split
  · exact h11
  · extract_lets +onlyGivenNames p1 mine s1
    have hs1 : s1.Steady W R := setPort_steady h11
    exact hs1

theorem execRouteHoldRelease_steadies {device} (h : s.Steady W R) : Steadies W R (execRouteHoldRelease device s) := by
  unfold execRouteHoldRelease
  split
  · exact next_steadies h
  · exact ite_steadies (next_steadies h) (next_steadies (setPort_steady h))

theorem respond_steady {req stat data source} (h : s.Steady W R) : (s.respond req stat data source).Steady W R := by
  unfold State.respond
  split
  · exact h
  · exact setPort_steady h

/-! ## Inbound requests -/

theorem serveInbound_steadies {port ops bytes act} (hact : ∀ t k, t.Steady W R → (act t k).1.Steady W R) (h : s.Steady W R) :
    Steadies W R (s.serveInbound port ops bytes act) := by
  unfold State.serveInbound
  split
  · exact next_steadies h
  · split
    · exact next_steadies (respond_steady h)
    · refine next_steadies (attempt_steady (fun _ h1 => ?_) h)
      exact respond_steady (hact _ _ h1)

/-! ## Routes -/

theorem execPeerRequestSend_steadies {port} (h : s.Steady W R) : Steadies W R (execPeerRequestSend port s) := by
  unfold execPeerRequestSend
  extract_lets +onlyGivenNames p
  split
  · exact next_steadies h
  · extract_lets +onlyGivenNames route less
    have hless : less.Steady W R := setPort_steady h
    clear_value route
    split
    · exact next_steadies (peerDone_steady hless)
    · split
      · exact next_steadies (setPort_steady hless)
      · split
        · exact next_steadies h
        · exact next_steadies (setPort_steady h)

/-! ## Packets in transit -/

theorem feedOut_steady {port tc pays last} (h : s.Steady W R) : (s.feedOut port tc pays last).Steady W R := h

/-! ## Port loss -/

theorem portLost_steady {n state} (h : s.Steady W R) : (s.portLost n state).Steady W R := by
  unfold State.portLost
  extract_lets +onlyGivenNames p queued heads transit answers tags s1
  have hs1 : s1.Steady W R := foldl_steady (fun _ _ h1 => feedOut_steady h1) h
  extract_lets +onlyGivenNames p1 s2
  have hs2 : s2.Steady W R := setPort_steady hs1
  extract_lets +onlyGivenNames s3
  have hs3 : s3.Steady W R := foldl_steady (fun _ _ h3 => respond_steady h3) hs2
  extract_lets +onlyGivenNames s4
  have hs4 : s4.Steady W R := by
    unfold s4
    refine foldl_steady (fun _ _ h1 => ?_) hs3
    split
    · exact setPort_steady h1
    · exact h1
  extract_lets +onlyGivenNames s5
  have hs5 : s5.Steady W R := foldl_steady (fun _ _ h5 => peerDone_steady h5) hs4
  exact holdRoutes_steady (postPhysical_steady (ite_steady (ckFinish_steady hs5) hs5))

theorem execPortReplayLimit_steadies {port} (h : s.Steady W R) : Steadies W R (execPortReplayLimit port s) :=
  ite_steadies (next_steadies (portLost_steady h)) (next_steadies h)

theorem execPortReceiveTimeout_steadies {port} (h : s.Steady W R) : Steadies W R (execPortReceiveTimeout port s) :=
  ite_steadies (next_steadies (portLost_steady h)) (next_steadies h)

/-! ## Port registers -/

theorem train_steady {n} (h : s.Steady W R) : (s.train n).Steady W R := ite_steady (setPort_steady h) h

theorem pctlWrite_steady {n value} (h : s.Steady W R) : (s.pctlWrite n value).Steady W R := by
  unfold State.pctlWrite
  extract_lets +onlyGivenNames p s1
  have hs1 : s1.Steady W R := setPort_steady h
  extract_lets +onlyGivenNames s2
  have hs2 : s2.Steady W R := ite_steady (setPort_steady h) (ite_steady hs1 (portLost_steady hs1))
  exact ite_steady (train_steady hs2) hs2

theorem execPortEnable_steadies {port value} (h : s.Steady W R) : Steadies W R (execPortEnable port value s) :=
  ite_steadies (next_steadies h) (ite_steadies (next_steadies (pctlWrite_steady h)) (next_steadies h))

theorem execPortDisable_steadies {port value} (h : s.Steady W R) : Steadies W R (execPortDisable port value s) :=
  ite_steadies (next_steadies h) (ite_steadies (next_steadies (pctlWrite_steady h)) (next_steadies h))

theorem execPortRetrain_steadies {port value} (h : s.Steady W R) : Steadies W R (execPortRetrain port value s) :=
  ite_steadies (next_steadies h) (ite_steadies (next_steadies (pctlWrite_steady h)) (next_steadies h))

theorem execPortTrainingDone_steadies {port} (h : s.Steady W R) : Steadies W R (execPortTrainingDone port s) :=
  ite_steadies (next_steadies h) (next_steadies (holdRoutes_steady (setPort_steady h)))

theorem execPwgtWrite_steadies {port value} (h : s.Steady W R) : Steadies W R (execPwgtWrite port value s) :=
  ite_steadies (next_steadies h) (ite_steadies (next_steadies (setPort_steady h)) (next_steadies h))

theorem execPdevidWrite_steadies {value} (h : s.Steady W R) : Steadies W R (execPdevidWrite value s) :=
  ite_steadies (next_steadies h) (ite_steadies (next_steadies h) (next_steadies h))

/-! ## Sending -/

theorem sendNew_steady {n tc} (h : s.Steady W R) : (s.sendNew n tc).Steady W R := by
  unfold State.sendNew
  extract_lets +onlyGivenNames p open0
  clear_value open0
  split
  · exact h
  · extract_lets +onlyGivenNames pays pay kind q more payer head q1 s1
    have hs1 : s1.Steady W R := by
      unfold s1
      clear_value payer
      split
      · exact charge_steady h
      · exact h
    exact tally_steady (setPort_steady hs1)

theorem sendAgain_steady {n f} (h : s.Steady W R) : (s.sendAgain n f).Steady W R := by
  unfold State.sendAgain
  extract_lets +onlyGivenNames s1
  have hs1 : s1.Steady W R := by
    unfold s1
    split
    · exact charge_steady h
    · exact h
  exact tally_steady (tally_steady (setPort_steady hs1))

theorem execFlitSlot_steadies {port} (h : s.Steady W R) : Steadies W R (execFlitSlot port s) := by
  unfold execFlitSlot
  extract_lets +onlyGivenNames p
  split
  · exact next_steadies h
  · extract_lets +onlyGivenNames s1
    have hs1 : s1.Steady W R := ite_steady h (setPort_steady h)
    extract_lets +onlyGivenNames again first control ws slotClass lost
    clear_value again
    clear_value first
    split
    · exact next_steadies (sendAgain_steady hs1)
    · split
      · exact next_steadies (tally_steady (setPort_steady hs1))
      · split
        · exact next_steadies (sendNew_steady hs1)
        · split
          · exact next_steadies (sendAgain_steady hs1)
          · extract_lets +onlyGivenNames s2
            have hs2 : s2.Steady W R := setPort_steady hs1
            split
            · exact next_steadies (sendNew_steady hs2)
            · exact next_steadies (tally_steady (setPort_steady (ite_steady (tally_steady hs2) hs2)))

theorem execGoBackNReplay_steadies {port seq} (h : s.Steady W R) : Steadies W R (execGoBackNReplay port seq s) :=
  ite_steadies (next_steadies (setPort_steady h)) (next_steadies h)

/-! ## Receiving -/

theorem endRecv_steady {port o} (h : s.Steady W R) : (s.endRecv port o).Steady W R :=
  ite_steady (feedOut_steady (setPort_steady h)) (setPort_steady h)

theorem acceptFlit_steady {port p body} (h : s.Steady W R) : (s.acceptFlit port p body).Steady W R := by
  unfold State.acceptFlit
  extract_lets +onlyGivenNames h1 pay cur p1
  split
  · extract_lets +onlyGivenNames s1
    have hs1 : s1.Steady W R := setPort_steady h
    extract_lets +onlyGivenNames s2
    have hs2 : s2.Steady W R := by
      unfold s2
      clear_value cur
      split
      · exact endRecv_steady hs1
      · exact hs1
    exact setPort_steady hs2
  · extract_lets +onlyGivenNames p2
    clear_value cur
    split
    · exact setPort_steady h
    · exact ite_steady (feedOut_steady (setPort_steady h)) (setPort_steady h)
  · exact setPort_steady h
  · exact setPort_steady h

theorem execFlitReceive_steadies {port flit} (h : s.Steady W R) : Steadies W R (execFlitReceive port flit s) := by
  unfold execFlitReceive
  extract_lets +onlyGivenNames p
  split
  · exact next_steadies h
  · split
    extract_lets +onlyGivenNames p1 s1
    have hs1 : s1.Steady W R := tally_steady (tally_steady h)
    exact next_steadies (ite_steady (acceptFlit_steady hs1) (setPort_steady hs1))

/-! ## Taking packets in -/

theorem execTransitPacket_steadies {port} (h : s.Steady W R) : Steadies W R (execTransitPacket port s) := by
  unfold execTransitPacket
  extract_lets +onlyGivenNames p forward
  have hforward : ∀ u x1, u.Steady W R → (forward u x1).Steady W R := by
    intro u x1 hu
    unfold forward
    split
    · exact setPort_steady hu
    · exact ite_steady hu (respond_steady hu)
  split
  · exact next_steadies (hforward _ _ (setPort_steady h))
  · split
    · exact next_steadies (hforward _ _ (setPort_steady h))
    · split
      · exact next_steadies (endRecv_steady h)
      · exact next_steadies h

theorem execPeerResponse_steadies {port} (h : s.Steady W R) : Steadies W R (execPeerResponse port s) := by
  unfold execPeerResponse
  split
  · exact next_steadies h
  · extract_lets +onlyGivenNames s1
    have hs1 : s1.Steady W R := setPort_steady h
    extract_lets +onlyGivenNames has
    split
    · exact next_steadies hs1
    · exact next_steadies (peerDone_steady (setPort_steady hs1))

/-! ## Inbound requests -/

theorem execPeerLoad_steadies {port} (h : s.Steady W R) : Steadies W R (execPeerLoad port s) :=
  serveInbound_steadies (fun _ _ h1 => ite_fst_steady (reach_steady h1) (readNow_steady (reach_steady h1))) h

theorem execPeerStore_steadies {port} (h : s.Steady W R) : Steadies W R (execPeerStore port s) :=
  serveInbound_steadies (fun _ _ h1 => writeNow_steady h1) h

theorem peerAtomicAt_steady {k} (h : s.Steady W R) : (s.peerAtomicAt k).1.Steady W R :=
  ite_fst_steady (reach_steady h) (writeNow_steady (readNow_steady (reach_steady h)))

theorem execPeerAtomic_steadies {port} (h : s.Steady W R) : Steadies W R (execPeerAtomic port s) :=
  serveInbound_steadies (fun _ _ h1 => peerAtomicAt_steady h1) h

theorem execPeerAtomicNoReturn_steadies {port} (h : s.Steady W R) : Steadies W R (execPeerAtomicNoReturn port s) :=
  serveInbound_steadies (fun _ _ h1 => peerAtomicAt_steady h1) h

theorem execPeerBulkWrite_steadies {port} (h : s.Steady W R) : Steadies W R (execPeerBulkWrite port s) :=
  serveInbound_steadies (fun _ _ h1 => writeNow_steady h1) h

theorem execPeerCheckpointPage_steadies {port} (h : s.Steady W R) : Steadies W R (execPeerCheckpointPage port s) := by
  unfold execPeerCheckpointPage
  refine serveInbound_steadies (fun _ _ h1 => ?_) h
  extract_lets +onlyGivenNames pa s1
  have hs1 : s1.Steady W R := foldl_steady (fun _ _ h2 => setSlice_steady (settleLine_steady h2)) (reach_steady h1)
  exact ⟨fun hw => cwrite_wf _ _ _ (hs1.1 hw), hs1.2⟩

theorem execPeerCollectivePacket_steadies {port} (h : s.Steady W R) : Steadies W R (execPeerCollectivePacket port s) := by
  unfold execPeerCollectivePacket
  split
  · exact next_steadies h
  · exact next_steadies (attempt_steady (fun _ h1 => respond_steady (takeCollective_steady (setPort_steady h1))) h)

theorem execPeerReservedOp_steadies {port} (h : s.Steady W R) : Steadies W R (execPeerReservedOp port s) := by
  unfold execPeerReservedOp
  split
  · exact next_steadies h
  · exact next_steadies (respond_steady (setPort_steady h))

end Sys2Proof.Machine

/-! # Memory through a step: bring-up, the checkpoint and the host's registers -/

namespace Sys2Proof.Machine

variable {s : State} {W : Prop} {R : Power → Prop}

/-! ## Resets and rails -/

theorem blank_steady (h : s.Steady W anyPower) : s.blank.Steady W anyPower := h

theorem execModuleReset_steadies (h : s.Steady W anyPower) : Steadies W anyPower (execModuleReset s) :=
  ite_steadies (next_steadies h) (next_steadies (blank_steady h))

theorem powerDown_steady {vaux vmem} (h : s.Steady W anyPower) : (s.powerDown vaux vmem).Steady W anyPower := by
  unfold State.powerDown
  extract_lets p b
  refine ⟨fun hw => ?_, trivial⟩
  dsimp only
  split
  · exact h.1 hw
  · rfl

/-! ## The orderly stop -/

theorem stopAll_steady (h : s.Steady W R) : s.stopAll.Steady W R := h

theorem dropVersions_steady (h : s.Steady W R) : s.dropVersions.Steady W R :=
  foldl_steady (fun _ _ h1 => foldl_steady (fun _ _ h2 => mergeSlice_steady h2) h1) h

theorem writeBack_steady (h : s.Steady W R) :
    s.writeBack.Steady W R :=
  ite_steady (foldl_steady (fun _ _ h1 => drainLine_steady h1) h) h

theorem t3Act_steady {k} (h : s.Steady W anyPower) : (s.t3Act k).Steady W anyPower := by
  unfold State.t3Act
  split
  · exact h
  · exact stopAll_steady h
  · exact dropVersions_steady h
  · exact foldl_steady (fun _ _ h1 => ite_steady h1 (portLost_steady h1)) h
  · exact writeBack_steady h
  · exact postAll_steady h
  · exact powerDown_steady h

theorem t3Advance_steady (h : s.Steady W anyPower) : s.t3Advance.Steady W anyPower := ite_steady h (t3Act_steady h)

theorem orderlyStop_steady (h : s.Steady W anyPower) : s.orderlyStop.Steady W anyPower := ite_steady h (t3Advance_steady h)

theorem setStep_steady {c step} (h : s.Steady W R) : (s.setStep c step).Steady W R := by
  unfold State.setStep
  split
  · exact h
  · extract_lets +onlyGivenNames s1
    have hs1 : s1.Steady W R := foldCycles_steady (foldCounters_steady h)
    exact setCluster_steady hs1

theorem tableFrom_steady {old} (h : s.Steady W anyPower) : (s.tableFrom old).Steady W anyPower := by
  unfold State.tableFrom
  split
  · exact orderlyStop_steady h
  · exact ite_steady h (foldl_steady (fun _ _ h1 => setStep_steady h1) h)
  · exact ite_steady (foldl_steady (fun _ _ h1 => setStep_steady h1) h) h

theorem chipFault_steady {n} (h : s.Steady W anyPower) : (s.chipFault n).Steady W anyPower := fenceChiplet_steady (failStage_steady h)

theorem execRailFault_steadies {rails} (h : s.Steady W anyPower) : Steadies W anyPower (execRailFault rails s) := by
  unfold execRailFault
  extract_lets +onlyGivenNames hit t
  have ht : t.Steady W anyPower := ite_steady h (foldl_steady (fun _ _ h1 => chipFault_steady h1) h)
  split
  · exact next_steadies (powerDown_steady ht)
  · split
    · exact next_steadies (powerDown_steady ht)
    · exact ite_steadies (next_steadies (orderlyStop_steady ht)) (next_steadies ht)

theorem execRailUp_steadies {report} (h : s.Steady W anyPower) : Steadies W anyPower (execRailUp report s) := by
  unfold execRailUp
  extract_lets +onlyGivenNames p
  split
  · exact next_steadies h
  · split
    · exact next_steadies h
    · exact ite_steadies (next_steadies h) (ite_steadies (next_steadies (orderlyStop_steady h)) (next_steadies h))
    · exact ite_steadies (next_steadies h) (next_steadies h)
    · exact ite_steadies (next_steadies (foldl_steady (fun _ _ h1 => portLost_steady h1) h)) (next_steadies h)
    · exact ite_steadies (next_steadies (chipletStage_steady h)) (next_steadies h)

theorem execChipletReset_steadies {run} (h : s.Steady W anyPower) : Steadies W anyPower (execChipletReset run s) :=
  ite_steadies (next_steadies (rejoin_steady h)) (next_steadies h)

/-! ## Secure boot, stages and attestation -/

theorem execImageVerifyDone_steadies {check} (h : s.Steady W R) : Steadies W R (execImageVerifyDone check s) :=
  ite_steadies (next_steadies h) (ite_steadies (next_steadies h) (next_steadies h))

theorem bootstWrite_steady {value} (h : s.Steady W R) : (s.bootstWrite value).Steady W R := h

theorem execRecoveryGo_steadies {value} (h : s.Steady W R) : Steadies W R (execRecoveryGo value s) :=
  ite_steadies (next_steadies (bootstWrite_steady h)) (next_steadies h)

theorem execBaseStageDone_steadies (h : s.Steady W R) : Steadies W R (execBaseStageDone s) := by
  unfold execBaseStageDone
  refine ite_steadies (next_steadies ⟨fun _ => rfl, h.2⟩) (next_steadies h)

theorem execMemoryStageDone_steadies (h : s.Steady W R) : Steadies W R (execMemoryStageDone s) :=
  ite_steadies (next_steadies h) (next_steadies h)

theorem execClusterCalibrationDone_steadies {done} (h : s.Steady W anyPower) :
    Steadies W anyPower (execClusterCalibrationDone done s) := by
  unfold execClusterCalibrationDone
  split
  · exact next_steadies h
  · split
    · exact next_steadies (fenceChiplet_steady (failStage_steady h))
    · exact ite_steadies (next_steadies h) (next_steadies (checkFull_steady (setCluster_steady (setStep_steady h))))

theorem execAttnonceWrite_steadies {nonce} (h : s.Steady W R) : Steadies W R (execAttnonceWrite nonce s) :=
  ite_steadies (next_steadies h) (next_steadies h)

theorem execAttestationGo_steadies (h : s.Steady W R) : Steadies W R (execAttestationGo s) :=
  ite_steadies (next_steadies h) (next_steadies h)

theorem execAttestationDone_steadies (h : s.Steady W R) : Steadies W R (execAttestationDone s) :=
  ite_steadies (next_steadies h) (next_steadies h)

/-! ## Retention of clusters -/

theorem execClusterRetentionEntry_steadies {cluster} (h : s.Steady W R) : Steadies W R (execClusterRetentionEntry cluster s) := by
  unfold execClusterRetentionEntry
  extract_lets +onlyGivenNames c
  refine ite_steadies (next_steadies h) ?_
  extract_lets +onlyGivenNames s1 s2 cut slices
  have hs2 : s2.Steady W R := foldl_steady (fun _ _ h1 => emptyLines_steady h1) (foldCycles_steady (foldCounters_steady h))
  clear_value s2 slices
  exact next_steadies (setCluster_steady hs2)

theorem execClusterWake_steadies {cluster} (h : s.Steady W R) : Steadies W R (execClusterWake cluster s) := by
  unfold execClusterWake
  extract_lets +onlyGivenNames c
  split
  · exact next_steadies h
  · exact ite_steadies (next_steadies h) (next_steadies (setCluster_steady (foldCycles_steady (foldCounters_steady h))))

/-! ## Cooling loops, sensors and lasers -/

theorem setLoops_steady {top bottom} (h : s.Steady W anyPower) : (s.setLoops top bottom).Steady W anyPower :=
  ite_steady h (ite_steady h (tableFrom_steady h))

theorem execLoopSample_steadies {lossTopN lossBottomN} (h : s.Steady W anyPower) :
    Steadies W anyPower (execLoopSample lossTopN lossBottomN s) :=
  ite_steadies (next_steadies h) (next_steadies (t3Advance_steady (setLoops_steady h)))

theorem execInletOutOfRange_steadies {loop} (h : s.Steady W anyPower) : Steadies W anyPower (execInletOutOfRange loop s) := by
  unfold execInletOutOfRange
  split <;> exact ite_steadies (next_steadies (setLoops_steady h)) (next_steadies h)

theorem execLoopRestored_steadies {loop} (h : s.Steady W anyPower) : Steadies W anyPower (execLoopRestored loop s) := by
  unfold execLoopRestored
  split <;> exact next_steadies (setLoops_steady h)

theorem execSensorSample_steadies {read} (h : s.Steady W anyPower) : Steadies W anyPower (execSensorSample read s) := by
  unfold execSensorSample
  split
  · exact next_steadies h
  · extract_lets +onlyGivenNames t sensors hot high twice held s1 s2 s3
    have hs3 : s3.Steady W anyPower := setLoops_steady h
    exact ite_steadies (next_steadies (ite_steady (powerDown_steady hs3) hs3)) (next_steadies (t3Advance_steady hs3))

theorem execLaserModuleLoss_steadies {module} (h : s.Steady W anyPower) : Steadies W anyPower (execLaserModuleLoss module s) := by
  unfold execLaserModuleLoss
  split
  · exact next_steadies h
  · extract_lets +onlyGivenNames s1 s2
    split
    · exact next_steadies (foldl_steady (fun _ _ h1 => portLost_steady h1) h)
    · exact ite_steadies (next_steadies (orderlyStop_steady h)) (next_steadies h)

/-! ## The boundary of R91 -/

theorem execBoostBoundary_steadies {watts} (h : s.Steady W R) : Steadies W R (execBoostBoundary watts s) := by
  unfold execBoostBoundary
  split
  · exact next_steadies h
  · extract_lets +onlyGivenNames table live s1
    have hs1 : s1.Steady W R := foldl_steady (fun _ _ h1 => setCluster_steady h1) h
    extract_lets +onlyGivenNames ecap claims leavers
    split
    extract_lets +onlyGivenNames s2 s3
    split
    · exact next_steadies hs1
    · exact next_steadies (foldl_steady (fun _ _ h2 => setCluster_steady (ite_steady (setStep_steady h2) h2)) hs1)

theorem execPermitRefill_steadies {cluster} (h : s.Steady W R) : Steadies W R (execPermitRefill cluster s) :=
  ite_steadies (next_steadies h) (next_steadies (setCluster_steady h))

theorem execExclusionSubperiodEnd_steadies (h : s.Steady W R) : Steadies W R (execExclusionSubperiodEnd s) :=
  ite_steadies (next_steadies h) (next_steadies (foldl_steady (fun _ _ h1 => exclude_steady h1) h))

theorem setCk_steady {ck} (h : s.Steady W R) : (s.setCk ck).Steady W R := h

/-! ## The device-state image -/

theorem patchSaves_steady (h : s.Steady W R) : s.patchSaves.Steady W R := by
  unfold State.patchSaves
  refine foldl_steady (fun _ _ h1 => ?_) h
  exact foldl_steady (fun _ _ h2 => ite_steady (putArea_steady h2) h2) (putArea_steady h1)

/-! ## CKCTL -/

theorem startCheckpoint_steady (h : s.Steady W R) : s.startCheckpoint.Steady W R := by
  unfold State.startCheckpoint
  extract_lets +onlyGivenNames ck ck1 s1
  have hs1 : s1.Steady W R := setCk_steady h
  exact foldl_steady (fun _ _ h2 => collFails_steady h2) (foldl_steady (fun _ _ h2 => nameCause_steady h2) hs1)

theorem ckIgnored_steady (h : s.Steady W R) : s.ckIgnored.Steady W R := setCk_steady h

theorem ckctlWrite_steady {value} (h : s.Steady W R) : (s.ckctlWrite value).Steady W R := by
  unfold State.ckctlWrite
  split
  split
  · exact ckIgnored_steady h
  · extract_lets +onlyGivenNames s1 s2
    have hs2 : s2.Steady W R := ite_steady (setCk_steady h) h
    extract_lets +onlyGivenNames ck rest
    split
    · exact ite_steady (startCheckpoint_steady hs2) (ckIgnored_steady hs2)
    · split
      · exact ite_steady (ckFinish_steady hs2) (ckIgnored_steady hs2)
      · exact ite_steady (ite_steady (setCk_steady hs2) (ckIgnored_steady hs2)) hs2

theorem execCkctlGo_steadies {value} (h : s.Steady W R) : Steadies W R (execCkctlGo value s) :=
  ite_steadies (next_steadies h) (next_steadies (ckctlWrite_steady h))

theorem execCkctlAbort_steadies {value} (h : s.Steady W R) : Steadies W R (execCkctlAbort value s) :=
  ite_steadies (next_steadies h) (next_steadies (ckctlWrite_steady h))

theorem execCkctlRestore_steadies {value} (h : s.Steady W R) : Steadies W R (execCkctlRestore value s) :=
  ite_steadies (next_steadies h) (next_steadies (ckctlWrite_steady h))

/-! ## Quiesce and Stream -/

theorem startStream_steady {l} (h : s.Steady W R) : (s.startStream l).Steady W R :=
  foldl_steady (fun _ _ h1 => addOp_steady h1) (setCk_steady h)

theorem ckList_steady {at' fuel p} (h : s.Steady W R) (hp : s.ckList at' fuel = some p) : p.1.Steady W R := by
  induction fuel generalizing s at' p with
  | zero => simp [State.ckList] at hp
  | succ fuel ih =>
    unfold State.ckList at hp
    split at hp
    · simp at hp
    · split at hp
      next hread =>
      have hread := steady_of_fst (readNow_steady h) hread
      extract_lets n at hp
      split at hp
      · exact Option.some.inj hp ▸ hread
      · split at hp
        · simp at hp
        · split at hp
          · simp at hp
          · next hrest =>
            have hrest := ih hread hrest
            exact Option.some.inj hp ▸ hrest

theorem execCheckpointQuiesceDone_steadies (h : s.Steady W R) : Steadies W R (execCheckpointQuiesceDone s) := by
  unfold execCheckpointQuiesceDone
  extract_lets +onlyGivenNames ck
  refine ite_steadies (next_steadies h) (ite_steadies ?_ (ite_steadies (next_steadies h) ?_))
  · extract_lets +onlyGivenNames s1
    have hs1 : s1.Steady W R := foldl_steady (fun _ _ h1 => commitFromBase_steady (setTask_steady h1)) h
    exact next_steadies (setCk_steady hs1)
  · extract_lets +onlyGivenNames s1 s2
    have hs2 : s2.Steady W R := writeNow_steady (patchSaves_steady (spillAll_steady h))
    split
    · exact next_steadies (ckFinish_steady hs2)
    · next hlist => exact next_steadies (startStream_steady (ckList_steady hs2 hlist))

theorem execCheckpointStreamDone_steadies (h : s.Steady W R) : Steadies W R (execCheckpointStreamDone s) :=
  ite_steadies (next_steadies h) (next_steadies (ckFinish_steady h))

/-! ## Restore -/

theorem loadQueue_steady {e} (h : s.Steady W R) : (s.loadQueue e).Steady W R := by
  -- what is read stays a variable: the kernel is not to compute the bytes of a record
  have hread : ∃ read, State.unitRead = read ∧ ∀ {t : State} {ctx va n}, t.Steady W R → (read t ctx va n).1.Steady W R :=
    ⟨_, rfl, unitRead_steady⟩
  obtain ⟨read, hunit, hread⟩ := hread
  unfold State.loadQueue
  rw [hunit]
  extract_lets +onlyGivenNames n stat started infl ctx base log2 qri
  split
  next hrecs =>
  refine setQueue_steady (steady_of_fst (foldl_fst_steady (fun q i hq => ?_) h) hrecs)
  extract_lets +onlyGivenNames index
  clear_value index
  split
  next hrecord =>
  refine steady_of_fst ?_ hrecord
  split
  · next heq => exact steady_of_fst (hread hq) heq
  · next heq => exact steady_of_fst (hread hq) heq

theorem loadGrid_steady {e ctxOf} (h : s.Steady W R) : (s.loadGrid e ctxOf).Steady W R :=
  foldl_steady (fun _ _ h1 => h1) (setGrid_steady h)

theorem loadTask_steady {e} (h : s.Steady W R) : (s.loadTask e).Steady W R := setTask_steady h

theorem loadTeam_steady {grids e} (h : s.Steady W R) : (s.loadTeam grids e).Steady W R := by
  unfold State.loadTeam
  extract_lets +onlyGivenNames park ctx grid eff addr a
  split
  rename_i s1 es1
  have hs1 : s1.Steady W R := steady_of_snd (fresh_steady h) es1
  split
  rename_i s2 _ es2
  have hs2 : s2.Steady W R := steady_of_fst (getArea_steady hs1) es2
  extract_lets +onlyGivenNames tid live t s3
  have hs3 : s3.Steady W R := setTeam_steady hs2
  extract_lets +onlyGivenNames s4 s5 s6 s7 s8
  have hs8 : s8.Steady W R := ite_steady hs3 (setCtx_steady hs3)
  exact foldl_steady (fun _ _ h5 => setTeam_steady (loadGroup_steady (fresh_steady h5))) hs8

theorem rejoinGrids_steady (h : s.Steady W R) : s.rejoinGrids.Steady W R := by
  unfold State.rejoinGrids
  extract_lets +onlyGivenNames keys s1
  have hs1 : s1.Steady W R := by
    refine foldl_steady (fun t k ht => ?_) h
    extract_lets +onlyGivenNames g saved t1 t2
    have ht1 : t1.Steady W R := setGrid_steady ht
    have ht2 : t2.Steady W R := by
      unfold t2
      split
      · next hsched => exact startCopies_steady (readSchedule_steady ht1 hsched)
      · exact ht1
    split
    · exact ht2
    · exact ht2
  exact hs1

theorem uncarried_steady (h : s.Steady W R) : s.uncarried.Steady W R := foldl_steady (fun _ _ h1 => drainLine_steady h1) h

theorem loadImage_steady {img} (h : s.Steady W R) : (s.loadImage img).Steady W R := by
  unfold State.loadImage
  extract_lets +onlyGivenNames ctxs s1
  have hs1 : s1.Steady W R := foldl_steady (fun _ _ h1 => setCtx_steady h1) h
  extract_lets +onlyGivenNames dsusp s2 s3 accounts s4 queues owner grids s5
  have hs5 : s5.Steady W R := foldl_steady (fun _ _ h2 => loadTask_steady h2) hs1
  extract_lets +onlyGivenNames s6
  have hs6 : s6.Steady W R := foldl_steady (fun _ _ h3 => loadGrid_steady h3) hs5
  extract_lets +onlyGivenNames s7
  have hs7 : s7.Steady W R := foldl_steady (fun _ _ h4 => loadQueue_steady h4) hs6
  exact rejoinGrids_steady (foldl_steady (fun _ _ h5 => loadTeam_steady h5) hs7)

theorem readmitSaved_steady (h : s.Steady W R) : s.readmitSaved.Steady W R :=
  foldl_steady (fun _ _ h1 => ite_steady (wakeParked_steady h1) (readmitUnit_steady h1)) h

theorem execRestoreDone_steadies (h : s.Steady W R) : Steadies W R (execRestoreDone s) := by
  unfold execRestoreDone
  extract_lets +onlyGivenNames ck
  split
  · exact next_steadies h
  · extract_lets +onlyGivenNames base
    split
    rename_i s1 _ es1
    have hs1 : s1.Steady W R := steady_of_fst (readNow_steady h) es1
    extract_lets +onlyGivenNames len
    split
    · exact next_steadies (ckFinish_steady hs1)
    · split
      rename_i s2 _ es2
      have hs2 : s2.Steady W R := steady_of_fst (readNow_steady hs1) es2
      exact next_steadies (ckFinish_steady (readmitSaved_steady (loadImage_steady (uncarried_steady hs2))))

theorem after_steady {o} (h : s.Steady W R) (ho : Steadies W R o) : (s.after o).Steady W R := by
  cases o with
  | next t => exact ho t rfl
  | _ => exact h

/-! ## Writes -/

theorem writeCx_steady {c k v} (h : s.Steady W R) : (s.writeCx c k v).Steady W R := by
  unfold State.writeCx
  extract_lets +onlyGivenNames x va
  split
  · exact cxctlWrite_steady h
  · exact ite_steady (ctxError_steady h) (setCtx_steady h)
  · exact ite_steady (ctxError_steady h) (setCtx_steady h)
  · exact ite_steady (ctxError_steady h) (setCtx_steady h)
  · exact ite_steady (ctxError_steady h) (setCtx_steady h)
  · exact ite_steady (ctxError_steady h) (setCtx_steady h)
  · exact ite_steady (ctxError_steady h) (setCtx_steady h)
  · exact h
  · exact cxrriWrite_steady h
  · exact setCtx_steady h

theorem writeSp_steady {func c k v} (h : s.Steady W R) : (s.writeSp func c k v).Steady W R := by
  unfold State.writeSp
  extract_lets +onlyGivenNames x w
  split
  · exact ite_steady (ctxError_steady h) (setCtx_steady h)
  · exact ite_steady (ctxError_steady h) (setCtx_steady h)
  · exact h
  · exact setCtx_steady h
  · exact setCtx_steady h
  · exact after_steady h (execTlbInvalidate_steadies h)
  · exact dfresp_steady h
  · exact ite_steady (after_steady h (execDebugHalt_steadies h)) (after_steady h (execDebugRelease_steadies h))

theorem writeQueue_steady {q k v} (h : s.Steady W R) : (s.writeQueue q k v).Steady W R := by
  unfold State.writeQueue
  extract_lets +onlyGivenNames x
  split
  · exact qctlWrite_steady h
  · exact ite_steady (setQueue_steady h) h
  · exact ite_steady (setQueue_steady h) h
  · exact h

theorem writeSelect_steady {block k v} (h : s.Steady W R) : (s.writeSelect block k v).Steady W R := ite_steady h h

theorem writeCount_steady {block k v} (h : s.Steady W R) : (s.writeCount block k v).Steady W R := h

theorem setWindow_steady {e f} (h : s.Steady W R) : (s.setWindow e f).Steady W R := h

theorem writeReg_steady {func r v} (h : s.Steady W R) : (s.writeReg func r v).Steady W R := by
  -- the layout of a field stays a variable: the kernel is not to compute the field
  obtain ⟨layout, hlayout⟩ : ∃ layout, bits = layout := ⟨_, rfl⟩
  unfold State.writeReg
  rw [hlayout]
  extract_lets +onlyGivenNames n w
  cases r with
  | cx => exact writeCx_steady h
  | queue => exact writeQueue_steady h
  | sp => exact writeSp_steady h
  | dsusp => exact unsuspend_steady (suspend_steady h)
  | pinb | pinl => exact after_steady h (execPinTableWrite_steadies h)
  | badLine => exact ite_steady (after_steady h (execBadLineClear_steadies h)) h
  | bltstat => exact setSlice_steady h
  | pctl => exact pctlWrite_steady h
  | pwgt => exact after_steady h (execPwgtWrite_steadies h)
  | pdevid => exact after_steady h (execPdevidWrite_steadies h)
  | peerRoute => exact holdRoutes_steady h
  | ckctl => exact ckctlWrite_steady h
  | cklist | ckstate => exact setCk_steady h
  | iwbase | iwlim | iwsrc | iwperm => exact setWindow_steady h
  | bootst => exact bootstWrite_steady h
  | attgo => exact ite_steady (after_steady h (execAttestationGo_steadies h)) h
  | select => exact writeSelect_steady h
  | count => exact writeCount_steady h
  | _ => exact h

theorem write32_steady {func off v} (h : s.Steady W R) : (s.write32 func off v).Steady W R := by
  unfold State.write32
  split
  · exact h
  · exact ite_steady h (ite_steady h (ite_steady (writeReg_steady h) (writeReg_steady h)))

theorem write64_steady {func off v} (h : s.Steady W R) : (s.write64 func off v).Steady W R := by
  unfold State.write64
  split
  · exact ite_steady (ite_steady h (writeReg_steady h)) (write32_steady (write32_steady h))
  · exact write32_steady h

theorem writePage_steady {func off width v} (h : s.Steady W R) :
    (s.writePage func off width v).Steady W R :=
  ite_steady (qwin_steady h) h

theorem sizeBar4_steady {v} (h : s.Steady W R) : (s.sizeBar4 v).Steady W R := ite_steady h h

theorem execRegisterWrite_steadies {func place width value} (h : s.Steady W R) :
    Steadies W R (execRegisterWrite func place width value s) := by
  unfold execRegisterWrite
  split
  · exact next_steadies h
  · split
    · exact next_steadies (ite_steady (sizeBar4_steady h) h)
    · split
      · exact next_steadies (ite_steady (writePage_steady h) h)
      · split
        · exact next_steadies h
        · split
          · exact next_steadies (write32_steady h)
          · split
            · exact next_steadies (write64_steady h)
            · exact ite_steadies (next_steadies (write64_steady (write64_steady h))) (next_steadies h)

/-! ## Reads -/

theorem clearRead_steady {r} (h : s.Steady W anyPower) : (s.clearRead r).Steady W anyPower := by
  unfold State.clearRead
  split
  · exact setCtx_steady h
  · exact h
  · exact setPort_steady h
  · exact h

theorem read32_steady {func off} (h : s.Steady W anyPower) : (s.read32 func off).1.Steady W anyPower := by
  unfold State.read32
  split
  · exact h
  · exact ite_fst_steady h (clearRead_steady h)

theorem readWords_steady {func off n} (h : s.Steady W anyPower) : (s.readWords func off n).1.Steady W anyPower := by
  induction n generalizing s off with
  | zero => exact h
  | succ n ih =>
    rw [State.readWords]
    exact ih (read32_steady h)

theorem execReadToClear_steadies {func place width} (h : s.Steady W anyPower) :
    Steadies W anyPower (execReadToClear func place width s) := by
  unfold execReadToClear
  extract_lets +onlyGivenNames ok
  split
  · exact next_steadies h
  · exact next_steadies (ite_fst_steady h (ite_fst_steady h (ite_fst_steady (readWords_steady h) h)))

/-! ## The reset of the physical function -/

theorem resetPeer_steady (h : s.Steady W R) : s.resetPeer.Steady W R := by
  unfold State.resetPeer
  extract_lets +onlyGivenNames ck s1 s2 items s3
  have hs1 : s1.Steady W R := ite_steady (ckFinish_steady h) h
  have hs2 : s2.Steady W R := foldl_steady (fun _ _ h1 => ite_steady h1 (portLost_steady h1)) hs1
  have hs3 : s3.Steady W R := foldl_steady (fun _ _ h1 => peerDone_steady h1) hs2
  clear_value s3
  exact hs3

theorem execFlrPf_steadies (h : s.Steady W R) : Steadies W R (execFlrPf s) := by
  unfold execFlrPf
  extract_lets s1
  have hs1 : s1.Steady W R := resetPeer_steady (flr_steady h)
  clear_value s1
  exact next_steadies hs1

end Sys2Proof.Machine

/-! # Memory through a step: the dispatch, the issue slot and the step -/

namespace Sys2Proof.Machine

variable {s : State} {W : Prop} {R : Power → Prop}

theorem exec_steadies {i} (h : s.Steady W anyPower) : Steadies W anyPower (exec i s) := by
  unfold exec
  cases i with
  | nop | braLabel | br | join | brx | call | callLabel | yield | wrsr | boost | waitcnt | evclr | mfence => exact runGroup_steadies h
  | mode | rdsr | srseed | pset | plog | pmov | ballot | popm | shfl | bcast | lred | lscan | vote | matchLanes | perm | iadd
    | isub | imul | imulh | imad | imin | imax | iabs | ineg | icmp | icvt | bitAnd | bitOr | bitXor | bitNot | shl | shr | sar
    | rot | fshl | fshr | bfx | bfi | popc | clz | brev | sel | lea | adda | aff | fadd | fsub | fmul | fma | fmin | fmax | fneg
    | fabs | fcmp | fclass | frnd | fscale | frcp | frsq | fsqrt | fexp2 | flog2 | fsin | fcos | cvt | pack | unpack | flgrd
    | flgclr => exact runAlu_steadies h
  | bra | ret => exact jumpTo_steadies h
  | exit => exact execExit_steadies h
  | trap => exact execTrap_steadies h
  | rft => exact execRft_steadies h
  | ld => exact execLd_steadies h
  | st => exact execSt_steadies h
  | lds => exact execLds_steadies h
  | sts => exact execSts_steadies h
  | ldx => exact execLdx_steadies h
  | stx => exact execStx_steadies h
  | pref => exact execPref_steadies h
  | atom | red => exact atomMem_steadies h
  | atoms => exact execAtoms_steadies h
  | commit => exact execCommit_steadies h
  | bar => exact execBar_steadies h
  | darrive | garrive => exact arriveInstr_steadies h
  | dwait => exact execDwait_steadies h
  | gwait => exact execGwait_steadies h
  | evset => exact execEvset_steadies h
  | waitany => exact execWaitany_steadies h
  | msend => exact execMsend_steadies h
  | mrecv => exact execMrecv_steadies h
  | xshf => exact execXshf_steadies h
  | trig => exact execTrig_steadies h
  | launch => exact execLaunch_steadies h
  | cpy | cpym | gcsr | stage | ldb | dchk => exact asyncInstr_steadies h
  | gath | scat => exact gathInstr_steadies h
  | close => exact execClose_steadies h
  | waitb => exact execWaitb_steadies h
  | mma | mmas => exact mmaInstr_steadies h
  | accnext => exact execAccnext_steadies h
  | accrd => exact execAccrd_steadies h
  | accwr => exact execAccwr_steadies h
  | epi => exact execEpi_steadies h
  | coll => exact execColl_steadies h
  | dpfx | drle | dbit => exact decodeInstr_steadies h
  | unassignedOpcode => exact execUnassignedOpcode_steadies h
  | powerOnReset => exact next_steadies (blank_steady h)
  | moduleReset => exact execModuleReset_steadies h
  | chipletReset => exact execChipletReset_steadies h
  | railUp => exact execRailUp_steadies h
  | railFault => exact execRailFault_steadies h
  | standbyPowerRemoved => exact next_steadies (powerDown_steady h)
  | imageVerifyDone => exact execImageVerifyDone_steadies h
  | recoveryGo => exact execRecoveryGo_steadies h
  | baseStageDone => exact execBaseStageDone_steadies h
  | memoryStageDone => exact execMemoryStageDone_steadies h
  | clusterCalibrationDone => exact execClusterCalibrationDone_steadies h
  | attnonceWrite => exact execAttnonceWrite_steadies h
  | attestationGo => exact execAttestationGo_steadies h
  | attestationDone => exact execAttestationDone_steadies h
  | clusterRetentionEntry => exact execClusterRetentionEntry_steadies h
  | clusterWake => exact execClusterWake_steadies h
  | sliceRetentionEntry => exact execSliceRetentionEntry_steadies h
  | sliceWake => exact execSliceWake_steadies h
  | loopSample => exact execLoopSample_steadies h
  | inletOutOfRange => exact execInletOutOfRange_steadies h
  | loopRestored => exact execLoopRestored_steadies h
  | sensorSample => exact execSensorSample_steadies h
  | laserModuleLoss => exact execLaserModuleLoss_steadies h
  | boostBoundary => exact execBoostBoundary_steadies h
  | permitRefill => exact execPermitRefill_steadies h
  | exclusionSubperiodEnd => exact execExclusionSubperiodEnd_steadies h
  | registerWrite => exact execRegisterWrite_steadies h
  | readToClear => exact execReadToClear_steadies h
  | portEnable => exact execPortEnable_steadies h
  | portDisable => exact execPortDisable_steadies h
  | portRetrain => exact execPortRetrain_steadies h
  | portTrainingDone => exact execPortTrainingDone_steadies h
  | pwgtWrite => exact execPwgtWrite_steadies h
  | pdevidWrite => exact execPdevidWrite_steadies h
  | flitSlot => exact execFlitSlot_steadies h
  | flitReceive => exact execFlitReceive_steadies h
  | goBackNReplay => exact execGoBackNReplay_steadies h
  | portReplayLimit => exact execPortReplayLimit_steadies h
  | portReceiveTimeout => exact execPortReceiveTimeout_steadies h
  | peerRequestSend => exact execPeerRequestSend_steadies h
  | routeHoldRelease => exact execRouteHoldRelease_steadies h
  | transitPacket => exact execTransitPacket_steadies h
  | peerLoad => exact execPeerLoad_steadies h
  | peerStore => exact execPeerStore_steadies h
  | peerAtomic => exact execPeerAtomic_steadies h
  | peerAtomicNoReturn => exact execPeerAtomicNoReturn_steadies h
  | peerBulkWrite => exact execPeerBulkWrite_steadies h
  | peerCheckpointPage => exact execPeerCheckpointPage_steadies h
  | peerCollectivePacket => exact execPeerCollectivePacket_steadies h
  | peerReservedOp => exact execPeerReservedOp_steadies h
  | peerResponse => exact execPeerResponse_steadies h
  | ckctlGo => exact execCkctlGo_steadies h
  | ckctlAbort => exact execCkctlAbort_steadies h
  | ckctlRestore => exact execCkctlRestore_steadies h
  | checkpointQuiesceDone => exact execCheckpointQuiesceDone_steadies h
  | checkpointStreamDone => exact execCheckpointStreamDone_steadies h
  | restoreDone => exact execRestoreDone_steadies h
  | bar4Read => exact execBar4Read_steadies h
  | bar4Write => exact execBar4Write_steadies h
  | contextEnable => exact execContextEnable_steadies h
  | contextDisable => exact execContextDisable_steadies h
  | recordRingReadIndexWrite => exact execRecordRingReadIndexWrite_steadies h
  | heldRecordWrite => exact execHeldRecordWrite_steadies h
  | atsInvalidation => exact execAtsInvalidation_steadies h
  | atsInvalidationCompletion => exact execAtsInvalidationCompletion_steadies h
  | prgResponse => exact execPrgResponse_steadies h
  | priTimeout => exact execPriTimeout_steadies h
  | qwinWrite => exact execQwinWrite_steadies h
  | queueCreate => exact execQueueCreate_steadies h
  | queueDestroy => exact execQueueDestroy_steadies h
  | queueStop => exact execQueueStop_steadies h
  | queueAbort => exact execQueueAbort_steadies h
  | queueResume => exact execQueueResume_steadies h
  | recordFetch => exact execRecordFetch_steadies h
  | recordFetchComplete => exact execRecordFetchComplete_steadies h
  | recordStart => exact execRecordStart_steadies h
  | waitAddressPoll => exact execWaitAddressPoll_steadies h
  | recordCompletionActions => exact execRecordCompletionActions_steadies h
  | flrVf => exact execFlrVf_steadies h
  | flrPf => exact execFlrPf_steadies h
  | flrQueueDestroy => exact execFlrQueueDestroy_steadies h
  | gridStart => exact execGridStart_steadies h
  | gridReady => exact execGridReady_steadies h
  | budgetPeriodBoundary => exact execBudgetPeriodBoundary_steadies h
  | accountCharge => exact execAccountCharge_steadies h
  | placementDecision => exact execPlacementDecision_steadies h
  | placementReservation => exact execPlacementReservation_steadies h
  | groupReady => exact execGroupReady_steadies h
  | registerRelease => exact next_steadies (releaseDrained_steady h)
  | teamRetire => exact execTeamRetire_steadies h
  | parkEligible => exact execParkEligible_steadies h
  | plazaParkArm => exact execPlazaParkArm_steadies h
  | parkGo => exact execParkGo_steadies h
  | parkSpillDone => exact execParkSpillDone_steadies h
  | dsuspSet => exact execDsuspSet_steadies h
  | dsuspClear => exact execDsuspClear_steadies h
  | preemption => exact execPreemption_steadies h
  | preemptionSpillDone => exact execPreemptionSpillDone_steadies h
  | chipletFenceNotice => exact execChipletFenceNotice_steadies h
  | elevatorPacket => exact execElevatorPacket_steadies h
  | elevatorRetireComplete => exact execElevatorRetireComplete_steadies h
  | cutOffChipletReset => exact execCutOffChipletReset_steadies h
  | avenueTokenGrant => exact execAvenueTokenGrant_steadies h
  | pinTableWrite => exact execPinTableWrite_steadies h
  | pinMoveDone => exact execPinMoveDone_steadies h
  | readRequest => exact execReadRequest_steadies h
  | writeRequest => exact execWriteRequest_steadies h
  | writeCompletion => exact execWriteCompletion_steadies h
  | writeThrough => exact execWriteThrough_steadies h
  | writeThroughAck => exact execWriteThroughAck_steadies h
  | tokenRecall => exact execTokenRecall_steadies h
  | tokack => exact execTokack_steadies h
  | tokret => exact execTokret_steadies h
  | gone => exact execGone_steadies h
  | inv => exact execInv_steadies h
  | invAck => exact execInvAck_steadies h
  | lineFree => exact execLineFree_steadies h
  | dramReadReturn => exact execDramReadReturn_steadies h
  | dramWriteAck => exact execDramWriteAck_steadies h
  | patrolScrub => exact execPatrolScrub_steadies h
  | badLineClear => exact execBadLineClear_steadies h
  | copyChunk => exact execCopyChunk_steadies h
  | engineOperationComplete => exact execEngineOperationComplete_steadies h
  | junctionArrival => exact execJunctionArrival_steadies h
  | partialParkTimeout => exact execPartialParkTimeout_steadies h
  | roundaboutTimeout => exact execRoundaboutTimeout_steadies h
  | collectiveNameExpiry => exact execCollectiveNameExpiry_steadies h
  | cmtReq => exact execCmtReq_steadies h
  | cmtMark => exact execCmtMark_steadies h
  | cmtAck => exact execCmtAck_steadies h
  | mergeDone => exact execMergeDone_steadies h
  | versionLineWrite => exact execVersionLineWrite_steadies h
  | versionOverflowTrap => exact execVersionOverflowTrap_steadies h
  | discardRequest => exact execDiscardRequest_steadies h
  | discardComplete => exact execDiscardComplete_steadies h
  | icacheFill => exact execIcacheFill_steadies h
  | switchMarkerRelease => exact execSwitchMarkerRelease_steadies h
  | loadDataReturn => exact execLoadDataReturn_steadies h
  | chipletArrayUncorrectable => exact execChipletArrayUncorrectable_steadies h
  | yieldWaitEnd => exact execYieldWaitEnd_steadies h
  | matrixAccept => exact execMatrixAccept_steadies h
  | tileComplete => exact execTileComplete_steadies h
  | epiStart => exact execEpiStart_steadies h
  | pageWalk => exact execPageWalk_steadies h
  | dfrespServiced => exact execDfrespServiced_steadies h
  | dfrespRefused => exact execDfrespRefused_steadies h
  | dftTimeout => exact execDftTimeout_steadies h
  | tlbInvalidate => exact execTlbInvalidate_steadies h
  | tlbInvalidateDone => exact execTlbInvalidateDone_steadies h
  | debugHalt => exact execDebugHalt_steadies h
  | debugSnapshotDone => exact execDebugSnapshotDone_steadies h
  | debugRelease => exact execDebugRelease_steadies h
  | barrierRelease => exact execBarrierRelease_steadies h
  | districtArrival => exact execDistrictArrival_steadies h
  | gridArrival => exact execGridArrival_steadies h
  | eventFiring => exact execEventFiring_steadies h
  | timerDeadline => exact execTimerDeadline_steadies h
  | flagSet => exact execFlagSet_steadies h
  | mailboxMessageArrival => exact execMailboxMessageArrival_steadies h
  | xshfMatch => exact execXshfMatch_steadies h
  | xshfTimeout => exact execXshfTimeout_steadies h
  | trigTaken => exact execTrigTaken_steadies h
  | trigEffect => exact execTrigEffect_steadies h
  | launchAppend => exact execLaunchAppend_steadies h
  | atsTranslationCompletion => exact execAtsTranslationCompletion_steadies h
  | priStoppedClear => exact next_steadies (serveTags_steady h)
  | eventCounterWrap => exact next_steadies h

theorem remake_steady {r a b} (h : s.Steady W R) : (s.remake r a b).Steady W R := by
  unfold State.remake
  extract_lets +onlyGivenNames core slot
  split
  · extract_lets +onlyGivenNames base new g g1 sa sb s1
    have hs1 : s1.Steady W R := setGroup_steady h
    extract_lets +onlyGivenNames s2 s3 s4
    have hs4 : s4.Steady W R := ite_steady hs1 (setTeam_steady hs1)
    split
    · exact ite_steady hs4 hs4
    · exact hs4
  · exact h

theorem overtake_steady {core slot uid n w v} (h : s.Steady W anyPower) : (s.overtake core slot uid n w v).Steady W anyPower := by
  unfold State.overtake
  refine foldl_steady (fun _ _ h1 => ?_) h
  split
  · exact h1
  · exact ite_steady h1 (remake_steady h1)

theorem followReads_steady {s0 core slot i} (h : s.Steady W anyPower) : (s.followReads s0 core slot i).Steady W anyPower := by
  unfold State.followReads
  split
  · split
    · exact h
    · extract_lets +onlyGivenNames news s1
      have hs1 : s1.Steady W anyPower := by
        unfold s1
        refine foldl_steady (fun _ _ h1 => ?_) h
        split
        · exact overtake_steady h1
        · exact h1
      exact ite_steady hs1 (ite_steady hs1 hs1)
  · exact h

theorem issuingWith_steady {core i c mate from' second} (h : s.Steady W R) : (s.issuingWith core i c mate from' second).Steady W R :=
  issuing_steady h

theorem issuePair_steadies {core quad i w p} {alone : State} (halone : alone.Steady W anyPower) (h : s.Steady W anyPower) :
    Steadies W anyPower (s.issuePair core quad i w p alone) := by
  unfold State.issuePair
  extract_lets +onlyGivenNames low s0
  have hs0 : s0.Steady W anyPower := issuingWith_steady h
  split
  · next s1 hfirst =>
    have hfirst := exec_steadies hs0 _ hfirst
    split
    · exact next_steadies (slotUsed_steady (trapLower_steady hfirst))
    · extract_lets +onlyGivenNames s2 s3
      have hs2 : s2.Steady W anyPower := followReads_steady hfirst
      have hs3 : s3.Steady W anyPower := issuingWith_steady hs2
      split
      · next hsecond =>
        have hsecond := exec_steadies hs3 _ hsecond
        refine ite_steadies (next_steadies (slotUsed_steady halone)) ?_
        split
        · split
          · next halone' =>
            have halone' := exec_steadies (issuing_steady h) _ halone'
            exact next_steadies (slotUsed_steady (trapLower_steady halone'))
          · exact exec_steadies (issuing_steady h)
        · exact next_steadies (slotUsed_steady (followReads_steady hsecond))
      · exact exec_steadies hs3
  · exact exec_steadies hs0

theorem issueFirst_steadies {core quad ws} (h : s.Steady W anyPower) : Steadies W anyPower (s.issueFirst core quad ws) := by
  induction ws generalizing s with
  | nil => exact next_steadies h
  | cons w rest ih =>
    unfold State.issueFirst
    split
    · exact ih h
    · exact next_steadies (slotUsed_steady (issueIllegal_steady (issuing_steady h)))
    · extract_lets +onlyGivenNames s0
      have hs0 : s0.Steady W anyPower := issuing_steady h
      split
      · next hexec =>
        have hexec := exec_steadies hs0 _ hexec
        split
        · exact ih hexec
        · extract_lets +onlyGivenNames alone
          have halone : alone.Steady W anyPower := followReads_steady hexec
          split
          · exact next_steadies (slotUsed_steady halone)
          · split
            · exact next_steadies (slotUsed_steady halone)
            · exact issuePair_steadies halone h
      · exact exec_steadies hs0

theorem issueSlot_steadies {core quad} (h : s.Steady W anyPower) : Steadies W anyPower (s.issueSlot core quad) :=
  ite_steadies (next_steadies h) (issueFirst_steadies (settleJoins_steady h))

theorem step_steadies (h : s.Steady W anyPower) : Steadies W anyPower (step s) := by
  unfold step
  split
  · exact next_steadies (elapse_steady h)
  · extract_lets +onlyGivenNames s1
    have hs1 : s1.Steady W anyPower := elapse_steady h
    extract_lets +onlyGivenNames s11
    split
    · exact exec_steadies hs1
    · exact issueSlot_steadies hs1

/-! ## The statement -/

/-- Settles O37: a step leaves a steady state, where nothing is asked of the power state. -/
theorem memoryStaysCanonical : Obligations.MemoryStaysCanonical := by
  unfold Obligations.MemoryStaysCanonical
  intro s t hwf hstep
  have hsteady : s.Steady True anyPower := ⟨fun _ => hwf, trivial⟩
  obtain ⟨hmem, -⟩ := step_steadies hsteady t hstep
  exact hmem trivial

end Sys2Proof.Machine

/-! # Power and bring-up -/

namespace Sys2Proof.Machine

/-! ## The faults of rails -/

/-- Whether a rail is reported in a sample while it is commanded (R22). -/
def State.railHit (s : State) (rails : List Rail) (r : Rail) : Bool := rails.contains r && s.commanded r

/-- The state after the responses to the chiplets' rails of a sample (R22). -/
def State.chipFaults (s : State) (rails : List Rail) : State :=
  if s.railHit rails .vbase then s else ((List.range 8).filter fun n => s.railHit rails (.vch n)).foldl (fun s n => s.chipFault n) s

variable {s : State} {rails : List Rail}

theorem execRailFault_eq : execRailFault rails s =
    if s.railHit rails .vaux then .next ((s.chipFaults rails).powerDown false false)
    else if s.railHit rails .vbase || s.railHit rails .vmem then .next ((s.chipFaults rails).powerDown true false)
    else if s.railHit rails .vlas then
      .next ({ s.chipFaults rails with power := { (s.chipFaults rails).power with vlas := false } } : State).orderlyStop
    else .next (s.chipFaults rails) := rfl

theorem railHit_of_mem {r : Rail} (h : r ∈ rails) : s.railHit rails r = s.commanded r := by
  simp [State.railHit, h]

theorem railHit_of_not_mem {r : Rail} (h : r ∉ rails) : s.railHit rails r = false := by
  simp [State.railHit, h]

theorem chipFaults_of_vbase (h : s.railHit rails .vbase = true) : s.chipFaults rails = s := if_pos h

/-- Without a fault of VBASE, the one chiplet whose rail is reported is fenced. -/
theorem chipFaults_single {n : Nat} (hvbase : Rail.vbase ∉ rails) (hcmd : s.commanded (.vch n) = true)
    (hrails : ∀ k, Rail.vch k ∈ rails ↔ k = n) : s.chipFaults rails = s.chipFault n := by
  have hn : n < 8 := by
    simp only [State.commanded, Bool.and_eq_true, decide_eq_true_eq] at hcmd
    exact hcmd.1
  have hhit : ∀ k, s.railHit rails (.vch k) = (k == n) := by
    intro k
    by_cases hk : k = n
    · subst hk
      rw [railHit_of_mem ((hrails k).mpr rfl), hcmd, beq_self_eq_true]
    · rw [railHit_of_not_mem fun hmem => hk ((hrails k).mp hmem), beq_false_of_ne hk]
  have hfilter : ∀ m < 8, (List.range 8).filter (fun k => k == m) = [m] := by decide
  rw [State.chipFaults, railHit_of_not_mem hvbase, if_neg Bool.false_ne_true]
  simp only [hhit, hfilter n hn, List.foldl_cons, List.foldl_nil]

/-- Without a fault of VBASE and of any chiplet's rail, no chiplet is fenced. -/
theorem chipFaults_none (hvbase : Rail.vbase ∉ rails) (hrails : ∀ k, Rail.vch k ∉ rails) : s.chipFaults rails = s := by
  have hhit : ∀ k, s.railHit rails (.vch k) = false := fun k => railHit_of_not_mem (hrails k)
  rw [State.chipFaults, railHit_of_not_mem hvbase, if_neg Bool.false_ne_true]
  simp [hhit]

theorem execRailFault_vaux (h : s.power.vaux = true) : execRailFault [.vaux] s = .next (s.powerDown false false) := by
  have hhit : s.railHit [.vaux] .vaux = true := (railHit_of_mem (by simp)).trans h
  rw [execRailFault_eq, if_pos hhit, chipFaults_none (by simp) (by simp)]

theorem execRailFault_vbase (hvaux : Rail.vaux ∉ rails) (hvbase : Rail.vbase ∈ rails) (h : s.commanded .vbase = true) :
    execRailFault rails s = .next (s.powerDown true false) := by
  have hhit : s.railHit rails .vbase = true := (railHit_of_mem hvbase).trans h
  rw [execRailFault_eq, railHit_of_not_mem hvaux, hhit, chipFaults_of_vbase hhit]
  rfl

theorem execRailFault_vmem (h : s.commanded .vmem = true) : execRailFault [.vmem] s = .next (s.powerDown true false) := by
  have hhit : s.railHit [.vmem] .vmem = true := (railHit_of_mem (by simp)).trans h
  rw [execRailFault_eq, railHit_of_not_mem (r := .vaux) (by simp), hhit, Bool.or_true, chipFaults_none (by simp) (by simp)]
  rfl

theorem execRailFault_vlas (h : s.commanded .vlas = true) :
    execRailFault [.vlas] s = .next ({ s with power := { s.power with vlas := false } } : State).orderlyStop := by
  have hhit : s.railHit [.vlas] .vlas = true := (railHit_of_mem (by simp)).trans h
  rw [execRailFault_eq, railHit_of_not_mem (r := .vaux) (by simp), railHit_of_not_mem (r := .vbase) (by simp),
    railHit_of_not_mem (r := .vmem) (by simp), hhit, chipFaults_none (by simp) (by simp)]
  rfl

theorem execRailFault_vch {n : Nat} (h : s.commanded (.vch n) = true) : execRailFault [.vch n] s = .next (s.chipFault n) := by
  rw [execRailFault_eq, railHit_of_not_mem (r := .vaux) (by simp), railHit_of_not_mem (r := .vbase) (by simp),
    railHit_of_not_mem (r := .vmem) (by simp), railHit_of_not_mem (r := .vlas) (by simp), chipFaults_single (by simp) h (by simp)]
  rfl

theorem execRailFault_vlas_vch {n : Nat} (h : s.commanded (.vch n) = true) (hvlas : s.commanded .vlas = true) :
    execRailFault [.vlas, .vch n] s =
      .next ({ s.chipFault n with power := { (s.chipFault n).power with vlas := false } } : State).orderlyStop := by
  have hhit : s.railHit [.vlas, .vch n] .vlas = true := (railHit_of_mem (by simp)).trans hvlas
  rw [execRailFault_eq, railHit_of_not_mem (r := .vaux) (by simp), railHit_of_not_mem (r := .vbase) (by simp),
    railHit_of_not_mem (r := .vmem) (by simp), hhit, chipFaults_single (by simp) h (by simp)]
  rfl

/-! ## The orderly stop -/

/-- What keeps every property of the power state keeps the power state. -/
theorem power_of_steady {t : State} (h : ∀ {R : Power → Prop}, s.Steady False R → t.Steady False R) : t.power = s.power :=
  (h (R := fun p => p = s.power) ⟨False.elim, rfl⟩).2

/-- The steps of R87 before the sixth leave the power state as it is. -/
theorem t3Act_power {k : Nat} (hpos : 0 < k) (hk : k ≤ 5) : (s.t3Act k).power = s.power := by
  match k, hpos, hk with
  | 1, _, _ => rfl
  | 2, _, _ => exact power_of_steady fun h => stopAll_steady h
  | 3, _, _ => exact power_of_steady fun h => dropVersions_steady h
  | 4, _, _ => exact power_of_steady fun h => foldl_steady (fun _ _ ht => ite_steady ht (portLost_steady ht)) h
  | 5, _, _ => exact power_of_steady fun h => writeBack_steady h

theorem t3Advance_eq (h3 : s.power.t3 = true) (hdown : s.power.down = false) :
    s.t3Advance = ({ s with power := { s.power with t3step := s.power.t3step + 1 } } : State).t3Act (s.power.t3step + 1) := by
  rw [State.t3Advance, h3, hdown]
  rfl

theorem t3Advance_t3step (h3 : s.power.t3 = true) (hdown : s.power.down = false) (hstep : s.power.t3step < 5) :
    s.t3Advance.power.t3step = s.power.t3step + 1 := by
  rw [t3Advance_eq h3 hdown, t3Act_power (Nat.succ_pos _) (by omega)]

theorem t3Advance_last (h3 : s.power.t3 = true) (hdown : s.power.down = false) (hstep : s.power.t3step = 6) :
    s.t3Advance = ({ s with power := { s.power with t3step := 7 } } : State).powerDown true s.power.vmem := by
  rw [t3Advance_eq h3 hdown, hstep]
  rfl

/-! ## Rails and chiplets come up -/

section

variable {check : ChipletCheck}

theorem execRailUp_stopped {r : Rail} (h : s.power.down = true ∨ s.power.t3 = true) : execRailUp ⟨r, check⟩ s = .next s :=
  if_pos (by simpa using h)

theorem execRailUp_vbase (hdown : s.power.down = false) (h3 : s.power.t3 = false) (hstage : s.stage = .base) (hvaux : s.power.vaux = true) :
    let t : State := { s with power := { s.power with vbase := true } }
    execRailUp ⟨.vbase, check⟩ s =
      .next (if s.power.lasersLost.getLsbD 4 && s.power.lasersLost.getLsbD 5 then t.orderlyStop else t) := by
  simp only [execRailUp, hdown, h3, hstage, hvaux, Bool.or_self, bne_self_eq_false, Bool.not_true, if_neg Bool.false_ne_true]
  split <;> rfl

theorem execRailUp_vmem (hdown : s.power.down = false) (h3 : s.power.t3 = false) (hstage : s.stage = .base) (hvaux : s.power.vaux = true)
    (hvbase : s.power.vbase = true) : execRailUp ⟨.vmem, check⟩ s = .next { s with power := { s.power with vmem := true } } := by
  simp [execRailUp, hdown, h3, hstage, hvaux, hvbase]

theorem execRailUp_vlas (hdown : s.power.down = false) (h3 : s.power.t3 = false) (hstage : s.stage = .memory) (hvaux : s.power.vaux = true)
    (hvbase : s.power.vbase = true) (hvmem : s.power.vmem = true) : execRailUp ⟨.vlas, check⟩ s =
      .next (((List.range 16).filter fun n => s.power.lasersLost.getLsbD (n / 4)).foldl (fun u n => u.portLost n .failed)
        { s with power := { s.power with vlas := true } }) := by
  simp [execRailUp, hdown, h3, hstage, hvaux, hvbase, hvmem]

theorem execRailUp_vch {n : Nat} (hn : n < 8) (hstage : s.stage = .compute) (hbase : s.power.baseUp = true)
    (hvch : s.power.vch.getLsbD n = false) (hfenced : s.power.fenced.getLsbD n = false)
    (hbefore : ∀ k, k < n → s.chipletDone k = true) :
    execRailUp ⟨.vch n, check⟩ s = .next (s.chipletStage n check) := by
  have hup := hbase
  simp only [Power.baseUp, Bool.and_eq_true, Bool.not_eq_true'] at hup
  obtain ⟨⟨-, hdown⟩, h3⟩ := hup
  have hall : (List.range n).all s.chipletDone = true := by simpa using hbefore
  have hplace : (n < 8 && s.stage == .compute && s.power.baseUp && !s.power.vch.getLsbD n && !s.power.fenced.getLsbD n &&
      (List.range n).all s.chipletDone) = true := by
    rw [hvch, hfenced, hall, hbase, hstage, decide_eq_true hn]
    rfl
  rw [execRailUp, hdown, h3]
  exact if_pos hplace

theorem execChipletReset_idle {n : Nat} (hn : n < 8) (hstage : s.stage = .compute ∨ s.stage = .full) (hbase : s.power.baseUp = true)
    (hjoined : s.power.vch.getLsbD n = true ∨ s.power.fenced.getLsbD n = true) (hidle : s.chipletBusy n = false) :
    execChipletReset ⟨n, check⟩ s = .next (s.rejoin n check) := by
  have hjoined : (s.power.vch.getLsbD n || s.power.fenced.getLsbD n) = true := by simpa using hjoined
  have hstage : (s.stage == .compute || s.stage == .full) = true := by simpa using hstage
  refine if_pos ?_
  rw [decide_eq_true hn, hstage, hbase, hjoined, hidle]
  rfl

theorem chipletStage_passed {n : Nat} (hscan : check.scanOk = true) (hports : check.badPorts = 0) :
    s.chipletStage n check = (s.chipletStart n).checkFull := by
  simp [State.chipletStage, hscan, hports]

theorem chipletStage_failed {n : Nat} (hscan : check.scanOk = false) :
    s.chipletStage n check = ((s.chipletStart n).failStage n).fenceChiplet n := by
  simp [State.chipletStage, hscan]

end

theorem failStage_stageFailed {n : Nat} (hstage : s.stage = .compute) (hdone : s.chipletDone n = false) :
    (s.failStage n).power.stageFailed = true := by
  simp [State.failStage, hstage, hdone]

theorem checkFull_of_stageFailed (h : s.power.stageFailed = true) : s.checkFull = s :=
  if_neg (by simp [h])

/-! ## Secure boot -/

theorem imageFail_flash {i : Image} {c : ImageCheck} (h : c.flashOk = false) : imageFail true i c = 4 := by
  simp [imageFail, h]

theorem imageFail_checks {flash : Bool} {i : Image} {c : ImageCheck} (h : flash = false ∨ c.flashOk = true) :
    imageFail flash i c =
      if Config.signatureVerifies Config.rootKeyDigest i.version i.length i.digest i.signature = false then 1
      else if i.body.length ≠ i.length.toNat ∨ Config.digest384 i.body ≠ i.digest then 2
      else if i.version.toNat < Config.minVersion.toNat then 3 else 0 := by
  have hflash : ¬ (flash && !c.flashOk) = true := by
    rcases h with h | h <;> simp [h]
  rw [imageFail, if_neg hflash]
  simp only [Bool.not_eq_true', Bool.or_eq_true, bne_iff_ne]

/-- IMAGE_VERIFY_DONE while Muyras verifies an image in the Boot stage. -/
theorem execImageVerifyDone_verifying {c : ImageCheck} (hstage : s.stage = .boot) (hlink : s.linkUp = true)
    (hstate : s.boot.state = .verifying ∨ s.boot.state = .recoveryVerifying) :
    execImageVerifyDone c s =
      if imageFail (s.boot.state == .verifying) s.boot.image c != 0 then
        .next { s with boot := { s.boot with
          state := .recovery, fail := BitVec.ofNat 8 (imageFail (s.boot.state == .verifying) s.boot.image c) } }
      else .next { s with
        stage := .base
        boot := { s.boot with
          state := .running, fail := 0, version := s.boot.image.version, mr0 := imageDigest s.boot.image
          flash := if s.boot.state == .recoveryVerifying && s.boot.flashing then some s.boot.image else s.boot.flash
          mr1 := Config.digest384 (Config.fusedConfig ++ leBytes 48 (imageDigest s.boot.image).toNat) } } := by
  have hverifying : (s.boot.state == .verifying || s.boot.state == .recoveryVerifying) = true := by simpa using hstate
  refine if_neg ?_
  rw [hstage, hlink, hverifying]
  exact Bool.false_ne_true

theorem execImageVerifyDone_outcome {c : ImageCheck} (hstage : s.stage = .boot) (hlink : s.linkUp = true)
    (hstate : s.boot.state = .verifying ∨ s.boot.state = .recoveryVerifying) :
    let i := s.boot.image
    let fail := imageFail (s.boot.state == .verifying) i c
    ∃ t, execImageVerifyDone c s = .next t ∧ t.mem = s.mem ∧
      if fail = 0 then t.stage = .base ∧ t.boot.state = .running ∧
        t.boot.fail = 0 ∧ t.boot.mr0 = imageDigest i ∧ t.boot.version = i.version ∧
        t.boot.flash = (if s.boot.state = .recoveryVerifying ∧ s.boot.flashing = true then some i else s.boot.flash)
      else t = { s with boot := { s.boot with state := .recovery, fail := BitVec.ofNat 8 fail } } := by
  intro i fail
  have hexec := execImageVerifyDone_verifying (c := c) hstage hlink hstate
  by_cases hfail : fail = 0
  · refine ⟨_, hexec.trans (if_neg (by simpa using hfail)), rfl, ?_⟩
    rw [if_pos hfail]
    refine ⟨rfl, rfl, rfl, rfl, rfl, ?_⟩
    simp only [Bool.and_eq_true, beq_iff_eq]
    rfl
  · refine ⟨_, hexec.trans (if_pos (by simpa using hfail)), rfl, ?_⟩
    rw [if_neg hfail]

theorem execRecoveryGo_recovery {v : W32} (hgo : v.getLsbD 0 = true) (hlink : s.linkUp = true) (hstate : s.boot.state = .recovery) :
    execRecoveryGo v s = .next { s with boot := { s.boot with
      persist := v.getLsbD 1, state := .recoveryVerifying, flashing := v.getLsbD 1 } } := by
  rw [execRecoveryGo, hgo, hlink, State.bootstWrite]
  simp [hgo, hstate]

/-! ## Stages -/

theorem execBaseStageDone_up (hstage : s.stage = .base) (hvbase : s.power.vbase = true) (hvmem : s.power.vmem = true)
    (h3 : s.power.t3 = false) : execBaseStageDone s = .next { s with stage := .memory, mem := [], poison := [] } := by
  simp [execBaseStageDone, hstage, hvbase, hvmem, h3]

theorem execMemoryStageDone_up (hstage : s.stage = .memory) (hvlas : s.power.vlas = true) (h3 : s.power.t3 = false) :
    execMemoryStageDone s = .next { s with stage := .compute } := by
  simp [execMemoryStageDone, hstage, hvlas, h3]

/-! ## Calibration -/

theorem checkFull_mem : s.checkFull.mem = s.mem := by
  unfold State.checkFull
  split <;> rfl

theorem checkFull_cluster {c : Nat} : s.checkFull.cluster c = s.cluster c := by
  unfold State.checkFull
  split <;> rfl

theorem foldCycles_mem {c : Nat} : (s.foldCycles c).mem = s.mem := by
  refine foldl_keeps State.mem ?_ _ _
  exact fun _ _ => rfl

theorem foldCycles_clusters {c : Nat} : (s.foldCycles c).clusters = s.clusters := by
  refine foldl_keeps State.clusters ?_ _ _
  exact fun _ _ => rfl

theorem setStep_mem {c step : Nat} : (s.setStep c step).mem = s.mem := by
  unfold State.setStep
  split
  · rfl
  · dsimp only
    rw [setCluster_mem]
    dsimp only
    rw [foldCycles_mem]
    rfl

theorem setStep_cluster_self {c step : Nat} : ((s.setStep c step).cluster c).step = step := by
  unfold State.setStep
  split
  · next h => simpa using h
  · dsimp only
    rw [setCluster_cluster_self]

theorem setStep_cluster_of_ne {c step k : Nat} (hk : k ≠ c) : (s.setStep c step).cluster k = s.cluster k := by
  unfold State.setStep
  split
  · rfl
  · dsimp only
    rw [setCluster_cluster_of_ne _ _ hk]
    rw [State.cluster, State.cluster]
    dsimp only
    rw [foldCycles_clusters]
    rfl

theorem execClusterCalibrationDone_ok {c : Nat} (honline : s.clusterOnline c = true) (hcal : (s.cluster c).cal = false)
    (hbetween : s.betweenInstrs c = true) :
    ∃ t, execClusterCalibrationDone ⟨c, true⟩ s = .next t ∧ (t.cluster c).cal = true ∧ (t.cluster c).kept = true ∧
      (t.cluster c).step = s.restStep true ∧ t.mem = s.mem ∧ ∀ k, k ≠ c → t.cluster k = s.cluster k := by
  have hexec : execClusterCalibrationDone ⟨c, true⟩ s = .next (((s.setStep c (s.restStep true)).setCluster c
      { (s.setStep c (s.restStep true)).cluster c with cal := true, kept := true }).checkFull) := by
    simp [execClusterCalibrationDone, honline, hcal, hbetween]
  refine ⟨_, hexec, ?_, ?_, ?_, ?_, fun k hk => ?_⟩
  · rw [checkFull_cluster, setCluster_cluster_self]
  · rw [checkFull_cluster, setCluster_cluster_self]
  · rw [checkFull_cluster, setCluster_cluster_self]
    exact setStep_cluster_self
  · exact checkFull_mem.trans setStep_mem
  · rw [checkFull_cluster, setCluster_cluster_of_ne _ _ hk, setStep_cluster_of_ne hk]

theorem execClusterCalibrationDone_failed {c : Nat} (honline : s.clusterOnline c = true) (hcal : (s.cluster c).cal = false) :
    execClusterCalibrationDone ⟨c, false⟩ s = .next ((s.failStage (chipOf c)).fenceChiplet (chipOf c)) := by
  simp [execClusterCalibrationDone, honline, hcal]

/-! ## Attestation -/

theorem execAttnonceWrite_open {n : BitVec 384} (h : s.bar0Open = true) :
    execAttnonceWrite n s = .next { s with boot := { s.boot with nonce := n, attDone := false } } := if_neg (by simp [h])

theorem execAttestationGo_open (h : s.bar0Open = true) :
    execAttestationGo s = .next { s with boot := { s.boot with attGo := true } } := if_neg (by simp [h])

theorem execAttestationDone_going (h : s.boot.attGo = true) : execAttestationDone s = .next { s with boot := { s.boot with
    attGo := false, attDone := true
    report := s.boot.measured ++ (List.range 4627).map fun i => Config.attestSignature s.boot.measured i } } := if_neg (by simp [h])

/-! ## The statement -/

/-- Settles O47: each event by the rule for the case that its hypotheses name. -/
theorem powerAndBringUpProceed : Obligations.PowerAndBringUpProceed := by
  unfold Obligations.PowerAndBringUpProceed
  refine ⟨?poweron, ?reset, fun _ => rfl, fun s => execRailFault_vaux, fun s rails => execRailFault_vbase, fun s => execRailFault_vmem,
    fun s => execRailFault_vlas, fun s n => execRailFault_vch, fun s n => execRailFault_vlas_vch, ?down,
    fun s h3 hdown => ⟨t3Advance_t3step h3 hdown, t3Advance_last h3 hdown⟩, fun s r check => execRailUp_stopped,
    fun s check => execRailUp_vbase (check := check), fun s check => execRailUp_vmem (check := check),
    fun s check => execRailUp_vlas (check := check), fun s n check => execRailUp_vch,
    fun s n check => execChipletReset_idle, fun s n check => ⟨chipletStage_passed, chipletStage_failed⟩,
    fun s n => failStage_stageFailed, fun s => checkFull_of_stageFailed, fun s c => execImageVerifyDone_outcome, ?image,
    fun s v => execRecoveryGo_recovery,
    fun s => execBaseStageDone_up, fun s => execMemoryStageDone_up, fun s c => execClusterCalibrationDone_ok,
    fun s c => execClusterCalibrationDone_failed, fun s n => execAttnonceWrite_open, fun s => execAttestationGo_open,
    fun s => execAttestationDone_going⟩
  case poweron => exact fun s => ⟨_, rfl, rfl, rfl, rfl, rfl, rfl, rfl, rfl, rfl, rfl, rfl, rfl, rfl, rfl, rfl⟩
  case reset =>
    intro s hvaux
    have hexec : execModuleReset s =
        .next { s.blank with boot := { flash := s.boot.flash }, power := { lasersLost := s.power.lasersLost } } :=
        if_neg (by simp [hvaux])
    exact ⟨_, hexec, rfl, rfl, rfl, rfl, rfl, rfl, rfl, rfl, rfl, rfl, rfl, rfl, rfl, rfl⟩
  case down =>
    intro s vaux vmem
    exact ⟨rfl, rfl, rfl, rfl, rfl, rfl, Bool.and_false _, rfl, rfl, rfl, rfl, rfl, rfl⟩
  case image => exact fun flash i c => ⟨fun hflash hbad => hflash ▸ imageFail_flash hbad, imageFail_checks⟩

end Sys2Proof.Machine

/-! The commit of a task's version, from its request to its merge (R135, R187 to R189). -/
namespace Sys2Proof.Machine

/-! ## What sending leaves alone -/

/-- Memory and the task table: what a message on its way, and an L1 line that leaves for its home, leave as they are. -/
def State.memTasks (s : State) : List Host.Cell × Tbl Task := (s.mem, s.tasks)

theorem taskAt_of_memTasks {s t : State} (h : s.memTasks = t.memTasks) (task : Nat) : s.taskAt task = t.taskAt task :=
  congrArg (fun p : List Host.Cell × Tbl Task => tgetD p.2 task {}) h

theorem setWait_memTasks (s : State) (core slot entry : Nat) (w : Wait) : (s.setWait core slot entry w).memTasks = s.memTasks := by
  unfold State.setWait
  split <;> rfl

theorem evictLine_memTasks (s : State) (core : Nat) (x : L1Line) : (s.evictLine core x).memTasks = s.memTasks := by
  unfold State.evictLine
  dsimp only
  split
  · rfl
  · split
    · split <;> rfl
    · split <;> rfl

theorem sendVersions_memTasks (s : State) (core : Nat) (p : VKey → Bool) : (s.sendVersions core p).memTasks = s.memTasks :=
  foldl_keeps State.memTasks (fun s n => foldl_keeps State.memTasks (fun s x => evictLine_memTasks s n x) _ s) _ s

/-! ## The last commit of a team (R135) -/

theorem execTeamRetire_quiet {s : State} {team : Nat} (hstate : (s.teamAt team).state = .resident) (hgroups : s.teamGroups team = [])
    (hinbound : (s.teamAt team).inbound = 0) (haccs : ∀ e ∈ s.accs, e.2.team ≠ team)
    (hops : ∀ e ∈ s.ops, e.2.team = team → e.2.vDone = true) :
    execTeamRetire team s = .next ((s.setTeam team { s.teamAt team with state := .committing }).askCommit team (s.teamAt team).core []
      0 causeRetire) := by
  have hacc : (s.accs.any fun e => e.2.team == team && (e.2.space == .mem || e.2.space == .remote || e.2.ldc)) = false :=
    List.any_eq_false.2 fun e he => by simp [haccs e he]
  have hop : (s.ops.any fun e => e.2.team == team && !e.2.vDone) = false :=
    List.any_eq_false.2 fun e he => by simpa using hops e he
  refine if_pos ?_
  simp [hstate, hgroups, hinbound, hacc, hop]

/-! ## The request and the marks (R188, R189 steps 1 to 4) -/

/-- The commit that a request starts: of the epoch that has been open, with no acknowledgement yet (R189 step 1). -/
def State.newCommit (s : State) (task entry : Nat) : Commit :=
  { id := s.ids, epoch := (s.taskAt task).e, retire := entry == causeRetire, trig := entry == causeTrig }

/-- A task with a commit started: its epoch flipped, and NR as the request leaves it (R189 step 1). -/
def State.committingTask (s : State) (task entry : Nat) : Task :=
  let k := s.taskAt task
  { k with e := !k.e, nr := k.nr || entry != causeRetire, commit := some (s.newCommit task entry) }

theorem startCommit_memTasks (s : State) (team core slot entry : Nat) :
    (s.startCommit team core slot entry).memTasks =
      (s.setTask (s.teamAt team).task (s.committingTask (s.teamAt team).task entry)).memTasks := by
  unfold State.startCommit
  dsimp only [State.fresh]
  refine (foldl_keeps State.memTasks (fun u n => ?mark) _ _).trans ?begun
  case mark => split <;> rfl
  case begun =>
    have hwait : ∀ (c : Prop) [Decidable c] (u : State) (w : Wait),
        (if c then u.setWait core slot entry w else u).memTasks = u.memTasks := by
      intro c _ u w
      split
      · exact setWait_memTasks ..
      · rfl
    split
    · exact (sendVersions_memTasks ..).trans (hwait ..)
    · exact hwait ..

section
variable {s : State} {m : Nat} {x : Msg} {team core slot entry : Nat}

theorem execCmtReq_first (h : s.Has m x (.cmtReq team core slot entry))
    (hlive : (s.teamAt team).state.over = false ∨ (s.taskAt (s.teamAt team).task).discard = true)
    (hteam : (tget? s.teams team).isSome = true) (hfirst : s.cmtFirst m x (s.teamAt team).task = true)
    (hrunning : (s.taskAt (s.teamAt team).task).state = .running) (hnone : (s.taskAt (s.teamAt team).task).commit = none)
    (hcome : (s.teamAt team).inL1 = true ∨ ∀ e ∈ s.msgs, ∀ v, e.2.kind = .version v → v.task ≠ (s.teamAt team).task) :
    execCmtReq m s = .next ((s.dropMsg m).startCommit team core slot entry) := by
  obtain ⟨hmsg, hkind, hready⟩ := h
  have hover : ((s.teamAt team).state.over && !(s.taskAt (s.teamAt team).task).discard) = false := by
    rcases hlive with hlive | hlive <;> simp [hlive]
  simp only [execCmtReq, hmsg, hkind, hready, Bool.not_true, Bool.false_eq_true, if_false]
  have hthere : (tget? s.teams team).isNone = false := by simpa [← Option.not_isSome] using hteam
  rw [if_neg (by simp [hthere, hover, hrunning]), if_neg]
  rw [Bool.or_eq_true, Bool.or_eq_true, not_or, not_or]
  refine ⟨⟨by simp [hnone], ?coming⟩, by simp [hfirst]⟩
  case coming =>
    rw [Bool.and_eq_true, not_and]
    intro hout
    have hfar : (s.teamAt team).inL1 = false := by simpa using hout
    rw [Bool.not_eq_true, List.any_eq_false]
    intro e he
    split
    · next v hv => simpa using (hcome.resolve_left (by simp [hfar])) e he v hv
    · simp

end

theorem execCmtMark_ready {s : State} {m : Nat} {x : Msg} {task slice : Nat} {epoch : Bool} (h : s.HasHome m x (.cmtMark task epoch slice)) :
    execCmtMark m s = .next ((s.dropMsg m).sendBase (.cmtAck task epoch slice) slice distributorSlice) := by
  obtain ⟨⟨hmsg, hkind, -⟩, hhome⟩ := h
  simp [execCmtMark, hmsg, hkind, hhome]

/-! ## The commit point (R189 steps 5 and 6) -/

section
variable {s : State} {m : Nat} {x : Msg} {task slice : Nat} {epoch : Bool} {c : Commit} (h : s.Has m x (.cmtAck task epoch slice))
  (hc : (s.taskAt task).commit = some c) (hepoch : c.epoch = epoch) (hopen : c.decided = false) (hnew : slice ∉ c.acks)

/-- A state at a commit point: the task Committing, its commit decided, in the order of the commit points. -/
def State.commitPoint (s : State) (task : Nat) (c : Commit) (acks : List Nat) : State :=
  let k := s.taskAt task
  let u := { s with ids := s.ids + 1 }.setTask task { k with
    state := .committing, commit := some { c with acks := acks, decided := true, order := s.ids } }
  match u.taskTeam task with
    | some t => u.setTeam t { u.teamAt t with nrAt := k.nr }
    | none => u

theorem commitPoint_frame (s : State) (task : Nat) (c : Commit) (acks : List Nat) :
    (s.commitPoint task c acks).free = s.free ∧ (s.commitPoint task c acks).mem = s.mem ∧ (s.commitPoint task c acks).taskAt task =
      { s.taskAt task with state := .committing, commit := some { c with acks := acks, decided := true, order := s.ids } } := by
  unfold State.commitPoint
  dsimp only
  split <;> exact ⟨rfl, rfl, setTask_taskAt_self ..⟩

include h hc hepoch hopen hnew

theorem execCmtAck_early (hearly : c.acks.length < 95) :
    execCmtAck m s = .next ((s.dropMsg m).setTask task { s.taskAt task with commit := some { c with acks := c.acks ++ [slice] } }) := by
  obtain ⟨hmsg, hkind, hready⟩ := h
  have hc' : ((s.dropMsg m).taskAt task).commit = some c := hc
  have hcont : c.acks.contains slice = false := by simpa using hnew
  simp only [execCmtAck, hmsg, hkind, hready, hc', hcont, Bool.not_true, Bool.false_eq_true, if_false]
  rw [if_neg (by simp [hepoch, hopen]), if_pos (by rw [List.length_append, List.length_singleton]; omega)]
  rfl

theorem execCmtAck_last (hlast : c.acks.length = 95) :
    let u := (s.dropMsg m).commitPoint task c (c.acks ++ [slice])
    execCmtAck m s = .next ({ u with free := u.free + 1 }.askMerges u.free task epoch) := by
  obtain ⟨hmsg, hkind, hready⟩ := h
  have hc' : ((s.dropMsg m).taskAt task).commit = some c := hc
  have hcont : c.acks.contains slice = false := by simpa using hnew
  simp only [execCmtAck, hmsg, hkind, hready, hc', hcont, Bool.not_true, Bool.false_eq_true, if_false]
  rw [if_neg (by simp [hepoch, hopen]), if_neg (by rw [List.length_append, List.length_singleton]; omega)]
  rfl

end

/-! ## The merges (R189 steps 6 to 8) -/

section
variable {s : State} {m : Nat} {x : Msg} {task slice : Nat} {epoch : Bool} {c : Commit} (h : s.Has m x (.mergeDone task epoch slice))
  (hc : (s.taskAt task).commit = some c) (hnew : slice ∉ c.merged)
include h hc hnew

theorem execMergeDone_early (hearly : c.merged.length < 95) :
    let u := (s.dropMsg m).mergeInOrder slice task epoch
    execMergeDone m s = .next (u.setTask task { u.taskAt task with commit := some { c with merged := c.merged ++ [slice] } }) := by
  obtain ⟨hmsg, hkind, hready⟩ := h
  have hc' : ((s.dropMsg m).taskAt task).commit = some c := hc
  simp [execMergeDone, hmsg, hkind, hready, hc', hnew, hearly]

theorem execMergeDone_last (hlast : c.merged.length = 95) :
    execMergeDone m s =
      .next (((s.dropMsg m).mergeInOrder slice task epoch).commitDone task { c with merged := c.merged ++ [slice] }) := by
  obtain ⟨hmsg, hkind, hready⟩ := h
  have hc' : ((s.dropMsg m).taskAt task).commit = some c := hc
  simp [execMergeDone, hmsg, hkind, hready, hc', hnew, hlast]

end

theorem mergeInOrder_first {s : State} {slice task : Nat} {epoch : Bool} {c : Commit} (hc : (s.taskAt task).commit = some c)
    (hfirst : s.decidedBefore c.order = []) : s.mergeInOrder slice task epoch = s.mergeSlice slice task epoch := by
  simp [State.mergeInOrder, hc, hfirst]

/-! ## Version lines that a slice holds -/

/-- The version lines of a slice: in its version ways, in its displacement buffer and in its overflow map (R185, R186). -/
def Slice.held (x : Slice) : List VersionLine := x.versions ++ x.displaced ++ x.overflow

/-- The version lines that each slice holds. -/
def State.heldLines (s : State) (n : Nat) : List VersionLine := (s.slice n).held

theorem heldLines_of_slices {s t : State} (h : s.slices = t.slices) : s.heldLines = t.heldLines :=
  congrArg (fun l n => (tgetD l n ({} : Slice)).held) h

theorem setSlice_heldLines {s : State} {m : Nat} {x : Slice} (h : x.held = (s.slice m).held) : (s.setSlice m x).heldLines = s.heldLines := by
  funext n
  by_cases hn : n = m
  · subst hn
    exact (congrArg Slice.held (setSlice_slice_self ..)).trans h
  · exact congrArg Slice.held (setSlice_slice_of_ne _ _ hn)

theorem tokenBack_held (x : Slice) (line : Nat) (h : Holder) (region keep split : Bool) :
    (x.tokenBack line h region keep split).held = x.held := by
  unfold Slice.tokenBack
  dsimp only
  split
  · split
    · split <;> rfl
    · rfl
  · split
    · split <;> rfl
    · rfl

theorem allocate_heldLines (s : State) (m line : Nat) (version : Bool) : (s.allocate m line version).heldLines = s.heldLines := by
  unfold State.allocate
  dsimp only
  split
  · rfl
  · split
    · exact setSlice_heldLines rfl
    · exact (feed_keeps State.heldLines (fun _ _ _ => rfl) ..).trans (setSlice_heldLines rfl)

theorem homeStore_heldLines (s : State) (pa : Nat) (bs : List Byte) : (s.homeStore pa bs).heldLines = s.heldLines := by
  unfold State.homeStore
  extract_lets +onlyGivenNames s1 mark
  have hmark : ∀ u p, (mark u p).heldLines = u.heldLines := by
    intro u p
    exact Eq.trans (setSlice_heldLines rfl) (allocate_heldLines ..)
  exact foldl_keeps State.heldLines (fun u i => hmark u _) _ s1

theorem applyThrough_heldLines (s : State) (id acc line core : Nat) (cells : List (Nat × List Byte)) :
    (s.applyThrough id acc line core cells).heldLines = s.heldLines := by
  unfold State.applyThrough
  extract_lets +onlyGivenNames s1
  have hs1 : s1.heldLines = s.heldLines := by
    unfold s1
    exact foldl_keeps State.heldLines (fun u ⟨p, bs⟩ => homeStore_heldLines u p bs) cells s
  exact Eq.trans (heldLines_of_slices rfl) hs1

theorem drainLine_heldLines (s : State) (line : Nat) : (s.drainLine line).heldLines = s.heldLines := by
  refine foldl_keeps State.heldLines (fun u e => ?_) _ s
  dsimp only
  split
  · split
    · exact applyThrough_heldLines ..
    · rfl
  · rfl

theorem rouseSlice_heldLines (s : State) (m : Nat) : (s.rouseSlice m).heldLines = s.heldLines := by
  unfold State.rouseSlice State.tally
  dsimp only
  split
  · split <;> exact setSlice_heldLines rfl
  · rfl

theorem l1Map_heldLines (s : State) (core : Nat) (p : L1Line → Bool) (f : L1Line → L1Line) : (s.l1Map core p f).heldLines = s.heldLines := by
  unfold State.l1Map
  dsimp only
  split <;> rfl

theorem dropCopies_heldLines (s : State) (cluster line : Nat) (region : Bool) (exempt : Option Nat) :
    (s.dropCopies cluster line region exempt).heldLines = s.heldLines := by
  refine foldl_keeps State.heldLines (fun u i => ?_) _ s
  have hdrop : ∀ n p, (u.l1Drop n p).heldLines = u.heldLines := by
    intro n p
    unfold State.l1Drop
    dsimp only
    split <;> rfl
  rw [apply_ite State.heldLines, hdrop, ite_self]

theorem settleLine_heldLines (s : State) (line : Nat) (write : Bool) : (s.settleLine line write).heldLines = s.heldLines := by
  unfold State.settleLine
  extract_lets +onlyGivenNames home s1
  have hs1 : s1.heldLines = s.heldLines := (drainLine_heldLines ..).trans (rouseSlice_heldLines ..)
  extract_lets +onlyGivenNames sl e region s2
  have hs2 : s2.heldLines = s.heldLines := by
    unfold s2
    split
    · extract_lets +onlyGivenNames s3 s4
      have hs3 : s3.heldLines = s.heldLines := (foldl_keeps State.heldLines (fun _ _ => l1Map_heldLines ..) _ s1).trans hs1
      have hs4 : s4.heldLines = s.heldLines := by
        unfold s4
        split
        · exact (foldl_keeps State.heldLines (fun _ _ => drainLine_heldLines ..) _ s3).trans hs3
        · exact hs3
      exact (setSlice_heldLines (tokenBack_held ..)).trans hs4
    · exact hs1
  split
  · exact hs2
  · extract_lets +onlyGivenNames sl1 e1 s3 sl3
    have hs3 : s3.heldLines = s.heldLines := (foldl_keeps State.heldLines (fun _ _ => dropCopies_heldLines ..) _ s2).trans hs2
    split
    · exact Eq.trans (setSlice_heldLines rfl) hs3
    · exact hs3

theorem writeNow_heldLines (s : State) (pa : Nat) (bs : List Byte) : (s.writeNow pa bs).heldLines = s.heldLines := by
  have hreach : (s.reach pa bs.length true).heldLines = s.heldLines := by
    unfold State.reach
    split <;> rfl
  exact (homeStore_heldLines ..).trans ((foldl_keeps State.heldLines (fun _ _ => settleLine_heldLines ..) _ _).trans hreach)

theorem xlateTouch_heldLines (s : State) (ctx va : Nat) (write : Bool) : (s.xlateTouch ctx va write).heldLines = s.heldLines := by
  have htouch : ∀ pte, (s.touchPte pte write).heldLines = s.heldLines := by
    intro pte
    unfold State.touchPte
    extract_lets +onlyGivenNames v w s1
    have hs1 : s1.heldLines = s.heldLines := by
      unfold s1
      rw [apply_ite State.heldLines, writeNow_heldLines, ite_self]
    rw [apply_ite State.heldLines, writeNow_heldLines, ite_self, hs1]
  unfold State.xlateTouch
  split
  · rfl
  · split
    · exact htouch _
    · rfl

theorem writeBlock_heldLines (s : State) (slice task block : Nat) : (s.writeBlock slice task block).heldLines = s.heldLines := by
  unfold State.writeBlock
  dsimp only
  split
  · exact xlateTouch_heldLines ..
  · rfl

theorem rewriteBlocks_heldLines (s : State) (slice task : Nat) (blocks : List Nat) :
    (s.rewriteBlocks slice task blocks).heldLines = s.heldLines :=
  foldl_keeps State.heldLines (fun _ _ => writeBlock_heldLines ..) blocks s

/-- A slice that has merged a task's epoch holds no version line of it (R189 step 6). -/
theorem mergeSlice_heldLines {s : State} {slice task : Nat} {epoch : Bool} :
    ∀ v ∈ (s.mergeSlice slice task epoch).heldLines slice, ¬ (v.task = task ∧ v.epoch = epoch) := by
  unfold State.mergeSlice
  extract_lets +onlyGivenNames sl mine lines blocks s1 sl1 s2
  have hs2 : s2.heldLines slice = sl1.held.filter fun v => !mine v := by
    rw [State.heldLines, setSlice_slice_self, Slice.held, Slice.held, List.filter_append, List.filter_append]
  have hheld : (if blocks == [] then s2 else s2.rewriteBlocks slice task blocks).heldLines slice = s2.heldLines slice := by
    rw [apply_ite State.heldLines, rewriteBlocks_heldLines, ite_self]
  intro v hv
  rw [hheld, hs2] at hv
  have hmine : mine v = false := by simpa using (List.mem_filter.1 hv).2
  simpa [mine] using hmine

/-! ## Version overflow traps (R187) -/

theorem execVersionOverflowTrap_due {s : State} {core slot : Nat} {g : Group} (hg : s.group? core slot = some g)
    (hovf : (s.taskAt (s.teamOf g).task).ovf = true) (hnew : g.uid ∉ (s.taskAt (s.teamOf g).task).ovfSeen)
    (hbound : g.atBoundary s.time = true) :
    execVersionOverflowTrap core slot s = .next ((s.setTask (s.teamOf g).task { s.taskAt (s.teamOf g).task with
      ovfSeen := (s.taskAt (s.teamOf g).task).ovfSeen ++ [g.uid] }).boundaryTrap core slot 0x0A) := by
  simp [execVersionOverflowTrap, hg, hovf, hnew, hbound]

/-! ## The statement -/

/-- Settles O42: each event of a commit by its rule, and what a merge leaves of the slice's version lines. -/
theorem commitsProceed : Obligations.CommitsProceed := by
  unfold Obligations.CommitsProceed
  refine ⟨?retire, ?request, ?mark, ?ack, ?merge, ?merged, fun s core slot g => execVersionOverflowTrap_due⟩
  case retire =>
    intro s team hstate hgroups hinbound haccs hops
    exact ⟨_, _, execTeamRetire_quiet hstate hgroups hinbound haccs hops, rfl, congrArg Team.state (setTeam_teamAt_self ..),
      tget?_tset_self .., rfl⟩
  case request =>
    intro s m x team core slot entry h hlive hteam hfirst hrunning hnone hcome
    have hstart := startCommit_memTasks (s.dropMsg m) team core slot entry
    have htask := (taskAt_of_memTasks hstart (s.teamAt team).task).trans (setTask_taskAt_self ..)
    exact ⟨_, execCmtReq_first h hlive hteam hfirst hrunning hnone hcome, congrArg Prod.fst hstart, congrArg Task.e htask, _,
      congrArg Task.commit htask, rfl, rfl, rfl⟩
  case mark => exact fun s m x task slice epoch h => ⟨_, _, execCmtMark_ready h, rfl, tget?_tset_self .., rfl⟩
  case ack =>
    intro s m x task slice epoch c h hc hepoch hopen hnew
    refine ⟨fun hearly => ⟨_, execCmtAck_early h hc hepoch hopen hnew hearly, rfl, congrArg Task.commit (setTask_taskAt_self ..)⟩,
      fun hlast => ?_⟩
    obtain ⟨hfree, hmem, htask⟩ := commitPoint_frame (s.dropMsg m) task c (c.acks ++ [slice])
    have hexec := execCmtAck_last h hc hepoch hopen hnew hlast
    simp only [hfree] at hexec
    exact ⟨_, hexec, hmem, congrArg Task.state htask, congrArg Task.commit htask⟩
  case merge => exact fun s m x task slice epoch c h hc hnew => ⟨execMergeDone_early h hc hnew, execMergeDone_last h hc hnew⟩
  case merged =>
    intro s slice task epoch c hc hfirst
    have hmerge := mergeInOrder_first (slice := slice) (epoch := epoch) hc hfirst
    refine ⟨hmerge, ?_⟩
    rw [hmerge]
    exact mergeSlice_heldLines

end Sys2Proof.Machine

/-! The start of grids (R122), budgets and suspension (R115 to R118, R140), and the placement step (R128). -/
namespace Sys2Proof.Machine

/-! ## Grid start (R122) -/

section
variable {s : State} {q : Nat} (hrun : s.dispatchHalted = false) (hfull : s.stage = .full)
include hrun hfull

theorem execGridStart_head {index since entry : Nat} {rest : List (Nat × Nat × Nat)} (hfunded : s.unfunded q = none)
    (hhead : s.dist.waiting = (q, index, since) :: rest) (hbefore : (s.queueAt q).beforeFailed index = false)
    (hentry : tfree s.grids 2048 = some entry) : execGridStart q s = .next (s.startGrid q index entry) := by
  simp [execGridStart, hrun, hfull, hfunded, hhead, hbefore, hentry]

theorem execGridStart_funds {g : Nat} (hwaits : s.unfunded q = some g) (htake : (s.takeAccounts g (s.gridAt g).needs).isSome = true) :
    execGridStart q s = .next (s.fundGrid g) := by
  obtain ⟨u, hu⟩ := Option.isSome_iff_exists.1 htake
  simp [execGridStart, hrun, hfull, hwaits, hu]

end

theorem execGridReady_due {s : State} {k : Nat} {g : Grid} (hg : tget? s.grids k = some g) (hnew : g.ready = false)
    (hgood : g.failed = false) (hpre : g.preLeft = []) (hneeds : g.needs = []) (hcopies : g.copies = []) :
    execGridReady k s = .next { s.setGrid k { g with ready := true } with
      dist := { s.dist with items := s.dist.items ++ [{ level := g.eff.prio, head := false, grid := k }] } } := by
  simp only [execGridReady, hg]
  exact if_neg (by simp [hnew, hgood, hpre, hneeds, hcopies])

/-! ## What a change of causes leaves of the accounts and of the distributor -/

/-- The accounts, and the distributor without its ready lists. -/
def State.ledger (s : State) : Tbl Account × Distributor := (s.accounts, { s.dist with items := [] })

theorem accounts_of_ledger {s t : State} (h : s.ledger = t.ledger) : s.accounts = t.accounts := congrArg Prod.fst h

theorem period_of_ledger {s t : State} (h : s.ledger = t.ledger) : s.dist.period = t.dist.period :=
  congrArg (fun p : Tbl Account × Distributor => p.2.period) h

theorem dsusp_of_ledger {s t : State} (h : s.ledger = t.ledger) : s.dist.dsusp = t.dist.dsusp :=
  congrArg (fun p : Tbl Account × Distributor => p.2.dsusp) h

theorem setTeam_ledger (s : State) (n : Nat) (t : Team) : (s.setTeam n t).ledger = s.ledger := rfl

theorem readmit_ledger (s : State) (grid : Nat) (teams : List Nat) (deferTo : Option Nat) :
    (s.readmit grid teams deferTo).ledger = s.ledger := rfl

theorem nameCause_ledger (s : State) (team : Nat) (c : PreemptCause) : (s.nameCause team c).ledger = s.ledger := by
  refine foldl_keeps State.ledger (fun u k => ?_) _ s
  rw [apply_ite State.ledger]
  exact ite_self _

theorem nameCauses_ledger (teams : List Nat) (c : PreemptCause) (s : State) :
    (teams.foldl (fun (x : State) k => x.nameCause k c) s).ledger = s.ledger :=
  foldl_keeps State.ledger (fun _ _ => nameCause_ledger ..) teams s

theorem takeMail_ledger (s : State) (ctx box core slot entry : Nat) : (s.takeMail ctx box core slot entry).ledger = s.ledger := by
  have hanswer : ∀ (u : State) d v at', (u.answer core slot entry d true v at').ledger = u.ledger := by
    intro u d v at'
    unfold State.answer
    split <;> rfl
  unfold State.takeMail
  split
  · split
    · exact hanswer ..
    · rfl
  · rfl

theorem enterBox_ledger (s : State) (ctx box core slot entry : Nat) : (s.enterBox ctx box core slot entry).ledger = s.ledger := by
  unfold State.enterBox State.serveBox
  dsimp only
  split
  · exact takeMail_ledger ..
  · rfl

theorem goOnTeam_ledger (s : State) (team : Nat) (why : Stop) : (s.goOnTeam team why).ledger = s.ledger := by
  refine foldl_keeps State.ledger (fun u key => ?_) _ s
  unfold State.goOnGroup
  split
  · rfl
  · exact foldl_keeps State.ledger (fun _ _ => enterBox_ledger ..) _ _

theorem readmitPreempted_ledger (s : State) : s.readmitPreempted.ledger = s.ledger := by
  refine foldl_keeps State.ledger (fun u k => ?_) _ s
  unfold State.readmitUnit
  dsimp only
  split
  · exact (readmit_ledger ..).trans (foldl_keeps State.ledger (fun _ _ => setTeam_ledger ..) _ u)
  · rfl

theorem endCauses_ledger (s : State) (p : Team → PreemptCause → Bool) : (s.endCauses p).ledger = s.ledger := by
  unfold State.endCauses
  extract_lets +onlyGivenNames touched s1 s2
  have hs1 : s1.ledger = s.ledger := foldl_keeps State.ledger (fun _ _ => setTeam_ledger ..) touched s
  have hs2 : s2.ledger = s1.ledger := by
    refine foldl_keeps State.ledger (fun u k => ?_) touched s1
    dsimp only
    split
    · rfl
    · split
      · rfl
      · exact goOnTeam_ledger ..
  exact (readmitPreempted_ledger s2).trans (hs2.trans hs1)

/-! ## Budgets (R115 to R118) -/

section
variable {s : State} {k : Nat} {a : Account} (ha : tget? s.accounts k = some a) (hperiod : a.period = periodAt s.time)
  (hunder : a.isOver = false) (hlimit : a.limit ≤ a.count)
include ha hperiod hunder hlimit

theorem execAccountCharge_soft (hsoft : a.hard = false) :
    execAccountCharge k s = .next { s with accounts := tset s.accounts k { a with isOver := true } } := by
  have hin : a.inPeriod s.time = a := if_pos (by simp [hperiod])
  simp [execAccountCharge, ha, hin, hunder, hsoft, Nat.not_lt.2 hlimit]

/-- A hard account that is over names the teams that are charged to it. -/
theorem execAccountCharge_hard (hhard : a.hard = true) :
    ∃ t, execAccountCharge k s = .next t ∧ tget? t.accounts k = some { a with isOver := true } := by
  have hin : a.inPeriod s.time = a := if_pos (by simp [hperiod])
  simp only [execAccountCharge, ha, hin]
  rw [if_neg (by simp [hunder, hlimit]), if_neg (by simp [hhard])]
  refine ⟨_, rfl, Eq.trans (congrArg (fun l => tget? l k) (accounts_of_ledger (nameCauses_ledger ..))) ?_⟩
  exact tget?_tset_self ..

end

theorem inPeriod_limit (a : Account) (now : Nat) : (a.inPeriod now).limit = a.limit := by
  unfold Account.inPeriod
  split <;> rfl

theorem inPeriod_period (a : Account) (now : Nat) : (a.inPeriod now).period = periodAt now := by
  unfold Account.inPeriod
  split
  · next h => exact eq_of_beq h
  · rfl

theorem inPeriod_of_earlier {a : Account} {now : Nat} (h : a.period ≠ periodAt now) :
    (a.inPeriod now).count = 0 ∧ (a.inPeriod now).isOver = false := by
  rw [Account.inPeriod, if_neg (by simpa using h)]
  exact ⟨rfl, rfl⟩

theorem execBudgetPeriodBoundary_due {s : State} (hnew : s.dist.period < periodAt s.time) :
    ∃ t, execBudgetPeriodBoundary s = .next t ∧ t.dist.period = periodAt s.time ∧
      ∀ k a, tget? s.accounts k = some a → tget? t.accounts k = some (a.inPeriod s.time) := by
  refine ⟨_, if_neg (Nat.not_le.2 hnew), period_of_ledger (endCauses_ledger ..), fun k a ha => ?_⟩
  refine Eq.trans (congrArg (fun l => tget? l k) (accounts_of_ledger (endCauses_ledger ..))) ?_
  rw [tget?_tmap, ha]
  rfl

/-! ## Suspension (R140) -/

theorem execDsuspSet_open {s : State} {v : W64} (hopen : s.bar0Open = true) :
    ∃ t, execDsuspSet v s = .next t ∧ t.dist.dsusp = s.dist.dsusp ||| v :=
  ⟨_, if_neg (by simp [hopen]), dsusp_of_ledger (nameCauses_ledger ..)⟩

theorem execDsuspClear_open {s : State} {v : W64} (hopen : s.bar0Open = true) :
    ∃ t, execDsuspClear v s = .next t ∧ t.dist.dsusp = s.dist.dsusp &&& v := by
  refine ⟨_, if_neg (by simp [hopen]), (dsusp_of_ledger (endCauses_ledger ..)).trans ?_⟩
  exact congrArg (s.dist.dsusp &&& ·) BitVec.not_not

/-! ## The placement step (R128) -/

theorem execPlacementDecision_placed {s t : State} {lv : Option Nat} (hcycle : s.bclks % 4 = 0) (hrun : s.dispatchHalted = false)
    (hnew : s.dist.decided ≠ some s.bclks)
    (hplaced : ({ s with dist := { s.dist with decided := some s.bclks } } : State).tryLevels true levels = (.placed t, lv)) :
    execPlacementDecision s = .next t := by
  unfold execPlacementDecision
  rw [if_neg (by simp [hcycle, hrun, hnew])]
  dsimp only
  rw [hplaced]

theorem tryItems_fits {s : State} {first : Bool} {n ptr : Nat} {i : Item} {site : List (Nat × Need)} (rest : List (Nat × Item))
    (hitem : s.dist.items.getD n i = i) (hcan : s.ineligible i = false) (hunder : first = true → s.overSoft i.grid = false)
    (hsite : s.search (s.nextUnit i) = some (site, ptr)) :
    s.tryItems first ((n, i) :: rest) = .placed { (s.placeUnit i site).itemPlaced n i with
      dist := { ((s.placeUnit i site).itemPlaced n i).dist with ptr := ptr } } := by
  have hskip : (s.ineligible i || (first && s.overSoft i.grid)) = false := by
    cases first with
    | false => simp [hcan]
    | true => simp [hcan, hunder rfl]
  simp only [State.tryItems, hitem, hskip, hsite, Bool.false_eq_true, if_false]

/-- An eligible item of a level that is not over budget and has waited 100 µs (R128). -/
def State.overdue (s : State) (lv : Nat) (i : Item) : Bool :=
  i.level == lv && !s.ineligible i && !s.overSoft i.grid && i.waited s.time ≥ 100 * usec

theorem overdue_iff {s : State} {lv : Nat} {i : Item} : s.overdue lv i = true ↔
    i.level = lv ∧ s.ineligible i = false ∧ s.overSoft i.grid = false ∧ 100 * usec ≤ i.waited s.time := by
  simp [State.overdue, and_assoc]

theorem levels_eq_append : ∀ lv < 8, levels = levels.take (7 - lv) ++ lv :: levels.drop (8 - lv) ∧ ∀ l ∈ levels.take (7 - lv), lv < l := by
  decide

theorem find_levels {p : Nat → Bool} {lv : Nat} (hlv : lv < 8) (hp : p lv = true) (habove : ∀ l, lv < l → p l = false) :
    levels.find? p = some lv := by
  obtain ⟨hsplit, hfirst⟩ := levels_eq_append lv hlv
  exact List.find?_eq_some_iff_append.2 ⟨hp, _, _, hsplit, fun l hl => by simp [habove l (hfirst l hl)]⟩

theorem execPlacementReservation_overdue {s : State} {lv : Nat} (hlv : lv < 8)
    (hdue : ∃ i ∈ s.dist.items, s.overdue lv i = true) (habove : ∀ i ∈ s.dist.items, ∀ l, lv < l → s.overdue l i = false) :
    execPlacementReservation s = .next { s with dist := { s.dist with reserved := some lv } } := by
  unfold execPlacementReservation
  extract_lets held
  have hfind : levels.find? held = some lv :=
    find_levels hlv (List.any_eq_true.2 hdue) fun l hl => List.any_eq_false.2 fun i hi => by simpa [State.overdue] using habove i hi l hl
  rw [hfind]

/-! ## The statement -/

/-- Settles O56: each event by the rule for the case that its hypotheses name. -/
theorem gridsAndBudgetsProceed : Obligations.GridsAndBudgetsProceed := by
  unfold Obligations.GridsAndBudgetsProceed
  refine ⟨fun s q index since entry rest hrun hfull => execGridStart_head hrun hfull,
    fun s q g hrun hfull => execGridStart_funds hrun hfull, ?ready, ?charge, ?period,
    fun s v hopen => ⟨execDsuspSet_open hopen, execDsuspClear_open hopen⟩,
    fun s t lv => execPlacementDecision_placed,
    fun s first n ptr i rest site => tryItems_fits rest, ?reserve⟩
  case ready =>
    intro s k g hg hnew hgood hpre hneeds hcopies
    exact ⟨_, execGridReady_due hg hnew hgood hpre hneeds hcopies, rfl, setGrid_gridAt_self .., rfl⟩
  case charge =>
    exact fun s k a ha hperiod hunder hlimit =>
      ⟨execAccountCharge_soft ha hperiod hunder hlimit, execAccountCharge_hard ha hperiod hunder hlimit⟩
  case period =>
    intro s hnew
    obtain ⟨t, hexec, hperiod, haccounts⟩ := execBudgetPeriodBoundary_due hnew
    exact ⟨t, hexec, hperiod, fun k a ha =>
      ⟨_, haccounts k a ha, inPeriod_limit .., inPeriod_period .., fun hearlier => inPeriod_of_earlier hearlier⟩⟩
  case reserve =>
    intro s lv hlv hdue habove
    obtain ⟨i, hi, hdue⟩ := hdue
    refine execPlacementReservation_overdue hlv ⟨i, hi, overdue_iff.2 hdue⟩ fun j hj l hl => ?_
    rw [← Bool.not_eq_true, overdue_iff]
    rintro ⟨rfl, hcan, hunder, hwaited⟩
    rcases habove j hj hl with h | h | h
    · simp [hcan] at h
    · simp [hunder] at h
    · omega

end Sys2Proof.Machine

/-! The debugger's snapshot (R260): what it leaves of the contexts, and what the stop before it takes from a mailbox. -/
namespace Sys2Proof.Machine

/-! ## What a save leaves of the contexts (R257, R265) -/

theorem contexts_of_offHome {s t : State} (h : s.offHome = t.offHome) : s.contexts = t.contexts :=
  show s.offHome.contexts = t.offHome.contexts from congrArg State.contexts h

/-- An area that is no park slot is a reservation in device memory, written without translation (R257). -/
theorem putArea_contexts {s : State} {a : Area} (h : a.park = false) (off : Nat) (bs : List Byte) :
    (s.putArea a off bs).contexts = s.contexts := by
  rw [State.putArea, h]
  exact contexts_of_offHome (writeNow_offHome ..)

theorem areaOf_reservation (s : State) (team : Nat) : (s.areaOf team false).park = false := rfl

theorem spillTiles_contexts (s : State) (team : Nat) (js : List Nat) : (s.spillTiles team js false).contexts = s.contexts := by
  unfold State.spillTiles
  extract_lets +onlyGivenNames t e a s1 bits s2 s3 k s4
  have hs1 : s1.contexts = s.contexts := foldl_keeps State.contexts (fun u j => putArea_contexts (areaOf_reservation s team) ..) js s
  have hs3 : s3.contexts = s.contexts :=
    (putArea_contexts (areaOf_reservation s team) ..).trans ((setTeam_contexts ..).trans hs1)
  have hs4 : s4.contexts = s.contexts := by
    unfold s4
    rw [if_neg Bool.false_ne_true]
    exact hs3
  have hring : (s4.releaseRing t.core).contexts = s4.contexts := by
    unfold State.releaseRing
    dsimp only
    split <;> rfl
  exact hring.trans hs4

theorem spillAll_contexts (s : State) : s.spillAll.contexts = s.contexts :=
  foldl_keeps State.contexts (fun _ _ => spillTiles_contexts ..) _ s

/-- A snapshot is written to the team's reservation (R260 step 2). -/
theorem saveTeam_snapshot_contexts (s : State) (team : Nat) : (s.saveTeam team 2).contexts = s.contexts := by
  unfold State.saveTeam
  extract_lets +onlyGivenNames t e park a s1 s2 s3
  have ha : a.park = false := rfl
  have hs1 : s1.contexts = s.contexts := putArea_contexts ha ..
  have hs2 : s2.contexts = s.contexts := (foldl_keeps State.contexts (fun _ _ => putArea_contexts ha ..) _ s1).trans hs1
  have hs3 : s3.contexts = s.contexts := by
    unfold s3
    split
    · exact hs2
    · exact (putArea_contexts ha ..).trans hs2
  exact hs3

/-! ## DEBUG_SNAPSHOT_DONE (R260) -/

/-- A context's groups stop at their boundaries (R260 step 1). -/
def State.haltGroups (s : State) (ctx : Nat) : State := (s.residentOf ctx).foldl (fun (x : State) k => x.stopGroups k .halt) s

/-- Those of some teams that have a group halted. -/
def State.haltedOf (s : State) (teams : List Nat) : List Nat :=
  teams.filter fun k => s.groups.any fun e => e.2.team == k && e.2.stop == .halt

/-- The lazily held tiles are spilled and the snapshots of some teams are written (R260 step 2, R266). -/
def State.snapshots (s : State) (teams : List Nat) : State :=
  teams.foldl (fun (x : State) k => (x.saveTeam k 2).setTeam k { x.teamAt k with snap := true }) s.spillAll

theorem snapshots_ctxAt (s : State) (teams : List Nat) (ctx : Nat) : (s.snapshots teams).ctxAt ctx = s.ctxAt ctx := by
  have hkeep : (s.snapshots teams).contexts = s.contexts :=
    Eq.trans (foldl_keeps State.contexts (fun u k => (setTeam_contexts ..).trans (saveTeam_snapshot_contexts u k)) teams s.spillAll)
      (spillAll_contexts s)
  rw [State.ctxAt, hkeep, State.ctxAt]

/-- HALTED is set in the context as its groups' stop has left it, without their places in its mailboxes' orders (R256, R408). -/
theorem execDebugSnapshotDone_stopped {s : State} {ctx : Nat} (hhalt : (s.ctxAt ctx).halt = true) (hnew : (s.ctxAt ctx).halted = false)
    (hstopped : ∀ e ∈ (s.haltGroups ctx).groups, ((s.haltGroups ctx).teamAt e.2.team).ctx = ctx → e.2.stop ≠ .none)
    (hidle : ∀ k ∈ (s.haltGroups ctx).haltedOf (s.residentOf ctx), (s.haltGroups ctx).scratchBusy k = false) :
    execDebugSnapshotDone ctx s = .next (((s.haltGroups ctx).snapshots ((s.haltGroups ctx).haltedOf (s.residentOf ctx))).setCtx ctx
      { (s.haltGroups ctx).ctxAt ctx with halted := true }) := by
  have hstill : ((s.haltGroups ctx).groups.any fun e => ((s.haltGroups ctx).teamAt e.2.team).ctx == ctx && e.2.stop == .none) = false :=
    List.any_eq_false.2 fun e he => by simpa using hstopped e he
  have hbusy : (((s.haltGroups ctx).haltedOf (s.residentOf ctx)).any (s.haltGroups ctx).scratchBusy) = false :=
    List.any_eq_false.2 fun k hk => by simpa using hidle k hk
  unfold execDebugSnapshotDone
  extract_lets +onlyGivenNames c teams u still mine v w
  rw [if_neg (by simp [c, hhalt, hnew]), if_neg]
  · rw [← snapshots_ctxAt (s.haltGroups ctx) ((s.haltGroups ctx).haltedOf (s.residentOf ctx))]
    rfl
  · rw [Bool.or_eq_true, not_or, Bool.not_eq_true, Bool.not_eq_true]
    exact ⟨hstill, hbusy⟩

/-! ## The statement -/

/-- A context under a debugger's halt, whose one group waits in its MRECV and stands first in mailbox 0's order (R408). -/
def mailHalted : State :=
  { State.reset with
    contexts := [(0, { halt := true, boxWaits := [(0, [(0, 0, 0)])] })]
    teams := [(0, { state := .resident })]
    groups := [(0, { split := [(0, { mask := fullMask, pc := 0, wait := .mrecv 0 2 0 })] })] }

theorem mailHalted_stopped :
    (∀ e ∈ (mailHalted.haltGroups 0).groups, ((mailHalted.haltGroups 0).teamAt e.2.team).ctx = 0 → e.2.stop ≠ .none) ∧
    (∀ k ∈ (mailHalted.haltGroups 0).haltedOf (mailHalted.residentOf 0), (mailHalted.haltGroups 0).scratchBusy k = false) := by
  decide +kernel

/-- The stop takes the group out of the mailbox's order, where it stood before. -/
theorem mailHalted_boxWaits : (mailHalted.ctxAt 0).boxWaits = [(0, [(0, 0, 0)])] ∧
    ((mailHalted.haltGroups 0).ctxAt 0).boxWaits = [(0, [])] := by
  decide +kernel

/-- Refutes O57: its clause on DEBUG_SNAPSHOT_DONE writes the context back as it was before the halt, but a group that stops in its MRECV
has left its mailbox's order by then. -/
theorem not_slotsAndParkingProceed : ¬ Obligations.SlotsAndParkingProceed := by
  unfold Obligations.SlotsAndParkingProceed
  rintro ⟨-, -, -, -, -, -, -, -, -, hsnapshot, -⟩
  obtain ⟨hstopped, hidle⟩ := mailHalted_stopped
  obtain ⟨v, hclaim, -⟩ := hsnapshot mailHalted 0 rfl rfl hstopped hidle
  have hnext := (execDebugSnapshotDone_stopped (s := mailHalted) (ctx := 0) rfl rfl hstopped hidle).symm.trans hclaim
  have hctx := congrArg (fun s : State => (s.ctxAt 0).boxWaits) (Host.Outcome.next.inj hnext)
  simp only [setCtx_ctxAt_self] at hctx
  obtain ⟨hbefore, hafter⟩ := mailHalted_boxWaits
  rw [hbefore, hafter] at hctx
  exact absurd hctx (by decide)

end Sys2Proof.Machine

/-! Where a home's answer is not what its statement says: a read of a fenced cluster (R195), and a DRAM read of no sector of its line (R161). -/
namespace Sys2Proof.Machine

/-! ## A read of a fenced cluster -/

/-- A module whose chiplet 0 is fenced, with a read of a core of it at slice 1, the home of line 16, which holds the line's sectors. -/
def fencedRead : State :=
  { State.reset with
    power := { fenced := 1 }
    ids := 6
    slices := [(1, { sectors := [(16, [1, 1, 1, 1])] })]
    accs := [(9, { core := 0, slot := 0, guid := 0, team := 0, ctx := 0, task := 0, pc := 0, op := .load, space := .mem, bytes := 4
                   lanes := [{ lane := 0, loc := .dev 0x1000 }], dst := 3, mask := 1, ldc := true, issued := 0 })]
    msgs := [(5, { kind := .read 9 16, core := 0, slice := 1, toSlice := true, avenue := false, sent := 0, stage := .arrived })] }

/-- Nothing is sent to a fenced cluster, and the access is forgotten with its last message (R195 step 3). -/
theorem fencedRead_forgotten : tget? (fencedRead.serveHome 5).accs 9 = none := by decide +kernel

/-- Refutes O44: its clause on a read that is served keeps the access and its lanes' values, but the access of a fenced cluster is
forgotten as its read is served. -/
theorem not_homesServeRequests : ¬ Obligations.HomesServeRequests := by
  unfold Obligations.HomesServeRequests
  rintro ⟨-, -, hserved, -⟩
  obtain ⟨-, -, -, b, hkept, -⟩ := hserved fencedRead 5 _ 9 16 _ rfl rfl rfl (by decide) (by decide +kernel) (by decide +kernel)
    (by decide +kernel) (by decide +kernel)
  exact Option.some_ne_none b (hkept.symm.trans fencedRead_forgotten)

/-! ## A DRAM read of no sector of its line -/

/-- A module whose controller 1 holds a read of sector 4 of line 16, which slice 1 is bringing in: it counts as sector 68, which is the
first of line 17 and is poisoned. Context 0 has a started grid, and a record ring at 0x8000. -/
def strayRead : State :=
  { State.reset with
    mem := [(0x10000, 1), (0x10001, 0x10), (0x10002, 1), (0x11000, 0x8F), (0x11001, 7)]
    poison := [68]
    slices := [(1, { misses := [16] })]
    grids := [(0, {})]
    controllers := [(1, { reads := [⟨16, 4, 1, 0, 0⟩] })]
    contexts := [(0, { en := true, ptb := 0x10000, hbase := 0x1000, rqb := 0x8000 })] }

/-- A byte of memory after a step. -/
def byteAfter (o : Host.Outcome State Fault Refusal) (a : Nat) : Option Byte :=
  match o with
  | .next t => some (cget t.mem a)
  | _ => none

/-- Line 17 enters the bad-line table, and the context is told in its ring (R193, R194). -/
theorem strayRead_told : byteAfter (exec (.dramReadReturn ⟨16, 0⟩) strayRead) 0x8000 = some 0x47 := by decide +kernel

/-- Refutes O45: its clause on DRAM_READ_RETURN supposes no poison in the line's four sectors, but does not say that the controller's
read is of one of them; that of another may be poisoned, and then the record of a bad line is written to memory. -/
theorem not_tokensAndDramGoOn : ¬ Obligations.TokensAndDramGoOn := by
  unfold Obligations.TokensAndDramGoOn
  rintro ⟨-, -, -, -, -, -, -, -, -, hreturn, -⟩
  obtain ⟨t, hnext, hmem, -⟩ := hreturn strayRead 16 ⟨16, 4, 1, 0, 0⟩ (by decide +kernel) rfl (by decide +kernel) (by decide +kernel)
    (by decide +kernel)
  have htold := strayRead_told
  rw [hnext] at htold
  have hstill : byteAfter (.next t) 0x8000 = some 0 := by rw [byteAfter, hmem]; decide +kernel
  exact absurd (htold.symm.trans hstill) (by decide)

end Sys2Proof.Machine

/-! What an engine's chunk does: events that may have to wait, and copies inside a scratchpad (R163, R242, R424). -/
namespace Sys2Proof.Machine

/-! ## Events of units that may have to wait (R85, R158, R159) -/

theorem attempt_done {s : State} {payer : Option Nat} {f : State → State} (hneeds : (f { s with needs := some [] }).needs = some [])
    (hroom : s.overfills (f { s with needs := some [] }) = false) : s.attempt payer f = { f { s with needs := some [] } with needs := none } := by
  simp only [State.attempt, hneeds, hroom, Bool.false_eq_true, if_false]

theorem attempt_lacks {s : State} {payer : Option Nat} {f : State → State} {l : Lack} {ls : List Lack}
    (hneeds : (f { s with needs := some [] }).needs = some (l :: ls)) :
    s.attempt payer f = (l :: ls).foldl (fun s x => s.begin payer x) s := by
  simp only [State.attempt, hneeds]

/-! ## A chunk of a copy engine (R163) -/

/-- With one stream active, the engine's order is that stream, wherever its pointer stands. -/
theorem execCopyChunk_single {s : State} {engine k id : Nat} {o : EngineOp} (hactive : (tgetD s.engines engine {}).active = [k])
    (hfind : (s.ops.find? fun e => e.2.engine == some engine && e.2.stream e.1 == k && e.2.canStep) = some (id, o)) :
    execCopyChunk engine s = .next (s.attempt (s.opPayer o) fun u => u.serveStream engine id o 0) := by
  have horder : ([k].zipIdx.drop (tgetD s.engines engine {}).pointer ++ [k].zipIdx.take (tgetD s.engines engine {}).pointer) = [(k, 0)] := by
    cases (tgetD s.engines engine {}).pointer <;> simp
  simp only [execCopyChunk, hactive, horder, List.findSome?_cons, hfind, Option.map_some]

/-! ## A copy inside a scratchpad (R242, R424) -/

theorem cread_length (m : List Host.Cell) (a n : Nat) : (cread m a n).length = n := by simp [cread]

/-- Whichever moment an element is read at, it is the same where the source has not changed. -/
theorem mixRead_same (n w : Nat) (bs : List Byte) : mixRead n w (bs.map some) bs = bs := by
  refine List.ext_getElem (by simp [mixRead]) fun i h1 h2 => ?_
  simp [mixRead, List.getD, h2]

/-- The operation of a number replaced, with the next free value taken. -/
def State.putOp (s : State) (id : Nat) (o : EngineOp) : State := { s with free := s.free + 1, ops := tset s.ops id o }

@[simp] theorem putOp_op (s : State) (id : Nat) (o : EngineOp) : tget? (s.putOp id o).ops id = some o := tget?_tset_self ..

theorem putOp_of_tmod {s : State} {id : Nat} {o : EngineOp} (hop : tget? s.ops id = some o) (f : EngineOp → EngineOp) :
    ({ s with free := s.free + 1, ops := tmod s.ops id f } : State) = s.putOp id (f o) := by
  simp only [State.putOp, tmod, hop]

section
variable {s : State} {id : Nat} {o : EngineOp} (hop : tget? s.ops id = some o) {src dst n w : Nat} (toScr : Bool) (room : Nat)
include hop

theorem opMove_samples (hheld : o.held = []) (hearly : o.early = []) :
    s.opMove id o true toScr src dst n w room = (s.putOp id { o with early := (s.opScratch o src n).map some }, 0) := by
  simp only [State.opMove, hheld, hearly, BEq.rfl, if_true, putOp_of_tmod hop, State.opSample]

theorem opMove_reads (hheld : o.held = []) (hsome : 0 < n) (hearly : o.early = (s.opScratch o src n).map some) :
    s.opMove id o true toScr src dst n w room = (s.putOp id { o with early := [], held := s.opScratch o src n }, 0) := by
  have hne : o.early ≠ [] := fun h => by simpa [hearly, State.opScratch, cread_length, hsome.ne'] using congrArg List.length h
  simp only [State.opMove, hheld, BEq.rfl, if_true, beq_iff_eq, hne, if_false, putOp_of_tmod hop]
  rw [hearly, mixRead_same]

end

/-- Pieces of bytes put into a team's scratchpad from an offset on. -/
def State.putPieces (s : State) (team dst : Nat) (l : List (Nat × List Byte)) : State :=
  l.foldl (fun s p => s.scratchWrite team (dst + p.1) p.2) s

@[simp] theorem putPieces_mem (s : State) (team dst : Nat) (l : List (Nat × List Byte)) : (s.putPieces team dst l).mem = s.mem :=
  foldl_keeps State.mem (f := fun (s : State) (p : Nat × List Byte) => s.scratchWrite team (dst + p.1) p.2) (fun _ _ => rfl) l s

@[simp] theorem putPieces_ops (s : State) (team dst : Nat) (l : List (Nat × List Byte)) : (s.putPieces team dst l).ops = s.ops :=
  foldl_keeps State.ops (f := fun (s : State) (p : Nat × List Byte) => s.scratchWrite team (dst + p.1) p.2) (fun _ _ => rfl) l s

theorem putPieces_scratch (s : State) (team dst : Nat) (l : List (Nat × List Byte)) :
    ((s.putPieces team dst l).teamAt team).scratch = l.foldl (fun m p => cwrite m (dst + p.1) p.2) (s.teamAt team).scratch := by
  induction l generalizing s with
  | nil => rfl
  | cons p l ih => exact (ih _).trans (by simp [State.scratchWrite])

theorem opPut_scratchpad (s : State) (id : Nat) (o : EngineOp) (dst w seed : Nat) (first : Bool) (bs : List Byte) :
    s.opPut id o true dst w seed first bs = (s.putPieces o.team dst (halfOf seed w 0 first bs), true) := rfl

section
variable {s : State} {id : Nat} {o : EngineOp} (hop : tget? s.ops id = some o) {src dst n w : Nat} {room : Nat}
include hop

theorem opMove_firstHalf (hheld : o.held ≠ []) (hhalf : o.half = none) (hroom : o.held.length ≤ room) :
    s.opMove id o true true src dst n w room =
      ((s.putPieces o.team dst (halfOf s.free w 0 true o.held)).putOp id { o with half := some (s.free, o.held.length) }, 0) := by
  have hop' := (congrArg (tget? · id) (putPieces_ops s o.team dst (halfOf s.free w 0 true o.held))).trans hop
  simp only [State.opMove, beq_iff_eq, hheld, if_false, hhalf, Nat.min_eq_right hroom, List.take_length, opPut_scratchpad, putOp_of_tmod hop']

theorem opMove_secondHalf {seed : Nat} (hheld : o.held ≠ []) (hhalf : o.half = some (seed, o.held.length)) :
    s.opMove id o true true src dst n w room =
      ((s.putPieces o.team dst (halfOf seed w 0 false o.held)).putOp id { o with held := [], half := none }, o.held.length) := by
  have hop' := (congrArg (tget? · id) (putPieces_ops s o.team dst (halfOf seed w 0 false o.held))).trans hop
  simp only [State.opMove, beq_iff_eq, hheld, if_false, hhalf, List.take_length, opPut_scratchpad, putOp_of_tmod hop', List.drop_length]

end

/-- Pieces that agree with a function of their offsets give each byte that they cover its value there. -/
theorem cget_foldl_cwrite {l : List (Nat × List Byte)} {f : Nat → Byte} (hf : ∀ p ∈ l, ∀ i, i < p.2.length → p.2.getD i 0 = f (p.1 + i))
    {m : List Host.Cell} (hwf : Memory.wf m = true) (dst a : Nat) :
    cget (l.foldl (fun m p => cwrite m (dst + p.1) p.2) m) a =
      if ∃ p ∈ l, dst + p.1 ≤ a ∧ a < dst + p.1 + p.2.length then f (a - dst) else cget m a := by
  induction l generalizing m with
  | nil => simp
  | cons p l ih =>
    rw [List.foldl_cons, ih (fun q hq => hf q (List.mem_cons_of_mem _ hq)) (cwrite_wf m _ _ hwf)]
    by_cases hlater : ∃ q ∈ l, dst + q.1 ≤ a ∧ a < dst + q.1 + q.2.length
    · rw [if_pos hlater, if_pos (hlater.imp fun q hq => ⟨List.mem_cons_of_mem _ hq.1, hq.2⟩)]
    · rw [if_neg hlater]
      by_cases hin : dst + p.1 ≤ a ∧ a < dst + p.1 + p.2.length
      · obtain ⟨i, rfl⟩ := Nat.exists_eq_add_of_le hin.1
        have hi : i < p.2.length := by omega
        rw [cget_cwrite_inside _ hwf hi, if_pos ⟨p, List.mem_cons_self .., hin⟩, hf p (List.mem_cons_self ..) i hi]
        congr 1
        omega
      · rw [cget_cwrite_outside _ _ _ _ hwf (by omega), if_neg]
        rintro ⟨q, hq, hqa⟩
        rcases List.mem_cons.1 hq with rfl | hq
        · exact hin hqa
        · exact hlater ⟨q, hq, hqa⟩

section
variable {seed w : Nat} {bs : List Byte}

theorem mem_halfOf {first : Bool} {p : Nat × List Byte} : p ∈ halfOf seed w 0 first bs ↔
    ∃ i, i < bs.length / w ∧ Config.freeBit seed (0 / w + i) = first ∧ (w * i, (bs.drop (w * i)).take w) = p := by
  simp [halfOf, and_assoc]

theorem halfOf_byte {first : Bool} {p : Nat × List Byte} (hp : p ∈ halfOf seed w 0 first bs) (i : Nat) (hi : i < p.2.length) :
    p.2.getD i 0 = bs.getD (p.1 + i) 0 := by
  obtain ⟨k, -, -, rfl⟩ := mem_halfOf.1 hp
  rw [List.length_take] at hi
  simp only [List.getD, List.getElem?_take, List.getElem?_drop, if_pos (Nat.lt_of_lt_of_le hi (Nat.min_le_left ..))]

theorem halfOf_inside {first : Bool} {p : Nat × List Byte} (hp : p ∈ halfOf seed w 0 first bs) : p.1 + p.2.length ≤ bs.length := by
  obtain ⟨k, hk, -, rfl⟩ := mem_halfOf.1 hp
  have : w * k ≤ bs.length := (Nat.mul_le_mul_left w hk.le).trans (Nat.mul_div_le ..)
  simp only [List.length_take, List.length_drop]
  omega

/-- Every byte of a whole number of elements is in one of the two halves. -/
theorem halfOf_covers (hw : 0 < w) (hdiv : w ∣ bs.length) {j : Nat} (hj : j < bs.length) :
    ∃ first, ∃ p ∈ halfOf seed w 0 first bs, p.1 ≤ j ∧ j < p.1 + p.2.length := by
  have hk : j / w < bs.length / w := Nat.div_lt_div_of_lt_of_dvd hdiv hj
  refine ⟨_, _, mem_halfOf.2 ⟨j / w, hk, rfl, rfl⟩, Nat.mul_div_le j w, ?_⟩
  have hlast : w * (j / w) + w ≤ bs.length := by
    calc w * (j / w) + w = w * (j / w + 1) := rfl
      _ ≤ w * (bs.length / w) := Nat.mul_le_mul_left w hk
      _ ≤ bs.length := Nat.mul_div_le ..
  have hnext := Nat.lt_mul_div_succ j hw
  rw [Nat.mul_succ] at hnext
  simp only [List.length_take, List.length_drop]
  omega

end

/-- Once both halves of a whole number of elements are written, every byte is there, and no other has changed. -/
theorem cget_bothHalves {seed w : Nat} {bs : List Byte} (hw : 0 < w) (hdiv : w ∣ bs.length) {m : List Host.Cell} (hwf : Memory.wf m = true)
    (dst a : Nat) :
    cget ((halfOf seed w 0 false bs).foldl (fun m p => cwrite m (dst + p.1) p.2)
      ((halfOf seed w 0 true bs).foldl (fun m p => cwrite m (dst + p.1) p.2) m)) a =
      if dst ≤ a ∧ a < dst + bs.length then bs.getD (a - dst) 0 else cget m a := by
  have hwf' : Memory.wf ((halfOf seed w 0 true bs).foldl (fun m p => cwrite m (dst + p.1) p.2) m) = true :=
    List.foldlRecOn (motive := fun m => Memory.wf m = true) _ _ hwf fun m hm p _ => cwrite_wf m _ _ hm
  rw [cget_foldl_cwrite (f := fun j => bs.getD j 0) (fun p hp => halfOf_byte hp) hwf',
    cget_foldl_cwrite (f := fun j => bs.getD j 0) (fun p hp => halfOf_byte hp) hwf]
  by_cases hin : dst ≤ a ∧ a < dst + bs.length
  · obtain ⟨j, rfl⟩ := Nat.exists_eq_add_of_le hin.1
    obtain ⟨first, p, hp, hlow, hhigh⟩ := halfOf_covers (seed := seed) hw hdiv (j := j) (by omega)
    have hcover : ∃ p ∈ halfOf seed w 0 first bs, dst + p.1 ≤ dst + j ∧ dst + j < dst + p.1 + p.2.length :=
      ⟨p, hp, by omega, by omega⟩
    rw [if_pos hin]
    cases first with
    | false => rw [if_pos hcover]
    | true => rw [if_pos hcover, ite_self]
  · have hnone (first : Bool) : ¬ ∃ p ∈ halfOf seed w 0 first bs, dst + p.1 ≤ a ∧ a < dst + p.1 + p.2.length := by
      rintro ⟨p, hp, hlow, hhigh⟩
      have := halfOf_inside hp
      omega
    rw [if_neg (hnone false), if_neg (hnone true), if_neg hin]

section
variable {s t : State} {id dst src len room : Nat} {o : EngineOp} (hkind : o.kind = .cpy true true dst src len)
include hkind

/-- The piece of its source that a copy inside a scratchpad reads next. -/
theorem opStep_moves (hmove : s.opMove id o true true (src + o.units) (dst + o.units) (min (4096 - o.units % 4096) (len - o.units)) 4 room =
    (t, 0)) : s.opStep id o room = (t, 0) := by
  simp only [State.opStep, hkind, OpKind.total, hmove, BEq.rfl, if_true]

theorem opStep_moved {k : Nat} (hk : k ≠ 0)
    (hmove : s.opMove id o true true (src + o.units) (dst + o.units) (min (4096 - o.units % 4096) (len - o.units)) 4 room = (t, k)) :
    s.opStep id o room = (t.opDid id k, k) := by
  simp only [State.opStep, hkind, OpKind.total, hmove, beq_iff_eq, hk, if_false]

variable (hop : tget? s.ops id = some o)
include hop

/-- A copy inside a scratchpad reads a piece of its source at two moments (R242). -/
theorem opStep_reads_piece (hheld : o.held = []) (hmore : o.units < len) :
    let bs := cread (s.teamAt o.team).scratch (src + o.units) (min (4096 - o.units % 4096) (len - o.units))
    (o.early = [] → s.opStep id o room = (s.putOp id { o with early := bs.map some }, 0)) ∧
    (o.early = bs.map some → s.opStep id o room = (s.putOp id { o with early := [], held := bs }, 0)) :=
  ⟨fun hearly => opStep_moves hkind (opMove_samples hop true room hheld hearly),
   fun hearly => opStep_moves hkind (opMove_reads hop true room hheld (by omega) hearly)⟩

/-- A copy inside a scratchpad writes the piece that it holds in two goes (R242). -/
theorem opStep_writes_piece (hheld : o.held ≠ []) (hhalf : o.half = none) (hwhole : o.held.length % 4 = 0) (hroom : o.held.length ≤ room)
    (hwf : Memory.wf (s.teamAt o.team).scratch = true) :
    ∃ t p, s.opStep id o room = (t, 0) ∧ tget? t.ops id = some p ∧
      ∃ u, t.opStep id p room = (u, o.held.length) ∧ u.mem = s.mem ∧
        tget? u.ops id = some { o with units := o.units + o.held.length, held := [], buf := [] } ∧
        ∀ a, cget (u.teamAt o.team).scratch a = if dst + o.units ≤ a ∧ a < dst + o.units + o.held.length
          then o.held.getD (a - (dst + o.units)) 0 else cget (s.teamAt o.team).scratch a := by
  refine ⟨_, _, opStep_moves hkind (opMove_firstHalf hop hheld hhalf hroom), putOp_op .., _,
    opStep_moved (o := { o with half := some (s.free, o.held.length) }) hkind (List.length_pos_iff.2 hheld).ne'
      (opMove_secondHalf (putOp_op ..) hheld rfl), ?_, ?_, fun a => ?_⟩
  · exact (putPieces_mem ..).trans (putPieces_mem ..)
  · simp [State.opDid, tget?_tmod_self, hhalf]
  · rw [← cget_bothHalves (seed := s.free) (w := 4) (by decide) (Nat.dvd_of_mod_eq_zero hwhole) hwf, ← putPieces_scratch]
    exact congrArg (cget · a) (putPieces_scratch ..)

end

end Sys2Proof.Machine

/-! Completions of engine operations and of the matrix array, and the collectives of a device (R164 to R168, R222, R225, R416, R441). -/
namespace Sys2Proof.Machine

/-! ## What the advance of batch numbers leaves alone (R403, R416) -/

/-- A state without what the Plaza may change: groups, teams and the distributor. -/
def State.offPlaza (s : State) : State := { s with groups := [], teams := [], dist := {} }

theorem wakeParked_offPlaza (s : State) (team : Nat) : (s.wakeParked team).offPlaza = s.offPlaza := by
  simp only [State.wakeParked]
  split
  · exact foldl_keeps State.offPlaza (f := fun (s : State) k => s.setTeam k { s.teamAt k with state := .queued, restore := true })
      (fun _ _ => rfl) _ s
  · rfl

theorem firePlaza_offPlaza (s : State) : s.firePlaza.offPlaza = s.offPlaza := by
  simp only [State.firePlaza]
  exact foldl_keeps State.offPlaza wakeParked_offPlaza _ _

theorem modGroup_offPlaza (s : State) (guid : Nat) (f : Group → Group) : (s.modGroup guid f).offPlaza = s.offPlaza := by
  simp only [State.modGroup]
  split
  · rfl
  · split <;> rfl

theorem advanceBatches_offPlaza (s : State) (guid cls : Nat) : (s.advanceBatches guid cls).offPlaza = s.offPlaza := by
  simp only [State.advanceBatches]
  split
  · rfl
  · exact (firePlaza_offPlaza ..).trans (modGroup_offPlaza ..)

theorem mem_of_offPlaza {s t : State} (h : s.offPlaza = t.offPlaza) : s.mem = t.mem :=
  show s.offPlaza.mem = t.offPlaza.mem from congrArg State.mem h

theorem ops_of_offPlaza {s t : State} (h : s.offPlaza = t.offPlaza) : s.ops = t.ops :=
  show s.offPlaza.ops = t.offPlaza.ops from congrArg State.ops h

theorem cores_of_offPlaza {s t : State} (h : s.offPlaza = t.offPlaza) : s.cores = t.cores :=
  show s.offPlaza.cores = t.offPlaza.cores from congrArg State.cores h

/-! ## Completions (R416) -/

section
variable {s : State} {id : Nat} {o : EngineOp} (hop : tget? s.ops id = some o)
include hop

theorem dropOp_offPlaza : (s.dropOp id).offPlaza = ({ s with ops := tdel s.ops id } : State).offPlaza := by
  simp only [State.dropOp, hop]
  split
  · next targets _ =>
    have hteams := foldl_keeps State.offPlaza (f := fun (s : State) k => s.setTeam k { s.teamAt k with inbound := (s.teamAt k).inbound - 1 })
      (fun _ _ => rfl) targets s
    exact congrArg (fun u : State => { u with ops := tdel u.ops id }) hteams
  · rfl

theorem opDone_offPlaza : (s.opDone id).offPlaza = ({ s with ops := tdel s.ops id } : State).offPlaza := by
  simp only [State.opDone, hop]
  exact (advanceBatches_offPlaza ..).trans (dropOp_offPlaza hop)

theorem opRead'_offPlaza : (s.opRead' id).offPlaza = ({ s with ops := tset s.ops id { o with rDone := true } } : State).offPlaza := by
  simp only [State.opRead', hop]
  exact advanceBatches_offPlaza ..

theorem opDone_completes : (s.opDone id).mem = s.mem ∧ tget? (s.opDone id).ops id = none ∧ (s.opDone id).cores = s.cores := by
  have hdone := opDone_offPlaza hop
  exact ⟨(mem_of_offPlaza hdone).trans rfl, (congrArg (tget? · id) (ops_of_offPlaza hdone)).trans (tget?_tdel_self ..),
    (cores_of_offPlaza hdone).trans rfl⟩

theorem opRead'_reads : (s.opRead' id).mem = s.mem ∧ tget? (s.opRead' id).ops id = some { o with rDone := true } := by
  have hread := opRead'_offPlaza hop
  exact ⟨(mem_of_offPlaza hread).trans rfl, (congrArg (tget? · id) (ops_of_offPlaza hread)).trans (tget?_tset_self ..)⟩

theorem execEngineOperationComplete_eq :
    execEngineOperationComplete id s = .next (s.attempt (s.opPayer o) fun u => u.completeOp id o) := by
  simp only [execEngineOperationComplete, hop]

theorem execTileComplete_due (harray : o.kind.array = true) (htaken : o.accepted.isSome = true) (hdue : o.finish ≤ s.time) :
    execTileComplete id s = .next (s.opDone id) := by
  simp [execTileComplete, hop, harray, htaken, hdue]

end

section
variable {s : State} {id dst src len : Nat} {o : EngineOp} {fromScr toScr : Bool} (hkind : o.kind = .cpy fromScr toScr dst src len)
  (hlive : o.ended = false) (hruns : o.stalled = false) (hreads : o.reads = 0)
include hkind hlive hruns hreads

theorem completeOp_copy : s.completeOp id o = s.copyDone id o := by
  simp [State.completeOp, hlive, hruns, hreads, hkind]

variable (hread : len ≤ o.units + o.held.length)
include hread

/-- Its source is read: a copy's first completion. -/
theorem completeOp_copy_read (hfirst : o.rDone = false) : s.completeOp id o = s.opRead' id := by
  rw [completeOp_copy hkind hlive hruns hreads]
  simp [State.copyDone, EngineOp.unread, hkind, OpKind.total, hread, hfirst]

/-- Everything is written: its second. -/
theorem completeOp_copy_done (hsecond : o.rDone = true) (hall : len ≤ o.units) (hbulk : o.bulk = 0) : s.completeOp id o = s.opDone id := by
  rw [completeOp_copy hkind hlive hruns hreads]
  simp [State.copyDone, EngineOp.unread, hkind, OpKind.total, Nat.not_lt.2 hread, hsecond, Nat.not_lt.2 hall, hbulk]

end

/-! ## The matrix array (R222, R437) -/

/-- What a cluster's doubling and a count leave as it is, vertical exclusion leaves so (R95). -/
theorem exclude_keeps {β : Type} (view : State → β) (hcluster : ∀ (s : State) (n : Nat) (x : Cluster), view (s.setCluster n x) = view s)
    (hcount : ∀ (s : State) (k : Tbl EventCounter), view { s with counters := k } = view s) (s : State) (cluster : Nat) :
    view (s.exclude cluster) = view s := by
  simp only [State.exclude]
  split
  · rfl
  · refine (foldl_keeps view (fun u n => ?_) _ _).trans (hcluster ..)
    obtain ⟨k, h⟩ := tally_eq u (384 + n) 8 1
    rw [h, hcount]

theorem execMatrixAccept_takes {s : State} {core id : Nat} {o : EngineOp} (hfree : ((s.exclude (core / 8)).core core).matrix.busyUntil ≤ s.time)
    (hnext : (s.exclude (core / 8)).nextArray core = some id) (hop : tget? (s.exclude (core / 8)).ops id = some o) (hlive : o.ended = false) :
    execMatrixAccept core s = .next ((s.exclude (core / 8)).acceptOp core id o) := by
  have htime : (s.exclude (core / 8)).time = s.time := exclude_keeps State.time (fun _ _ _ => rfl) (fun _ _ => rfl) ..
  simp only [execMatrixAccept, htime, if_neg (Nat.not_lt.2 hfree), hnext, hop, hlive, Bool.false_eq_true, if_false]

/-- A tile with zeros where both halves of a mask select, its rows and its columns (R437). -/
def clearTile (mask : W64) (tile : List W32) : List W32 :=
  tile.zipIdx.map fun (x, n) => if mask.getLsbD (n / 32) && mask.getLsbD (32 + n % 32) then 0 else x

theorem clearTile_getD (mask : W64) (tile : List W32) (n : Nat) :
    (clearTile mask tile).getD n 0 = if mask.getLsbD (n / 32) && mask.getLsbD (32 + n % 32) then 0 else tile.getD n 0 := by
  by_cases hn : n < tile.length <;> simp [clearTile, List.getD, hn]

section
variable {s : State} {core id tile : Nat} {mask : W64} {o : EngineOp} (hkind : o.kind = .accnext tile mask)
include hkind

/-- The array takes an ACCNEXT: beside it, only its core and the counters change. -/
theorem acceptOp_accnext : ∃ m k, s.acceptOp core id o = { s.setCore core
      { (s.core core).setTile tile (mixTile s.free o.overMask (tgetD (s.core core).ring tile zeroTile)
          (clearTile mask (tgetD (s.core core).ring tile zeroTile))) with matrix := m } with
    counters := k
    free := s.free + 1
    ops := tset s.ops id { o with accepted := some s.time, finish := s.time + 2 * s.cyc core + 24 * s.cyc core
                                  prior := tgetD (s.core core).ring tile zeroTile } } := by
  simp only [State.acceptOp, hkind, OpKind.base, OpKind.tile, BEq.rfl, if_true, bne_self_eq_false, Bool.false_and, Bool.false_eq_true,
    if_false, Option.getD_some, State.arrayTile]
  generalize hu : s.setCore core _ = u
  obtain ⟨k, h⟩ := tally_eq u core 8 0
  rw [h, ← hu]
  exact ⟨_, k, rfl⟩

theorem acceptOp_accnext_ring (hover : o.overMask = 0) : ((s.acceptOp core id o).core core).ring =
    tset (s.core core).ring tile (clearTile mask (tgetD (s.core core).ring tile zeroTile)) := by
  obtain ⟨m, k, h⟩ := acceptOp_accnext (s := s) (core := core) (id := id) hkind
  rw [h, hover]
  exact congrArg Core.ring (core_setCore_self ..)

theorem acceptOp_accnext_tile (hover : o.overMask = 0) (n : Nat) : (s.acceptOp core id o).tileAt core tile n =
    if mask.getLsbD (n / 32) && mask.getLsbD (32 + n % 32) then 0 else s.tileAt core tile n := by
  rw [State.tileAt, acceptOp_accnext_ring hkind hover, tgetD_tset_self, clearTile_getD, State.tileAt]

theorem acceptOp_accnext_tile_of_ne (hover : o.overMask = 0) {k : Nat} (h : k ≠ tile) (n : Nat) :
    (s.acceptOp core id o).tileAt core k n = s.tileAt core k n := by
  rw [State.tileAt, acceptOp_accnext_ring hkind hover, tgetD_tset_of_ne _ _ _ h, State.tileAt]

theorem acceptOp_accnext_op : tget? (s.acceptOp core id o).ops id =
    some { o with accepted := some s.time, finish := s.time + 2 * s.cyc core + 24 * s.cyc core
                  prior := tgetD (s.core core).ring tile zeroTile } := by
  obtain ⟨m, k, h⟩ := acceptOp_accnext (s := s) (core := core) (id := id) hkind
  rw [h]
  exact tget?_tset_self ..

end

/-! ## The epilogue engine (R225, R438) -/

/-- A core whose epilogue engine has taken the first request of its queue. -/
def Core.epiTaken (k : Core) (rest : List Nat) (until' : Nat) : Core := { k with matrix := { k.matrix with epi := rest, epiBusyUntil := until' } }

@[simp] theorem setCore_setCore (s : State) (n : Nat) (x y : Core) : (s.setCore n x).setCore n y = s.setCore n y := by
  simp [State.setCore]

/-- The block of an EPI comes from its core's ring, which the engine leaves as it is. -/
theorem epiBlock_epiTaken (s : State) (core : Nat) (rest : List Nat) (until' tile ofmt act : Nat) (sat : Bool) (scale : W32) :
    (s.setCore core ((s.core core).epiTaken rest until')).epiBlock core tile ofmt act sat scale = s.epiBlock core tile ofmt act sat scale := by
  simp only [State.epiBlock, State.tileAt, core_setCore_self, Core.epiTaken]

theorem execEpiStart_ready {s : State} {core id tile dst pitch ofmt act : Nat} {toScr sat : Bool} {scale : W32} {rest : List Nat} {o : EngineOp}
    (hqueue : (s.core core).matrix.epi = id :: rest) (hop : tget? s.ops id = some o)
    (hkind : o.kind = .epi toScr tile dst pitch ofmt act sat scale) (hlive : o.ended = false)
    (hfree : (s.core core).matrix.epiBusyUntil ≤ s.time)
    (hearlier : ∀ e ∈ s.ops, ¬ (e.1 < id ∧ e.2.guid = o.guid ∧ e.2.kind.array = true ∧ e.2.kind.tile = some tile ∧ e.2.vDone = false))
    (hwritten : tgetD (s.core core).matrix.accwr tile 0 ≤ s.time) :
    execEpiStart core s = .next { s.setCore core ((s.core core).epiTaken rest (s.time + 68 * s.cyc core)) with
      ops := tset s.ops id { o with accepted := some s.time, finish := s.time + 68 * s.cyc core
                                    buf := cwrite [] 0 (s.epiBlock core tile ofmt act sat scale) } } := by
  have hnone : (s.ops.any fun (j, p) => j < id && p.guid == o.guid && p.kind.array && p.kind.tile == some tile && !p.vDone) = false :=
    List.any_eq_false.2 fun e he => by simpa [and_assoc] using hearlier e he
  have hready : (decide (s.time < (s.core core).matrix.epiBusyUntil) || false || decide (s.time < tgetD (s.core core).matrix.accwr tile 0)) = false := by
    simp [hfree, hwritten]
  simp only [execEpiStart, hqueue, hop, hkind, hlive, hnone, hready, Bool.false_eq_true, if_false, core_setCore_self, setCore_setCore]
  rw [← epiBlock_epiTaken s core rest (s.time + 68 * s.cyc core)]
  rfl

/-! ## The junction tree (R164, R166, R168) -/

section
variable {s : State} {k k' pos id level index : Nat} {m : Msg} {data : List W32} {c : Coll} (hcome : s.reduction k pos = some (id, m))
  (hkind : m.kind = .reduce k' level index data) (hcoll : tget? s.colls k = some c)
include hcome hkind hcoll

theorem execJunctionArrival_over (hover : c.ended = true ∨ c.failedAt ≠ none) : execJunctionArrival k pos s = .next (s.dropMsg id) := by
  have hover : (c.ended || c.failedAt.isSome) = true := by simpa [Option.isSome_iff_ne_none] using hover
  simp only [execJunctionArrival, hcome, hkind, hcoll, hover, if_true]

theorem execJunctionArrival_moved (hlive : c.ended = false) (hgood : c.failedAt = none) (helse : m.slice ≠ s.reduceAt c level index) :
    execJunctionArrival k pos s =
      .next ((s.dropMsg id).sendBase (.reduce k' level index data) m.slice (s.reduceAt c level index)) := by
  simp [execJunctionArrival, hcome, hkind, hcoll, hlive, hgood, helse]

theorem execJunctionArrival_there (hlive : c.ended = false) (hgood : c.failedAt = none) (hhere : m.slice = s.reduceAt c level index) :
    execJunctionArrival k pos s = .next (s.attempt c.payer fun u => (u.dropMsg id).climb k c level index data m.slice) := by
  simp [execJunctionArrival, hcome, hkind, hcoll, hlive, hgood, ← hhere]

end

section
variable {s : State} {k level index here : Nat} {data : List W32} {c : Coll}

theorem climb_top (htop : nodesAt c.n level ≤ 1) :
    s.climb k c level index data here = (s.setColl k { c with device := some data }).collStep k := if_pos htop

variable (hinner : 1 < nodesAt c.n level)
include hinner

theorem climb_joined {x : NodeSum} (hsib : (c.sums.find? fun y => y.level == level && y.index == (if index % 2 == 0 then index + 1 else index - 1)) = some x) :
    s.climb k c level index data here =
      (s.setColl k { c with sums := c.sums.filter fun y => y != x }).forward k { c with sums := c.sums.filter fun y => y != x } (level + 1)
        (index / 2) (if index % 2 == 0 then addNodes data x.data else addNodes x.data data) here := by
  simp only [State.climb, if_neg (Nat.not_le.2 hinner), hsib]

theorem climb_waits (hsib : (c.sums.find? fun y => y.level == level && y.index == (if index % 2 == 0 then index + 1 else index - 1)) = none)
    (hunparked : c.parked = false) (hroom : s.buffersAt (junctionSlice level index) < 64) :
    s.climb k c level index data here =
      s.setColl k { c with sums := c.sums ++ [{ level := level, index := index, data := data, since := s.time }] } := by
  simp only [State.climb, if_neg (Nat.not_le.2 hinner), hsib, hunparked, ge_iff_le, Nat.not_le.2 hroom, decide_false, Bool.or_false, Bool.false_eq_true, if_false]

end

theorem execPartialParkTimeout_due {s : State} {k level index : Nat} {c : Coll} {x : NodeSum} (hcoll : tget? s.colls k = some c)
    (hx : x ∈ c.sums) (hlevel : x.level = level) (hindex : x.index = index) (hunparked : x.parked = false)
    (hdue : x.since + 100 * usec ≤ s.time) : execPartialParkTimeout k level index s = .next (s.parkColl k) := by
  have hany : (c.sums.any fun x => x.level == level && x.index == index && !x.parked && x.since + 100 * usec ≤ s.time) = true :=
    List.any_eq_true.2 ⟨x, hx, by simp [hlevel, hindex, hunparked, hdue]⟩
  simp only [execPartialParkTimeout, hcoll, hany, if_true]

theorem parkColl_room {s : State} {k : Nat} {c : Coll} (hcoll : tget? s.colls k = some c)
    (hroom : s.partialsAt (s.homeOf c.dst) + (c.sums.filter fun y => !y.parked).length ≤ 1024) :
    s.parkColl k = s.setColl k { c with sums := c.sums.map (fun y => { y with parked := true }), parked := true } := by
  simp only [State.parkColl, hcoll, if_neg (Nat.not_lt.2 hroom)]

theorem execRoundaboutTimeout_due {s : State} {k at' : Nat} {c : Coll} (hcoll : tget? s.colls k = some c) (hheld : c.ringSince = some at')
    (hmode : c.mode = 2) (hdev : c.device = none) (hcto : c.cto ≠ 0) (hgood : c.failedAt = none) (hlive : c.ended = false)
    (hdue : at' + c.cto * usec ≤ s.time) : execRoundaboutTimeout k s = .next (s.collFails k) := by
  simp [execRoundaboutTimeout, hcoll, hheld, hmode, hdev, hcto, hgood, hlive, hdue]

theorem peerAsk_mem (s : State) (source : PktSource) (owner : ReqOwner) (pkt : Packet) : (s.peerAsk source owner pkt).mem = s.mem := by
  simp only [State.peerAsk]
  split <;> rfl

theorem tellFailed_mem (s : State) (k : Nat) : (s.tellFailed k).mem = s.mem := by
  simp only [State.tellFailed]
  split
  · rfl
  · split
    · rfl
    · exact foldl_keeps State.mem (fun u p => peerAsk_mem ..) _ _

theorem execCollectiveNameExpiry_due {s : State} {k at' : Nat} {c : Coll} (hcoll : tget? s.colls k = some c) (hfailed : c.failedAt = some at')
    (hcto : c.cto ≠ 0) (hdue : at' + c.cto * usec ≤ s.time) :
    execCollectiveNameExpiry k s = .next { s.tellFailed k with colls := tdel (s.tellFailed k).colls k } := by
  simp [execCollectiveNameExpiry, hcoll, hfailed, hcto, hdue]

/-- Settles O46: each event by the rule for the case that its hypotheses name, and a copy's two halves by what they write together. -/
theorem enginesAndCollectivesProceed : Obligations.EnginesAndCollectivesProceed := by
  unfold Obligations.EnginesAndCollectivesProceed
  refine ⟨?copyChunk, ?attempt, ?reads, ?writes, ?engineOperationComplete, ?copies, ?matrixAccept, ?accnext, ?tileComplete, ?epiStart,
    ?junctionArrival, ?climb, ?top, ?partialParkTimeout, ?roundaboutTimeout, ?collectiveNameExpiry⟩
  case copyChunk => exact fun _ _ _ _ _ hactive hfind => execCopyChunk_single hactive hfind
  case attempt => exact fun _ _ _ _ _ => ⟨attempt_done, attempt_lacks⟩
  case reads =>
    intro s id dst src len room o hop hkind hheld hmore
    obtain ⟨hsamples, hreads⟩ := opStep_reads_piece (room := room) hkind hop hheld hmore
    exact ⟨fun hearly => ⟨_, hsamples hearly, rfl, rfl, putOp_op ..⟩, fun hearly => ⟨_, hreads hearly, rfl, rfl, putOp_op ..⟩⟩
  case writes => exact fun _ _ _ _ _ _ _ hop hkind hhalf hheld hwhole hroom hwf => opStep_writes_piece hkind hop hheld hhalf hwhole hroom hwf
  case engineOperationComplete => exact fun _ _ _ hop => execEngineOperationComplete_eq hop
  case copies =>
    intro s id dst src len o fromScr toScr hop hkind hlive hruns hreads hread
    constructor
    · intro hfirst
      rw [completeOp_copy_read hkind hlive hruns hreads hread hfirst]
      exact opRead'_reads hop
    · intro hsecond hall hbulk
      obtain ⟨hmem, hgone, -⟩ := opDone_completes hop
      rw [completeOp_copy_done hkind hlive hruns hreads hread hsecond hall hbulk]
      exact ⟨hmem, hgone⟩
  case matrixAccept =>
    exact fun _ _ _ _ hfree hnext hop hlive => ⟨execMatrixAccept_takes hfree hnext hop hlive,
      exclude_keeps State.mem (fun _ _ _ => rfl) (fun _ _ => rfl) .., exclude_keeps State.groups (fun _ _ _ => rfl) (fun _ _ => rfl) ..⟩
  case accnext =>
    exact fun _ _ _ _ _ _ hkind hover => ⟨fun n _ => acceptOp_accnext_tile hkind hover n,
      fun _ n hne => acceptOp_accnext_tile_of_ne hkind hover hne n, acceptOp_accnext_op hkind⟩
  case tileComplete =>
    intro s id o hop harray htaken hdue
    exact ⟨_, execTileComplete_due hop harray htaken hdue, opDone_completes hop⟩
  case epiStart =>
    intro s core id tile dst pitch ofmt act toScr sat scale rest o hqueue hop hkind hlive hfree hearlier hwritten
    have hcore := core_setCore_self s core ((s.core core).epiTaken rest (s.time + 68 * s.cyc core))
    exact ⟨_, execEpiStart_ready hqueue hop hkind hlive hfree hearlier hwritten, rfl, congrArg (·.matrix.epi) hcore,
      congrArg (·.matrix.epiBusyUntil) hcore, tget?_tset_self ..⟩
  case junctionArrival =>
    exact fun _ _ _ _ _ _ _ _ _ _ hcome hkind hcoll => ⟨execJunctionArrival_over hcome hkind hcoll,
      execJunctionArrival_moved hcome hkind hcoll, execJunctionArrival_there hcome hkind hcoll⟩
  case climb => exact fun _ _ _ _ _ _ _ hinner => ⟨fun _ hsib => climb_joined hinner hsib, climb_waits hinner⟩
  case top => exact fun _ _ _ _ _ _ _ htop => climb_top htop
  case partialParkTimeout =>
    exact fun _ _ _ _ _ _ hcoll hx hlevel hindex hunparked hdue =>
      ⟨execPartialParkTimeout_due hcoll hx hlevel hindex hunparked hdue, parkColl_room hcoll⟩
  case roundaboutTimeout =>
    exact fun _ _ _ _ hcoll hheld hmode hdev hcto hgood hlive hdue =>
      execRoundaboutTimeout_due hcoll hheld hmode hdev hcto hgood hlive hdue
  case collectiveNameExpiry =>
    intro s k at' c hcoll hfailed hcto hdue
    exact ⟨_, execCollectiveNameExpiry_due hcoll hfailed hcto hdue, tget?_tdel_self .., tellFailed_mem ..⟩

end Sys2Proof.Machine

/-! Version lines: those that a slice takes, those that a discard drops, and the words that a merge makes committed memory
(R176, R183, R185, R189, R191, R193). -/
namespace Sys2Proof.Machine

/-! ## A version line comes to its home (R185, R193) -/

theorem allocate_versions (s : State) (n line : Nat) (version : Bool) (k : Nat) :
    ((s.allocate n line version).slice k).versions = (s.slice k).versions := by
  have hset : ∀ x : Slice, x.versions = (s.slice n).versions → ((s.setSlice n x).slice k).versions = (s.slice k).versions := by
    intro x hx
    by_cases hk : k = n
    · rw [hk, setSlice_slice_self, hx]
    · rw [setSlice_slice_of_ne _ _ hk]
  unfold State.allocate
  dsimp only
  split
  · rfl
  · split
    · exact hset _ rfl
    · exact (feed_keeps (fun u => (u.slice k).versions) (fun _ _ _ => rfl) ..).trans (hset _ rfl)

theorem allocate_msgs (s : State) (n line : Nat) (version : Bool) : (s.allocate n line version).msgs = s.msgs := by
  unfold State.allocate
  dsimp only
  split
  · rfl
  · split
    · rfl
    · exact feed_keeps State.msgs (fun _ _ _ => rfl) ..

/-- A version line takes a way of its slice, from a fresh age on: a committed line may make room for it (R185). -/
def State.putVersion (s : State) (n : Nat) (v : VersionLine) (age : Nat) : State :=
  let u := s.allocate n v.line true
  (u.setSlice n { u.slice n with versions := (u.slice n).versions ++ [{ v with age := age }] }).tally (384 + n) 6 1

theorem putVersion_frame (s : State) (n : Nat) (v : VersionLine) (age : Nat) :
    (s.putVersion n v age).mem = s.mem ∧ (s.putVersion n v age).msgs = s.msgs ∧
      ((s.putVersion n v age).slice n).versions = (s.slice n).versions ++ [{ v with age := age }] := by
  unfold State.putVersion
  extract_lets u
  obtain ⟨counters, htally⟩ :=
    tally_eq (u.setSlice n { u.slice n with versions := (u.slice n).versions ++ [{ v with age := age }] }) (384 + n) 6 1
  rw [htally]
  exact ⟨allocate_mem .., allocate_msgs .., (congrArg Slice.versions (setSlice_slice_self ..)).trans
    (congrArg (· ++ [{ v with age := age }]) (allocate_versions ..))⟩

/-- A line that its slice does not hold yet joins the version ways where its set has one free (R185). -/
theorem takeVersion_of_freeWay {s : State} {n : Nat} {v : VersionLine} (hnew : ∀ y ∈ (s.slice n).versions, y.same v = false)
    (hroom : ((s.slice n).versionSet v.line).length < 4) : s.takeVersion n v = s.fresh.2.putVersion n v s.ids := by
  have hany : ¬ ((s.slice n).versions.any fun y => y.same v) = true := by simpa using hnew
  exact (if_neg hany).trans (if_pos hroom)

section
variable {s : State} {m : Nat} {x : Msg} {v : VersionLine} (h : s.HasHome m x (.version v)) (hrun : (s.taskAt v.task).state = .running)
include h hrun

theorem execVersionLineWrite_bad : execVersionLineWrite ⟨m, true⟩ s = .next ((s.dropMsg m).versionBad v) := by
  obtain ⟨⟨hmsg, hkind, -⟩, hhome⟩ := h
  simp [execVersionLineWrite, hmsg, hkind, hhome, hrun]

theorem execVersionLineWrite_taken (hroom : ((s.slice x.slice).versionSet v.line).length < 4) :
    execVersionLineWrite ⟨m, false⟩ s = .next ((s.dropMsg m).takeVersion x.slice v) := by
  obtain ⟨⟨hmsg, hkind, -⟩, hhome⟩ := h
  have hgo : (s.slice x.slice).versionWaits v.line v.task v.epoch = false := by simp [Slice.versionWaits, Nat.not_le.2 hroom]
  simp [execVersionLineWrite, hmsg, hkind, hhome, hrun, hgo]

end

/-! ## Discard (R191) -/

/-- Whether an L1 line is a version line of a task. -/
def L1Line.ofTask (x : L1Line) (task : Nat) : Bool :=
  match x.kind with
  | .version v _ => v.task == task
  | _ => false

/-- A state without the version of a task: its messages, its lines in the L1s, and those that the slices hold (R191). -/
def State.withoutVersion (s : State) (task : Nat) : State :=
  let keep (l : List VersionLine) : List VersionLine := l.filter fun v => v.task != task
  { s with
    msgs := tfilter s.msgs fun _ m => !s.discardsMsg task none m
    cores := tmap s.cores fun _ c => { c with l1 := c.l1.filter fun x => !x.ofTask task }
    slices := tmap s.slices fun _ sl => { sl with versions := keep sl.versions, displaced := keep sl.displaced
                                                  overflow := keep sl.overflow } }

/-- A task whose version is being discarded: no commit and no overflow block of it is left (R191). -/
def Task.discarded (k : Task) : Task :=
  { k with state := .discarding, discard := false, ovf := false, ovfSeen := [], voUsed := [], commit := none }

theorem execDiscardRequest_undecided {s : State} {slot : Nat} (hdiscard : (s.taskAt slot).discard = true)
    (hnone : (s.taskAt slot).commit = none) :
    execDiscardRequest slot s = .next ((s.withoutVersion slot).setTask slot (s.taskAt slot).discarded) := by
  have hown : ∀ t (e : Bool), (t == slot && some e != none) = (t == slot) := by simp
  have hl1 : (fun x : L1Line => match x.kind with | .version v _ => !(v.task == slot) | _ => true) = fun x => !x.ofTask slot := by
    funext x
    unfold L1Line.ofTask
    cases x.kind <;> rfl
  simp only [execDiscardRequest, hdiscard, hnone, hown]
  rw [State.withoutVersion, ← hl1]
  rfl

theorem withoutVersion_slices (s : State) (task n : Nat) (sl : Slice) (h : tget? (s.withoutVersion task).slices n = some sl) :
    ∀ v ∈ sl.versions ++ sl.displaced ++ sl.overflow, v.task ≠ task := by
  rw [State.withoutVersion, tget?_tmap] at h
  obtain ⟨old, -, rfl⟩ := Option.map_eq_some_iff.1 h
  simp only [List.mem_append, List.mem_filter, bne_iff_ne]
  rintro v ((⟨-, hv⟩ | ⟨-, hv⟩) | ⟨-, hv⟩) <;> exact hv

theorem withoutVersion_l1 (s : State) (task n : Nat) (c : Core) (h : tget? (s.withoutVersion task).cores n = some c) :
    ∀ x ∈ c.l1, ∀ k w, x.kind = .version k w → k.task ≠ task := by
  rw [State.withoutVersion, tget?_tmap] at h
  obtain ⟨old, -, rfl⟩ := Option.map_eq_some_iff.1 h
  intro x hx k w hkind
  simpa [L1Line.ofTask, hkind] using (List.mem_filter.1 hx).2

theorem execDiscardComplete_due {s : State} {slot : Nat} (hstate : (s.taskAt slot).state = .discarding)
    (hnone : (s.taskAt slot).commit = none) :
    execDiscardComplete slot s = .next (s.setTask slot { s.taskAt slot with state := .free, voUsed := [], nr := false }) := by
  simp [execDiscardComplete, hstate, hnone]

/-! ## A line settles where no write-through of its region is in flight (R158, R174) -/

/-- No write-through of a region is in flight. -/
def State.regionQuiet (s : State) (region : Nat) : Prop :=
  ∀ k m acc l cells, (k, m) ∈ s.msgs → m.kind = .through acc l cells → l / 16 ≠ region

theorem drainLine_of_regionQuiet {s : State} {line : Nat} (h : s.regionQuiet (line / 16)) : s.drainLine line = s := by
  refine List.foldlRecOn (motive := (· = s)) s.msgs _ rfl fun u hu e he => ?_
  obtain ⟨k, m⟩ := e
  dsimp only
  split
  · next acc l cells hkind =>
    have hl : l ≠ line := fun hl => h k m acc l cells he hkind (by rw [hl])
    rw [if_neg (by simpa using hl), hu]
  · exact hu

theorem rouseSlice_msgs (s : State) (n : Nat) : (s.rouseSlice n).msgs = s.msgs := by
  unfold State.rouseSlice State.tally
  dsimp only
  split
  · split <;> rfl
  · rfl

theorem l1Map_msgs (s : State) (core : Nat) (p : L1Line → Bool) (f : L1Line → L1Line) : (s.l1Map core p f).msgs = s.msgs := by
  unfold State.l1Map
  dsimp only
  split <;> rfl

theorem settleLine_mem_of_regionQuiet {s : State} {line : Nat} (write : Bool) (h : s.regionQuiet (line / 16)) :
    (s.settleLine line write).mem = s.mem := by
  unfold State.settleLine
  extract_lets +onlyGivenNames home drained
  have hquiet : ∀ u : State, u.msgs = s.msgs → u.regionQuiet (line / 16) := fun u hu => by rwa [State.regionQuiet, hu]
  have hdrained : drained = s.rouseSlice home := drainLine_of_regionQuiet (hquiet _ (rouseSlice_msgs ..))
  have hmem : drained.mem = s.mem := by rw [hdrained, rouseSlice_mem]
  have hmsgs : drained.msgs = s.msgs := by rw [hdrained, rouseSlice_msgs]
  extract_lets +onlyGivenNames sl e region settled
  have hsettled : settled.mem = s.mem := by
    unfold settled
    split
    · next holder _ _ =>
      extract_lets +onlyGivenNames mapped all
      have hmapped : mapped.mem = s.mem := (foldl_mem (fun _ _ => l1Map_mem ..) _ _).trans hmem
      have hmappedQuiet : mapped.regionQuiet (line / 16) :=
        hquiet _ ((foldl_keeps State.msgs (fun _ _ => l1Map_msgs ..) _ _).trans hmsgs)
      have hall : all = mapped := by
        unfold all
        split
        · refine List.foldlRecOn (motive := (· = mapped)) _ _ rfl fun u hu i hi => ?_
          have hline : (line / 16 * 16 + i) / 16 = line / 16 := by have := List.mem_range.1 hi; omega
          rw [hu]
          exact drainLine_of_regionQuiet (by rwa [hline])
        · rfl
      rw [setSlice_mem, hall, hmapped]
    · exact hmem
  split
  · exact hsettled
  · extract_lets +onlyGivenNames sl' e' cleared sl''
    have hcleared : cleared.mem = s.mem := (foldl_mem (fun _ _ => dropCopies_mem ..) _ _).trans hsettled
    split <;> exact hcleared

/-! ## The words of a version line become committed memory (R176, R183, R189 step 6) -/

/-- The words that a version line marks, each at its offset in the line. -/
def VersionLine.words (v : VersionLine) : List (Nat × List Byte) :=
  ((List.range 64).filter v.mask.getLsbD).map fun w => (4 * w, cread v.data (4 * w) 4)

theorem mergeWords_mem (s : State) (v : VersionLine) :
    (s.mergeWords v).mem = v.words.foldl (fun m p => cwrite m (256 * v.line + p.1) p.2) (s.settleLine v.line true).mem := by
  unfold State.mergeWords VersionLine.words
  dsimp only
  rw [← List.foldl_filter, List.foldl_map]
  exact List.foldl_hom State.mem (fun u w => (homeStore_mem u _ _).symm) |>.symm

theorem words_bytes (v : VersionLine) : ∀ p ∈ v.words, ∀ i, i < p.2.length → p.2.getD i 0 = cget v.data (p.1 + i) := by
  intro p hp i hi
  obtain ⟨w, -, rfl⟩ := List.mem_map.1 hp
  have hi4 : i < 4 := by simpa [cread] using hi
  simp [cread, List.getD_eq_getElem?_getD, hi4]

/-- The words of a version line cover the bytes of its marked words. -/
theorem words_cover_iff (v : VersionLine) (a : Nat) :
    (∃ p ∈ v.words, 256 * v.line + p.1 ≤ a ∧ a < 256 * v.line + p.1 + p.2.length) ↔
      a / 256 = v.line ∧ v.mask.getLsbD (a % 256 / 4) = true := by
  constructor
  · rintro ⟨p, hp, hlow, hhigh⟩
    obtain ⟨w, hw, rfl⟩ := List.mem_map.1 hp
    obtain ⟨hrange, hmask⟩ := List.mem_filter.1 hw
    have hw64 := List.mem_range.1 hrange
    simp only [cread, List.length_map, List.length_range] at hlow hhigh
    have hword : a % 256 / 4 = w := by omega
    exact ⟨by omega, hword ▸ hmask⟩
  · rintro ⟨hline, hmask⟩
    refine ⟨_, List.mem_map_of_mem (List.mem_filter.2 ⟨List.mem_range.2 ?_, hmask⟩), ?_, ?_⟩
    · omega
    · dsimp only
      omega
    · simp only [cread, List.length_map, List.length_range]
      omega

theorem mergeWords_byte {s : State} {v : VersionLine} (hwf : Memory.wf s.mem = true) (hquiet : s.regionQuiet (v.line / 16)) (a : Nat) :
    cget (s.mergeWords v).mem a =
      if a / 256 = v.line ∧ v.mask.getLsbD (a % 256 / 4) = true then cget v.data (a % 256) else cget s.mem a := by
  rw [mergeWords_mem, settleLine_mem_of_regionQuiet true hquiet, cget_foldl_cwrite (words_bytes v) hwf]
  by_cases hmarked : a / 256 = v.line ∧ v.mask.getLsbD (a % 256 / 4) = true
  · have hoff : a - 256 * v.line = a % 256 := by omega
    rw [if_pos hmarked, if_pos ((words_cover_iff v a).2 hmarked), hoff]
  · rw [if_neg hmarked, if_neg (mt (words_cover_iff v a).1 hmarked)]

/-! ## The statement -/

/-- Settles O43: each event by its rule, and the merge of a line by the bytes that its marked words cover. -/
theorem versionsAreHeldAndDiscarded : Obligations.VersionsAreHeldAndDiscarded := by
  unfold Obligations.VersionsAreHeldAndDiscarded
  refine ⟨?taken, ?bad, ?discard, ?freed, fun s v hwf hquiet a => mergeWords_byte hwf hquiet a⟩
  case taken =>
    intro s m x v h hrun hnew hroom
    obtain ⟨hmem, hmsgs, hversions⟩ := putVersion_frame (s.dropMsg m).fresh.2 x.slice v s.ids
    have htaken := execVersionLineWrite_taken h hrun hroom
    rw [takeVersion_of_freeWay (s := s.dropMsg m) hnew hroom] at htaken
    exact ⟨_, htaken, hmem, (congrArg (tget? · m) hmsgs).trans (tget?_tdel_self ..), hversions⟩
  case bad => exact fun s m x v h hrun => execVersionLineWrite_bad h hrun
  case discard =>
    intro s slot hdiscard hnone
    have htask := setTask_taskAt_self (s.withoutVersion slot) slot (s.taskAt slot).discarded
    refine ⟨_, execDiscardRequest_undecided hdiscard hnone, rfl, congrArg Task.state htask, congrArg Task.discard htask,
      congrArg Task.ovf htask, congrArg Task.voUsed htask, withoutVersion_slices s slot, withoutVersion_l1 s slot⟩
  case freed =>
    intro s slot hstate hnone
    have htask := fun x => setTask_taskAt_self s slot x
    exact ⟨_, execDiscardComplete_due hstate hnone, rfl, rfl, congrArg Task.state (htask _), congrArg Task.voUsed (htask _),
      congrArg Task.nr (htask _)⟩

end Sys2Proof.Machine

/-! Stores and atomics as they issue: the versioned lanes of a store, and the access of what goes on its way (R182, R187, R229, R232,
R384, R389). -/
namespace Sys2Proof.Machine

/-! ## The pages of a store (R182, R273) -/

theorem tlbTouch_gridAt (s : State) (core ctx va grid : Nat) : (s.tlbTouch core ctx va).gridAt grid = s.gridAt grid := by
  unfold State.tlbTouch
  dsimp only
  split
  · rfl
  · split <;> rfl

theorem touchPages_gridAt (s : State) (core ctx : Nat) (es : List (Nat × Nat × TlbEntry)) (grid : Nat) :
    (s.touchPages core ctx es).gridAt grid = s.gridAt grid :=
  foldl_keeps (fun u : State => u.gridAt grid) (fun u p => tlbTouch_gridAt u core ctx (p * 4096) grid) _ s

/-- Whether a team's store to a page is versioned (R182). -/
def State.versionedPage (s : State) (team : Team) (e : TlbEntry) : Bool :=
  (s.gridAt team.grid).eff.vmode == 0 && !e.d && !e.nc && !e.ats && !e.peer

/-! ## ST (R182, R187, R232, R384) -/

/-- Whether a store has to wait: for a version line that cannot leave the L1 yet (R187), or for an older access of its group (R232). -/
def State.storeHeld (u : State) (c : Ctx) (task n : Nat) (ver : TlbEntry → Bool) (es : List (Nat × Nat × TlbEntry)) : Bool :=
  es.any fun (_, va, e) => ver e && (u.storeWaits c.core task (e.target va) || u.olderMeets c.g.uid u.ids (e.loc va) n)

/-- The versioned lanes of a store merged into the version lines of its task (R182). -/
def State.mergeStore (u : State) (c : Ctx) (o : Operands) (task n : Nat) (ver : TlbEntry → Bool) (es : List (Nat × Nat × TlbEntry)) :
    State :=
  es.foldl (fun s (l, va, e) => if ver e then s.versionedStore c.core task (e.target va) (leBytes n (c.storeData o n l)) else s) u

/-- The access of the lanes of a store that are not versioned (R384). -/
def Ctx.storeAccess (c : Ctx) (o : Operands) (s : State) (n : Nat) (direct : List (Nat × Nat × TlbEntry)) : Access :=
  { c.access s .store .mem n 120#7 false with
    lanes := direct.map fun (l, va, e) => LaneAcc.start l e va (c.storeData o n l) 0 }

/-- What a store does whose checks pass and whose pages translate: it is held, or merges its versioned lanes and sends the others on
their way. -/
def State.storeDone (s : State) (c : Ctx) (o : Operands) (es : List (Nat × Nat × TlbEntry)) : Done :=
  let n := storeBytes o.fn.toNat
  let team := s.teamOf c.g
  let ver := s.versionedPage team
  let u := s.touchPages c.core team.ctx es
  let merged := u.mergeStore c o team.task n ver es
  let direct := es.filter fun x => !ver x.2.2
  let a := c.storeAccess o merged.fresh.2 n direct
  if u.storeHeld c team.task n ver es then .stall (u.waitFrag c (.yield (u.time + bclk)))
  else if direct = [] then .issued merged (c.advance 0xA1 o c.g) false
  else .issued (merged.fresh.2.startWrites merged.fresh.1 a) (c.advance 0xA1 o (c.g.begin a)) false

theorem execSt_translated {o : Operands} {s : State} {c : Ctx} {es : List (Nat × Nat × TlbEntry)} (hcnt : c.g.stcnt < 63)
    (hcheck : c.check true ([basePair o, offWord o] ++ storeSrcs o (storeBytes o.fn.toNat)) 120#7 false = .ok ()) (hmask : c.mask ≠ 0)
    (hlanes : memChecks ((lanesOf c.mask).map fun l => (l, c.memAddr o (c.laneTime l) l)) (storeBytes o.fn.toNat) true = .ok ())
    (htrans : s.translate c.core (s.teamOf c.g).ctx (slotKey c.core c.slot) c.entry
      ((lanesOf c.mask).map fun l => (l, c.memAddr o (c.laneTime l) l)) true false = .ok (.lanes es)) :
    ∃ body, execSt o s = runState 0xA1 o memTiming s body ∧ body c = .ok (s.storeDone c o es) := by
  have hfull : c.counterFull false = false := by simpa [Ctx.counterFull] using hcnt
  refine ⟨_, rfl, ?_⟩
  simp only [hfull, hcheck, hmask, hlanes, htrans, touchPages_gridAt, Bool.false_eq_true, beq_iff_eq, if_false, bind, Except.bind]
  rw [State.storeDone, apply_ite Except.ok, apply_ite Except.ok]
  rfl

/-! ## ATOM and RED (R389) -/

/-- The access of an atomic. -/
def Ctx.atomAccess (c : Ctx) (o : Operands) (dst : Code) (s : State) (es : List (Nat × Nat × TlbEntry)) : Access :=
  let op := o.fn.toNat % 16
  let w64 : Bool := o.fn.toNat ≥ 16
  { c.access s (.atom op w64) .mem (atomBytes o.fn.toNat) dst (dst != 120#7) with
    fmt := (c.atomTag o op w64).1, cnt := (c.atomTag o op w64).2
    lanes := es.map fun (l, va, e) => LaneAcc.start l e va (c.atomData o op w64 l).1 (c.atomData o op w64 l).2 }

/-- An atomic whose checks pass and whose pages translate begins its access. -/
theorem atomMem_translated {code : Nat} {dst : Code} {o : Operands} {s : State} {c : Ctx} {es : List (Nat × Nat × TlbEntry)}
    (h : Issues code o memTiming s c) (hcnt : c.counterFull (dst != 120#7) = false)
    (hcheck : c.check true ([basePair o, offWord o] ++ atomSrcs o (o.fn.toNat % 16) (o.fn.toNat ≥ 16)) 120#7 false = .ok ())
    (hdst : c.dstCheck dst (atomBytes o.fn.toNat) false = .ok ()) (hmask : c.mask ≠ 0)
    (hlanes : memChecks ((lanesOf c.mask).map fun l => (l, c.memAddr o (c.laneTime l) l)) (atomBytes o.fn.toNat) true = .ok ())
    (htrans : s.translate c.core (s.teamOf c.g).ctx (slotKey c.core c.slot) c.entry
      ((lanesOf c.mask).map fun l => (l, c.memAddr o (c.laneTime l) l)) true false true = .ok (.lanes es)) :
    let u := (s.touchPages c.core (s.teamOf c.g).ctx es).fresh
    let a := c.atomAccess o dst u.2 es
    atomMem code dst o s =
      .next { ((u.2.startWrites u.1 a).afterIssue c o (c.beats false) (c.advance code o (c.g.begin a))) with uni := false } := by
  refine runState_issued h ?_
  simp only [hcnt, hcheck, hdst, hmask, hlanes, htrans, Bool.false_eq_true, beq_iff_eq, if_false, bind, Except.bind]
  rfl

/-! ## The statement -/

/-- Settles O24: a store by what is left of it once its pages translate, and both atomics by the one rule for their access. -/
theorem storesAndAtomicsBegin : Obligations.StoresAndAtomicsBegin := by
  unfold Obligations.StoresAndAtomicsBegin
  constructor
  case left =>
    intro o s c h hcnt hcheck hmask n lanes team hlanes es htrans ver u full
    obtain ⟨body, hexec, hbody⟩ := execSt_translated hcnt hcheck hmask hlanes htrans
    have hst : exec (.st o) s = runState 0xA1 o memTiming s body := hexec
    rw [hst]
    refine ⟨fun hfull => ?held, fun hfree => ⟨fun hnone => ?versioned, fun hsome => ?direct⟩⟩
    case held => exact runState_stall h (hbody.trans (congrArg Except.ok (if_pos hfull)))
    case versioned =>
      have hdone : s.storeDone c o es = .issued _ _ _ := (if_neg (Bool.eq_false_iff.1 hfree)).trans (if_pos hnone)
      exact ⟨_, runState_issued h (hbody.trans (congrArg Except.ok hdone)), rfl⟩
    case direct =>
      have hdone : s.storeDone c o es = .issued _ _ _ := (if_neg (Bool.eq_false_iff.1 hfree)).trans (if_neg hsome)
      exact ⟨_, _, _, runState_issued h (hbody.trans (congrArg Except.ok hdone)), rfl, rfl, rfl, rfl, rfl, rfl⟩
  case right =>
    intro con op dst hform o s c h hcnt hcheck hdst hmask lanes hlanes es htrans
    have hexec : exec (con o) s = atomMem op (dst o) o s := by
      rcases List.mem_pair.1 hform with hform | hform <;> cases hform <;> rfl
    rw [hexec]
    exact ⟨_, _, _, atomMem_translated h hcnt hcheck hdst hmask hlanes htrans, rfl, rfl, rfl, rfl, rfl, rfl⟩

end Sys2Proof.Machine

/-! The instructions that divide a fragment (R206, R207, R335, R338), and what an instruction leaves that acts on its group alone. -/
namespace Sys2Proof.Machine

/-! ## An instruction that acts on its group alone -/

section
variable {op : Nat} {o : Operands} {tm : Ctx → Timing} {s : State} {c : Ctx} {g : Group} {uni : Bool} (h : Issues op o tm s c)
include h

theorem runGroup_leaves {body : Ctx → Except Trap (Group × Bool)} (hbody : body c = .ok (g, uni)) :
    ∃ t, runGroup op o tm s body = .next t ∧ Leaves s t c o g :=
  ⟨_, runGroup_ok h hbody, afterIssue_frame .., afterIssue_group ..⟩

theorem runState_leaves {body : Ctx → Except Trap Done} (hbody : body c = .ok (.issued s g uni)) :
    ∃ t, runState op o tm s body = .next t ∧ Leaves s t c o g :=
  ⟨_, runState_issued h hbody, afterIssue_frame .., afterIssue_group ..⟩

end

/-! ## A fragment goes to an address (R206, R207) -/

theorem standAt_split_self {g : Group} {e : Nat} {f : Frag} (hf : tget? g.split e = some f) (pc : W64) :
    tget? (g.standAt e pc).split e = some { f with pc := pc } := by
  simp [Group.standAt, tget?_tmod_self, hf]

theorem standAt_split_of_ne (g : Group) {e k : Nat} (pc : W64) (hk : k ≠ e) : tget? (g.standAt e pc).split k = tget? g.split k :=
  tget?_tmod_of_ne _ _ hk

/-- A fragment that does not stand at its record's join address makes no arrival (R207). -/
theorem arrive_elsewhere {g : Group} {e : Nat} {f : Frag} (hf : tget? g.split e = some f)
    (hjoin : ∀ k, tget? g.joins f.jrec = some k → k.join ≠ f.pc) (fuel : Nat) : g.arrive e fuel = g := by
  cases fuel with
  | zero => rfl
  | succ fuel =>
    cases hrec : tget? g.joins f.jrec with
    | none => simp [Group.arrive, hf, hrec]
    | some k => simp [Group.arrive, hf, hrec, (hjoin k hrec).symm]

theorem goTo_elsewhere {g : Group} {e : Nat} {pc : W64} {f : Frag} (hf : tget? g.split e = some f)
    (hjoin : ∀ k, tget? g.joins f.jrec = some k → k.join ≠ pc) : g.goTo e pc = g.standAt e pc :=
  arrive_elsewhere (standAt_split_self hf pc) hjoin 40

/-! ## The split (R206) -/

section
variable {g : Group} {e : Nat} {f : Frag} (hf : tget? g.split e = some f) {t n : W64} (tpc npc j : W64) (now : Nat)
include hf

theorem splitAt_all_taken : g.splitAt e t 0 tpc npc j now = some (g.goTo e tpc) := by simp [Group.splitAt, hf]

theorem splitAt_none_taken (hn : n ≠ 0) : g.splitAt e 0 n tpc npc j now = some (g.goTo e npc) := by
  simp only [Group.splitAt, hf, hn, beq_iff_eq, if_false, if_true]

/-- A split of two non-empty sets fails only where no record is free (R206). -/
theorem splitAt_eq_none_iff (hn : n ≠ 0) (ht : t ≠ 0) : g.splitAt e t n tpc npc j now = none ↔ tfree g.joins 16 = none := by
  simp only [Group.splitAt, hf, hn, ht, beq_iff_eq, if_false]
  cases tfree g.joins 16 with
  | none => simp
  | some k => cases tfree g.split 8 <;> simp

end

/-! ## BR (R335) -/

/-- The lanes of predicate k that BR takes, or that `br.not` takes. -/
def Ctx.brTaken (c : Ctx) (o : Operands) : W64 :=
  if o.fn = 1#5 then ~~~ c.g.predAt c.seed o.a.toNat c.now else c.g.predAt c.seed o.a.toNat c.now

/-- The split that a BR makes; none is Split Depth. -/
def Ctx.brSplit (c : Ctx) (o : Operands) : Option Group :=
  c.g.splitAt c.entry (c.f.mask &&& c.brTaken o) (c.f.mask &&& ~~~ c.brTaken o)
    (c.f.pc + 4#64 * (o.lit.extractLsb' 0 16).signExtend 64) (c.next 0x04 o)
    (c.f.pc + 4#64 * (o.lit.extractLsb' 16 16).signExtend 64) c.now

section
variable {o : Operands} {s : State} {c : Ctx} (h : Issues 0x04 o ctlTiming s c) (hquiet : c.hazard [] [o.a.toNat] false = false)
include h hquiet

theorem execBr_split {g : Group} (hsplit : c.brSplit o = some g) : ∃ t, execBr o s = .next t ∧ Leaves s t c o (c.branched g) := by
  refine runGroup_leaves (uni := true) h ?_
  rw [Ctx.brSplit, Ctx.brTaken] at hsplit
  simp [hquiet, hsplit]

theorem execBr_full (hsplit : c.brSplit o = none) : execBr o s = .next (s.takeTrap c { cause := 0x0D }) := by
  refine runGroup_trap h ?_
  rw [Ctx.brSplit, Ctx.brTaken] at hsplit
  simp [hquiet, hsplit]

end

/-! ## BRX (R338) -/

/-- The target of a lane of BRX. -/
def Ctx.brxTarget (c : Ctx) (o : Operands) (l : Nat) : W64 := BitVec.ofNat 64 (c.value ⟨o.a, true, [], .zext⟩ o l c.now)

/-- The lanes that a BRX takes: those that are not active, and those that go where the lowest active lane goes. -/
def Ctx.brxTaken (c : Ctx) (o : Operands) : W64 :=
  (c.f.mask &&& ~~~ c.mask) ||| maskOf fun l => inMask c.mask l && c.brxTarget o l == c.brxTarget o (lowLane c.mask)

/-- The split that a BRX makes; none is Split Depth. -/
def Ctx.brxSplit (c : Ctx) (o : Operands) : Option Group :=
  c.g.splitAt c.entry (c.brxTaken o) (c.f.mask &&& ~~~ c.brxTaken o) (c.brxTarget o (lowLane c.mask)) c.f.pc (c.literalTarget o) c.now

theorem jumpCheck_aligned {t : W64} (h : t.extractLsb' 0 2 = 0#2) (lane : Nat) : jumpCheck t lane = .ok () := by simp [jumpCheck, h]

theorem jumpCheck_misaligned {t : W64} (h : t.extractLsb' 0 2 ≠ 0#2) (lane : Nat) : jumpCheck t lane = .error (.misaligned lane t) := by
  simp [jumpCheck, h]

/-- The course of a BRX with lanes active: Split Depth comes before Misaligned (R252). -/
theorem execBrx_active {o : Operands} {s : State} {c : Ctx} (hcheck : c.check true [⟨o.a, true, [], .zext⟩] 120#7 false = .ok ())
    (hmask : c.mask ≠ 0) :
    ∃ body, execBrx o s = runGroup 0x06 o ctlTiming s body ∧
      body c = match c.brxSplit o with
        | none => .error { cause := 0x0D }
        | some g => (jumpCheck (c.brxTarget o (lowLane c.mask)) (lowLane c.mask)).bind fun _ => .ok (c.branched g, true) := by
  refine ⟨_, rfl, ?_⟩
  simp only [hcheck, hmask, beq_iff_eq, if_false, bind, Except.bind]
  rfl

section
variable {o : Operands} {s : State} {c : Ctx} (h : Issues 0x06 o ctlTiming s c)
  (hcheck : c.check true [⟨o.a, true, [], .zext⟩] 120#7 false = .ok ())
include h hcheck

theorem execBrx_inactive (hmask : c.mask = 0) :
    ∃ t, execBrx o s = .next t ∧ Leaves s t c o (c.branched (c.advance 0x06 o c.g)) := by
  refine runGroup_leaves (uni := true) h ?_
  simp [hcheck, hmask, bind, Except.bind]

variable (hmask : c.mask ≠ 0)
include hmask

theorem execBrx_split {g : Group} (hsplit : c.brxSplit o = some g) (halign : (c.brxTarget o (lowLane c.mask)).extractLsb' 0 2 = 0#2) :
    ∃ t, execBrx o s = .next t ∧ Leaves s t c o (c.branched g) := by
  obtain ⟨body, hexec, hbody⟩ := execBrx_active hcheck hmask
  rw [hsplit, jumpCheck_aligned halign] at hbody
  exact hexec ▸ runGroup_leaves h hbody

theorem execBrx_full (hsplit : c.brxSplit o = none) : execBrx o s = .next (s.takeTrap c { cause := 0x0D }) := by
  obtain ⟨body, hexec, hbody⟩ := execBrx_active hcheck hmask
  rw [hsplit] at hbody
  exact hexec ▸ runGroup_trap h hbody

theorem execBrx_misaligned (hsplit : (c.brxSplit o).isSome = true)
    (halign : (c.brxTarget o (lowLane c.mask)).extractLsb' 0 2 ≠ 0#2) :
    execBrx o s = .next (s.takeTrap c (.misaligned (lowLane c.mask) (c.brxTarget o (lowLane c.mask)))) := by
  obtain ⟨body, hexec, hbody⟩ := execBrx_active hcheck hmask
  obtain ⟨g, hg⟩ := Option.isSome_iff_exists.1 hsplit
  rw [hg, jumpCheck_misaligned halign] at hbody
  exact hexec ▸ runGroup_trap h hbody

end

/-! ## The statement -/

/-- Settles O15: BR and BRX each by the split that their sets make, and what a split and a move do by the cases of R206 and R207. -/
theorem divergentBranchesSplit : Obligations.DivergentBranchesSplit := by
  unfold Obligations.DivergentBranchesSplit
  refine ⟨?br, ?brx, ?split, ?goesTo⟩
  case br => exact fun o s c h hquiet => ⟨fun g hsplit => execBr_split h hquiet hsplit, execBr_full h hquiet⟩
  case brx =>
    exact fun o s c h hcheck => ⟨execBrx_inactive h hcheck, fun hmask g hsplit halign => execBrx_split h hcheck hmask hsplit halign,
      fun hmask hsplit => execBrx_full h hcheck hmask hsplit, fun hmask hsplit halign => execBrx_misaligned h hcheck hmask hsplit halign⟩
  case split =>
    intro g e t n tpc npc j now f hf
    refine ⟨?allTaken, ?noneTaken, fun hn ht => splitAt_eq_none_iff hf tpc npc j now hn ht⟩
    case allTaken => rintro rfl; exact splitAt_all_taken hf tpc npc j now
    case noneTaken => rintro hn rfl; exact splitAt_none_taken hf tpc npc j now hn
  case goesTo =>
    intro g e pc f hf hjoin
    rw [goTo_elsewhere hf hjoin]
    exact ⟨standAt_split_self hf pc, rfl, fun k hk => standAt_split_of_ne g pc hk⟩

end Sys2Proof.Machine

/-! The barrier instructions (R395 to R398, R411): an arrival, and what an instruction's results leave of a group's arrivals. -/
namespace Sys2Proof.Machine

/-! ## What the results of an instruction leave of their group -/

/-- A group with the results, the outstanding writes and the fragments of another. -/
def Group.withResults (g a : Group) : Group :=
  { g with regs := a.regs, preds := a.preds, exec := a.exec, mode := a.mode, flagQueue := a.flagQueue, sr := a.sr
           outs := a.outs, split := a.split, joins := a.joins, parkedAt := a.parkedAt }

theorem groupFrame_iff {g g' : Group} : GroupFrame g g' ↔ g'.withResults g = g := Iff.rfl

theorem GroupFrame.refl (g : Group) : GroupFrame g g := rfl

theorem GroupFrame.trans {g g' g'' : Group} (h : GroupFrame g g') (h' : GroupFrame g' g'') : GroupFrame g g'' :=
  calc g''.withResults g
    _ = (g''.withResults g').withResults g := rfl
    _ = g'.withResults g := by rw [groupFrame_iff.1 h']
    _ = g := h

theorem foldl_groupFrame {α : Type} {f : Group → α → Group} (h : ∀ g a, GroupFrame g (f g a)) (l : List α) (g : Group) :
    GroupFrame g (l.foldl f g) :=
  List.foldlRecOn (motive := GroupFrame g) l f (GroupFrame.refl g) fun u hu a _ => hu.trans (h u a)

theorem writeReg_groupFrame (g : Group) (w : RegOut) (av : List Nat) : GroupFrame g (g.writeReg w av) := by
  unfold Group.writeReg
  dsimp only
  split <;> rfl

theorem writePred_groupFrame (g : Group) (k : Nat) (x mask : W64) (av : List Nat) : GroupFrame g (g.writePred k x mask av) := by
  unfold Group.writePred
  dsimp only
  split <;> rfl

theorem writeExec_groupFrame (g : Group) (x mask : W64) (av : List Nat) : GroupFrame g (g.writeExec x mask av) := by
  unfold Group.writeExec
  dsimp only
  split <;> rfl

theorem apply_groupFrame (e : Effect) (c : Ctx) (q : Bool) (g : Group) : GroupFrame g (e.apply c q g) := by
  unfold Effect.apply
  extract_lets av gRegs gPreds gExec gMode gSr raised cleared
  have hregs : GroupFrame g gRegs := foldl_groupFrame (fun u w => writeReg_groupFrame u w av) ..
  have hpreds : GroupFrame gRegs gPreds := by
    refine foldl_groupFrame (fun u p => ?_) ..
    split
    · exact GroupFrame.refl u
    · exact writePred_groupFrame ..
  have hexec : GroupFrame gPreds gExec := by
    unfold gExec
    split
    · exact writeExec_groupFrame ..
    · exact GroupFrame.refl _
  have hmode : GroupFrame gExec gMode := by unfold gMode; split <;> rfl
  have hsr : GroupFrame gMode gSr := by unfold gSr; split <;> rfl
  exact (((hregs.trans hpreds).trans hexec).trans hmode).trans hsr

/-- What does not look at a group's results, outstanding writes and fragments is as it was. -/
theorem GroupFrame.keeps {β : Type} {g g' : Group} (h : GroupFrame g g') (view : Group → β)
    (hview : ∀ x a : Group, view (x.withResults a) = view x) : view g' = view g :=
  (hview g' g).symm.trans (congrArg view (groupFrame_iff.1 h))

/-! ## BAR and TRIG (R395, R396, R411) -/

theorem execBar_arrives {o : Operands} {s : State} {c : Ctx} (h : Issues 0xC0 o ctlTiming s c) :
    execBar o s = .next ((s.afterIssue c o 1 (c.blocked 0xC0 o { c.g with
      barSet := c.g.barSet ||| c.f.mask, barHold := (c.g.barHold ++ s.accessesOf c.g.uid).eraseDups } .bar)).noteArrivals c.g.team) :=
  runState_stall h rfl

theorem execTrig_arrives {o : Operands} {s : State} {c : Ctx} (h : Issues 0xD0 o ctlTiming s c) :
    execTrig o s = .next ((s.afterIssue c o 1 (c.blocked 0xD0 o { c.g with
      trigSet := c.g.trigSet ||| c.f.mask } .trig)).noteArrivals c.g.team) :=
  runState_stall h rfl

/-! ## DARRIVE and GARRIVE (R395, R397, R398) -/

/-- A group's count rises with the arrival of its last lanes (R395, R397). -/
theorem arriveAt_darr (s : State) (g : Group) (lanes : W64) (core : Nat) :
    (s.arriveAt false g lanes core).2.darr = if g.arrived (g.darrSet ||| lanes) then g.darr + 1 else g.darr := by
  cases harr : g.arrived (g.darrSet ||| lanes) <;> simp [State.arriveAt, harr]

theorem arriveAt_garr (s : State) (g : Group) (lanes : W64) (core : Nat) :
    (s.arriveAt true g lanes core).2.garr = if g.arrived (g.garrSet ||| lanes) then g.garr + 1 else g.garr := by
  cases harr : g.arrived (g.garrSet ||| lanes) <;> simp [State.arriveAt, harr]

/-- What a group's last lanes at DARRIVE or GARRIVE leave, with the new count delivered. -/
def State.arrival (s : State) (grid : Bool) (o : Operands) (c : Ctx) (e : Effect) : State × Group :=
  (if grid then s.setNr c.g.team else s).arriveAt grid (e.apply c o.q c.g) c.f.mask c.core

theorem arrival_darr (s : State) (o : Operands) (c : Ctx) (e : Effect) :
    (s.arrival false o c e).2.darr = if c.g.arrived (c.g.darrSet ||| c.f.mask) then c.g.darr + 1 else c.g.darr :=
  (arriveAt_darr ..).trans ((apply_groupFrame e c o.q c.g).keeps
    (fun x => if x.arrived (x.darrSet ||| c.f.mask) then x.darr + 1 else x.darr) fun _ _ => rfl)

theorem arrival_garr (s : State) (o : Operands) (c : Ctx) (e : Effect) :
    (s.arrival true o c e).2.garr = if c.g.arrived (c.g.garrSet ||| c.f.mask) then c.g.garr + 1 else c.g.garr :=
  (arriveAt_garr ..).trans ((apply_groupFrame e c o.q c.g).keeps
    (fun x => if x.arrived (x.garrSet ||| c.f.mask) then x.garr + 1 else x.garr) fun _ _ => rfl)

/-- An arrival that is not ahead of the count delivers the new count and goes on 4 cycles later (R397, R413). -/
theorem arriveInstr_due {op : Nat} {grid : Bool} {o : Operands} {s : State} {c : Ctx} {e : Effect}
    (h : Issues op o (fun _ => ⟨.ctl, 4, 1, true⟩) s c)
    (hdue : (if grid then c.g.garr else c.g.darr) =
      if grid then (s.gridAt (s.teamOf c.g).grid).cg else (tgetD s.districts (s.districtKey (s.teamOf c.g)) {}).cd)
    (hcheck : c.check true [] o.d false [] false = .ok ())
    (hresult : c.result o.d false 1 0 (.uni ((if grid then c.g.garr else c.g.darr) + 1).toNat) c.f.mask = .ok e) :
    ∃ t, arriveInstr op grid o s = .next t ∧
      IssuedFrom (s.arrival grid o c e).1 t c o true
        ((c.blocked op o (s.arrival grid o c e).2 .none).delay c.entry (c.now + 4 * c.cyc)) := by
  refine ⟨_, runState_issued h ?_, rfl⟩
  simp only [← hdue, hcheck, hresult, bne_self_eq_false, Bool.false_eq_true, if_false, bind, Except.bind]
  rfl

/-! ## DWAIT and GWAIT (R214, R397, R398) -/

theorem awaitBarrier_eq (c : Ctx) (op : Nat) (o : Operands) (w : W32 → Wait) (done : W32) (at' cycles : Nat) :
    c.awaitBarrier op o w done at' cycles =
      if done = BitVec.ofNat 32 (c.single o o.a) then (c.blocked op o c.g .none).delay c.entry (at' + fixedCycles cycles)
      else if (done - BitVec.ofNat 32 (c.single o o.a)).toNat < 2 ^ 31 then c.advance op o c.g
      else c.blocked op o c.g (w (BitVec.ofNat 32 (c.single o o.a))) := by
  simp only [Ctx.awaitBarrier, beq_iff_eq]

section
variable {o : Operands} {s : State} {c : Ctx} (hcheck : c.check true [raw32 o.a] 120#7 false [] false = .ok ())
include hcheck

theorem execDwait_leaves (h : Issues 0xC2 o ctlTiming s c) :
    let d := tgetD s.districts (s.districtKey (s.teamOf c.g)) {}
    ∃ t, execDwait o s = .next t ∧ Leaves s t c o (c.awaitBarrier 0xC2 o .dwait d.cd d.cdAt 320) :=
  runState_leaves (uni := true) h (by rw [hcheck]; rfl)

theorem execGwait_leaves (h : Issues 0xC4 o ctlTiming s c) :
    let g := s.gridAt (s.teamOf c.g).grid
    ∃ t, execGwait o s = .next t ∧ Leaves s t c o (c.awaitBarrier 0xC4 o .gwait g.cg g.cgAt 2560) :=
  runState_leaves (uni := true) h (by rw [hcheck]; rfl)

end

/-! ## The statement -/

/-- Settles O27: BAR and TRIG by their bodies, both arrivals by the one rule for them, and both waits by what the barrier's count is. -/
theorem barrierInstructionsArrive : Obligations.BarrierInstructionsArrive := by
  unfold Obligations.BarrierInstructionsArrive
  refine ⟨fun o s c h => execBar_arrives h, fun o s c h => execTrig_arrives h, ?darrive, ?garrive, ?dwait, ?gwait⟩
  case darrive =>
    intro o s c e h hdue hcheck hresult
    obtain ⟨t, hexec, hissued⟩ := arriveInstr_due (grid := false) h hdue hcheck hresult
    exact ⟨t, _, hexec, rfl, hissued, arrival_darr s o c e⟩
  case garrive =>
    intro o s c e h hdue hcheck hresult
    obtain ⟨t, hexec, hissued⟩ := arriveInstr_due (grid := true) h hdue hcheck hresult
    exact ⟨t, _, hexec, rfl, hissued, arrival_garr s o c e⟩
  case dwait =>
    intro o s c h hcheck v d
    obtain ⟨t, hexec, hleaves⟩ := execDwait_leaves hcheck h
    exact ⟨t, hexec, awaitBarrier_eq c .. ▸ hleaves⟩
  case gwait =>
    intro o s c h hcheck v g
    obtain ⟨t, hexec, hleaves⟩ := execGwait_leaves hcheck h
    exact ⟨t, hexec, awaitBarrier_eq c .. ▸ hleaves⟩

end Sys2Proof.Machine

/-! # Scratchpads of canonical form (R228)

Most of the machine leaves the table of teams as it is: one lemma per function says so, an equation that `simp` uses. Of the
rest, most changes a team but not its scratchpad: one lemma per function says that the scratchpads keep their canonical form.
Only a store, an atomic, a decode, a copy and the restores of a team write a scratchpad, and they write it through `cwrite`. -/

namespace Sys2Proof.Machine

/-- The scratchpads of a table of teams have the canonical form of memory. -/
def PadsWf (ts : Tbl Team) : Prop := ∀ e ∈ ts, Memory.wf e.2.scratch = true

/-- The state that an outcome goes on with has canonical scratchpads. -/
def PadsOut (o : Host.Outcome State Fault Refusal) : Prop := ∀ t, o = .next t → PadsWf t.teams

/-- The state that an instruction ends in. -/
def Done.state : Done → State
  | .issued s _ _ => s
  | .stall s => s

/-- What an instruction does, where it does not trap, leaves the scratchpads canonical. -/
def PadsDone (x : Except Trap Done) : Prop := ∀ d, x = .ok d → PadsWf d.state.teams

/-! ## Tables of teams -/

section
variable {ts : Tbl Team} {n : Nat}

theorem mem_tset {α : Type} {t : Tbl α} {k : Nat} {x : α} {e : Nat × α} (h : e ∈ tset t k x) : e = (k, x) ∨ e ∈ t := by
  induction t with
  | nil => simpa [tset] using h
  | cons p r ih =>
    simp only [tset] at h
    split at h
    · simp at h ⊢; tauto
    · split at h
      · simp at h ⊢; tauto
      · simp at h ⊢; tauto

@[simp] theorem nil_pads : PadsWf [] := fun _ he => absurd he List.not_mem_nil

@[simp] theorem nil_wf : Memory.wf [] = true := by rfl

theorem mem_tset_self {α : Type} {t : Tbl α} {k : Nat} {x : α} : (k, x) ∈ tset t k x := tget?_mem (tget?_tset_self ..)

@[simp] theorem tset_pads {t : Team} (h : PadsWf ts) : PadsWf (tset ts n t) ↔ Memory.wf t.scratch = true :=
  ⟨fun hts => hts _ mem_tset_self, fun ht _ he => (mem_tset he).elim (fun he => he ▸ ht) (h _)⟩

@[simp] theorem tdel_pads (h : PadsWf ts) : PadsWf (tdel ts n) := fun _ he => h _ (List.mem_of_mem_filter he)

@[simp] theorem tfilter_pads {p : Nat → Team → Bool} (h : PadsWf ts) : PadsWf (tfilter ts p) := fun _ he =>
  h _ (List.mem_of_mem_filter he)

theorem tmap_pads {f : Nat → Team → Team} (hf : ∀ n t, (f n t).scratch = t.scratch) (h : PadsWf ts) : PadsWf (tmap ts f) := by
  rintro _ he
  obtain ⟨e, hmem, rfl⟩ := List.mem_map.1 he
  simpa [hf] using h e hmem

@[simp] theorem tmap_kept_pads {f : Team → Tbl Group} (h : PadsWf ts) : PadsWf (tmap ts fun _ t => { t with kept := f t }) :=
  tmap_pads (fun _ _ => rfl) h

@[simp] theorem tgetD_wf (h : PadsWf ts) : Memory.wf (tgetD ts n {}).scratch = true := by
  unfold tgetD
  cases hn : tget? ts n with
  | none => rfl
  | some t => exact h _ (tget?_mem hn)

@[simp] theorem teamAt_wf {s : State} (h : PadsWf s.teams) : Memory.wf (s.teamAt n).scratch = true := tgetD_wf h

theorem setTeam_pads {s : State} {t : Team} (ht : Memory.wf t.scratch = true) (h : PadsWf s.teams) : PadsWf (s.setTeam n t).teams :=
  (tset_pads h).2 ht

@[simp] theorem teamAt_teams {s : State} {ts : Tbl Team} : ({ s with teams := ts } : State).teamAt n = tgetD ts n {} := rfl

end

/-! ## Branches, folds and pairs -/

section
variable {s : State} {c : Prop} [Decidable c]

@[simp] theorem ite_teams (s t : State) : (if c then s else t).teams = if c then s.teams else t.teams := apply_ite ..

@[simp] theorem ite_fst_teams {α : Type} (p q : State × α) : (if c then p else q).1.teams = if c then p.1.teams else q.1.teams :=
  apply_ite (fun r : State × α => r.1.teams) ..

@[simp] theorem ite_pads {t u : Tbl Team} : PadsWf (if c then t else u) ↔ (c → PadsWf t) ∧ (¬ c → PadsWf u) := by
  split <;> simp [*]

@[simp] theorem ite_padsOut {x y : Host.Outcome State Fault Refusal} :
    PadsOut (if c then x else y) ↔ (c → PadsOut x) ∧ (¬ c → PadsOut y) := by split <;> simp [*]

@[simp] theorem ite_padsDone {x y : Except Trap Done} : PadsDone (if c then x else y) ↔ (c → PadsDone x) ∧ (¬ c → PadsDone y) := by
  split <;> simp [*]

@[simp] theorem next_padsOut : PadsOut (.next s) ↔ PadsWf s.teams := by simp [PadsOut]

@[simp] theorem error_padsDone {x : Trap} : PadsDone (.error x) := by simp [PadsDone]

@[simp] theorem issued_padsDone {g : Group} {uni : Bool} : PadsDone (.ok (.issued s g uni)) ↔ PadsWf s.teams := by
  simp [PadsDone, Done.state]

@[simp] theorem stall_padsDone : PadsDone (.ok (.stall s)) ↔ PadsWf s.teams := by simp [PadsDone, Done.state]

theorem bind_padsDone {α : Type} {x : Except Trap α} {f : α → Except Trap Done} (h : ∀ a, PadsDone (f a)) : PadsDone (x >>= f) := by
  cases x with
  | error => exact error_padsDone
  | ok a => exact h a

end

section
variable {s : State} {α β : Type} {l : List α}

@[simp] theorem foldl_teams {f : State → α → State} (h : ∀ s a, (f s a).teams = s.teams) (l : List α) (s : State) :
    (l.foldl f s).teams = s.teams := foldl_keeps State.teams h l s

@[simp] theorem foldl_pads {f : State → α → State} (hf : ∀ t a, PadsWf t.teams → PadsWf (f t a).teams) (h : PadsWf s.teams) :
    PadsWf (l.foldl f s).teams := List.foldlRecOn l f h fun t ht a _ => hf t a ht

/-- A change of teams one after another that leaves each one's scratchpad as it is. -/
theorem foldl_setTeam_pads {l : List Nat} {f : State → Nat → Team} (hf : ∀ u k, (f u k).scratch = (u.teamAt k).scratch)
    (h : PadsWf s.teams) : PadsWf (l.foldl (fun u k => u.setTeam k (f u k)) s).teams :=
  foldl_pads (fun u k hu => setTeam_pads (hf u k ▸ teamAt_wf hu) hu) h

theorem foldl_fst_pads {f : State × β → α → State × β} {p : State × β} (hf : ∀ q a, PadsWf q.1.teams → PadsWf (f q a).1.teams)
    (h : PadsWf p.1.teams) : PadsWf (l.foldl f p).1.teams :=
  List.foldlRecOn (motive := fun q => PadsWf q.1.teams) l f h fun q hq a _ => hf q a hq

theorem fst_teams {p : State × β} {t : State} {b : β} (h : p = (t, b)) : t.teams = p.1.teams := by rw [h]

theorem pads_of_fst {p : State × β} {t : State} {b : β} (h : PadsWf p.1.teams) (hp : p = (t, b)) : PadsWf t.teams :=
  fst_teams hp ▸ h

theorem snd_teams {p : β × State} {t : State} {b : β} (h : p = (b, t)) : t.teams = p.2.teams := by rw [h]

end

end Sys2Proof.Machine

/-! # Scratchpads through a step: the caches, the directory and the controllers -/

namespace Sys2Proof.Machine

variable {s : State}

/-! ## The parts of the machine -/

@[simp] theorem foldCycles_teams {cluster} : (s.foldCycles cluster).teams = s.teams :=
  foldl_keeps State.teams (fun _ _ => by simp) ..

/-! ## Event counters -/

@[simp] theorem tally_teams {block src n} : (s.tally block src n).teams = s.teams := by simp [State.tally]

/-! ## Where an address lives -/

@[simp] theorem rouseSlice_teams {n} : (s.rouseSlice n).teams = s.teams := by simp [State.rouseSlice]

/-! ## Messages -/

@[simp] theorem fresh_teams : s.fresh.2.teams = s.teams := by rfl

/-! ## Accounts -/

@[simp] theorem charge_teams {grid res n} : (s.charge grid res n).teams = s.teams := by
  obtain ⟨accounts, h⟩ := charge_eq s grid res n
  rw [h]

/-! ## Messages -/

@[simp] theorem sendOn_teams {avenue kind core slice toSlice held} :
    (s.sendOn avenue kind core slice toSlice held).teams = s.teams := by
  rfl

@[simp] theorem send_teams {kind core slice toSlice held} : (s.send kind core slice toSlice held).teams = s.teams := by rfl

@[simp] theorem sendBase_teams {kind source slice} : (s.sendBase kind source slice).teams = s.teams := by rfl

@[simp] theorem dropMsg_teams {id} : (s.dropMsg id).teams = s.teams := by rfl

/-! ## L1 caches -/

@[simp] theorem l1Drop_teams {core p} : (s.l1Drop core p).teams = s.teams := by simp [State.l1Drop]

@[simp] theorem evictLine_teams {core x} : (s.evictLine core x).teams = s.teams := by
  simp only [State.evictLine]
  split <;> simp

@[simp] theorem installLine_teams {core x} : (s.installLine core x).teams = s.teams := by
  simp only [State.installLine]
  repeat' split
  all_goals simp

@[simp] theorem l1Map_teams {core p f} : (s.l1Map core p f).teams = s.teams := by simp [State.l1Map]

@[simp] theorem touchLine_teams {core line task} : (s.touchLine core line task).teams = s.teams := by simp [State.touchLine]

@[simp] theorem installClean_teams {core line sector} : (s.installClean core line sector).teams = s.teams := by
  simp only [State.installClean]
  split <;> simp

/-! ## Memory controllers -/

@[simp] theorem setController_teams {mc c} : (s.setController mc c).teams = s.teams := by rfl

@[simp] theorem feed_teams {mc fuel} : (s.feed mc fuel).teams = s.teams := feed_keeps State.teams (fun _ _ _ => rfl) ..

@[simp] theorem allocate_teams {n line version} : (s.allocate n line version).teams = s.teams := by
  simp only [State.allocate]
  split <;> simp

/-! ## Values -/

@[simp] theorem homeStore_teams {pa bs} : (s.homeStore pa bs).teams = s.teams := by simp [State.homeStore]

/-! ## Accesses -/

@[simp] theorem mapLanes_teams {acc f} : (s.mapLanes acc f).teams = s.teams := by rfl

@[simp] theorem applyLanes_teams {acc line} : (s.applyLanes acc line).teams = s.teams := by
  unfold State.applyLanes
  split
  · rfl
  · refine foldl_keeps State.teams (fun u x => ?_) _ s
    dsimp only
    repeat' split
    all_goals simp

@[simp] theorem modGroup_pads {guid f} (h : PadsWf s.teams) : PadsWf (s.modGroup guid f).teams := by
  unfold State.modGroup
  split
  · exact h
  · split
    · next hkept => exact (tset_pads h).2 (h _ (List.mem_of_find?_eq_some hkept))
    · exact h

@[simp] theorem leaveStore_pads {acc} (h : PadsWf s.teams) : PadsWf (s.leaveStore acc).teams := by
  simp only [State.leaveStore]
  split <;> simp [h]

/-! ## Recalls -/

@[simp] theorem applyThrough_teams {id acc line core cells} : (s.applyThrough id acc line core cells).teams = s.teams := by
  simp [State.applyThrough]

@[simp] theorem drainLine_teams {line} : (s.drainLine line).teams = s.teams := by
  refine foldl_keeps State.teams (fun _ _ => ?_) _ _
  dsimp only
  split <;> simp

@[simp] theorem dropCopies_teams {cluster line region exempt} : (s.dropCopies cluster line region exempt).teams = s.teams := by
  simp [State.dropCopies]

@[simp] theorem settleLine_teams {line write} : (s.settleLine line write).teams = s.teams := by
  simp only [State.settleLine]
  repeat' split
  all_goals simp

/-! ## Accesses of the units of the base die -/

@[simp] theorem wakeSlice_teams {slice} : (s.wakeSlice slice).teams = s.teams := by
  simp only [State.wakeSlice]
  split <;> simp

@[simp] theorem reach_teams {pa n write} : (s.reach pa n write).teams = s.teams := by
  simp only [State.reach]
  split <;> simp

@[simp] theorem hold_teams : s.hold.teams = s.teams := by rfl

@[simp] theorem begin_teams {payer n} : (s.begin payer n).teams = s.teams := by
  simp only [State.begin]
  split <;> simp

@[simp] theorem attempt_pads {payer f} (hf : ∀ t, PadsWf t.teams → PadsWf (f t).teams) (h : PadsWf s.teams) :
    PadsWf (s.attempt payer f).teams := by
  simp only [State.attempt]
  split <;> simp [h, hf]

@[simp] theorem readNow_teams {pa n} : (s.readNow pa n).1.teams = s.teams := by simp [State.readNow]

@[simp] theorem claimRange_teams {pa n} : (s.claimRange pa n).teams = s.teams := by simp [State.claimRange]

@[simp] theorem writeNow_teams {pa bs} : (s.writeNow pa bs).teams = s.teams := by simp [State.writeNow]

/-! ## Serving a request at its home -/

@[simp] theorem fillLanes_teams {acc line} : (s.fillLanes acc line).teams = s.teams := by
  simp only [State.fillLanes]
  split <;> simp

@[simp] theorem setBusy_teams {home line b} : (s.setBusy home line b).teams = s.teams := by rfl

/-! ## Room in the directory -/

@[simp] theorem freeEntry_teams {home region key} : (s.freeEntry home region key).teams = s.teams := by
  unfold State.freeEntry
  extract_lets one split
  have hone : ∀ u region key, (one u region key).teams = u.teams := by
    intro u region key
    simp only [one]
    split <;> simp
  split <;> simp [hone]

@[simp] theorem deferLine_teams {home id line} : (s.deferLine home id line).teams = s.teams := by rfl

/-! ## The pipeline's service of a request -/

@[simp] theorem reply_teams {avenue kind acc core home} : (s.reply avenue kind acc core home).teams = s.teams := by
  simp [State.reply]

@[simp] theorem startBypass_teams {home id acc line cluster} : (s.startBypass home id acc line cluster).teams = s.teams := by
  simp [State.startBypass]

@[simp] theorem serveRead_teams {home id acc line core a} : (s.serveRead home id acc line core a).teams = s.teams := by
  simp [State.serveRead]

@[simp] theorem chargeAcc_teams {acc res n} : (s.chargeAcc acc res n).teams = s.teams := by
  simp only [State.chargeAcc]
  split <;> simp

@[simp] theorem serveWrite_teams {home id acc line core grant} : (s.serveWrite home id acc line core grant).teams = s.teams := by
  simp [State.serveWrite]

@[simp] theorem serveHome_teams {id} : (s.serveHome id).teams = s.teams := by
  unfold State.serveHome
  split
  · rfl
  · extract_lets go
    have hgo : ∀ acc line w wt, (go acc line w wt).teams = s.teams := by
      intro acc line w wt
      simp only [go]
      repeat' split
      all_goals simp
    split <;> simp [hgo]

@[simp] theorem goOn_teams {slice line} : (s.goOn slice line).teams = s.teams := by
  unfold State.goOn
  dsimp only
  repeat' split
  all_goals simp

@[simp] theorem admitLine_teams {id line} : (s.admitLine id line).teams = s.teams := by simp [State.admitLine]

/-! ## Versions -/

@[simp] theorem versionedStore_teams {core task pa bs} : (s.versionedStore core task pa bs).teams = s.teams := by
  simp only [State.versionedStore]
  repeat' split
  all_goals simp

end Sys2Proof.Machine

/-! # Scratchpads through a step: translation, records, traps and plain instructions -/

namespace Sys2Proof.Machine

variable {s : State}

/-! ## Translation -/

@[simp] theorem tlbFill_teams {core e} : (s.tlbFill core e).teams = s.teams := by rfl

@[simp] theorem tlbTouch_teams {core ctx va} : (s.tlbTouch core ctx va).teams = s.teams := by
  simp only [State.tlbTouch]
  split <;> simp

@[simp] theorem tlbRemove_teams {p} : (s.tlbRemove p).teams = s.teams := by rfl

@[simp] theorem atcFill_teams {e} : (s.atcFill e).teams = s.teams := by rfl

@[simp] theorem tellHost_teams {m} : (s.tellHost m).teams = s.teams := by rfl

/-! ## Non-posted requests -/

@[simp] theorem sendAsks_teams {kept asks} : (s.sendAsks kept asks).teams = s.teams := by
  induction asks generalizing s kept with
  | nil => rfl
  | cons a rest ih => simp [State.sendAsks, ih]

@[simp] theorem hostPump_teams : s.hostPump.teams = s.teams := by simp [State.hostPump]

@[simp] theorem hostAsk_teams {l} : (s.hostAsk l).teams = s.teams := by simp [State.hostAsk]

@[simp] theorem tellRead_teams {ctx addr n} : (s.tellRead ctx addr n).teams = s.teams := by simp [State.tellRead]

@[simp] theorem giveWalkers_teams : s.giveWalkers.teams = s.teams := by rfl

@[simp] theorem beginWalk_teams {w} : (s.beginWalk w).teams = s.teams := by
  simp only [State.beginWalk]
  split <;> simp

@[simp] theorem askLanes_teams {id a} : (s.askLanes id a).teams = s.teams := by simp [State.askLanes]

/-! ## Translation by units -/

@[simp] theorem atsAsk_teams {ctx va write} : (s.atsAsk ctx va write).teams = s.teams := by simp [State.atsAsk]

@[simp] theorem touchPte_teams {pte write} : (s.touchPte pte write).teams = s.teams := by simp [State.touchPte]

@[simp] theorem xlateTouch_teams {ctx va write} : (s.xlateTouch ctx va write).teams = s.teams := by
  simp only [State.xlateTouch]
  repeat' split
  all_goals simp

@[simp] theorem hostPut_teams {addr bs} : (s.hostPut addr bs).teams = s.teams := by rfl

@[simp] theorem hostWrite_teams {ctx addr bs} : (s.hostWrite ctx addr bs).teams = s.teams := by rfl

@[simp] theorem unitRead_teams {ctx va n} : (s.unitRead ctx va n).1.teams = s.teams := by
  simp only [State.unitRead]
  split <;> simp

@[simp] theorem unitWrite_teams {ctx va bs} : (s.unitWrite ctx va bs).1.teams = s.teams := by
  simp only [State.unitWrite]
  split <;> simp

/-! ## Event counters and accounts -/

@[simp] theorem foldCounters_teams : s.foldCounters.teams = s.teams := by rfl

/-! ## Host records -/

@[simp] theorem msix_teams {ctx vector} : (s.msix ctx vector).teams = s.teams := by rfl

/-- A context's ring after a record has been put in it (`.ok`), or has found no room (`.error`). -/
theorem ringWrite_teams {t ctx bs} (ht : s.ringWrite ctx bs = .ok t ∨ s.ringWrite ctx bs = .error t) : t.teams = s.teams := by
  unfold State.ringWrite at ht
  dsimp only at ht
  split at ht
  · obtain rfl : s = t := by simpa using ht
    rfl
  · split at ht
    · next hwrite =>
      obtain rfl := by simpa using ht
      simp [fst_teams hwrite]
    · next hwrite =>
      obtain rfl := by simpa using ht
      simp [fst_teams hwrite]

@[simp] theorem postBytes_teams {ctx bs stopped} : (s.postBytes ctx bs stopped).teams = s.teams := by
  unfold State.postBytes
  dsimp only
  repeat' split
  all_goals first
    | rfl
    | next hring => simp [ringWrite_teams (.inl hring)]
    | next hring => simp [ringWrite_teams (.inr hring)]

@[simp] theorem post_teams {r stopped} : (s.post r stopped).teams = s.teams := by simp [State.post]

@[simp] theorem postPhysical_teams {r} : (s.postPhysical r).teams = s.teams := by
  simp only [State.postPhysical]
  split <;> simp

@[simp] theorem postAll_teams {r} : (s.postAll r).teams = s.teams := by simp [State.postAll]

/-! ## Queues, records and grids complete -/

@[simp] theorem queueFault_teams {q cause addr} : (s.queueFault q cause addr).teams = s.teams := by simp [State.queueFault]

@[simp] theorem recordDone_teams {queue index failed raise} : (s.recordDone queue index failed raise).teams = s.teams := by
  simp [State.recordDone]

@[simp] theorem releaseAccounts_teams {grid} : (s.releaseAccounts grid).teams = s.teams := by rfl

@[simp] theorem joinStream_teams {engine key} : (s.joinStream engine key).teams = s.teams := by simp [State.joinStream]

@[simp] theorem openPosts_teams {grid} : (s.openPosts grid).teams = s.teams := by
  refine foldl_keeps State.teams (fun _ _ => ?_) _ _
  split <;> simp

@[simp] theorem gridCheck_pads {grid} (h : PadsWf s.teams) : PadsWf (s.gridCheck grid).teams := by
  have hleft : PadsWf (tmap (tfilter s.teams fun _ t => t.grid != grid || t.lingers) fun _ t =>
      if t.grid = grid then { t with grid := noGrid } else t) :=
    tmap_pads (fun _ t => by split <;> rfl) (tfilter_pads h)
  unfold State.gridCheck
  split
  · exact h
  · dsimp only
    repeat' split
    all_goals simp [h, hleft]

/-! ## Ending teams -/

@[simp] theorem askDiscard_teams {task} : (s.askDiscard task).teams = s.teams := by rfl

@[simp] theorem freeUnits_pads {team} (h : PadsWf s.teams) : PadsWf (s.freeUnits team).teams := by simp [State.freeUnits, h]

@[simp] theorem releaseRing_teams {core} : (s.releaseRing core).teams = s.teams := by simp [State.releaseRing]

@[simp] theorem freeTiles_pads {team} (h : PadsWf s.teams) : PadsWf (s.freeTiles team).teams := by simp [State.freeTiles, h]

@[simp] theorem freeReservation_pads {team} (h : PadsWf s.teams) : PadsWf (s.freeReservation team).teams := by
  simp [State.freeReservation, h]

@[simp] theorem freePark_pads {team} (h : PadsWf s.teams) : PadsWf (s.freePark team).teams := by
  simp only [State.freePark]
  split <;> simp [h]

@[simp] theorem dropStrays_teams : s.dropStrays.teams = s.teams := by rfl

@[simp] theorem leaveWaiters_teams {key} : (s.leaveWaiters key).teams = s.teams := by rfl

@[simp] theorem dropGroup_teams {key} : (s.dropGroup key).teams = s.teams := by
  simp only [State.dropGroup]
  split <;> simp

@[simp] theorem releaseTeam_pads {team} (h : PadsWf s.teams) : PadsWf (s.releaseTeam team).teams := by
  have hfree := freeReservation_pads (team := team) (freeTiles_pads (team := team) (freeUnits_pads (team := team) h))
  simp [State.releaseTeam, hfree]

@[simp] theorem releaseDrained_pads {core} (h : PadsWf s.teams) : PadsWf (s.releaseDrained core).teams :=
  foldl_pads (fun _ _ h1 => by simp [h1]) h

@[simp] theorem endTeam_pads {team} (h : PadsWf s.teams) : PadsWf (s.endTeam team).teams := by
  have hfinish : ∀ {u : State} {t : Team}, PadsWf u.teams → Memory.wf t.scratch = true →
      PadsWf (if (u.setTeam team t).drained team then (u.setTeam team t).releaseTeam team else u.setTeam team t).teams := by
    intro u t hu ht
    split
    · exact releaseTeam_pads (setTeam_pads ht hu)
    · exact setTeam_pads ht hu
  unfold State.endTeam
  extract_lets t left s1 s2 s3 s4
  split
  · exact h
  · split
    · exact hfinish h (teamAt_wf h)
    · have hs3 : s3.teams = s.teams := by simp [s3, s2, s1]
      have hs4 : PadsWf s4.teams := freePark_pads (hs3 ▸ h)
      exact hfinish hs4 (teamAt_wf hs4)

@[simp] theorem failColl_teams {k} : (s.failColl k).teams = s.teams := by rfl

@[simp] theorem abortGrid_pads {grid} (h : PadsWf s.teams) : PadsWf (s.abortGrid grid).teams := by
  unfold State.abortGrid
  split
  · exact h
  · refine gridCheck_pads ?_
    simp only [foldl_teams, failColl_teams, implies_true]
    exact foldl_pads (fun u e hu => by split <;> simp [hu]) h

@[simp] theorem abortDomain_pads {ctx fdid} (h : PadsWf s.teams) : PadsWf (s.abortDomain ctx fdid).teams := by
  simp +contextual [State.abortDomain, h]

@[simp] theorem abortTeam_pads {team} (h : PadsWf s.teams) : PadsWf (s.abortTeam team).teams := by simp [State.abortTeam, h]

/-! ## Ready lists -/

@[simp] theorem readmit_teams {grid teams deferTo} : (s.readmit grid teams deferTo).teams = s.teams := by rfl

@[simp] theorem readmitUnit_pads {team} (h : PadsWf s.teams) : PadsWf (s.readmitUnit team).teams := by
  simp only [State.readmitUnit]
  split
  · exact foldl_setTeam_pads (fun _ _ => rfl) h
  · exact h

@[simp] theorem readmitPreempted_pads (h : PadsWf s.teams) : PadsWf s.readmitPreempted.teams :=
  foldl_pads (fun _ _ h1 => by simp [h1]) h

@[simp] theorem replaceTeam_pads {team errorRun} (h : PadsWf s.teams) : PadsWf (s.replaceTeam team errorRun).1.teams := by
  unfold State.replaceTeam
  extract_lets past s1 x
  have hs1 : PadsWf s1.teams := by simp [s1, h]
  simp [State.fresh, hs1, x]

@[simp] theorem redispatch_pads {team errorRun} (h : PadsWf s.teams) : PadsWf (s.redispatch team errorRun).teams :=
  foldl_fst_pads (fun _ _ h1 => replaceTeam_pads h1) h

@[simp] theorem discardTeam_pads {team errorTrap} (h : PadsWf s.teams) : PadsWf (s.discardTeam team errorTrap).teams := by
  simp [State.discardTeam, h]

@[simp] theorem errorTrap_pads {core slot g r} (h : PadsWf s.teams) : PadsWf (s.errorTrap core slot g r).teams := by
  simp [State.errorTrap, h]

/-! ## Commit requests -/

@[simp] theorem askCommit_teams {team core held slot entry} : (s.askCommit team core held slot entry).teams = s.teams := by rfl

@[simp] theorem setNr_teams {team} : (s.setNr team).teams = s.teams := by rfl

@[simp] theorem peerAsk_teams {source owner pkt} : (s.peerAsk source owner pkt).teams = s.teams := by simp [State.peerAsk]

/-! ## Taking a trap and returning from one -/

@[simp] theorem trapTo_pads {core slot entry t pc} (h : PadsWf s.teams) : PadsWf (s.trapTo core slot entry t pc).teams := by
  simp only [State.trapTo]
  split <;> simp [h]

@[simp] theorem boundaryTrap_pads {core slot cause} (h : PadsWf s.teams) : PadsWf (s.boundaryTrap core slot cause).teams := by
  simp only [State.boundaryTrap]
  repeat' split
  all_goals simp [h]

/-! ## Issue -/

@[simp] theorem onIssue_teams {c beats} : (s.onIssue c beats).teams = s.teams := by
  simp only [State.onIssue]
  split <;> simp

@[simp] theorem takeTrap_pads {c t} (h : PadsWf s.teams) : PadsWf (s.takeTrap c t).teams := by simp [State.takeTrap, h]

@[simp] theorem afterIssue_teams {c o beats g} : (s.afterIssue c o beats g).teams = s.teams := by simp [State.afterIssue]

@[simp] theorem runGroup_padsOut {op o tm body} (h : PadsWf s.teams) : PadsOut (runGroup op o tm s body) := by
  simp only [runGroup]
  repeat' split
  all_goals simp [h]

@[simp] theorem runAlu_padsOut {op o tm body} (h : PadsWf s.teams) : PadsOut (runAlu op o tm s body) := by simp [runAlu, h]

@[simp] theorem runState_padsOut {op o tm body} (hbody : ∀ c, PadsDone (body c)) (h : PadsWf s.teams) :
    PadsOut (runState op o tm s body) := by
  simp only [runState]
  repeat' split
  all_goals simp only [next_padsOut, afterIssue_teams, takeTrap_pads, h]
  · next hstall => exact hbody _ _ hstall
  · next hissued => exact hbody _ _ hissued

@[simp] theorem waitFrag_teams {c w} : (s.waitFrag c w).teams = s.teams := by rfl

@[simp] theorem setWait_teams {core slot entry w} : (s.setWait core slot entry w).teams = s.teams := by
  simp only [State.setWait]
  split <;> simp

@[simp] theorem settleJoins_teams {core quad} : (s.settleJoins core quad).teams = s.teams := by rfl

end Sys2Proof.Machine

/-! # Scratchpads through a step: memory instructions, the Plaza and control -/

namespace Sys2Proof.Machine

variable {s : State}

/-! ## Traps of check 7, and translation at issue -/

@[simp] theorem startWalk_teams {c w} : (s.startWalk c w).teams = s.teams := by simp [State.startWalk]

@[simp] theorem touchPages_teams {core ctx es} : (s.touchPages core ctx es).teams = s.teams := by simp [State.touchPages]

/-! ## Accesses -/

@[simp] theorem sendPeers_teams {id a} : (s.sendPeers id a).teams = s.teams := by
  refine foldl_keeps State.teams (fun _ _ => ?_) _ _
  split <;> simp

@[simp] theorem waitCounter_teams {c ldc} : (s.waitCounter c ldc).teams = s.teams := by rfl

/-! ## LD -/

@[simp] theorem readLine_teams {id line} : (s.readLine id line).teams = s.teams := by
  simp only [State.readLine]
  split <;> simp

@[simp] theorem readLines_teams {id} : (s.readLines id).teams = s.teams := by
  simp only [State.readLines]
  split <;> simp

@[simp] theorem execLd_padsOut {o} (h : PadsWf s.teams) : PadsOut (execLd o s) := by
  refine runState_padsOut (fun c => ?_) h
  dsimp only
  repeat' first | split | refine bind_padsDone fun _ => ?_
  all_goals simp [h]

/-! ## ST -/

@[simp] theorem applyInL1_teams {id line} : (s.applyInL1 id line).teams = s.teams := by
  simp only [State.applyInL1]
  split <;> simp

@[simp] theorem writeLine_teams {id line} : (s.writeLine id line).teams = s.teams := by
  simp only [State.writeLine]
  split <;> simp

@[simp] theorem writeLines_teams {id} : (s.writeLines id).teams = s.teams := by
  simp only [State.writeLines]
  split <;> simp

@[simp] theorem retryPending_teams : s.retryPending.teams = s.teams := by simp [State.retryPending]

@[simp] theorem startWrites_teams {id a} : (s.startWrites id a).teams = s.teams := by simp [State.startWrites]

@[simp] theorem execSt_padsOut {o} (h : PadsWf s.teams) : PadsOut (execSt o s) := by
  refine runState_padsOut (fun c => ?_) h
  dsimp only
  repeat' first | split | refine bind_padsDone fun _ => ?_
  all_goals simp [h]

/-! ## Atomics -/

@[simp] theorem atomMem_padsOut {code dst o} (h : PadsWf s.teams) : PadsOut (atomMem code dst o s) := by
  refine runState_padsOut (fun c => ?_) h
  dsimp only
  repeat' first | split | refine bind_padsDone fun _ => ?_
  all_goals simp [h]

/-! ## The scratchpad -/

@[simp] theorem holdMem_teams {c cycles beats} : (s.holdMem c cycles beats).teams = s.teams := by simp [State.holdMem]

@[simp] theorem scratchWrite_pads {team off bs} (h : PadsWf s.teams) : PadsWf (s.scratchWrite team off bs).teams :=
  setTeam_pads (cwrite_wf _ _ _ (teamAt_wf h)) h

@[simp] theorem issueScratch_teams {c o one cycles g} : (s.issueScratch c o one cycles g).teams = s.teams := by
  simp [State.issueScratch]

@[simp] theorem waitCycle_teams {c} : (s.waitCycle c).teams = s.teams := by rfl

@[simp] theorem execLds_padsOut {o} (h : PadsWf s.teams) : PadsOut (execLds o s) := by
  refine runState_padsOut (fun c => ?_) h
  dsimp only
  repeat' first | split | refine bind_padsDone fun _ => ?_
  all_goals simp [h]

@[simp] theorem storeScratch_pads {c o n lanes} (h : PadsWf s.teams) : PadsWf (s.storeScratch c o n lanes).teams :=
  foldl_pads (fun _ _ h1 => by simp [h1]) h

@[simp] theorem execSts_padsOut {o} (h : PadsWf s.teams) : PadsOut (execSts o s) := by
  refine runState_padsOut (fun c => ?_) h
  dsimp only
  repeat' first | split | refine bind_padsDone fun _ => ?_
  all_goals simp [h]

@[simp] theorem atomScratch_pads {c o lanes} (h : PadsWf s.teams) : PadsWf (s.atomScratch c o lanes).1.teams :=
  foldl_fst_pads (fun _ _ h1 => scratchWrite_pads h1) h

@[simp] theorem execAtoms_padsOut {o} (h : PadsWf s.teams) : PadsOut (execAtoms o s) := by
  refine runState_padsOut (fun c => ?_) h
  dsimp only
  repeat' first | split | refine bind_padsDone fun _ => ?_
  all_goals simp [h]

/-! ## Remote scratchpads -/

@[simp] theorem execLdx_padsOut {o} (h : PadsWf s.teams) : PadsOut (execLdx o s) := by
  refine runState_padsOut (fun c => ?_) h
  dsimp only
  repeat' first | split | refine bind_padsDone fun _ => ?_
  all_goals simp [h]

@[simp] theorem execStx_padsOut {o} (h : PadsWf s.teams) : PadsOut (execStx o s) := by
  refine runState_padsOut (fun c => ?_) h
  dsimp only
  split
  · simp [h]
  · refine bind_padsDone fun _ => ?_
    split
    · simp [h]
    · refine bind_padsDone fun _ => ?_
      exact issued_padsDone.2 (foldl_setTeam_pads (fun _ _ => rfl) h)

/-! ## PREF -/

@[simp] theorem execPref_padsOut {o} (h : PadsWf s.teams) : PadsOut (execPref o s) := by
  refine runState_padsOut (fun c => ?_) h
  dsimp only
  repeat' first | split | refine bind_padsDone fun _ => ?_
  all_goals simp [h]

/-! ## Data returns -/

@[simp] theorem accError_pads {acc lane err info} (h : PadsWf s.teams) : PadsWf (s.accError acc lane err info).teams := by
  simp only [State.accError]
  split <;> simp [h]

@[simp] theorem takeData_teams {acc} : (s.takeData acc).teams = s.teams := by rfl

@[simp] theorem execLoadDataReturn_padsOut {access} (h : PadsWf s.teams) : PadsOut (execLoadDataReturn access s) := by
  simp only [execLoadDataReturn]
  repeat' split
  all_goals simp [h]

/-! ## The groups of a team -/

@[simp] theorem mapTeam_pads {team f} (h : PadsWf s.teams) : PadsWf (s.mapTeam team f).teams := by simp [State.mapTeam, h]

/-! ## BAR and TRIG -/

@[simp] theorem noteArrivals_pads {team} (h : PadsWf s.teams) : PadsWf (s.noteArrivals team).teams := by
  simp [State.noteArrivals, h]

/-! ## District and grid barriers -/

@[simp] theorem districtCheck_pads {team t0} (h : PadsWf s.teams) : PadsWf (s.districtCheck team t0).teams := by
  simp +contextual [State.districtCheck, h]

@[simp] theorem gridBarrierCheck_pads {grid t0} (h : PadsWf s.teams) : PadsWf (s.gridBarrierCheck grid t0).teams := by
  simp only [State.gridBarrierCheck]
  split
  · exact foldl_pads (fun _ _ h1 => mapTeam_pads h1) h
  · exact h

@[simp] theorem arriveAt_teams {grid g lanes core} : (s.arriveAt grid g lanes core).1.teams = s.teams := by
  simp only [State.arriveAt]
  repeat' split
  all_goals simp

@[simp] theorem lateArrivals_teams {core slot} : (s.lateArrivals core slot).teams = s.teams := by
  simp only [State.lateArrivals]
  repeat' split
  all_goals simp

@[simp] theorem barrierCheck_pads {team} (h : PadsWf s.teams) : PadsWf (s.barrierCheck team).teams := by
  have hnote := noteArrivals_pads (team := team) h
  simp [State.barrierCheck, hnote]

/-! ## Events -/

@[simp] theorem wakeParked_pads {team} (h : PadsWf s.teams) : PadsWf (s.wakeParked team).teams := by
  simp only [State.wakeParked]
  split
  · exact foldl_setTeam_pads (fun _ _ => rfl) h
  · exact h

@[simp] theorem firePlaza_pads (h : PadsWf s.teams) : PadsWf s.firePlaza.teams := by simp +contextual [State.firePlaza, h]

@[simp] theorem jumpTo_padsOut {op o} (h : PadsWf s.teams) : PadsOut (jumpTo op o s) := by simp [jumpTo, h]

@[simp] theorem exitGroup_pads {core slot} (h : PadsWf s.teams) : PadsWf (s.exitGroup core slot).teams := by
  simp only [State.exitGroup]
  split <;> simp [h]

@[simp] theorem execExit_padsOut {o} (h : PadsWf s.teams) : PadsOut (execExit o s) := by simp [execExit, h]

@[simp] theorem execYieldWaitEnd_padsOut {core slot entry} (h : PadsWf s.teams) : PadsOut (execYieldWaitEnd core slot entry s) := by
  simp only [execYieldWaitEnd]
  repeat' split
  all_goals simp [h]

@[simp] theorem execTrap_padsOut {o} (h : PadsWf s.teams) : PadsOut (execTrap o s) := by
  refine runState_padsOut (fun c => ?_) h
  refine bind_padsDone fun _ => ?_
  split <;> simp [h]

@[simp] theorem takeHeld_pads {core slot} (h : PadsWf s.teams) : PadsWf (s.takeHeld core slot).teams := by
  simp only [State.takeHeld]
  repeat' split
  all_goals simp -implicitDefEqProofs [h]

@[simp] theorem execRft_padsOut {o} (h : PadsWf s.teams) : PadsOut (execRft o s) := by
  refine runState_padsOut (fun c => ?_) h
  dsimp only
  split <;> simp [h]

/-! ## System registers -/

@[simp] theorem execUnassignedOpcode_padsOut {_op _s' _q} (h : PadsWf s.teams) : PadsOut (execUnassignedOpcode _op _s' _q s) := by
  simp only [execUnassignedOpcode]
  split <;> simp [h]

end Sys2Proof.Machine

/-! # Scratchpads through a step: homes, the mesh, versions and the elevators -/

namespace Sys2Proof.Machine

variable {s : State}

/-! ## Charges and records -/

@[simp] theorem waitHome_teams {id m} : (s.waitHome id m).teams = s.teams := by simp [State.waitHome]

@[simp] theorem poisonSector_teams {sector} : (s.poisonSector sector).teams = s.teams := by simp [State.poisonSector]

@[simp] theorem addBad_teams {slice line cause} : (s.addBad slice line cause).teams = s.teams := by
  simp only [State.addBad]
  repeat' split
  all_goals simp

/-! ## Requests at the home -/

@[simp] theorem arrive_teams {id acc line} : (s.arrive id acc line).teams = s.teams := by simp [State.arrive]

/-! ## Vertical exclusion -/

@[simp] theorem exclude_teams {cluster} : (s.exclude cluster).teams = s.teams := by simp [State.exclude]

@[simp] theorem execReadRequest_padsOut {delivery} (h : PadsWf s.teams) : PadsOut (execReadRequest delivery s) := by
  simp only [execReadRequest]
  repeat' split
  all_goals simp [h]

@[simp] theorem hostLane_teams {acc a x} : (s.hostLane acc a x).teams = s.teams := by
  simp only [State.hostLane]
  repeat' split
  all_goals simp

@[simp] theorem execWriteRequest_padsOut {message} (h : PadsWf s.teams) : PadsOut (execWriteRequest message s) := by
  simp only [execWriteRequest]
  repeat' split
  all_goals simp [h]

@[simp] theorem performStx_pads {acc a} (h : PadsWf s.teams) : PadsWf (s.performStx acc a).teams := by
  unfold State.performStx
  extract_lets s1 s2
  have hs1 : PadsWf s1.teams := by
    refine foldl_pads (fun u x hu => ?_) h
    split
    · split
      · exact hu
      · exact scratchWrite_pads hu
    · exact hu
  have hs2 : PadsWf s2.teams := foldl_setTeam_pads (fun _ _ => rfl) hs1
  simp [hs2]

@[simp] theorem completeWrite_pads {acc} (h : PadsWf s.teams) : PadsWf (s.completeWrite acc).teams := by
  simp only [State.completeWrite]
  split <;> simp [h]

@[simp] theorem execWriteCompletion_padsOut {message} (h : PadsWf s.teams) : PadsOut (execWriteCompletion message s) := by
  simp only [execWriteCompletion]
  repeat' split
  all_goals simp [h]

/-! ## Write-throughs and tokens -/

@[simp] theorem execWriteThrough_padsOut {message} (h : PadsWf s.teams) : PadsOut (execWriteThrough message s) := by
  simp only [execWriteThrough]
  repeat' split
  all_goals simp [h]

@[simp] theorem execWriteThroughAck_padsOut {message} (h : PadsWf s.teams) : PadsOut (execWriteThroughAck message s) := by
  simp only [execWriteThroughAck]
  repeat' split
  all_goals simp [h]

@[simp] theorem yieldToken_teams {core line region inval} : (s.yieldToken core line region inval).teams = s.teams := by
  simp [State.yieldToken]

@[simp] theorem execTokenRecall_padsOut {message} (h : PadsWf s.teams) : PadsOut (execTokenRecall message s) := by
  simp only [execTokenRecall]
  repeat' split
  all_goals simp [h]

@[simp] theorem answered_teams {slice line x} : (s.answered slice line x).teams = s.teams := by
  simp only [State.answered]
  split <;> simp

@[simp] theorem execTokack_padsOut {message} (h : PadsWf s.teams) : PadsOut (execTokack message s) := by
  simp only [execTokack]
  repeat' split
  all_goals simp [h]

@[simp] theorem execTokret_padsOut {message} (h : PadsWf s.teams) : PadsOut (execTokret message s) := by
  simp only [execTokret]
  repeat' split
  all_goals simp [h]

@[simp] theorem execGone_padsOut {message} (h : PadsWf s.teams) : PadsOut (execGone message s) := by
  simp only [execGone]
  repeat' split
  all_goals simp [h]

@[simp] theorem execInv_padsOut {message} (h : PadsWf s.teams) : PadsOut (execInv message s) := by
  simp only [execInv]
  repeat' split
  all_goals simp [h]

@[simp] theorem invDone_teams {slice line cluster} : (s.invDone slice line cluster).teams = s.teams := by
  simp only [State.invDone]
  split <;> simp

@[simp] theorem execInvAck_padsOut {message} (h : PadsWf s.teams) : PadsOut (execInvAck message s) := by
  simp only [execInvAck]
  repeat' split
  all_goals simp [h]

@[simp] theorem execLineFree_padsOut {line} (h : PadsWf s.teams) : PadsOut (execLineFree line s) := by
  simp only [execLineFree]
  split <;> simp [h]

/-! ## DRAM -/

@[simp] theorem readSector_teams {sector} : (s.readSector sector).teams = s.teams := by simp [State.readSector]

@[simp] theorem endBypass_teams {slice line sector} : (s.endBypass slice line sector).teams = s.teams := by
  refine foldl_keeps State.teams (fun _ _ => ?_) _ _
  dsimp only
  repeat' split
  all_goals simp

@[simp] theorem issueDram_teams {mc r write} : (s.issueDram mc r write).teams = s.teams := by rfl

@[simp] theorem fillSector_teams {home line q} : (s.fillSector home line q).teams = s.teams := by
  simp only [State.fillSector]
  repeat' split
  all_goals simp

@[simp] theorem execDramReadReturn_padsOut {read} (h : PadsWf s.teams) : PadsOut (execDramReadReturn read s) := by
  simp only [execDramReadReturn]
  split <;> simp [h]

@[simp] theorem execDramWriteAck_padsOut {slice} (h : PadsWf s.teams) : PadsOut (execDramWriteAck slice s) := by
  simp only [execDramWriteAck]
  split <;> simp [h]

@[simp] theorem execBadLineClear_padsOut {slice entry} (h : PadsWf s.teams) : PadsOut (execBadLineClear slice entry s) := by
  simp only [execBadLineClear]
  repeat' split
  all_goals simp only [next_padsOut, setSlice_teams, writeNow_teams, h]

/-! ## Retention of slices -/

@[simp] theorem execSliceRetentionEntry_padsOut {slice} (h : PadsWf s.teams) : PadsOut (execSliceRetentionEntry slice s) := by
  simp [execSliceRetentionEntry, h]

@[simp] theorem execSliceWake_padsOut {slice} (h : PadsWf s.teams) : PadsOut (execSliceWake slice s) := by
  simp only [execSliceWake]
  split <;> simp [h]

/-! ## Packets -/

@[simp] theorem meshMove_teams {p t} : (s.meshMove p t).teams = s.teams := by simp [State.meshMove]

@[simp] theorem meshRun_teams {limit fuel} : (s.meshRun limit fuel).teams = s.teams := by
  induction fuel generalizing s with
  | zero => rfl
  | succ n ih =>
    unfold State.meshRun
    split <;> simp [ih]

@[simp] theorem elapse_teams {dt} : (s.elapse dt).teams = s.teams := by simp [State.elapse]

/-! ## Teams and tasks -/

@[simp] theorem commitFromBase_teams {team cause} : (s.commitFromBase team cause).teams = s.teams := by rfl

/-! ## Overflow -/

@[simp] theorem writeBlock_teams {slice task block} : (s.writeBlock slice task block).teams = s.teams := by
  simp only [State.writeBlock]
  split <;> simp

@[simp] theorem rewriteBlocks_teams {slice task blocks} : (s.rewriteBlocks slice task blocks).teams = s.teams := by
  simp [State.rewriteBlocks]

@[simp] theorem chargeOverflow_teams {task} : (s.chargeOverflow task).teams = s.teams := by
  simp only [State.chargeOverflow]
  split <;> simp

@[simp] theorem displace_teams {slice v} : (s.displace slice v).teams = s.teams := by
  simp only [State.displace]
  repeat' split
  all_goals simp

@[simp] theorem takeVersion_teams {slice v} : (s.takeVersion slice v).teams = s.teams := by
  simp only [State.takeVersion]
  repeat' split
  all_goals simp

@[simp] theorem versionBad_pads {v} (h : PadsWf s.teams) : PadsWf (s.versionBad v).teams := by
  simp only [State.versionBad]
  split <;> simp [h]

@[simp] theorem takeOut_teams {slice v} : (s.takeOut slice v).teams = s.teams := by
  simp only [State.takeOut]
  split <;> simp

@[simp] theorem execPatrolScrub_padsOut {scrub} (h : PadsWf s.teams) : PadsOut (execPatrolScrub scrub s) := by
  simp only [execPatrolScrub]
  repeat' split
  all_goals simp [h]

@[simp] theorem execVersionLineWrite_padsOut {delivery} (h : PadsWf s.teams) : PadsOut (execVersionLineWrite delivery s) := by
  simp only [execVersionLineWrite]
  repeat' split
  all_goals simp [h]

/-! ## Retirement -/

@[simp] theorem retired_pads {team} (h : PadsWf s.teams) : PadsWf (s.retired team).teams := by
  unfold State.retired
  extract_lets +onlyGivenNames t k s1 s2 t' s3
  have hs2 : PadsWf s2.teams := freeReservation_pads (freeTiles_pads h)
  have hs3 : PadsWf s3.teams := setTeam_pads (teamAt_wf hs2) hs2
  split
  · exact tdel_pads hs3
  · extract_lets +onlyGivenNames members s4
    have hs4 : PadsWf s4.teams := by
      unfold s4
      split
      · exact foldl_pads (fun _ _ hu => freeUnits_pads hu) hs3
      · exact hs3
    exact gridCheck_pads (readmitPreempted_pads (barrierCheck_pads hs4))

@[simp] theorem execTeamRetire_padsOut {team} (h : PadsWf s.teams) : PadsOut (execTeamRetire team s) := by simp [execTeamRetire, h]

/-! ## Commit -/

@[simp] theorem sendVersions_teams {core p} : (s.sendVersions core p).teams = s.teams := by simp [State.sendVersions]

@[simp] theorem startCommit_teams {team core slot entry} : (s.startCommit team core slot entry).teams = s.teams := by
  simp [State.startCommit]

@[simp] theorem execCmtReq_padsOut {message} (h : PadsWf s.teams) : PadsOut (execCmtReq message s) := by
  simp only [execCmtReq]
  repeat' split
  all_goals simp [h]

@[simp] theorem execCmtMark_padsOut {message} (h : PadsWf s.teams) : PadsOut (execCmtMark message s) := by
  simp only [execCmtMark]
  repeat' split
  all_goals simp [h]

@[simp] theorem mergeWords_teams {v} : (s.mergeWords v).teams = s.teams := by simp [State.mergeWords]

@[simp] theorem mergeSlice_teams {slice task epoch which} : (s.mergeSlice slice task epoch which).teams = s.teams := by
  simp [State.mergeSlice]

@[simp] theorem mergeInOrder_teams {slice task epoch which} : (s.mergeInOrder slice task epoch which).teams = s.teams := by
  simp [State.mergeInOrder]

@[simp] theorem askMerges_teams {seed task epoch} : (s.askMerges seed task epoch).teams = s.teams := by simp [State.askMerges]

@[simp] theorem execCmtAck_padsOut {message} (h : PadsWf s.teams) : PadsOut (execCmtAck message s) := by
  simp only [execCmtAck]
  repeat' split
  all_goals simp [h]

@[simp] theorem wakeCommit_teams {id} : (s.wakeCommit id).teams = s.teams := by rfl

@[simp] theorem commitDone_pads {task c} (h : PadsWf s.teams) : PadsWf (s.commitDone task c).teams := by
  simp only [State.commitDone]
  split <;> simp [h]

@[simp] theorem execMergeDone_padsOut {message} (h : PadsWf s.teams) : PadsOut (execMergeDone message s) := by
  simp only [execMergeDone]
  repeat' split
  all_goals simp [h]

@[simp] theorem execCommit_padsOut {o} (h : PadsWf s.teams) : PadsOut (execCommit o s) :=
  runState_padsOut (fun _ => issued_padsDone.2 (by simp [h])) h

/-! ## Version overflow traps -/

@[simp] theorem execVersionOverflowTrap_padsOut {core slot} (h : PadsWf s.teams) :
    PadsOut (execVersionOverflowTrap core slot s) := by
  simp only [execVersionOverflowTrap]
  split <;> simp -implicitDefEqProofs [h]

/-! ## Discard -/

@[simp] theorem execDiscardRequest_padsOut {slot} (h : PadsWf s.teams) : PadsOut (execDiscardRequest slot s) := by
  simp [execDiscardRequest, h]

@[simp] theorem execDiscardComplete_padsOut {slot} (h : PadsWf s.teams) : PadsOut (execDiscardComplete slot s) := by
  simp [execDiscardComplete, h]

/-! ## Fences -/

@[simp] theorem fenceFabric_teams {cs} : (s.fenceFabric cs).teams = s.teams := by
  unfold State.fenceFabric
  extract_lets +onlyGivenNames s1 s2
  have hs2 : s2.teams = s1.teams := by
    refine foldl_keeps State.teams (fun u x => ?_) _ _
    dsimp only
    split <;> simp -implicitDefEqProofs
  exact (foldl_teams (fun _ _ => goOn_teams) _ _).trans hs2

/-- Teams that a fence reaches are discarded one after another. -/

theorem foldl_discardTeam_pads {l : List Nat} {cs : List Nat} (h : PadsWf s.teams) :
    PadsWf (l.foldl (fun s k => if s.fencesTeam cs (s.teamAt k) then s.discardTeam k false else s) s).teams :=
  foldl_pads (fun _ _ hu => by split <;> simp [hu]) h

@[simp] theorem fenceClusters_pads {cs info} (h : PadsWf s.teams) : PadsWf (s.fenceClusters cs info).teams := by
  unfold State.fenceClusters
  extract_lets s1 hit grids s2 s3 s4
  have hs1 : PadsWf s1.teams := by simp [s1, h]
  have hs2 : PadsWf s2.teams := foldl_discardTeam_pads hs1
  have hs4 : s4.teams = s3.teams := by
    refine foldl_keeps State.teams (fun u x => ?_) _ _
    split <;> simp
  simpa [hs4, s3] using hs2

@[simp] theorem fenceChiplet_pads {n} (h : PadsWf s.teams) : PadsWf (s.fenceChiplet n).teams := by simp [State.fenceChiplet, h]

@[simp] theorem cutOff_pads {c} (h : PadsWf s.teams) : PadsWf (s.cutOff c).teams := by simp [State.cutOff, h]

@[simp] theorem execChipletFenceNotice_padsOut {team} (h : PadsWf s.teams) : PadsOut (execChipletFenceNotice team s) := by
  simp only [execChipletFenceNotice]
  repeat' split
  all_goals simp -implicitDefEqProofs [h]

/-! ## The Chiplet stage -/

@[simp] theorem chipletStart_teams {n} : (s.chipletStart n).teams = s.teams := by
  simp -implicitDefEqProofs [State.chipletStart]

@[simp] theorem checkFull_teams : s.checkFull.teams = s.teams := by simp [State.checkFull]

@[simp] theorem failStage_teams {n} : (s.failStage n).teams = s.teams := by simp [State.failStage]

/-! ## Elevator ports -/

@[simp] theorem failElevator_pads {p carries} (h : PadsWf s.teams) : PadsWf (s.failElevator p carries).teams := by
  simp [State.failElevator, h]

@[simp] theorem correctable_pads {p} (h : PadsWf s.teams) : PadsWf (s.correctable p).teams := by simp [State.correctable, h]

/-! ## The Chiplet stage and chiplet resets -/

@[simp] theorem chipletStage_pads {n check} (h : PadsWf s.teams) : PadsWf (s.chipletStage n check).teams := by
  simp +contextual [State.chipletStage, h]

@[simp] theorem rejoin_pads {n check} (h : PadsWf s.teams) : PadsWf (s.rejoin n check).teams :=
  chipletStage_pads (foldl_discardTeam_pads h)

@[simp] theorem execCutOffChipletReset_padsOut {run} (h : PadsWf s.teams) : PadsOut (execCutOffChipletReset run s) := by
  simp [execCutOffChipletReset, h]

/-! ## Packets on elevator ports -/

@[simp] theorem numberPacket_teams {id} : (s.numberPacket id).teams = s.teams := by
  simp only [State.numberPacket]
  split <;> simp

@[simp] theorem crossPort_teams {id port} : (s.crossPort id port).teams = s.teams := by
  simp only [State.crossPort]
  repeat' split
  all_goals simp

@[simp] theorem execElevatorPacket_padsOut {message check} (h : PadsWf s.teams) : PadsOut (execElevatorPacket message check s) := by
  simp only [execElevatorPacket]
  repeat' split
  all_goals simp [h]

@[simp] theorem execElevatorRetireComplete_padsOut {port} (h : PadsWf s.teams) : PadsOut (execElevatorRetireComplete port s) := by
  simp [execElevatorRetireComplete, h]

/-! ## The Avenue -/

@[simp] theorem execAvenueTokenGrant_padsOut {toSlice channel station} (h : PadsWf s.teams) :
    PadsOut (execAvenueTokenGrant toSlice channel station s) := by
  unfold execAvenueTokenGrant
  split
  · exact next_padsOut.2 h
  · split
    · exact next_padsOut.2 h
    · refine next_padsOut.2 (foldl_pads (fun u id hu => ?_) h)
      split <;> simp [hu]

/-! ## The pin table -/

@[simp] theorem execPinTableWrite_padsOut {off width value} (h : PadsWf s.teams) :
    PadsOut (execPinTableWrite off width value s) := by
  simp [execPinTableWrite, h]

@[simp] theorem execPinMoveDone_padsOut (h : PadsWf s.teams) : PadsOut (execPinMoveDone s) := by simp [execPinMoveDone, h]

end Sys2Proof.Machine

/-! # Scratchpads through a step: saves, barriers, events and parking -/

namespace Sys2Proof.Machine

variable {s : State}

/-! ## Save areas -/

@[simp] theorem putArea_teams {a off bs} : (s.putArea a off bs).teams = s.teams := by simp [State.putArea]

@[simp] theorem getArea_teams {a off n} : (s.getArea a off n).1.teams = s.teams := by
  unfold State.getArea
  split
  · simp
  · refine foldl_keeps (fun p : State × List Byte => p.1.teams) (fun p x => ?_) _ _
    split <;> simp [fst_teams ‹_›]

@[simp] theorem saveGroup_teams {a e g} : (s.saveGroup a e g).teams = s.teams := by simp [State.saveGroup]

@[simp] theorem saveTeam_teams {team kind} : (s.saveTeam team kind).teams = s.teams := by
  simp [State.saveTeam]

@[simp] theorem loadGroup_teams {a e g} : (s.loadGroup a e g).1.teams = s.teams := by
  simp only [State.loadGroup]
  split <;> simp

@[simp] theorem loadScratch_pads {team park} (h : PadsWf s.teams) : PadsWf (s.loadScratch team park).teams := by
  simp only [State.loadScratch]
  split
  · exact h
  · exact setTeam_pads (cwrite_wf _ _ _ rfl) (getArea_teams.symm ▸ h)

@[simp] theorem answer_teams {core slot entry d w64 v at'} : (s.answer core slot entry d w64 v at').teams = s.teams := by
  simp only [State.answer]
  split <;> simp

/-! ## Barriers -/

@[simp] theorem execBar_padsOut {o} (h : PadsWf s.teams) : PadsOut (execBar o s) := by simp [execBar, h]

@[simp] theorem execBarrierRelease_padsOut {team} (h : PadsWf s.teams) : PadsOut (execBarrierRelease team s) := by
  simp only [execBarrierRelease]
  split <;> simp -implicitDefEqProofs [h]

@[simp] theorem arriveInstr_padsOut {op grid o} (h : PadsWf s.teams) : PadsOut (arriveInstr op grid o s) := by
  refine runState_padsOut (fun c => ?_) h
  dsimp only
  repeat' first | split | refine bind_padsDone fun _ => ?_
  all_goals simp [h]

@[simp] theorem execDwait_padsOut {o} (h : PadsWf s.teams) : PadsOut (execDwait o s) := by
  refine runState_padsOut (fun c => ?_) h
  dsimp only
  repeat' first | split | refine bind_padsDone fun _ => ?_
  all_goals simp [h]

@[simp] theorem execGwait_padsOut {o} (h : PadsWf s.teams) : PadsOut (execGwait o s) := by
  refine runState_padsOut (fun c => ?_) h
  dsimp only
  repeat' first | split | refine bind_padsDone fun _ => ?_
  all_goals simp [h]

@[simp] theorem execDistrictArrival_padsOut {message} (h : PadsWf s.teams) : PadsOut (execDistrictArrival message s) := by
  simp only [execDistrictArrival]
  repeat' split
  all_goals simp [h]

@[simp] theorem execGridArrival_padsOut {message} (h : PadsWf s.teams) : PadsOut (execGridArrival message s) := by
  simp only [execGridArrival]
  repeat' split
  all_goals simp [h]

/-! ## Events -/

@[simp] theorem execWaitany_padsOut {o} (h : PadsWf s.teams) : PadsOut (execWaitany o s) := by
  refine runState_padsOut (fun c => bind_padsDone fun _ => ?_) h
  split
  · exact error_padsDone
  · extract_lets base mask size
    split
    · exact error_padsDone
    · split
      · exact error_padsDone
      · exact issued_padsDone.2 h

@[simp] theorem resumeEvent_pads {core slot entry d} (h : PadsWf s.teams) : PadsWf (s.resumeEvent core slot entry d).teams := by
  simp only [State.resumeEvent]
  repeat' split
  all_goals simp -implicitDefEqProofs [h]

@[simp] theorem plazaGroup_pads {core slot index} (h : PadsWf s.teams) : PadsWf (s.plazaGroup core slot index).teams := by
  simp only [State.plazaGroup]
  repeat' split
  all_goals simp -implicitDefEqProofs [h]

@[simp] theorem plazaKept_pads {core slot index} (h : PadsWf s.teams) : PadsWf (s.plazaKept core slot index).teams := by
  simp +contextual [State.plazaKept, h]

@[simp] theorem execEventFiring_padsOut {core slot index} (h : PadsWf s.teams) : PadsOut (execEventFiring core slot index s) := by
  simp [execEventFiring, h]

@[simp] theorem execTimerDeadline_padsOut {core slot index} (h : PadsWf s.teams) :
    PadsOut (execTimerDeadline core slot index s) := by
  simp [execTimerDeadline, h]

@[simp] theorem execEvset_padsOut {o} (h : PadsWf s.teams) : PadsOut (execEvset o s) := by
  refine runState_padsOut (fun c => ?_) h
  dsimp only
  repeat' first | split | refine bind_padsDone fun _ => ?_
  all_goals simp [h]

@[simp] theorem execFlagSet_padsOut {message} (h : PadsWf s.teams) : PadsOut (execFlagSet message s) := by
  simp only [execFlagSet]
  repeat' split
  all_goals simp [h]

/-! ## Mailboxes -/

@[simp] theorem execMsend_padsOut {o} (h : PadsWf s.teams) : PadsOut (execMsend o s) := by
  refine runState_padsOut (fun c => ?_) h
  dsimp only
  repeat' first | split | refine bind_padsDone fun _ => ?_
  all_goals simp [h]

@[simp] theorem takeMail_teams {ctx box core slot entry} : (s.takeMail ctx box core slot entry).teams = s.teams := by
  simp only [State.takeMail]
  repeat' split
  all_goals simp

@[simp] theorem serveBox_teams {ctx box} : (s.serveBox ctx box).teams = s.teams := by
  simp only [State.serveBox]
  split <;> simp

@[simp] theorem enterBox_teams {ctx box core slot entry} : (s.enterBox ctx box core slot entry).teams = s.teams := by
  simp [State.enterBox]

@[simp] theorem execMrecv_padsOut {o} (h : PadsWf s.teams) : PadsOut (execMrecv o s) := by
  refine runState_padsOut (fun c => ?_) h
  dsimp only
  repeat' first | split | refine bind_padsDone fun _ => ?_
  all_goals simp [h]

@[simp] theorem execMailboxMessageArrival_padsOut {message} (h : PadsWf s.teams) :
    PadsOut (execMailboxMessageArrival message s) := by
  simp only [execMailboxMessageArrival]
  repeat' split
  all_goals simp [h]

/-! ## XSHF -/

@[simp] theorem execXshf_padsOut {o} (h : PadsWf s.teams) : PadsOut (execXshf o s) := by
  refine runState_padsOut (fun c => ?_) h
  dsimp only
  repeat' first | split | refine bind_padsDone fun _ => ?_
  all_goals simp [h]

@[simp] theorem execXshfMatch_padsOut {core slot} (h : PadsWf s.teams) : PadsOut (execXshfMatch core slot s) := by
  simp only [execXshfMatch]
  repeat' split
  all_goals simp [h]

@[simp] theorem execXshfTimeout_padsOut {core slot} (h : PadsWf s.teams) : PadsOut (execXshfTimeout core slot s) := by
  simp only [execXshfTimeout]
  repeat' split
  all_goals simp -implicitDefEqProofs [h]

/-! ## TRIG -/

@[simp] theorem execTrig_padsOut {o} (h : PadsWf s.teams) : PadsOut (execTrig o s) := by simp [execTrig, h]

@[simp] theorem execTrigTaken_padsOut {team} (h : PadsWf s.teams) : PadsOut (execTrigTaken team s) := by
  simp only [execTrigTaken]
  split <;> simp -implicitDefEqProofs [h]

@[simp] theorem execTrigEffect_padsOut {team} (h : PadsWf s.teams) : PadsOut (execTrigEffect team s) := by
  simp only [execTrigEffect]
  split <;> simp [h]

/-! ## Slots and registers -/

@[simp] theorem execGroupReady_padsOut {core slot} (h : PadsWf s.teams) : PadsOut (execGroupReady core slot s) := by
  simp only [execGroupReady]
  split <;> simp [h]

@[simp] theorem execSwitchMarkerRelease_padsOut {core slot} (h : PadsWf s.teams) :
    PadsOut (execSwitchMarkerRelease core slot s) := by
  simp only [execSwitchMarkerRelease]
  split <;> simp [h]

@[simp] theorem execChipletArrayUncorrectable_padsOut {core slot} (h : PadsWf s.teams) :
    PadsOut (execChipletArrayUncorrectable core slot s) := by
  simp only [execChipletArrayUncorrectable]
  split <;> simp [h]

/-! ## Lazily held tiles -/

@[simp] theorem spillTiles_pads {team js firstUse} (h : PadsWf s.teams) : PadsWf (s.spillTiles team js firstUse).teams := by
  simp [State.spillTiles, h]

@[simp] theorem spillAll_pads (h : PadsWf s.teams) : PadsWf s.spillAll.teams := foldl_pads (fun _ _ h1 => by simp [h1]) h

/-! ## Leaving a core -/

@[simp] theorem beginSave_pads {team state kind} (h : PadsWf s.teams) : PadsWf (s.beginSave team state kind).teams := by
  simp -implicitDefEqProofs [State.beginSave, h]

@[simp] theorem leaveGroup_pads {key} (h : PadsWf s.teams) : PadsWf (s.leaveGroup key).teams := by
  simp only [State.leaveGroup]
  split <;> simp [h]

@[simp] theorem leaveCore_pads {team} (h : PadsWf s.teams) : PadsWf (s.leaveCore team).teams :=
  freeUnits_pads (foldl_pads (fun _ _ h1 => leaveGroup_pads h1) h)

@[simp] theorem leaveWritten_pads {team} (h : PadsWf s.teams) : PadsWf (s.leaveWritten team).teams :=
  foldl_fst_pads (fun _ _ hu => by simp [hu]) h

@[simp] theorem goOnGroup_teams {key} : (s.goOnGroup key).teams = s.teams := by
  simp only [State.goOnGroup]
  split <;> simp

@[simp] theorem goOnTeam_teams {team why} : (s.goOnTeam team why).teams = s.teams := by simp [State.goOnTeam]

@[simp] theorem stopGroups_teams {team why} : (s.stopGroups team why).teams = s.teams := by simp [State.stopGroups]

/-! ## Parking -/

@[simp] theorem execParkEligible_padsOut {team} (h : PadsWf s.teams) : PadsOut (execParkEligible team s) := by
  simp [execParkEligible, h]

@[simp] theorem armTeam_pads {team state} (h : PadsWf s.teams) : PadsWf (s.armTeam team state).teams := by
  simp -implicitDefEqProofs [State.armTeam, h]

theorem takeSlot_pads {t : State} {team} (h : PadsWf s.teams) (ht : s.takeSlot team = some t) : PadsWf t.teams := by
  simp only [State.takeSlot] at ht
  split at ht
  · simp at ht
  · split at ht
    · simp at ht
    · obtain rfl := Option.some.inj ht
      exact setTeam_pads (teamAt_wf h) h

theorem foldlM_pads {α : Type} {f : State → α → Option State} (hf : ∀ t u a, PadsWf t.teams → f t a = some u → PadsWf u.teams)
    {l : List α} {t : State} (h : PadsWf s.teams) (ht : l.foldlM f s = some t) : PadsWf t.teams := by
  induction l generalizing s with
  | nil => exact Option.some.inj ht ▸ h
  | cons a l ih =>
    rw [List.foldlM_cons, Option.bind_eq_bind, Option.bind_eq_some_iff] at ht
    obtain ⟨u, hu, ht⟩ := ht
    exact ih (hf _ _ _ h hu) ht

@[simp] theorem execPlazaParkArm_padsOut {team} (h : PadsWf s.teams) : PadsOut (execPlazaParkArm team s) := by
  simp only [execPlazaParkArm]
  split
  · exact next_padsOut.2 h
  · split
    · next hunit => exact next_padsOut.2 (foldl_pads (fun _ _ hu => armTeam_pads hu) (foldlM_pads (fun _ _ _ => takeSlot_pads) h hunit))
    · exact next_padsOut.2 (foldl_setTeam_pads (fun _ _ => rfl) h)

@[simp] theorem cancelPark_pads {team} (h : PadsWf s.teams) : PadsWf (s.cancelPark team).teams :=
  mapTeam_pads (setTeam_pads (teamAt_wf (freePark_pads h)) (freePark_pads h))

@[simp] theorem execParkGo_padsOut {team} (h : PadsWf s.teams) : PadsOut (execParkGo team s) := by
  simp only [execParkGo]
  repeat' split
  · exact next_padsOut.2 h
  · exact next_padsOut.2 (foldl_pads (fun _ _ hu => cancelPark_pads hu) h)
  · exact next_padsOut.2 (foldl_pads (fun _ _ hu => beginSave_pads (mapTeam_pads hu)) h)

@[simp] theorem execParkSpillDone_padsOut {team} (h : PadsWf s.teams) : PadsOut (execParkSpillDone team s) := by
  simp only [execParkSpillDone]
  split
  · have hs : PadsWf ((s.saveTeam team 0).leaveCore team).teams := by simp [h]
    have hfree := freeReservation_pads (team := team) (freeTiles_pads (team := team) hs)
    exact next_padsOut.2 (wakeParked_pads (setTeam_pads (teamAt_wf hfree) hfree))
  · exact next_padsOut.2 h

/-! ## Pre-emption -/

@[simp] theorem nameCause_pads {team c} (h : PadsWf s.teams) : PadsWf (s.nameCause team c).teams :=
  foldl_pads (fun _ _ h1 => by simp [h1]) h

@[simp] theorem nameOver_pads {team} (h : PadsWf s.teams) : PadsWf (s.nameOver team).teams :=
  foldl_pads (fun _ _ h1 => by simp [h1]) h

@[simp] theorem execPreemption_padsOut {team} (h : PadsWf s.teams) : PadsOut (execPreemption team s) := by simp [execPreemption, h]

@[simp] theorem execPreemptionSpillDone_padsOut {team} (h : PadsWf s.teams) : PadsOut (execPreemptionSpillDone team s) := by
  simp only [execPreemptionSpillDone]
  split
  · exact next_padsOut.2 h
  · split
    · have hs1 : PadsWf ((s.saveTeam team 1).leaveCore team).teams := by simp [h]
      exact next_padsOut.2 (readmitPreempted_pads (setTeam_pads (teamAt_wf hs1) hs1))
    · simp [h]

@[simp] theorem endCauses_pads {p} (h : PadsWf s.teams) : PadsWf (s.endCauses p).teams := by
  refine readmitPreempted_pads (foldl_pads (fun u k hu => ?_) (foldl_setTeam_pads (fun _ _ => rfl) h))
  simp [hu]

/-! ## The debugger's halt -/

@[simp] theorem execDebugHalt_padsOut {func ctx value} (h : PadsWf s.teams) : PadsOut (execDebugHalt func ctx value s) := by
  simp [execDebugHalt, h]

@[simp] theorem execDebugSnapshotDone_padsOut {ctx} (h : PadsWf s.teams) : PadsOut (execDebugSnapshotDone ctx s) := by
  simp only [execDebugSnapshotDone]
  split
  · exact next_padsOut.2 h
  · split
    · simp [h]
    · refine next_padsOut.2 (foldl_pads (fun u k hu => ?_) (spillAll_pads (by simpa using h)))
      simp [hu]

@[simp] theorem loadSnapshot_pads {team} (h : PadsWf s.teams) : PadsWf (s.loadSnapshot team).teams := by
  simp [State.loadSnapshot, h]

@[simp] theorem execDebugRelease_padsOut {func ctx value} (h : PadsWf s.teams) : PadsOut (execDebugRelease func ctx value s) := by
  simp only [execDebugRelease]
  repeat' split
  · exact next_padsOut.2 h
  · exact next_padsOut.2 h
  · refine next_padsOut.2 (foldl_pads (fun u k hu => ?_) h)
    simp [hu]

/-! ## Candidates -/

@[simp] theorem issuing_teams {core slot entry mate second mateCyc} :
    (s.issuing core slot entry mate second mateCyc).teams = s.teams := by
  simp [State.issuing]

@[simp] theorem issueIllegal_pads {sub} (h : PadsWf s.teams) : PadsWf (s.issueIllegal sub).teams := by
  simp only [State.issueIllegal]
  split <;> simp [h]

@[simp] theorem slotUsed_teams {core quad} : (s.slotUsed core quad).teams = s.teams := by rfl

theorem trapLower_pads {t : State} {core slot took low} (h : PadsWf t.teams) : PadsWf (t.trapLower s core slot took low).teams := by
  unfold State.trapLower
  repeat' split
  all_goals simpa using h

end Sys2Proof.Machine

/-! # Scratchpads through a step: page walks, engine operations and the matrix array -/

namespace Sys2Proof.Machine

variable {s : State}

/-! ## Walks through a chiplet's walk cache -/

@[simp] theorem walkCached_teams {chip ctx va seen base lv} : (s.walkCached chip ctx va seen base lv).1.teams = s.teams := by
  induction lv generalizing s base with
  | zero => rfl
  | succ lv ih =>
    simp only [State.walkCached]
    split
    · exact ih
    · cases seen with
      | none =>
        dsimp only
        repeat' split
        all_goals simp [ih]
      | some l =>
        dsimp only
        repeat' split
        all_goals simp [ih]

@[simp] theorem walkSeen_teams {chip ctx va seen} : (s.walkSeen chip ctx va seen).1.teams = s.teams := by simp [State.walkSeen]

@[simp] theorem walkBy_teams {chip ctx va} : (s.walkBy chip ctx va).1.teams = s.teams := by
  unfold State.walkBy
  split <;> simp [fst_teams ‹_›]

/-! ## Faults of fragments and of engine operations -/

@[simp] theorem opAbort_pads {id cause sub addr info wr} (h : PadsWf s.teams) :
    PadsWf (s.opAbort id cause sub addr info wr).teams := by
  simp only [State.opAbort]
  repeat' split
  all_goals simp [h]

@[simp] theorem trapWaiter_pads {key entry cause sub info} (h : PadsWf s.teams) :
    PadsWf (s.trapWaiter key entry cause sub info).teams := by
  simp only [State.trapWaiter]
  split <;> simp [h]

@[simp] theorem retryWaiters_teams {frags ops mine} : (s.retryWaiters frags ops mine).teams = s.teams := by
  refine (foldl_keeps State.teams ?_ ops _).trans (foldl_keeps State.teams (fun u x => ?_) frags s)
  · exact fun _ _ => rfl
  · repeat' split
    all_goals simp

@[simp] theorem noteFault_pads {w lane va sub} (h : PadsWf s.teams) : PadsWf (s.noteFault w lane va sub).1.teams := by
  unfold State.noteFault
  split
  · split
    · exact h
    · simp -implicitDefEqProofs [h]
  · exact h
  · exact h

@[simp] theorem walkWait_teams {w x} : (s.walkWait w x).teams = s.teams := by
  simp only [State.walkWait]
  split <;> simp

/-! ## The device fault table -/

@[simp] theorem joinDft_teams {e w} : (s.joinDft e w).teams = s.teams := by simp [State.joinDft]

@[simp] theorem postPageRequest_teams {e w lane va} : (s.postPageRequest e w lane va).teams = s.teams := by
  simp only [State.postPageRequest]
  repeat' split
  all_goals simp

@[simp] theorem enterDft_teams {w lane va} : (s.enterDft w lane va).teams = s.teams := by
  simp only [State.enterDft]
  repeat' split
  all_goals simp

@[simp] theorem pageFault_pads {w lane va} (h : PadsWf s.teams) : PadsWf (s.pageFault w lane va).teams := by
  simp only [State.pageFault]
  split <;> simp [h]

@[simp] theorem serveDft_teams : s.serveDft.teams = s.teams := by
  unfold State.serveDft
  refine foldl_keeps State.teams (fun u w => ?_) _ _
  repeat' split
  all_goals simp

@[simp] theorem dftServiced_teams {e d} : (s.dftServiced e d).teams = s.teams := by simp [State.dftServiced]

@[simp] theorem dftRefused_pads {e d} (h : PadsWf s.teams) : PadsWf (s.dftRefused e d).teams := by
  refine serveDft_teams.symm ▸ foldl_pads (fun u id hu => ?_) (foldl_pads (fun u x hu => ?_) h)
  · split <;> simp [hu]
  · split
    split <;> simp [hu]

@[simp] theorem dfresp_pads {func ctx value fail} (h : PadsWf s.teams) : PadsWf (s.dfresp func ctx value fail).teams := by
  simp only [State.dfresp]
  repeat' split
  all_goals simp [h]

@[simp] theorem execDfrespServiced_padsOut {func ctx value} (h : PadsWf s.teams) :
    PadsOut (execDfrespServiced func ctx value s) := by
  simp [execDfrespServiced, h]

@[simp] theorem execDfrespRefused_padsOut {func ctx value} (h : PadsWf s.teams) : PadsOut (execDfrespRefused func ctx value s) := by
  simp [execDfrespRefused, h]

@[simp] theorem execDftTimeout_padsOut {entry} (h : PadsWf s.teams) : PadsOut (execDftTimeout entry s) := by
  simp only [execDftTimeout]
  split <;> simp [h]

/-! ## Page walks -/

@[simp] theorem takeLeaf_teams {core va write e pte} : (s.takeLeaf core va write e pte).teams = s.teams := by simp [State.takeLeaf]

@[simp] theorem endWalk_pads {id w rs} (h : PadsWf s.teams) : PadsWf (s.endWalk id w rs).teams := by
  simp only [State.endWalk]
  repeat' split
  · simp [h]
  · simp [h]
  · simp [h]
  · simp [h]
  · rw [setWait_teams]
    refine foldl_pads (fun u x hu => ?_) (by simp [h])
    split <;> simp [hu]

@[simp] theorem runWalk_pads {id w} (h : PadsWf s.teams) : PadsWf (s.runWalk id w).teams := by
  unfold State.runWalk
  split
  next u rs heq =>
  have hu : u.teams = s.teams := by
    refine (fst_teams heq).trans (foldl_keeps (fun q : State × Except Nat (List (Nat × Nat × WalkResult)) => q.1.teams) (fun q a => ?_) _ _)
    repeat' split
    all_goals simp [fst_teams ‹_›]
  split <;> simp [hu, h]

@[simp] theorem serveWalk_teams {message m chip id at'} : (s.serveWalk message m chip id at').teams = s.teams := by
  simp [State.serveWalk]

@[simp] theorem execPageWalk_padsOut {p} (h : PadsWf s.teams) : PadsOut (execPageWalk p s) := by
  simp only [execPageWalk]
  repeat' split
  all_goals simp [h]

/-! ## ATS and page requests -/

@[simp] theorem joinTag_teams {e w} : (s.joinTag e w).teams = s.teams := by simp [State.joinTag]

@[simp] theorem enterTag_teams {w lane va} : (s.enterTag w lane va).teams = s.teams := by
  simp only [State.enterTag]
  repeat' split
  all_goals simp

@[simp] theorem serveTags_teams : s.serveTags.teams = s.teams := by
  unfold State.serveTags
  refine foldl_keeps State.teams (fun u w => ?_) _ _
  repeat' split
  all_goals simp

@[simp] theorem hostFault_pads {w lane va} (h : PadsWf s.teams) : PadsWf (s.hostFault w lane va).teams := by
  simp only [State.hostFault]
  split <;> simp [h]

@[simp] theorem execAtsTranslationCompletion_padsOut {index ok w x pa} (h : PadsWf s.teams) :
    PadsOut (execAtsTranslationCompletion index ok w x pa s) := by
  simp only [execAtsTranslationCompletion]
  repeat' split
  all_goals simp [h]

@[simp] theorem tagFailed_pads {e t} (h : PadsWf s.teams) : PadsWf (s.tagFailed e t).teams := by
  refine foldl_pads (fun u id hu => ?_) (foldl_pads (fun u x hu => ?_) h)
  · split <;> simp [hu]
  · split
    split <;> simp [hu]

@[simp] theorem execPrgResponse_padsOut {entry code} (h : PadsWf s.teams) : PadsOut (execPrgResponse entry code s) := by
  simp only [execPrgResponse]
  repeat' split
  all_goals simp [h]

@[simp] theorem execPriTimeout_padsOut {entry} (h : PadsWf s.teams) : PadsOut (execPriTimeout entry s) := by
  simp only [execPriTimeout]
  split <;> simp [h]

/-! ## Invalidations -/

@[simp] theorem execTlbInvalidate_padsOut {func ctx value} (h : PadsWf s.teams) : PadsOut (execTlbInvalidate func ctx value s) := by
  simp [execTlbInvalidate, h]

@[simp] theorem execTlbInvalidateDone_padsOut {ctx} (h : PadsWf s.teams) : PadsOut (execTlbInvalidateDone ctx s) := by
  simp [execTlbInvalidateDone, h]

@[simp] theorem execAtsInvalidation_padsOut {func pasid va pages} (h : PadsWf s.teams) :
    PadsOut (execAtsInvalidation func pasid va pages s) := by
  simp [execAtsInvalidation, h]

@[simp] theorem execAtsInvalidationCompletion_padsOut (h : PadsWf s.teams) : PadsOut (execAtsInvalidationCompletion s) := by
  simp only [execAtsInvalidationCompletion]
  split <;> simp [h]

/-! ## Instruction fetch -/

@[simp] theorem fetchLine_teams {e va} : (s.fetchLine e va).1.teams = s.teams := by
  simp only [State.fetchLine]
  split <;> simp

@[simp] theorem fillLine_pads {core slot entry g f a} (h : PadsWf s.teams) : PadsWf (s.fillLine core slot entry g f a).teams := by
  simp only [State.fillLine]
  repeat' split
  all_goals simp [h]

@[simp] theorem execIcacheFill_padsOut {core slot entry} (h : PadsWf s.teams) : PadsOut (execIcacheFill core slot entry s) := by
  simp only [execIcacheFill]
  repeat' split
  all_goals simp +contextual [h]

/-! ## Batches -/

@[simp] theorem advanceBatches_pads {guid cls} (h : PadsWf s.teams) : PadsWf (s.advanceBatches guid cls).teams := by
  simp [State.advanceBatches, h]

@[simp] theorem execClose_padsOut {o} (h : PadsWf s.teams) : PadsOut (execClose o s) := by
  refine runState_padsOut (fun c => ?_) h
  dsimp only
  repeat' first | split | refine bind_padsDone fun _ => ?_
  all_goals simp [h]

@[simp] theorem execWaitb_padsOut {o} (h : PadsWf s.teams) : PadsOut (execWaitb o s) := by
  refine runState_padsOut (fun c => ?_) h
  dsimp only
  repeat' first | split | refine bind_padsDone fun _ => ?_
  all_goals simp [h]

/-! ## Issue -/

@[simp] theorem addOp_teams {o} : (s.addOp o).2.teams = s.teams := by
  simp only [State.addOp]
  split <;> simp

@[simp] theorem asyncInstr_padsOut {code cls srcs o body} (h : PadsWf s.teams) : PadsOut (asyncInstr code cls srcs o s body) := by
  refine runState_padsOut (fun c => ?_) h
  dsimp only
  repeat' first | split | refine bind_padsDone fun _ => ?_
  all_goals simp -implicitDefEqProofs +contextual [h]

/-! ## Translation and data of an operation -/

@[simp] theorem opCharge_teams {o res n} : (s.opCharge o res n).teams = s.teams := by
  simp only [State.opCharge]
  split <;> simp

@[simp] theorem opXlate_pads {id va write} (h : PadsWf s.teams) : PadsWf (s.opXlate id va write).1.teams := by
  simp only [State.opXlate]
  repeat' split
  all_goals simp [h]

@[simp] theorem opPlaces_pads {id va n write} (h : PadsWf s.teams) : PadsWf (s.opPlaces id va n write).1.teams := by
  unfold State.opPlaces
  refine foldl_fst_pads (fun _ _ h1 => ?_) h
  split
  · exact h1
  · exact opXlate_pads h1

@[simp] theorem opTake_teams {id va bs} : (s.opTake id va bs).teams = s.teams := by rfl

@[simp] theorem askPeer_teams {id va n dev pa} : (s.askPeer id va n dev pa).teams = s.teams := by
  refine foldl_keeps State.teams (fun _ _ => ?_) _ _
  split <;> simp

@[simp] theorem opRead_pads {id va n} (h : PadsWf s.teams) : PadsWf (s.opRead id va n).1.teams := by
  unfold State.opRead
  split
  · next u places o hplaces _ =>
    have hu : PadsWf u.teams := pads_of_fst (opPlaces_pads h) hplaces
    extract_lets lacks
    split
    · refine foldl_pads (fun t a ht => ?_) hu
      dsimp only
      split <;> simp [ht]
    · refine foldl_fst_pads (fun q a hq => ?_) hu
      obtain ⟨t, r⟩ := q
      obtain ⟨off, k, loc⟩ := a
      cases r with
      | none => exact hq
      | some bs =>
        cases loc with
        | dev pa =>
          dsimp only
          split <;> simp at hq ⊢ <;> simp [hq]
        | host a => simpa using hq
        | peer => exact hq
  · next hplaces _ => exact pads_of_fst (opPlaces_pads h) hplaces

@[simp] theorem writePeer_teams {id o dev pa bs} : (s.writePeer id o dev pa bs).teams = s.teams := by simp [State.writePeer]

@[simp] theorem opWrite_pads {id va bs} (h : PadsWf s.teams) : PadsWf (s.opWrite id va bs).1.teams := by
  unfold State.opWrite
  split
  · next hplaces _ =>
    refine foldl_pads (fun u x hu => ?_) (pads_of_fst (opPlaces_pads h) hplaces)
    dsimp only
    split <;> simp [hu]
  · next hplaces _ => exact pads_of_fst (opPlaces_pads h) hplaces

/-! ## Units of the copy engines' operations -/

@[simp] theorem opDid_teams {id n} : (s.opDid id n).teams = s.teams := by rfl

@[simp] theorem opPut_pads {id o toScr dst w seed first bs} (h : PadsWf s.teams) :
    PadsWf (s.opPut id o toScr dst w seed first bs).1.teams := by
  unfold State.opPut
  split
  · exact foldl_pads (fun _ _ hu => scratchWrite_pads hu) h
  · split
    · next hplaces => exact pads_of_fst (opPlaces_pads h) hplaces
    · next hplaces =>
      refine foldl_pads (fun u x hu => ?_) (pads_of_fst (opPlaces_pads h) hplaces)
      dsimp only
      split <;> simp [hu]

@[simp] theorem opMove_pads {id o fromScr toScr src dst n w room} (h : PadsWf s.teams) :
    PadsWf (s.opMove id o fromScr toScr src dst n w room).1.teams := by
  simp only [State.opMove]
  split
  · split
    · exact h
    · have hread : PadsWf (if fromScr then (s, some (s.opScratch o src n)) else s.opRead id src n).1.teams := by simp [h]
      split <;> exact (pads_of_fst hread ‹_› :)
  · split
    · split <;> exact (pads_of_fst (opPut_pads h) ‹_› :)
    · split <;> exact (pads_of_fst (opPut_pads h) ‹_› :)

@[simp] theorem gcsrPart_pads {id o rows rowptr colidx vals out off cap room} (h : PadsWf s.teams) :
    PadsWf (s.gcsrPart id o rows rowptr colidx vals out off cap room).1.teams := by
  unfold State.gcsrPart
  -- what is read stays a variable: the kernel is not to compute the bytes of a row
  obtain ⟨read, hop, hread⟩ : ∃ read, State.opRead = read ∧ ∀ {t : State} {id va n}, PadsWf t.teams → PadsWf (read t id va n).1.teams :=
    ⟨_, rfl, opRead_pads⟩
  rw [hop]
  extract_lets upd next
  clear_value next
  split
  · exact h
  · split
    · split
      · next heq => exact pads_of_fst (hread h) heq
      · next heq => exact scratchWrite_pads (pads_of_fst (hread h) heq)
    · extract_lets k
      split
      · next hcols => exact pads_of_fst (hread h) hcols
      · next hcols =>
        have hcols := pads_of_fst (hread h) hcols
        split
        · next hvals => exact pads_of_fst (hread hcols) hvals
        · next hvals => exact scratchWrite_pads (pads_of_fst (hread hcols) hvals)

@[simp] theorem sendPanel_teams {id team off bs} : (s.sendPanel id team off bs).teams = s.teams :=
  foldl_keeps State.teams (fun _ _ => by simp) ..

@[simp] theorem sendPage_teams {o src dst port dev} : (s.sendPage o src dst port dev).1.teams = s.teams := by simp [State.sendPage]

@[simp] theorem warm_pads {id src n} (h : PadsWf s.teams) : PadsWf (s.warm id src n).1.teams := by
  unfold State.warm
  split
  · next hplaces => exact pads_of_fst (opPlaces_pads h) hplaces
  · next hplaces =>
    split
    next u bad hfold =>
    have hu : PadsWf u.teams := by
      refine pads_of_fst (foldl_fst_pads (fun q a hq => ?_) (pads_of_fst (opPlaces_pads h) hplaces)) hfold
      dsimp only
      split <;> simp [hq]
    split <;> simp [hu]

@[simp] theorem opStep_pads {id o room} (h : PadsWf s.teams) : PadsWf (s.opStep id o room).1.teams := by
  unfold State.opStep
  extract_lets +onlyGivenNames did move left unit
  have hdid : ∀ r n, PadsWf r.1.teams → PadsWf (did r n).1.teams := fun r n hr => by
    unfold did
    split <;> simp [hr]
  have hmove : ∀ f t src dst n, PadsWf (move f t src dst n).1.teams := fun f t src dst n => by
    unfold move
    dsimp only
    split <;> simp [h]
  clear_value did move
  split
  · exact hmove _ _ _ _ _
  · extract_lets +onlyGivenNames n
    split
    · next hread => exact pads_of_fst (opRead_pads h) hread
    · next hread => exact hdid _ _ (by simpa using pads_of_fst (opRead_pads h) hread)
  · dsimp only
    split <;> exact hmove _ _ _ _ _
  · split
    extract_lets +onlyGivenNames at0
    split
    · exact opAbort_pads h
    · split
      · exact h
      · split
        next u k heq =>
        have hu : PadsWf u.teams := by
          refine pads_of_fst ?_ heq
          split <;> exact opMove_pads h
        split <;> simp [hu]
  · exact gcsrPart_pads h
  · extract_lets +onlyGivenNames n
    split
    · exact hdid _ _ (warm_pads h)
    · exact hmove _ _ _ _ _
  · exact hdid _ _ (by simpa using h)
  · exact h

@[simp] theorem dropOp_pads {id} (h : PadsWf s.teams) : PadsWf (s.dropOp id).teams := by
  simp only [State.dropOp]
  repeat' split
  all_goals simp -implicitDefEqProofs +contextual [h]

@[simp] theorem refreshEngine_teams {e} : (s.refreshEngine e).teams = s.teams := by rfl

@[simp] theorem serveStream_pads {engine id o i} (h : PadsWf s.teams) : PadsWf (s.serveStream engine id o i).teams := by
  simp [State.serveStream, h]

@[simp] theorem execCopyChunk_padsOut {engine} (h : PadsWf s.teams) : PadsOut (execCopyChunk engine s) := by
  simp only [execCopyChunk]
  repeat' split
  all_goals simp +contextual [h]

/-! ## Gathers -/

@[simp] theorem gathInstr_padsOut {code scat o} (h : PadsWf s.teams) : PadsOut (gathInstr code scat o s) := by simp [gathInstr, h]

/-! ## The operand die -/

@[simp] theorem loadDie_pads {id o src off rows width col} (h : PadsWf s.teams) :
    PadsWf (s.loadDie id o src off rows width col).1.teams := by
  unfold State.loadDie
  split
  · next hread => exact pads_of_fst (opRead_pads h) hread
  · next hread => simpa using pads_of_fst (opRead_pads h) hread

/-! ## Tiles -/

@[simp] theorem retryLater_teams {c cycles} : (s.retryLater c cycles).teams = s.teams := by rfl

/-! ## Accumulator First-Use -/

@[simp] theorem readTiles_pads {team} (h : PadsWf s.teams) : PadsWf (s.readTiles team).teams := by simp [State.readTiles, h]

@[simp] theorem zeroFresh_pads {core ctx} (h : PadsWf s.teams) : PadsWf (s.zeroFresh core ctx).teams := by
  simp -implicitDefEqProofs +contextual [State.zeroFresh, h]

@[simp] theorem firstUse_pads {core team} (h : PadsWf s.teams) : PadsWf (s.firstUse core team).1.teams := by
  have hzero : ∀ {u : State} {t : Team}, PadsWf u.teams → PadsWf (if t.tspill == 0 then u else u.readTiles team).teams := by
    intro u t hu
    split <;> simp [hu]
  exact hzero (zeroFresh_pads (foldl_pads (fun _ _ hu => spillTiles_pads hu) h))

/-! ## MMA, MMAS and ACCNEXT -/

@[simp] theorem queueArray_teams {core id} : (s.queueArray core id).teams = s.teams := by rfl

@[simp] theorem startMma_teams {c grid cycles kind} : (s.startMma c grid cycles kind).teams = s.teams := by simp [State.startMma]

theorem ringDo_padsDone {c body} (hbody : ∀ t, PadsWf t.teams → PadsDone (body t)) (h : PadsWf s.teams) :
    PadsDone (s.ringDo c body) := by
  unfold State.ringDo State.ringCheck
  extract_lets t k reached used
  split
  · next hgo =>
    refine hbody _ ?_
    split at hgo
    · exact RingCheck.go.inj hgo ▸ h
    · split at hgo
      · exact RingCheck.go.inj hgo ▸ h
      · split at hgo <;> simp at hgo
  · next hagain =>
    refine stall_padsDone.2 ?_
    split at hagain
    · simp at hagain
    · split at hagain
      · simp at hagain
      · split at hagain
        · exact RingCheck.again.inj hagain ▸ h
        · obtain rfl := RingCheck.again.inj hagain
          rw [setGroup_teams, tally_teams]
          exact firstUse_pads (core := c.core) (team := c.g.team) h

@[simp] theorem mmaInstr_padsOut {code scr o} (h : PadsWf s.teams) : PadsOut (mmaInstr code scr o s) := by
  refine runState_padsOut (fun c => ?_) h
  extract_lets +onlyGivenNames pos t tile
  split
  · simp [h]
  · split
    · simp [h]
    · refine bind_padsDone fun _ => ?_
      split
      · simp [h]
      · exact bind_padsDone fun _ => ringDo_padsDone (fun _ ht => by simp [ht]) h

@[simp] theorem execAccnext_padsOut {o} (h : PadsWf s.teams) : PadsOut (execAccnext o s) := by
  refine runState_padsOut (fun c => ?_) h
  dsimp only
  repeat' first | split | refine bind_padsDone fun _ => ?_
  · simp [h]
  · simp [h]
  · simp [h]
  · exact ringDo_padsDone (fun _ ht => by simp [ht]) h

/-! ## The array -/

@[simp] theorem acceptOp_teams {core id o} : (s.acceptOp core id o).teams = s.teams := by simp [State.acceptOp]

@[simp] theorem execMatrixAccept_padsOut {core} (h : PadsWf s.teams) : PadsOut (execMatrixAccept core s) := by
  simp only [execMatrixAccept]
  repeat' split
  all_goals simp [h]

@[simp] theorem opDone_pads {id} (h : PadsWf s.teams) : PadsWf (s.opDone id).teams := by
  simp only [State.opDone]
  split <;> simp [h]

@[simp] theorem opRead'_pads {id} (h : PadsWf s.teams) : PadsWf (s.opRead' id).teams := by
  simp only [State.opRead']
  split <;> simp [h]

@[simp] theorem execTileComplete_padsOut {operation} (h : PadsWf s.teams) : PadsOut (execTileComplete operation s) := by
  simp only [execTileComplete]
  split <;> simp [h]

/-! ## ACCRD and ACCWR -/

@[simp] theorem execAccrd_padsOut {o} (h : PadsWf s.teams) : PadsOut (execAccrd o s) := by
  refine runState_padsOut (fun c => bind_padsDone fun _ => ?_) h
  repeat' first | split | refine bind_padsDone fun _ => ?_
  · simp
  · simp [h]
  · exact ringDo_padsDone (fun _ ht => issued_padsDone.2 ht) h

@[simp] theorem execAccwr_padsOut {o} (h : PadsWf s.teams) : PadsOut (execAccwr o s) := by
  refine runState_padsOut (fun c => ?_) h
  extract_lets pos tile
  repeat' first | split | refine bind_padsDone fun _ => ?_
  · simp [h]
  · simp [h]
  · exact ringDo_padsDone (fun _ ht => issued_padsDone.2 ht) h

/-! ## EPI -/

@[simp] theorem startEpi_teams {c toScr kind} : (s.startEpi c toScr kind).teams = s.teams := by simp [State.startEpi]

@[simp] theorem execEpi_padsOut {o} (h : PadsWf s.teams) : PadsOut (execEpi o s) := by
  refine runState_padsOut (fun c => ?_) h
  extract_lets toScr
  repeat' first | split | refine bind_padsDone fun _ => ?_
  · simp [h]
  · simp [h]
  · simp [h]
  · exact ringDo_padsDone (fun _ ht => by simp [ht]) h

@[simp] theorem execEpiStart_padsOut {core} (h : PadsWf s.teams) : PadsOut (execEpiStart core s) := by
  simp only [execEpiStart]
  repeat' split
  all_goals simp -implicitDefEqProofs [h]

@[simp] theorem epiWrite_pads {id o toScr dst pitch ofmt} (h : PadsWf s.teams) :
    PadsWf (s.epiWrite id o toScr dst pitch ofmt).1.teams := by
  refine foldl_fst_pads (fun q i hq => ?_) h
  split
  · exact hq
  · cases toScr <;> simp [hq]

end Sys2Proof.Machine

/-! # Scratchpads through a step: collectives and the decode instructions -/

namespace Sys2Proof.Machine

variable {s : State}

/-! ## The descriptor -/

@[simp] theorem execColl_padsOut {o} (h : PadsWf s.teams) : PadsOut (execColl o s) := by
  refine runState_padsOut (fun c => ?_) h
  extract_lets +onlyGivenNames mode
  split
  · simp [h]
  · refine bind_padsDone fun _ => ?_
    split
    · simp [h]
    · refine bind_padsDone fun _ => bind_padsDone fun _ => ?_
      split
      · simp [h]
      · split <;> simp [h]

/-! ## Names -/

@[simp] theorem collCheck_teams {k} : (s.collCheck k).teams = s.teams := by
  simp only [State.collCheck]
  split <;> simp

/-! ## Packets between devices -/

@[simp] theorem sendVector_teams {k c pos data} : (s.sendVector k c pos data).teams = s.teams := by simp [State.sendVector]

@[simp] theorem tellFailed_teams {k} : (s.tellFailed k).teams = s.teams := by
  simp only [State.tellFailed]
  split <;> simp

@[simp] theorem collFails_teams {k} : (s.collFails k).teams = s.teams := by simp [State.collFails]

/-! ## Results -/

@[simp] theorem writeResult_teams {k c sum} : (s.writeResult k c sum).teams = s.teams := by
  simp only [State.writeResult]
  split <;> simp

@[simp] theorem sendDown_teams {k c sum} : (s.sendDown k c sum).teams = s.teams := by simp [State.sendDown]

@[simp] theorem climbDevices_teams {k c data level fuel} : (s.climbDevices k c data level fuel).teams = s.teams := by
  induction fuel generalizing data level with
  | zero => rfl
  | succ fuel ih =>
    unfold State.climbDevices
    dsimp only
    repeat' split
    all_goals simp [ih]

@[simp] theorem ringStep_teams {k c own} : (s.ringStep k c own).teams = s.teams := by
  simp only [State.ringStep]
  repeat' split
  all_goals simp

@[simp] theorem collStep_teams {k} : (s.collStep k).teams = s.teams := by
  simp only [State.collStep]
  repeat' split
  all_goals simp

/-! ## The junction tree of the device -/

@[simp] theorem parkColl_teams {k} : (s.parkColl k).teams = s.teams := by
  simp only [State.parkColl]
  split <;> simp

@[simp] theorem forward_teams {k c level index data here} : (s.forward k c level index data here).teams = s.teams := by
  simp [State.forward]

@[simp] theorem climb_teams {k c level index data here} : (s.climb k c level index data here).teams = s.teams := by
  simp only [State.climb]
  repeat' split
  all_goals simp

@[simp] theorem execJunctionArrival_padsOut {coll pos} (h : PadsWf s.teams) : PadsOut (execJunctionArrival coll pos s) := by
  simp only [execJunctionArrival]
  repeat' split
  · simp [h]
  · simp [h]
  · simp [h]
  · exact next_padsOut.2 (attempt_pads (fun _ ht => by simpa using ht) h)
  · simp [h]

@[simp] theorem execPartialParkTimeout_padsOut {coll level index} (h : PadsWf s.teams) :
    PadsOut (execPartialParkTimeout coll level index s) := by
  simp only [execPartialParkTimeout]
  split <;> simp [h]

/-! ## Contributions -/

@[simp] theorem contribute_teams {o d fn dst list data} : (s.contribute o d fn dst list data).1.teams = s.teams := by
  simp only [State.contribute]
  repeat' split
  all_goals simp

@[simp] theorem collRead_pads {id o d mode res dst} (h : PadsWf s.teams) : PadsWf (s.collRead id o d mode res dst).teams := by
  unfold State.collRead
  extract_lets bytes
  have hread : ∀ {u : State} {c : Bool} {bs va n}, PadsWf u.teams →
      PadsWf (if c then (u, some bs) else u.opRead id va n).1.teams := fun hu => by simp [hu]
  split
  · next hplaces => exact pads_of_fst (opPlaces_pads h) hplaces
  · next hplaces =>
    have hu := pads_of_fst (opPlaces_pads h) hplaces
    split
    · next hlist => exact pads_of_fst (hread hu) hlist
    · next hlist =>
      have hv := pads_of_fst (hread hu) hlist
      split
      · next hbs => exact pads_of_fst (hread hv) hbs
      · next hbs => exact opRead'_pads (contribute_teams.symm ▸ pads_of_fst (hread hv) hbs)

@[simp] theorem forgetColl_teams {k} : (s.forgetColl k).teams = s.teams := by
  simp only [State.forgetColl]
  split <;> simp

@[simp] theorem collFinish_pads {id o d} (h : PadsWf s.teams) : PadsWf (s.collFinish id o d).teams := by
  unfold State.collFinish
  split
  · exact h
  · extract_lets u
    have hu : PadsWf u.teams := by simpa [u] using h
    split
    · split
      · next hwrite => exact pads_of_fst (opWrite_pads hu) hwrite
      · next hwrite =>
        have hv := pads_of_fst (opWrite_pads hu) hwrite
        dsimp only
        split <;> simp [hv]
    · simp [hu]

@[simp] theorem execCollectiveNameExpiry_padsOut {coll} (h : PadsWf s.teams) : PadsOut (execCollectiveNameExpiry coll s) := by
  simp only [execCollectiveNameExpiry]
  repeat' split
  all_goals simp [h]

/-! ## What comes from peers -/

@[simp] theorem takeCollective_teams {p} : (s.takeCollective p).teams = s.teams := by
  simp only [State.takeCollective]
  repeat' split
  all_goals simp

@[simp] theorem execRoundaboutTimeout_padsOut {coll} (h : PadsWf s.teams) : PadsOut (execRoundaboutTimeout coll s) := by
  simp only [execRoundaboutTimeout]
  repeat' split
  all_goals simp [h]

/-! ## Issue -/

@[simp] theorem decodeInstr_padsOut {code which o} (h : PadsWf s.teams) : PadsOut (decodeInstr code which o s) := by
  simp [decodeInstr, h]

/-! ## Decoding -/

theorem dpfxUnit_wf (d : List Byte) (src : List Host.Cell → Nat → Byte) {x : Decoding} (h : Memory.wf x.scr = true) :
    Memory.wf (dpfxUnit d src x).scr = true := by
  unfold dpfxUnit
  extract_lets +onlyGivenNames l e len scr scr'
  split
  · exact h
  · split
    · exact h
    · split
      · exact h
      · have hscr : Memory.wf scr = true := cwrite_wf _ _ _ h
        show Memory.wf scr' = true
        unfold scr'
        split
        · exact hscr
        · exact cwrite_wf _ _ _ hscr

theorem drleUnit_wf (d : List Byte) (word : Bool) (src : List Host.Cell → Nat → Byte) {x : Decoding} (h : Memory.wf x.scr = true) :
    Memory.wf (drleUnit d word src x).scr = true := by
  unfold drleUnit
  extract_lets w r count k scr
  have hscr : Memory.wf scr = true := List.foldlRecOn (motive := fun m => Memory.wf m = true) _ _ h fun m hm _ _ => cwrite_wf _ _ _ hm
  split
  · exact h
  · split <;> exact hscr

theorem dbitUnit_wf (d : List Byte) (sx : Bool) (src : List Host.Cell → Nat → Byte) {x : Decoding} (h : Memory.wf x.scr = true) :
    Memory.wf (dbitUnit d sx src x).scr = true := by
  unfold dbitUnit
  split
  · exact h
  · split
    · exact h
    · exact cwrite_wf _ _ _ h

theorem decodeUnit_wf (which fn : Nat) (d : List Byte) (src : List Host.Cell → Nat → Byte) {x : Decoding} (h : Memory.wf x.scr = true) :
    Memory.wf (decodeUnit which fn d src x).scr = true := by
  unfold decodeUnit
  split
  · exact dpfxUnit_wf _ _ h
  · exact drleUnit_wf _ _ _ h
  · exact dbitUnit_wf _ _ _ h

theorem decodeUnits_wf {f : Decoding → Decoding} (hf : ∀ {x}, Memory.wf x.scr = true → Memory.wf (f x).scr = true) (x : Decoding) (fuel : Nat)
    (h : Memory.wf x.scr = true) : Memory.wf (decodeUnits f x fuel).scr = true := by
  induction fuel generalizing x with
  | zero => exact h
  | succ n ih =>
    unfold decodeUnits
    dsimp only
    split
    · exact hf h
    · exact ih _ (hf h)

@[simp] theorem decodeOp_pads {id o which fn d at'} (h : PadsWf s.teams) : PadsWf (s.decodeOp id o which fn d at').teams := by
  unfold State.decodeOp
  extract_lets +onlyGivenNames scr
  split
  next lo n _ =>
  extract_lets +onlyGivenNames t
  have hread : PadsWf (if scr then (s, some []) else if n == 0 then (s, some []) else s.opRead id (streamSrc d + lo) n).1.teams := by
    simp [h]
  split
  · next heq => exact pads_of_fst hread heq
  · next heq =>
    have hu := pads_of_fst hread heq
    extract_lets +onlyGivenNames src r out
    have hr : Memory.wf r.scr = true := decodeUnits_wf (decodeUnit_wf _ _ _ _) _ _ (teamAt_wf h)
    have hout : Memory.wf out = true := cwrite_wf _ _ _ hr
    clear_value out
    exact opDone_pads (setTeam_pads hout hu)

/-! ## DCHK -/

@[simp] theorem dchkOp_pads {id o fn d at'} (h : PadsWf s.teams) : PadsWf (s.dchkOp id o fn d at').teams := by
  unfold State.dchkOp
  extract_lets +onlyGivenNames ok last
  split
  · split
    · next hread => exact pads_of_fst (opRead_pads h) hread
    · next hread => exact (pads_of_fst (opRead_pads h) hread :)
  · split
    · extract_lets off n
      split
      · next hwrite => exact (pads_of_fst (opWrite_pads h) hwrite :)
      · next hwrite => exact pads_of_fst (opWrite_pads h) hwrite
    · split
      · exact opRead'_pads h
      · split
        · exact h
        · exact opDone_pads (scratchWrite_pads (scratchWrite_pads h))

/-! ## Completion -/

@[simp] theorem copyDone_pads {id o} (h : PadsWf s.teams) : PadsWf (s.copyDone id o).teams := by
  simp only [State.copyDone]
  repeat' split
  all_goals simp -implicitDefEqProofs [h]

@[simp] theorem epiDone_pads {id o toScr dst pitch ofmt} (h : PadsWf s.teams) :
    PadsWf (s.epiDone id o toScr dst pitch ofmt).teams := by
  unfold State.epiDone
  split
  · exact h
  · split
    · exact opRead'_pads h
    · split
      · split
        · next hwrite => exact pads_of_fst (epiWrite_pads h) hwrite
        · next hwrite =>
          have hu := pads_of_fst (epiWrite_pads h) hwrite
          split <;> simp [hu]
      · simp [h]

@[simp] theorem forgetFailed_teams {k} : (s.forgetFailed k).teams = s.teams := by
  simp only [State.forgetFailed]
  split <;> simp

@[simp] theorem completeOp_pads {id o} (h : PadsWf s.teams) : PadsWf (s.completeOp id o).teams := by
  simp only [State.completeOp]
  repeat' split
  all_goals try simp [h]
  · next hload => exact opDone_pads (pads_of_fst (loadDie_pads h) hload)
  · next hload => exact pads_of_fst (loadDie_pads h) hload

@[simp] theorem execEngineOperationComplete_padsOut {operation} (h : PadsWf s.teams) :
    PadsOut (execEngineOperationComplete operation s) := by
  unfold execEngineOperationComplete
  split
  · exact next_padsOut.2 h
  · exact next_padsOut.2 (attempt_pads (fun _ ht => completeOp_pads ht) h)

end Sys2Proof.Machine

/-! # Scratchpads through a step: grids and placement -/

namespace Sys2Proof.Machine

variable {s : State}

/-! ## Region control blocks -/

@[simp] theorem readNode_teams {ctx addr} : (s.readNode ctx addr).1.teams = s.teams := by
  unfold State.readNode
  split
  · rfl
  · split
    · next hread => exact (fst_teams hread).trans unitRead_teams
    · next hread => exact (fst_teams hread).trans unitRead_teams

/-! ## Grid start -/

@[simp] theorem startCopies_teams {grid es} : (s.startCopies grid es).teams = s.teams := by
  refine foldl_keeps State.teams (fun _ _ => ?_) _ _
  dsimp only
  split <;> simp

theorem foldlM_keeps {σ α γ : Type} {g : σ → γ} {f : σ → α → Option σ} (hf : ∀ p q a, f p a = some q → g q = g p) {l : List α}
    {p q : σ} (hq : l.foldlM f p = some q) : g q = g p := by
  induction l generalizing p with
  | nil => exact Option.some.inj hq ▸ rfl
  | cons a l ih =>
    rw [List.foldlM_cons, Option.bind_eq_bind, Option.bind_eq_some_iff] at hq
    obtain ⟨u, hu, hq⟩ := hq
    exact (ih hq).trans (hf _ _ _ hu)

theorem takeAccounts_teams {t : State} {grid needs} (ht : s.takeAccounts grid needs = some t) : t.teams = s.teams := by
  refine foldlM_keeps (g := State.teams) (fun u v a hv => ?_) ht
  dsimp only at hv
  split at hv
  all_goals
    obtain ⟨k, -, rfl⟩ := Option.map_eq_some_iff.mp hv
    rfl

@[simp] theorem fundGrid_teams {grid} : (s.fundGrid grid).teams = s.teams := by
  simp only [State.fundGrid]
  split
  · rfl
  · next hneeds => simp [takeAccounts_teams hneeds]

@[simp] theorem badGrid_teams {queue index node} : (s.badGrid queue index node).teams = s.teams := by simp [State.badGrid]

@[simp] theorem climbChain_teams {ctx nodes parent fuel} : (s.climbChain ctx nodes parent fuel).state.teams = s.teams := by
  induction fuel generalizing s nodes parent with
  | zero => rfl
  | succ fuel ih =>
    unfold State.climbChain
    split
    · next hnode => exact (fst_teams hnode).trans readNode_teams
    · next hnode =>
      have hnode := (fst_teams hnode).trans readNode_teams
      dsimp only
      repeat' split
      all_goals first | exact hnode | exact ih.trans hnode

@[simp] theorem readChain_teams {ctx grid} : (s.readChain ctx grid).state.teams = s.teams := by
  unfold State.readChain
  split
  · next hnode => exact (fst_teams hnode).trans readNode_teams
  · next hnode =>
    have hgrid := (fst_teams hnode).trans readNode_teams
    extract_lets teams
    split
    · exact hgrid
    · split
      · next hnode =>
        have hleaf := ((fst_teams hnode).trans readNode_teams).trans hgrid
        split <;> exact hleaf
      · next hnode =>
        have hleaf := ((fst_teams hnode).trans readNode_teams).trans hgrid
        split
        · exact hleaf
        · split
          · exact hleaf
          · exact climbChain_teams.trans hleaf

theorem readSchedule_teams {ctx e p} (hp : s.readSchedule ctx e = some p) : p.1.teams = s.teams := by
  refine foldlM_keeps (g := fun q : State × List (Nat × Nat × Nat × Nat) => q.1.teams) (fun q r a hr => ?_) hp
  split at hr
  · simp at hr
  · next hread =>
    extract_lets n ok at hr
    dsimp only at hr
    split at hr
    · simp at hr
    · exact Option.some.inj hr ▸ (fst_teams hread).trans unitRead_teams

theorem checkInForce_teams {ctx e p} (hp : s.checkInForce ctx e = .ok p) : p.1.teams = s.teams := by
  unfold State.checkInForce at hp
  simp only [ite_eq_iff, reduceCtorEq, and_false, false_or] at hp
  obtain ⟨-, -, -, -, -, hp⟩ := hp
  split at hp
  · simp at hp
  · next hsched =>
    split at hp
    · exact Except.ok.inj hp ▸ readSchedule_teams hsched
    · simp at hp

@[simp] theorem startGrid_teams {queue index entry} : (s.startGrid queue index entry).teams = s.teams := by
  unfold State.startGrid
  extract_lets +onlyGivenNames q u v addr
  have hv : (v.readChain q.ctx addr).state.teams = s.teams := readChain_teams
  split
  · next heq =>
    rw [heq] at hv
    exact badGrid_teams.trans hv
  · next heq =>
    rw [heq] at hv
    extract_lets +onlyGivenNames own e
    split
    · exact badGrid_teams.trans hv
    · next hcheck => exact fundGrid_teams.trans ((checkInForce_teams hcheck).trans hv)

@[simp] theorem failWaiting_teams {queue index} : (s.failWaiting queue index).teams = s.teams := by simp [State.failWaiting]

@[simp] theorem execGridStart_padsOut {queue} (h : PadsWf s.teams) : PadsOut (execGridStart queue s) := by
  simp only [execGridStart]
  repeat' split
  all_goals simp [h]

@[simp] theorem execGridReady_padsOut {grid} (h : PadsWf s.teams) : PadsOut (execGridReady grid s) := by
  simp only [execGridReady]
  split <;> simp [h]

/-! ## Eligibility and wait clocks -/

@[simp] theorem runClocks_teams : s.runClocks.teams = s.teams := by rfl

/-! ## Budget periods -/

@[simp] theorem execAccountCharge_padsOut {index} (h : PadsWf s.teams) : PadsOut (execAccountCharge index s) := by
  simp only [execAccountCharge]
  repeat' split
  all_goals simp +contextual [h]

@[simp] theorem execBudgetPeriodBoundary_padsOut (h : PadsWf s.teams) : PadsOut (execBudgetPeriodBoundary s) := by
  simp [execBudgetPeriodBoundary, h]

/-! ## Suspension -/

@[simp] theorem suspend_pads {bits} (h : PadsWf s.teams) : PadsWf (s.suspend bits).teams :=
  foldl_pads (fun _ _ h1 => by simp [h1]) h

@[simp] theorem unsuspend_pads {bits} (h : PadsWf s.teams) : PadsWf (s.unsuspend bits).teams := by simp [State.unsuspend, h]

@[simp] theorem execDsuspSet_padsOut {value} (h : PadsWf s.teams) : PadsOut (execDsuspSet value s) := by simp [execDsuspSet, h]

@[simp] theorem execDsuspClear_padsOut {value} (h : PadsWf s.teams) : PadsOut (execDsuspClear value s) := by
  simp [execDsuspClear, h]

/-! ## A team comes onto its core -/

@[simp] theorem emptyLines_teams {core p} : (s.emptyLines core p).teams = s.teams := by simp [State.emptyLines]

@[simp] theorem setFused_teams {cluster fused} : (s.setFused cluster fused).teams = s.teams := by simp [State.setFused]

@[simp] theorem takeUnits_pads {team core n} (h : PadsWf s.teams) : PadsWf (s.takeUnits team core n).teams := by
  simp [State.takeUnits, h]

@[simp] theorem takeTiles_pads {team core afresh} (h : PadsWf s.teams) : PadsWf (s.takeTiles team core afresh).1.teams := by
  simp -implicitDefEqProofs +contextual [State.takeTiles, h]

@[simp] theorem reserve_pads {team} (h : PadsWf s.teams) : PadsWf (s.reserve team).teams := by
  simp only [State.reserve]
  split <;> simp [h]

@[simp] theorem takeTask_pads {team} (h : PadsWf s.teams) : PadsWf (s.takeTask team).teams := by
  simp only [State.takeTask]
  split <;> simp [h]

@[simp] theorem newGroup_teams {team gix ready} : (s.newGroup team gix ready).teams = s.teams := by rfl

@[simp] theorem startBase_teams {core} : (s.startBase core).2.teams = s.teams := by
  simp only [State.startBase]
  split <;> simp

@[simp] theorem restoreGroups_pads {team base park} (h : PadsWf s.teams) : PadsWf (s.restoreGroups team base park).teams := by
  unfold State.restoreGroups
  extract_lets +onlyGivenNames t e a kept
  split
  next heq =>
  have hu := (fst_teams heq).trans (foldl_keeps (fun q : State × Nat => q.1.teams) (fun q x => by simp) _ _)
  exact setTeam_pads (teamAt_wf (hu ▸ h)) (hu ▸ h)

@[simp] theorem restoreTiles_pads {team core left} (h : PadsWf s.teams) : PadsWf (s.restoreTiles team core left).teams := by
  -- what is read of an area stays a variable: the kernel is not to compute the 4096 bytes of a tile
  obtain ⟨read, hget, hread⟩ : ∃ read, State.getArea = read ∧ ∀ {t : State} {a off n}, (read t a off n).1.teams = t.teams :=
    ⟨_, rfl, getArea_teams⟩
  unfold State.restoreTiles
  rw [hget]
  refine foldl_pads (fun u a hu => ?_) h
  split
  split
  next harea =>
  have hv : PadsWf _ := (fst_teams harea).trans hread ▸ hu
  split <;> simp [hv]

@[simp] theorem dropStale_teams {core ctx started} : (s.dropStale core ctx started).teams = s.teams := by rfl

@[simp] theorem placeTeam_pads {team core} (h : PadsWf s.teams) : PadsWf (s.placeTeam team core).teams := by
  unfold State.placeTeam
  extract_lets +onlyGivenNames t g e afresh park s1 s2
  have hs2 : PadsWf s2.teams := by simp [s2, s1, h]
  extract_lets +onlyGivenNames s3
  have hs3 : PadsWf s3.teams := by simp [s3, hs2]
  extract_lets +onlyGivenNames s4
  have hs4 : PadsWf s4.teams := takeUnits_pads hs3
  split
  next base0 s5 hbase =>
  have hs5 : PadsWf s5.teams := (snd_teams hbase).trans startBase_teams ▸ hs4
  extract_lets +onlyGivenNames t6 s6
  have hs6 : PadsWf s6.teams := by simp [s6, t6, hs5]
  split
  next s7 _ _ htiles =>
  have hs7 : PadsWf s7.teams := pads_of_fst (takeTiles_pads hs6) htiles
  extract_lets +onlyGivenNames base t7 s8 s9 k s10
  have hs10 : PadsWf s10.teams := setTeam_pads (teamAt_wf hs7) hs7
  clear_value s10
  split
  · simp [hs10]
  · extract_lets +onlyGivenNames s11 s12 s13 s14
    have hs12 : PadsWf s12.teams := restoreGroups_pads (loadScratch_pads hs10)
    have hs13 : PadsWf s13.teams := by simp [s13, hs12]
    simp [s14, hs13]

/-! ## The placement step -/

@[simp] theorem placeUnit_pads {i site} (h : PadsWf s.teams) : PadsWf (s.placeUnit i site).teams := by
  refine foldl_pads (fun _ _ h1 => ?_) h
  dsimp only
  repeat' split
  all_goals simp [h1]

@[simp] theorem tryItems_pads {first items} (h : PadsWf s.teams) : PadsWf (s.tryItems first items).state.teams := by
  induction items generalizing s with
  | nil => exact h
  | cons a rest ih =>
    obtain ⟨n, i⟩ := a
    unfold State.tryItems
    extract_lets +onlyGivenNames i'
    split
    · exact ih h
    · split
      · exact placeUnit_pads h
      · extract_lets +onlyGivenNames i1 d s1
        split
        · exact h
        · exact ih h

@[simp] theorem tryLevels_pads {first levels} (h : PadsWf s.teams) : PadsWf (s.tryLevels first levels).1.state.teams := by
  induction levels generalizing s with
  | nil => exact h
  | cons lv rest ih =>
    have hitems := tryItems_pads (first := first) (items := s.dist.level lv) h
    unfold State.tryLevels
    split
    · next heq =>
      rw [heq] at hitems
      exact hitems
    · next heq =>
      rw [heq] at hitems
      exact hitems
    · next heq =>
      rw [heq] at hitems
      exact ih hitems

@[simp] theorem execPlacementDecision_padsOut (h : PadsWf s.teams) : PadsOut (execPlacementDecision s) := by
  unfold execPlacementDecision
  split
  · exact next_padsOut.2 h
  · extract_lets +onlyGivenNames d u
    have hfirst : PadsWf (u.tryLevels true levels).1.state.teams := tryLevels_pads h
    split
    · next heq =>
      rw [heq] at hfirst
      exact next_padsOut.2 hfirst
    all_goals
      next heq =>
      rw [heq] at hfirst
      extract_lets +onlyGivenNames above d v
      have hsecond : PadsWf (v.tryLevels false above).1.state.teams := tryLevels_pads hfirst
      split
      all_goals
        next hpass =>
        rw [hpass] at hsecond
        exact next_padsOut.2 hsecond

@[simp] theorem execPlacementReservation_padsOut (h : PadsWf s.teams) : PadsOut (execPlacementReservation s) := by
  simp only [execPlacementReservation]
  split <;> simp [h]

end Sys2Proof.Machine

/-! # Scratchpads through a step: contexts and queues -/

namespace Sys2Proof.Machine

variable {s : State}

/-! ## BAR4 -/

@[simp] theorem tellBad_teams {line} : (s.tellBad line).teams = s.teams := by simp [State.tellBad]

@[simp] theorem hostLine_teams {pa n} : (s.hostLine pa n).1.teams = s.teams := by
  simp only [State.hostLine]
  repeat' split
  all_goals simp

@[simp] theorem bar4Read_teams {pa n} : (s.bar4Read pa n).teams = s.teams := by
  unfold State.bar4Read
  split
  next hfold =>
  refine (fst_teams hfold).trans (foldl_keeps (fun p : State × List Byte => p.1.teams) (fun p x => ?_) _ _)
  exact hostLine_teams

/-- As `attempt_pads`, with the state that the work leaves as a variable: the kernel is not to compute it. -/
theorem attempt_pads_of_eq {payer f} (hf : ∀ t u, f t = u → PadsWf t.teams → PadsWf u.teams) (h : PadsWf s.teams) :
    PadsWf (s.attempt payer f).teams := attempt_pads (fun t => hf t _ rfl) h

@[simp] theorem execBar4Read_padsOut {off bytes} (h : PadsWf s.teams) : PadsOut (execBar4Read off bytes s) := by
  unfold execBar4Read
  repeat' split
  · exact next_padsOut.2 h
  · exact next_padsOut.2 h
  · exact next_padsOut.2 h
  · exact next_padsOut.2 (attempt_pads_of_eq (fun _ _ hu ht => hu ▸ bar4Read_teams.symm ▸ ht) h)

@[simp] theorem execBar4Write_padsOut {off data} (h : PadsWf s.teams) : PadsOut (execBar4Write off data s) := by
  unfold execBar4Write
  split
  · exact next_padsOut.2 h
  · extract_lets pa
    split
    · exact next_padsOut.2 h
    · exact next_padsOut.2 (attempt_pads_of_eq (fun _ _ hu ht => hu ▸ writeNow_teams.symm ▸ ht) h)

/-! ## Context registers -/

@[simp] theorem ctxError_teams {ctx} : (s.ctxError ctx).teams = s.teams := by rfl

@[simp] theorem enableCtx_teams {ctx func pasid} : (s.enableCtx ctx func pasid).teams = s.teams := by simp [State.enableCtx]

@[simp] theorem forgetCtx_teams {ctx} : (s.forgetCtx ctx).teams = s.teams := by rfl

@[simp] theorem cxctlWrite_teams {ctx value} : (s.cxctlWrite ctx value).teams = s.teams := by simp [State.cxctlWrite]

@[simp] theorem execContextEnable_padsOut {func ctx value} (h : PadsWf s.teams) : PadsOut (execContextEnable func ctx value s) := by
  simp [execContextEnable, h]

@[simp] theorem execContextDisable_padsOut {func ctx value} (h : PadsWf s.teams) :
    PadsOut (execContextDisable func ctx value s) := by
  simp [execContextDisable, h]

/-! ## The record ring -/

@[simp] theorem cxrriWrite_teams {ctx value} : (s.cxrriWrite ctx value).teams = s.teams := by simp [State.cxrriWrite]

@[simp] theorem execRecordRingReadIndexWrite_padsOut {func ctx value} (h : PadsWf s.teams) :
    PadsOut (execRecordRingReadIndexWrite func ctx value s) := by
  simp [execRecordRingReadIndexWrite, h]

@[simp] theorem writeHeld_teams {ctx} : (s.writeHeld ctx).teams = s.teams := by
  unfold State.writeHeld
  split
  · rfl
  · split
    · next hring => simpa using ringWrite_teams (.inl hring)
    · next hring => exact ringWrite_teams (.inr hring)

@[simp] theorem execHeldRecordWrite_padsOut {ctx} (h : PadsWf s.teams) : PadsOut (execHeldRecordWrite ctx s) := by
  simp [execHeldRecordWrite, h]

/-! ## The write index -/

@[simp] theorem overrun_teams {q} : (s.overrun q).teams = s.teams := by simp [State.overrun]

@[simp] theorem qwin_teams {q value} : (s.qwin q value).teams = s.teams := by simp [State.qwin]

@[simp] theorem execQwinWrite_padsOut {func queue value} (h : PadsWf s.teams) : PadsOut (execQwinWrite func queue value s) := by
  simp [execQwinWrite, h]

/-! ## Fetch -/

@[simp] theorem finishFetch_teams {q} : (s.finishFetch q).teams = s.teams := by
  simp only [State.finishFetch]
  repeat' split
  all_goals simp

@[simp] theorem issueFetch_teams {queue} : (s.issueFetch queue).teams = s.teams := by
  simp only [State.issueFetch]
  split <;> simp

@[simp] theorem execRecordFetch_padsOut {queue} (h : PadsWf s.teams) : PadsOut (execRecordFetch queue s) := by
  simp [execRecordFetch, h]

@[simp] theorem execRecordFetchComplete_padsOut {queue} (h : PadsWf s.teams) : PadsOut (execRecordFetchComplete queue s) := by
  simp [execRecordFetchComplete, h]

/-! ## Queue control -/

@[simp] theorem abortQueue_pads {q} (h : PadsWf s.teams) : PadsWf (s.abortQueue q).teams := by
  simp only [State.abortQueue]
  split
  · exact h
  · rw [setQueue_teams]
    refine foldl_pads (fun u g hu => ?_) h
    split <;> simp [hu]

@[simp] theorem stopQueue_teams {q} : (s.stopQueue q).teams = s.teams := by
  simp only [State.stopQueue]
  split <;> simp

@[simp] theorem resumeQueue_teams {q} : (s.resumeQueue q).teams = s.teams := by simp [State.resumeQueue]

@[simp] theorem enableQueue_teams {q en} : (s.enableQueue q en).teams = s.teams := by simp [State.enableQueue]

@[simp] theorem qctlWrite_pads {q value} (h : PadsWf s.teams) : PadsWf (s.qctlWrite q value).teams := by simp [State.qctlWrite, h]

@[simp] theorem execQueueCreate_padsOut {func queue value} (h : PadsWf s.teams) : PadsOut (execQueueCreate func queue value s) := by
  simp [execQueueCreate, h]

@[simp] theorem execQueueDestroy_padsOut {func queue value} (h : PadsWf s.teams) :
    PadsOut (execQueueDestroy func queue value s) := by
  simp [execQueueDestroy, h]

@[simp] theorem execQueueStop_padsOut {func queue value} (h : PadsWf s.teams) : PadsOut (execQueueStop func queue value s) := by
  simp [execQueueStop, h]

@[simp] theorem execQueueAbort_padsOut {func queue value} (h : PadsWf s.teams) : PadsOut (execQueueAbort func queue value s) := by
  simp [execQueueAbort, h]

@[simp] theorem execQueueResume_padsOut {func queue value} (h : PadsWf s.teams) : PadsOut (execQueueResume func queue value s) := by
  simp [execQueueResume, h]

/-! ## Starting records -/

@[simp] theorem addressFault_teams {q cause addr} : (s.addressFault q cause addr).teams = s.teams := by simp [State.addressFault]

@[simp] theorem poll_teams {queue} : (s.poll queue).teams = s.teams := by
  simp only [State.poll]
  split
  · rfl
  · split
    · rfl
    · split <;> simp [fst_teams ‹_›]

@[simp] theorem execWaitAddressPoll_padsOut {queue} (h : PadsWf s.teams) : PadsOut (execWaitAddressPoll queue s) := by
  simp only [execWaitAddressPoll]
  repeat' split
  all_goals simp [h]

@[simp] theorem execRecordStart_padsOut {queue} (h : PadsWf s.teams) : PadsOut (execRecordStart queue s) := by
  simp only [execRecordStart]
  split <;> simp [h]

/-! ## Completion actions -/

@[simp] theorem pollWord_teams {ctx addr} : (s.pollWord ctx addr).teams = s.teams := by simp [State.pollWord]

@[simp] theorem complete_teams {queue r rest} : (s.complete queue r rest).teams = s.teams := by
  unfold State.complete
  extract_lets +onlyGivenNames ctx l ok
  split
  next u signalled hu =>
  have hu : u.teams = s.teams := by
    rw [fst_teams hu]
    split
    · rfl
    · split
      · next hwrite => exact (fst_teams hwrite).trans unitWrite_teams
      · next hwrite => exact addressFault_teams.trans ((fst_teams hwrite).trans unitWrite_teams)
  simp [hu]

@[simp] theorem execRecordCompletionActions_padsOut {queue} (h : PadsWf s.teams) :
    PadsOut (execRecordCompletionActions queue s) := by
  simp only [execRecordCompletionActions]
  split <;> simp [h]

/-! ## LAUNCH -/

@[simp] theorem execLaunch_padsOut {o} (h : PadsWf s.teams) : PadsOut (execLaunch o s) := by
  refine runState_padsOut (fun c => ?_) h
  dsimp only
  repeat' first | split | refine bind_padsDone fun _ => ?_
  all_goals simp [h]

@[simp] theorem append_teams {team queue at'} : (s.append team queue at').1.teams = s.teams := by
  simp only [State.append]
  split
  · rfl
  · split
    · simp
    · split <;> simp [fst_teams ‹_›]

@[simp] theorem launched_teams {message team queue at' core slot entry sent} :
    (s.launched message team queue at' core slot entry sent).teams = s.teams := by
  simp only [State.launched]
  repeat' split
  all_goals simp

@[simp] theorem execLaunchAppend_padsOut {message} (h : PadsWf s.teams) : PadsOut (execLaunchAppend message s) := by
  simp only [execLaunchAppend]
  repeat' split
  all_goals simp [h]

/-! ## Function Level Reset -/

@[simp] theorem endFlr_teams {func} : (s.endFlr func).teams = s.teams := by
  simp only [State.endFlr]
  split <;> simp

@[simp] theorem flr_pads {func} (h : PadsWf s.teams) : PadsWf (s.flr func).teams := by
  simp -implicitDefEqProofs +contextual [State.flr, h]

@[simp] theorem execFlrVf_padsOut {vf} (h : PadsWf s.teams) : PadsOut (execFlrVf vf s) := by simp [execFlrVf, h]

@[simp] theorem execFlrQueueDestroy_padsOut {queue} (h : PadsWf s.teams) : PadsOut (execFlrQueueDestroy queue s) := by
  simp [execFlrQueueDestroy, h]

end Sys2Proof.Machine

/-! # Scratchpads through a step: the peer links -/

namespace Sys2Proof.Machine

variable {s : State}

/-! ## The end of a checkpoint -/

@[simp] theorem ckFinish_pads {ok} (h : PadsWf s.teams) : PadsWf (s.ckFinish ok).teams := by
  unfold State.ckFinish
  rw [postPhysical_teams]
  exact endCauses_pads (foldl_pads (fun _ _ hu => dropOp_pads hu) h)

/-! ## Completing a request of this device -/

@[simp] theorem peerDone_pads {port owner stat data} (h : PadsWf s.teams) : PadsWf (s.peerDone port owner stat data).teams := by
  simp only [State.peerDone]
  repeat' split
  all_goals simp [h]

/-! ## Routes -/

@[simp] theorem holdRoutes_teams : s.holdRoutes.teams = s.teams := by simp [State.holdRoutes]

@[simp] theorem execRouteHoldRelease_padsOut {device} (h : PadsWf s.teams) : PadsOut (execRouteHoldRelease device s) := by
  simp only [execRouteHoldRelease]
  split <;> simp [h]

@[simp] theorem respond_teams {req stat data source} : (s.respond req stat data source).teams = s.teams := by
  simp only [State.respond]
  split <;> simp

/-! ## Inbound requests -/

@[simp] theorem serveInbound_padsOut {port ops bytes act} (hact : ∀ t k, PadsWf t.teams → PadsWf (act t k).1.teams) (h : PadsWf s.teams) :
    PadsOut (s.serveInbound port ops bytes act) := by
  unfold State.serveInbound
  split
  · exact next_padsOut.2 h
  · split
    · simp [h]
    · exact next_padsOut.2 (attempt_pads (fun _ ht => respond_teams.symm ▸ hact _ _ ht) h)

/-! ## Routes -/

@[simp] theorem execPeerRequestSend_padsOut {port} (h : PadsWf s.teams) : PadsOut (execPeerRequestSend port s) := by
  simp only [execPeerRequestSend]
  repeat' split
  all_goals simp -implicitDefEqProofs [h]

/-! ## Packets in transit -/

@[simp] theorem feedOut_teams {port tc pays last} : (s.feedOut port tc pays last).teams = s.teams := by rfl

/-! ## Port loss -/

@[simp] theorem portLost_pads {n state} (h : PadsWf s.teams) : PadsWf (s.portLost n state).teams := by
  unfold State.portLost
  extract_lets +onlyGivenNames p queued heads transit answers tags s1 p1 s2 s3 s4 s5 s6
  have hs4 : s4.teams = s.teams := by
    refine (foldl_keeps State.teams (fun u i => ?_) answers s3).trans (by simp [s3, s2, s1])
    split <;> simp
  have hs5 : PadsWf s5.teams := foldl_pads (fun _ _ hu => peerDone_pads hu) (hs4 ▸ h)
  simp [s6, hs5]

@[simp] theorem execPortReplayLimit_padsOut {port} (h : PadsWf s.teams) : PadsOut (execPortReplayLimit port s) := by
  simp [execPortReplayLimit, h]

@[simp] theorem execPortReceiveTimeout_padsOut {port} (h : PadsWf s.teams) : PadsOut (execPortReceiveTimeout port s) := by
  simp [execPortReceiveTimeout, h]

/-! ## Port registers -/

@[simp] theorem train_teams {n} : (s.train n).teams = s.teams := by simp [State.train]

@[simp] theorem pctlWrite_pads {n value} (h : PadsWf s.teams) : PadsWf (s.pctlWrite n value).teams := by
  simp -implicitDefEqProofs [State.pctlWrite, h]

@[simp] theorem execPortEnable_padsOut {port value} (h : PadsWf s.teams) : PadsOut (execPortEnable port value s) := by
  simp [execPortEnable, h]

@[simp] theorem execPortDisable_padsOut {port value} (h : PadsWf s.teams) : PadsOut (execPortDisable port value s) := by
  simp [execPortDisable, h]

@[simp] theorem execPortRetrain_padsOut {port value} (h : PadsWf s.teams) : PadsOut (execPortRetrain port value s) := by
  simp [execPortRetrain, h]

@[simp] theorem execPortTrainingDone_padsOut {port} (h : PadsWf s.teams) : PadsOut (execPortTrainingDone port s) := by
  simp [execPortTrainingDone, h]

@[simp] theorem execPwgtWrite_padsOut {port value} (h : PadsWf s.teams) : PadsOut (execPwgtWrite port value s) := by
  simp [execPwgtWrite, h]

@[simp] theorem execPdevidWrite_padsOut {value} (h : PadsWf s.teams) : PadsOut (execPdevidWrite value s) := by
  simp [execPdevidWrite, h]

/-! ## Sending -/

@[simp] theorem sendNew_teams {n tc} : (s.sendNew n tc).teams = s.teams := by
  simp only [State.sendNew]
  repeat' split
  all_goals simp

@[simp] theorem sendAgain_teams {n f} : (s.sendAgain n f).teams = s.teams := by
  simp only [State.sendAgain]
  split <;> simp

@[simp] theorem execFlitSlot_padsOut {port} (h : PadsWf s.teams) : PadsOut (execFlitSlot port s) := by
  simp only [execFlitSlot]
  repeat' split
  all_goals simp [h]

@[simp] theorem execGoBackNReplay_padsOut {port seq} (h : PadsWf s.teams) : PadsOut (execGoBackNReplay port seq s) := by
  simp [execGoBackNReplay, h]

/-! ## Receiving -/

@[simp] theorem endRecv_teams {port o} : (s.endRecv port o).teams = s.teams := by simp [State.endRecv]

@[simp] theorem acceptFlit_teams {port p body} : (s.acceptFlit port p body).teams = s.teams := by
  simp only [State.acceptFlit]
  repeat' split
  all_goals simp

@[simp] theorem execFlitReceive_padsOut {port flit} (h : PadsWf s.teams) : PadsOut (execFlitReceive port flit s) := by
  unfold execFlitReceive
  extract_lets +onlyGivenNames p
  split
  · exact next_padsOut.2 h
  · split
    simp [h]

/-! ## Taking packets in -/

@[simp] theorem execTransitPacket_padsOut {port} (h : PadsWf s.teams) : PadsOut (execTransitPacket port s) := by
  simp only [execTransitPacket]
  repeat' split
  all_goals simp [h]

@[simp] theorem execPeerResponse_padsOut {port} (h : PadsWf s.teams) : PadsOut (execPeerResponse port s) := by
  simp only [execPeerResponse]
  repeat' split
  all_goals simp -implicitDefEqProofs [h]

/-! ## Inbound requests -/

@[simp] theorem execPeerLoad_padsOut {port} (h : PadsWf s.teams) : PadsOut (execPeerLoad port s) :=
  serveInbound_padsOut (fun _ _ ht => by simp [ht]) h

@[simp] theorem execPeerStore_padsOut {port} (h : PadsWf s.teams) : PadsOut (execPeerStore port s) := by simp [execPeerStore, h]

@[simp] theorem peerAtomicAt_teams {k} : (s.peerAtomicAt k).1.teams = s.teams := by
  simp only [State.peerAtomicAt]
  split <;> simp

@[simp] theorem execPeerAtomic_padsOut {port} (h : PadsWf s.teams) : PadsOut (execPeerAtomic port s) := by simp [execPeerAtomic, h]

@[simp] theorem execPeerAtomicNoReturn_padsOut {port} (h : PadsWf s.teams) : PadsOut (execPeerAtomicNoReturn port s) := by
  simp [execPeerAtomicNoReturn, h]

@[simp] theorem execPeerBulkWrite_padsOut {port} (h : PadsWf s.teams) : PadsOut (execPeerBulkWrite port s) := by
  simp [execPeerBulkWrite, h]

@[simp] theorem execPeerCheckpointPage_padsOut {port} (h : PadsWf s.teams) : PadsOut (execPeerCheckpointPage port s) := by
  simp [execPeerCheckpointPage, h]

@[simp] theorem execPeerCollectivePacket_padsOut {port} (h : PadsWf s.teams) : PadsOut (execPeerCollectivePacket port s) := by
  simp only [execPeerCollectivePacket]
  split <;> simp [h]

@[simp] theorem execPeerReservedOp_padsOut {port} (h : PadsWf s.teams) : PadsOut (execPeerReservedOp port s) := by
  simp only [execPeerReservedOp]
  split <;> simp [h]

end Sys2Proof.Machine

/-! # Scratchpads through a step: bring-up, the checkpoint and the host's registers -/

namespace Sys2Proof.Machine

variable {s : State}

/-! ## Resets and rails -/

@[simp] theorem blank_pads : PadsWf s.blank.teams := by simp [State.blank]

@[simp] theorem execModuleReset_padsOut (h : PadsWf s.teams) : PadsOut (execModuleReset s) := by simp [execModuleReset, h]

@[simp] theorem powerDown_pads {vaux vmem} : PadsWf (s.powerDown vaux vmem).teams := by simp [State.powerDown]

/-! ## The orderly stop -/

@[simp] theorem stopAll_teams : s.stopAll.teams = s.teams := by rfl

@[simp] theorem dropVersions_pads : PadsWf s.dropVersions.teams := by simp [State.dropVersions]

@[simp] theorem writeBack_teams : s.writeBack.teams = s.teams := by simp [State.writeBack]

@[simp] theorem t3Act_pads {k} (h : PadsWf s.teams) : PadsWf (s.t3Act k).teams := by
  simp only [State.t3Act]
  repeat' split
  all_goals simp +contextual [h]

@[simp] theorem t3Advance_pads (h : PadsWf s.teams) : PadsWf s.t3Advance.teams := by simp [State.t3Advance, h]

@[simp] theorem orderlyStop_pads (h : PadsWf s.teams) : PadsWf s.orderlyStop.teams := by simp [State.orderlyStop, h]

@[simp] theorem setStep_teams {c step} : (s.setStep c step).teams = s.teams := by simp [State.setStep]

@[simp] theorem tableFrom_pads {old} (h : PadsWf s.teams) : PadsWf (s.tableFrom old).teams := by
  simp only [State.tableFrom]
  split <;> simp [h]

@[simp] theorem chipFault_pads {n} (h : PadsWf s.teams) : PadsWf (s.chipFault n).teams := by simp [State.chipFault, h]

@[simp] theorem execRailFault_padsOut {rails} (h : PadsWf s.teams) : PadsOut (execRailFault rails s) := by
  unfold execRailFault
  extract_lets +onlyGivenNames hit t
  have ht : PadsWf t.teams := by
    unfold t
    split
    · exact h
    · exact foldl_pads (fun _ _ hu => chipFault_pads hu) h
  clear_value t hit
  simp [ht]

@[simp] theorem execRailUp_padsOut {report} (h : PadsWf s.teams) : PadsOut (execRailUp report s) := by
  simp only [execRailUp]
  repeat' split
  all_goals simp +contextual [h]

@[simp] theorem execChipletReset_padsOut {run} (h : PadsWf s.teams) : PadsOut (execChipletReset run s) := by
  simp [execChipletReset, h]

/-! ## Secure boot, stages and attestation -/

@[simp] theorem execImageVerifyDone_padsOut {check} (h : PadsWf s.teams) : PadsOut (execImageVerifyDone check s) := by
  simp [execImageVerifyDone, h]

@[simp] theorem bootstWrite_teams {value} : (s.bootstWrite value).teams = s.teams := by rfl

@[simp] theorem execRecoveryGo_padsOut {value} (h : PadsWf s.teams) : PadsOut (execRecoveryGo value s) := by
  simp [execRecoveryGo, h]

@[simp] theorem execBaseStageDone_padsOut (h : PadsWf s.teams) : PadsOut (execBaseStageDone s) := by simp [execBaseStageDone, h]

@[simp] theorem execMemoryStageDone_padsOut (h : PadsWf s.teams) : PadsOut (execMemoryStageDone s) := by
  simp [execMemoryStageDone, h]

@[simp] theorem execClusterCalibrationDone_padsOut {done} (h : PadsWf s.teams) : PadsOut (execClusterCalibrationDone done s) := by
  simp [execClusterCalibrationDone, h]

@[simp] theorem execAttnonceWrite_padsOut {nonce} (h : PadsWf s.teams) : PadsOut (execAttnonceWrite nonce s) := by
  simp [execAttnonceWrite, h]

@[simp] theorem execAttestationGo_padsOut (h : PadsWf s.teams) : PadsOut (execAttestationGo s) := by simp [execAttestationGo, h]

@[simp] theorem execAttestationDone_padsOut (h : PadsWf s.teams) : PadsOut (execAttestationDone s) := by
  simp [execAttestationDone, h]

/-! ## Retention of clusters -/

@[simp] theorem execClusterRetentionEntry_padsOut {cluster} (h : PadsWf s.teams) :
    PadsOut (execClusterRetentionEntry cluster s) := by
  simp [execClusterRetentionEntry, h]

@[simp] theorem execClusterWake_padsOut {cluster} (h : PadsWf s.teams) : PadsOut (execClusterWake cluster s) := by
  simp only [execClusterWake]
  split <;> simp [h]

/-! ## Cooling loops, sensors and lasers -/

@[simp] theorem setLoops_pads {top bottom} (h : PadsWf s.teams) : PadsWf (s.setLoops top bottom).teams := by
  simp [State.setLoops, h]

@[simp] theorem execLoopSample_padsOut {lossTopN lossBottomN} (h : PadsWf s.teams) :
    PadsOut (execLoopSample lossTopN lossBottomN s) := by
  simp [execLoopSample, h]

@[simp] theorem execInletOutOfRange_padsOut {loop} (h : PadsWf s.teams) : PadsOut (execInletOutOfRange loop s) := by
  simp only [execInletOutOfRange]
  split <;> simp [h]

@[simp] theorem execLoopRestored_padsOut {loop} (h : PadsWf s.teams) : PadsOut (execLoopRestored loop s) := by
  simp only [execLoopRestored]
  split <;> simp [h]

@[simp] theorem execSensorSample_padsOut {read} (h : PadsWf s.teams) : PadsOut (execSensorSample read s) := by
  simp [execSensorSample, h]

@[simp] theorem execLaserModuleLoss_padsOut {module} (h : PadsWf s.teams) : PadsOut (execLaserModuleLoss module s) := by
  simp +contextual [execLaserModuleLoss, h]

/-! ## The boundary of R91 -/

@[simp] theorem execBoostBoundary_padsOut {watts} (h : PadsWf s.teams) : PadsOut (execBoostBoundary watts s) := by
  simp -implicitDefEqProofs [execBoostBoundary, h]

@[simp] theorem execPermitRefill_padsOut {cluster} (h : PadsWf s.teams) : PadsOut (execPermitRefill cluster s) := by
  simp [execPermitRefill, h]

@[simp] theorem execExclusionSubperiodEnd_padsOut (h : PadsWf s.teams) : PadsOut (execExclusionSubperiodEnd s) := by
  simp [execExclusionSubperiodEnd, h]

/-! ## The device-state image -/

@[simp] theorem patchSaves_teams : s.patchSaves.teams = s.teams := by simp [State.patchSaves]

/-! ## CKCTL -/

@[simp] theorem startCheckpoint_pads (h : PadsWf s.teams) : PadsWf s.startCheckpoint.teams := by
  simp +contextual [State.startCheckpoint, h]

@[simp] theorem ckIgnored_teams : s.ckIgnored.teams = s.teams := by rfl

@[simp] theorem ckctlWrite_pads {value} (h : PadsWf s.teams) : PadsWf (s.ckctlWrite value).teams := by simp [State.ckctlWrite, h]

@[simp] theorem execCkctlGo_padsOut {value} (h : PadsWf s.teams) : PadsOut (execCkctlGo value s) := by simp [execCkctlGo, h]

@[simp] theorem execCkctlAbort_padsOut {value} (h : PadsWf s.teams) : PadsOut (execCkctlAbort value s) := by
  simp [execCkctlAbort, h]

@[simp] theorem execCkctlRestore_padsOut {value} (h : PadsWf s.teams) : PadsOut (execCkctlRestore value s) := by
  simp [execCkctlRestore, h]

/-! ## Quiesce and Stream -/

@[simp] theorem startStream_teams {l} : (s.startStream l).teams = s.teams := by simp [State.startStream]

theorem ckList_teams {at' fuel p} (hp : s.ckList at' fuel = some p) : p.1.teams = s.teams := by
  induction fuel generalizing s at' p with
  | zero => simp [State.ckList] at hp
  | succ fuel ih =>
    unfold State.ckList at hp
    split at hp
    · simp at hp
    · split at hp
      next hread =>
      have hread := (fst_teams hread).trans readNow_teams
      extract_lets n at hp
      split at hp
      · exact Option.some.inj hp ▸ hread
      · split at hp
        · simp at hp
        · split at hp
          · simp at hp
          · next hrest => exact Option.some.inj hp ▸ (ih hrest).trans hread

@[simp] theorem execCheckpointQuiesceDone_padsOut (h : PadsWf s.teams) : PadsOut (execCheckpointQuiesceDone s) := by
  unfold execCheckpointQuiesceDone
  extract_lets +onlyGivenNames ck
  split
  · exact next_padsOut.2 h
  · split
    · exact next_padsOut.2 (foldl_pads (fun _ _ hu => by simpa using hu) h)
    · split
      · exact next_padsOut.2 h
      · extract_lets +onlyGivenNames u v
        have hv : PadsWf v.teams := by
          rw [writeNow_teams, patchSaves_teams]
          exact spillAll_pads h
        clear_value v
        split
        · exact next_padsOut.2 (ckFinish_pads hv)
        · next hlist => exact next_padsOut.2 (startStream_teams.symm ▸ ckList_teams hlist ▸ hv)

@[simp] theorem execCheckpointStreamDone_padsOut (h : PadsWf s.teams) : PadsOut (execCheckpointStreamDone s) := by
  simp [execCheckpointStreamDone, h]

/-! ## Restore -/

@[simp] theorem loadQueue_teams {e} : (s.loadQueue e).teams = s.teams := by
  -- what is read stays a variable: the kernel is not to compute the bytes of a record
  obtain ⟨read, hunit, hread⟩ : ∃ read, State.unitRead = read ∧ ∀ {t : State} {ctx va n}, (read t ctx va n).1.teams = t.teams :=
    ⟨_, rfl, unitRead_teams⟩
  unfold State.loadQueue
  rw [hunit]
  extract_lets +onlyGivenNames n stat started infl ctx base log2 qri
  split
  next hrecs =>
  rw [setQueue_teams]
  refine (fst_teams hrecs).trans (foldl_keeps (fun p : State × List QRecord => p.1.teams) (fun p i => ?_) _ _)
  extract_lets +onlyGivenNames index
  clear_value index
  split
  next hrecord =>
  rw [fst_teams hrecord]
  split
  · next heq => exact (fst_teams heq).trans hread
  · next heq => exact (fst_teams heq).trans hread

@[simp] theorem loadGrid_teams {e ctxOf} : (s.loadGrid e ctxOf).teams = s.teams := by simp [State.loadGrid]

@[simp] theorem loadTask_teams {e} : (s.loadTask e).teams = s.teams := by simp [State.loadTask]

@[simp] theorem loadTeam_pads {grids e} (h : PadsWf s.teams) : PadsWf (s.loadTeam grids e).teams := by
  simp -implicitDefEqProofs +contextual [State.loadTeam, h]

@[simp] theorem rejoinGrids_teams : s.rejoinGrids.teams = s.teams := by
  unfold State.rejoinGrids
  extract_lets +onlyGivenNames keys u
  refine foldl_keeps State.teams (fun t k => ?_) keys s
  extract_lets +onlyGivenNames g saved t1 t2
  have ht2 : t2.teams = t.teams := by
    unfold t2
    split
    · next hsched => exact startCopies_teams.trans (readSchedule_teams hsched)
    · rfl
  split <;> exact ht2

@[simp] theorem uncarried_teams : s.uncarried.teams = s.teams := by simp [State.uncarried]

@[simp] theorem loadImage_pads {img} (h : PadsWf s.teams) : PadsWf (s.loadImage img).teams := by
  simp -implicitDefEqProofs +contextual [State.loadImage, h]

@[simp] theorem readmitSaved_pads (h : PadsWf s.teams) : PadsWf s.readmitSaved.teams := by simp +contextual [State.readmitSaved, h]

@[simp] theorem execRestoreDone_padsOut (h : PadsWf s.teams) : PadsOut (execRestoreDone s) := by
  unfold execRestoreDone
  extract_lets +onlyGivenNames ck
  split
  · exact next_padsOut.2 h
  · extract_lets +onlyGivenNames base
    split
    next u _ hhead =>
    have hu : PadsWf u.teams := (fst_teams hhead).trans readNow_teams ▸ h
    extract_lets +onlyGivenNames len
    split
    · exact next_padsOut.2 (ckFinish_pads hu)
    · split
      next himage =>
      have hv := (fst_teams himage).trans readNow_teams ▸ hu
      exact next_padsOut.2 (ckFinish_pads (readmitSaved_pads (loadImage_pads (uncarried_teams.symm ▸ hv))))

@[simp] theorem after_pads {o} (h : PadsWf s.teams) (ho : PadsOut o) : PadsWf (s.after o).teams := by
  cases o with
  | next t => exact ho t rfl
  | _ => exact h

/-! ## Writes -/

@[simp] theorem writeCx_teams {c k v} : (s.writeCx c k v).teams = s.teams := by
  simp only [State.writeCx]
  split <;> simp

@[simp] theorem writeSp_pads {func c k v} (h : PadsWf s.teams) : PadsWf (s.writeSp func c k v).teams := by
  simp only [State.writeSp]
  split <;> simp [h]

@[simp] theorem writeQueue_pads {q k v} (h : PadsWf s.teams) : PadsWf (s.writeQueue q k v).teams := by
  simp only [State.writeQueue]
  split <;> simp [h]

@[simp] theorem writeSelect_teams {block k v} : (s.writeSelect block k v).teams = s.teams := by
  simp only [State.writeSelect]
  split <;> rfl

@[simp] theorem writeCount_teams {block k v} : (s.writeCount block k v).teams = s.teams := by rfl

@[simp] theorem setWindow_teams {e f} : (s.setWindow e f).teams = s.teams := by rfl

@[simp] theorem writeReg_pads {func r v} (h : PadsWf s.teams) : PadsWf (s.writeReg func r v).teams := by
  -- the layout of a field stays a variable: the kernel is not to compute the field
  obtain ⟨layout, hlayout⟩ : ∃ layout, bits = layout := ⟨_, rfl⟩
  unfold State.writeReg
  rw [hlayout]
  extract_lets +onlyGivenNames n w
  cases r with
  | cx => simpa using h
  | queue => exact writeQueue_pads h
  | sp => exact writeSp_pads h
  | dsusp => exact unsuspend_pads (suspend_pads h)
  | pinb | pinl => exact after_pads h (execPinTableWrite_padsOut h)
  | badLine => simp [h]
  | pctl => exact pctlWrite_pads h
  | pwgt => exact after_pads h (execPwgtWrite_padsOut h)
  | pdevid => exact after_pads h (execPdevidWrite_padsOut h)
  | peerRoute => simpa using h
  | ckctl => exact ckctlWrite_pads h
  | attgo => simp [h]
  | select => simpa using h
  | _ => exact h

@[simp] theorem write32_pads {func off v} (h : PadsWf s.teams) : PadsWf (s.write32 func off v).teams := by
  simp only [State.write32]
  split <;> simp [h]

@[simp] theorem write64_pads {func off v} (h : PadsWf s.teams) : PadsWf (s.write64 func off v).teams := by
  simp only [State.write64]
  split <;> simp [h]

@[simp] theorem writePage_teams {func off width v} : (s.writePage func off width v).teams = s.teams := by simp [State.writePage]

@[simp] theorem sizeBar4_teams {v} : (s.sizeBar4 v).teams = s.teams := by
  simp only [State.sizeBar4]
  split <;> rfl

@[simp] theorem execRegisterWrite_padsOut {func place width value} (h : PadsWf s.teams) :
    PadsOut (execRegisterWrite func place width value s) := by simp [execRegisterWrite, h]

/-! ## Reads -/

@[simp] theorem clearRead_teams {r} : (s.clearRead r).teams = s.teams := by
  unfold State.clearRead
  split <;> rfl

@[simp] theorem read32_teams {func off} : (s.read32 func off).1.teams = s.teams := by
  unfold State.read32
  split <;> simp

@[simp] theorem readWords_teams {func off n} : (s.readWords func off n).1.teams = s.teams := by
  induction n generalizing s off with
  | zero => rfl
  | succ n ih =>
    rw [State.readWords]
    exact ih.trans read32_teams

@[simp] theorem execReadToClear_padsOut {func place width} (h : PadsWf s.teams) :
    PadsOut (execReadToClear func place width s) := by simp [execReadToClear, h]

/-! ## The reset of the physical function -/

@[simp] theorem resetPeer_pads (h : PadsWf s.teams) : PadsWf s.resetPeer.teams := by
  unfold State.resetPeer
  extract_lets +onlyGivenNames ck u v items w
  have hu : PadsWf u.teams := by simp [u, h]
  have hv : PadsWf v.teams := foldl_pads (fun _ _ ht => by simp [ht]) hu
  have hw : PadsWf w.teams := foldl_pads (fun _ _ ht => peerDone_pads ht) hv
  clear_value w
  exact hw

@[simp] theorem execFlrPf_padsOut (h : PadsWf s.teams) : PadsOut (execFlrPf s) := by simp [execFlrPf, h]

end Sys2Proof.Machine

/-! # Scratchpads through a step: the dispatch, the issue slot and the step -/

namespace Sys2Proof.Machine

variable {s : State}

@[simp] theorem exec_padsOut {i} (h : PadsWf s.teams) : PadsOut (exec i s) := by
  unfold exec
  cases i with
  | nop | braLabel | br | join | brx | call | callLabel | yield | wrsr | boost | waitcnt | evclr | mfence => exact runGroup_padsOut h
  | mode | rdsr | srseed | pset | plog | pmov | ballot | popm | shfl | bcast | lred | lscan | vote | matchLanes | perm | iadd
    | isub | imul | imulh | imad | imin | imax | iabs | ineg | icmp | icvt | bitAnd | bitOr | bitXor | bitNot | shl | shr | sar
    | rot | fshl | fshr | bfx | bfi | popc | clz | brev | sel | lea | adda | aff | fadd | fsub | fmul | fma | fmin | fmax | fneg
    | fabs | fcmp | fclass | frnd | fscale | frcp | frsq | fsqrt | fexp2 | flog2 | fsin | fcos | cvt | pack | unpack | flgrd
    | flgclr => exact runAlu_padsOut h
  | bra | ret => exact jumpTo_padsOut h
  | exit => exact execExit_padsOut h
  | trap => exact execTrap_padsOut h
  | rft => exact execRft_padsOut h
  | ld => exact execLd_padsOut h
  | st => exact execSt_padsOut h
  | lds => exact execLds_padsOut h
  | sts => exact execSts_padsOut h
  | ldx => exact execLdx_padsOut h
  | stx => exact execStx_padsOut h
  | pref => exact execPref_padsOut h
  | atom | red => exact atomMem_padsOut h
  | atoms => exact execAtoms_padsOut h
  | commit => exact execCommit_padsOut h
  | bar => exact execBar_padsOut h
  | darrive | garrive => exact arriveInstr_padsOut h
  | dwait => exact execDwait_padsOut h
  | gwait => exact execGwait_padsOut h
  | evset => exact execEvset_padsOut h
  | waitany => exact execWaitany_padsOut h
  | msend => exact execMsend_padsOut h
  | mrecv => exact execMrecv_padsOut h
  | xshf => exact execXshf_padsOut h
  | trig => exact execTrig_padsOut h
  | launch => exact execLaunch_padsOut h
  | cpy | cpym | gcsr | stage | ldb | dchk => exact asyncInstr_padsOut h
  | gath | scat => exact gathInstr_padsOut h
  | close => exact execClose_padsOut h
  | waitb => exact execWaitb_padsOut h
  | mma | mmas => exact mmaInstr_padsOut h
  | accnext => exact execAccnext_padsOut h
  | accrd => exact execAccrd_padsOut h
  | accwr => exact execAccwr_padsOut h
  | epi => exact execEpi_padsOut h
  | coll => exact execColl_padsOut h
  | dpfx | drle | dbit => exact decodeInstr_padsOut h
  | unassignedOpcode => exact execUnassignedOpcode_padsOut h
  | powerOnReset => exact next_padsOut.2 (blank_pads (s := s))
  | moduleReset => exact execModuleReset_padsOut h
  | chipletReset => exact execChipletReset_padsOut h
  | railUp => exact execRailUp_padsOut h
  | railFault => exact execRailFault_padsOut h
  | standbyPowerRemoved => exact next_padsOut.2 powerDown_pads
  | imageVerifyDone => exact execImageVerifyDone_padsOut h
  | recoveryGo => exact execRecoveryGo_padsOut h
  | baseStageDone => exact execBaseStageDone_padsOut h
  | memoryStageDone => exact execMemoryStageDone_padsOut h
  | clusterCalibrationDone => exact execClusterCalibrationDone_padsOut h
  | attnonceWrite => exact execAttnonceWrite_padsOut h
  | attestationGo => exact execAttestationGo_padsOut h
  | attestationDone => exact execAttestationDone_padsOut h
  | clusterRetentionEntry => exact execClusterRetentionEntry_padsOut h
  | clusterWake => exact execClusterWake_padsOut h
  | sliceRetentionEntry => exact execSliceRetentionEntry_padsOut h
  | sliceWake => exact execSliceWake_padsOut h
  | loopSample => exact execLoopSample_padsOut h
  | inletOutOfRange => exact execInletOutOfRange_padsOut h
  | loopRestored => exact execLoopRestored_padsOut h
  | sensorSample => exact execSensorSample_padsOut h
  | laserModuleLoss => exact execLaserModuleLoss_padsOut h
  | boostBoundary => exact execBoostBoundary_padsOut h
  | permitRefill => exact execPermitRefill_padsOut h
  | exclusionSubperiodEnd => exact execExclusionSubperiodEnd_padsOut h
  | registerWrite => exact execRegisterWrite_padsOut h
  | readToClear => exact execReadToClear_padsOut h
  | portEnable => exact execPortEnable_padsOut h
  | portDisable => exact execPortDisable_padsOut h
  | portRetrain => exact execPortRetrain_padsOut h
  | portTrainingDone => exact execPortTrainingDone_padsOut h
  | pwgtWrite => exact execPwgtWrite_padsOut h
  | pdevidWrite => exact execPdevidWrite_padsOut h
  | flitSlot => exact execFlitSlot_padsOut h
  | flitReceive => exact execFlitReceive_padsOut h
  | goBackNReplay => exact execGoBackNReplay_padsOut h
  | portReplayLimit => exact execPortReplayLimit_padsOut h
  | portReceiveTimeout => exact execPortReceiveTimeout_padsOut h
  | peerRequestSend => exact execPeerRequestSend_padsOut h
  | routeHoldRelease => exact execRouteHoldRelease_padsOut h
  | transitPacket => exact execTransitPacket_padsOut h
  | peerLoad => exact execPeerLoad_padsOut h
  | peerStore => exact execPeerStore_padsOut h
  | peerAtomic => exact execPeerAtomic_padsOut h
  | peerAtomicNoReturn => exact execPeerAtomicNoReturn_padsOut h
  | peerBulkWrite => exact execPeerBulkWrite_padsOut h
  | peerCheckpointPage => exact execPeerCheckpointPage_padsOut h
  | peerCollectivePacket => exact execPeerCollectivePacket_padsOut h
  | peerReservedOp => exact execPeerReservedOp_padsOut h
  | peerResponse => exact execPeerResponse_padsOut h
  | ckctlGo => exact execCkctlGo_padsOut h
  | ckctlAbort => exact execCkctlAbort_padsOut h
  | ckctlRestore => exact execCkctlRestore_padsOut h
  | checkpointQuiesceDone => exact execCheckpointQuiesceDone_padsOut h
  | checkpointStreamDone => exact execCheckpointStreamDone_padsOut h
  | restoreDone => exact execRestoreDone_padsOut h
  | bar4Read => exact execBar4Read_padsOut h
  | bar4Write => exact execBar4Write_padsOut h
  | contextEnable => exact execContextEnable_padsOut h
  | contextDisable => exact execContextDisable_padsOut h
  | recordRingReadIndexWrite => exact execRecordRingReadIndexWrite_padsOut h
  | heldRecordWrite => exact execHeldRecordWrite_padsOut h
  | atsInvalidation => exact execAtsInvalidation_padsOut h
  | atsInvalidationCompletion => exact execAtsInvalidationCompletion_padsOut h
  | prgResponse => exact execPrgResponse_padsOut h
  | priTimeout => exact execPriTimeout_padsOut h
  | qwinWrite => exact execQwinWrite_padsOut h
  | queueCreate => exact execQueueCreate_padsOut h
  | queueDestroy => exact execQueueDestroy_padsOut h
  | queueStop => exact execQueueStop_padsOut h
  | queueAbort => exact execQueueAbort_padsOut h
  | queueResume => exact execQueueResume_padsOut h
  | recordFetch => exact execRecordFetch_padsOut h
  | recordFetchComplete => exact execRecordFetchComplete_padsOut h
  | recordStart => exact execRecordStart_padsOut h
  | waitAddressPoll => exact execWaitAddressPoll_padsOut h
  | recordCompletionActions => exact execRecordCompletionActions_padsOut h
  | flrVf => exact execFlrVf_padsOut h
  | flrPf => exact execFlrPf_padsOut h
  | flrQueueDestroy => exact execFlrQueueDestroy_padsOut h
  | gridStart => exact execGridStart_padsOut h
  | gridReady => exact execGridReady_padsOut h
  | budgetPeriodBoundary => exact execBudgetPeriodBoundary_padsOut h
  | accountCharge => exact execAccountCharge_padsOut h
  | placementDecision => exact execPlacementDecision_padsOut h
  | placementReservation => exact execPlacementReservation_padsOut h
  | groupReady => exact execGroupReady_padsOut h
  | registerRelease => exact next_padsOut.2 (releaseDrained_pads h)
  | teamRetire => exact execTeamRetire_padsOut h
  | parkEligible => exact execParkEligible_padsOut h
  | plazaParkArm => exact execPlazaParkArm_padsOut h
  | parkGo => exact execParkGo_padsOut h
  | parkSpillDone => exact execParkSpillDone_padsOut h
  | dsuspSet => exact execDsuspSet_padsOut h
  | dsuspClear => exact execDsuspClear_padsOut h
  | preemption => exact execPreemption_padsOut h
  | preemptionSpillDone => exact execPreemptionSpillDone_padsOut h
  | chipletFenceNotice => exact execChipletFenceNotice_padsOut h
  | elevatorPacket => exact execElevatorPacket_padsOut h
  | elevatorRetireComplete => exact execElevatorRetireComplete_padsOut h
  | cutOffChipletReset => exact execCutOffChipletReset_padsOut h
  | avenueTokenGrant => exact execAvenueTokenGrant_padsOut h
  | pinTableWrite => exact execPinTableWrite_padsOut h
  | pinMoveDone => exact execPinMoveDone_padsOut h
  | readRequest => exact execReadRequest_padsOut h
  | writeRequest => exact execWriteRequest_padsOut h
  | writeCompletion => exact execWriteCompletion_padsOut h
  | writeThrough => exact execWriteThrough_padsOut h
  | writeThroughAck => exact execWriteThroughAck_padsOut h
  | tokenRecall => exact execTokenRecall_padsOut h
  | tokack => exact execTokack_padsOut h
  | tokret => exact execTokret_padsOut h
  | gone => exact execGone_padsOut h
  | inv => exact execInv_padsOut h
  | invAck => exact execInvAck_padsOut h
  | lineFree => exact execLineFree_padsOut h
  | dramReadReturn => exact execDramReadReturn_padsOut h
  | dramWriteAck => exact execDramWriteAck_padsOut h
  | patrolScrub => exact execPatrolScrub_padsOut h
  | badLineClear => exact execBadLineClear_padsOut h
  | copyChunk => exact execCopyChunk_padsOut h
  | engineOperationComplete => exact execEngineOperationComplete_padsOut h
  | junctionArrival => exact execJunctionArrival_padsOut h
  | partialParkTimeout => exact execPartialParkTimeout_padsOut h
  | roundaboutTimeout => exact execRoundaboutTimeout_padsOut h
  | collectiveNameExpiry => exact execCollectiveNameExpiry_padsOut h
  | cmtReq => exact execCmtReq_padsOut h
  | cmtMark => exact execCmtMark_padsOut h
  | cmtAck => exact execCmtAck_padsOut h
  | mergeDone => exact execMergeDone_padsOut h
  | versionLineWrite => exact execVersionLineWrite_padsOut h
  | versionOverflowTrap => exact execVersionOverflowTrap_padsOut h
  | discardRequest => exact execDiscardRequest_padsOut h
  | discardComplete => exact execDiscardComplete_padsOut h
  | icacheFill => exact execIcacheFill_padsOut h
  | switchMarkerRelease => exact execSwitchMarkerRelease_padsOut h
  | loadDataReturn => exact execLoadDataReturn_padsOut h
  | chipletArrayUncorrectable => exact execChipletArrayUncorrectable_padsOut h
  | yieldWaitEnd => exact execYieldWaitEnd_padsOut h
  | matrixAccept => exact execMatrixAccept_padsOut h
  | tileComplete => exact execTileComplete_padsOut h
  | epiStart => exact execEpiStart_padsOut h
  | pageWalk => exact execPageWalk_padsOut h
  | dfrespServiced => exact execDfrespServiced_padsOut h
  | dfrespRefused => exact execDfrespRefused_padsOut h
  | dftTimeout => exact execDftTimeout_padsOut h
  | tlbInvalidate => exact execTlbInvalidate_padsOut h
  | tlbInvalidateDone => exact execTlbInvalidateDone_padsOut h
  | debugHalt => exact execDebugHalt_padsOut h
  | debugSnapshotDone => exact execDebugSnapshotDone_padsOut h
  | debugRelease => exact execDebugRelease_padsOut h
  | barrierRelease => exact execBarrierRelease_padsOut h
  | districtArrival => exact execDistrictArrival_padsOut h
  | gridArrival => exact execGridArrival_padsOut h
  | eventFiring => exact execEventFiring_padsOut h
  | timerDeadline => exact execTimerDeadline_padsOut h
  | flagSet => exact execFlagSet_padsOut h
  | mailboxMessageArrival => exact execMailboxMessageArrival_padsOut h
  | xshfMatch => exact execXshfMatch_padsOut h
  | xshfTimeout => exact execXshfTimeout_padsOut h
  | trigTaken => exact execTrigTaken_padsOut h
  | trigEffect => exact execTrigEffect_padsOut h
  | launchAppend => exact execLaunchAppend_padsOut h
  | atsTranslationCompletion => exact execAtsTranslationCompletion_padsOut h
  | priStoppedClear => exact next_padsOut.2 (serveTags_teams.symm ▸ h)
  | eventCounterWrap => exact next_padsOut.2 h

@[simp] theorem remake_pads {r a b} (h : PadsWf s.teams) : PadsWf (s.remake r a b).teams := by
  unfold State.remake
  extract_lets +onlyGivenNames core slot
  split
  · extract_lets +onlyGivenNames base new g g1 sa sb u t scratch v
    have hscratch : Memory.wf scratch = true := by
      refine List.foldlRecOn (motive := fun m => Memory.wf m = true) _ _ (teamAt_wf h) fun m hm x _ => ?_
      split
      · exact hm
      · exact cset_wf _ _ _ hm
    have hv : PadsWf v.teams := by
      unfold v
      split
      · exact h
      · exact setTeam_pads hscratch h
    clear_value v
    split
    · split <;> exact hv
    · exact hv
  · exact h

@[simp] theorem overtake_pads {core slot uid n w v} (h : PadsWf s.teams) : PadsWf (s.overtake core slot uid n w v).teams := by
  refine foldl_pads (fun u i hu => ?_) h
  split <;> simp [hu]

@[simp] theorem followReads_pads {s0 core slot i} (h : PadsWf s.teams) : PadsWf (s.followReads s0 core slot i).teams := by
  unfold State.followReads
  split
  · split
    · exact h
    · extract_lets +onlyGivenNames news u
      have hu : PadsWf u.teams := by
        refine foldl_pads (fun v w hv => ?_) h
        split <;> simp [hv]
      clear_value u
      simp [hu]
  · exact h

@[simp] theorem issuingWith_teams {core i c mate from' second} : (s.issuingWith core i c mate from' second).teams = s.teams :=
  issuing_teams

theorem issuePair_padsOut {core quad i w p} {alone : State} (halone : PadsWf alone.teams) (h : PadsWf s.teams) :
    PadsOut (s.issuePair core quad i w p alone) := by
  unfold State.issuePair
  extract_lets +onlyGivenNames low s0
  have hs0 : PadsWf s0.teams := issuingWith_teams.symm ▸ h
  split
  · next hfirst =>
    have hfirst := exec_padsOut hs0 _ hfirst
    split
    · exact next_padsOut.2 (slotUsed_teams.symm ▸ trapLower_pads hfirst)
    · extract_lets +onlyGivenNames s2 s3
      have hs3 : PadsWf s3.teams := issuingWith_teams.symm ▸ followReads_pads hfirst
      split
      · next hsecond =>
        have hsecond := exec_padsOut hs3 _ hsecond
        split
        · exact next_padsOut.2 (slotUsed_teams.symm ▸ halone)
        · have hsolo : PadsOut (exec i (s.issuing core p.slot p.entry 0 false)) := exec_padsOut (issuing_teams.symm ▸ h)
          split
          · split
            · next heq => exact next_padsOut.2 (slotUsed_teams.symm ▸ trapLower_pads (hsolo _ heq))
            · exact hsolo
          · exact next_padsOut.2 (slotUsed_teams.symm ▸ followReads_pads hsecond)
      · exact exec_padsOut hs3
  · exact exec_padsOut hs0

@[simp] theorem issueFirst_padsOut {core quad ws} (h : PadsWf s.teams) : PadsOut (s.issueFirst core quad ws) := by
  induction ws generalizing s with
  | nil => exact next_padsOut.2 h
  | cons w rest ih =>
    unfold State.issueFirst
    split
    · exact ih h
    · exact next_padsOut.2 (slotUsed_teams.symm ▸ issueIllegal_pads (issuing_teams.symm ▸ h))
    · extract_lets +onlyGivenNames s0
      have hs0 : PadsWf s0.teams := issuing_teams.symm ▸ h
      split
      · next hexec =>
        have hexec := exec_padsOut hs0 _ hexec
        split
        · exact ih hexec
        · extract_lets +onlyGivenNames alone
          have halone : PadsWf alone.teams := followReads_pads hexec
          split
          · exact next_padsOut.2 (slotUsed_teams.symm ▸ halone)
          · split
            · exact next_padsOut.2 (slotUsed_teams.symm ▸ halone)
            · exact issuePair_padsOut halone h
      · exact exec_padsOut hs0

@[simp] theorem issueSlot_padsOut {core quad} (h : PadsWf s.teams) : PadsOut (s.issueSlot core quad) := by
  unfold State.issueSlot
  split
  · exact next_padsOut.2 h
  · exact issueFirst_padsOut (settleJoins_teams.symm ▸ h)

theorem step_padsOut (h : PadsWf s.teams) : PadsOut (step s) := by
  unfold step
  split
  · exact next_padsOut.2 (elapse_teams.symm ▸ h)
  · extract_lets +onlyGivenNames u
    have hu : PadsWf u.teams := elapse_teams.symm ▸ h
    split
    · exact exec_padsOut hu
    · exact issueSlot_padsOut hu

/-! ## The statement -/

/-- Settles O38: most of a step leaves the teams' scratchpads as they are, and what writes one writes it through `cwrite` or `cset`. -/
theorem scratchpadsStayCanonical : Obligations.ScratchpadsStayCanonical := fun _ t h hstep => step_padsOut h t hstep

end Sys2Proof.Machine

/-! Loads as they issue: what the way of a load leaves of memory, and the accesses that LD, LDS and LDX begin (R229, R232, R380,
R383, R385, R386). -/
namespace Sys2Proof.Machine

/-! ## The way of a load leaves memory as it is -/

@[simp] theorem touchLine_mem (s : State) (core line task : Nat) : (s.touchLine core line task).mem = s.mem := by simp [State.touchLine]

@[simp] theorem send_mem (s : State) (kind : MsgKind) (core slice : Nat) (toSlice : Bool) (held : List Nat) :
    (s.send kind core slice toSlice held).mem = s.mem := by rfl

@[simp] theorem tlbTouch_mem (s : State) (core ctx va : Nat) : (s.tlbTouch core ctx va).mem = s.mem := by
  simp only [State.tlbTouch]
  split <;> simp

@[simp] theorem touchPages_mem (s : State) (core ctx : Nat) (es : List (Nat × Nat × TlbEntry)) :
    (s.touchPages core ctx es).mem = s.mem := by simp [State.touchPages]

@[simp] theorem readLine_mem (s : State) (id line : Nat) : (s.readLine id line).mem = s.mem := by
  simp only [State.readLine]
  split <;> simp

@[simp] theorem readLines_mem (s : State) (id : Nat) : (s.readLines id).mem = s.mem := by
  simp only [State.readLines]
  split <;> simp

@[simp] theorem tellHost_mem (s : State) (m : HostMsg) : (s.tellHost m).mem = s.mem := by rfl

@[simp] theorem sendAsks_mem (s : State) (kept l : List HostAsk) : (s.sendAsks kept l).mem = s.mem := by
  induction l generalizing s kept with
  | nil => rfl
  | cons a rest ih => simp [State.sendAsks, ih]

@[simp] theorem askLanes_mem (s : State) (id : Nat) (a : Access) : (s.askLanes id a).mem = s.mem := by
  simp [State.askLanes, State.hostAsk, State.hostPump]

@[simp] theorem sendPeers_mem (s : State) (id : Nat) (a : Access) : (s.sendPeers id a).mem = s.mem := by
  refine foldl_keeps State.mem (fun _ _ => ?_) _ _
  split <;> simp [peerAsk_mem]

@[simp] theorem afterIssue_mem (s : State) (c : Ctx) (o : Operands) (beats : Nat) (g : Group) :
    (s.afterIssue c o beats g).mem = s.mem := by
  obtain ⟨p, k, a, h⟩ := afterIssue_eq s c o beats g
  rw [h]

/-! ## LD (R380, R383, R385) -/

/-- The access of a load from memory. -/
def Ctx.loadAccess (c : Ctx) (o : Operands) (s : State) (es : List (Nat × Nat × TlbEntry)) : Access :=
  { c.access s .load .mem (loadBytes o.fn.toNat) o.d true with
    fmt := (c.loadTag o.fn.toNat).1, cnt := (c.loadTag o.fn.toNat).2, signed := o.fn == 4#5 || o.fn == 6#5
    one := c.uniformAddress o true, lanes := es.map fun (l, va, e) => LaneAcc.start l e va 0 0 }

/-- An access of a load on its way: its lines are read, and what host memory and the peers hold is asked of them. -/
def State.startLoad (s : State) (id : Nat) (a : Access) : State :=
  let r := ({ s with accs := tset s.accs id a } : State).readLines id
  (if a.hasHost then r.askLanes id a else r).sendPeers id a

@[simp] theorem startLoad_mem (s : State) (id : Nat) (a : Access) : (s.startLoad id a).mem = s.mem := by simp [State.startLoad]

/-- A load whose checks pass and whose pages translate begins its access. -/
theorem execLd_translated {o : Operands} {s : State} {c : Ctx} {es : List (Nat × Nat × TlbEntry)} (h : Issues 0xA0 o memTiming s c)
    (hcnt : c.g.ldcnt < 63) (hcheck : c.check true [basePair o, offWord o] 120#7 false = .ok ())
    (hdst : c.dstCheck o.d (loadBytes o.fn.toNat) (c.uniformAddress o true) = .ok ()) (hmask : c.mask ≠ 0)
    {lanes : List (Nat × Nat)} (hall : lanes = (if c.uniformAddress o true then [lowLane c.mask] else lanesOf c.mask).map fun l =>
      (l, c.memAddr o (if c.uniformAddress o true then c.now else c.laneTime l) l))
    (hlanes : memChecks lanes (loadBytes o.fn.toNat) false = .ok ())
    (htrans : s.translate c.core (s.teamOf c.g).ctx (slotKey c.core c.slot) c.entry lanes false false = .ok (.lanes es)) :
    let u := (s.touchPages c.core (s.teamOf c.g).ctx es).fresh
    let a := c.loadAccess o u.2 es
    execLd o s = .next { ((u.2.startLoad u.1 a).afterIssue c o (c.beats (c.uniformAddress o true))
      (c.advance 0xA0 o (c.g.begin a))) with uni := c.uniformAddress o true } := by
  have hfull : c.counterFull true = false := by simpa [Ctx.counterFull] using hcnt
  subst hall
  refine runState_issued h ?_
  simp only [hfull, hcheck, hdst, hmask, hlanes, htrans, Bool.false_eq_true, beq_iff_eq, if_false, bind, Except.bind]
  rfl

/-- A load with no lane active goes on. -/
theorem execLd_masked {o : Operands} {s : State} {c : Ctx} (hcnt : c.g.ldcnt < 63)
    (hcheck : c.check true [basePair o, offWord o] 120#7 false = .ok ())
    (hdst : c.dstCheck o.d (loadBytes o.fn.toNat) (c.uniformAddress o true) = .ok ()) (hmask : c.mask = 0) :
    ∃ body, execLd o s = runState 0xA0 o memTiming s body ∧
      body c = .ok (.issued s (c.advance 0xA0 o c.g) (c.uniformAddress o true)) := by
  have hfull : c.counterFull true = false := by simpa [Ctx.counterFull] using hcnt
  refine ⟨_, rfl, ?_⟩
  simp only [hfull, hcheck, hdst, hmask, Bool.false_eq_true, beq_self_eq_true, if_true, if_false, bind, Except.bind]

/-- Settles O21: the load's access by the one rule for what the way of a load leaves of memory. -/
theorem loadsBegin : Obligations.LoadsBegin := by
  unfold Obligations.LoadsBegin
  intro o s c h hcnt hcheck hdst one lanes
  refine ⟨fun hnone => ?masked, fun hmask hlanes es htrans => ?begun⟩
  case masked =>
    obtain ⟨body, hexec, hbody⟩ := execLd_masked hcnt hcheck hdst hnone
    have hld : exec (.ld o) s = runState 0xA0 o memTiming s body := hexec
    exact hld ▸ runState_leaves h hbody
  case begun =>
    exact ⟨_, _, _, _, execLd_translated h hcnt hcheck hdst hmask rfl hlanes htrans, rfl,
      by simp [State.fresh], rfl, rfl, rfl, rfl, rfl, rfl, rfl, rfl, rfl⟩

end Sys2Proof.Machine

/-! Loads from the scratchpads (R229, R232, R241, R386). -/
namespace Sys2Proof.Machine

/-! ## What an instruction of the scratchpads leaves as it issues (R229, R241) -/

theorem holdMem_keeps {α : Type} (f : State → α) (hcore : ∀ u n k, f (State.setCore u n k) = f u)
    (hcount : ∀ u k, f { u with counters := k } = f u) (s : State) (c : Ctx) (cycles beats : Nat) :
    f (s.holdMem c cycles beats) = f s := by
  have htally : ∀ u b x n, f (State.tally u b x n) = f u := fun u b x n => by
    obtain ⟨k, hk⟩ := tally_eq u b x n
    rw [hk, hcount]
  simp only [State.holdMem]
  repeat' split
  all_goals simp only [hcore, htally]

@[simp] theorem issueScratch_mem (s : State) (c : Ctx) (o : Operands) (one : Bool) (cycles : Nat) (g : Group) :
    (s.issueScratch c o one cycles g).mem = s.mem :=
  (holdMem_keeps State.mem (fun _ _ _ => rfl) (fun _ _ => rfl) ..).trans (afterIssue_mem ..)

@[simp] theorem issueScratch_accs (s : State) (c : Ctx) (o : Operands) (one : Bool) (cycles : Nat) (g : Group) :
    (s.issueScratch c o one cycles g).accs = s.accs := by
  refine (holdMem_keeps State.accs (fun _ _ _ => rfl) (fun _ _ => rfl) ..).trans ?_
  obtain ⟨p, k, a, h⟩ := afterIssue_eq s c o (c.beats one) g
  rw [h]

theorem issueScratch_group (s : State) (c : Ctx) (o : Operands) (one : Bool) (cycles : Nat) (g : Group) :
    (s.issueScratch c o one cycles g).group? c.core c.slot = some (c.issued o g) :=
  (holdMem_keeps (fun u => u.group? c.core c.slot) (fun _ _ _ => rfl) (fun _ _ => rfl) ..).trans
    (afterIssue_group s c o (c.beats one) g (s.afterIssue c o (c.beats one) g).uni)

/-! ## LDS (R229, R386) -/

/-- The access of a load from the team's own scratchpad: its lanes have their bytes as it issues. -/
def Ctx.ownLoad (c : Ctx) (o : Operands) (s : State) (lanes : List (Nat × Nat)) (avail : Nat) : Access :=
  { c.access s .load .own (loadBytes o.fn.toNat) o.d true with
    fmt := (c.loadTag o.fn.toNat).1, cnt := (c.loadTag o.fn.toNat).2, signed := o.fn == 4#5 || o.fn == 6#5
    one := c.uniformAddress o false, readyAt := avail
    lanes := lanes.map fun (l, p) =>
      { lane := l, loc := .dev p, team := c.g.team, done := true, got := some (s.scratchRead c.g.team p (loadBytes o.fn.toNat)) } }

/-- The state after a load from the team's own scratchpad has issued. -/
def State.loadScratchpad (s : State) (c : Ctx) (o : Operands) : State :=
  let one := c.uniformAddress o false
  let beats := c.scratchBeats o (loadBytes o.fn.toNat) 22 one
  let u := s.fresh
  let a := c.ownLoad o u.2 beats.1 beats.2.2
  { (State.issueScratch { u.2 with accs := tset u.2.accs u.1 a } c o one beats.2.1 (c.advance 0xA2 o (c.g.begin a))) with uni := one }

theorem execLds_checked {o : Operands} {s : State} {c : Ctx} (hcnt : c.g.ldcnt < 63)
    (hcheck : c.check true [baseWord32 o, offWord o] 120#7 false = .ok ())
    (hdst : c.dstCheck o.d (loadBytes o.fn.toNat) (c.uniformAddress o false) = .ok ()) (hmask : c.mask ≠ 0)
    (hlanes : scratchChecks (c.scratchBeats o (loadBytes o.fn.toNat) 22 (c.uniformAddress o false)).1 (loadBytes o.fn.toNat) false
      (fun a => a ≥ s.scratchSize c.g.team) = .ok ()) :
    ∃ body, execLds o s = runState 0xA2 o memTiming s body ∧ body c = .ok (.stall
      (if s.ownRemote c (c.scratchBeats o (loadBytes o.fn.toNat) 22 (c.uniformAddress o false)).1 (loadBytes o.fn.toNat) then s.waitCycle c
       else s.loadScratchpad c o)) := by
  have hfull : c.counterFull true = false := by simpa [Ctx.counterFull] using hcnt
  refine ⟨_, rfl, ?_⟩
  simp only [hfull, hcheck, hdst, hmask, hlanes, Bool.false_eq_true, beq_iff_eq, if_false, bind, Except.bind]
  rw [apply_ite Done.stall, apply_ite Except.ok]
  rfl

theorem loadScratchpad_begun (s : State) (c : Ctx) (o : Operands) :
    ∃ a id, (s.loadScratchpad c o).group? c.core c.slot = some (c.issued o (c.advance 0xA2 o (c.g.begin a))) ∧
      (s.loadScratchpad c o).mem = s.mem ∧ (s.loadScratchpad c o).teams = s.teams ∧ tget? (s.loadScratchpad c o).accs id = some a ∧
      a.dst = o.d ∧ a.ldc = true ∧
      a.lanes.map (fun x => (x.lane, x.got)) = (c.scratchBeats o (loadBytes o.fn.toNat) 22 (c.uniformAddress o false)).1.map fun (l, p) =>
        (l, some (s.scratchRead c.g.team p (loadBytes o.fn.toNat))) := by
  refine ⟨_, s.ids, issueScratch_group .., issueScratch_mem .., issueScratch_teams, ?_, rfl, rfl, List.map_map⟩
  exact (congrArg (tget? · _) (issueScratch_accs ..)).trans (tget?_tset_self ..)

/-! ## LDX (R229, R386) -/

/-- The access of a load from a district member's scratchpad: its lanes name the places it will read. -/
def Ctx.remoteLoad (c : Ctx) (o : Operands) (s : State) (lanes : List (Nat × Nat)) : Access :=
  let xs := lanes.map fun (l, p) => s.remoteLane c.g.team l p 0
  { c.access s .load .remote (loadBytes o.fn.toNat) o.d true with
    fmt := (c.loadTag o.fn.toNat).1, cnt := (c.loadTag o.fn.toNat).2, signed := o.fn == 4#5 || o.fn == 6#5
    one := c.uniformAddress o false, lanes := xs
    readyAt := c.now + (c.beats (c.uniformAddress o false) - 1 + 48 + s.remoteExtra xs (loadBytes o.fn.toNat)) * c.cyc }

theorem execLdx_checked {o : Operands} {s : State} {c : Ctx} (hcnt : c.g.ldcnt < 63)
    (hcheck : c.check true [baseWord32 o, offWord o] 120#7 false = .ok ())
    (hdst : c.dstCheck o.d (loadBytes o.fn.toNat) (c.uniformAddress o false) = .ok ()) (hmask : c.mask ≠ 0)
    {lanes : List (Nat × Nat)} (hall : lanes = (if c.uniformAddress o false then [lowLane c.mask] else lanesOf c.mask).map fun l =>
      (l, c.scratchAddr o (if c.uniformAddress o false then c.now else c.laneTime l) l))
    (hlanes : scratchChecks lanes (loadBytes o.fn.toNat) false (fun a => s.remoteBad c.g.team a) = .ok ()) :
    ∃ body, execLdx o s = runState 0xA4 o memTiming s body ∧
      body c = .ok (.issued { s.fresh.2 with accs := tset s.fresh.2.accs s.fresh.1 (c.remoteLoad o s.fresh.2 lanes) }
        (c.advance 0xA4 o (c.g.begin (c.remoteLoad o s.fresh.2 lanes))) (c.uniformAddress o false)) := by
  have hfull : c.counterFull true = false := by simpa [Ctx.counterFull] using hcnt
  subst hall
  refine ⟨_, rfl, ?_⟩
  simp only [hfull, hcheck, hdst, hmask, hlanes, Bool.false_eq_true, beq_iff_eq, if_false, bind, Except.bind]
  rfl

/-! ## The statement -/

/-- Settles O22: LDS by what it leaves once its checks pass, LDX by the access that it begins. -/
theorem scratchpadLoadsBegin : Obligations.ScratchpadLoadsBegin := by
  unfold Obligations.ScratchpadLoadsBegin
  constructor
  case left =>
    intro o s c h hcnt hcheck hdst hmask one lanes hlanes
    obtain ⟨body, hexec, hbody⟩ := execLds_checked hcnt hcheck hdst hmask hlanes
    have hlds : exec (.lds o) s = runState 0xA2 o memTiming s body := hexec
    rw [hlds]
    refine ⟨fun hwait => ?waits, fun hfree => ?loads⟩
    case waits => exact runState_stall h (hbody.trans (congrArg (Except.ok ∘ Done.stall) (if_pos hwait)))
    case loads =>
      have hnext := runState_stall h (hbody.trans (congrArg (Except.ok ∘ Done.stall) (if_neg (Bool.eq_false_iff.1 hfree))))
      obtain ⟨a, id, hbegun⟩ := loadScratchpad_begun s c o
      exact ⟨_, a, id, hnext, hbegun⟩
  case right =>
    intro o s c h hcnt hcheck hdst hmask one lanes hlanes
    obtain ⟨body, hexec, hbody⟩ := execLdx_checked hcnt hcheck hdst hmask rfl hlanes
    have hldx : exec (.ldx o) s = runState 0xA4 o memTiming s body := hexec
    obtain ⟨p, k, a, hafter⟩ := afterIssue_eq
      { s.fresh.2 with accs := tset s.fresh.2.accs s.fresh.1 (c.remoteLoad o s.fresh.2 lanes) } c o (c.beats one) (c.advance 0xA4 o (c.g.begin (c.remoteLoad o s.fresh.2 lanes)))
    rw [hldx, runState_issued h hbody]
    refine ⟨_, c.remoteLoad o s.fresh.2 lanes, s.ids, rfl, afterIssue_group .., afterIssue_mem .., afterIssue_teams, ?_, rfl, rfl, rfl,
      List.map_map⟩
    rw [hafter]
    exact tget?_tset_self ..

end Sys2Proof.Machine

/-! The data of a load come back (R229, R382, R383). -/
namespace Sys2Proof.Machine

/-! ## What waits in the L1s leaves memory, the groups and the accesses that are gone as they are -/

@[simp] theorem l1Map_groups (s : State) (core : Nat) (p : L1Line → Bool) (f : L1Line → L1Line) :
    (s.l1Map core p f).groups = s.groups := by
  simp only [State.l1Map]
  split <;> rfl

@[simp] theorem l1Map_accs (s : State) (core : Nat) (p : L1Line → Bool) (f : L1Line → L1Line) : (s.l1Map core p f).accs = s.accs := by
  simp only [State.l1Map]
  split <;> rfl

@[simp] theorem touchLine_groups (s : State) (core line task : Nat) : (s.touchLine core line task).groups = s.groups := l1Map_groups ..

@[simp] theorem touchLine_accs (s : State) (core line task : Nat) : (s.touchLine core line task).accs = s.accs := l1Map_accs ..

@[simp] theorem tally_groups (s : State) (block src k : Nat) : (s.tally block src k).groups = s.groups := by
  obtain ⟨counters, h⟩ := tally_eq s block src k
  rw [h]

@[simp] theorem tally_accs (s : State) (block src k : Nat) : (s.tally block src k).accs = s.accs := by
  obtain ⟨counters, h⟩ := tally_eq s block src k
  rw [h]

@[simp] theorem send_groups (s : State) (kind : MsgKind) (core slice : Nat) (toSlice : Bool) (held : List Nat) :
    (s.send kind core slice toSlice held).groups = s.groups := by rfl

@[simp] theorem send_accs (s : State) (kind : MsgKind) (core slice : Nat) (toSlice : Bool) (held : List Nat) :
    (s.send kind core slice toSlice held).accs = s.accs := by rfl

@[simp] theorem readLine_groups (s : State) (id line : Nat) : (s.readLine id line).groups = s.groups := by
  simp only [State.readLine]
  repeat' split
  all_goals simp

@[simp] theorem applyInL1_groups (s : State) (id line : Nat) : (s.applyInL1 id line).groups = s.groups := by
  unfold State.applyInL1
  split <;> simp

@[simp] theorem applyInL1_mem (s : State) (id line : Nat) : (s.applyInL1 id line).mem = s.mem := by
  unfold State.applyInL1
  split <;> simp

@[simp] theorem writeLine_groups (s : State) (id line : Nat) : (s.writeLine id line).groups = s.groups := by
  simp only [State.writeLine]
  repeat' split
  all_goals simp

@[simp] theorem writeLine_mem (s : State) (id line : Nat) : (s.writeLine id line).mem = s.mem := by
  simp only [State.writeLine]
  repeat' split
  all_goals simp

/-- Storing an access where one is leaves a key with none as it is. -/
theorem tget?_tset_none {α : Type} {t : Tbl α} {k id : Nat} {a x : α} (hid : tget? t id = some a) (hk : tget? t k = none) :
    tget? (tset t id x) k = none := by
  have hne : k ≠ id := by
    rintro rfl
    simp [hid] at hk
  rw [tget?_tset_of_ne _ _ hne, hk]

theorem readLine_gone {s : State} {id line k : Nat} (hk : tget? s.accs k = none) : tget? (s.readLine id line).accs k = none := by
  simp only [State.readLine]
  split
  · exact hk
  · next hid =>
    repeat' split
    all_goals simp [tget?_tset_none hid hk]

theorem applyInL1_gone {s : State} {id line k : Nat} (hk : tget? s.accs k = none) : tget? (s.applyInL1 id line).accs k = none := by
  unfold State.applyInL1
  split
  · exact hk
  · next hid => simp [tget?_tset_none hid hk]

theorem writeLine_gone {s : State} {id line k : Nat} (hk : tget? s.accs k = none) : tget? (s.writeLine id line).accs k = none := by
  simp only [State.writeLine]
  split
  · exact hk
  · next hid =>
    repeat' split
    · exact applyInL1_gone hk
    · exact tget?_tset_none hid hk
    · exact hk

theorem retryPending_keeps {α : Type} (f : State → α) (haccs : ∀ u a, f { u with accs := a } = f u)
    (hread : ∀ u id l, f (State.readLine u id l) = f u) (hwrite : ∀ u id l, f (State.writeLine u id l) = f u) (s : State) :
    f s.retryPending = f s := by
  refine foldl_keeps f (fun u x => ?_) _ s
  dsimp only
  split
  · rfl
  · refine (foldl_keeps f (fun v l => ?_) _ _).trans (haccs u _)
    split
    · exact hread ..
    · exact hwrite ..

theorem retryPending_gone {s : State} {k : Nat} (hk : tget? s.accs k = none) : tget? s.retryPending.accs k = none := by
  refine List.foldlRecOn (motive := fun u : State => tget? u.accs k = none) _ _ hk fun u hu x _ => ?_
  dsimp only
  split
  · exact hu
  · refine List.foldlRecOn (motive := fun v : State => tget? v.accs k = none) _ _ ?_ fun v hv l _ => ?_
    · by_cases hid : k = x.1
      · rw [← hid, tget?_tmod_self, hu, Option.map_none]
      · rw [tget?_tmod_of_ne _ _ hid, hu]
    · split
      · exact readLine_gone hv
      · exact writeLine_gone hv

/-! ## What a load's data write (R202, R382, R383) -/

/-- The write of a load of at most 4 bytes per lane to its one destination register. -/
def Access.regWrite (a : Access) : RegOut where
  n := a.dst.toNat
  fmt := a.fmt
  cnt := a.cnt
  val := .general ((List.range 64).map fun l => if inMask a.mask l then
    BitVec.ofNat 32 (((a.lanes.find? fun x => x.lane == l).map fun x => a.extend (x.got.getD 0)).getD 0) else 0)
  mask := a.mask

/-- What the write leaves in a lane: the load's value in the lanes of its mask. -/
theorem regWrite_lane (a : Access) (g : Group) (av : List Nat) {l : Nat} (hl : l < 64) :
    (g.written a.regWrite av).val.lane l = if inMask a.mask l then
      BitVec.ofNat 32 (((a.lanes.find? fun x => x.lane == l).map fun x => a.extend (x.got.getD 0)).getD 0)
    else (g.reg a.dst.toNat).val.lane l := by
  rw [written_lane _ _ _ _ hl, show a.regWrite.val.lane l = _ from general_lane _ _ hl]
  show (if inMask a.mask l then _ else _) = _
  split <;> rfl

theorem dstRegs_of_narrow {a : Access} (hdst : isReg a.dst = true) (hbytes : a.bytes ≤ 4) : a.dstRegs = [a.dst.toNat] := by
  have hreg : ¬ a.dst.toNat ≥ 120 := by simpa [isReg] using hdst
  have hone : max 1 (a.bytes / 4) = 1 := by omega
  simp [Access.dstRegs, hreg, hone]

theorem write_of_narrow {a : Access} (g : Group) (now : Nat) (hdst : isReg a.dst = true) (hbytes : a.bytes ≤ 4) (hone : a.one = false) :
    a.write g now =
      { g with pendRegs := a.pending.foldl (fun ps r => ps.erase r) g.pendRegs, ldcnt := g.ldcnt - 1 }.writeData a.regWrite now := by
  have hexec : (a.dst == 123#7) = false := by
    refine Bool.eq_false_iff.2 fun h => ?_
    rw [eq_of_beq h] at hdst
    simp [isReg] at hdst
  simp [Access.write, hexec, dstRegs_of_narrow hdst hbytes, hone, Access.regWrite]

/-- The group that a load's data have come back to (R229, R383). -/
def Access.arrive (a : Access) (id now : Nat) (g : Group) : Group := ((a.write (g.settle now) now).loaded id).notePark now

theorem notePark_frame (g : Group) (now : Nat) : ∃ p, g.notePark now = { g with parkSince := p } := by
  simp only [Group.notePark]
  split
  · exact ⟨_, rfl⟩
  · exact ⟨g.parkSince, rfl⟩

theorem arrive_written {a : Access} {id now : Nat} {g : Group} (hdst : isReg a.dst = true) (hbytes : a.bytes ≤ 4) (hone : a.one = false)
    (hquiet : (g.settle now).regOuts a.dst.toNat = []) :
    (a.arrive id now g).ldcnt = g.ldcnt - 1 ∧
      (a.arrive id now g).regs = tset g.regs a.dst.toNat (g.written a.regWrite [now, now, now, now]) := by
  obtain ⟨p, hp⟩ := notePark_frame ((a.write (g.settle now) now).loaded id) now
  rw [Access.arrive, hp, write_of_narrow _ _ hdst hbytes hone, Group.writeData, writeReg_quiet _ _ _ hquiet]
  exact ⟨rfl, rfl⟩

/-! ## LOAD_DATA_RETURN -/

theorem lateReads_of_done {s : State} {id : Nat} {a : Access} (h : a.lanes.all (fun x => x.done) = true) : s.lateReads id a = a := by
  have hmap : ∀ f : LaneAcc → LaneAcc, a.lanes.map (fun x => if x.done then x else f x) = a.lanes := fun f =>
    (List.map_congr_left fun x hx => if_pos (List.all_eq_true.1 h x hx)).trans (List.map_id _)
  simp only [State.lateReads, hmap]

/-- The state once an access whose data have come is gone, with the data that it was sent. -/
def State.dataTaken (s : State) (id : Nat) (a : Access) : State :=
  { (State.takeData { s with accs := tset s.accs id a } id) with accs := tdel (tset s.accs id a) id }

theorem modGroup_of_key {s : State} {guid key : Nat} {f : Group → Group} (hkey : s.groupKey? guid = some key) :
    s.modGroup guid f = { s with groups := tmod s.groups key f } := by simp only [State.modGroup, hkey]

theorem execLoadDataReturn_complete {s : State} {id : Nat} {a : Access} (hacc : tget? s.accs id = some a) (hldc : a.ldc = true)
    (hready : a.readyAt ≤ s.time) (hcoming : s.dataComing id = false) (hdead : a.dead = false) (hspace : a.space ≠ .remote)
    (hhost : a.hasHost = false) (hlanes : a.lanes.all (fun x => x.done && x.err == 0) = true) (hacks : a.acks = 0) :
    execLoadDataReturn id s = .next ((s.dataTaken id a).modGroup a.guid (a.arrive id s.time)).retryPending := by
  have hdone : a.lanes.all (fun x => x.done) = true := List.all_eq_true.2 fun x hx =>
    (Bool.and_eq_true_iff.1 (List.all_eq_true.1 hlanes x hx)).1
  have herr : a.lanes.find? (fun x => x.err != 0) = none := List.find?_eq_none.2 fun x hx => by
    simpa using (Bool.and_eq_true_iff.1 (List.all_eq_true.1 hlanes x hx)).2
  have hsp : (a.space == .remote) = false := by simpa using hspace
  have hlate : ∀ u : State, u.lateReads id a = a := fun u => lateReads_of_done hdone
  simp only [execLoadDataReturn, hacc, hldc, hcoming, hdead, hhost, hsp, hlate, hdone, hacks, herr, Nat.not_lt.2 hready,
    Bool.not_true, Bool.false_and, Bool.or_false, Bool.false_eq_true, if_false, decide_false, bne_self_eq_false]
  rfl

/-! ## The statement -/

/-- Settles O23: the group takes the one write of the load, and what is tried again in the L1s leaves the groups and memory as they are. -/
theorem loadDataArrives : Obligations.LoadDataArrives := by
  unfold Obligations.LoadDataArrives
  intro s id key a g hacc hldc hready hcoming hdead hspace hhost hlanes hacks hkey hg hdst hbytes hone hquiet
  have hexec : exec (.loadDataReturn id) s = _ := execLoadDataReturn_complete hacc hldc hready hcoming hdead hspace hhost hlanes hacks
  have hmod := modGroup_of_key (s := s.dataTaken id a) (f := a.arrive id s.time) hkey
  rw [hmod] at hexec
  obtain ⟨hcnt, hregs⟩ := arrive_written (id := id) hdst hbytes hone (hquiet _ (by simp [dstRegs_of_narrow hdst hbytes]))
  have hgroups : ∀ u : State, u.retryPending.groups = u.groups :=
    retryPending_keeps State.groups (fun _ _ => rfl) readLine_groups writeLine_groups
  have hreg : (a.arrive id s.time g).reg a.dst.toNat = g.written a.regWrite [s.time, s.time, s.time, s.time] := by
    rw [Group.reg, hregs, tgetD_tset_self]
  refine ⟨_, a.arrive id s.time g, hexec, retryPending_gone (tget?_tdel_self ..), ?own, hcnt, fun n hn => ?kept,
    fun l x hl hin hx => ?taken, fun l hl hout => ?left, fun _ => ?tag,
    retryPending_keeps State.mem (fun _ _ => rfl) readLine_mem writeLine_mem _, fun k hk => ?others⟩
  case own => rw [hgroups]; exact (tget?_tmod_self ..).trans (hg ▸ rfl)
  case kept => rw [Group.reg, hregs, tgetD_tset_of_ne _ _ _ hn, Group.reg]
  case taken => rw [hreg, regWrite_lane _ _ _ hl, if_pos hin, hx]; rfl
  case left => rw [hreg, regWrite_lane _ _ _ hl, if_neg (Bool.eq_false_iff.1 hout)]
  case tag => rw [hreg]; exact ⟨rfl, rfl⟩
  case others => rw [hgroups]; exact tget?_tmod_of_ne _ _ hk

end Sys2Proof.Machine

/-! CLOSE, WAITB and MFENCE (R243, R416, R417, R431). -/
namespace Sys2Proof.Machine

/-! ## What an MFENCE waits for (R243) -/

/-- When the outstanding register writes of a group are available. -/
def Group.regsAvailable (g : Group) : Nat :=
  (g.outs.filter fun w => match w.dst with | .reg _ _ => true | _ => false).foldl (fun a w => w.avail.foldl max a) 0

/-- The loads of a group whose data are still to come. -/
def State.loadsOf (s : State) (guid : Nat) : List Nat := tkeys s.accs fun _ a => a.guid == guid && a.ldc && a.dst.toNat < 120

theorem waitOver_fence (s : State) (c : Ctx) : c.g.waitOver (c.fence s) c.now =
    (c.g.regsAvailable ≤ c.now && s.loadsOf c.g.uid == [] && (c.g.split.all fun e => !e.2.wait.writes || e.2.lastIssue > c.now) &&
      c.g.exchange.all fun x => !x.writes || x.since > c.now) := rfl

theorem foldl_max_le_iff {l : List Nat} {n a : Nat} : l.foldl max n ≤ a ↔ n ≤ a ∧ ∀ b ∈ l, b ≤ a := by
  induction l generalizing n with
  | nil => simp
  | cons b l ih => simp [ih, and_assoc]

theorem foldl_avail_le_iff {l : List Outst} {n a : Nat} :
    l.foldl (fun m w => w.avail.foldl max m) n ≤ a ↔ n ≤ a ∧ ∀ w ∈ l, ∀ b ∈ w.avail, b ≤ a := by
  induction l generalizing n with
  | nil => simp
  | cons w l ih => simp [ih, foldl_max_le_iff, and_assoc]

/-- A write that is not available yet holds the registers back. -/
theorem lt_regsAvailable {g : Group} {w : Outst} {n b now : Nat} {old : VReg} (hw : w ∈ g.outs) (hdst : w.dst = .reg n old)
    (hb : b ∈ w.avail) (hlate : now < b) : now < g.regsAvailable := by
  by_contra hle
  obtain ⟨-, hall⟩ := foldl_avail_le_iff.1 (Nat.le_of_not_lt hle)
  exact Nat.not_lt.2 (hall w (List.mem_filter.2 ⟨hw, by simp [hdst]⟩) b hb) hlate

theorem mem_loadsOf {s : State} {guid k : Nat} {a : Access} (ha : (k, a) ∈ s.accs) (hguid : a.guid = guid) (hldc : a.ldc = true)
    (hdst : a.dst.toNat < 120) : k ∈ s.loadsOf guid :=
  List.mem_map.2 ⟨(k, a), List.mem_filter.2 ⟨ha, by simp [hguid, hldc, hdst]⟩, rfl⟩

theorem loadsOf_eq_nil {s : State} {guid : Nat} (h : ∀ k a, (k, a) ∈ s.accs → a.guid ≠ guid) : s.loadsOf guid = [] := by
  have hnone : (s.accs.filter fun e => e.2.guid == guid && e.2.ldc && e.2.dst.toNat < 120) = [] :=
    List.filter_eq_nil_iff.2 fun e he => by simp [h e.1 e.2 he]
  exact congrArg (List.map Prod.fst) hnone

/-! ## The instructions -/

theorem execClose_sealed {o : Operands} {s : State} {c : Ctx} {b : Batch} {e : Effect} (hb : c.g.batches.getD o.fn.toNat {} = b)
    (hopen : b.closed - b.donev ≠ 32767) (hcheck : c.check true [] o.d false [] false = .ok ())
    (hresult : c.result o.d false 1 0 (.uni (b.closed + 1).toNat) c.f.mask = .ok e) :
    ∃ body, execClose o s = runState 0xE6 o ctlTiming s body ∧
      body c = .ok (.stall ((s.afterIssue c o 1 (c.advance 0xE6 o { (e.apply c o.q c.g) with
        batches := lset c.g.batches o.fn.toNat { b with closed := b.closed + 1 } })).advanceBatches c.g.uid o.fn.toNat)) := by
  refine ⟨_, rfl, ?_⟩
  simp only [hb, hopen, hcheck, hresult, beq_iff_eq, if_false, bind, Except.bind]

theorem execWaitb_checked {o : Operands} {s : State} {c : Ctx} (hcheck : c.check true [raw32 o.a] 120#7 false [] false = .ok ()) :
    ∃ body, execWaitb o s = runState 0xE7 o ctlTiming s body ∧
      body c = .ok (.issued s (if (c.g.batches.getD (o.fn.toNat % 8) {}).reached (o.fn.toNat ≥ 8) (BitVec.ofNat 16 (c.single o o.a)) then
          c.advance 0xE7 o c.g
        else c.blocked 0xE7 o c.g (.batch (o.fn.toNat % 8) (o.fn.toNat ≥ 8) (BitVec.ofNat 16 (c.single o o.a)))) true) := by
  refine ⟨_, rfl, ?_⟩
  simp only [hcheck, bind, Except.bind]

theorem execMfence_body (o : Operands) (s : State) (c : Ctx) :
    ∃ body, execMfence o s = runGroup 0xE9 o ctlTiming s body ∧
      body c = .ok (if c.g.waitOver (c.fence s) c.now then c.advance 0xE9 o c.g else c.blocked 0xE9 o c.g (c.fence s), true) :=
  ⟨_, rfl, rfl⟩

/-! ## The statement -/

/-- Settles O31: the three instructions by their bodies, and the fence by the four things that it waits for. -/
theorem batchInstructionsComplete : Obligations.BatchInstructionsComplete := by
  unfold Obligations.BatchInstructionsComplete
  refine ⟨?close, ?waitb, fun o s c h => ?mfence, fun s c houts haccs hsplit hexchange => ?idle,
    fun s c w n old b hw hdst hb hlate => ?write, fun s c k a ha hguid hldc hdst => ?load⟩
  case close =>
    intro o s c e h b hopen hcheck hresult
    obtain ⟨body, hexec, hbody⟩ := execClose_sealed (b := b) rfl hopen hcheck hresult
    have hclose : exec (.close o) s = runState 0xE6 o ctlTiming s body := hexec
    exact hclose.trans (runState_stall h hbody)
  case waitb =>
    intro o s c h hcheck cls n
    obtain ⟨body, hexec, hbody⟩ := execWaitb_checked hcheck
    have hwaitb : exec (.waitb o) s = runState 0xE7 o ctlTiming s body := hexec
    rw [hwaitb]
    exact runState_leaves h hbody
  case mfence =>
    obtain ⟨body, hexec, hbody⟩ := execMfence_body o s c
    have hmfence : exec (.mfence o) s = runGroup 0xE9 o ctlTiming s body := hexec
    rw [hmfence]
    exact runGroup_leaves h hbody
  case idle =>
    rw [waitOver_fence, Group.regsAvailable, houts, loadsOf_eq_nil haccs, hexchange]
    simpa using fun k f hf => Or.inl (hsplit k f hf)
  case write =>
    rw [waitOver_fence, decide_eq_false (Nat.not_le.2 (lt_regsAvailable hw hdst hb hlate))]
    rfl
  case load =>
    have hsome : (s.loadsOf c.g.uid == []) = false := by simpa using List.ne_nil_of_mem (mem_loadsOf ha hguid hldc hdst)
    rw [waitOver_fence, hsome, Bool.and_false]
    rfl

end Sys2Proof.Machine

/-! STS and ATOMS: lanes written one after another into a scratchpad (R228, R232, R239, R384, R389). -/
namespace Sys2Proof.Machine

/-! ## Bytes written lane after lane -/

/-- A memory after lanes have written to it one after another, each at its own address what it makes of the memory that it finds. -/
def writeLanes (f : List Host.Cell → Nat × Nat → List Byte) (lanes : List (Nat × Nat)) (m : List Host.Cell) : List Host.Cell :=
  lanes.foldl (fun m x => cwrite m x.2 (f m x)) m

section
variable {f : List Host.Cell → Nat × Nat → List Byte} {lanes : List (Nat × Nat)} {m : List Host.Cell} {n : Nat}

theorem writeLanes_wf (h : Memory.wf m = true) : Memory.wf (writeLanes f lanes m) = true :=
  List.foldlRecOn (motive := fun m => Memory.wf m = true) _ _ h fun _ hm _ _ => cwrite_wf _ _ _ hm

/-- An address that no lane's bytes cover keeps its byte. -/
theorem cget_writeLanes_outside (hlen : ∀ m x, (f m x).length = n) (h : Memory.wf m = true) {a : Nat}
    (ha : ∀ x ∈ lanes, a < x.2 ∨ x.2 + n ≤ a) : cget (writeLanes f lanes m) a = cget m a := by
  induction lanes generalizing m with
  | nil => rfl
  | cons x lanes ih =>
    have hrest := ih (cwrite_wf m x.2 (f m x) h) fun y hy => ha y (List.mem_cons_of_mem _ hy)
    exact hrest.trans (cget_cwrite_outside _ _ _ _ h (hlen m x ▸ ha x (List.mem_cons_self ..)))

/-- A byte that no later lane covers is the one that its lane has written. -/
theorem cget_writeLanes_at (hlen : ∀ m x, (f m x).length = n) (h : Memory.wf m = true) {before after : List (Nat × Nat)} {l p i : Nat}
    (hi : i < n) (hafter : ∀ x ∈ after, p + i < x.2 ∨ x.2 + n ≤ p + i) :
    cget (writeLanes f (before ++ (l, p) :: after) m) (p + i) = (f (writeLanes f before m) (l, p)).getD i 0 := by
  have hwf := writeLanes_wf (f := f) (lanes := before) h
  rw [writeLanes, List.foldl_append]
  exact (cget_writeLanes_outside hlen (cwrite_wf _ _ _ hwf) hafter).trans (cget_cwrite_inside _ hwf (by rwa [hlen]))

/-- The word of a lane that no earlier lane's word meets is the one that stood there. -/
theorem cnat_writeLanes_outside (hlen : ∀ m x, (f m x).length = n) (h : Memory.wf m = true) {p : Nat}
    (hp : ∀ x ∈ lanes, p + n ≤ x.2 ∨ x.2 + n ≤ p) : cnat (writeLanes f lanes m) p n = cnat m p n := by
  refine congrArg leNat (List.map_congr_left fun i hi => cget_writeLanes_outside hlen h fun x hx => ?_)
  have := List.mem_range.1 hi
  have := hp x hx
  omega

end

theorem leBytes_length (n v : Nat) : (leBytes n v).length = n := by simp [leBytes]

/-! ## Lanes written into a team's scratchpad -/

section
variable {s : State} {team : Nat} {f : List Host.Cell → Nat × Nat → List Byte} {lanes : List (Nat × Nat)}

/-- The state after lanes have written to a team's scratchpad one after another. -/
def State.writeScratch (s : State) (team : Nat) (f : List Host.Cell → Nat × Nat → List Byte) (lanes : List (Nat × Nat)) : State :=
  lanes.foldl (fun u x => u.scratchWrite team x.2 (f (u.teamAt team).scratch x)) s

theorem scratchWrite_teamAt_of_ne (off : Nat) (bs : List Byte) {k : Nat} (hk : k ≠ team) :
    (s.scratchWrite team off bs).teamAt k = s.teamAt k := tgetD_tset_of_ne _ _ _ hk

theorem scratchWrite_scratch (off : Nat) (bs : List Byte) :
    ((s.scratchWrite team off bs).teamAt team).scratch = cwrite (s.teamAt team).scratch off bs :=
  congrArg Team.scratch (tgetD_tset_self ..)

theorem writeScratch_frame : { s.writeScratch team f lanes with teams := s.teams } = s :=
  List.foldlRecOn (motive := fun u : State => { u with teams := s.teams } = s) _ _ rfl fun _ hu _ _ => hu

theorem writeScratch_mem : (s.writeScratch team f lanes).mem = s.mem :=
  List.foldlRecOn (motive := fun u : State => u.mem = s.mem) _ _ rfl fun _ hu _ _ => hu

theorem writeScratch_teamAt_of_ne {k : Nat} (hk : k ≠ team) : (s.writeScratch team f lanes).teamAt k = s.teamAt k :=
  foldl_keeps (fun u : State => u.teamAt k) (fun _ _ => scratchWrite_teamAt_of_ne _ _ hk) lanes s

theorem writeScratch_scratch : ((s.writeScratch team f lanes).teamAt team).scratch = writeLanes f lanes (s.teamAt team).scratch := by
  induction lanes generalizing s with
  | nil => rfl
  | cons x lanes ih => exact ih.trans (congrArg (writeLanes f lanes) (scratchWrite_scratch ..))

end

/-! ## STS (R228, R384) -/

/-- The bytes that a lane stores. -/
def Ctx.stsBytes (c : Ctx) (o : Operands) (n : Nat) (_ : List Host.Cell) (x : Nat × Nat) : List Byte :=
  leBytes n (c.storeData o n x.1 ((c.scratchTimes o n).getD (x.1 / 16) 0))

theorem stsBytes_length (c : Ctx) (o : Operands) (n : Nat) (m : List Host.Cell) (x : Nat × Nat) : (c.stsBytes o n m x).length = n :=
  leBytes_length ..

theorem storeScratch_eq (s : State) (c : Ctx) (o : Operands) (n : Nat) (lanes : List (Nat × Nat)) :
    s.storeScratch c o n lanes = s.writeScratch c.g.team (c.stsBytes o n) lanes := rfl

theorem execSts_checked {o : Operands} {s : State} {c : Ctx} (hcnt : c.g.stcnt < 63)
    (hcheck : c.check true ([baseWord32 o, offWord o] ++ storeSrcs o (storeBytes o.fn.toNat)) 120#7 false = .ok ()) (hmask : c.mask ≠ 0)
    (hlanes : scratchChecks (c.scratchBeats o (storeBytes o.fn.toNat) 22 false).1 (storeBytes o.fn.toNat) true
      (fun a => a ≥ s.scratchSize c.g.team) = .ok ()) :
    ∃ body, execSts o s = runState 0xA3 o memTiming s body ∧ body c = .ok (.stall
      (if s.ownRemote c (c.scratchBeats o (storeBytes o.fn.toNat) 22 false).1 (storeBytes o.fn.toNat) then s.waitCycle c
       else (s.storeScratch c o (storeBytes o.fn.toNat) (c.scratchBeats o (storeBytes o.fn.toNat) 22 false).1).issueScratch c o false
         (c.scratchBeats o (storeBytes o.fn.toNat) 22 false).2.1 (c.advance 0xA3 o c.g))) := by
  have hfull : c.counterFull false = false := by simpa [Ctx.counterFull] using hcnt
  refine ⟨_, rfl, ?_⟩
  simp only [hfull, hcheck, hmask, hlanes, Bool.false_eq_true, beq_iff_eq, if_false, bind, Except.bind]
  rw [apply_ite Done.stall, apply_ite Except.ok]

/-! ## ATOMS (R389) -/

/-- The bytes that a lane's atomic leaves in its word. -/
def Ctx.atomsBytes (c : Ctx) (o : Operands) (m : List Host.Cell) (x : Nat × Nat) : List Byte :=
  let n := atomBytes o.fn.toNat
  let d := c.atomData o (o.fn.toNat % 16) (o.fn.toNat ≥ 16) x.1 ((c.scratchTimes o n).getD (x.1 / 16) 0)
  leBytes n (atomNew (o.fn.toNat % 16) (o.fn.toNat ≥ 16) (cnat m x.2 n) d.1 d.2)

theorem atomsBytes_length (c : Ctx) (o : Operands) (m : List Host.Cell) (x : Nat × Nat) :
    (c.atomsBytes o m x).length = atomBytes o.fn.toNat := leBytes_length ..

theorem atomScratch_fst (s : State) (c : Ctx) (o : Operands) (lanes : List (Nat × Nat)) :
    (s.atomScratch c o lanes).1 = s.writeScratch c.g.team (c.atomsBytes o) lanes :=
  (List.foldl_hom Prod.fst fun _ _ => rfl).symm

/-- The access of an atomic on the team's scratchpad that returns the old values of its lanes. -/
def Ctx.atomsAccess (c : Ctx) (o : Operands) (s : State) (done : List LaneAcc) : Access :=
  let op := o.fn.toNat % 16
  let w64 : Bool := o.fn.toNat ≥ 16
  { c.access s (.atom op w64) .own (atomBytes o.fn.toNat) o.d true with
    fmt := (c.atomTag o op w64).1, cnt := (c.atomTag o op w64).2
    readyAt := (c.scratchBeats o (atomBytes o.fn.toNat) 26 false).2.2, lanes := done }

/-- The state after an atomic on the team's scratchpad has issued, its lanes applied. -/
def State.atomsDone (s : State) (c : Ctx) (o : Operands) : State :=
  let beats := c.scratchBeats o (atomBytes o.fn.toNat) 26 false
  let r := s.atomScratch c o beats.1
  let a := c.atomsAccess o r.1.fresh.2 r.2
  if o.d = 120#7 then r.1.issueScratch c o false beats.2.1 (c.advance 0xA9 o c.g)
  else State.issueScratch { r.1.fresh.2 with accs := tset r.1.accs r.1.ids a } c o false beats.2.1 (c.advance 0xA9 o (c.g.begin a))

theorem execAtoms_checked {o : Operands} {s : State} {c : Ctx} (hcnt : c.counterFull (o.d != 120#7) = false)
    (hcheck : c.check true ([baseWord32 o, offWord o] ++ atomSrcs o (o.fn.toNat % 16) (o.fn.toNat ≥ 16)) 120#7 false = .ok ())
    (hdst : c.dstCheck o.d (atomBytes o.fn.toNat) false = .ok ()) (hmask : c.mask ≠ 0)
    (hlanes : scratchChecks (c.scratchBeats o (atomBytes o.fn.toNat) 26 false).1 (atomBytes o.fn.toNat) true
      (fun a => a ≥ s.scratchSize c.g.team) = .ok ()) :
    ∃ body, execAtoms o s = runState 0xA9 o memTiming s body ∧ body c = .ok (.stall
      (if s.ownRemote c (c.scratchBeats o (atomBytes o.fn.toNat) 26 false).1 (atomBytes o.fn.toNat) then s.waitCycle c
       else s.atomsDone c o)) := by
  refine ⟨_, rfl, ?_⟩
  simp only [hcnt, hcheck, hdst, hmask, hlanes, Bool.false_eq_true, beq_iff_eq, if_false, bind, Except.bind]
  rw [apply_ite Done.stall, apply_ite Except.ok]
  by_cases hd : o.d = 120#7
  · simp [State.atomsDone, hd]
  · have hret : (o.d != 120#7) = true := by simpa using hd
    rw [State.atomsDone, if_neg hd, if_pos hret]
    rfl

/-! ## The statement -/

/-- Settles O25: each instruction by its body, and the bytes of the scratchpad by the order in which the lanes write them. -/
theorem scratchpadWritesLand : Obligations.ScratchpadWritesLand := by
  unfold Obligations.ScratchpadWritesLand
  refine ⟨?sts, ?stored, ?atoms, ?applied⟩
  case sts =>
    intro o s c h hcnt hcheck hmask n lanes hlanes
    obtain ⟨body, hexec, hbody⟩ := execSts_checked hcnt hcheck hmask hlanes
    have hsts : exec (.sts o) s = runState 0xA3 o memTiming s body := hexec
    rw [hsts]
    exact ⟨fun hwait => runState_stall h (hbody.trans (congrArg (Except.ok ∘ Done.stall) (if_pos hwait))),
      fun hfree => runState_stall h (hbody.trans (congrArg (Except.ok ∘ Done.stall) (if_neg (Bool.eq_false_iff.1 hfree))))⟩
  case stored =>
    intro o s c n cycles lanes g hwf t
    have hteams : t.teams = (s.storeScratch c o n lanes).teams := issueScratch_teams ..
    have hteam : ∀ k, t.teamAt k = (s.writeScratch c.g.team (c.stsBytes o n) lanes).teamAt k := fun k =>
      congrArg (fun ts : Tbl Team => tgetD ts k {}) hteams
    have hmem : (s.storeScratch c o n lanes).mem = s.mem :=
      (congrArg State.mem (storeScratch_eq ..)).trans writeScratch_mem
    refine ⟨issueScratch_group .., (issueScratch_mem ..).trans hmem, fun k hk => (hteam k).trans (writeScratch_teamAt_of_ne hk), ?_, ?_⟩
    · intro a ha
      rw [hteam, writeScratch_scratch, cget_writeLanes_outside (stsBytes_length c o n) hwf ha]
    · intro before l p after hall i hi hafter
      rw [hteam, writeScratch_scratch, hall, cget_writeLanes_at (stsBytes_length c o n) hwf hi hafter]
      rfl
  case atoms =>
    intro o s c h hcnt hcheck hdst hmask n beats hlanes r
    obtain ⟨body, hexec, hbody⟩ := execAtoms_checked hcnt hcheck hdst hmask hlanes
    have hatoms : exec (.atoms o) s = runState 0xA9 o memTiming s body := hexec
    rw [hatoms]
    have hdone : s.ownRemote c beats.1 n = false → runState 0xA9 o memTiming s body = .next (s.atomsDone c o) := fun hfree =>
      runState_stall h (hbody.trans (congrArg (Except.ok ∘ Done.stall) (if_neg (Bool.eq_false_iff.1 hfree))))
    refine ⟨fun hwait => runState_stall h (hbody.trans (congrArg (Except.ok ∘ Done.stall) (if_pos hwait))),
      fun hfree hd => (hdone hfree).trans (congrArg Host.Outcome.next (if_pos hd)),
      fun hfree hd => ⟨c.atomsAccess o r.1.fresh.2 r.2, (hdone hfree).trans (congrArg Host.Outcome.next (if_neg hd)),
        rfl, rfl, rfl, rfl, rfl⟩⟩
  case applied =>
    intro o s c lanes hwf n t
    have ht : t = s.writeScratch c.g.team (c.atomsBytes o) lanes := atomScratch_fst ..
    refine ⟨ht ▸ writeScratch_frame, fun k hk => ht ▸ writeScratch_teamAt_of_ne hk, ?_, ?_⟩
    · intro a ha
      rw [ht, writeScratch_scratch, cget_writeLanes_outside (atomsBytes_length c o) hwf ha]
    · intro before l p after hall hapart i hi
      have hbefore : ∀ x ∈ before, p + n ≤ x.2 ∨ x.2 + n ≤ p := fun x hx => hapart x (List.mem_append_left _ hx)
      have hafter : ∀ x ∈ after, p + i < x.2 ∨ x.2 + n ≤ p + i := fun x hx => by
        have := hapart x (List.mem_append_right _ hx)
        omega
      rw [ht, writeScratch_scratch, hall, cget_writeLanes_at (atomsBytes_length c o) hwf hi hafter, Ctx.atomsBytes,
        cnat_writeLanes_outside (atomsBytes_length c o) hwf hbefore]
      rfl

end Sys2Proof.Machine

/-! Traps and their return (R247, R248, R251, R252): what the handler gives back, a trap that ends its fault domain, and the traps that an
arithmetic instruction takes before any of its effects. -/
namespace Sys2Proof.Machine

/-! ## Return from the handler (R247, R352) -/

theorem leaveHandler_split (g : Group) (e : Nat) : (g.leaveHandler e).split =
    tmap g.split fun k f => if k == e then { f with pc := g.hpc, stopped := false } else { f with stopped := false } :=
  List.map_congr_left fun _ _ => (apply_ite (Prod.mk _) _ _ _).symm

theorem leaveHandler_split_self {g : Group} {e : Nat} {f : Frag} (h : tget? g.split e = some f) :
    tget? (g.leaveHandler e).split e = some { f with pc := g.hpc, stopped := false } := by
  simp [leaveHandler_split, h]

theorem leaveHandler_split_of_ne {g : Group} {e k : Nat} {f : Frag} (hk : k ≠ e) (h : tget? g.split k = some f) :
    tget? (g.leaveHandler e).split k = some { f with stopped := false } := by
  simp [leaveHandler_split, h, hk]

/-- Settles O18: the handler's entry and its return by the fields that they set. -/
theorem returnRestores : Obligations.ReturnRestores := by
  unfold Obligations.ReturnRestores
  exact ⟨fun _ _ _ h => ⟨rfl, rfl, rfl, rfl, rfl, leaveHandler_split_self h, fun _ _ hk => leaveHandler_split_of_ne hk⟩,
    fun _ _ _ _ _ => ⟨rfl, rfl, rfl⟩⟩

/-! ## A trap that no handler takes (R248, R251) -/

/-- The record of a trap that ends its fault domain, with `flags` added to those of the trap. -/
def State.endingRecord (s : State) (core slot : Nat) (g : Group) (t : Trap) (pc : W64) (flags : Nat) : Record :=
  let r := s.trapRecord core slot g t pc
  { r with flags := r.flags + flags }

section
variable {s : State} {core slot entry : Nat} {t : Trap} {pc : W64} {g : Group} (h : s.group? core slot = some g)
include h

/-- A trap in handler mode: its record has HM beside HOST and the domain's end. -/
theorem trapTo_inHandler (hg : g.handler = true) : s.trapTo core slot entry t pc =
    ((s.tally core 13 1).abortTeam g.team).post ((s.tally core 13 1).endingRecord core slot g t pc (2 + 4 + 64)) (some g.uid) := by
  simp only [State.trapTo, h, hg, if_true]
  rfl

theorem trapTo_withoutHandler (hg : g.handler = false) (he : (s.gridAt (s.teamOf g).grid).eff.handler = 0) :
    s.trapTo core slot entry t pc =
      ((s.tally core 13 1).abortTeam g.team).post ((s.tally core 13 1).endingRecord core slot g t pc (2 + 4)) (some g.uid) := by
  obtain ⟨k, hk⟩ := tally_eq s core 13 1
  have he' : (((s.tally core 13 1).gridAt ((s.tally core 13 1).teamOf g).grid).eff.handler == 0) = true := by
    rw [hk]
    exact beq_iff_eq.2 he
  simp only [State.trapTo, h, hg, he', Bool.false_eq_true, if_false, if_true]
  rfl

end

/-- Settles O19: in both cases the trap's record, with the flags of R255 added. -/
theorem trapWithoutHandlerEndsTheDomain : Obligations.TrapWithoutHandlerEndsTheDomain := by
  unfold Obligations.TrapWithoutHandlerEndsTheDomain
  intro s core slot entry t pc g h
  exact ⟨fun hg => ⟨_, trapTo_inHandler h hg, rfl, rfl, rfl, rfl⟩,
    fun hg he => ⟨_, trapTo_withoutHandler h hg he, rfl, rfl, rfl, rfl⟩⟩

/-! ## Traps before any effect (R252, R262, R303) -/

/-- The traps that the checks of R252 up to Format take. -/
def Trap.early (t : Trap) : Prop := t = .illegal 5 ∨ t = .mode ∨ t = .hazard ∨ t = .format

theorem check_error {c : Ctx} {modeOk : Bool} {ss : List Src} {dst : Code} {dst64 : Bool} {preds : List Nat} {own : Bool} {t : Trap}
    (h : c.check modeOk ss dst dst64 preds own = .error t) : t.early := by
  unfold Ctx.check at h
  extract_lets exec at h
  split at h
  · exact .inl (Except.error.inj h).symm
  split at h
  · exact .inr (.inl (Except.error.inj h).symm)
  split at h
  · exact .inr (.inr (.inl (Except.error.inj h).symm))
  split at h
  · exact .inr (.inr (.inr (Except.error.inj h).symm))
  split at h
  · exact .inr (.inr (.inr (Except.error.inj h).symm))
  split at h
  · exact .inr (.inr (.inr (Except.error.inj h).symm))
  · exact nomatch h

/-- A check that stands before Shape is taken also where a restore has left broken tags (R262). -/
theorem brokenTrap_early {α : Type} {op : Nat} {o : Operands} {t : Trap} (h : t.early) :
    brokenTrap (α := α) op o (.error t) = t := by
  rcases h with rfl | rfl | rfl | rfl <;> rfl

theorem pastSub_of_ne {op : Nat} (o : Operands) (h : op ≠ 0x0D) (h' : op ≠ 0x0E) : pastSub op o = 5 := by
  simp [pastSub, srBad, h, h']

/-- A result traps only for its shape (R309). -/
theorem result_error {c : Ctx} {dst : Code} {w64 : Bool} {fmt cnt : Nat} {r : ResVal} {mask : W64} {t : Trap}
    (h : c.result dst w64 fmt cnt r mask = .error t) : t = .shape := by
  unfold Ctx.result at h
  split at h
  · exact nomatch h
  split at h
  · split at h
    · exact nomatch h
    · exact (Except.error.inj h).symm
  extract_lets n top at h
  split at h
  · exact (Except.error.inj h).symm
  · exact nomatch h

theorem bind_ok_error {α β : Type} {x : Except Trap α} {f : α → β} {t : Trap} (h : (x >>= fun a => .ok (f a)) = .error t) :
    x = .error t := by
  cases x with
  | error _ => exact congrArg Except.error (Except.error.inj h)
  | ok _ => exact nomatch h

theorem elementwise_error {c : Ctx} {o : Operands} {ss : List Src} {dst : Code} {dst64 : Bool} {fmt cnt : Nat}
    {affine : Option (W64 × W64)} {uniformOk : Bool} {steps : Nat} {fn : LaneFn} {t : Trap}
    (h : c.elementwise o ss dst dst64 fmt cnt affine uniformOk steps fn = .error t) : t = .shape := by
  simp only [Ctx.elementwise] at h
  split at h
  · exact result_error (bind_ok_error h)
  split at h
  · exact result_error (bind_ok_error h)
  · exact result_error (bind_ok_error h)

/-- The body of an instruction takes the trap of a check, and once that passes none but Shape. -/
def ChecksFirst (check : Except Trap Unit) (body : Except Trap Effect) : Prop :=
  (∀ t, check = .error t → body = .error t) ∧ (check = .ok () → ∀ t, body = .error t → t = .shape)

theorem checksFirst_bind {check : Except Trap Unit} {k : Unit → Except Trap Effect} (h : ∀ t, k () = .error t → t = .shape) :
    ChecksFirst check (check >>= k) :=
  ⟨fun _ hc => hc ▸ rfl, fun hc t hk => h t (by rw [hc] at hk; exact hk)⟩

/-- The same where the check's word on MODE is one that holds. -/
theorem checksFirst_allowed {c : Ctx} {modeOk : Bool} {ss : List Src} {dst : Code} {dst64 : Bool} {k : Unit → Except Trap Effect}
    (hmode : modeOk = true) (h : ∀ t, k () = .error t → t = .shape) :
    ChecksFirst (c.check true ss dst dst64) (c.check modeOk ss dst dst64 >>= k) := hmode ▸ checksFirst_bind h

/-- An element-wise instruction as its body runs it: under an ET that it allows its checks come before its effects. -/
def ElementForm.Runs (x : ElementForm) (body : Operands → Ctx → Except Trap Effect) : Prop :=
  (∀ o s, exec (x.con o) s = runAlu x.op o x.tm s (body o)) ∧
    ∀ o c, x.allowed c o = true → ChecksFirst (c.check true (x.srcs c o) o.d (x.w64 c o)) (body o c)

section
variable {op : Nat} {o : Operands} {tm : Ctx → Timing} {s : State} {c0 : Ctx} {body : Ctx → Except Trap Effect}
  (h0 : s.ctx? ⟨.ctl, 1, 1, true⟩ = some c0)
include h0

/-- An instruction whose fields name declared registers, where its body traps before Shape, tags broken or not. -/
theorem runAlu_earlyTrap {t : Trap} (hp : fieldsPast op o (c0.g.g + c0.g.c) = false) (ht : t.early)
    (hb : body { c0 with tm := tm c0 } = .error t) : runAlu op o tm s body = .next (s.takeTrap { c0 with tm := tm c0 } t) := by
  simp only [runAlu, runGroup, h0, hp, hb, brokenTrap_early ht, Bool.false_eq_true, if_false, ite_self]

/-- An instruction whose fields name declared registers, under broken tags, where its body takes no trap but Shape. -/
theorem runAlu_brokenTags (hp : fieldsPast op o (c0.g.g + c0.g.c) = false) (htags : c0.g.badTags = true)
    (hb : ∀ t, body { c0 with tm := tm c0 } = .error t → t = .shape) :
    runAlu op o tm s body = .next (s.takeTrap { c0 with tm := tm c0 } .shape) := by
  simp only [runAlu, runGroup, h0, hp, htags, Bool.false_eq_true, if_false, if_true]
  cases hr : body { c0 with tm := tm c0 } with
  | ok _ => rfl
  | error t => rw [hb t hr]; rfl

theorem runAlu_fieldsPast (hp : fieldsPast op o (c0.g.g + c0.g.c) = true) :
    runAlu op o tm s body = .next (s.takeTrap { c0 with tm := tm c0 } (.illegal (pastSub op o))) := by
  simp only [runAlu, runGroup, h0, hp, if_true]

end

/-! ## The forms of the arithmetic instructions run their checks first -/

section
variable {con : Operands → Instr} {op : Nat}

theorem arithForm_runs {tm : Ctx → Timing} {xs : Operands → List Code} {clamps : Bool} {f : Nat → List Int → Int}
    {affine : Ctx → Operands → Option (W64 × W64)}
    (h : ∀ o s, exec (con o) s = runAlu op o tm s fun c => c.arith o (xs o) clamps (affine c o) (f (elemWidth c.et))) :
    ∃ b, (arithForm con op tm xs clamps f affine).Runs b :=
  ⟨_, h, fun _ _ hc => checksFirst_allowed hc fun _ => elementwise_error⟩

theorem shiftForm_runs {k : Nat} {affine : Ctx → Operands → Option (W64 × W64)}
    (h : ∀ o s, exec (con o) s = runAlu op o intTiming s fun c => c.shift o k (affine c o)) :
    ∃ b, (shiftForm con op k affine).Runs b :=
  ⟨_, h, fun _ _ hc => checksFirst_allowed hc fun _ => elementwise_error⟩

theorem logicForm_runs {xs : Operands → List Code} {f : Bool → List Nat → Nat}
    (h : ∀ o s, exec (con o) s = runAlu op o intTiming s fun c => c.logic o (xs o) (f c.wide)) :
    ∃ b, (logicForm con op xs f).Runs b :=
  ⟨_, h, fun _ _ _ => checksFirst_bind fun _ => elementwise_error⟩

theorem bitForm_runs {xs : Operands → List Code} {tag : Ctx → Operands → Nat × Nat} {f : Operands → List Nat → Nat}
    (h : ∀ o s, exec (con o) s = runAlu op o intTiming s fun c => c.bit o (xs o) (tag c o) (f o)) :
    ∃ b, (bitForm con op xs tag f).Runs b :=
  ⟨_, h, fun _ _ _ => checksFirst_bind fun _ => elementwise_error⟩

theorem floatForm_runs {tm : Ctx → Timing} {xs : Operands → List Code} {extra : Operands → List Src} {allowed : Ctx → Bool}
    {rounds lit : Bool} {f : Operands → Ctx → Nat → List Nat → Nat × Flags}
    {f' : Operands → Ctx → BinFmt → Nat → List Nat → Nat × Flags}
    (h : ∀ o s, exec (con o) s = runAlu op o tm s fun c => c.floating o (xs o) (extra o) (allowed c) rounds (f' o c) lit) :
    ∃ b, (floatForm con op tm xs extra allowed rounds f lit).Runs b :=
  ⟨_, h, fun _ _ hc => checksFirst_allowed hc fun _ => elementwise_error⟩

end

theorem integerForms_run : ∀ x ∈ integerForms, ∃ b, x.Runs b := by
  simp only [integerForms, List.forall_mem_cons, List.not_mem_nil, IsEmpty.forall_iff, implies_true, and_true]
  and_intros <;> exact arithForm_runs fun _ _ => rfl

theorem shiftForms_run : ∀ x ∈ shiftForms, ∃ b, x.Runs b := by
  simp only [shiftForms, List.forall_mem_cons, List.not_mem_nil, IsEmpty.forall_iff, implies_true, and_true]
  and_intros <;> exact shiftForm_runs fun _ _ => rfl

theorem logicForms_run : ∀ x ∈ logicForms, ∃ b, x.Runs b := by
  simp only [logicForms, List.forall_mem_cons, List.not_mem_nil, IsEmpty.forall_iff, implies_true, and_true]
  and_intros <;> exact logicForm_runs fun _ _ => rfl

theorem bitForms_run : ∀ x ∈ bitForms, ∃ b, x.Runs b := by
  simp only [bitForms, List.forall_mem_cons, List.not_mem_nil, IsEmpty.forall_iff, implies_true, and_true]
  and_intros <;> exact bitForm_runs fun _ _ => rfl

/-- Each is named by its own meaning, to which the dispatch of its constructor leads at once. -/
theorem floatForms_run : ∀ x ∈ floatForms, ∃ b, x.Runs b := by
  simp only [floatForms, List.forall_mem_cons, List.not_mem_nil, IsEmpty.forall_iff, implies_true, and_true]
  exact ⟨floatForm_runs fun o s => (rfl : execFadd o s = _), floatForm_runs fun o s => (rfl : execFsub o s = _),
    floatForm_runs fun o s => (rfl : execFmul o s = _), floatForm_runs fun o s => (rfl : execFma o s = _),
    floatForm_runs fun o s => (rfl : execFmin o s = _), floatForm_runs fun o s => (rfl : execFmax o s = _),
    floatForm_runs fun o s => (rfl : execFneg o s = _), floatForm_runs fun o s => (rfl : execFabs o s = _),
    floatForm_runs fun o s => (rfl : execFrnd o s = _), floatForm_runs fun o s => (rfl : execFscale o s = _)⟩

theorem xuForms_run : ∀ x ∈ xuForms, ∃ b, x.Runs b := by
  simp only [xuForms, List.forall_mem_cons, List.not_mem_nil, IsEmpty.forall_iff, implies_true, and_true]
  exact ⟨floatForm_runs fun o s => (rfl : execFrcp o s = _), floatForm_runs fun o s => (rfl : execFrsq o s = _),
    floatForm_runs fun o s => (rfl : execFsqrt o s = _), floatForm_runs fun o s => (rfl : execFexp2 o s = _),
    floatForm_runs fun o s => (rfl : execFlog2 o s = _), floatForm_runs fun o s => (rfl : execFsin o s = _),
    floatForm_runs fun o s => (rfl : execFcos o s = _)⟩

/-- Of the conversions, PACK reads its destination's elements where its selector merges, and UNPACK's destination is a pair but for exec. -/
theorem convertForms_run : ∀ x ∈ convertForms, ∃ b, x.Runs b := by
  simp only [convertForms, List.forall_mem_cons, List.not_mem_nil, IsEmpty.forall_iff, implies_true, and_true]
  refine ⟨⟨_, fun o s => (rfl : execIcvt o s = _), fun _ _ hc => checksFirst_allowed hc fun _ => elementwise_error⟩,
    ⟨_, fun o s => (rfl : execCvt o s = _), fun _ _ hc => checksFirst_allowed hc fun _ => elementwise_error⟩,
    ⟨_, fun o s => (rfl : execPack o s = _), fun _ _ hc => checksFirst_allowed hc fun _ => elementwise_error⟩,
    ⟨_, fun o s => (rfl : execUnpack o s = _), fun o c hc => ?unpack⟩⟩
  obtain ⟨hmode, hd⟩ := Bool.and_eq_true_iff.1 hc
  show ChecksFirst (c.check true [c.cvtSrc o.a] o.d true) (c.check _ [c.cvtSrc o.a] o.d (o.d != 123#7) >>= _)
  rw [hd]
  exact checksFirst_allowed hmode fun _ => elementwise_error

/-- The element-wise arithmetic, conversion, logic and bit instructions. -/
def arithmeticForms : List ElementForm := integerForms ++ shiftForms ++ floatForms ++ xuForms ++ convertForms ++ logicForms ++ bitForms

theorem arithmeticForms_run : ∀ x ∈ arithmeticForms, ∃ b, x.Runs b := by
  simp only [arithmeticForms, List.forall_mem_append]
  exact ⟨⟨⟨⟨⟨⟨integerForms_run, shiftForms_run⟩, floatForms_run⟩, xuForms_run⟩, convertForms_run⟩, logicForms_run⟩,
    bitForms_run⟩

/-- None of them is RDSR or WRSR, whose words may name no register that they take (R353). -/
theorem arithmeticForms_op : ∀ x ∈ arithmeticForms, x.op ≠ 0x0D ∧ x.op ≠ 0x0E := by decide

/-! ## The statement -/

/-- A form that runs its checks first: the trap alone, in each of the three cases. -/
theorem ElementForm.Runs.trapsAlone {x : ElementForm} {body : Operands → Ctx → Except Trap Effect} (hx : x.Runs body)
    (hop : x.op ≠ 0x0D ∧ x.op ≠ 0x0E) {o : Operands} {s : State} {c0 : Ctx} (h0 : s.ctx? ⟨.ctl, 1, 1, true⟩ = some c0) :
    let c : Ctx := { c0 with tm := x.tm c0 }
    (fieldsPast x.op o (c.g.g + c.g.c) = true → exec (x.con o) s = .next (s.takeTrap c (.illegal 5))) ∧
    (fieldsPast x.op o (c.g.g + c.g.c) = false → c.g.badTags = true → x.allowed c o = true →
      c.check true (x.srcs c o) o.d (x.w64 c o) = .ok () → exec (x.con o) s = .next (s.takeTrap c .shape)) ∧
    (fieldsPast x.op o (c.g.g + c.g.c) = false → x.allowed c o = true → ∀ t,
      c.check true (x.srcs c o) o.d (x.w64 c o) = .error t → exec (x.con o) s = .next (s.takeTrap c t)) := by
  obtain ⟨hexec, hfirst⟩ := hx
  simp only [hexec]
  refine ⟨fun hp => ?_, fun hp htags ha hc => runAlu_brokenTags h0 hp htags ((hfirst _ _ ha).2 hc),
    fun hp ha t hc => runAlu_earlyTrap h0 hp (check_error hc) ((hfirst _ _ ha).1 t hc)⟩
  rw [runAlu_fieldsPast h0 hp, pastSub_of_ne o hop.1 hop.2]

/-- Settles O20: every form runs its checks before its effects. -/
theorem trapsMakeNoEffect : Obligations.TrapsMakeNoEffect := by
  unfold Obligations.TrapsMakeNoEffect
  intro x hx o s c0 h0
  obtain ⟨b, hb⟩ := arithmeticForms_run x hx
  exact hb.trapsAlone (arithmeticForms_op x hx) h0

end Sys2Proof.Machine

/-! The matrix instructions (R243, R265, R432 to R438): those that start an operation of the array or of the epilogue engine, and those that
read or write a tile. -/
namespace Sys2Proof.Machine

/-! ## Ring accesses (R243, R265) -/

theorem ringDo_go {s u : State} {c : Ctx} {body : State → Except Trap Done} (h : s.ringCheck c = .go u) : s.ringDo c body = body u := by
  rw [State.ringDo, h]

/-- A team that owns its core's accumulators and has no tile to fetch or to clear goes on at once. -/
theorem ringCheck_owner {s : State} {c : Ctx} (hspill : (s.teamOf c.g).tspill = 0) (huntouched : (s.teamOf c.g).untouched = [])
    (howner : (s.core c.core).accown = some (s.teamOf c.g).ctx) : s.ringCheck c = .go s := by
  simp only [State.ringCheck, hspill, huntouched, howner, beq_self_eq_true, Bool.and_self, if_true]

/-- Where no operation of the array is incomplete on a tile, a read finds the tile itself. -/
theorem tileElem_complete {s : State} {core tile : Nat} (seed n : Nat) (htaken : s.tileOps core tile true = [])
    (hwaiting : s.tileOps core tile false = []) : tileElem (s.tileViews core tile) seed n = s.tileAt core tile n := by
  simp only [State.tileViews, htaken, hwaiting, List.map_nil, List.foldl_nil, List.nil_append, List.append_nil]
  rfl

/-! ## MMA, MMAS and ACCNEXT (R432 to R434) -/

section
variable {code : Nat} {scr : Bool} {o : Operands} {s : State} {c : Ctx}

/-- The sources of an MMA or an MMAS, whose A operand is eight registers or a place of the scratchpad. -/
def mmaSrcs (scr : Bool) (o : Operands) (c : Ctx) : List Src :=
  (if scr then [raw32 o.a] else (List.range 8).map fun k => (⟨o.a + BitVec.ofNat 7 k, false, [c.et], .zext⟩ : Src)) ++ [raw32 o.b, raw32 o.c]

theorem mmaInstr_noLane (h : Issues code o ctlTiming s c)
    (hcheck : c.check (mmaFormat c.et o.fn.toNat).isSome (mmaSrcs scr o c) 120#7 false = .ok ()) (hmask : c.mask = 0) :
    mmaInstr code scr o s = .next { (s.afterIssue c o (c.beats true) (c.advance code o c.g)) with uni := true } := by
  rw [mmaSrcs] at hcheck
  refine runState_issued h ?_
  simp only [hmask, hcheck, bne_self_eq_false, beq_self_eq_true, Bool.false_and, Bool.false_eq_true, if_false, if_true, bind, Except.bind]

theorem mmaInstr_starts {kind : OpKind} {u : State} (h : Issues code o ctlTiming s c) (hroom : s.opsFull c.g.uid 3 = false)
    (hepi : s.epiPending c.g.uid ((s.teamOf c.g).tile (o.d.toNat % 16)) = false)
    (hcheck : c.check (mmaFormat c.et o.fn.toNat).isSome (mmaSrcs scr o c) 120#7 false = .ok ()) (hmask : c.mask ≠ 0)
    (hstart : mmaStart scr o s c = .ok kind) (hring : s.ringCheck c = .go u) :
    mmaInstr code scr o s = .next { ((u.startMma c (s.teamOf c.g).grid (mmaCycles c.et o.fn.toNat) kind).afterIssue c o (c.beats true)
      (c.advance code o c.g)) with uni := true } := by
  rw [mmaSrcs] at hcheck
  refine runState_issued h ?_
  simp only [hroom, hepi, hcheck, beq_eq_false_iff_ne.2 hmask, hstart, ringDo_go hring, Bool.and_false, Bool.false_eq_true, if_false, bind,
    Except.bind]

theorem execAccnext_starts {u : State} (h : Issues 0xEC o ctlTiming s c) (hroom : s.opsFull c.g.uid 3 = false)
    (hepi : s.epiPending c.g.uid ((s.teamOf c.g).tile (c.single o o.a)) = false) (hcheck : c.check true [raw32 o.a] 120#7 false = .ok ())
    (hmask : c.mask ≠ 0) (htile : s.tileCheck c.g.team (c.single o o.a) = .ok ()) (hring : s.ringCheck c = .go u) :
    let r := u.addOp (c.operation u 3 (.accnext ((s.teamOf c.g).tile (c.single o o.a)) c.mask))
    execAccnext o s = .next { ((r.2.queueArray c.core r.1).afterIssue c o (c.beats true) (c.advance 0xEC o c.g)) with uni := true } := by
  refine runState_issued h ?_
  simp only [hroom, hepi, hcheck, beq_eq_false_iff_ne.2 hmask, htile, ringDo_go hring, Bool.and_false, Bool.false_eq_true, if_false, bind,
    Except.bind]

end

/-! ## Rows of registers -/

/-- Row `r` of a block of registers from `d` on, as ACCRD writes it (R435). -/
def rowOut (d : Nat) (val : Nat → RegVal) (mask : W64) (r : Nat) : RegOut := ⟨d + r, 6, 0, val r, mask⟩

/-- A group after the first `n` rows of a block are written, each available at its own time. -/
def Group.writeRows (g : Group) (d : Nat) (val : Nat → RegVal) (mask : W64) (due : Nat → Nat) (n : Nat) : Group :=
  (List.range n).foldl (fun g r => g.writeReg (rowOut d val mask r) [due r, due r, due r, due r]) g

section
variable {g : Group} {d : Nat} {val : Nat → RegVal} {mask : W64} {due : Nat → Nat} {n : Nat}

theorem writeRows_succ : g.writeRows d val mask due (n + 1) =
    (g.writeRows d val mask due n).writeReg (rowOut d val mask n) [due n, due n, due n, due n] := by
  simp only [Group.writeRows, List.range_succ, List.foldl_append, List.foldl_cons, List.foldl_nil]

/-- The rows leave the registers outside them, and what is outstanding for those, as they were. -/
theorem writeRows_outside (hquiet : ∀ r, r < n → g.regOuts (d + r) = []) {k : Nat} (hk : k < d ∨ d + n ≤ k) :
    (g.writeRows d val mask due n).reg k = g.reg k ∧ (g.writeRows d val mask due n).regOuts k = g.regOuts k := by
  induction n generalizing k with
  | zero => exact ⟨rfl, rfl⟩
  | succ n ih =>
    have hbefore : ∀ r, r < n → g.regOuts (d + r) = [] := fun r hr => hquiet r (by omega)
    have hne : k ≠ d + n := by omega
    obtain ⟨hreg, houts⟩ := ih hbefore (k := k) (by omega)
    have hrow : (g.writeRows d val mask due n).regOuts (rowOut d val mask n).n = [] :=
      (ih hbefore (.inr (Nat.le_refl _))).2.trans (hquiet n (Nat.lt_succ_self n))
    rw [writeRows_succ, writeReg_quiet _ _ _ hrow]
    exact ⟨(reg_tset_of_ne _ _ _ hne).trans hreg, (regOuts_append_of_ne _ _ _ _ _ _ hne).trans houts⟩

/-- Each row's register is as if the row were written alone. -/
theorem writeRows_row (hquiet : ∀ r, r < n → g.regOuts (d + r) = []) {r : Nat} (hr : r < n) :
    (g.writeRows d val mask due n).reg (d + r) = g.written (rowOut d val mask r) [due r, due r, due r, due r] := by
  induction n with
  | zero => exact absurd hr (Nat.not_lt_zero r)
  | succ n ih =>
    have hbefore : ∀ r, r < n → g.regOuts (d + r) = [] := fun r hr => hquiet r (by omega)
    obtain ⟨hreg, houts⟩ := writeRows_outside (val := val) (mask := mask) (due := due) hbefore (.inr (Nat.le_refl (d + n)))
    have hrow : (g.writeRows d val mask due n).regOuts (rowOut d val mask n).n = [] := houts.trans (hquiet n (Nat.lt_succ_self n))
    rw [writeRows_succ, writeReg_quiet _ _ _ hrow]
    rcases Nat.lt_succ_iff_lt_or_eq.1 hr with hlt | rfl
    · exact (reg_tset_of_ne _ _ _ (by simp only [rowOut]; omega)).trans (ih hbefore hlt)
    · refine (reg_tset_self ..).trans ?_
      simp only [Group.written, rowOut, hreg]

end

/-! ## ACCRD and ACCWR (R243, R435) -/

/-- A row of a tile as ACCRD reads it. -/
def tileRow (views : List (List W32)) (seed r : Nat) : RegVal := .general ((List.range 64).map fun l => tileElem views seed (64 * r + l))

/-- The group of an ACCRD with the rows that it reads. -/
def Ctx.accRead (c : Ctx) (o : Operands) (views : List (List W32)) : Group :=
  c.g.writeRows o.d.toNat (tileRow views c.seed) c.mask (fun r => c.now + (r + 24) * c.cyc) 16

section
variable {o : Operands} {s u : State} {c : Ctx}

theorem execAccrd_reads (h : Issues 0xED o accTiming s c) (hcheck : c.check true [raw32 o.a] 120#7 false = .ok ())
    (hfits : o.d.toNat + 15 < c.g.g) (hmask : c.mask ≠ 0) (htile : s.tileCheck c.g.team (c.single o o.a) = .ok ())
    (hring : s.ringCheck c = .go u) : execAccrd o s = .next { (u.afterIssue c o (c.beats true) (c.advance 0xED o
      (c.accRead o (u.tileViews c.core ((u.teamOf c.g).tile (c.single o o.a)))))) with uni := true } := by
  refine runState_issued h ?_
  simp only [hcheck, Nat.not_le.2 hfits, beq_eq_false_iff_ne.2 hmask, htile, ringDo_go hring, Bool.false_eq_true, if_false, bind, Except.bind]
  rfl

theorem accRead_row {views : List (List W32)} (hquiet : ∀ r, r < 16 → c.g.regOuts (o.d.toNat + r) = []) {r l : Nat} (hr : r < 16)
    (hl : l < 64) (hlane : inMask c.mask l = true) :
    ((c.accRead o views).reg (o.d.toNat + r)).val.lane l = tileElem views c.seed (64 * r + l) ∧
    ((c.accRead o views).reg (o.d.toNat + r)).fmt = 6 := by
  rw [Ctx.accRead, writeRows_row hquiet hr]
  refine ⟨?_, rfl⟩
  rw [written_lane _ _ _ _ hl]
  simp only [rowOut, hlane, if_true, tileRow, general_lane _ _ hl]

/-- The values that an ACCWR brings to a tile: its registers' in the lanes of the mask, the tile's own elsewhere. -/
def State.accData (u : State) (c : Ctx) (o : Operands) (tile : Nat) : List W32 :=
  (List.range 1024).map fun n =>
    if inMask c.mask (n % 64) then c.g.regLane c.seed (o.c.toNat + n / 64) (n % 64) (c.now + n / 64 * c.cyc) else u.tileAt c.core tile n

/-- The state after an ACCWR has written its tile, which its last write holds for 16 cycles; an operation that waits for the array is to
mix with it. -/
def State.accWritten (u : State) (c : Ctx) (o : Operands) (tile : Nat) : State :=
  let k := (u.core c.core).setTile tile (u.overwrite c.core tile c.seed c.mask (u.accData c o tile))
  let waiting := (u.tileOps c.core tile false).map fun e => e.1
  { u.setCore c.core { k with matrix := { k.matrix with accwr := tset k.matrix.accwr tile (c.now + 16 * c.cyc) } } with
    ops := tmap u.ops fun id x => if waiting.contains id then { x with overMask := x.overMask ||| c.mask } else x }

theorem execAccwr_writes (h : Issues 0xEE o accTiming s c)
    (hepi : s.epiPending c.g.uid ((s.teamOf c.g).tile (c.single o o.a)) = false)
    (hcheck : c.check true (raw32 o.a :: (List.range 16).map fun k => (⟨o.c + BitVec.ofNat 7 k, false, [6], .zext⟩ : Src))
      120#7 false = .ok ())
    (hmask : c.mask ≠ 0) (htile : s.tileCheck c.g.team (c.single o o.a) = .ok ()) (hring : s.ringCheck c = .go u) :
    execAccwr o s = .next { ((u.accWritten c o ((s.teamOf c.g).tile (c.single o o.a))).afterIssue c o (c.beats true)
      (c.advance 0xEE o c.g)) with uni := true } := by
  refine runState_issued h ?_
  simp only [hepi, hcheck, beq_eq_false_iff_ne.2 hmask, htile, ringDo_go hring, Bool.and_false, Bool.false_eq_true, if_false, bind, Except.bind]
  rfl

/-- An issue leaves every tile as it was. -/
theorem afterIssue_tileAt {beats : Nat} {g : Group} {uni : Bool} (core tile n : Nat) :
    ({ (s.afterIssue c o beats g) with uni := uni } : State).tileAt core tile n = s.tileAt core tile n := by
  obtain ⟨-, -, hcores⟩ := afterIssue_frame s c o beats g uni
  have hring := congrArg Core.ring (hcores core)
  dsimp only at hring
  simp only [State.tileAt, hring]

theorem accWritten_ring (tile : Nat) : ((u.accWritten c o tile).core c.core).ring =
    tset (u.core c.core).ring tile (u.overwrite c.core tile c.seed c.mask (u.accData c o tile)) :=
  congrArg Core.ring (core_setCore_self ..)

theorem accWritten_tileAt_self (tile n : Nat) : (u.accWritten c o tile).tileAt c.core tile n =
    (u.overwrite c.core tile c.seed c.mask (u.accData c o tile)).getD n 0 := by
  rw [State.tileAt, accWritten_ring, tgetD_tset_self]

theorem accWritten_tileAt_of_ne {tile k : Nat} (hk : k ≠ tile) (n : Nat) :
    (u.accWritten c o tile).tileAt c.core k n = u.tileAt c.core k n := by
  rw [State.tileAt, accWritten_ring, tgetD_tset_of_ne _ _ _ hk, State.tileAt]

theorem overwrite_none_taken {core tile seed : Nat} {mask : W64} {data : List W32} (h : u.tileOps core tile true = []) :
    u.overwrite core tile seed mask data = data := by
  rw [State.overwrite, h, List.foldl_nil]

/-! ## EPI (R438) -/

theorem execEpi_starts {kind : OpKind} (h : Issues 0xEF o memTiming s c) (hroom : s.opsFull c.g.uid 4 = false)
    (hqueue : (s.core c.core).matrix.epi.length < 4)
    (hcheck : c.check true [⟨o.a, !(o.fn == 1#5), [], .zext⟩, raw32 o.b, raw32 o.c] 120#7 false = .ok ()) (hmask : c.mask ≠ 0)
    (hop : epiOp o s c = .ok kind) (hring : s.ringCheck c = .go u) : execEpi o s =
      .next { ((u.startEpi c (o.fn == 1#5) kind).afterIssue c o (c.beats false) (c.advance 0xEF o c.g)) with uni := false } := by
  refine runState_issued h ?_
  simp only [hroom, Nat.not_le.2 hqueue, hcheck, beq_eq_false_iff_ne.2 hmask, hop, ringDo_go hring, decide_false, Bool.and_false,
    Bool.false_eq_true, if_false, bind, Except.bind]

end

/-! ## The statement -/

/-- Settles O32: each instruction by what it does once its checks pass. -/
theorem matrixInstructionsComplete : Obligations.MatrixInstructionsComplete := by
  unfold Obligations.MatrixInstructionsComplete
  refine ⟨?mma, ?accnext, ?accrd, ?accwr, ?epi, fun s core tile seed n => tileElem_complete seed n, fun s c => ringCheck_owner⟩
  case mma =>
    intro con op scr hcon o s c kind u h hroom hepi hcheck
    have hexec : exec (con o) s = mmaInstr op scr o s := by
      simp only [List.mem_cons, List.not_mem_nil, or_false, Prod.mk.injEq] at hcon
      rcases hcon with ⟨rfl, rfl, rfl⟩ | ⟨rfl, rfl, rfl⟩ <;> rfl
    rw [hexec]
    exact ⟨fun hmask => ⟨_, mmaInstr_noLane h hcheck hmask, afterIssue_frame .., afterIssue_group ..⟩,
      fun hmask hstart hring => ⟨_, mmaInstr_starts h hroom hepi hcheck hmask hstart hring, rfl⟩⟩
  case accnext => exact fun o s c u h hroom hepi hcheck hmask htile hring =>
    ⟨_, _, execAccnext_starts h hroom hepi hcheck hmask htile hring, rfl, rfl⟩
  case accrd => exact fun o s c u h hcheck hfits hmask htile hring hquiet =>
    ⟨_, _, execAccrd_reads h hcheck hfits hmask htile hring, rfl, fun r l => accRead_row hquiet,
      fun n hn => (writeRows_outside hquiet hn).1⟩
  case accwr =>
    intro o s c u h hepi hcheck hmask htile hring tile data
    refine ⟨_, execAccwr_writes h hepi hcheck hmask htile hring, afterIssue_group .., afterIssue_mem .., fun n => ?_, overwrite_none_taken,
      fun k n hk => ?_⟩
    · exact (afterIssue_tileAt ..).trans (accWritten_tileAt_self ..)
    · exact (afterIssue_tileAt ..).trans (accWritten_tileAt_of_ne hk n)
  case epi => exact fun o s c kind u h hroom hqueue hcheck hmask hop hring =>
    ⟨_, execEpi_starts h hroom hqueue hcheck hmask hop hring, rfl⟩

end Sys2Proof.Machine

/-! Walks, fills of the instruction caches, invalidations, the device fault table and the host's answers (R55, R56, R71, R72, R209, R269 to
R277). -/
namespace Sys2Proof.Machine

/-! ## Page walks (R269 to R273) -/

section
variable {s : State} {p : WalkStep} {id : Nat} {w : Walk}
  (hwalk : (s.giveWalkers.walks.find? fun e => e.2.chiplet == p.chiplet && e.2.walker == some p.walker) = some (id, w))
include hwalk

theorem execPageWalk_begins (hmsg : s.giveWalkers.walkMsg id = none) : execPageWalk p s = .next (s.giveWalkers.runWalk id w) := by
  simp only [execPageWalk, hwalk, hmsg]

theorem execPageWalk_atHome {k n a : Nat} {m : Msg} (hmsg : s.giveWalkers.walkMsg id = some (k, m)) (hstage : m.stage = .arrived)
    (hkind : m.kind = .walk n a) : execPageWalk p s =
      .next (s.giveWalkers.attempt (s.giveWalkers.walkPayer w) fun v => v.serveWalk k m p.chiplet id a) := by
  simp only [execPageWalk, hwalk, hmsg, hstage, hkind, bne_self_eq_false, Bool.false_eq_true, if_false]

theorem execPageWalk_answered {k n a pte : Nat} {m : Msg} (hmsg : s.giveWalkers.walkMsg id = some (k, m)) (hstage : m.stage = .arrived)
    (hkind : m.kind = .walkData n a pte) :
    let x : Walk := { w with seen := w.seen ++ [(a, pte)] }
    execPageWalk p s =
      .next (({ s.giveWalkers.dropMsg k with walks := tset s.giveWalkers.walks id x } : State).runWalk id x) := by
  simp only [execPageWalk, hwalk, hmsg, hstage, hkind, bne_self_eq_false, Bool.false_eq_true, if_false]

end

section
variable {s : State} {id l va : Nat} {w : Walk} (hvas : w.vas = [(l, va)])
include hvas

/-- A walk of one address goes as far as its table entries are held. -/
theorem runWalk_single : s.runWalk id w = match (s.walkSeen w.chiplet w.ctx va (some w.seen)).2 with
    | .error a => (s.walkSeen w.chiplet w.ctx va (some w.seen)).1.sendBase (.walk id a) (walkerSlice w.chiplet)
        ((s.walkSeen w.chiplet w.ctx va (some w.seen)).1.homeOf a)
    | .ok r => (s.walkSeen w.chiplet w.ctx va (some w.seen)).1.endWalk id w [(l, va, r)] := by
  simp only [State.runWalk, hvas, List.foldl_cons, List.foldl_nil]
  rcases s.walkSeen w.chiplet w.ctx va (some w.seen) with ⟨u, r | r⟩ <;> rfl

theorem runWalk_lacks {a : Nat} (h : (s.walkSeen w.chiplet w.ctx va (some w.seen)).2 = .error a) : s.runWalk id w =
    (s.walkSeen w.chiplet w.ctx va (some w.seen)).1.sendBase (.walk id a) (walkerSlice w.chiplet)
      ((s.walkSeen w.chiplet w.ctx va (some w.seen)).1.homeOf a) := by
  rw [runWalk_single hvas, h]

theorem runWalk_ends {r : WalkResult} (h : (s.walkSeen w.chiplet w.ctx va (some w.seen)).2 = .ok r) : s.runWalk id w =
    (s.walkSeen w.chiplet w.ctx va (some w.seen)).1.endWalk id w [(l, va, r)] := by
  rw [runWalk_single hvas, h]

end

section
variable {s : State} {id key entry l va : Nat} {w : Walk} {g : Group} {f : Frag} (hfrag : w.frag = some (key, entry))
  (hwaits : ({ s with walks := tdel s.walks id } : State).giveWalkers.walker? key entry = some (g, f))
include hfrag hwaits

theorem endWalk_leaf (e : TlbEntry) (pte : Nat) : s.endWalk id w [(l, va, .leaf e pte)] =
    (({ s with walks := tdel s.walks id } : State).giveWalkers.takeLeaf w.core va w.write e pte).setWait (key / 128) (key % 128)
      entry .none := by
  have hfault : (WalkResult.leaf e pte == .fault) = false := rfl
  have hmalformed : (WalkResult.leaf e pte == .malformed) = false := rfl
  simp only [State.endWalk, hfrag, hwaits, List.find?_cons, List.find?_nil, hfault, hmalformed, List.foldl_cons, List.foldl_nil]

theorem endWalk_fault : s.endWalk id w [(l, va, .fault)] =
    ({ s with walks := tdel s.walks id } : State).giveWalkers.pageFault w l va := by
  simp only [State.endWalk, hfrag, hwaits, List.find?_cons, beq_self_eq_true]

end

/-! ## Instruction fetch (R209) -/

theorem execIcacheFill_misses {s : State} {core slot entry a : Nat} {g : Group} {f : Frag} (hfrag : s.frag? core slot entry = some (g, f))
    (hover : g.waitOver f.wait s.time = true) (hgoes : f.stopped = false)
    (hmiss : (s.core core).fetch (s.teamOf g).ctx f.pc.toNat = .missing a) :
    execIcacheFill core slot entry s = .next (s.attempt (some (s.teamOf g).grid) fun u => u.fillLine core slot entry g f a) := by
  simp only [execIcacheFill, hfrag, hover, hgoes, hmiss, Bool.not_true, Bool.or_self, Bool.false_eq_true, if_false]

/-- The fill of a line is charged where it comes from a home slice (R114). -/
def State.chargeFill (s : State) (grid : Nat) : Loc → State
  | .dev _ => s.charge grid 2 256
  | _ => s

theorem fillLine_translated {s : State} {core slot entry a l x : Nat} {g : Group} {f : Frag} {e : TlbEntry} (ha : a < 2 ^ 52)
    (htranslate : s.translate core (s.teamOf g).ctx (slotKey core slot) entry [(255, a)] false true = .ok (.lanes [(l, x, e)]))
    (hgood : ∀ pa, e.loc a = .dev pa → s.badRange (pa / 256 * 256) 256 = false) :
    let u := ((s.touchPages core (s.teamOf g).ctx [(l, x, e)]).chargeFill (s.teamOf g).grid (e.loc a)).fetchLine e a
    s.fillLine core slot entry g f a = u.1.setCore core { u.1.core core with icache := (icacheAdd (u.1.core core).icache
      { ctx := (s.teamOf g).ctx, vline := a / 256, words := u.2, filled := u.1.time, used := u.1.time }) } := by
  simp only [State.fillLine, Nat.not_le.mpr ha, if_false, htranslate]
  cases hloc : e.loc a with
  | dev pa => simp only [hgood pa hloc, Bool.false_eq_true, if_false]; rfl
  | host _ => rfl
  | peer _ _ => rfl

/-! ## Invalidations (R56, R276) -/

/-- The translations of a context that a TINVCTL write with GO removes (R276): all of them, or those of its range. -/
def Context.invalidates (c : Context) (ctx : Nat) (e : TlbEntry) : Bool :=
  e.ctx == ctx && (c.tinvn.toNat == 0 || e.overlaps (fld c.tinvva.toNat 51 12) c.tinvn.toNat)

theorem Context.kept_outside {c : Context} {ctx : Nat} {e : TlbEntry} (h : c.invalidates ctx e = false) (hctx : e.ctx = ctx) :
    c.tinvn ≠ 0 ∧ e.overlaps (fld c.tinvva.toNat 51 12) c.tinvn.toNat = false := by
  simp only [Context.invalidates, hctx, beq_self_eq_true, Bool.true_and, Bool.or_eq_false_iff, beq_eq_false_iff_ne] at h
  exact ⟨fun h0 => h.1 (congrArg BitVec.toNat h0), h.2⟩

/-- The state after an invalidation has begun. -/
def State.invalidating (s : State) (ctx : Nat) : State :=
  let c := s.ctxAt ctx
  ({ s.tlbRemove (c.invalidates ctx) with
      walkCache := tmap s.walkCache fun _ l => l.filter fun e => e.ctx != ctx
      host := { s.host with atc := s.host.atc.filter fun e => !c.invalidates ctx e } } : State).setCtx ctx
    { c with tinvDone := false, tinvPending := s.accessesIn ctx }

theorem execTlbInvalidate_go {s : State} {func ctx : Nat} {v : W32} (hopen : s.bar0Open = true) (htouch : s.mayTouch func ctx = true)
    (hgo : v.getLsbD 31 = true) (hdone : (s.ctxAt ctx).tinvDone = true) :
    execTlbInvalidate func ctx v s = .next (s.invalidating ctx) := by
  simp only [execTlbInvalidate, hopen, htouch, hgo, hdone, Bool.not_true, Bool.or_self, Bool.false_eq_true, if_false]
  rfl

theorem invalidating_tlb {s : State} {ctx n : Nat} {k : Core} (h : tget? (s.invalidating ctx).cores n = some k) :
    ∀ e ∈ k.tlb, (s.ctxAt ctx).invalidates ctx e = false := tlbRemove_core_tlb h

theorem invalidating_atc {s : State} {ctx : Nat} : ∀ e ∈ (s.invalidating ctx).host.atc, (s.ctxAt ctx).invalidates ctx e = false :=
  fun e he => by simpa using (List.mem_filter.1 he).2

theorem execTlbInvalidateDone_over {s : State} {ctx : Nat} (hrun : (s.ctxAt ctx).tinvDone = false)
    (hover : ∀ a ∈ (s.ctxAt ctx).tinvPending, s.stillOpen a = false) :
    execTlbInvalidateDone ctx s = .next (s.setCtx ctx { s.ctxAt ctx with tinvDone := true, tinvPending := [] }) := by
  have hnone : (s.ctxAt ctx).tinvPending.any s.stillOpen = false := by simpa [List.any_eq_false] using hover
  simp only [execTlbInvalidateDone, hrun, hnone, Bool.or_self, Bool.false_eq_true, if_false]

/-- The translations that an invalidation of the host's removes (R56). -/
def State.atsGone (s : State) (func : Nat) (pasid : BitVec 20) (page pages : Nat) (e : TlbEntry) : Bool :=
  e.ats && (s.atsContexts func pasid).contains e.ctx && e.overlaps page pages

theorem atsGone_outside {s : State} {func page pages : Nat} {pasid : BitVec 20} {e : TlbEntry}
    (h : s.atsGone func pasid page pages e = false) (hats : e.ats = true) (hctx : e.ctx ∈ s.atsContexts func pasid) :
    e.overlaps page pages = false := by
  simpa [State.atsGone, hats, hctx] using h

/-- The state after an invalidation of the host's has come, which waits for the accesses of its contexts. -/
def State.atsInvalidating (s : State) (func : Nat) (pasid : BitVec 20) (va : W64) (pages : Nat) : State :=
  let gone := s.atsGone func pasid (va.toNat / 4096) pages
  { s.tlbRemove gone with host := { s.host with
      atc := s.host.atc.filter fun e => !gone e
      invals := s.host.invals ++ [{ func := func, pasid := pasid, va := va, pages := pages, since := s.time
                                    pending := (s.atsContexts func pasid).flatMap s.accessesIn }] } }

theorem execAtsInvalidation_eq (s : State) (func : Nat) (pasid : BitVec 20) (va : W64) (pages : Nat) :
    execAtsInvalidation func pasid va pages s = .next (s.atsInvalidating func pasid va pages) := rfl

theorem atsInvalidating_tlb {s : State} {func pages n : Nat} {pasid : BitVec 20} {va : W64} {k : Core}
    (h : tget? (s.atsInvalidating func pasid va pages).cores n = some k) :
    ∀ e ∈ k.tlb, s.atsGone func pasid (va.toNat / 4096) pages e = false := tlbRemove_core_tlb h

theorem atsInvalidating_atc {s : State} {func pages : Nat} {pasid : BitVec 20} {va : W64} :
    ∀ e ∈ (s.atsInvalidating func pasid va pages).host.atc, s.atsGone func pasid (va.toNat / 4096) pages e = false :=
  fun e he => by simpa using (List.mem_filter.1 he).2

theorem execAtsInvalidationCompletion_over {s : State} {x : AtsInval} (h : s.host.invals.find? s.invalOver = some x) :
    execAtsInvalidationCompletion s = .next { s with host := { s.host with
      invals := s.host.invals.eraseP (fun y => y == x), sent := s.host.sent ++ [.invalDone x.func] } } := by
  simp only [execAtsInvalidationCompletion, h]

/-! ## The device fault table (R274) -/

section
variable {s : State} {func ctx : Nat} {v : W32} {d : DftEntry} (hopen : s.bar0Open = true) (htouch : s.mayTouch func ctx = true)
  (hgo : v.getLsbD 31 = true) (hd : tget? s.dft (v.extractLsb' 0 8).toNat = some d) (hctx : d.ctx = ctx)
include hopen htouch hgo hd hctx

theorem execDfrespServiced_entry (hfail : v.getLsbD 16 = false) :
    execDfrespServiced func ctx v s = .next (s.dftServiced (v.extractLsb' 0 8).toNat d) := by
  simp only [execDfrespServiced, State.dfresp, hopen, htouch, hgo, hd, hctx, hfail, bne_self_eq_false, Bool.not_true, Bool.or_self,
    Bool.false_eq_true, if_false]

theorem execDfrespRefused_entry (hfail : v.getLsbD 16 = true) :
    execDfrespRefused func ctx v s = .next (s.dftRefused (v.extractLsb' 0 8).toNat d) := by
  simp only [execDfrespRefused, State.dfresp, hopen, htouch, hgo, hd, hctx, hfail, bne_self_eq_false, Bool.not_true, Bool.or_self,
    Bool.false_eq_true, if_false, if_true]

end

/-- What waiters that issue again keep: the fault table, the faults that wait for it, and memory. -/
def State.faultTables (s : State) : Tbl DftEntry × List Walk × List Host.Cell := (s.dft, s.dftWait, s.mem)

theorem setWait_faultTables (s : State) (core slot entry : Nat) (w : Wait) : (s.setWait core slot entry w).faultTables = s.faultTables := by
  simp only [State.setWait]
  split <;> rfl

theorem retryWaiters_faultTables (s : State) (frags : List (Nat × Nat)) (ops : List Nat) (mine : Wait) :
    (s.retryWaiters frags ops mine).faultTables = s.faultTables := by
  unfold State.retryWaiters
  refine (foldl_keeps State.faultTables ?ops ops _).trans (foldl_keeps State.faultTables ?frags frags s)
  case ops => exact fun _ _ => rfl
  intro s x
  dsimp only
  split
  · split
    · exact setWait_faultTables ..
    · rfl
  · rfl

theorem serveDft_idle {s : State} (h : s.dftWait = []) : s.serveDft = s := by
  have hsame : ({ s with dftWait := [] } : State) = s := by rw [← h]
  simp only [State.serveDft, h, List.foldl_nil, hsame]

/-- An entry that is serviced with no fault waiting for one is free, and its waiters' retry stores nothing. -/
theorem dftServiced_frees {s : State} {e : Nat} {d : DftEntry} (h : s.dftWait = []) :
    tget? (s.dftServiced e d).dft e = none ∧ (s.dftServiced e d).mem = s.mem := by
  have hkept := retryWaiters_faultTables { s with dft := tdel s.dft e } d.waiters d.ops (.dft e)
  obtain ⟨hdft, hwait, hmem⟩ := (Prod.mk.inj hkept).imp_right Prod.mk.inj
  rw [State.dftServiced, serveDft_idle (hwait.trans h), hdft, hmem]
  exact ⟨tget?_tdel_self .., rfl⟩

theorem pritoOver_of_passed {s : State} {since : Nat} (hon : s.host.prito ≠ 0) (hpast : since + s.host.prito * 1000 * usec ≤ s.time) :
    s.pritoOver since = true := by
  simp [State.pritoOver, hon, hpast]

theorem execDftTimeout_over {s : State} {e : Nat} {d : DftEntry} (hd : tget? s.dft e = some d) (hon : s.host.prito ≠ 0)
    (hpast : d.since + s.host.prito * 1000 * usec ≤ s.time) : execDftTimeout e s = .next (s.dftRefused e d) := by
  simp only [execDftTimeout, hd, pritoOver_of_passed hon hpast, if_true]

/-! ## The host's translations and page responses (R55, R71, R72, R277) -/

section
variable {s : State} {i lane va pa : Nat} {w x : Bool} {k : Walk} {rest : List (Nat × Nat)} (hk : tget? s.hostPump.walks i = some k)
  (hats : k.ats = true) (hasked : s.hostPump.asked (.walk i) = true) (hvas : k.vas = (lane, va) :: rest)
include hk hats hasked hvas

theorem execAtsTranslationCompletion_allowed {f : Nat × Nat} (hfrag : k.frag = some f) (hwrite : k.write = true → w = true)
    (hfetch : k.fetch = true → x = true) :
    let u := s.hostPump
    let e := atsEntry k.ctx va pa w x u.time
    execAtsTranslationCompletion i true w x pa s =
      .next (((({ u with walks := tdel u.walks i } : State).tlbFill k.core e).atcFill e).retryWaiters [f] [] .walk) := by
  have hallowed : (true && (!k.write || w) && (!k.fetch || x)) = true := by
    cases hw : k.write <;> cases hx : k.fetch <;> simp_all
  simp only [execAtsTranslationCompletion, hk, hats, hasked, hvas, hfrag, hallowed, Bool.not_true, Bool.or_self, Bool.false_eq_true,
    if_false, if_true]

theorem execAtsTranslationCompletion_refused : execAtsTranslationCompletion i false w x pa s =
    .next (({ s.hostPump with walks := tdel s.hostPump.walks i } : State).hostFault k lane va) := by
  simp only [execAtsTranslationCompletion, hk, hats, hasked, hvas, Bool.not_true, Bool.or_self, Bool.false_and, Bool.false_eq_true, if_false]

end

section
variable {s : State} {e : Nat} {t : TagEntry} (ht : tget? s.host.tags e = some t)
include ht

theorem execPrgResponse_success : execPrgResponse e .success s =
    .next (({ s with host := { s.host with tags := tdel s.host.tags e } } : State).retryWaiters t.waiters t.ops (.tag e)).serveTags := by
  simp only [execPrgResponse, ht]

theorem execPrgResponse_invalidRequest : execPrgResponse e .invalidRequest s =
    .next (({ s with host := { s.host with tags := tdel s.host.tags e } } : State).tagFailed e t).serveTags := by
  simp only [execPrgResponse, ht]

/-- A Response Failure stops the page requests of the entry's function (R72). -/
theorem execPrgResponse_responseFailure : ∃ v : State, execPrgResponse e .responseFailure s = .next (v.tagFailed e t).serveTags ∧
    (s.ctxAt t.ctx).func ∈ v.host.priStopped ∧ v.host.tags = tdel s.host.tags e ∧ v.groups = s.groups := by
  simp only [execPrgResponse, ht]
  refine ⟨_, rfl, ?_, rfl, rfl⟩
  show (s.ctxAt t.ctx).func ∈ if s.host.priStopped.contains (s.ctxAt t.ctx).func = true then _ else _
  split
  · next h => exact List.contains_iff_mem.1 h
  · exact List.mem_append_right _ (List.mem_singleton.2 rfl)

theorem execPriTimeout_over (hon : s.host.prito ≠ 0) (hpast : t.sent + s.host.prito * 1000 * usec ≤ s.time) : execPriTimeout e s =
    .next (({ s with host := { s.host with tags := tdel s.host.tags e } } : State).tagFailed e t).serveTags := by
  simp only [execPriTimeout, ht, pritoOver_of_passed hon hpast, if_true]

end

theorem serveTags_idle {s : State} (h : s.host.tagWait = []) : s.serveTags = s := by
  have hsame : ({ s with host := { s.host with tagWait := [] } } : State) = s := by rw [← h]
  simp only [State.serveTags, h, List.foldl_nil, hsame]

theorem execPriStoppedClear_idle {s : State} {func : Nat} (h : s.host.tagWait = []) : execPriStoppedClear func s =
    .next { s with host := { s.host with priStopped := s.host.priStopped.filter fun f => f != func } } :=
  congrArg Host.Outcome.next (serveTags_idle h)

/-! ## The statement -/

/-- Settles O53: each event by the rule for the case that its hypotheses name. -/
theorem translationsProceed : Obligations.TranslationsProceed := by
  unfold Obligations.TranslationsProceed
  refine ⟨?walk, fun s id l va w hvas => ⟨fun a => runWalk_lacks hvas, fun r => runWalk_ends hvas⟩, fun _ _ _ _ _ _ => rfl, ?ends,
    fun s core slot entry a g f => execIcacheFill_misses, ?fill, ?invalidate, ?held, fun s ctx => execTlbInvalidateDone_over, ?dfresp,
    fun s e d => dftServiced_frees, fun s e d => execDftTimeout_over,
    fun s i lane va w x pa k rest f hk hats hasked hvas => execAtsTranslationCompletion_allowed hk hats hasked hvas,
    fun s i lane va w x pa k rest => execAtsTranslationCompletion_refused, ?ats, ?done, ?response, ?cleared⟩
  case walk => exact fun s p id w hwalk => ⟨execPageWalk_begins hwalk, fun k m n a => execPageWalk_atHome hwalk,
    fun k m n a pte => execPageWalk_answered hwalk⟩
  case ends =>
    intro s id key entry l va w r g f hfrag u hwaits
    exact ⟨fun e pte hr => hr ▸ endWalk_leaf hfrag hwaits e pte, fun hr => hr ▸ endWalk_fault hfrag hwaits⟩
  case fill =>
    intro s core slot entry a l x g f e ha htranslate hgood
    have hfill := fillLine_translated (f := f) ha htranslate hgood
    cases hloc : e.loc a <;> rw [hloc] at hfill <;> exact hfill
  case invalidate =>
    intro s func ctx v hopen htouch hgo hdone
    refine ⟨_, execTlbInvalidate_go hopen htouch hgo hdone, rfl, rfl, ?_, ?_,
      fun n k hk e he => Context.kept_outside (invalidating_tlb hk e he)⟩
    · exact congrArg Context.tinvDone (setCtx_ctxAt_self ..)
    · exact congrArg Context.tinvPending (setCtx_ctxAt_self ..)
  case held =>
    intro s t func ctx v hopen htouch hgo hdone hexec e he
    obtain rfl := Host.Outcome.next.inj ((execTlbInvalidate_go hopen htouch hgo hdone).symm.trans hexec)
    exact Context.kept_outside (invalidating_atc e he)
  case dfresp => exact fun s func ctx v d hopen htouch hgo hd hctx =>
    ⟨execDfrespServiced_entry hopen htouch hgo hd hctx, execDfrespRefused_entry hopen htouch hgo hd hctx⟩
  case ats =>
    intro s func pages pasid va
    exact ⟨_, execAtsInvalidation_eq .., rfl, rfl, fun n k hk e he => atsGone_outside (atsInvalidating_tlb hk e he),
      fun e he => atsGone_outside (atsInvalidating_atc e he), _, rfl, rfl, rfl, rfl, rfl⟩
  case done => exact fun s x h => ⟨_, execAtsInvalidationCompletion_over h, rfl, rfl, rfl⟩
  case response => exact fun s e t ht => ⟨execPrgResponse_success ht, execPrgResponse_invalidRequest ht, execPrgResponse_responseFailure ht,
    execPriTimeout_over ht⟩
  case cleared =>
    intro s func h
    refine ⟨_, execPriStoppedClear_idle h, rfl, ?_, fun f hf => ?_⟩
    · simp
    · simp [hf]

end Sys2Proof.Machine

/-! Fence notices, elevator ports, the Avenue's tokens and the pin table (R17, R146 to R155, R248). -/
namespace Sys2Proof.Machine

/-! ## Fence notices (R248) -/

section
variable {s : State} {team : Nat}

/-- The team is told: its grid no longer lists it. -/
def State.told (s : State) (team : Nat) : State :=
  let grid := s.gridAt (s.teamAt team).grid
  s.setGrid (s.teamAt team).grid { grid with notices := grid.notices.filter fun j => j != team }

theorem execChipletFenceNotice_boundary {k : Nat} {x : Group} (hlisted : team ∈ (s.gridAt (s.teamAt team).grid).notices)
    (hstate : (s.teamAt team).state = .resident ∨ (s.teamAt team).state = .parkEligible) (hgroups : s.teamGroups team = [k])
    (hx : tget? s.groups k = some x) (hboundary : x.atBoundary s.time = true) :
    execChipletFenceNotice team s = .next ((s.told team).boundaryTrap (k / 128) (k % 128) 0x22) := by
  have hcontains : (s.gridAt (s.teamAt team).grid).notices.contains team = true := List.contains_iff_mem.2 hlisted
  have hruns : ((s.teamAt team).state.over || (s.teamAt team).state == .committing) = false ∧
      ((s.teamAt team).state != .resident && (s.teamAt team).state != .parkEligible) = false := by
    rcases hstate with h | h <;> rw [h] <;> exact ⟨rfl, rfl⟩
  simp only [execChipletFenceNotice, hcontains, hruns.1, hruns.2, hgroups, List.mergeSort_singleton, hx, hboundary, Bool.not_true,
    Bool.false_eq_true, if_false, if_true]
  rfl

/-- A team that is saved takes the notice after its return. -/
theorem execChipletFenceNotice_saved (hover : (s.teamAt team).state.over = false) (hcommitting : (s.teamAt team).state ≠ .committing)
    (hresident : (s.teamAt team).state ≠ .resident) (hpark : (s.teamAt team).state ≠ .parkEligible) :
    execChipletFenceNotice team s = .next s := by
  simp only [execChipletFenceNotice]
  split
  · rfl
  · simp [hover, hcommitting, hresident, hpark]

end

/-! ## Packets on elevator ports (R17, R150, R151) -/

/-- A port that shows an uncorrectable fault while it drains carries no more packets: its flows are sent again by the other one. -/
def State.stopDrain (s : State) (port : Nat) : State :=
  if (tget? s.power.drains port).isNone then s
  else { s with power := { s.power with drains := tdel s.power.drains port
                                        reissues := tset s.power.reissues port (tgetD s.power.drains port []) } }

section
variable {s : State} {m : Nat} {x : Msg}

theorem execElevatorPacket_crosses (hx : tget? s.msgs m = some x) (hport : s.atPort x = true) (hfirst : s.flowBlocked m x = false)
    (hheld : s.flowHeld x = false)
    (hroom : x.toSlice = true → x.avenue = false → s.meshRoom (s.portOf x) x.kind.meshClass = true) :
    execElevatorPacket m .clean s = .next ((s.numberPacket m).crossPort m (s.portOf x)) ∧
    execElevatorPacket m .correctable s = .next (((s.numberPacket m).crossPort m (s.portOf x)).correctable (s.portOf x)) ∧
    execElevatorPacket m .uncorrectable s = .next (((s.numberPacket m).stopDrain (s.portOf x)).failElevator (s.portOf x) false) := by
  have hmesh : (x.toSlice && !x.avenue && !s.meshRoom (s.portOf x) x.kind.meshClass) = false := by
    cases hs : x.toSlice <;> cases ha : x.avenue <;> simp_all
  simp only [execElevatorPacket, hx, hport, hfirst, hheld, hmesh, Bool.not_true, Bool.or_self, Bool.false_eq_true, if_false,
    State.stopDrain, true_and]

theorem execElevatorPacket_held {check : PortCheck} (hx : tget? s.msgs m = some x) (hheld : s.flowHeld x = true) :
    execElevatorPacket m check s = .next s := by
  simp only [execElevatorPacket, hx, hheld, Bool.or_true, Bool.true_or, if_true]

theorem portOf_up (h : s.elevatorState x.port = 0) : s.portOf x = x.port := by
  simp [State.portOf, h]

theorem portOf_drains {l : List Nat} (hl : tget? s.power.drains x.port = some l) (hx : x.flow ∈ l) : s.portOf x = x.port := by
  simp [State.portOf, tgetD, hl, hx]

/-- What is no remote store goes on where its direction says (R143, R144). -/
theorem landed_of_ne_stx {port : Nat} (hkind : ∀ acc, x.kind ≠ .stx acc) : s.landed x port = { x with
    stage := if x.toSlice = true then (if x.avenue = true then .fifo else .mesh port 5 s.nextEdge) else .arrived, came := s.time } := by
  unfold State.landed
  split
  · next acc hacc _ => exact absurd hacc (hkind acc)
  · next hup _ => simp only [hup, if_true]
  · next hdown => simp only [hdown, Bool.false_eq_true, if_false]

theorem crossPort_again {port : Nat} (hx : tget? s.msgs m = some x) (h : s.accepted x = true) : s.crossPort m port = s.dropMsg m := by
  simp only [State.crossPort, hx, h, if_true]

theorem crossPort_accepts {port : Nat} (hx : tget? s.msgs m = some x) (hdata : ∀ acc l n, x.kind ≠ .data acc l n)
    (h : s.accepted x = false) : (s.crossPort m port).msgs =
      tset s.msgs m (({ s with flows := tset s.flows x.flow ((tgetD s.flows x.flow (0, 0)).1, x.seq.getD 0 + 1) } : State).landed x port) := by
  simp only [State.crossPort, hx, h, Bool.false_eq_true, if_false]

theorem crossPort_lands {port : Nat} (hx : tget? s.msgs m = some x) (hdata : ∀ acc l n, x.kind ≠ .data acc l n)
    (hstx : ∀ acc, x.kind ≠ .stx acc) (h : s.accepted x = false) : tget? (s.crossPort m port).msgs m = some { x with
      stage := if x.toSlice = true then (if x.avenue = true then .fifo else .mesh port 5 s.nextEdge) else .arrived, came := s.time } := by
  rw [crossPort_accepts hx hdata h, landed_of_ne_stx hstx]
  exact tget?_tset_self ..

/-- A port is Retired once no packet stands at it. -/
theorem execElevatorRetireComplete_empty {p : Nat} (hretiring : s.elevatorState p = 1)
    (hempty : ∀ e ∈ s.msgs, e.2.port = p → e.2.stage ≠ .port) : execElevatorRetireComplete p s = .next { s with power := { s.power with
      portState := tset s.power.portState p 2, drains := tdel s.power.drains p, reissues := tdel s.power.reissues p } } := by
  have hnone : (s.msgs.any fun e => e.2.port == p && e.2.stage == .port) = false := by
    simpa [List.any_eq_false] using fun k y hy hp => hempty (k, y) hy hp
  simp only [execElevatorRetireComplete, hretiring, hnone, beq_self_eq_true, Bool.not_false, Bool.and_self, if_true]

end

/-- The chiplet of a cut-off cluster is reset while no group is resident on it. -/
theorem execCutOffChipletReset_cut {s : State} {n i : Nat} {check : ChipletCheck} (hi : i < 6)
    (hcut : s.power.cutOff.getLsbD (6 * n + i) = true) (hbase : s.power.baseUp = true) (hidle : s.chipletBusy n = false)
    (hfence : s.power.fenced.getLsbD n = false) : execCutOffChipletReset ⟨n, check⟩ s = .next (s.rejoin n check) := by
  have hany : ((List.range 6).any fun i => s.power.cutOff.getLsbD (6 * n + i)) = true :=
    List.any_eq_true.2 ⟨i, List.mem_range.2 hi, hcut⟩
  simp only [execCutOffChipletReset, hany, hbase, hidle, hfence, Bool.not_true, Bool.or_self, Bool.false_eq_true, if_false]

/-! ## The Avenue (R147) -/

/-- The bytes of a grant's messages are charged to the grids of their teams (R114). -/
def State.chargeGrant (s : State) (ids : List Nat) : State :=
  ids.foldl (fun s id => match (tget? s.msgs id).map s.dataOf with
    | some (some g, n) => s.charge g 2 n
    | _ => s) s

theorem chargeGrant_eq (s : State) (ids : List Nat) : ∃ accounts, s.chargeGrant ids = { s with accounts := accounts } := by
  refine foldl_accounts _ (fun s id => ?_) ids s
  split
  · exact charge_eq ..
  · exact ⟨s.accounts, rfl⟩

/-- A message that a grant takes goes on to its receiver, or to its elevator port. -/
def Msg.granted (x : Msg) (up : Bool) (now : Nat) : Msg := { x with stage := if up then .arrived else .port, came := now }

theorem execAvenueTokenGrant_taken {s : State} {up : Bool} {channel station due : Nat} (hlit : s.power.avenueLit = true)
    (hturn : s.tokenTurn up channel = some (station, due)) (hdue : due ≤ s.time) :
    let take := s.grantTake (s.fifoOf up channel station) 1024
    ∃ accounts, execAvenueTokenGrant up channel station s = .next { s with
      accounts := accounts
      avenue := tset s.avenue (channelNo up channel) ((station + 1) % stationsOf up, s.time + s.carryTime up take.2)
      msgs := tmap s.msgs fun k x => if take.1.contains k then x.granted up s.time else x } := by
  intro take
  obtain ⟨accounts, hcharge⟩ := chargeGrant_eq s take.1
  have hexec : execAvenueTokenGrant up channel station s = .next { s.chargeGrant take.1 with
      avenue := tset (s.chargeGrant take.1).avenue (channelNo up channel)
        ((station + 1) % stationsOf up, (s.chargeGrant take.1).time + (s.chargeGrant take.1).carryTime up take.2)
      msgs := tmap (s.chargeGrant take.1).msgs fun k x => if take.1.contains k then x.granted up (s.chargeGrant take.1).time else x } := by
    simp only [execAvenueTokenGrant, hturn, hlit, Nat.not_lt.2 hdue, bne_self_eq_false, Bool.not_true, Bool.or_self, decide_false,
      Bool.false_eq_true, if_false]
    rfl
  rw [hexec, hcharge]
  exact ⟨accounts, rfl⟩

/-! ## The pin table (R154, R155) -/

/-- The granules that a pin entry holds. -/
def PinEntry.ranges (p : PinEntry) : List (Nat × Nat) := if p.v && p.base ≤ p.limit then [(p.base, p.limit)] else []

/-- The state after a write of entry `k` of the pin table is taken: the lines of both its ranges are to move. -/
def State.pinWritten (s : State) (k : Nat) (new : PinEntry) : State :=
  { s with pins := tset s.pins k new, pinBusy := true, pinMove := (tgetD s.pins k {}).ranges ++ new.ranges }

section
variable {s : State} {k : Nat} {v : W64} (hopen : s.bar0Open = true) (hk : k < 64) (hgrids : s.grids = []) (hbusy : s.pinBusy = false)
include hopen hk hgrids hbusy

theorem execPinTableWrite_base : execPinTableWrite (0x520000 + 16 * k) 8 v s = .next (s.pinWritten k { tgetD s.pins k {} with
    v := v.toNat.testBit 63, chip := fld v.toNat 58 56, base := fld v.toNat 49 12 }) := by
  have hplace : ¬ (0x520000 + 16 * k < 0x520000) ∧ ¬ (64 ≤ k) ∧ (0x520000 + 16 * k) % 8 = 0 ∧ (0x520000 + 16 * k) % 16 = 0 := by omega
  obtain ⟨hlow, hhigh, hword, hhalf⟩ := hplace
  simp [execPinTableWrite, hopen, hgrids, hbusy, hlow, hhigh, hword, hhalf, State.pinWritten, PinEntry.ranges]

theorem execPinTableWrite_limit : execPinTableWrite (0x520008 + 16 * k) 8 v s = .next (s.pinWritten k { tgetD s.pins k {} with
    limit := fld v.toNat 49 12 }) := by
  have hindex : (0x520008 + 16 * k - 0x520000) / 16 = k := by omega
  have hplace : ¬ (0x520008 + 16 * k < 0x520000) ∧ ¬ (64 ≤ k) ∧ (0x520008 + 16 * k) % 8 = 0 ∧ (0x520008 + 16 * k) % 16 = 8 := by omega
  obtain ⟨hlow, hhigh, hword, hhalf⟩ := hplace
  simp [execPinTableWrite, hopen, hgrids, hbusy, hindex, hlow, hhigh, hword, hhalf, State.pinWritten, PinEntry.ranges]

end

/-- The state without the copies of the lines that a write of the pin table moves. -/
def State.pinMoved (s : State) : State :=
  { s with
    slices := tmap s.slices fun _ sl =>
      { sl with sectors := tfilter sl.sectors fun l _ => !s.moving l
                regions := tfilter sl.regions fun g _ => !s.moving (16 * g)
                lines := tfilter sl.lines fun l _ => !s.moving l }
    cores := tmap s.cores fun _ c => { c with l1 := c.l1.filter fun x => !s.moving x.line }
    pinBusy := false, pinMove := [] }

theorem execPinMoveDone_busy {s : State} (h : s.pinBusy = true) : execPinMoveDone s = .next s.pinMoved := by
  simp only [execPinMoveDone, h, Bool.not_true, Bool.false_eq_true, if_false]
  rfl

theorem pinMoved_sectors {s : State} {n : Nat} {sl : Slice} (h : tget? s.pinMoved.slices n = some sl) :
    ∀ e ∈ sl.sectors, s.moving e.1 = false := by
  rw [State.pinMoved, tget?_tmap, Option.map_eq_some_iff] at h
  obtain ⟨_, -, rfl⟩ := h
  exact fun e he => by simpa using (List.mem_filter.1 he).2

theorem pinMoved_l1 {s : State} {n : Nat} {c : Core} (h : tget? s.pinMoved.cores n = some c) : ∀ x ∈ c.l1, s.moving x.line = false := by
  rw [State.pinMoved, tget?_tmap, Option.map_eq_some_iff] at h
  obtain ⟨_, -, rfl⟩ := h
  exact fun x hx => by simpa using (List.mem_filter.1 hx).2

/-! ## The statement -/

/-- Settles O58: each event by the rule for the case that its hypotheses name. -/
theorem fabricProceeds : Obligations.FabricProceeds := by
  unfold Obligations.FabricProceeds
  refine ⟨fun s team k x => execChipletFenceNotice_boundary, fun s team => execChipletFenceNotice_saved,
    fun s m x => execElevatorPacket_crosses, fun s m x check => execElevatorPacket_held,
    fun s x => ⟨portOf_up, fun l => portOf_drains⟩, ?cross, ?retire, fun s n i check => execCutOffChipletReset_cut, ?grant, ?write, ?moved⟩
  case cross => exact fun s m port x hx hdata hstx => ⟨crossPort_again hx, crossPort_lands hx hdata hstx⟩
  case retire =>
    intro s p hretiring hempty
    refine ⟨_, execElevatorRetireComplete_empty hretiring hempty, rfl, ?_, fun k hk => ?_⟩
    · exact tgetD_tset_self ..
    · exact tgetD_tset_of_ne _ _ _ hk
  case grant =>
    intro s up channel station due hlit hturn hdue take
    obtain ⟨accounts, hexec⟩ := execAvenueTokenGrant_taken hlit hturn hdue
    refine ⟨_, hexec, rfl, tget?_tset_self .., fun k x hx => ?_⟩
    rw [tget?_tmap, hx]
    simp only [Option.map_some, List.contains_iff_mem]
    rfl
  case write => exact fun s k v hopen hk hgrids hbusy =>
    ⟨⟨_, execPinTableWrite_base hopen hk hgrids hbusy, rfl, rfl, tget?_tset_self ..⟩,
      ⟨_, execPinTableWrite_limit hopen hk hgrids hbusy, rfl, rfl, tget?_tset_self ..⟩⟩
  case moved => exact fun s hbusy => ⟨_, execPinMoveDone_busy hbusy, rfl, rfl, rfl, fun n sl => pinMoved_sectors, fun n c => pinMoved_l1⟩

end Sys2Proof.Machine

/-! The results and flags of the floating-point arithmetic (R289, R357 to R360, R363, R364). -/
namespace Sys2Proof.Machine

/-! ## A form whose body, past its checks, is the common course of an element-wise instruction -/

/-- A form without affine results delivers once its body comes to the common course: what that course writes in each lane is
`elementwise_delivers` (R203, R289, R309). -/
theorem ElementForm.holds_of_elementwise {x : ElementForm} {body : Operands → Ctx → Except Trap Effect}
    (hexec : ∀ o s, exec (x.con o) s = runAlu x.op o x.tm s (body o)) (haffine : ∀ c o, x.affine c o = none)
    (hbody : ∀ o c, x.allowed c o = true → c.check true (x.srcs c o) o.d (x.w64 c o) = .ok () →
      body o c = c.elementwise o (x.srcs c o) o.d (x.w64 c o) (x.fmt c o) (x.cnt c o) (x.affine c o) (x.uniformOk c o)
        (x.steps c o) (x.fn c o)) : x.Holds := by
  intro o s c hissue hallowed hcheck hquiet hexecQuiet htakes
  have hdst : c.quiet (dstRegs o.d (x.w64 c o)) := fun n hn => hquiet n (List.mem_append_right _ hn)
  rw [hexec]
  exact elementwise_delivers hissue _ _ _ _ _ _ _ _ _ (hbody o c hallowed hcheck) htakes hdst hexecQuiet fun _ _ h =>
    nomatch (haffine c o).symm.trans h

/-! ## Floating instructions -/

/-- A floating instruction whose checks pass runs the common course: each lane computes its elements below the count and the
OR of their flags, with NV for a signalling NaN literal where `lit` says so (R292, R302, R357). -/
theorem floating_checked {c : Ctx} {o : Operands} {xs : List Code} {extra : List Src} {modeOk : Bool} (rounds : Bool)
    (f : BinFmt → Nat → List Nat → Nat × Flags) (lit : Bool) (hmode : modeOk = true)
    (hcheck : c.check true (xs.map c.fSrc ++ extra) o.d (c.et == 7) = .ok ()) :
    c.floating o xs extra modeOk rounds f lit =
      c.elementwise o (xs.map c.fSrc ++ extra) o.d (c.et == 7) c.et (c.count c.et (xs.map c.fSrc)) none true
        (if rounds then c.srSteps (2 ^ c.count c.et (xs.map c.fSrc)) else 0) fun _ zs v =>
          let r := packed (elemWidth c.et) (2 ^ c.count c.et (xs.map c.fSrc)) zs fun z k =>
            f c.bfmt z ((v.take (xs.map c.fSrc).length).map (elemBits (elemWidth c.et) · k) ++ v.drop (xs.map c.fSrc).length)
          (r.1, if lit then r.2 ||| litFlag o (xs.map c.fSrc) else r.2) := by
  subst hmode
  unfold Ctx.floating
  dsimp only
  rw [hcheck]
  rfl

/-- A floating form holds of an instruction that runs `floating` with the form's element function in the format of the ET. -/
theorem floatForm_holds {con : Operands → Instr} {op : Nat} {tm : Ctx → Timing} {xs : Operands → List Code}
    {extra : Operands → List Src} {allowed : Ctx → Bool} {rounds lit : Bool} {f : Operands → Ctx → Nat → List Nat → Nat × Flags}
    {elem : Operands → Ctx → BinFmt → Nat → List Nat → Nat × Flags}
    (hexec : ∀ o s, exec (con o) s = runAlu op o tm s fun c => c.floating o (xs o) (extra o) (allowed c) rounds (elem o c) lit)
    (helem : ∀ o c z v, elem o c c.bfmt z v = f o c z v := by intros; rfl) : (floatForm con op tm xs extra allowed rounds f lit).Holds := by
  obtain rfl : f = fun o c z v => elem o c c.bfmt z v := by
    funext o c z v
    exact (helem o c z v).symm
  exact ElementForm.holds_of_elementwise hexec (fun _ _ => rfl) fun o c hallowed hcheck =>
    floating_checked rounds (elem o c) lit hallowed hcheck

/-! ## The statement -/

/-- Settles O7: each of the ten runs `floating` with the element function of its entry. -/
theorem floatArithmeticDelivers : Obligations.FloatArithmeticDelivers := by
  unfold Obligations.FloatArithmeticDelivers
  simp only [floatForms, List.forall_mem_cons, List.not_mem_nil, IsEmpty.forall_iff, implies_true, and_true]
  exact ⟨floatForm_holds fun o s => (rfl : execFadd o s = _), floatForm_holds fun o s => (rfl : execFsub o s = _),
    floatForm_holds fun o s => (rfl : execFmul o s = _), floatForm_holds fun o s => (rfl : execFma o s = _),
    floatForm_holds fun o s => (rfl : execFmin o s = _), floatForm_holds fun o s => (rfl : execFmax o s = _),
    floatForm_holds fun o s => (rfl : execFneg o s = _), floatForm_holds fun o s => (rfl : execFabs o s = _),
    floatForm_holds fun o s => (rfl : execFrnd o s = _), floatForm_holds fun o s => (rfl : execFscale o s = _)⟩

end Sys2Proof.Machine

/-! The decoder reads back what the encoder writes (R297, R298, R301, R302), and what it refuses (R303, R315, R316). -/
namespace Sys2Proof.Laws.Encoding
open Sys2Proof

/-! ## The fields of the words (R297, R301) -/

theorem extract_append_above {w v n : Nat} (x : BitVec w) (y : BitVec v) (i : Nat) :
    (x ++ y).extractLsb' (i + v) n = x.extractLsb' i n := by
  rw [BitVec.extractLsb'_append_eq_of_le (by omega), Nat.add_sub_cancel]

theorem extract_append_low {w v : Nat} (x : BitVec w) (y : BitVec v) : (x ++ y).extractLsb' 0 v = y := by
  rw [BitVec.extractLsb'_append_eq_of_add_le (by omega), BitVec.extractLsb'_eq_self]

section
variable (op : Nat) (ext : Bool) (o : Operands)

theorem baseWord_ext : bits (baseWord op ext o) 0 1 = BitVec.ofBool ext := extract_append_low ..

theorem baseWord_b : bits (baseWord op ext o) 1 7 = o.b := (extract_append_above _ _ 0).trans (extract_append_low ..)

theorem baseWord_a : bits (baseWord op ext o) 8 7 = o.a :=
  (extract_append_above _ _ 7).trans <| (extract_append_above _ _ 0).trans (extract_append_low ..)

theorem baseWord_d : bits (baseWord op ext o) 15 7 = o.d :=
  (extract_append_above _ _ 14).trans <| (extract_append_above _ _ 7).trans <| (extract_append_above _ _ 0).trans (extract_append_low ..)

theorem baseWord_op : bits (baseWord op ext o) 22 8 = BitVec.ofNat 8 op :=
  (extract_append_above _ _ 21).trans <| (extract_append_above _ _ 14).trans <| (extract_append_above _ _ 7).trans <|
    (extract_append_above _ _ 0).trans (extract_append_low ..)

theorem baseWord_q : bits (baseWord op ext o) 30 1 = BitVec.ofBool o.q :=
  (extract_append_above _ _ 29).trans <| (extract_append_above _ _ 22).trans <| (extract_append_above _ _ 15).trans <|
    (extract_append_above _ _ 8).trans <| (extract_append_above _ _ 0).trans (extract_append_low ..)

theorem baseWord_s : bits (baseWord op ext o) 31 1 = BitVec.ofBool o.s :=
  (extract_append_above _ _ 30).trans <| (extract_append_above _ _ 23).trans <| (extract_append_above _ _ 16).trans <|
    (extract_append_above _ _ 9).trans <| (extract_append_above _ _ 1).trans <|
    (extract_append_above _ _ 0).trans BitVec.extractLsb'_eq_self

theorem extWord_reserved : bits (extWord o) 0 20 = 0#20 := extract_append_low ..

theorem extWord_fn : bits (extWord o) 20 5 = o.fn := (extract_append_above _ _ 0).trans (extract_append_low ..)

theorem extWord_c : bits (extWord o) 25 7 = o.c :=
  (extract_append_above _ _ 5).trans <| (extract_append_above _ _ 0).trans BitVec.extractLsb'_eq_self

end

@[simp] theorem ofBool_beq_one (b : Bool) : (BitVec.ofBool b == 1#1) = b := by cases b <;> rfl

/-- An extension word as it stands after a base word, or the lack of one. -/
def extOf (ext : Bool) (o : Operands) : Option W32 := if ext then some (extWord o) else none

/-- The fields that the words of an instruction give are its own where its absent words would hold 0. -/
theorem fieldsOf_words {op : Nat} {ext : Bool} {o : Operands} (hext : ext = false → o.c = 0#7 ∧ o.fn = 0#5) (lit : W32) :
    fieldsOf (baseWord op ext o) (extOf ext o) lit = { o with lit := lit } := by
  simp only [fieldsOf, extOf, baseWord_s, baseWord_q, baseWord_d, baseWord_a, baseWord_b, ofBool_beq_one]
  cases ext with
  | true => simp only [if_true, extWord_c, extWord_fn]
  | false =>
    obtain ⟨hc, hfn⟩ := hext rfl
    simp only [Bool.false_eq_true, if_false, hc, hfn]

/-! ## The decoder on written words -/

theorem opForm_of_le {op : Nat} (fn : Nat) (h : 256 ≤ op) : opForm op fn = none := by
  obtain ⟨k, rfl⟩ := Nat.exists_eq_add_of_le' h
  rfl

theorem opForm_lt {op fn : Nat} {f : Form} (h : opForm op fn = some f) : op < 256 := by
  by_contra hop
  rw [opForm_of_le fn (Nat.le_of_not_lt hop)] at h
  cases h

/-- What decoding ends in once the words before the literal are read as the fields `o` of opcode `op` in form `f` (R302, R303). -/
def finish (op : Nat) (f : Form) (ext : Bool) (o : Operands) (rest : List W32) : Except DecodeError (Instr × Nat) :=
  if formSub op f ext o != 0 then .error (.illegal (formSub op f ext o))
  else
    let n := 1 + (if ext then 1 else 0)
    if hasLit o then
      match rest with
      | [] => .error .truncated
      | l :: _ =>
        match ofOp op { o with lit := l } with
        | some i => .ok (i, n + 1)
        | none => .error (.illegal 1)
    else
      match ofOp op o with
      | some i => .ok (i, n)
      | none => .error (.illegal 1)

/-- Decoding written words of an assigned opcode: their fields, and the rest of the words. -/
theorem decode_words {op : Nat} {f : Form} {ext : Bool} {o : Operands} (hext : ext = false → o.c = 0#7 ∧ o.fn = 0#5)
    (hform : opForm op o.fn.toNat = some f) (rest : List W32) :
    decode (baseWord op ext o :: ((if ext then [extWord o] else []) ++ rest)) = finish op f ext { o with lit := 0#32 } rest := by
  have hop : (bits (baseWord op ext o) 22 8).toNat = op := by
    rw [baseWord_op, BitVec.toNat_ofNat, Nat.mod_eq_of_lt (opForm_lt hform)]
  have hfields := fieldsOf_words (op := op) hext 0#32
  have he : (bits (baseWord op ext o) 0 1 == 1#1) = ext := by rw [baseWord_ext, ofBool_beq_one]
  unfold decode finish
  dsimp only
  rw [hop, he]
  cases ext with
  | true =>
    simp only [extOf, if_true] at hfields ⊢
    simp only [List.cons_append, List.nil_append, hfields, hform, Option.isNone_some, Bool.and_false, Bool.false_eq_true,
      if_false, extWord_reserved, bne_self_eq_false, Bool.false_and] <;> rfl
  | false =>
    simp only [extOf, Bool.false_eq_true, if_false] at hfields ⊢
    simp only [List.nil_append, hfields, hform, Bool.false_and, Bool.false_eq_true, if_false] <;> rfl

/-- The SUB of the operand fields does not depend on the literal. -/
theorem formSub_lit (op : Nat) (f : Form) (ext : Bool) (o : Operands) (l : W32) : formSub op f ext { o with lit := l } = formSub op f ext o :=
  rfl

/-- Legal fields are read as the instruction of their opcode, past the literal word where they take one (R302). -/
theorem finish_legal {op : Nat} {f : Form} {ext : Bool} {o : Operands} {i : Instr} (hlegal : formSub op f ext o = 0)
    (hlit : (hasLit o || o.lit == 0#32) = true) (hi : ofOp op o = some i) (ws : List W32) :
    finish op f ext { o with lit := 0#32 } ((if hasLit o then [o.lit] else []) ++ ws) =
      .ok (i, 1 + (if ext then 1 else 0) + (if hasLit o then 1 else 0)) := by
  have hhas : hasLit { o with lit := 0#32 } = hasLit o := rfl
  unfold finish
  rw [formSub_lit, hlegal, hhas]
  cases h : hasLit o with
  | true => simp [hi]
  | false =>
    have hzero : o.lit = 0#32 := by simpa [h] using hlit
    have ho : ({ o with lit := 0#32 } : Operands) = o := by rw [← hzero]
    simp [ho, hi]

/-! ## Every instruction -/

/-- What an instruction carries is read back by the decoder's tables, constructor by constructor. -/
theorem statement_holds (i : Instr) (hassigned : ∀ op s q, i ≠ .unassignedOpcode op s q) : Statement i := by
  cases i with
  | nop o => exact nop o
  | mode o => exact mode o
  | bra o => exact bra o
  | braLabel o => exact braLabel o
  | br o => exact br o
  | join o => exact join o
  | brx o => exact brx o
  | call o => exact call o
  | callLabel o => exact callLabel o
  | ret o => exact ret o
  | exit o => exact exit o
  | yield o => exact yield o
  | trap o => exact trap o
  | rft o => exact rft o
  | rdsr o => exact rdsr o
  | wrsr o => exact wrsr o
  | boost o => exact boost o
  | srseed o => exact srseed o
  | pset o => exact pset o
  | plog o => exact plog o
  | pmov o => exact pmov o
  | ballot o => exact ballot o
  | popm o => exact popm o
  | shfl o => exact shfl o
  | bcast o => exact bcast o
  | lred o => exact lred o
  | lscan o => exact lscan o
  | vote o => exact vote o
  | matchLanes o => exact matchLanes o
  | perm o => exact perm o
  | iadd o => exact iadd o
  | isub o => exact isub o
  | imul o => exact imul o
  | imulh o => exact imulh o
  | imad o => exact imad o
  | imin o => exact imin o
  | imax o => exact imax o
  | iabs o => exact iabs o
  | ineg o => exact ineg o
  | icmp o => exact icmp o
  | icvt o => exact icvt o
  | bitAnd o => exact bitAnd o
  | bitOr o => exact bitOr o
  | bitXor o => exact bitXor o
  | bitNot o => exact bitNot o
  | shl o => exact shl o
  | shr o => exact shr o
  | sar o => exact sar o
  | rot o => exact rot o
  | fshl o => exact fshl o
  | fshr o => exact fshr o
  | bfx o => exact bfx o
  | bfi o => exact bfi o
  | popc o => exact popc o
  | clz o => exact clz o
  | brev o => exact brev o
  | sel o => exact sel o
  | lea o => exact lea o
  | adda o => exact adda o
  | aff o => exact aff o
  | fadd o => exact fadd o
  | fsub o => exact fsub o
  | fmul o => exact fmul o
  | fma o => exact fma o
  | fmin o => exact fmin o
  | fmax o => exact fmax o
  | fneg o => exact fneg o
  | fabs o => exact fabs o
  | fcmp o => exact fcmp o
  | fclass o => exact fclass o
  | frnd o => exact frnd o
  | fscale o => exact fscale o
  | frcp o => exact frcp o
  | frsq o => exact frsq o
  | fsqrt o => exact fsqrt o
  | fexp2 o => exact fexp2 o
  | flog2 o => exact flog2 o
  | fsin o => exact fsin o
  | fcos o => exact fcos o
  | cvt o => exact cvt o
  | pack o => exact pack o
  | unpack o => exact unpack o
  | flgrd o => exact flgrd o
  | flgclr o => exact flgclr o
  | ld o => exact ld o
  | st o => exact st o
  | lds o => exact lds o
  | sts o => exact sts o
  | ldx o => exact ldx o
  | stx o => exact stx o
  | pref o => exact pref o
  | atom o => exact atom o
  | atoms o => exact atoms o
  | red o => exact red o
  | waitcnt o => exact waitcnt o
  | commit o => exact commit o
  | bar o => exact bar o
  | darrive o => exact darrive o
  | dwait o => exact dwait o
  | garrive o => exact garrive o
  | gwait o => exact gwait o
  | evset o => exact evset o
  | evclr o => exact evclr o
  | waitany o => exact waitany o
  | msend o => exact msend o
  | mrecv o => exact mrecv o
  | xshf o => exact xshf o
  | trig o => exact trig o
  | launch o => exact launch o
  | cpy o => exact cpy o
  | cpym o => exact cpym o
  | gath o => exact gath o
  | scat o => exact scat o
  | gcsr o => exact gcsr o
  | stage o => exact stage o
  | close o => exact close o
  | waitb o => exact waitb o
  | ldb o => exact ldb o
  | mfence o => exact mfence o
  | mma o => exact mma o
  | mmas o => exact mmas o
  | accnext o => exact accnext o
  | accrd o => exact accrd o
  | accwr o => exact accwr o
  | epi o => exact epi o
  | coll o => exact coll o
  | dpfx o => exact dpfx o
  | drle o => exact drle o
  | dbit o => exact dbit o
  | dchk o => exact dchk o
  | unassignedOpcode op s q => exact absurd rfl (hassigned op s q)
  | _ => exact of_none rfl

/-- A word whose opcode has no form is an unassigned opcode, whatever its other bits are and whatever follows it (R315). -/
theorem decode_unassigned {w : W32} (hnone : ∀ fn, opForm (bits w 22 8).toNat fn = none) (ws : List W32) :
    decode (w :: ws) = .ok (.unassignedOpcode (bits w 22 8) (bits w 31 1 == 1#1) (bits w 30 1 == 1#1), 1) := by
  unfold decode
  dsimp only
  rw [hnone]
  rfl

/-- Whether an opcode is assigned does not depend on the selector (R315). -/
theorem opForm_isNone (op fn : Nat) : (opForm op fn).isNone = (opForm op 0).isNone := by
  unfold opForm
  split <;> rfl

theorem opForm_none_of_isNone {op fn : Nat} (h : (opForm op fn).isNone = true) (k : Nat) : opForm op k = none := by
  rw [opForm_isNone] at h
  exact Option.isNone_iff_eq_none.1 ((opForm_isNone op k).trans h)

/-- Every opcode that an instruction of the table is encoded under has a form. -/
theorem opForm_isSome_of_word {i : Instr} {op : Nat} {o : Operands} (hassigned : ∀ op s q, i ≠ .unassignedOpcode op s q)
    (hword : i.word? = some (op, o)) : (opForm op o.fn.toNat).isSome = true := by
  unfold Instr.word? at hword
  split at hword
  case h_131 op s q => exact absurd rfl (hassigned op s q)
  all_goals cases hword
  all_goals rfl

/-- Legal fields in the words that their form asks for are read as the instruction of their opcode (R297, R301, R302). -/
theorem decode_legal {op : Nat} {o : Operands} {i : Instr} (hwf : wfWord op none o = true) (hi : ofOp op o = some i)
    (hword : i.word? = some (op, o)) (ws : List W32) : decode (encode i ++ ws) = .ok (i, lengthWords i) := by
  unfold wfWord at hwf
  split at hwf
  · cases hwf
  next f hform =>
    simp only [Bool.and_eq_true, beq_iff_eq, Bool.or_eq_true, Bool.and_true] at hwf
    obtain ⟨⟨hlegal, hext⟩, hlit⟩ := hwf
    have hwords : encode i = baseWord op f.1 o :: ((if f.1 then [extWord o] else []) ++ (if hasLit o then [o.lit] else [])) := by
      simp only [encode, hword, hform]
    have hlength : lengthWords i = 1 + (if f.1 then 1 else 0) + (if hasLit o then 1 else 0) := by
      rw [lengthWords, hwords, List.length_cons, List.length_append]
      split <;> split <;> rfl
    rw [hlength, hwords, List.cons_append, List.append_assoc,
      decode_words (fun he => hext.resolve_left (by simp [he])) hform, finish_legal hlegal (by simpa using hlit) hi]

/-- Settles O1: the words give their fields back, which the opcode's tables read as the instruction. -/
theorem decodeOfEncode : Obligations.DecodeOfEncode := by
  unfold Obligations.DecodeOfEncode
  intro i ws hwf hword
  by_cases hassigned : ∀ op s q, i ≠ .unassignedOpcode op s q
  · obtain ⟨⟨op, o⟩, hop⟩ := Option.isSome_iff_exists.1 hword
    obtain ⟨hi, hwf⟩ := statement_holds i hassigned op o hop hwf (opForm_isSome_of_word hassigned hop)
    exact decode_legal hwf hi hop ws
  · push Not at hassigned
    obtain ⟨op, s, q, rfl⟩ := hassigned
    have hnone := opForm_none_of_isNone (op := op.toNat) hwf
    have hwords : encode (.unassignedOpcode op s q) = [baseWord op.toNat false ⟨s, q, 0, 0, 0, 0, 0, 0⟩] := by
      simp only [encode, Instr.word?, hnone]
      rfl
    have hop : bits (baseWord op.toNat false ⟨s, q, 0, 0, 0, 0, 0, 0⟩) 22 8 = op := by
      rw [baseWord_op, BitVec.ofNat_toNat, BitVec.setWidth_eq]
    rw [lengthWords, hwords, List.singleton_append, decode_unassigned (by rwa [hop]), hop, baseWord_s, baseWord_q, ofBool_beq_one,
      ofBool_beq_one]
    rfl

/-- Settles O2: the decoder computes each. -/
theorem writtenWordsDecode : Obligations.WrittenWordsDecode := by
  unfold Obligations.WrittenWordsDecode
  exact ⟨rfl, rfl, rfl, rfl, rfl⟩

/-! ## What the decoder refuses -/

/-- An FN that the entry does not list is found before every other fault of the fields but an unassigned opcode (R303). -/
theorem formSub_unlisted {op : Nat} {f : Form} (o : Operands) (hext : f.1 = true) (hfn : fnAccepted op o.fn.toNat = false) :
    formSub op f true o = 2 := by
  obtain ⟨e, d, a, b, c⟩ := f
  obtain rfl : e = true := hext
  simp only [formSub, hfn, Bool.and_self, Bool.not_false, if_true]

/-- Settles O3: the fields' first fault is the FN; an opcode without a form is unassigned, and the table assigns the other 128. -/
theorem unassignedWordsAreRefused : Obligations.UnassignedWordsAreRefused := by
  unfold Obligations.UnassignedWordsAreRefused
  refine ⟨fun o op f ws _ hform hext hfn => ?unlisted, fun w ws hnone => decode_unassigned hnone ws, ?count, fun fn => ⟨rfl, rfl⟩,
    fun op b q s c hc => ?trap⟩
  case unlisted =>
    have hsub : formSub op f true { o with lit := 0#32 } = 2 := formSub_unlisted o hext hfn
    rw [← List.singleton_append (x := extWord o)]
    refine (decode_words (ext := true) nofun hform ws).trans ?_
    rw [finish, hsub]
    rfl
  case count =>
    have hall : ∀ op, ((List.range 32).all fun fn => (opForm op fn).isNone) = (opForm op 0).isNone := fun op => by
      simp only [opForm_isNone op]
      cases (opForm op 0).isNone <;> rfl
    simp only [hall]
    rfl
  case trap =>
    change Machine.execUnassignedOpcode op b q s = _
    simp only [Machine.execUnassignedOpcode, hc]
end Sys2Proof.Laws.Encoding

/-! Affine results: the value of an affine source in each lane (R202), and what an affine operation delivers (R309, R343, R346, R349). -/
namespace Sys2Proof.Machine

/-! ## Sources without outstanding writes -/

theorem regSeen_quiet {g : Group} {n : Nat} (h : g.regOuts n = []) (t : Nat) : g.regSeen n t = g.reg n := by
  unfold Group.regSeen
  rw [h]

theorem regLane_quiet {g : Group} {n : Nat} (h : g.regOuts n = []) (seed l t : Nat) :
    g.regLane seed n l t = (g.reg n).val.lane l := by
  unfold Group.regLane
  rw [h]

/-- The bits of a source of 32 or 64 bits. -/
def srcBits (w64 : Bool) : Nat := if w64 then 64 else 32

section
variable {c : Ctx} {s : Src} {o : Operands} {b st : W64} {l : Nat}

theorem isReg_of_regs (hreg : isReg s.code = true) : s.regs = if s.w64 then [s.code.toNat, s.code.toNat + 1] else [s.code.toNat] := by
  simp only [Src.regs, hreg, if_true]

/-- The low half of an affine register pair and the high one make the 64-bit value. -/
theorem affine_pair (x : W64) : (x.extractLsb' 32 32 ++ x.extractLsb' 0 32 : W64) = x := by
  rw [BitVec.extractLsb'_append_extractLsb'_eq_extractLsb' (by rfl)]
  exact BitVec.extractLsb'_eq_self

/-- The low 32 bits of an affine value are those of its base and stride cut to 32 bits (R202). -/
theorem affine_low_toNat (x y : W64) (l : Nat) :
    (((x.setWidth 32).setWidth 64 : W64) + ((y.setWidth 32).setWidth 64 : W64) * BitVec.ofNat 64 l).toNat % 2 ^ 32 =
      ((x + y * BitVec.ofNat 64 l).extractLsb' 0 32).toNat := by
  have h := congrArg BitVec.toNat (affine_low x y l)
  simpa [BitVec.extractLsb'_toNat] using h

theorem toNat_zero_stride (x y : W64) : (x + 0 * y).toNat % 2 ^ 64 = x.toNat := by
  rw [show (0 : W64) = 0#64 from rfl, BitVec.zero_mul, BitVec.add_zero, Nat.mod_eq_of_lt x.isLt]

theorem toNat_zero_stride_low (x : W32) (y : W64) : (x.setWidth 64 + 0 * y).toNat % 2 ^ 32 = x.toNat := by
  rw [show (0 : W64) = 0#64 from rfl, BitVec.zero_mul, BitVec.add_zero, BitVec.toNat_setWidth_of_le (by decide), Nat.mod_eq_of_lt x.isLt]

/-- A register, or a pair, that is one value or affine holds base plus stride times the lane (R202). -/
theorem value_of_affine_reg (hreg : isReg s.code = true) (hquiet : c.quiet s.regs) (h : c.affineOf s o = some (b, st)) (t : Nat) :
    c.value s o l t = (b + st * BitVec.ofNat 64 l).toNat % 2 ^ srcBits s.w64 := by
  rw [isReg_of_regs hreg] at hquiet
  have hlow : c.g.regOuts s.code.toNat = [] := hquiet _ (by split <;> simp)
  simp only [Ctx.affineOf, Ctx.value, hreg, if_true, regSeen_quiet hlow, regLane_quiet hlow] at h ⊢
  generalize (c.g.reg s.code.toNat).val = low at h ⊢
  cases hw : s.w64 with
  | false =>
    simp only [hw, Bool.false_eq_true, if_false, srcBits] at h ⊢
    match low, h with
    | .raw, h => cases h; exact (toNat_zero_stride_low 0 _).symm
    | .uniform v, h => cases h; exact (toNat_zero_stride_low v _).symm
    | .affine x y false, h => cases h; exact (affine_low_toNat x y l).symm
  | true =>
    have hhigh : c.g.regOuts (s.code.toNat + 1) = [] := hquiet _ (by simp [hw])
    simp only [hw, if_true, srcBits, regSeen_quiet hhigh, regLane_quiet hhigh] at h ⊢
    generalize (c.g.reg (s.code.toNat + 1)).val = high at h ⊢
    match low, high, h with
    | .raw, .raw, h | .raw, .uniform _, h | .uniform _, .raw, h | .uniform _, .uniform _, h =>
      cases h; exact (toNat_zero_stride _ _).symm
    | .affine x y false, .affine x' y' true, h =>
      dsimp only at h
      split at h
      case isTrue hsame =>
        cases h
        obtain ⟨rfl, rfl⟩ : b = x' ∧ st = y' := by simpa using hsame
        rw [Nat.mod_eq_of_lt (BitVec.isLt _)]
        exact congrArg BitVec.toNat (affine_pair _)
      case isFalse => cases h

/-- A source that is no register and not the lane's number has no stride. -/
theorem affineOf_special_stride (hreg : isReg s.code = false) (hlane : s.code ≠ 121#7) (h : c.affineOf s o = some (b, st)) : st = 0 := by
  simp only [Ctx.affineOf, hreg, Bool.false_eq_true, if_false] at h
  split at h
  case h_2 h121 => exact absurd (BitVec.eq_of_toNat_eq h121) hlane
  all_goals cases h; rfl

/-- A source that is no register is one value, or the lane's number. -/
theorem value_of_affine_special (hreg : isReg s.code = false) (h : c.affineOf s o = some (b, st)) (hl : l < 64) (t : Nat) :
    c.value s o l t = (b + st * BitVec.ofNat 64 l).toNat % 2 ^ srcBits s.w64 := by
  by_cases hlane : s.code = 121#7
  · have hbase : c.affineOf s o = some (0, 1) := by
      simp only [Ctx.affineOf, hlane]
      rfl
    rw [hbase] at h
    cases h
    have hvalue : c.value s o l t = l := by
      simp only [Ctx.value, hlane]
      rfl
    rw [hvalue]
    unfold srcBits
    split <;> simp <;> omega
  · obtain rfl := affineOf_special_stride hreg hlane h
    have hne : (s.code == 121#7) = false := beq_false_of_ne hlane
    simp only [Ctx.value, hreg, hne, h, Bool.false_eq_true, if_false]
    cases s.w64 with
    | true => exact (toNat_zero_stride b _).symm
    | false => simp [srcBits]

theorem value_of_affine (hquiet : c.quiet s.regs) (h : c.affineOf s o = some (b, st)) (hl : l < 64) (t : Nat) :
    c.value s o l t = (b + st * BitVec.ofNat 64 l).toNat % 2 ^ srcBits s.w64 := by
  cases hreg : isReg s.code with
  | true => exact value_of_affine_reg hreg hquiet h t
  | false => exact value_of_affine_special hreg h hl t

end
/-! ## A form whose body, past its checks, is the common course with an affine result -/

theorem halves_of_mod {x y : Nat} {w64 : Bool} (h : x % 2 ^ srcBits w64 = y % 2 ^ srcBits w64) :
    BitVec.ofNat 32 x = BitVec.ofNat 32 y ∧ (w64 = true → BitVec.ofNat 32 (x / 2 ^ 32) = BitVec.ofNat 32 (y / 2 ^ 32)) := by
  cases w64 with
  | false => exact ⟨BitVec.eq_of_toNat_eq h, nofun⟩
  | true =>
    simp only [srcBits, if_true] at h
    refine ⟨BitVec.eq_of_toNat_eq ?_, fun _ => BitVec.eq_of_toNat_eq ?_⟩ <;> simp only [BitVec.toNat_ofNat] <;> omega

/-- What an affine form must compute in a lane: no flag, and its affine result there (R309). -/
def ElementForm.AffineAt (x : ElementForm) (c : Ctx) (o : Operands) (b t : W64) (l : Nat) : Prop :=
  ∀ zs, (x.fn c o l zs ((x.srcs c o).map fun s => c.value s o l c.now)).2 = 0 ∧
    (b + t * BitVec.ofNat 64 l).toNat % 2 ^ srcBits (x.w64 c o) =
      (x.fn c o l zs ((x.srcs c o).map fun s => c.value s o l c.now)).1 % 2 ^ srcBits (x.w64 c o)

/-- A form delivers once its body comes to the common course, and its affine result is what it computes in each lane (R203, R309). -/
theorem ElementForm.holds_of_affine {x : ElementForm} {body : Operands → Ctx → Except Trap Effect}
    (hexec : ∀ o s, exec (x.con o) s = runAlu x.op o x.tm s (body o))
    (hbody : ∀ o c, x.allowed c o = true → c.check true (x.srcs c o) o.d (x.w64 c o) = .ok () →
      body o c = c.elementwise o (x.srcs c o) o.d (x.w64 c o) (x.fmt c o) (x.cnt c o) (x.affine c o) (x.uniformOk c o)
        (x.steps c o) (x.fn c o))
    (haffine : ∀ o c b t l, x.allowed c o = true → (∀ s ∈ x.srcs c o, c.quiet s.regs) → x.affine c o = some (b, t) → l < 64 →
      x.AffineAt c o b t l) : x.Holds := by
  intro o s c hissue hallowed hcheck hquiet hexecQuiet htakes
  have hdst : c.quiet (dstRegs o.d (x.w64 c o)) := fun n hn => hquiet n (List.mem_append_right _ hn)
  have hsrcs : ∀ s ∈ x.srcs c o, c.quiet s.regs := fun s hs n hn =>
    hquiet n (List.mem_append_left _ (List.mem_flatMap.2 ⟨s, hs, hn⟩))
  rw [hexec]
  refine elementwise_delivers hissue _ _ _ _ _ _ _ _ _ (hbody o c hallowed hcheck) htakes hdst hexecQuiet fun b t haff huniform l hl _ => ?_
  obtain ⟨hflags, hvalue⟩ := haffine o c b t l hallowed hsrcs haff hl (srRun (c.srAt l c.now) (x.steps c o)).1
  simp only [Ctx.outOf, huniform, Bool.false_eq_true, if_false, Bool.or_true, if_true]
  exact ⟨hflags, halves_of_mod hvalue⟩

end Sys2Proof.Machine

/-! The results of the integer arithmetic and the shifts (R309, R343, R346). -/
namespace Sys2Proof.Machine

/-! ## Residues: what a result of 32 or 64 bits keeps of a number -/

theorem mod_srcBits_iff {w64 : Bool} {x y : Nat} :
    x % 2 ^ srcBits w64 = y % 2 ^ srcBits w64 ↔ (x : ZMod (2 ^ srcBits w64)) = (y : ZMod (2 ^ srcBits w64)) :=
  (ZMod.natCast_eq_natCast_iff' ..).symm

section
variable {w64 : Bool}

theorem srcBits_dvd : 2 ^ srcBits w64 ∣ 2 ^ 64 := by cases w64 <;> decide

@[simp] theorem residue_mod (x : Nat) : ((x % 2 ^ srcBits w64 : Nat) : ZMod (2 ^ srcBits w64)) = x := ZMod.natCast_mod ..

@[simp] theorem residue_mod64 (x : Nat) : ((x % 2 ^ 64 : Nat) : ZMod (2 ^ srcBits w64)) = x := by
  rw [← residue_mod, Nat.mod_mod_of_dvd _ srcBits_dvd, residue_mod]

@[simp] theorem residue_zero : (((0 : W64).toNat : Nat) : ZMod (2 ^ srcBits w64)) = 0 := Nat.cast_zero

@[simp] theorem residue_add (x y : W64) : ((x + y).toNat : ZMod (2 ^ srcBits w64)) = x.toNat + y.toNat := by
  rw [BitVec.toNat_add, residue_mod64, Nat.cast_add]

@[simp] theorem residue_mul (x y : W64) : ((x * y).toNat : ZMod (2 ^ srcBits w64)) = x.toNat * y.toNat := by
  rw [BitVec.toNat_mul, residue_mod64, Nat.cast_mul]

@[simp] theorem residue_ofNat (l : Nat) : ((BitVec.ofNat 64 l).toNat : ZMod (2 ^ srcBits w64)) = l := by
  rw [BitVec.toNat_ofNat, residue_mod64]

@[simp] theorem residue_sub (x y : W64) : ((x - y).toNat : ZMod (2 ^ srcBits w64)) = x.toNat - y.toNat := by
  rw [eq_sub_iff_add_eq, ← residue_add, BitVec.sub_add_cancel]

@[simp] theorem residue_shiftLeft (x : W64) (n : Nat) : ((x <<< n).toNat : ZMod (2 ^ srcBits w64)) = x.toNat * 2 ^ n := by
  rw [BitVec.toNat_shiftLeft, residue_mod64, Nat.shiftLeft_eq, Nat.cast_mul, Nat.cast_pow, Nat.cast_ofNat]

@[simp] theorem residue_wrapInt (x : Int) : ((wrapInt (srcBits w64) x : Nat) : ZMod (2 ^ srcBits w64)) = x := by
  have hpos : (2 ^ srcBits w64 : Int) ≠ 0 := by positivity
  have hnonneg := Int.emod_nonneg x hpos
  rw [wrapInt, ← Int.cast_natCast, Int.toNat_of_nonneg hnonneg]
  exact (ZMod.intCast_eq_intCast_iff ..).2 (by simpa using Int.mod_modEq x (2 ^ srcBits w64))

@[simp] theorem residue_intVal (sg : Bool) (x : Nat) : ((intVal sg (srcBits w64) x : Int) : ZMod (2 ^ srcBits w64)) = x := by
  unfold intVal
  split
  · have : ((2 ^ srcBits w64 : Nat) : ZMod (2 ^ srcBits w64)) = 0 := ZMod.natCast_self _
    push_cast at this ⊢
    rw [this, sub_zero]
  · rw [Int.cast_natCast]

end
/-! ## Affine sources -/

section
variable {c : Ctx} {o : Operands}

theorem residue_value {w64 : Bool} {s : Src} {x : W64 × W64} {l : Nat} (hw : s.w64 = w64) (hquiet : c.quiet s.regs)
    (h : c.affineOf s o = some x) (hl : l < 64) (t : Nat) :
    (c.value s o l t : ZMod (2 ^ srcBits w64)) = x.1.toNat + x.2.toNat * l := by
  subst hw
  rw [value_of_affine hquiet h hl, residue_mod, residue_add, residue_mul, residue_ofNat]

/-- A source that is one value has no stride (R203). -/
theorem stride_of_uniform {s : Src} {x : W64 × W64} (huni : c.isUniform s.code = true) (h : c.affineOf s o = some x) : x.2 = 0 := by
  cases hreg : isReg s.code with
  | false =>
    simp only [Ctx.isUniform, hreg, Bool.false_eq_true, if_false, bne_iff_ne] at huni
    exact affineOf_special_stride hreg huni h
  | true =>
    simp only [Ctx.isUniform, hreg, if_true] at huni
    simp only [Ctx.affineOf, hreg, if_true] at h
    generalize (c.g.regSeen s.code.toNat c.now).val = low at huni h
    generalize (c.g.regSeen (s.code.toNat + 1) c.now).val = high at h
    cases hw : s.w64 with
    | false =>
      simp only [hw, Bool.false_eq_true, if_false] at h
      match low, huni with
      | .raw, _ | .uniform _, _ => cases h; rfl
    | true =>
      simp only [hw, if_true] at h
      match low, huni, high with
      | .raw, _, .raw | .raw, _, .uniform _ | .uniform _, _, .raw | .uniform _, _, .uniform _ => cases h; rfl
      | .raw, _, .affine .. | .raw, _, .general _ | .uniform _, _, .affine .. | .uniform _, _, .general _ => cases h

/-- What the affine form of an operation on two sources needs (R309). -/
theorem affine2_some {a b : Src} {f : W64 × W64 → W64 × W64 → Option (W64 × W64)} {r : W64 × W64} (h : c.affine2 o a b f = some r) :
    c.et ≤ 3 ∧ c.sat = false ∧ ∃ x y, c.affineOf a o = some x ∧ c.affineOf b o = some y ∧ f x y = some r := by
  unfold Ctx.affine2 at h
  split at h
  · cases h
  next hguard =>
    simp only [Bool.or_eq_true, not_or, bne_iff_ne, not_not, decide_eq_true_eq, not_lt, Bool.not_eq_true] at hguard
    obtain ⟨⟨⟨-, het⟩, hsat⟩, -⟩ := hguard
    split at h
    case h_1 x y hx hy => exact ⟨het, hsat, x, y, hx, hy, h⟩
    case h_2 => cases h

end

/-! ## One element -/

theorem elemWidth_of_le {et : Nat} (h : et ≤ 3) : elemWidth et = srcBits (is64 et) := by interval_cases et <;> rfl

theorem count_of_le {c : Ctx} {et : Nat} (h : et ≤ 3) (ss : List Src) : c.count et ss = 0 := by
  have hone : (elemCount et).log2 = 0 := by interval_cases et <;> rfl
  unfold Ctx.count
  rw [hone]
  refine List.foldlRecOn (motive := fun n => n = 0) ss _ rfl fun n hn s _ => ?_
  subst hn
  split <;> [rfl; (split <;> [exact Nat.zero_min _; rfl])]

theorem packElems_one (w x : Nat) : packElems w [x] = x % 2 ^ w := by simp [packElems]

theorem elemBits_zero (w x : Nat) : elemBits w x 0 = x % 2 ^ w := by simp [elemBits]

theorem residue_intLanes {et : Nat} (h : et ≤ 3) (f : List Int → Int) (vals : List Nat) :
    (intLanes et false 1 f vals : ZMod (2 ^ srcBits (is64 et))) =
      ((f (vals.map fun v => intVal (isSigned et) (srcBits (is64 et)) (v % 2 ^ srcBits (is64 et))) : Int) : ZMod _) := by
  simp [intLanes, packElems_one, deliverInt, elemBits_zero, elemWidth_of_le h]

/-! ## Integer arithmetic (R343) -/

/-- Integer arithmetic whose checks pass runs the common course. -/
theorem arith_checked {c : Ctx} {o : Operands} {xs : List Code} {clamps : Bool} {affine : Option (W64 × W64)} {f : List Int → Int}
    (het : decide (c.et ≤ 5) = true) (hcheck : c.check true (xs.map c.intSrc) o.d c.wide = .ok ()) :
    c.arith o xs clamps affine f = c.elementwise o (xs.map c.intSrc) o.d c.wide c.et (c.count c.et (xs.map c.intSrc)) affine true 0
      fun _ _ v => (intLanes c.et (clamps && c.sat) (2 ^ c.count c.et (xs.map c.intSrc)) f v, 0) := by
  unfold Ctx.arith
  dsimp only
  rw [het, hcheck]
  rfl

section
variable {con : Operands → Instr} {op : Nat} {tm : Ctx → Timing} {xs : Operands → List Code} {clamps : Bool} {f : Nat → List Int → Int}
  {affine : Ctx → Operands → Option (W64 × W64)}

/-- An arithmetic form holds of an instruction that runs `arith`, where its affine result is what it computes. -/
theorem arithForm_holds
    (hexec : ∀ o s, exec (con o) s = runAlu op o tm s fun c => c.arith o (xs o) clamps (affine c o) (f (elemWidth c.et)))
    (haffine : ∀ o c b t l, (∀ s ∈ (xs o).map c.intSrc, c.quiet s.regs) → affine c o = some (b, t) → l < 64 →
      (arithForm con op tm xs clamps f affine).AffineAt c o b t l) :
    (arithForm con op tm xs clamps f affine).Holds :=
  ElementForm.holds_of_affine hexec (fun _ _ hallowed hcheck => arith_checked hallowed hcheck) fun o c b t l _ => haffine o c b t l

/-- An arithmetic form without affine results holds of an instruction that runs `arith`. -/
theorem arithForm_holds_plain
    (hexec : ∀ o s, exec (con o) s = runAlu op o tm s fun c => c.arith o (xs o) clamps none (f (elemWidth c.et))) :
    (arithForm con op tm xs clamps f).Holds :=
  arithForm_holds hexec fun _ _ _ _ _ _ h => nomatch h

/-- On two sources the affine result of an arithmetic instruction is what it computes, once it is so for residues (R309). -/
theorem arithForm_affineAt {o : Operands} {c : Ctx} {b t : W64} {l : Nat} {g : W64 × W64 → W64 × W64 → Option (W64 × W64)}
    (hxs : xs o = [o.a, o.b]) (hquiet : ∀ s ∈ (xs o).map c.intSrc, c.quiet s.regs)
    (h : c.affine2 o (c.intSrc o.a) (c.intSrc o.b) g = some (b, t)) (hl : l < 64)
    (hg : ∀ x y (u v : Int), c.affineOf (c.intSrc o.a) o = some x → c.affineOf (c.intSrc o.b) o = some y → g x y = some (b, t) →
      (u : ZMod (2 ^ srcBits c.wide)) = x.1.toNat + x.2.toNat * l → (v : ZMod (2 ^ srcBits c.wide)) = y.1.toNat + y.2.toNat * l →
      (b.toNat + t.toNat * l : ZMod (2 ^ srcBits c.wide)) = (f (elemWidth c.et) [u, v] : Int)) :
    (arithForm con op tm xs clamps f affine).AffineAt c o b t l := by
  obtain ⟨het, hsat, x, y, hx, hy, hxy⟩ := affine2_some h
  have ha : c.quiet (c.intSrc o.a).regs := hquiet _ (by simp [hxs])
  have hb : c.quiet (c.intSrc o.b).regs := hquiet _ (by simp [hxs])
  intro zs
  refine ⟨rfl, ?_⟩
  simp only [arithForm, hxs, List.map_cons, List.map_nil, count_of_le het, hsat, Bool.and_false, pow_zero]
  have hlanes := residue_intLanes het (f (elemWidth c.et)) [c.value (c.intSrc o.a) o l c.now, c.value (c.intSrc o.b) o l c.now]
  rw [mod_srcBits_iff, residue_add, residue_mul, residue_ofNat]
  refine Eq.trans (hg x y _ _ hx hy hxy ?_ ?_) hlanes.symm
  · exact ((residue_intVal ..).trans (residue_mod _)).trans (residue_value rfl ha hx hl _)
  · exact ((residue_intVal ..).trans (residue_mod _)).trans (residue_value rfl hb hy hl _)

end

/-! ## Shifts (R346) -/

/-- A shift whose checks pass runs the common course. -/
theorem shift_checked {c : Ctx} {o : Operands} {k : Nat} {affine : Option (W64 × W64)} (het : decide (c.et ≤ 5) = true)
    (hcheck : c.check true ([o.a, o.b].map c.anySrc) o.d c.wide = .ok ()) :
    c.shift o k affine = c.elementwise o ([o.a, o.b].map c.anySrc) o.d c.wide c.et (c.count c.et ([o.a, o.b].map c.anySrc)) affine true 0
      fun _ _ v => (packElems (elemWidth c.et) ((List.range (2 ^ c.count c.et ([o.a, o.b].map c.anySrc))).map fun i =>
        shiftElem k (elemWidth c.et) (elemBits (elemWidth c.et) (v.getD 0 0) i) (elemBits (elemWidth c.et) (v.getD 1 0) i % 256)), 0) := by
  unfold Ctx.shift
  dsimp only
  rw [het, hcheck]
  rfl

/-- The affine result of SHL by an amount that is one value (R309). -/
def shlAffine (c : Ctx) (o : Operands) (x y : W64 × W64) : Option (W64 × W64) :=
  if c.isUniform o.b then
    if y.1.toNat % 256 ≥ elemWidth c.et then some (0, 0) else some (x.1 <<< (y.1.toNat % 256), x.2 <<< (y.1.toNat % 256))
  else none

/-- The amount of a shift is the same in every lane where B is one value. -/
theorem shift_amount {c : Ctx} {o : Operands} {s : Src} {y : W64 × W64} {l : Nat} (hquiet : c.quiet s.regs)
    (huni : c.isUniform s.code = true) (hy : c.affineOf s o = some y) (hl : l < 64) (t : Nat) :
    c.value s o l t % 2 ^ srcBits s.w64 % 256 = y.1.toNat % 256 := by
  have hstride := stride_of_uniform huni hy
  obtain ⟨y, st⟩ := y
  obtain rfl : st = 0 := hstride
  have h256 : 256 ∣ 2 ^ srcBits s.w64 := by cases s.w64 <;> decide
  rw [value_of_affine hquiet hy hl, Nat.mod_mod, Nat.mod_mod_of_dvd _ h256, show (0 : W64) = 0#64 from rfl, BitVec.zero_mul, BitVec.add_zero]

theorem residue_shl {w64 : Bool} {w a n : Nat} (hw : w = srcBits w64) (h : ¬ n ≥ w) :
    (shiftElem 0 w a n : ZMod (2 ^ srcBits w64)) = a * 2 ^ n := by
  subst hw
  simp [shiftElem, h]

theorem shl_affineAt {o : Operands} {c : Ctx} {b t : W64} {l : Nat} (hquiet : ∀ s ∈ [o.a, o.b].map c.anySrc, c.quiet s.regs)
    (h : c.affine2 o (c.anySrc o.a) (c.anySrc o.b) (shlAffine c o) = some (b, t)) (hl : l < 64) :
    (shiftForm .shl 0x54 0 fun c o => c.affine2 o (c.anySrc o.a) (c.anySrc o.b) (shlAffine c o)).AffineAt c o b t l := by
  obtain ⟨het, hsat, x, y, hx, hy, hxy⟩ := affine2_some h
  have ha : c.quiet (c.anySrc o.a).regs := hquiet _ (by simp)
  have hb : c.quiet (c.anySrc o.b).regs := hquiet _ (by simp)
  have hvalue : (c.value (c.anySrc o.a) o l c.now : ZMod (2 ^ srcBits c.wide)) = x.1.toNat + x.2.toNat * l := residue_value rfl ha hx hl _
  intro zs
  refine ⟨rfl, ?_⟩
  unfold shlAffine at hxy
  split at hxy
  case isFalse => cases hxy
  case isTrue huni =>
    have hwidth : elemWidth c.et = srcBits c.wide := elemWidth_of_le het
    have hamount : c.value (c.anySrc o.b) o l c.now % 2 ^ elemWidth c.et % 256 = y.1.toNat % 256 := by
      rw [hwidth]
      exact shift_amount hb huni hy hl _
    simp only [shiftForm, List.map_cons, List.map_nil, count_of_le het, pow_zero, List.range_one, packElems_one, elemBits_zero,
      List.getD_cons_zero, List.getD_cons_succ, hamount]
    rw [hwidth] at hxy ⊢
    split at hxy
    case isTrue hpast =>
      cases hxy
      simp [shiftElem, hpast]
    case isFalse hwithin =>
      cases hxy
      rw [mod_srcBits_iff, residue_mod, residue_shl rfl hwithin, residue_mod, residue_add, residue_mul, residue_ofNat,
        residue_shiftLeft, residue_shiftLeft, hvalue]
      ring

section
variable {con : Operands → Instr} {op k : Nat} {affine : Ctx → Operands → Option (W64 × W64)}

/-- A shift form holds of an instruction that runs `shift`, where its affine result is what it computes. -/
theorem shiftForm_holds (hexec : ∀ o s, exec (con o) s = runAlu op o intTiming s fun c => c.shift o k (affine c o))
    (haffine : ∀ o c b t l, (∀ s ∈ [o.a, o.b].map c.anySrc, c.quiet s.regs) → affine c o = some (b, t) → l < 64 →
      (shiftForm con op k affine).AffineAt c o b t l) : (shiftForm con op k affine).Holds :=
  ElementForm.holds_of_affine hexec (fun _ _ hallowed hcheck => shift_checked hallowed hcheck) fun o c b t l _ => haffine o c b t l

theorem shiftForm_holds_plain (hexec : ∀ o s, exec (con o) s = runAlu op o intTiming s fun c => c.shift o k none) :
    (shiftForm con op k).Holds := shiftForm_holds hexec fun _ _ _ _ _ _ h => nomatch h

end

/-! ## The statement -/

/-- Settles O4: each of the nine runs `arith` and each of the four `shift`, and their affine results are what they compute in each lane. -/
theorem integerArithmeticDelivers : Obligations.IntegerArithmeticDelivers := by
  unfold Obligations.IntegerArithmeticDelivers
  simp only [integerForms, shiftForms, List.cons_append, List.nil_append, List.forall_mem_cons, List.not_mem_nil, IsEmpty.forall_iff,
    implies_true, and_true]
  refine ⟨arithForm_holds (fun o s => (rfl : execIadd o s = _)) ?iadd, arithForm_holds (fun o s => (rfl : execIsub o s = _)) ?isub,
    arithForm_holds (fun o s => (rfl : execImul o s = _)) ?imul, arithForm_holds_plain (fun o s => (rfl : execImulh o s = _)),
    arithForm_holds_plain (fun o s => (rfl : execImad o s = _)), arithForm_holds_plain (fun o s => (rfl : execImin o s = _)),
    arithForm_holds_plain (fun o s => (rfl : execImax o s = _)), arithForm_holds_plain (fun o s => (rfl : execIabs o s = _)),
    arithForm_holds_plain (fun o s => (rfl : execIneg o s = _)), shiftForm_holds (fun o s => (rfl : execShl o s = _)) fun o c b t l => shl_affineAt,
    shiftForm_holds_plain fun o s => (rfl : execShr o s = _), shiftForm_holds_plain fun o s => (rfl : execSar o s = _),
    shiftForm_holds_plain fun o s => (rfl : execRot o s = _)⟩
  case iadd =>
    intro o c b t l hquiet h hl
    refine arithForm_affineAt rfl hquiet h hl fun x y u v _ _ hxy hu hv => ?_
    cases hxy
    simp only [int0, int1, List.getD_cons_zero, List.getD_cons_succ, Int.cast_add, hu, hv, residue_add]
    ring
  case isub =>
    intro o c b t l hquiet h hl
    refine arithForm_affineAt rfl hquiet h hl fun x y u v _ _ hxy hu hv => ?_
    cases hxy
    simp only [int0, int1, List.getD_cons_zero, List.getD_cons_succ, Int.cast_sub, hu, hv, residue_sub]
    ring
  case imul =>
    intro o c b t l hquiet h hl
    refine arithForm_affineAt rfl hquiet h hl fun x y u v hx hy hxy hu hv => ?_
    simp only [int0, int1, List.getD_cons_zero, List.getD_cons_succ, Int.cast_mul, hu, hv]
    split at hxy
    case isTrue huni =>
      cases hxy
      simp only [stride_of_uniform huni hy, residue_mul, residue_zero]
      ring
    case isFalse =>
      split at hxy
      case isTrue huni =>
        cases hxy
        simp only [stride_of_uniform huni hx, residue_mul, residue_zero]
        ring
      case isFalse => cases hxy
end Sys2Proof.Machine

/-! The results of the logic and bit instructions (R347, R348). -/
namespace Sys2Proof.Machine

/-- A logic instruction whose checks pass runs the common course. -/
theorem logic_checked {c : Ctx} {o : Operands} {xs : List Code} (f : List Nat → Nat)
    (hcheck : c.check true (xs.map c.rawSrc) o.d c.wide = .ok ()) :
    c.logic o xs f = c.elementwise o (xs.map c.rawSrc) o.d c.wide (c.rawFmt (xs.map c.rawSrc) c.wide c.et)
      (c.rawCnt (xs.map c.rawSrc) c.wide c.et) none true 0 fun _ _ v => (f v, 0) := by
  unfold Ctx.logic
  dsimp only
  rw [hcheck]
  rfl

/-- A bit instruction whose checks pass runs the common course. -/
theorem bit_checked {c : Ctx} {o : Operands} {xs : List Code} {tag : Nat × Nat} (f : List Nat → Nat)
    (hcheck : c.check true (xs.map raw32) o.d false = .ok ()) :
    c.bit o xs tag f = c.elementwise o (xs.map raw32) o.d false tag.1 tag.2 none true 0 fun _ _ v => (f v, 0) := by
  unfold Ctx.bit
  dsimp only
  rw [hcheck]
  rfl

section
variable {con : Operands → Instr} {op : Nat} {xs : Operands → List Code}

theorem logicForm_holds {f : Bool → List Nat → Nat}
    (hexec : ∀ o s, exec (con o) s = runAlu op o intTiming s fun c => c.logic o (xs o) (f c.wide)) : (logicForm con op xs f).Holds :=
  ElementForm.holds_of_elementwise hexec (fun _ _ => rfl) fun _ c _ hcheck => logic_checked (f c.wide) hcheck

theorem bitForm_holds {tag : Ctx → Operands → Nat × Nat} {f : Operands → List Nat → Nat}
    (hexec : ∀ o s, exec (con o) s = runAlu op o intTiming s fun c => c.bit o (xs o) (tag c o) (f o)) : (bitForm con op xs tag f).Holds :=
  ElementForm.holds_of_elementwise hexec (fun _ _ => rfl) fun o _ _ hcheck => bit_checked (f o) hcheck

end

/-- Settles O5: each of the four runs `logic` and each of the seven `bit` with the function of its entry. -/
theorem logicAndBitOperationsDeliver : Obligations.LogicAndBitOperationsDeliver := by
  unfold Obligations.LogicAndBitOperationsDeliver
  simp only [logicForms, bitForms, List.cons_append, List.nil_append, List.forall_mem_cons, List.not_mem_nil, IsEmpty.forall_iff,
    implies_true, and_true]
  exact ⟨logicForm_holds fun o s => (rfl : execBitAnd o s = _), logicForm_holds fun o s => (rfl : execBitOr o s = _),
    logicForm_holds fun o s => (rfl : execBitXor o s = _), logicForm_holds fun o s => (rfl : execBitNot o s = _),
    bitForm_holds fun o s => (rfl : execFshl o s = _), bitForm_holds fun o s => (rfl : execFshr o s = _),
    bitForm_holds fun o s => (rfl : execBfx o s = _), bitForm_holds fun o s => (rfl : execBfi o s = _),
    bitForm_holds fun o s => (rfl : execPopc o s = _), bitForm_holds fun o s => (rfl : execClz o s = _),
    bitForm_holds fun o s => (rfl : execBrev o s = _)⟩

end Sys2Proof.Machine

/-! The results of the transcendentals, the classes and flags, and the conversions (R345, R362, R365 to R371). -/
namespace Sys2Proof.Machine

/-- Settles O8: each of the seven runs `floating` with the transcendental of its entry. -/
theorem transcendentalsDeliver : Obligations.TranscendentalsDeliver := by
  unfold Obligations.TranscendentalsDeliver
  simp only [xuForms, List.forall_mem_cons, List.not_mem_nil, IsEmpty.forall_iff, implies_true, and_true]
  exact ⟨floatForm_holds fun o s => (rfl : execFrcp o s = _), floatForm_holds fun o s => (rfl : execFrsq o s = _),
    floatForm_holds fun o s => (rfl : execFsqrt o s = _), floatForm_holds fun o s => (rfl : execFexp2 o s = _),
    floatForm_holds fun o s => (rfl : execFlog2 o s = _), floatForm_holds fun o s => (rfl : execFsin o s = _),
    floatForm_holds fun o s => (rfl : execFcos o s = _)⟩

/-- The checks of a form's body pass where its ET is allowed and its operands pass them. -/
theorem check_of_allowed {c : Ctx} {modeOk w64 : Bool} {ss : List Src} {d : Code} (hmode : modeOk = true)
    (hcheck : c.check true ss d w64 = .ok ()) : c.check modeOk ss d w64 = .ok () := by rw [hmode, hcheck]

/-- What follows checks that pass. -/
theorem bind_of_ok {ε α β : Type} {x : Except ε α} {a : α} (h : x = .ok a) (f : α → Except ε β) : (x >>= f) = f a := by
  rw [h]
  rfl

/-- Settles O9: each runs the common course with the function of its entry once its checks pass. -/
theorem classesAndConversionsDeliver : Obligations.ClassesAndConversionsDeliver := by
  unfold Obligations.ClassesAndConversionsDeliver
  simp only [classForms, convertForms, List.cons_append, List.nil_append, List.forall_mem_cons, List.not_mem_nil, IsEmpty.forall_iff,
    implies_true, and_true]
  refine ⟨ElementForm.holds_of_elementwise (fun o s => (rfl : execFclass o s = _)) (fun _ _ => rfl) ?fclass,
    ElementForm.holds_of_elementwise (fun o s => (rfl : execFlgrd o s = _)) (fun _ _ => rfl) ?flgrd,
    ElementForm.holds_of_elementwise (fun o s => (rfl : execIcvt o s = _)) (fun _ _ => rfl) ?icvt,
    ElementForm.holds_of_elementwise (fun o s => (rfl : execCvt o s = _)) (fun _ _ => rfl) ?cvt,
    ElementForm.holds_of_elementwise (fun o s => (rfl : execPack o s = _)) (fun _ _ => rfl) ?pack,
    ElementForm.holds_of_elementwise (fun o s => (rfl : execUnpack o s = _)) (fun _ _ => rfl) ?unpack⟩
  case fclass => exact fun o c hallowed hcheck => bind_of_ok (check_of_allowed hallowed hcheck) _
  case flgrd => exact fun o c _ hcheck => bind_of_ok hcheck _
  case icvt => exact fun o c hallowed hcheck => bind_of_ok (check_of_allowed hallowed hcheck) _
  case cvt => exact fun o c hallowed hcheck => bind_of_ok (check_of_allowed hallowed hcheck) _
  case pack => exact fun o c hallowed hcheck => bind_of_ok (check_of_allowed hallowed hcheck) _
  case unpack =>
    intro o c hallowed hcheck
    obtain ⟨hmode, hdst⟩ := Bool.and_eq_true_iff.1 hallowed
    refine bind_of_ok (a := ()) ?_ _
    rw [hdst]
    exact check_of_allowed hmode hcheck

end Sys2Proof.Machine

/-! The results of the selections and of the address instructions (R309, R347, R349, R375). -/
namespace Sys2Proof.Machine

/-- Operands that pass the checks of R252 name no pair past the group's registers. -/
theorem pairPast_of_check {c : Ctx} {ss : List Src} {d : Code} {w64 : Bool} (h : c.check true ss d w64 = .ok ()) :
    ((ss.any fun s => c.pairPast s.code s.w64) || c.pairPast d w64) = false := by
  unfold Ctx.check at h
  by_contra hpast
  simp [Bool.eq_true_of_not_eq_false hpast] at h

/-- A body goes on past a check that finds nothing. -/
theorem ite_error_of_false {α : Type} {p : Bool} (h : p = false) (t : Trap) (x : Except Trap α) : (if p then .error t else x) = x := by
  rw [h]
  rfl

/-! ## Sources that are one value -/

theorem toNat_succ_of_isReg {x : Code} (h : isReg x = true) : (x + 1).toNat = x.toNat + 1 := by
  have hlt : x.toNat < 120 := by simpa [isReg] using h
  rw [BitVec.toNat_add, show BitVec.toNat (1 : Code) = 1 from rfl, Nat.mod_eq_of_lt (by omega)]

/-- A register that is one value holds it in every lane (R203). -/
theorem regLane_of_uniform {c : Ctx} {x : Code} (hreg : isReg x = true) (hquiet : c.g.regOuts x.toNat = []) (huni : c.isUniform x = true)
    (seed l t : Nat) : c.g.regLane seed x.toNat l t = (c.g.reg x.toNat).val.lane 0 := by
  rw [regLane_quiet hquiet]
  simp only [Ctx.isUniform, hreg, if_true, regSeen_quiet hquiet] at huni
  match (c.g.reg x.toNat).val, huni with
  | .raw, _ | .uniform _, _ => rfl

/-- A source that is one value reads the same in every lane and at every time. -/
theorem value_of_uniform {c : Ctx} {s : Src} {o : Operands} (hquiet : c.quiet s.regs) (huni : c.uniformSrc s = true)
    (heven : s.w64 = true → isReg s.code = true → s.code.toNat % 2 = 0) (l k t u : Nat) : c.value s o l t = c.value s o k u := by
  obtain ⟨hlow, hhigh⟩ := Bool.and_eq_true_iff.1 huni
  cases hreg : isReg s.code with
  | false =>
    have hne : (s.code == 121#7) = false := by
      simpa only [Ctx.isUniform, hreg, Bool.false_eq_true, if_false, bne, Bool.not_eq_true'] using hlow
    simp only [Ctx.value, hreg, hne, Bool.false_eq_true, if_false]
  | true =>
    rw [isReg_of_regs hreg] at hquiet
    have hq : c.g.regOuts s.code.toNat = [] := hquiet _ (by split <;> simp)
    simp only [Ctx.value, hreg, if_true, regLane_of_uniform hreg hq hlow]
    split
    case isFalse => trivial
    case isTrue hw =>
      have hnext := toNat_succ_of_isReg hreg
      have hreg' : isReg (s.code + 1) = true := by
        have hlt : s.code.toNat < 120 := by simpa [isReg] using hreg
        have := heven hw hreg
        simp only [isReg, hnext, decide_eq_true_eq]
        omega
      have hq' : c.g.regOuts (s.code + 1).toNat = [] := hquiet _ (by rw [hnext]; simp [hw])
      have huni' : c.isUniform (s.code + 1) = true := by simpa [hw, hreg] using hhigh
      simp only [← hnext, regLane_of_uniform hreg' hq' huni']

/-! ## SEL and PERM -/

theorem selectForms_hold : ∀ x ∈ selectForms, x.Holds := by
  simp only [selectForms, List.forall_mem_cons, List.not_mem_nil, IsEmpty.forall_iff, implies_true, and_true]
  refine ⟨ElementForm.holds_of_elementwise (fun o s => (rfl : execSel o s = _)) (fun _ _ => rfl) ?sel,
    ElementForm.holds_of_elementwise (fun o s => (rfl : execPerm o s = _)) (fun _ _ => rfl) ?perm⟩
  case sel =>
    intro o c hallowed hcheck
    simp only [Bool.and_eq_true, Bool.not_eq_true'] at hallowed
    obtain ⟨hhazard, htags⟩ := hallowed
    exact (ite_error_of_false (pairPast_of_check hcheck) _ _).trans <| (ite_error_of_false hhazard _ _).trans <|
      (ite_error_of_false htags _ _).trans (bind_of_ok hcheck _)
  case perm =>
    intro o c _ hcheck
    refine (bind_of_ok hcheck _).trans ?_
    have hnarrow : ∀ g, (is64 g == false) = !is64 g := fun g => by cases is64 g <;> rfl
    simp only [Ctx.rawCnt, hnarrow]
    rfl

/-! ## LEA, ADDA and AFF -/

theorem residue_ofInt (x : Int) : ((BitVec.ofInt 64 x).toNat : ZMod (2 ^ srcBits true)) = x := by
  rw [BitVec.toNat_ofInt]
  exact residue_wrapInt (w64 := true) x

theorem addressForms_hold : ∀ x ∈ addressForms, x.Holds := by
  simp only [addressForms, List.forall_mem_cons, List.not_mem_nil, IsEmpty.forall_iff, implies_true, and_true]
  refine ⟨ElementForm.holds_of_affine (fun o s => (rfl : execLea o s = _)) ?lea ?leaAffine,
    ElementForm.holds_of_affine (fun o s => (rfl : execAdda o s = _)) ?adda ?addaAffine,
    ElementForm.holds_of_affine (fun o s => (rfl : execAff o s = _)) ?aff ?affAffine⟩
  case lea =>
    intro o c _ hcheck
    refine (bind_of_ok hcheck _).trans ?_
    dsimp only
    unfold addrPair addrWord leaIndex
    cases c.affineOf ⟨o.a, true, [2, 3], .zext⟩ o with
    | none => rfl
    | some x => rfl
  case adda => exact fun o c _ hcheck => bind_of_ok hcheck _
  case aff => exact fun o c hallowed hcheck => bind_of_ok (check_of_allowed hallowed hcheck) _
  case leaAffine =>
    intro o c b t l _ hquiet haff hl zs
    have ha : c.quiet (addrPair o.a).regs := hquiet _ (List.mem_cons_self ..)
    have hb : c.quiet (addrWord o.b).regs := hquiet _ (List.mem_cons_of_mem _ (List.mem_cons_self ..))
    dsimp only at haff
    split at haff
    case isFalse => cases haff
    case isTrue huni =>
      simp only [Bool.and_eq_true] at huni
      obtain ⟨x, hx, hres⟩ := Option.map_eq_some_iff.1 haff
      cases hres
      have hva := residue_value (w64 := true) rfl ha hx hl c.now
      have hvb : c.value (addrWord o.b) o l c.now = c.value (addrWord o.b) o 0 c.now :=
        value_of_uniform hb (by simp [Ctx.uniformSrc, addrWord, huni.2]) nofun ..
      refine ⟨rfl, ?_⟩
      simp only [List.map_cons, List.map_nil, List.getD_cons_zero, List.getD_cons_succ, hvb]
      rw [mod_srcBits_iff, residue_add, residue_mul, residue_ofNat, residue_ofInt]
      refine Eq.trans ?_ (residue_wrapInt (w64 := true) _).symm
      rw [Int.cast_add, Int.cast_add, Int.cast_natCast, Int.cast_natCast, hva]
      ring
  case addaAffine =>
    intro o c b t l _ hquiet haff hl zs
    have ha : c.quiet (addrPair o.a).regs := hquiet _ (List.mem_cons_self ..)
    have hb : c.quiet (addrPair o.b).regs := hquiet _ (List.mem_cons_of_mem _ (List.mem_cons_self ..))
    dsimp only at haff
    split at haff
    case isFalse => cases haff
    case isTrue =>
      split at haff
      case h_2 => cases haff
      case h_1 x y hx hy =>
        cases haff
        have hva := residue_value (w64 := true) rfl ha hx hl c.now
        have hvb := residue_value (w64 := true) rfl hb hy hl c.now
        refine ⟨rfl, ?_⟩
        simp only [List.map_cons, List.map_nil, List.getD_cons_zero, List.getD_cons_succ]
        rw [mod_srcBits_iff, residue_add, residue_mul, residue_ofNat, residue_mod64, Nat.cast_add, hva, hvb, residue_add, residue_add]
        ring
  case affAffine =>
    intro o c b t l _ hquiet haff hl zs
    have ha : c.quiet (⟨o.a, false, [c.et], .zext⟩ : Src).regs := hquiet _ (List.mem_cons_self ..)
    have hb : c.quiet (⟨o.b, false, [c.et], .zext⟩ : Src).regs := hquiet _ (List.mem_cons_of_mem _ (List.mem_cons_self ..))
    dsimp only at haff
    split at haff
    case isFalse => cases haff
    case isTrue huni =>
      simp only [Bool.and_eq_true] at huni
      split at haff
      case h_2 => cases haff
      case h_1 x y hx hy =>
        cases haff
        have hva := residue_value (w64 := false) rfl ha hx hl c.now
        have hvb := residue_value (w64 := false) rfl hb hy hl c.now
        rw [stride_of_uniform huni.1.2 hx, residue_zero, zero_mul, add_zero] at hva
        rw [stride_of_uniform huni.2 hy, residue_zero, zero_mul, add_zero] at hvb
        refine ⟨rfl, ?_⟩
        simp only [List.map_cons, List.map_nil, List.getD_cons_zero, List.getD_cons_succ]
        rw [mod_srcBits_iff, residue_add, residue_mul, residue_ofNat]
        refine Eq.trans ?_ (residue_mod (w64 := false) _).symm
        rw [Nat.cast_add, Nat.cast_mul, hva, hvb]

/-- Settles O6: each form's body comes to the common course, and the affine address is what is computed in each lane. -/
theorem selectionsAndAddressesDeliver : Obligations.SelectionsAndAddressesDeliver := by
  unfold Obligations.SelectionsAndAddressesDeliver
  intro x hx
  exact (List.mem_append.1 hx).elim (selectForms_hold x) (addressForms_hold x)

end Sys2Proof.Machine

/-! The predicates that an instruction writes (R341, R342, R344, R361, R378). -/
namespace Sys2Proof.Machine

/-! ## A write of a predicate -/

theorem inMask_merge (x y m : W64) (l : Nat) : inMask ((x &&& ~~~ m) ||| (y &&& m)) l = if inMask m l then inMask y l else inMask x l := by
  have hout : ¬ l < 64 → inMask x l = false := fun hl => BitVec.getLsbD_of_ge x l (Nat.le_of_not_lt hl)
  unfold inMask at hout ⊢
  rw [BitVec.getLsbD_or, BitVec.getLsbD_and, BitVec.getLsbD_and, BitVec.getLsbD_not]
  split
  next hm => rw [hm, Bool.not_true, Bool.and_false, Bool.and_false, Bool.false_or, Bool.and_true]
  next hm =>
    rw [Bool.eq_false_of_not_eq_true hm, Bool.not_false, Bool.and_true, Bool.and_false, Bool.or_false]
    by_cases hl : l < 64
    · simp only [hl, decide_true, Bool.and_true]
    · rw [hout hl, Bool.false_and]

/-- A write of a predicate with none outstanding changes it in the lanes of the mask, and the outstanding writes. -/
theorem writePred_quiet {c : Ctx} {k : Nat} (h : c.predQuiet k = true) (x mask : W64) (av : List Nat) :
    ∃ os, c.g.writePred k x mask av =
      { c.g with preds := lset c.g.preds k ((c.g.preds.getD k 0 &&& ~~~ mask) ||| (x &&& mask)), outs := os } := by
  unfold Group.writePred
  dsimp only
  split
  · exact ⟨_, rfl⟩
  next hne =>
    refine (hne (List.filter_eq_nil_iff.2 fun w hw hmine => ?_)).elim
    have hother := List.all_eq_true.1 h w hw
    cases hd : w.dst <;> simp_all

/-- The predicates after a write of `x` to predicate `k` in the lanes of a mask. -/
def predsAfter (ps : List W64) (k : Nat) (x mask : W64) : List W64 :=
  if mask = 0 then ps else lset ps k ((ps.getD k 0 &&& ~~~ mask) ||| (x &&& mask))

theorem predsAfter_of_ne (ps : List W64) {k j : Nat} (x mask : W64) (h : j ≠ k) : (predsAfter ps k x mask).getD j 0 = ps.getD j 0 := by
  unfold predsAfter lset
  split
  · rfl
  · rw [List.getD_eq_getElem?_getD, List.getElem?_set_ne h.symm, List.getD_eq_getElem?_getD]

theorem predsAfter_self {ps : List W64} {k : Nat} (x mask : W64) (h : k < ps.length) (l : Nat) :
    inMask ((predsAfter ps k x mask).getD k 0) l = if inMask mask l then inMask x l else inMask (ps.getD k 0) l := by
  unfold predsAfter lset
  split
  next hzero => simp [hzero, inMask]
  · rw [List.getD_eq_getElem?_getD, List.getElem?_set_self h, Option.getD_some, inMask_merge]

/-- What an effect of one predicate write and raised flags makes of the group. -/
theorem apply_pred {c : Ctx} {k : Nat} (h : c.predQuiet k = true) (x mask : W64) (u q : Bool) (fl : List (Nat × BitVec 5)) :
    ∃ os, ({ preds := [(k, x, mask)], uniform := u, flags := fl } : Effect).apply c q c.g =
      { c.g with preds := predsAfter c.g.preds k x mask, outs := os
                 flagQueue := c.g.flagQueue ++ (if q then [] else raisedOf c u fl) } := by
  obtain ⟨os, hos⟩ := writePred_quiet h x mask (c.avail u)
  have hraised : (if q then [] else fl.map fun (l, b) => FlagEvent.mk ((c.avail u).getD (l / 16) 0) l b true) ++
      ([] : List (Nat × BitVec 5)).map (fun (l, b) => FlagEvent.mk ((c.avail u).getD (l / 16) 0) l b false) =
        if q then [] else raisedOf c u fl := List.append_nil _
  unfold Effect.apply predsAfter
  simp only [List.foldl_nil, List.foldl_cons, beq_iff_eq, List.append_assoc, hraised]
  split
  · exact ⟨_, rfl⟩
  · exact ⟨os, by rw [hos]⟩

/-- An instruction whose effect is one predicate write and raised flags delivers it. -/
theorem runAlu_deliversPred {op : Nat} {o : Operands} {tm : Ctx → Timing} {s : State} {c : Ctx} {body : Ctx → Except Trap Effect}
    {x : W64} {fl : List (Nat × BitVec 5)} (hissue : Issues op o tm s c) (r : PredResult) (hk : r.k < c.g.preds.length)
    (hquiet : c.predQuiet r.k = true) (hbody : body c = .ok { preds := [(r.k, x, r.mask)], uniform := r.uniform, flags := fl })
    (hbits : ∀ l, l < 64 → inMask r.mask l = true → inMask x l = (r.out l).1)
    (hflags : raisedOf c r.uniform fl = (lanesOf c.mask).filterMap fun l =>
      if (r.out l).2 == 0 then none else some (FlagEvent.mk ((c.avail r.uniform).getD (l / 16) 0) l (r.out l).2 true)) :
    ∃ t, runAlu op o tm s body = .next t ∧ DeliversPred s t c o r := by
  obtain ⟨os, happly⟩ := apply_pred hquiet x r.mask r.uniform o.q fl
  obtain ⟨sp, jn, p, hgroup⟩ := issued_advance_eq c op o
    (({ preds := [(r.k, x, r.mask)], uniform := r.uniform, flags := fl } : Effect).apply c o.q c.g)
  rw [happly] at hgroup
  refine ⟨_, runAlu_ok hissue hbody, afterIssue_frame .., _, (afterIssue_group ..).trans (congrArg some ((congrArg _ (congrArg _ happly)).trans hgroup)),
    rfl, rfl, rfl, rfl, rfl, ?_, ?_, ?_⟩
  · exact fun j hj => predsAfter_of_ne _ _ _ hj
  · intro l hl
    refine (predsAfter_self x r.mask hk l).trans ?_
    split
    next hm => rw [hbits l hl hm]
    · rfl
  · exact congrArg (fun e => c.g.flagQueue ++ if o.q then [] else e) hflags

/-! ## A test of each lane -/

/-- What the test of a lane finds, kept in the lanes of the mask. -/
theorem predResult_lane {c : Ctx} {o : Operands} (ss : List Src) (uniformOk : Bool) (fn : Nat → List Nat → Bool × Flags) {l : Nat}
    (hl : l < 64) (hm : inMask c.mask l = true) :
    (((List.range 64).map fun l =>
      if inMask c.mask l then
        let l' := if uniformOk && ss.all c.uniformSrc then lowLane c.mask else l
        fn l' (ss.map fun s => c.value s o l' (if uniformOk && ss.all c.uniformSrc then c.now else c.laneTime l))
      else (false, 0)).getD l (false, 0)) = c.testOf o ss uniformOk fn l := by
  simp only [List.getD_eq_getElem?_getD, List.getElem?_map, List.getElem?_range hl, Option.map_some, Option.getD_some, hm, if_true,
    Ctx.testOf, Ctx.uniformPath]
  rfl

/-- A form that tests each lane holds once its body is that test. -/
theorem PredForm.holds_of_test {x : PredForm} {body : Operands → Ctx → Except Trap Effect} {ss : Ctx → Operands → List Src}
    {uniformOk : Bool} {fn : Ctx → Operands → Nat → List Nat → Bool × Flags}
    (hexec : ∀ o s, exec (x.con o) s = runAlu x.op o x.tm s (body o))
    (hresult : ∀ c o, x.result c o = c.testResult o (ss c o) uniformOk (fn c o))
    (hbody : ∀ o c, x.allowed c o = true → c.check true (x.srcs c o) 120#7 false [] x.own = .ok () →
      body o c = .ok (c.predResult o (ss c o) o.d.toNat uniformOk (fn c o))) : x.Holds := by
  intro o s c hissue hallowed hcheck hd hlength hquiet
  rw [hexec, hresult]
  refine runAlu_deliversPred hissue (c.testResult o (ss c o) uniformOk (fn c o)) (hlength ▸ hd) hquiet (hbody o c hallowed hcheck)
    (fun l hl hm => ?_) ?_
  · rw [inMask_maskOf _ _ hl]
    exact congrArg Prod.fst (predResult_lane (ss c o) uniformOk (fn c o) hl hm)
  · refine (filterMap_map _ (fun l => (c.avail (c.uniformPath (ss c o) uniformOk)).getD (l / 16) 0) _).trans
      (List.filterMap_congr fun l hl => ?_)
    have hm : inMask c.mask l = true := by simpa [lanesOf] using (List.mem_filter.1 hl).2
    have hlane := predResult_lane (o := o) (ss c o) uniformOk (fn c o) (inMask_lt _ _ hm) hm
    dsimp only at hlane ⊢
    rw [hlane]
    rfl

/-- A form that writes bits which it has at once holds once its body is that write. -/
theorem PredForm.holds_of_bits {x : PredForm} {body : Operands → Ctx → Except Trap Effect} {bits : Ctx → Operands → W64}
    (hexec : ∀ o s, exec (x.con o) s = runAlu x.op o x.tm s (body o)) (hk : ∀ c o, (x.result c o).k = o.d.toNat)
    (hbits : ∀ c o l, l < 64 → (x.result c o).out l = (inMask (bits c o) l, 0))
    (hbody : ∀ o c, x.allowed c o = true → c.check true (x.srcs c o) 120#7 false [] x.own = .ok () →
      body o c = .ok { preds := [(o.d.toNat, bits c o, (x.result c o).mask)], uniform := (x.result c o).uniform }) : x.Holds := by
  intro o s c hissue hallowed hcheck hd hlength hquiet
  rw [hexec]
  have hd' : (x.result c o).k < c.g.preds.length := by rwa [hk, hlength]
  refine runAlu_deliversPred hissue (x.result c o) hd' (by rwa [hk]) (fl := []) (x := bits c o) (by rw [hk, hbody o c hallowed hcheck])
    (fun l hl _ => by rw [hbits c o l hl]) ?_
  refine (List.filterMap_eq_nil_iff.2 fun l hl => ?_).symm
  have hm : inMask c.mask l = true := by simpa [lanesOf] using (List.mem_filter.1 hl).2
  rw [hbits c o l (inMask_lt _ _ hm)]
  rfl

/-- Settles O10: ICMP, FCMP, PSET and PLOG test each lane, and PMOV and VOTE write bits that they have at once. -/
theorem predicateWritesDeliver : Obligations.PredicateWritesDeliver := by
  unfold Obligations.PredicateWritesDeliver
  simp only [predForms, List.forall_mem_cons, List.not_mem_nil, IsEmpty.forall_iff, implies_true, and_true]
  refine ⟨PredForm.holds_of_test (fun o s => (rfl : execIcmp o s = _)) (fun _ _ => rfl) ?icmp,
    PredForm.holds_of_test (fun o s => (rfl : execFcmp o s = _)) (fun _ _ => rfl) ?fcmp,
    PredForm.holds_of_test (fun o s => (rfl : execPset o s = _)) (fun _ _ => rfl) ?pset,
    PredForm.holds_of_test (fun o s => (rfl : execPlog o s = _)) (fun _ _ => rfl) ?plog,
    PredForm.holds_of_bits (bits := fun c o => BitVec.ofNat 64 (c.single o o.a true)) (fun o s => (rfl : execPmov o s = _))
      (fun _ _ => rfl) (fun _ _ _ _ => rfl) ?pmov,
    PredForm.holds_of_bits (bits := fun c o => if c.vote o then fullMask else 0) (fun o s => (rfl : execVote o s = _))
      (fun _ _ => rfl) ?voteBits ?vote⟩
  case icmp => exact fun o c hallowed hcheck => bind_of_ok (check_of_allowed hallowed hcheck) _
  case fcmp => exact fun o c hallowed hcheck => bind_of_ok (check_of_allowed hallowed hcheck) _
  case pset => exact fun o c _ hcheck => bind_of_ok hcheck _
  case plog => exact fun o c hallowed _ => ite_error_of_false (by simpa using hallowed) _ _
  case pmov => exact fun o c _ hcheck => bind_of_ok hcheck _
  case vote => exact fun o c hallowed _ => ite_error_of_false (by simpa using hallowed) _ _
  case voteBits =>
    intro c o l hl
    dsimp only
    cases c.vote o with
    | true => rw [if_pos rfl, inMask_full l hl]
    | false => simp [inMask]

end Sys2Proof.Machine

/-! The instructions that write state of their group (R310, R332, R353, R355, R356, R370, R406). -/
namespace Sys2Proof.Machine

/-! ## An instruction that changes its group and goes on -/

section
variable {op : Nat} {o : Operands} {tm : Ctx → Timing} {s : State} {c : Ctx} {g : Group} {uni : Bool} {P : Group → Prop}
  {x : Host.Outcome State Fault Refusal} (h : Issues op o tm s c)
include h

/-- An instruction that goes on at the next one changes of the group that it makes only fragments, records and parking. -/
theorem runGroup_goesOn {body : Ctx → Except Trap (Group × Bool)} (hexec : x = runGroup op o tm s body) (hbody : body c = .ok (c.advance op o g, uni))
    (hP : ∀ sp jn p, P { g with split := sp, joins := jn, parkedAt := p }) :
    ∃ t g', x = .next t ∧ MachineFrame s t c ∧ t.group? c.core c.slot = some g' ∧ P g' := by
  obtain ⟨sp, jn, p, hgroup⟩ := issued_advance_eq c op o g
  obtain ⟨t, hnext, hframe, hleaves⟩ := runGroup_leaves h hbody
  exact ⟨t, _, hexec.trans hnext, hframe, hgroup ▸ hleaves, hP sp jn p⟩

theorem runAlu_goesOn {body : Ctx → Except Trap Effect} {e : Effect} (hexec : x = runAlu op o tm s body) (hbody : body c = .ok e)
    (hP : ∀ sp jn p, P { e.apply c o.q c.g with split := sp, joins := jn, parkedAt := p }) :
    ∃ t g', x = .next t ∧ MachineFrame s t c ∧ t.group? c.core c.slot = some g' ∧ P g' :=
  runGroup_goesOn (uni := e.uniform) h hexec (by rw [hbody]) hP

end

section
variable {o : Operands} {s : State} {c : Ctx}

/-! ## WRSR (R353, R354) -/

theorem srBad_of_writable {w64 : Bool} (hinfo : srInfo o.lit.toNat = some (w64, true)) :
    srBad 0x0E o = (w64 && isReg o.a && o.a.toNat % 2 == 1) := by
  simp only [srBad, hinfo, Bool.and_assoc]

theorem srBad_of_not_writable (hinfo : ∀ w64, srInfo o.lit.toNat ≠ some (w64, true)) : srBad 0x0E o = true := by
  unfold srBad
  cases hsr : srInfo o.lit.toNat with
  | none => rfl
  | some x =>
    match x, hsr with
    | (_, false), _ => rfl
    | (w64, true), hsr => exact absurd hsr (hinfo w64)

/-- The registers that WRSR may write are HPC, HMODE and HEXEC (R354). -/
theorem srInfo_writable {n : Nat} {w64 : Bool} (hinfo : srInfo n = some (w64, true)) : n = 0x40 ∨ n = 0x41 ∨ n = 0x42 := by
  unfold srInfo at hinfo
  split at hinfo
  · cases hinfo
  · split at hinfo
    · cases hinfo
    · split at hinfo
      next hn => simp only [Bool.or_eq_true, beq_iff_eq] at hn; omega
      · split at hinfo
        next hn => simp only [beq_iff_eq] at hn; omega
        · cases hinfo

/-- The group after a WRSR with a value (R353). -/
def Group.srWritten (g : Group) (active : Bool) (n : W32) (v : Nat) : Group :=
  if !active || !g.handler then g
  else if n == 0x40#32 then { g with hpc := BitVec.ofNat 64 (v / 4 * 4) }
  else if n == 0x41#32 then { g with hmode := BitVec.ofNat 32 v }
  else { g with hexec := BitVec.ofNat 64 v }

theorem srWritten_frame (g : Group) (active : Bool) (n : W32) (v : Nat) :
    { g.srWritten active n v with hpc := g.hpc, hmode := g.hmode, hexec := g.hexec } = g := by
  unfold Group.srWritten
  repeat' split
  all_goals rfl

theorem srWritten_idle {g : Group} {active : Bool} {n : W32} {v : Nat} (h : active = false ∨ g.handler = false) :
    g.srWritten active n v = g := by
  unfold Group.srWritten
  rcases h with h | h <;> simp [h]

theorem srWritten_handler {g : Group} {n : W32} {v : Nat} (hh : g.handler = true) (hn : n = 0x40#32 ∨ n = 0x41#32 ∨ n = 0x42#32) :
    (g.srWritten true n v).hpc = (if n = 0x40#32 then BitVec.ofNat 64 (v / 4 * 4) else g.hpc) ∧
    (g.srWritten true n v).hmode = (if n = 0x41#32 then BitVec.ofNat 32 v else g.hmode) ∧
    (g.srWritten true n v).hexec = (if n = 0x42#32 then BitVec.ofNat 64 v else g.hexec) := by
  unfold Group.srWritten
  rcases hn with rfl | rfl | rfl <;> simp [hh]

theorem execWrsr_body {w64 : Bool} (hinfo : srInfo o.lit.toNat = some (w64, true)) (heven : (w64 && isReg o.a && o.a.toNat % 2 == 1) = false)
    (hmode : c.mask ≠ 0 → c.g.handler = true → o.lit = 0x41#32 → modeAllowed (c.single o o.a w64) = true)
    (hcheck : c.check true [⟨o.a, w64, [], .zext⟩] 120#7 false = .ok ()) :
    ∃ body, (∀ s, execWrsr o s = runGroup 0x0E o wrsrTiming s body) ∧
      body c = .ok (c.advance 0x0E o (c.g.srWritten (c.mask != 0) o.lit (c.single o o.a w64)), true) := by
  refine ⟨_, fun _ => rfl, ?_⟩
  have hpasses : (c.mask != 0 && c.g.handler && o.lit == 0x41#32 && !modeAllowed (c.single o o.a w64)) = false := by
    by_contra hbad
    simp only [Bool.not_eq_false, Bool.and_eq_true, bne_iff_ne, beq_iff_eq, Bool.not_eq_true'] at hbad
    obtain ⟨⟨⟨hmask, hhandler⟩, hlit⟩, hbad⟩ := hbad
    exact absurd (hmode hmask hhandler hlit) (by simp [hbad])
  have hmask : (!(c.mask != 0)) = (c.mask == 0) := by simp [bne]
  simp only [srBad_of_writable hinfo, heven, hinfo, hpasses, hcheck, Bool.false_eq_true, if_false, Group.srWritten, hmask, bind, Except.bind]

/-! ## EVCLR (R406) -/

/-- The descriptors after an EVCLR that names some of them: their KIND is 0. -/
def clearedDescriptors (evd : List (W64 × W64)) (v : Nat) : List (W64 × W64) :=
  evd.zipIdx.map fun (d, k) => if (v / 256).testBit k then (d.1 &&& BitVec.ofNat 64 (2 ^ 60 - 1), d.2) else d

theorem clearedDescriptors_getD {evd : List (W64 × W64)} {k : Nat} (hk : k < evd.length) (v : Nat) :
    (clearedDescriptors evd v).getD k (0, 0) =
      if (v / 256).testBit k then ((evd.getD k (0, 0)).1 &&& BitVec.ofNat 64 (2 ^ 60 - 1), (evd.getD k (0, 0)).2) else evd.getD k (0, 0) := by
  simp [clearedDescriptors, List.getD_eq_getElem?_getD, hk]

end

/-! ## The statement -/

/-- Settles O12: each instruction's body once its operands pass the checks, and what its effect changes of the group. -/
theorem groupStateWrites : Obligations.GroupStateWrites := by
  unfold Obligations.GroupStateWrites
  refine ⟨?mode, ?modeTrap, ?wrsr, ?wrsrTrap, ?boost, ?srseed, ?flgclr, ?evclr⟩
  case mode =>
    intro o s c h hallowed hcheck
    exact runAlu_goesOn h (rfl : execMode o s = _) (e := { mode := some (BitVec.ofNat 32 (c.single o o.a)), uniform := true })
      (by simp [hallowed, hcheck, bind, Except.bind]) fun sp jn p => ⟨rfl, by simp [Effect.apply]⟩
  case modeTrap => exact fun o s c h hallowed => (rfl : execMode o s = _).trans (runAlu_trap h (by simp [hallowed]))
  case wrsr =>
    intro o s c w64 h hinfo heven hmode hcheck
    obtain ⟨body, hexec, hbody⟩ := execWrsr_body hinfo heven hmode hcheck
    refine runGroup_goesOn h (hexec s) hbody fun sp jn p => ⟨?_, ?_, ?_⟩
    · exact congrArg (fun g : Group => { g with split := c.g.split, joins := c.g.joins, parkedAt := c.g.parkedAt }) (srWritten_frame ..)
    · intro hidle
      dsimp only
      rw [srWritten_idle (hidle.imp_left fun hmask => by simp [hmask])]
      exact ⟨rfl, rfl, rfl⟩
    · intro hmask hhandler
      have hactive : (c.mask != 0) = true := by simpa using hmask
      dsimp only
      rw [hactive]
      refine srWritten_handler hhandler ((srInfo_writable hinfo).imp ?_ (Or.imp ?_ ?_)) <;> exact fun hn => BitVec.eq_of_toNat_eq hn
  case wrsrTrap => exact fun o s c h hinfo => (rfl : execWrsr o s = _).trans (runGroup_trap h (by simp [srBad_of_not_writable hinfo]))
  case boost =>
    intro o s c h hcheck
    by_cases hmask : c.mask = 0
    · exact runGroup_goesOn (uni := true) (g := c.g) h (rfl : execBoost o s = _) (by simp [hcheck, hmask, bind, Except.bind])
        fun sp jn p => ⟨(if_pos hmask).symm, rfl⟩
    · exact runGroup_goesOn (uni := true) (g := { c.g with boost := c.single o o.a != 0 }) h (rfl : execBoost o s = _)
        (by simp only [hcheck, hmask, bind, Except.bind, beq_iff_eq, if_false]) fun sp jn p => ⟨(if_neg hmask).symm, rfl⟩
  case srseed =>
    intro o s c h hcheck
    by_cases hmask : c.mask = 0
    · refine runAlu_goesOn h (rfl : execSrseed o s = _) (e := { uniform := c.isUniform o.a }) (by simp [hcheck, hmask, bind, Except.bind]) fun sp jn p => ?_
      simp [Effect.apply, hmask]
    · refine runAlu_goesOn h (rfl : execSrseed o s = _) (by simp only [hcheck, hmask, bind, Except.bind, beq_iff_eq, if_false]; rfl) fun sp jn p => ?_
      exact ⟨by simp [Effect.apply], (if_neg hmask).symm⟩
  case flgclr =>
    intro o s c h hcheck
    refine runAlu_goesOn h (rfl : execFlgclr o s = _) (by rw [hcheck]; rfl) fun sp jn p => ?_
    simp [Effect.apply, Function.comp_def]
  case evclr =>
    intro o s c h hcheck
    refine runGroup_goesOn (uni := true) h (rfl : execEvclr o s = _) (g := { c.g with
      pev := c.g.pev &&& ~~~ BitVec.ofNat 8 (c.single o o.a), evd := clearedDescriptors c.g.evd (c.single o o.a) })
      (by rw [hcheck]; rfl) fun sp jn p => ⟨rfl, rfl, fun k hk => ?_⟩
    dsimp only
    rw [clearedDescriptors_getD hk]
    split <;> exact ⟨rfl, rfl⟩

end Sys2Proof.Machine

/-! The control instructions: branches, calls, exits and traps (R206 to R208, R247, R249, R329 to R339, R351, R352). -/
namespace Sys2Proof.Machine

/-! ## NOP, BRA, RET, JOIN and YIELD -/

theorem extractLow_ofNat (v : Nat) : (BitVec.ofNat 64 v).extractLsb' 0 2 = 0#2 ↔ v % 4 = 0 := by
  rw [← BitVec.toNat_inj]
  simp only [BitVec.extractLsb'_toNat, BitVec.toNat_ofNat, Nat.shiftRight_zero]
  omega

section
variable {op : Nat} {o : Operands} {s : State} {c : Ctx} {x : Host.Outcome State Fault Refusal}

theorem target_ok (hcheck : c.check true [⟨o.a, true, [], .zext⟩] 120#7 false [] false = .ok ()) :
    c.target o = .ok (BitVec.ofNat 64 (c.single o o.a true)) := by
  unfold Ctx.target
  rw [hcheck]
  rfl

theorem jumpTo_goes (h : Issues op o ctlTiming s c)
    (hcheck : c.check true [⟨o.a, true, [], .zext⟩] 120#7 false [] false = .ok ()) (haligned : c.single o o.a true % 4 = 0) :
    ∃ t, jumpTo op o s = .next t ∧ Leaves s t c o (c.branched (c.g.goTo c.entry (BitVec.ofNat 64 (c.single o o.a true)))) := by
  refine runGroup_leaves (uni := true) h ?_
  rw [target_ok hcheck]
  exact bind_of_ok (jumpCheck_aligned ((extractLow_ofNat _).2 haligned) 255) _

theorem jumpTo_misaligned (h : Issues op o ctlTiming s c)
    (hcheck : c.check true [⟨o.a, true, [], .zext⟩] 120#7 false [] false = .ok ()) (hmis : c.single o o.a true % 4 ≠ 0) :
    jumpTo op o s = .next (s.takeTrap c (.misaligned 255 (BitVec.ofNat 64 (c.single o o.a true)))) := by
  refine runGroup_trap h ?_
  rw [target_ok hcheck]
  dsimp only [bind, Except.bind]
  rw [jumpCheck_misaligned (fun hlow => hmis ((extractLow_ofNat _).1 hlow))]

end

/-- Settles O13: each instruction's body, with the rule for a branch to a register's address shared by BRA and RET. -/
theorem branchesGo : Obligations.BranchesGo := by
  unfold Obligations.BranchesGo
  refine ⟨fun o s c h => ?nop, fun o s c h hcheck haligned => ?bra, fun o s c h hcheck hmis => ?braMisaligned, fun o s c h => ?braLabel,
    fun o s c h hcheck haligned => ?ret, fun o s c k h hrec => ?join, fun o s c h hrec => ?joinNone, fun o s c h => ?yield⟩
  case nop =>
    have hexec : exec (.nop o) s = execNop o s := rfl
    exact hexec ▸ runGroup_leaves (uni := true) h rfl
  case bra =>
    have hexec : exec (.bra o) s = jumpTo 0x03 o s := rfl
    exact hexec ▸ jumpTo_goes h hcheck haligned
  case braMisaligned =>
    have hexec : exec (.bra o) s = jumpTo 0x03 o s := rfl
    exact hexec.trans (jumpTo_misaligned h hcheck hmis)
  case braLabel =>
    have hexec : exec (.braLabel o) s = execBraLabel o s := rfl
    exact hexec ▸ runGroup_leaves (uni := true) h rfl
  case ret =>
    have hexec : exec (.ret o) s = jumpTo 0x08 o s := rfl
    exact hexec ▸ jumpTo_goes h hcheck haligned
  case join =>
    have hexec : exec (.join o) s = execJoin o s := rfl
    exact hexec ▸ runGroup_leaves (uni := true) h (by simp only [hrec])
  case joinNone =>
    have hexec : exec (.join o) s = execJoin o s := rfl
    exact hexec ▸ runGroup_leaves (uni := true) h (by simp only [hrec])
  case yield =>
    have hexec : exec (.yield o) s = execYield o s := rfl
    exact hexec ▸ runGroup_leaves (uni := true) h rfl

/-! ## EXIT, TRAP and RFT -/

section
variable {o : Operands} {s : State} {c : Ctx}

theorem execExit_idle (h : Issues 0x09 o ctlTiming s c) (hmask : c.mask = 0) :
    ∃ t, execExit o s = .next t ∧ Leaves s t c o (c.advance 0x09 o c.g) := by
  refine runState_leaves (uni := true) h ?_
  simp [hmask]

theorem execExit_handler (h : Issues 0x09 o ctlTiming s c) (hmask : c.mask ≠ 0) (hhandler : c.g.handler = true) :
    execExit o s = .next ((s.afterIssue c o 1 { c.g with split := [], joins := [], exited := fullMask }).exitGroup c.core c.slot) := by
  refine runState_stall h ?_
  simp only [hmask, hhandler, beq_iff_eq, if_false, if_true]
  rfl

/-- The lanes of a group leave it: the group gives up its slot with its last ones, and goes on otherwise. -/
theorem execExit_gone (h : Issues 0x09 o ctlTiming s c) (hmask : c.mask ≠ 0) (hhandler : c.g.handler = false)
    (hgone : (c.g.exitLanes c.entry c.mask).gone = true) :
    execExit o s = .next ((s.afterIssue c o 1 (c.g.exitLanes c.entry c.mask)).exitGroup c.core c.slot) := by
  refine runState_stall h ?_
  simp only [hmask, hhandler, hgone, beq_iff_eq, Bool.false_eq_true, if_false, if_true]

/-- What an EXIT leaves of a group that it does not end: its BAR holds what the group has issued, and lanes that stay in the fragment go on. -/
def Ctx.exitRest (c : Ctx) (o : Operands) (s : State) (g : Group) : Group :=
  let g := if g.barSet == 0 then g else { g with barHold := (g.barHold ++ s.accessesOf g.uid).eraseDups }
  match tget? g.split c.entry with
  | some _ => if c.f.mask &&& ~~~ c.mask != 0 then c.advance 0x09 o g else g
  | none => g

/-- It changes only fragments, records and the BAR's accesses. -/
theorem exitRest_eq (o : Operands) (s : State) (c : Ctx) (g : Group) :
    ∃ sp jn b, c.exitRest o s g = { g with split := sp, joins := jn, barHold := b } := by
  unfold Ctx.exitRest
  obtain ⟨b, hhold⟩ : ∃ b, (if g.barSet == 0 then g else { g with barHold := (g.barHold ++ s.accessesOf g.uid).eraseDups }) =
      { g with barHold := b } := by split <;> exact ⟨_, rfl⟩
  rw [hhold]
  dsimp only
  split
  · split
    · obtain ⟨sp, jn, hgo⟩ := goTo_eq { g with barHold := b } c.entry (c.f.pc + BitVec.ofNat 64 (instrBytes 0x09 o))
      exact ⟨sp, jn, b, hgo⟩
    · exact ⟨g.split, g.joins, b, rfl⟩
  · exact ⟨g.split, g.joins, b, rfl⟩

theorem arrive_team (g : Group) (e fuel : Nat) : (g.arrive e fuel).team = g.team := by
  obtain ⟨sp, jn, h⟩ := arrive_eq g e fuel
  rw [h]

theorem closeEmpty_team (g : Group) (e fuel : Nat) : (g.closeEmpty e fuel).team = g.team := by
  induction fuel generalizing g with
  | zero => rfl
  | succ n ih =>
    unfold Group.closeEmpty
    split
    · rfl
    · split
      · rfl
      · split
        · exact ih _
        · rfl

theorem exitLanes_team (g : Group) (e : Nat) (lanes : W64) : (g.exitLanes e lanes).team = g.team := by
  unfold Group.exitLanes
  split
  · rfl
  · extract_lets recs g1 g2
    have hclosed : g2.team = g.team := closeEmpty_team g1 e 17
    split
    · exact hclosed
    · split
      · exact hclosed
      · split
        · exact hclosed
        · exact (arrive_team ..).trans hclosed

theorem execExit_rest (h : Issues 0x09 o ctlTiming s c) (hmask : c.mask ≠ 0) (hhandler : c.g.handler = false)
    (hgone : (c.g.exitLanes c.entry c.mask).gone = false) :
    execExit o s = .next (((s.afterIssue c o 1 (c.exitRest o s (c.g.exitLanes c.entry c.mask))).lateArrivals c.core c.slot).noteArrivals
      c.g.team) := by
  have hteam : (c.exitRest o s (c.g.exitLanes c.entry c.mask)).team = c.g.team := by
    obtain ⟨sp, jn, b, hrest⟩ := exitRest_eq o s c (c.g.exitLanes c.entry c.mask)
    rw [hrest]
    exact exitLanes_team ..
  refine runState_stall h ?_
  rw [← hteam]
  simp only [hmask, hhandler, hgone, beq_iff_eq, Bool.false_eq_true, if_false, Ctx.exitRest] <;> rfl

end

/-- Settles O16: EXIT by what is left of the group, TRAP and RFT by their bodies. -/
theorem exitsAndTraps : Obligations.ExitsAndTraps := by
  unfold Obligations.ExitsAndTraps
  refine ⟨fun o s c h => ?exit, fun o s c h hcheck => ?trap, fun o s c h => ?rft, fun op b q s c hc => ?unassigned⟩
  case exit =>
    have hexec : exec (.exit o) s = execExit o s := rfl
    rw [hexec]
    refine ⟨execExit_idle h, execExit_handler h, execExit_gone h, fun hmask hhandler hgone => ⟨_, execExit_rest h hmask hhandler hgone, ?_⟩⟩
    obtain ⟨sp, jn, b, hrest⟩ := exitRest_eq o s c (c.g.exitLanes c.entry c.mask)
    rw [hrest]
    exact ⟨rfl, rfl⟩
  case trap =>
    have hexec : exec (.trap o) s = execTrap o s := rfl
    rw [hexec]
    refine ⟨fun hmask => runState_leaves (uni := true) h ?_, fun hmask => runState_stall h ?_⟩
    · rw [hcheck]; simp [hmask, bind, Except.bind]
    · rw [hcheck]; simp only [hmask, beq_iff_eq, if_false, bind, Except.bind]; rfl
  case rft =>
    have hexec : exec (.rft o) s = execRft o s := rfl
    rw [hexec]
    exact ⟨fun hhandler => runState_trap h (by simp [hhandler]), fun hhandler => runState_stall h (by simp [hhandler])⟩
  case unassigned =>
    have hexec : exec (.unassignedOpcode op b q) s = execUnassignedOpcode op b q s := rfl
    rw [hexec, execUnassignedOpcode, hc]

/-! ## CALL -/

/-- A module whose fragment stands at an address that is not a multiple of 4. -/
def oddCall : State :=
  { State.reset with
    cur := some { core := 0, slot := 0, entry := 0 }
    groups := [(0, { split := [(0, { mask := fullMask, pc := 1 })] })] }

/-- A literal CALL that names no register for its return address. -/
def oddCallWords : Operands := ⟨false, false, 120, 120, 120, 120, 0, 0⟩

/-- What the fragment sees as it issues the CALL. -/
def oddCallCtx : Ctx := { (oddCall.ctx? ⟨.ctl, 1, 1, true⟩).get (by decide +kernel) with tm := ⟨.ctl, 4, 1, true⟩ }

theorem oddCall_issues : Issues 0x07 oddCallWords callTiming oddCall oddCallCtx :=
  ⟨_, (Option.some_get _).symm, rfl, by decide +kernel, by decide +kernel⟩

/-- The address of the instruction that the module's fragment issued last. -/
def lastPcAfter (o : Host.Outcome State Fault Refusal) : Option W64 :=
  match o with
  | .next t => (t.frag? 0 0 0).map fun e => e.2.lastPc
  | _ => none

/-- The CALL traps, and so it has not issued. -/
theorem oddCall_traps : lastPcAfter (exec (.callLabel oddCallWords) oddCall) ≠ some 1 := by decide +kernel

/-- Refutes O14: its clause on a literal CALL does not say that the fragment's PC is a multiple of 4, and from one that is not the
target is Misaligned. -/
theorem not_callsLink : ¬ Obligations.CallsLink := by
  unfold Obligations.CallsLink
  rintro ⟨-, hliteral, -⟩
  obtain ⟨t, hnext, -, hgroup⟩ := hliteral oddCallWords oddCall oddCallCtx {} oddCall_issues (by decide +kernel) rfl
  have htraps := oddCall_traps
  rw [hnext] at htraps
  refine htraps ?_
  have hcore : oddCallCtx.core = 0 ∧ oddCallCtx.slot = 0 := by decide +kernel
  rw [hcore.1, hcore.2] at hgroup
  simp only [lastPcAfter, State.frag?, hgroup]
  decide +kernel

end Sys2Proof.Machine

/-! The results that come from many lanes, from a predicate or from the machine (R342, R353, R373, R374, R376, R377, R379). -/
namespace Sys2Proof.Machine

/-! ## An instruction whose body is one result -/

theorem lowLane_lt (m : W64) : lowLane m < 64 := by
  unfold lowLane
  cases h : (List.range 64).find? fun l => inMask m l with
  | none => decide
  | some l => exact List.mem_range.1 (List.mem_of_find?_eq_some h)

/-- An effect that raises no flag, steps no state and is not on the uniform path. -/
def Effect.plain (e : Effect) : Effect := { e with sr := none, uniform := false, flags := [] }

/-- A result by itself raises no flag, steps no state and is not marked uniform. -/
theorem effect_of_result {c : Ctx} {d : Code} {w64 : Bool} {fmt cnt : Nat} {r : ResVal} {mask : W64} {e : Effect}
    (h : c.result d w64 fmt cnt r mask = .ok e) : e = e.plain := by
  unfold Ctx.result at h
  split at h
  · cases h; rfl
  · split at h
    · cases r <;> cases h
      rfl
    · extract_lets n top vals at h
      by_cases hshape : (r.isGeneral mask && decide (top ≥ c.g.g)) = true
      · rw [if_pos hshape] at h; cases h
      · rw [if_neg hshape] at h; cases h; rfl

theorem result_bind_congr {c : Ctx} {d : Code} {w64 : Bool} {fmt cnt : Nat} {r : ResVal} {mask : W64} {f g : Effect → Except Trap Effect}
    (h : ∀ e : Effect, f e.plain = g e.plain) :
    (c.result d w64 fmt cnt r mask >>= f) = c.result d w64 fmt cnt r mask >>= g := by
  cases hres : c.result d w64 fmt cnt r mask with
  | error t => rfl
  | ok e =>
    have he := effect_of_result hres
    exact (congrArg f he).trans ((h e).trans (congrArg g he).symm)

theorem result_bind_plain (c : Ctx) (d : Code) (w64 : Bool) (fmt cnt : Nat) (r : ResVal) (mask : W64) :
    (c.result d w64 fmt cnt r mask >>= fun e => .ok e.plain) = c.result d w64 fmt cnt r mask := by
  cases hres : c.result d w64 fmt cnt r mask with
  | error t => rfl
  | ok e => exact congrArg Except.ok (effect_of_result hres).symm

/-- An instruction whose body is a result, with the flags that it raises in its lanes, delivers it. -/
theorem runAlu_result {op : Nat} {o : Operands} {tm : Ctx → Timing} {s : State} {c : Ctx} {body : Ctx → Except Trap Effect}
    (h : Issues op o tm s c) (r : ElementResult) (rv : ResVal) (fl : List (Nat × BitVec 5))
    (hbody : body c = c.result r.dst r.w64 r.fmt r.cnt rv c.mask >>= fun e => .ok { e with sr := r.sr, uniform := r.uniform, flags := fl })
    (htakes : c.takes r.dst r.w64 rv.isUni rv.isAff = true) (hquiet : c.quiet (dstRegs r.dst r.w64))
    (hexec : r.dst = 123#7 → c.execQuiet = true) (hvalue : ∀ l, l < 64 → rv.at l = (r.out l).1)
    (hflags : raisedOf c r.uniform fl = (lanesOf c.mask).filterMap fun l =>
      if (r.out l).2 == 0 then none else some (FlagEvent.mk ((c.avail r.uniform).getD (l / 16) 0) l (r.out l).2 true)) :
    ∃ t, runAlu op o tm s body = .next t ∧ Delivers s t c o r := by
  obtain ⟨e, he⟩ : ∃ e, c.result r.dst r.w64 r.fmt r.cnt rv c.mask = .ok e := by
    rcases result_ok c r.dst r.w64 r.fmt r.cnt rv htakes with ⟨-, he⟩ | ⟨-, v, -, he⟩ | ⟨-, -, gen, he⟩ <;> exact ⟨_, he⟩
  refine runAlu_delivers h r rv r.sr fl he (hbody.trans (bind_of_ok he _)) htakes hquiet hexec (fun l hl _ => ?_) (fun v hv => ?_) hflags rfl
  · rw [hvalue l hl]
    exact ⟨rfl, fun _ => rfl⟩
  · rw [← hvalue _ (lowLane_lt _), hv]
    rfl

/-- A form holds once its body, past its checks, is a result with the value of each lane and its flags. -/
theorem ResultForm.holds_of_result {x : ResultForm} {body : Operands → Ctx → Except Trap Effect} {rv : Ctx → Operands → ResVal}
    {fl : Ctx → Operands → List (Nat × BitVec 5)} (hexec : ∀ o s, exec (x.con o) s = runAlu x.op o x.tm s (body o))
    (hdst : ∀ s c o, (x.result s c o).dst = o.d ∧ (x.result s c o).w64 = x.w64 c o)
    (hbody : ∀ o s c, x.allowed s c o = true → c.check true (x.srcs c o) o.d (x.w64 c o) = .ok () →
      body o c = c.result (x.result s c o).dst (x.result s c o).w64 (x.result s c o).fmt (x.result s c o).cnt (rv c o) c.mask >>=
        fun e => .ok { e with sr := (x.result s c o).sr, uniform := (x.result s c o).uniform, flags := fl c o })
    (hshape : ∀ c o, (rv c o).isUni = x.one c o ∧ (rv c o).isAff = false)
    (hvalue : ∀ o s c, c.check true (x.srcs c o) o.d (x.w64 c o) = .ok () → (∀ s ∈ x.srcs c o, c.quiet s.regs) →
      ∀ l, l < 64 → (rv c o).at l = ((x.result s c o).out l).1)
    (hflags : ∀ o s c, raisedOf c (x.result s c o).uniform (fl c o) = (lanesOf c.mask).filterMap fun l =>
      if ((x.result s c o).out l).2 == 0 then none
      else some (FlagEvent.mk ((c.avail (x.result s c o).uniform).getD (l / 16) 0) l ((x.result s c o).out l).2 true)) : x.Holds := by
  intro o s c h hallowed hcheck hquiet hexecQuiet htakes
  obtain ⟨hd, hw⟩ := hdst s c o
  obtain ⟨hone, haff⟩ := hshape c o
  rw [hexec]
  refine runAlu_result h _ (rv c o) (fl c o) (hbody o s c hallowed hcheck) ?_ ?_ ?_ (hvalue o s c hcheck ?_) (hflags o s c)
  · rwa [hd, hw, hone, haff]
  · rw [hd, hw]
    exact fun n hn => hquiet n (List.mem_append_right _ hn)
  · rwa [hd]
  · exact fun s hs n hn => hquiet n (List.mem_append_left _ (List.mem_flatMap.2 ⟨s, hs, hn⟩))

/-- No lane raises a flag. -/
theorem raisedOf_none (c : Ctx) (uni : Bool) (ls : List Nat) :
    raisedOf c uni [] = ls.filterMap fun l =>
      if (0 : Flags) == 0 then none else some (FlagEvent.mk ((c.avail uni).getD (l / 16) 0) l 0 true) :=
  (List.filterMap_eq_nil_iff.2 fun _ _ => rfl).symm

theorem raisedOf_const (c : Ctx) (uni : Bool) (ls : List Nat) (fl : Flags) :
    raisedOf c uni (if fl == 0 then [] else ls.map fun l => (l, fl)) = ls.filterMap fun l =>
      if fl == 0 then none else some (FlagEvent.mk ((c.avail uni).getD (l / 16) 0) l fl true) :=
  filterMap_const ls (fun l => (c.avail uni).getD (l / 16) 0) fl

theorem raisedOf_lanes (c : Ctx) (uni : Bool) (ls : List Nat) (fl : Nat → Flags) :
    raisedOf c uni (ls.filterMap fun l => if fl l == 0 then none else some (l, fl l)) = ls.filterMap fun l =>
      if fl l == 0 then none else some (FlagEvent.mk ((c.avail uni).getD (l / 16) 0) l (fl l) true) :=
  filterMap_map ls (fun l => (c.avail uni).getD (l / 16) 0) fl

/-! ## Sources that are one value -/

/-- A pair that passes the Format check is even (R326). -/
theorem even_of_check {c : Ctx} {ss : List Src} {d : Code} {w64 : Bool} (h : c.check true ss d w64 = .ok ()) {s : Src} (hs : s ∈ ss)
    (hw : s.w64 = true) (hreg : isReg s.code = true) : s.code.toNat % 2 = 0 := by
  by_contra hodd
  have hfails : c.formatFails s = true := by
    have hlt : s.code.toNat < 120 := by simpa [isReg] using hreg
    have hne : ∀ n, 120 ≤ n → (s.code.toNat == n) = false := fun n hn => by simp; omega
    have hodd' : (s.code.toNat % 2 == 1) = true := by simp; omega
    simp [Ctx.formatFails, hne, hw, hreg, hodd']
  have hany : ss.any c.formatFails = true := List.any_eq_true.2 ⟨s, hs, hfails⟩
  unfold Ctx.check at h
  simp only [hany, if_true, Bool.not_true, Bool.false_and, Bool.false_eq_true, if_false] at h
  split at h
  · cases h
  · split at h <;> cases h

/-- A source that passes the checks, with no write outstanding, reads the same in every lane where it is one value. -/
theorem value_of_uniform_checked {c : Ctx} {ss : List Src} {d : Code} {w64 : Bool} (h : c.check true ss d w64 = .ok ())
    (hquiet : ∀ s ∈ ss, c.quiet s.regs) {s : Src} (hs : s ∈ ss) (huni : c.uniformSrc s = true) (o : Operands) (l k t u : Nat) :
    c.value s o l t = c.value s o k u :=
  value_of_uniform (hquiet s hs) huni (even_of_check h hs) l k t u

theorem maskOf_inMask (m : W64) : maskOf (inMask m) = m := by
  refine BitVec.eq_of_getLsbD_eq fun i hi => ?_
  exact inMask_maskOf (inMask m) i hi

theorem maskOf_congr {p q : Nat → Bool} (h : ∀ l, l < 64 → p l = q l) : maskOf p = maskOf q := by
  refine BitVec.eq_of_getLsbD_eq fun i hi => ?_
  exact ((inMask_maskOf p i hi).trans (h i hi)).trans (inMask_maskOf q i hi).symm

/-! ## SHFL, BCAST and MATCH -/

/-- The lanes of the mask whose value of A is that of a lane (R379). -/
def Ctx.matches (c : Ctx) (o : Operands) (l : Nat) : Nat :=
  (maskOf fun k => inMask c.mask k && c.value (c.rawSrc o.a) o k c.readAt == c.value (c.rawSrc o.a) o l c.readAt).toNat

theorem matches_of_uniform {c : Ctx} {o : Operands} (huni : ∀ k l, c.value (c.rawSrc o.a) o k c.readAt = c.value (c.rawSrc o.a) o l c.readAt)
    (l : Nat) : c.matches o l = c.mask.toNat := by
  unfold Ctx.matches
  refine congrArg BitVec.toNat ((maskOf_congr fun k _ => ?_).trans (maskOf_inMask c.mask))
  rw [huni k l, beq_self_eq_true, Bool.and_true]

theorem matchList_eq (c : Ctx) (o : Operands) {l : Nat} (hl : l < 64) :
    (maskOf fun k => inMask c.mask k &&
      ((List.range 64).map fun l => c.value (c.rawSrc o.a) o l c.readAt).getD k 0 ==
        ((List.range 64).map fun l => c.value (c.rawSrc o.a) o l c.readAt).getD l 0).toNat = c.matches o l := by
  unfold Ctx.matches
  refine congrArg BitVec.toNat (maskOf_congr fun k hk => ?_)
  simp [List.getD_eq_getElem?_getD, hk, hl]

/-- The result of SHFL (R373): one value where A and the lane number of B are. -/
def Ctx.shuffled (c : Ctx) (o : Operands) : ResVal :=
  let f (l : Nat) : Nat := c.value (c.rawSrc o.a) o (shflLane o.fn.toNat l (c.value (raw32 o.b) o l c.readAt % 64)) c.readAt
  if c.uniformSrc (c.rawSrc o.a) && c.isUniform o.b then .uni (f 0) else .lanes f

/-- The result of MATCH (R379): every active lane where A is one value. -/
def Ctx.matched (c : Ctx) (o : Operands) : ResVal :=
  if c.uniformSrc (c.rawSrc o.a) then .uni c.mask.toNat
  else .lanes fun l => (maskOf fun k => inMask c.mask k &&
    ((List.range 64).map fun l => c.value (c.rawSrc o.a) o l c.readAt).getD k 0 ==
      ((List.range 64).map fun l => c.value (c.rawSrc o.a) o l c.readAt).getD l 0).toNat

theorem shape_ite (p : Bool) (v : Nat) (f : Nat → Nat) :
    (if p then ResVal.uni v else .lanes f).isUni = p ∧ (if p then ResVal.uni v else .lanes f).isAff = false := by
  cases p <;> exact ⟨rfl, rfl⟩

theorem laneForms_hold : ∀ x ∈ laneForms, x.Holds := by
  simp only [laneForms, List.forall_mem_cons, List.not_mem_nil, IsEmpty.forall_iff, implies_true, and_true]
  refine ⟨ResultForm.holds_of_result (rv := fun c o => c.shuffled o) (fl := fun _ _ => []) (fun o s => (rfl : execShfl o s = _)) (fun _ _ _ => ⟨rfl, rfl⟩) ?shfl ?shflShape ?shflValue ?shflFlags,
    ResultForm.holds_of_result (rv := fun c o => .uni (c.value (c.rawSrc o.a) o (c.value (raw32 o.b) o (lowLane c.f.mask) c.readAt % 64) c.readAt))
      (fl := fun _ _ => []) (fun o s => (rfl : execBcast o s = _)) (fun _ _ _ => ⟨rfl, rfl⟩) ?bcast ?bcastShape ?bcastValue ?bcastFlags,
    ResultForm.holds_of_result (rv := fun c o => c.matched o) (fl := fun _ _ => []) (fun o s => (rfl : execMatchLanes o s = _)) (fun _ _ _ => ⟨rfl, rfl⟩) ?mat ?matShape ?matValue ?matFlags,
    ResultForm.holds_of_result (rv := fun c o => .uni (packElems (elemWidth c.et) (c.lred o).1))
      (fl := fun c o => if (c.lred o).2.1 == 0 then [] else (lanesOf c.mask).map fun l => (l, (c.lred o).2.1)) (fun o s => (rfl : execLred o s = _)) (fun _ _ _ => ⟨rfl, rfl⟩) ?lred ?lredShape ?lredValue ?lredFlags,
    ResultForm.holds_of_result (rv := fun c o => .lanes fun l => (c.lscanLane o l).1)
      (fl := fun c o => (lanesOf c.mask).filterMap fun l => if (c.lscanLane o l).2 == 0 then none else some (l, (c.lscanLane o l).2))
      (fun o s => (rfl : execLscan o s = _)) (fun _ _ _ => ⟨rfl, rfl⟩) ?lscan ?lscanShape ?lscanValue ?lscanFlags,
    ResultForm.holds_of_result (rv := fun c o => .uni (c.ballot o).toNat) (fl := fun _ _ => []) (fun o s => (rfl : execBallot o s = _)) (fun _ _ _ => ⟨rfl, rfl⟩) ?ballot ?ballotShape ?ballotValue ?ballotFlags,
    ResultForm.holds_of_result (rv := fun c o => .uni (popCount 64 (c.ballot o).toNat)) (fl := fun _ _ => []) (fun o s => (rfl : execPopm o s = _)) (fun _ _ _ => ⟨rfl, rfl⟩) ?popm ?popmShape ?popmValue ?popmFlags⟩
  case shfl => exact fun o s c _ hcheck => (bind_of_ok hcheck _).trans (result_bind_congr fun _ => rfl)
  case bcast => exact fun o s c _ hcheck => (bind_of_ok hcheck _).trans (result_bind_congr fun _ => rfl)
  case mat => exact fun o s c _ hcheck => (bind_of_ok hcheck _).trans (result_bind_congr fun _ => rfl)
  case lred => exact fun o s c hallowed hcheck => bind_of_ok (check_of_allowed hallowed hcheck) _
  case lscan =>
    exact fun o s c hallowed hcheck => (bind_of_ok (check_of_allowed hallowed hcheck) _).trans (result_bind_congr fun _ => rfl)
  case ballot =>
    exact fun o s c hallowed _ => (ite_error_of_false (by simpa using hallowed) _ _).trans (result_bind_plain ..).symm
  case popm =>
    exact fun o s c hallowed hcheck => (ite_error_of_false (by simpa using hallowed) _ _).trans
      ((bind_of_ok hcheck _).trans (result_bind_plain ..).symm)
  case shflShape | matShape => exact fun _ _ => shape_ite ..
  case bcastShape | lredShape | lscanShape | ballotShape | popmShape => exact fun _ _ => ⟨rfl, rfl⟩
  case shflValue =>
    intro o s c hcheck hquiet l hl
    simp only [Ctx.shuffled]
    split
    next huni => exact value_of_uniform_checked hcheck hquiet (List.mem_cons_self ..) (Bool.and_eq_true_iff.1 huni).1 ..
    · rfl
  case matValue =>
    intro o s c hcheck hquiet l hl
    simp only [Ctx.matched]
    split
    next huni =>
      exact (matches_of_uniform (fun k l => value_of_uniform_checked hcheck hquiet (List.mem_cons_self ..) huni o k l _ _) l).symm
    · exact matchList_eq c o hl
  case bcastValue | lredValue | lscanValue | ballotValue | popmValue => exact fun _ _ _ _ _ _ _ => rfl
  case lredFlags => exact fun o s c => raisedOf_const ..
  case lscanFlags => exact fun o s c => raisedOf_lanes ..
  case shflFlags | bcastFlags | matFlags | ballotFlags | popmFlags => exact fun o s c => raisedOf_none ..

/-! ## RDSR -/

theorem srWide_of_lane {o : Operands} (h : o.lit = 0x30#32) : srWide o = false := by
  unfold srWide
  rw [h]
  rfl

/-- With no lane active no lane raises a flag, whichever path the instruction takes. -/
theorem delivers_idle {s t : State} {c : Ctx} {o : Operands} {r : ElementResult} {uni : Bool} (hmask : c.mask = 0)
    (h : Delivers s t c o { r with uniform := uni }) : Delivers s t c o r := by
  obtain ⟨hframe, g', hgroup, hkeep, hpreds, hmode, hexec, hexec', hother, htag, hlanes, hidle, hflags, hsr⟩ := h
  refine ⟨hframe, g', hgroup, hkeep, hpreds, hmode, hexec, hexec', hother, htag, hlanes, hidle, ?_, hsr⟩
  have hnone : lanesOf c.mask = [] := by
    rw [hmask]
    exact List.filter_eq_nil_iff.2 fun l _ => by simp [inMask]
  rw [hflags, hnone]
  rfl

/-- What RDSR reads (R353): each lane's stochastic state, or one system register. -/
def State.srResult (s : State) (c : Ctx) (o : Operands) : ResVal :=
  if o.lit == 0x30#32 then .lanes fun l => (c.srAt l c.now).toNat else .uni (s.srValue c o.lit.toNat)

/-- RDSR comes to one result; with a system register and lanes active it is on the uniform path. -/
theorem execRdsr_body {o : Operands} {c : Ctx} (s : State) (hbad : srBad 0x0D o = false)
    (hcheck : c.check true [] o.d (srWide o) = .ok ()) :
    ∃ body, execRdsr o s = runAlu 0x0D o rdsrTiming s body ∧
      body c = c.result o.d (srWide o) (if srWide o then 3 else 1) 0 (s.srResult c o) c.mask >>= fun e =>
        .ok { e with sr := none, uniform := c.mask != 0 && o.lit != 0x30#32, flags := [] } := by
  refine ⟨_, rfl, (ite_error_of_false hbad _ _).trans ((bind_of_ok hcheck _).trans ?_)⟩
  by_cases hmask : c.mask = 0
  · have hresult : c.result o.d (srWide o) (if srWide o then 3 else 1) 0 (s.srResult c o) c.mask = .ok {} := by simp [Ctx.result, hmask]
    rw [hresult, hmask]
    rfl
  · have hactive : (c.mask == 0) = false := beq_false_of_ne hmask
    have hactive' : (c.mask != 0) = true := by simpa using hmask
    by_cases hlane : o.lit = 0x30#32
    · rw [State.srResult, srWide_of_lane hlane]
      simp only [hactive, hactive', hlane, bne_self_eq_false, beq_self_eq_true, Bool.and_false, Bool.false_eq_true, if_false, if_true]
      exact (result_bind_plain ..).symm
    · have hlane' : (o.lit == 0x30#32) = false := beq_false_of_ne hlane
      rw [State.srResult]
      simp only [hactive, hlane', bne, Bool.not_false, Bool.and_true, Bool.false_eq_true, if_false]
      exact result_bind_congr fun _ => rfl

theorem systemForms_hold : ∀ x ∈ systemForms, x.Holds := by
  simp only [systemForms, List.forall_mem_cons, List.not_mem_nil, IsEmpty.forall_iff, implies_true, and_true]
  intro o s c h hallowed hcheck hquiet hexecQuiet htakes
  obtain ⟨body, hexec, hbody⟩ := execRdsr_body s (by simpa using hallowed) hcheck
  have hshape : (s.srResult c o).isUni = (o.lit != 0x30#32) ∧ (s.srResult c o).isAff = false := by
    unfold State.srResult bne
    cases o.lit == 0x30#32 <;> exact ⟨rfl, rfl⟩
  obtain ⟨t, hnext, hdeliver⟩ := runAlu_result h
    ⟨o.d, srWide o, if srWide o then 3 else 1, 0, c.mask != 0 && o.lit != 0x30#32, none,
      fun l => (if o.lit == 0x30#32 then (c.srAt l c.now).toNat else s.srValue c o.lit.toNat, 0)⟩
    (s.srResult c o) [] hbody (by rw [hshape.1, hshape.2]; exact htakes) hquiet hexecQuiet
    (fun l _ => by unfold State.srResult; cases o.lit == 0x30#32 <;> rfl) (raisedOf_none ..)
  have hrdsr : exec (.rdsr o) s = execRdsr o s := rfl
  refine ⟨t, hrdsr.trans (hexec.trans hnext), ?_⟩
  by_cases hmask : c.mask = 0
  · exact delivers_idle hmask hdeliver
  · have hactive : (c.mask != 0) = true := by simpa using hmask
    rw [hactive, Bool.true_and] at hdeliver
    exact hdeliver

/-- Settles O11: the lane exchanges and the reads of a predicate and of system registers each deliver one result. -/
theorem laneExchangeAndRdsrDeliver : Obligations.LaneExchangeAndRdsrDeliver := by
  unfold Obligations.LaneExchangeAndRdsrDeliver
  intro x hx
  exact (List.mem_append.1 hx).elim (laneForms_hold x) (systemForms_hold x)

end Sys2Proof.Machine

/-! STX, PREF and WAITCNT (R230, R384, R386, R387, R391). -/
namespace Sys2Proof.Machine

/-! ## The inbound counters (R386, R425) -/

/-- A state in which teams count one more access on its way to their scratchpads. -/
def State.countInbound (s : State) (targets : List Nat) : State :=
  targets.foldl (fun s k => s.setTeam k { s.teamAt k with inbound := (s.teamAt k).inbound + 1 }) s

theorem countInbound_eq (s : State) (targets : List Nat) : ∃ ts, s.countInbound targets = { s with teams := ts } := by
  unfold State.countInbound
  induction targets generalizing s with
  | nil => exact ⟨s.teams, rfl⟩
  | cons k r ih =>
    obtain ⟨ts, h⟩ := ih (s.setTeam k { s.teamAt k with inbound := (s.teamAt k).inbound + 1 })
    exact ⟨ts, h⟩

theorem countInbound_scratch (s : State) (targets : List Nat) (n : Nat) :
    ((s.countInbound targets).teamAt n).scratch = (s.teamAt n).scratch := by
  refine foldl_keeps (fun u : State => (u.teamAt n).scratch) (fun u k => ?_) targets s
  by_cases hn : n = k
  · rw [hn, setTeam_teamAt_self]
  · rw [setTeam_teamAt_of_ne _ _ hn]

theorem countInbound_of_not_mem (s : State) {targets : List Nat} {n : Nat} (hn : n ∉ targets) :
    (s.countInbound targets).teamAt n = s.teamAt n := by
  unfold State.countInbound
  induction targets generalizing s with
  | nil => rfl
  | cons k r ih =>
    obtain ⟨hk, hr⟩ := not_or.1 (List.mem_cons.not.1 hn)
    exact (ih _ hr).trans (setTeam_teamAt_of_ne _ _ hk)

/-- Each of the targets counts once. -/
theorem countInbound_of_mem (s : State) {targets : List Nat} (hnodup : targets.Nodup) {n : Nat} (hn : n ∈ targets) :
    ((s.countInbound targets).teamAt n).inbound = (s.teamAt n).inbound + 1 := by
  unfold State.countInbound
  induction targets generalizing s with
  | nil => cases hn
  | cons k r ih =>
    obtain ⟨hk, hr⟩ := List.nodup_cons.1 hnodup
    by_cases heq : n = k
    · rw [heq]
      exact (congrArg Team.inbound (countInbound_of_not_mem _ hk)).trans (congrArg Team.inbound (setTeam_teamAt_self ..))
    · exact (ih _ hr ((List.mem_cons.1 hn).resolve_left heq)).trans
        (congrArg (fun t : Team => t.inbound + 1) (setTeam_teamAt_of_ne _ _ heq))

theorem nodup_eraseDups (l : List Nat) : l.eraseDups.Nodup := by
  match l with
  | [] => exact List.nodup_nil
  | a :: r =>
    rw [List.eraseDups_cons]
    refine List.nodup_cons.2 ⟨fun hmem => ?_, nodup_eraseDups _⟩
    have hne := (List.mem_filter.1 (List.mem_eraseDups.1 hmem)).2
    simp at hne
termination_by l.length
decreasing_by exact Nat.lt_succ_of_le (List.length_filter_le ..)

/-! ## STX -/

/-- The access of a store to scratchpads of the district. -/
def Ctx.remoteStore (c : Ctx) (o : Operands) (s : State) (lanes : List (Nat × Nat)) : Access :=
  { c.access s .store .remote (storeBytes o.fn.toNat) 120#7 false with
    lanes := lanes.map fun (l, p) => s.remoteLane c.g.team l p (c.storeData o (storeBytes o.fn.toNat) l) }

/-- The teams whose scratchpads an access writes. -/
def Access.targets (a : Access) : List Nat := (a.lanes.map fun x => x.team).eraseDups

/-- The state after a store to scratchpads of the district has left its core. -/
def State.sendStx (s : State) (core id : Nat) (a : Access) : State :=
  let u := s.countInbound a.targets
  State.send { u with accs := tset u.accs id a } (.stx id) core (2 * (core / 8)) true

theorem sendStx_eq (s : State) (core id : Nat) (a : Access) :
    ∃ ids ms, s.sendStx core id a =
      { s with teams := (s.countInbound a.targets).teams, accs := tset s.accs id a, ids := ids, msgs := ms } := by
  obtain ⟨ts, h⟩ := countInbound_eq s a.targets
  unfold State.sendStx
  rw [h]
  exact ⟨_, _, rfl⟩

theorem execStx_checked {o : Operands} {s : State} {c : Ctx} (hcnt : c.g.stcnt < 63)
    (hcheck : c.check true ([baseWord32 o, offWord o] ++ storeSrcs o (storeBytes o.fn.toNat)) 120#7 false = .ok ()) (hmask : c.mask ≠ 0)
    {lanes : List (Nat × Nat)} (hall : lanes = (lanesOf c.mask).map fun l => (l, c.scratchAddr o (c.laneTime l) l))
    (hlanes : scratchChecks lanes (storeBytes o.fn.toNat) true (fun a => s.remoteBad c.g.team a) = .ok ()) :
    ∃ body, execStx o s = runState 0xA5 o memTiming s body ∧
      body c = .ok (.issued (s.fresh.2.sendStx c.core s.fresh.1 (c.remoteStore o s.fresh.2 lanes))
        (c.advance 0xA5 o (c.g.begin (c.remoteStore o s.fresh.2 lanes))) false) := by
  have hfull : c.counterFull false = false := by simpa [Ctx.counterFull] using hcnt
  subst hall
  refine ⟨_, rfl, ?_⟩
  simp only [hfull, hcheck, hmask, hlanes, Bool.false_eq_true, beq_iff_eq, if_false, bind, Except.bind]
  rfl

/-! ## WAITCNT -/

/-- The bound that an operand of WAITCNT gives (R391). -/
def cntBound (x : Code) : Option Nat := if x == 0#7 then none else some (x.toNat - 1)

/-- Whether a group's counters have fallen to the operands of a WAITCNT (R230). -/
def Group.cntMet (g : Group) (o : Operands) : Prop :=
  (∀ n, cntBound o.a = some n → g.ldcnt ≤ n) ∧ ∀ n, cntBound o.b = some n → g.stcnt ≤ n

/-- What a WAITCNT waits for: nothing where both operands name none. -/
def waitcntWait (o : Operands) : Wait := if o.a == 0#7 && o.b == 0#7 then .none else .cnt (cntBound o.a) (cntBound o.b)

theorem bound_met {b : Option Nat} {k : Nat} : (match b with | some n => decide (k ≤ n) | none => true) = true ↔ ∀ n, b = some n → k ≤ n := by
  cases b with
  | none => simp
  | some m => simp

theorem waitcnt_over (g : Group) (o : Operands) (now : Nat) : g.waitOver (waitcntWait o) now = true ↔ g.cntMet o := by
  unfold waitcntWait
  split
  next hzero =>
    obtain ⟨ha, hb⟩ := by simpa using hzero
    simp [Group.waitOver, Group.cntMet, cntBound, ha, hb]
  · exact Bool.and_eq_true_iff.trans (and_congr bound_met bound_met)

theorem execWaitcnt_body (o : Operands) (c : Ctx) : ∃ body, (∀ s, execWaitcnt o s = runGroup 0xB0 o (fun _ => ⟨.ctl, 1, 1, true⟩) s body) ∧
    body c = .ok (if c.g.waitOver (waitcntWait o) c.now then c.advance 0xB0 o c.g else c.blocked 0xB0 o c.g (waitcntWait o), true) := by
  exact ⟨_, fun _ => rfl, rfl⟩

/-! ## PREF -/

/-- What a PREF asks for: an access of its own, with a read of each line. -/
def State.prefetch (s : State) (core id : Nat) (a : Access) (lines : List Nat) : State :=
  lines.foldl (fun s p => s.send (.read id (p / 256)) core (s.homeOf p) true) { s with accs := tset s.accs id a }

theorem prefetch_keeps {β : Type} (view : State → β) (haccs : ∀ u k, view { u with accs := k } = view u)
    (hmsgs : ∀ u ids ms, view { u with ids := ids, msgs := ms } = view u) (s : State) (core id : Nat) (a : Access) (lines : List Nat) :
    view (s.prefetch core id a lines) = view s :=
  (foldl_keeps view (fun u _ => hmsgs u _ _) lines _).trans (haccs ..)

theorem execPref_issued {o : Operands} {s : State} {c : Ctx} (h : Issues 0xA6 o memTiming s c)
    (hcheck : c.check true [basePair o, offWord o] 120#7 false = .ok ()) :
    ∃ u : State, execPref o s = .next { (u.afterIssue c o (c.beats (c.uniformAddress o true)) (c.advance 0xA6 o c.g)) with uni := c.uniformAddress o true } ∧
      u.mem = s.mem ∧ u.teams = s.teams := by
  obtain ⟨body, hexec, u, hbody, hmem, hteams⟩ : ∃ body, execPref o s = runState 0xA6 o memTiming s body ∧
      ∃ u : State, body c = .ok (.issued u (c.advance 0xA6 o c.g) (c.uniformAddress o true)) ∧ u.mem = s.mem ∧ u.teams = s.teams := by
    refine ⟨_, rfl, ?_⟩
    simp only [hcheck, bind, Except.bind]
    split
    · exact ⟨s, rfl, rfl, rfl⟩
    · exact ⟨_, rfl, prefetch_keeps State.mem (fun _ _ => rfl) (fun _ _ _ => rfl) s.fresh.2 ..,
        prefetch_keeps State.teams (fun _ _ => rfl) (fun _ _ _ => rfl) s.fresh.2 ..⟩
  exact ⟨u, hexec.trans (runState_issued h hbody), hmem, hteams⟩

/-! ## The statement -/

/-- Settles O26: STX by the access that it begins and its targets' counters, PREF by what its reads leave, WAITCNT by its bounds. -/
theorem remoteStoresHintsAndWaits : Obligations.RemoteStoresHintsAndWaits := by
  unfold Obligations.RemoteStoresHintsAndWaits
  refine ⟨?stx, ?pref, ?waitcnt⟩
  case stx =>
    intro o s c h hcnt hcheck hmask n lanes hlanes
    obtain ⟨body, hexec, hbody⟩ := execStx_checked hcnt hcheck hmask rfl hlanes
    have hstx : exec (.stx o) s = runState 0xA5 o memTiming s body := hexec
    obtain ⟨ids, ms, hsent⟩ := sendStx_eq s.fresh.2 c.core s.fresh.1 (c.remoteStore o s.fresh.2 lanes)
    obtain ⟨p, k, x, hafter⟩ := afterIssue_eq (s.fresh.2.sendStx c.core s.fresh.1 (c.remoteStore o s.fresh.2 lanes)) c o (c.beats false)
      (c.advance 0xA5 o (c.g.begin (c.remoteStore o s.fresh.2 lanes)))
    rw [hsent] at hafter
    rw [hstx, runState_issued h hbody, hsent]
    refine ⟨_, c.remoteStore o s.fresh.2 lanes, s.ids, rfl, afterIssue_group .., afterIssue_mem .., ?_, rfl, rfl, rfl, rfl,
      fun y hy => ?_, fun j => ?_⟩
    · rw [hafter]
      exact tget?_tset_self ..
    · rw [hafter]
      exact countInbound_of_mem s.fresh.2 (nodup_eraseDups _) (List.mem_eraseDups.2 (List.mem_map_of_mem hy))
    · rw [hafter]
      exact countInbound_scratch s.fresh.2 ..
  case pref =>
    intro o s c h hcheck
    have hpref : exec (.pref o) s = execPref o s := rfl
    obtain ⟨u, hnext, hmem, hteams⟩ := execPref_issued h hcheck
    exact ⟨_, hpref.trans hnext, afterIssue_group .., (afterIssue_mem ..).trans hmem, afterIssue_teams.trans hteams⟩
  case waitcnt =>
    intro o s c h bound
    have hwaitcnt : exec (.waitcnt o) s = execWaitcnt o s := rfl
    obtain ⟨body, hexec, hbody⟩ := execWaitcnt_body o c
    have hbound : bound = cntBound := by
      funext x
      simp [bound, cntBound]
    clear_value bound
    subst hbound
    rw [hwaitcnt, hexec]
    refine ⟨fun hmet => ?goes, fun hunmet => ?waits⟩
    case goes =>
      rw [if_pos ((waitcnt_over c.g o c.now).2 hmet)] at hbody
      exact runGroup_leaves h hbody
    case waits =>
      have hwait : waitcntWait o = .cnt (cntBound o.a) (cntBound o.b) := by
        unfold waitcntWait
        split
        next hzero =>
          obtain ⟨ha, hb⟩ := by simpa using hzero
          exact absurd (by simp [cntBound, ha, hb]) hunmet
        · rfl
      rw [if_neg (fun hover => hunmet ((waitcnt_over c.g o c.now).1 hover)), hwait] at hbody
      exact runGroup_leaves h hbody

end Sys2Proof.Machine

/-! Events, mailboxes, exchanges, commits and launches as they issue (R392, R402, R405 to R412, R439). -/
namespace Sys2Proof.Machine

section
variable {o : Operands} {s : State} {c : Ctx}

/-! ## Messages that leave as their instruction issues -/

/-- The message that a send puts on its way. -/
theorem send_msg (s : State) (kind : MsgKind) (core slice : Nat) (toSlice : Bool) (held : List Nat) :
    ∃ m, tget? (s.send kind core slice toSlice held).msgs s.ids = some m ∧ m.kind = kind ∧ m.sent = s.time :=
  ⟨_, tget?_tset_self .., rfl, rfl⟩

theorem afterIssue_msgs (s : State) (c : Ctx) (o : Operands) (beats : Nat) (g : Group) : (s.afterIssue c o beats g).msgs = s.msgs := by
  obtain ⟨p, k, a, h⟩ := afterIssue_eq s c o beats g
  rw [h]

/-- An instruction that sends a message behind its group's accesses, and waits for the answer to it. -/
theorem runState_sends {op : Nat} {tm : Ctx → Timing} {body : Ctx → Except Trap Done} {kind : MsgKind} {core slice : Nat} {toSlice : Bool}
    {held : List Nat} {g : Group} {x : Host.Outcome State Fault Refusal} (h : Issues op o tm s c) (hexec : x = runState op o tm s body)
    (hbody : body c = .ok (.issued ((s.setNr c.g.team).send kind core slice toSlice held) g true)) :
    ∃ t m, x = .next t ∧ t.group? c.core c.slot = some (c.issued o g) ∧ tget? t.msgs s.ids = some m ∧
      m.kind = kind ∧ m.sent = s.time ∧ t.mem = s.mem := by
  obtain ⟨m, hm, hkind, hsent⟩ := send_msg (s.setNr c.g.team) kind core slice toSlice held
  exact ⟨_, m, hexec.trans (runState_issued h hbody), afterIssue_group .., (congrArg (tget? · s.ids) (afterIssue_msgs ..)).trans hm, hkind, hsent,
    afterIssue_mem ..⟩

/-! ## WAITANY -/

/-- Descriptors that lie in the scratchpad pass the bound (R402). -/
theorem descriptors_inside {base size : Nat} {mask : BitVec 8}
    (h : ∀ k, k < 8 → mask.getLsbD k = true → base + 16 * k + 16 ≤ size) :
    ((List.range 8).find? fun k => mask.getLsbD k && decide (base + 16 * k + 16 > size)) = none := by
  refine List.find?_eq_none.2 fun k hk hbad => ?_
  obtain ⟨hbit, hpast⟩ := Bool.and_eq_true_iff.1 hbad
  exact absurd (h k (List.mem_range.1 hk) hbit) (Nat.not_le.2 (of_decide_eq_true hpast))

theorem execWaitany_leaves (h : Issues 0xCA o ctlTiming s c) (hcheck : c.syncCheck [raw32 o.a, raw32 o.b] o.d false = .ok ())
    (hconverged : c.g.converged = true) (haligned : c.single o o.a % 16 = 0)
    (hinside : ∀ k, k < 8 → (BitVec.ofNat 8 (c.single o o.b)).getLsbD k = true → c.single o o.a + 16 * k + 16 ≤ s.scratchSize c.g.team) :
    let g : Group := { (s.loadEvents c.g (c.single o o.a) (BitVec.ofNat 8 (c.single o o.b))) with
      evm := BitVec.ofNat 8 (c.single o o.b), armed := false }
    ∃ t, execWaitany o s = .next t ∧ Leaves s t c o (c.blocked 0xCA o g
      (if g.pev &&& BitVec.ofNat 8 (c.single o o.b) ≠ 0 then .resume o.d (c.now + 30 * c.cyc) false
       else .resume o.d (c.now + fixedCycles 400) true)) := by
  refine runState_leaves (uni := true) h ?_
  rw [hcheck]
  simp only [hconverged, haligned, descriptors_inside hinside, bne_self_eq_false, Bool.not_true, Bool.false_eq_true, if_false, bind, Except.bind,
    bne_iff_ne]

/-! ## XSHF -/

/-- What an XSHF leaves at its group until its partner comes (R409). -/
def Ctx.exchangeOf (c : Ctx) (o : Operands) : Exchange :=
  let tag := (c.tag o.a).getD (c.et, 0)
  let lanes := (List.range 64).map fun l => BitVec.ofNat 32 (c.value (raw32 o.a) o l c.now)
  { entry := c.entry, partner := c.single o o.b, rev := o.fn == 1#5, dst := o.d, mask := c.mask
    src := { fmt := tag.1, cnt := tag.2, val := if c.isUniform o.a then .uniform (lanes.getD 0 0) else .general [] }
    lanes := lanes, next := c.next 0xCE o, since := c.now }

/-- Whether the partner of an XSHF can never come (R410). -/
def State.partnerGone (s : State) (c : Ctx) (o : Operands) : Bool :=
  c.single o o.b == c.g.gix || c.single o o.b ≥ (s.gridAt (s.teamOf c.g).grid).eff.groups || (s.groupOf c.g.team (c.single o o.b)).isNone

theorem execXshf_body (hfree : c.g.exchange = none) (hcheck : c.check true [raw32 o.a, raw32 o.b] o.d false = .ok ())
    (hshape : (isReg o.d && o.d.toNat ≥ c.g.g) = false) :
    ∃ body, execXshf o s = runState 0xCE o xshfTiming s body ∧
      body c = if s.partnerGone c o then .error { cause := 0x0C }
        else .ok (.stall (s.afterIssue c o 4 { (c.g.setWait c.entry .xshf) with exchange := some (c.exchangeOf o) })) := by
  refine ⟨_, rfl, ?_⟩
  simp only [hfree, hcheck, hshape, Option.isSome_none, Bool.false_eq_true, if_false, bind, Except.bind] <;> rfl

end

/-! ## The statements -/

/-- Settles O28: EVSET, MSEND and MRECV by their bodies, WAITANY by the descriptors that it loads. -/
theorem eventAndMailboxInstructionsComplete : Obligations.EventAndMailboxInstructionsComplete := by
  unfold Obligations.EventAndMailboxInstructionsComplete
  refine ⟨?evset, ?msend, ?mrecv, ?waitany, ?diverged⟩
  case evset =>
    intro o s c h hcheck
    have hexec : exec (.evset o) s = execEvset o s := rfl
    exact ⟨_, hexec.trans (runState_issued (uni := true) h (by rw [hcheck]; rfl)), rfl, afterIssue_mem ..⟩
  case msend =>
    intro o s c h hcheck
    exact runState_sends h (rfl : execMsend o s = _) (by rw [hcheck]; rfl)
  case mrecv =>
    intro o s c h hcheck
    have hexec : exec (.mrecv o) s = execMrecv o s := rfl
    have hteam : ∀ g, (s.afterIssue c o 1 g).teamOf c.g = s.teamOf c.g := fun g => by simp only [State.teamOf, State.teamAt, afterIssue_teams]
    refine hexec.trans (runState_stall h ?_)
    rw [hcheck, ← hteam] <;> rfl
  case waitany =>
    intro o s c h hcheck hconverged base mask haligned hinside
    have hexec : exec (.waitany o) s = execWaitany o s := rfl
    obtain ⟨t, hnext, hleaves⟩ := execWaitany_leaves h hcheck hconverged haligned hinside
    exact ⟨t, _, _, hexec.trans hnext, hleaves, rfl, rfl⟩
  case diverged =>
    intro o s c h hcheck hdiverged
    have hexec : exec (.waitany o) s = execWaitany o s := rfl
    refine hexec.trans (runState_trap h ?_)
    rw [hcheck]
    simp only [hdiverged, Bool.not_false, if_true, bind, Except.bind]

/-- Settles O29: XSHF by whether its partner can come, and the match of two exchanges by what each group holds. -/
theorem exchangesMatch : Obligations.ExchangesMatch := by
  unfold Obligations.ExchangesMatch
  refine ⟨?xshf, ?pair⟩
  case xshf =>
    intro o s c h hfree hcheck hshape partner
    have hexec : exec (.xshf o) s = execXshf o s := rfl
    obtain ⟨body, hrun, hbody⟩ := execXshf_body (s := s) hfree hcheck hshape
    rw [hexec, hrun]
    refine ⟨fun ⟨hself, hgroups, hhere⟩ => ?comes, fun hgone => ?gone⟩
    case comes =>
      have hcomes : s.partnerGone c o = false := by
        simp only [State.partnerGone, Bool.or_eq_false_iff, beq_eq_false_iff_ne, decide_eq_false_iff_not, Nat.not_le, Option.isNone_eq_false_iff]
        exact ⟨⟨hself, hgroups⟩, hhere⟩
      rw [hcomes] at hbody
      exact ⟨c.exchangeOf o, runState_stall h hbody, rfl, rfl, rfl, rfl, rfl, fun l hl => by simp [Ctx.exchangeOf, List.getD_eq_getElem?_getD, hl]⟩
    case gone =>
      have hgone : s.partnerGone c o = true := by
        simp only [State.partnerGone, Bool.or_eq_true, beq_iff_eq, decide_eq_true_eq, ge_iff_le, Option.isNone_iff_eq_none]
        rw [Option.isSome_eq_false_iff, Option.isNone_iff_eq_none] at hgone
        tauto
      rw [hgone] at hbody
      exact runState_trap h hbody
  case pair =>
    intro s core slot g x key p y hg hx hp hy hpartner hkey at'
    have hexec : exec (.xshfMatch core slot) s = execXshfMatch core slot s := rfl
    have hnext : execXshfMatch core slot s = .next { s.setGroup core slot (g.exchanged x y at' s.time) with
        groups := tset (s.setGroup core slot (g.exchanged x y at' s.time)).groups key (p.exchanged y x at' s.time) } := by
      simp only [execXshfMatch, hg, hx, hp, hy, hpartner, bne_self_eq_false, Bool.false_eq_true, if_false] <;> rfl
    refine ⟨_, hexec.trans hnext, ?_, tget?_tset_self .., rfl, fun k hk hslot => ?_⟩
    · exact (tget?_tset_of_ne _ _ hkey.symm).trans (tget?_tset_self ..)
    · exact (tget?_tset_of_ne _ _ hk).trans (tget?_tset_of_ne _ _ hslot)

/-- Settles O33: each instruction's body once its checks pass. -/
theorem commitsLaunchesAndCollectivesStart : Obligations.CommitsLaunchesAndCollectivesStart := by
  unfold Obligations.CommitsLaunchesAndCollectivesStart
  refine ⟨?commit, ?launch, ?coll⟩
  case commit =>
    intro o s c h
    have hexec : exec (.commit o) s = execCommit o s := rfl
    exact ⟨_, hexec.trans (runState_issued (uni := true) h rfl), rfl⟩
  case launch =>
    intro o s c h hcheck haligned hinside
    have halign : alignChecks [(c.single o o.a, 64)] = .ok () := by simp [alignChecks, haligned]
    have hrange : rangeChecks (s.scratchSize c.g.team) [(c.single o o.a, 64)] = .ok () := by simp [rangeChecks, hinside]
    exact runState_sends h (rfl : execLaunch o s = _) (by rw [hcheck]; simp only [halign, hrange, bind, Except.bind] <;> rfl)
  case coll =>
    intro o s c d es pa h hroom hcheck hmask hd htrans hloc u
    have hexec : exec (.coll o) s = execColl o s := rfl
    refine ⟨_, hexec.trans (runState_issued (uni := false) h ?_), rfl⟩
    simp only [hroom, hcheck, hmask, hd, htrans, hloc, Bool.and_false, Bool.false_eq_true, beq_iff_eq, if_false, bind, Except.bind] <;> rfl

end Sys2Proof.Machine

/-! The events of the Plaza (R331, R401 to R410). -/
namespace Sys2Proof.Machine

/-! ## What a wake of parked teams leaves alone (R136, R137) -/

/-- A state without what a readmission may change: teams and the distributor. -/
def State.offTeams (s : State) : State := { s with teams := [], dist := {} }

theorem wakeParked_offTeams (s : State) (team : Nat) : (s.wakeParked team).offTeams = s.offTeams := by
  simp only [State.wakeParked]
  split
  · exact foldl_keeps State.offTeams (f := fun (s : State) k => s.setTeam k { s.teamAt k with state := .queued, restore := true })
      (fun _ _ => rfl) _ s
  · rfl

theorem plazaKept_offTeams (s : State) (core slot index : Nat) : (s.plazaKept core slot index).offTeams = s.offTeams := by
  simp only [State.plazaKept]
  exact foldl_keeps State.offTeams wakeParked_offTeams _ _

theorem plazaKept_mem (s : State) (core slot index : Nat) : (s.plazaKept core slot index).mem = s.mem :=
  show State.mem (State.offTeams _) = s.offTeams.mem from congrArg State.mem (plazaKept_offTeams ..)

theorem plazaKept_groups (s : State) (core slot index : Nat) : (s.plazaKept core slot index).groups = s.groups :=
  show State.groups (State.offTeams _) = s.offTeams.groups from congrArg State.groups (plazaKept_offTeams ..)

theorem contexts_of_offPlaza {s t : State} (h : s.offPlaza = t.offPlaza) : s.contexts = t.contexts :=
  show s.offPlaza.contexts = t.offPlaza.contexts from congrArg State.contexts h

theorem msgs_of_offPlaza {s t : State} (h : s.offPlaza = t.offPlaza) : s.msgs = t.msgs :=
  show s.offPlaza.msgs = t.offPlaza.msgs from congrArg State.msgs h

/-- An event that comes to one group's new state and a wake of parked teams: the group takes it, and memory and the other groups stay. -/
theorem plazaKept_setGroup (s : State) (core slot index : Nat) (g : Group) :
    ((s.setGroup core slot g).plazaKept core slot index).mem = s.mem ∧
    ((s.setGroup core slot g).plazaKept core slot index).group? core slot = some g ∧
    ∀ k, k ≠ slotKey core slot → tget? ((s.setGroup core slot g).plazaKept core slot index).groups k = tget? s.groups k := by
  refine ⟨plazaKept_mem .., ?_, fun k hk => ?_⟩
  · exact (congrArg (tget? · _) (plazaKept_groups ..)).trans (tget?_tset_self ..)
  · exact (congrArg (tget? · k) (plazaKept_groups ..)).trans (tget?_tset_of_ne _ _ hk)

/-! ## Firings (R402, R403) -/

section
variable {s : State} {core slot index e : Nat} {g : Group} {f : Frag} {d : Code} (hg : s.group? core slot = some g)
  (hsplit : g.split = [(e, f)])

section
variable (hwait : f.wait = .event d)
include hsplit hwait

/-- An armed group's firing sets its bits, and an unmasked one ends the wait 800 cycles later. -/
theorem fire_waiting (harmed : g.armed = true) (bits : BitVec 8) (now : Nat) :
    (g.fire bits false now).pev = g.pev ||| bits ∧ (g.fire bits false now).regs = g.regs ∧ (g.fire bits false now).preds = g.preds ∧
    ((g.fire bits false now).pev &&& g.evm ≠ 0 →
      (g.fire bits false now).split = [(e, { f with wait := .resume d (now + wakeDelay) false })]) ∧
    ((g.fire bits false now).pev &&& g.evm = 0 → (g.fire bits false now).split = g.split) := by
  simp only [Group.fire, harmed, hsplit, hwait, List.any_cons, List.any_nil, Bool.or_false, Bool.not_true, Bool.false_eq_true, if_false]
  refine ⟨trivial, trivial, trivial, fun hwoken => ?_, fun hmasked => ?_⟩
  · rw [if_pos (bne_iff_ne.2 hwoken)]
    simp [tmap, hwait]
  · simp [hmasked]

include hg

theorem plazaGroup_fires (hindex : index < 8) (htrue : s.eventTrue g.team g (g.evd.getD index (0, 0)).1 = true)
    (hlatch : (s.teamAt g.team).state.latches = false) :
    s.plazaGroup core slot index = s.setGroup core slot (g.fire (BitVec.ofNat 8 (2 ^ index)) false s.time) := by
  simp only [State.plazaGroup, hg, hsplit, List.find?_cons, hwait, htrue, hlatch, hindex, decide_true, Bool.true_and, if_true]

end

section
variable {at' : Nat}

/-- The arming sample of a group with no unmasked event leaves it armed at the Plaza. -/
theorem plazaGroup_arms (hg : s.group? core slot = some g) (hsplit : g.split = [(e, f)]) (hwait : f.wait = .resume d at' true)
    (hdue : at' ≤ s.time) (hmasked : (g.pev ||| s.eventsTrue g.team g) &&& g.evm = 0) :
    s.plazaGroup core slot index = s.setGroup core slot
      (({ g with armed := true, pev := g.pev ||| s.eventsTrue g.team g }.setWait e (.event d)).notePark s.time) := by
  simp [State.plazaGroup, hg, hsplit, hwait, Nat.not_lt.2 hdue, hmasked]

theorem plazaGroup_resumes (hg : s.group? core slot = some g) (hsplit : g.split = [(e, f)]) (hwait : f.wait = .resume d at' false)
    (hdue : at' ≤ s.time) : s.plazaGroup core slot index = s.resumeEvent core slot e d := by
  simp [State.plazaGroup, hg, hsplit, hwait, hdue]

end

theorem notePark_eq (g : Group) (now : Nat) : ∃ p, g.notePark now = { g with parkSince := p } := by
  unfold Group.notePark
  dsimp only
  split
  · exact ⟨_, rfl⟩
  · exact ⟨g.parkSince, rfl⟩

end

/-! ## A value that reaches a waiting fragment's D (R394) -/

theorem writeReg_eq (g : Group) (w : RegOut) (av : List Nat) : ∃ rs os, g.writeReg w av = { g with regs := rs, outs := os } := by
  unfold Group.writeReg
  dsimp only
  split <;> exact ⟨_, _, rfl⟩

theorem writeExec_eq (g : Group) (x mask : W64) (av : List Nat) : ∃ ex os, g.writeExec x mask av = { g with exec := ex, outs := os } := by
  unfold Group.writeExec
  dsimp only
  split <;> exact ⟨_, _, rfl⟩

theorem foldl_writeReg_eq {α : Type} (w : α → RegOut) (av : List Nat) (l : List α) (g : Group) :
    ∃ rs os, l.foldl (fun g k => g.writeReg (w k) av) g = { g with regs := rs, outs := os } := by
  induction l generalizing g with
  | nil => exact ⟨g.regs, g.outs, rfl⟩
  | cons k r ih =>
    obtain ⟨rs, os, h⟩ := writeReg_eq g (w k) av
    obtain ⟨rs', os', h'⟩ := ih { g with regs := rs, outs := os }
    exact ⟨rs', os', by rw [List.foldl_cons, h, h']⟩

theorem deliver_eq (g : Group) (mask : W64) (d : Code) (w64 : Bool) (v avail : Nat) :
    ∃ rs os ex, g.deliver mask d w64 v avail = { g with regs := rs, outs := os, exec := ex } := by
  simp only [Group.deliver]
  split
  · obtain ⟨ex, os, h⟩ := writeExec_eq g (BitVec.ofNat 64 v) mask [avail, avail, avail, avail]
    exact ⟨g.regs, os, ex, h⟩
  · split
    · exact ⟨g.regs, g.outs, g.exec, rfl⟩
    · obtain ⟨rs, os, h⟩ := foldl_writeReg_eq _ [avail, avail, avail, avail] (List.range (if w64 then 2 else 1)) g
      exact ⟨rs, os, g.exec, h⟩

/-- A register with no write outstanding holds a 32-bit value in the lanes of the mask once it is delivered. -/
theorem deliver_lane {g : Group} {mask : W64} {d : Code} {v avail l : Nat} (hd : d.toNat < 120) (hquiet : g.regOuts d.toNat = [])
    (hl : l < 64) (hm : inMask mask l = true) : ((g.deliver mask d false v avail).reg d.toNat).val.lane l = BitVec.ofNat 32 v := by
  have hexec : (d == 123#7) = false := beq_false_of_ne fun h => by rw [h] at hd; exact absurd hd (by decide)
  have hspecial : ¬ d.toNat ≥ 120 := Nat.not_le.2 hd
  simp only [Group.deliver, hexec, hspecial, Bool.false_eq_true, if_false, List.range_one, List.foldl_cons, List.foldl_nil, Nat.add_zero,
    Nat.mul_zero, Nat.pow_zero, Nat.div_one]
  rw [writeReg_quiet _ _ _ hquiet, reg_tset_self, written_lane _ _ _ _ hl, hm, if_pos rfl]
  split
  · rfl
  · exact general_lane _ _ hl

/-! ## The resumption (R402) -/

section
variable {s : State} {core slot e k : Nat} {g : Group} {f : Frag} {d : Code}

theorem frag?_of_split (hg : s.group? core slot = some g) (hsplit : g.split = [(e, f)]) : s.frag? core slot e = some (g, f) := by
  simp [State.frag?, hg, hsplit, tget?]

/-- The lowest pending unmasked event. -/
theorem lowest_event {pev evm : BitVec 8} (hk : k < 8) (hbit : (pev &&& evm).getLsbD k = true)
    (hlow : ∀ j, j < k → (pev &&& evm).getLsbD j = false) : (List.range 8).find? (fun j => (pev &&& evm).getLsbD j) = some k := by
  rw [List.find?_range_eq_some]
  exact ⟨hbit, List.mem_range.2 hk, fun j hj => by simp [hlow j hj]⟩

/-- The group of a fragment that resumes with an event: its D has the event's number. -/
def Group.resumed (g : Group) (e : Nat) (f : Frag) (d : Code) (k now : Nat) : Group :=
  { ((g.settle now).deliver f.mask d false k now).setWait e .none with
    pev := (((g.settle now).deliver f.mask d false k now).setWait e .none).pev &&& ~~~ BitVec.ofNat 8 (2 ^ k), armed := false, parkSince := none }

theorem resumeEvent_eq (hg : s.group? core slot = some g) (hsplit : g.split = [(e, f)])
    (hfind : (List.range 8).find? (fun j => (g.pev &&& g.evm).getLsbD j) = some k) :
    ∃ ts, s.resumeEvent core slot e d =
      { (s.setGroup core slot ((g.resumed e f d k s.time).goTo e (((g.resumed e f d k s.time).evd.getD k (0, 0)).2))) with teams := ts } := by
  simp only [State.resumeEvent, frag?_of_split hg hsplit, hfind]
  split
  · exact ⟨_, rfl⟩
  · exact ⟨s.teams, rfl⟩

/-- A fragment that resumes at the Plaza goes to its event's handler with that event's bit clear. -/
theorem resumed_goTo (hsplit : g.split = [(e, f)]) (hjoins : g.joins = []) (now : Nat) (pc : W64) :
    ((g.resumed e f d k now).goTo e pc).pev = g.pev &&& ~~~ BitVec.ofNat 8 (2 ^ k) ∧
    ((g.resumed e f d k now).goTo e pc).armed = false ∧ (g.resumed e f d k now).evd = g.evd ∧
    ((g.resumed e f d k now).goTo e pc).split = [(e, { f with wait := .none, pc := pc })] ∧
    ((g.resumed e f d k now).goTo e pc).regs = ((g.settle now).deliver f.mask d false k now).regs := by
  obtain ⟨rs, os, ex, hdeliver⟩ := deliver_eq (g.settle now) f.mask d false k now
  have hgo : (g.resumed e f d k now).goTo e pc = (g.resumed e f d k now).standAt e pc := by
    have hrec : (g.resumed e f d k now).joins = [] := by rw [Group.resumed, hdeliver]; exact hjoins
    have hwaits : tget? (g.resumed e f d k now).split e = some { f with wait := .none } := by
      rw [Group.resumed, hdeliver]
      simp [Group.setWait, Group.settle, hsplit, tmod, tget?, tset]
    exact goTo_elsewhere hwaits fun r hr => by rw [hrec] at hr; cases hr
  rw [hgo, Group.resumed, hdeliver]
  refine ⟨rfl, rfl, rfl, ?_, rfl⟩
  simp [Group.standAt, Group.setWait, Group.settle, hsplit, tmod, tget?, tset]

end

/-! ## Flags and messages (R405, R407) -/

theorem flags_set {fl : List Nat} {k j : Nat} {v : Bool} :
    (j ∈ if v then ((fl.filter fun i => i != k) ++ [k]).mergeSort (· ≤ ·) else fl.filter fun i => i != k) ↔
      if j = k then v = true else j ∈ fl := by
  cases v <;> by_cases hj : j = k <;> simp [hj]

section
variable {s : State} {core slot entry at' : Nat}

theorem answer_offPlaza (s : State) (core slot entry : Nat) (d : Code) (w64 : Bool) (v at' : Nat) :
    (s.answer core slot entry d w64 v at').offPlaza = s.offPlaza := by
  unfold State.answer
  split <;> rfl

/-- A mailbox that nothing waits at keeps its messages. -/
theorem serveBox_idle {ctx box : Nat} (h : tgetD (s.ctxAt ctx).boxWaits box [] = []) : s.serveBox ctx box = s := by
  simp [State.serveBox, h]

end

/-- A full mailbox keeps its messages, and any other takes one more at its end. -/
def mailTaken (held : List W64) (v : W64) : List W64 := if held.length < 8 then held ++ [v] else held

/-- The state once a mailbox has taken a message or dropped it. -/
def State.mailed (s : State) (message ctx box : Nat) (v : W64) : State :=
  let s := s.dropMsg message
  let c := s.ctxAt ctx
  let held := tgetD c.boxes box []
  if held.length ≥ 8 then s else ((s.setCtx ctx { c with boxes := tset c.boxes box (held ++ [v]) }).firePlaza).serveBox ctx box

theorem ctxAt_of_offPlaza {s t : State} (h : s.offPlaza = t.offPlaza) (n : Nat) : s.ctxAt n = t.ctxAt n := by
  simp only [State.ctxAt, contexts_of_offPlaza h]

theorem mailed_keeps {s : State} {m ctx box : Nat} {v : W64} (hidle : tgetD (s.ctxAt ctx).boxWaits box [] = []) :
    (s.mailed m ctx box v).mem = s.mem ∧ tget? (s.mailed m ctx box v).msgs m = none ∧
    tgetD ((s.mailed m ctx box v).ctxAt ctx).boxes box [] = mailTaken (tgetD (s.ctxAt ctx).boxes box []) v := by
  unfold State.mailed
  extract_lets u c held
  by_cases hroom : held.length < 8
  case neg =>
    rw [if_pos (Nat.not_lt.1 hroom)]
    exact ⟨rfl, tget?_tdel_self .., (if_neg hroom).symm⟩
  case pos =>
    have hnew : (u.setCtx ctx { c with boxes := tset c.boxes box (held ++ [v]) }).ctxAt ctx = { c with boxes := tset c.boxes box (held ++ [v]) } :=
      tgetD_tset_self ..
    have hplaza := firePlaza_offPlaza (u.setCtx ctx { c with boxes := tset c.boxes box (held ++ [v]) })
    have hctx := (ctxAt_of_offPlaza hplaza ctx).trans hnew
    rw [if_neg (Nat.not_le.2 hroom), serveBox_idle (by rw [hctx]; exact hidle)]
    refine ⟨(mem_of_offPlaza hplaza).trans rfl, ?_, ?_⟩
    · exact (congrArg (tget? · m) (msgs_of_offPlaza hplaza)).trans (tget?_tdel_self ..)
    · rw [hctx]
      exact (tgetD_tset_self ..).trans (if_pos hroom).symm

/-- The sender's status changes nothing beside its group. -/
theorem execMailboxMessageArrival_ready {s : State} {m : Nat} {x : Msg} {ctx box : Nat} {v : W64} {core slot entry : Nat}
    (hmsg : s.Has m x (.mail ctx box v core slot entry)) (hfirst : s.earlierMail m ctx box core slot = false) :
    ∃ t, execMailboxMessageArrival m s = .next t ∧ t.offPlaza = (s.mailed m ctx box v).offPlaza := by
  obtain ⟨hget, hkind, hready⟩ := hmsg
  have hblocked : (!s.ready m x || s.earlierMail m ctx box core slot) = false := by simp [hready, hfirst]
  generalize hmailed : s.mailed m ctx box v = u
  unfold State.mailed at hmailed
  dsimp only at hmailed
  simp only [execMailboxMessageArrival, hget, hkind, hblocked, Bool.false_eq_true, if_false, hmailed]
  split
  · split
    · split
      · exact ⟨_, rfl, answer_offPlaza ..⟩
      · exact ⟨_, rfl, rfl⟩
    · exact ⟨_, rfl, rfl⟩
  · exact ⟨_, rfl, rfl⟩

/-! ## The statement -/

/-- What an event that fires leaves (R402, R403): the clauses of the statement on the group's bits and its fragment. -/
def Fired (s t : State) (core slot e index : Nat) (g g' : Group) (f : Frag) (d : Code) : Prop :=
  t.mem = s.mem ∧ t.group? core slot = some g' ∧ g'.pev = g.pev ||| BitVec.ofNat 8 (2 ^ index) ∧ g'.regs = g.regs ∧ g'.preds = g.preds ∧
  (g'.pev &&& g.evm ≠ 0 → g'.split = [(e, { f with wait := .resume d (s.time + wakeDelay) false })]) ∧
  (g'.pev &&& g.evm = 0 → g'.split = g.split) ∧ ∀ k, k ≠ slotKey core slot → tget? t.groups k = tget? s.groups k

section
variable {s : State} {core slot index e : Nat} {g : Group} {f : Frag} {d : Code} (hg : s.group? core slot = some g)
  (hsplit : g.split = [(e, f)]) (hwait : f.wait = .event d) (harmed : g.armed = true) (hindex : index < 8)
  (htrue : s.eventTrue g.team g (g.evd.getD index (0, 0)).1 = true) (hlatch : (s.teamAt g.team).state.latches = false)
include hg hsplit hwait harmed hindex htrue hlatch

theorem execEventFiring_fires : ∃ t g', execEventFiring core slot index s = .next t ∧ Fired s t core slot e index g g' f d := by
  obtain ⟨hmem, hgroup, hothers⟩ := plazaKept_setGroup s core slot index (g.fire (BitVec.ofNat 8 (2 ^ index)) false s.time)
  obtain ⟨hpev, hregs, hpreds, hwoken, hmasked⟩ := fire_waiting hsplit hwait harmed (BitVec.ofNat 8 (2 ^ index)) s.time
  exact ⟨_, _, by rw [execEventFiring, plazaGroup_fires hg hsplit hwait hindex htrue hlatch], hmem, hgroup, hpev, hregs, hpreds, hwoken,
    hmasked, hothers⟩

omit harmed in
theorem execTimerDeadline_fires (htimer : g.timerAt index = true) :
    ∃ t g', execTimerDeadline core slot index s = .next t ∧ Fired s t core slot e index g g' f d := by
  have harmed : g.armed = true := (Bool.and_eq_true_iff.1 htimer).1
  obtain ⟨hmem, hgroup, hothers⟩ := plazaKept_setGroup s core slot index (g.fire (BitVec.ofNat 8 (2 ^ index)) false s.time)
  obtain ⟨hpev, hregs, hpreds, hwoken, hmasked⟩ := fire_waiting hsplit hwait harmed (BitVec.ofNat 8 (2 ^ index)) s.time
  have hhere := plazaGroup_fires hg hsplit hwait hindex htrue hlatch
  simp only [execTimerDeadline, hg, htimer, if_true, hhere]
  split
  · exact ⟨_, _, rfl, hmem, hgroup, hpev, hregs, hpreds, hwoken, hmasked, hothers⟩
  · exact ⟨_, _, rfl, rfl, tget?_tset_self .., hpev, hregs, hpreds, hwoken, hmasked, fun k hk => tget?_tset_of_ne _ _ hk⟩

end

/-- Settles O41: each event by what the Plaza makes of the group, the flag or the mailbox that it reaches. -/
theorem plazaEventsComplete : Obligations.PlazaEventsComplete := by
  unfold Obligations.PlazaEventsComplete
  refine ⟨?firing, ?timer, ?arming, ?resumption, ?flag, ?mail, ?timeout, ?yield⟩
  case firing =>
    intro s core slot index e g f d hg hsplit hwait harmed hindex htrue hlatch
    have hexec : exec (.eventFiring core slot index) s = execEventFiring core slot index s := rfl
    exact hexec ▸ execEventFiring_fires hg hsplit hwait harmed hindex htrue hlatch
  case timer =>
    intro s core slot index e g f d hg hsplit hwait hindex htimer htrue hlatch
    have hexec : exec (.timerDeadline core slot index) s = execTimerDeadline core slot index s := rfl
    exact hexec ▸ execTimerDeadline_fires hg hsplit hwait hindex htrue hlatch htimer
  case arming =>
    intro s core slot index e at' g f d hg hsplit hwait hdue hmasked
    have hexec : exec (.eventFiring core slot index) s = execEventFiring core slot index s := rfl
    obtain ⟨p, hpark⟩ := notePark_eq ({ g with armed := true, pev := g.pev ||| s.eventsTrue g.team g }.setWait e (.event d)) s.time
    obtain ⟨hmem, hgroup, -⟩ := plazaKept_setGroup s core slot index
      { ({ g with armed := true, pev := g.pev ||| s.eventsTrue g.team g }.setWait e (.event d)) with parkSince := p }
    refine ⟨_, _, hexec.trans (by rw [execEventFiring, plazaGroup_arms hg hsplit hwait hdue hmasked, hpark]), hmem, hgroup, rfl, rfl, ?_⟩
    simp [Group.setWait, hsplit, tmod, tget?, tset]
  case resumption =>
    intro s core slot index e at' k g f d hg hsplit hjoins hwait hdue hk hbit hlow
    have hexec : exec (.eventFiring core slot index) s = execEventFiring core slot index s := rfl
    obtain ⟨hpev, harmed, hevd, hsplit', hregs⟩ := resumed_goTo (k := k) (d := d) hsplit hjoins s.time (g.evd.getD k (0, 0)).2
    obtain ⟨ts, hresume⟩ := resumeEvent_eq (d := d) hg hsplit (lowest_event hk hbit hlow)
    rw [hevd] at hresume
    refine ⟨(s.resumeEvent core slot e d).plazaKept core slot index, _,
      hexec.trans (by rw [execEventFiring, plazaGroup_resumes hg hsplit hwait hdue]), (plazaKept_mem ..).trans (by rw [hresume]; rfl), ?_,
      hpev, harmed, hsplit', fun hd hquiet l hl hm => ?_⟩
    · rw [State.group?, plazaKept_groups, hresume]
      exact tget?_tset_self ..
    · rw [Group.reg, hregs]
      exact deliver_lane hd hquiet hl hm
  case flag =>
    intro s m x ctx k v ⟨hget, hkind, hready⟩
    have hexec : exec (.flagSet m) s = execFlagSet m s := rfl
    have hplaza := firePlaza_offPlaza ((s.dropMsg m).setCtx ctx { (s.dropMsg m).ctxAt ctx with
      flags := if v then ((((s.dropMsg m).ctxAt ctx).flags.filter fun j => j != k) ++ [k]).mergeSort (· ≤ ·)
        else ((s.dropMsg m).ctxAt ctx).flags.filter fun j => j != k })
    refine ⟨_, hexec.trans (by simp only [execFlagSet, hget, hkind, hready, Bool.not_true, Bool.false_eq_true, if_false]),
      (mem_of_offPlaza hplaza).trans rfl, (congrArg (tget? · m) (msgs_of_offPlaza hplaza)).trans (tget?_tdel_self ..), fun j => ?_⟩
    rw [ctxAt_of_offPlaza hplaza, State.ctxAt, State.setCtx, tgetD_tset_self]
    exact flags_set
  case mail =>
    intro s m x ctx box v core slot entry hmsg hfirst hidle
    have hexec : exec (.mailboxMessageArrival m) s = execMailboxMessageArrival m s := rfl
    obtain ⟨t, hnext, hplaza⟩ := execMailboxMessageArrival_ready hmsg hfirst
    obtain ⟨hmem, hmsgs, hboxes⟩ := mailed_keeps (m := m) (v := v) hidle
    refine ⟨t, hexec.trans hnext, (mem_of_offPlaza hplaza).trans hmem, ?_, ?_⟩
    · rw [msgs_of_offPlaza hplaza, hmsgs]
    · rw [ctxAt_of_offPlaza hplaza, hboxes, mailTaken]
  case timeout =>
    intro s core slot g x f hg hx hf hover
    have hexec : exec (.xshfTimeout core slot) s = execXshfTimeout core slot s := rfl
    have hdue : (((s.groupOf g.team x.partner).isNone && !((s.teamAt g.team).kept.any fun e => e.2.gix == x.partner)) ||
        decide (x.since + 65536 * s.cyc core ≤ s.time)) = true := by
      rcases hover with hlate | ⟨hnone, hkept⟩
      · simp [hlate]
      · have haway : ((s.teamAt g.team).kept.any fun e => e.2.gix == x.partner) = false :=
          List.any_eq_false.2 fun e he => by simpa using hkept e he
        simp [hnone, haway]
    refine hexec.trans ?_
    simp only [execXshfTimeout, hg, hx, hf, hdue, if_true]
  case yield =>
    intro s core slot entry at' g f hg hf hwait hdue
    have hexec : exec (.yieldWaitEnd core slot entry) s = execYieldWaitEnd core slot entry s := rfl
    have hset : s.setWait core slot entry .none = s.setGroup core slot (g.setWait entry .none) := by simp only [State.setWait, hg]
    refine ⟨s.setGroup core slot (g.setWait entry .none), hexec.trans (by simp only [execYieldWaitEnd, State.frag?, hg, hf, Option.map_some, hwait, hdue, if_true, hset]), rfl,
      tget?_tset_self .., ?_, fun k hk => tget?_tset_of_ne _ _ hk⟩
    simp [Group.setWait, tget?_tmod_self, hf]

end Sys2Proof.Machine

/-! Engine instructions start their operations (R414, R416, R418, R424 to R429, R443 to R446). -/
namespace Sys2Proof.Machine

theorem joinStream_mem (s : State) (engine key : Nat) : (s.joinStream engine key).mem = s.mem := by
  unfold State.joinStream
  dsimp only
  split
  · rfl
  · split <;> rfl

theorem joinStream_ops (s : State) (engine key : Nat) : (s.joinStream engine key).ops = s.ops := by
  unfold State.joinStream
  dsimp only
  split
  · rfl
  · split <;> rfl

theorem addOp_mem (s : State) (o : EngineOp) : (s.addOp o).2.mem = s.mem := by
  unfold State.addOp
  dsimp only
  split
  · exact joinStream_mem ..
  · rfl

theorem addOp_ops (s : State) (o : EngineOp) : (s.addOp o).2.ops = tset s.ops s.ids o := by
  unfold State.addOp
  dsimp only
  split
  · exact joinStream_ops ..
  · rfl

theorem engineReady_mem (s : State) (c : Ctx) (a : AsyncStart) : (s.engineReady c a).mem = s.mem := by
  obtain ⟨ts, h⟩ := countInbound_eq (if a.nr then s.setNr c.g.team else s) a.inbound
  refine (congrArg State.mem h).trans ?_
  cases a.nr <;> rfl

theorem afterIssue_ops (s : State) (c : Ctx) (o : Operands) (beats : Nat) (g : Group) : (s.afterIssue c o beats g).ops = s.ops := by
  obtain ⟨p, k, a, h⟩ := afterIssue_eq s c o beats g
  rw [h]

section
variable {code cls : Nat} {srcs : List Src} {o : Operands} {s : State} {c : Ctx} {body : Ctx → Except Trap AsyncStart}
  (h : Issues code o memTiming s c) (hcheck : c.check true srcs 120#7 false = .ok ())
include h hcheck

theorem asyncInstr_idle (hmask : c.mask = 0) :
    ∃ t, asyncInstr code cls srcs o s body = .next t ∧ Leaves s t c o (c.advance code o c.g) := by
  refine runState_leaves (uni := false) h ?_
  simp [hmask, hcheck, bind, Except.bind]

theorem asyncInstr_starts (hmask : c.mask ≠ 0) (hroom : s.opsFull c.g.uid cls = false) {a : AsyncStart} (hstart : body c = .ok a) :
    ∃ t, asyncInstr code cls srcs o s body = .next t ∧
      IssuedFrom ((s.engineReady c a).addOp (c.started (s.engineReady c a) cls a)).2 t c o false (c.advance code o c.g) := by
  refine ⟨_, runState_issued h (uni := false) ?_, rfl⟩
  simp only [hroom, hcheck, hmask, hstart, Bool.and_false, Bool.false_eq_true, beq_iff_eq, if_false, bind, Except.bind] <;> rfl

end

/-- An instruction of the common course starts the operation that its checks find. -/
theorem EngineForm.holds_of_async {x : EngineForm}
    (hexec : ∀ o s, exec (x.con o) s = asyncInstr x.op x.cls (x.srcs o) o s (x.start o s)) : x.Holds := by
  intro o s c h hcheck
  rw [hexec]
  refine ⟨asyncInstr_idle h hcheck, fun hmask hroom a hstart => ?_⟩
  obtain ⟨t, hnext, hissued⟩ := asyncInstr_starts h hcheck hmask hroom hstart
  refine ⟨t, hnext, hissued, ?_, (s.engineReady c a).ids, ?_⟩
  · rw [hissued]
    exact (afterIssue_mem ..).trans ((addOp_mem ..).trans (engineReady_mem ..))
  · rw [hissued]
    refine (congrArg (tget? · _) ((afterIssue_ops ..).trans (addOp_ops ..))).trans (tget?_tset_self ..)

/-- Settles O30: each of the eleven runs the common course with the checks of its entry. -/
theorem engineInstructionsStart : Obligations.EngineInstructionsStart := by
  unfold Obligations.EngineInstructionsStart
  simp only [engineForms, List.forall_mem_cons, List.not_mem_nil, IsEmpty.forall_iff, implies_true, and_true]
  exact ⟨EngineForm.holds_of_async fun o s => (rfl : execCpy o s = _), EngineForm.holds_of_async fun o s => (rfl : execCpym o s = _),
    EngineForm.holds_of_async fun o s => (rfl : execGath o s = _), EngineForm.holds_of_async fun o s => (rfl : execScat o s = _),
    EngineForm.holds_of_async fun o s => (rfl : execGcsr o s = _), EngineForm.holds_of_async fun o s => (rfl : execStage o s = _),
    EngineForm.holds_of_async fun o s => (rfl : execLdb o s = _), EngineForm.holds_of_async fun o s => (rfl : execDpfx o s = _),
    EngineForm.holds_of_async fun o s => (rfl : execDrle o s = _), EngineForm.holds_of_async fun o s => (rfl : execDbit o s = _),
    EngineForm.holds_of_async fun o s => (rfl : execDchk o s = _)⟩

end Sys2Proof.Machine

/-! The step: the order of the candidates and what an issue slot does (R209 to R211, R298, R314). -/
namespace Sys2Proof.Machine
open Sys2Proof

/-! ## The order of candidates (R210) -/

/-- The keys of R210 in one lexicographic order: the first candidate has the least. -/
def Cand.key (c : Cand) : Bool ×ₗ Bool ×ₗ ℕᵒᵈ ×ₗ ℕ ×ₗ ℕ ×ₗ ℕ :=
  toLex (c.overBudget, toLex (!c.handler, toLex (OrderDual.toDual c.prio, toLex (c.last, toLex (c.slot, c.entry)))))

theorem lexStep {α : Type} [LinearOrder α] (x y : α) (p : Prop) :
    (x < y ∨ x = y ∧ p) ↔ if x ≠ y then x < y else p := by
  split
  · rename_i hne
    simp [hne]
  · rename_i heq
    simp [not_not.1 heq]

theorem before_iff (a b : Cand) : a.before b = true ↔ a.key < b.key := by
  simp only [Cand.key, Prod.Lex.toLex_lt_toLex, lexStep]
  unfold Cand.before
  by_cases hbudget : a.overBudget = b.overBudget
  · by_cases hhandler : a.handler = b.handler
    · by_cases hprio : a.prio = b.prio
      · by_cases hlast : a.last = b.last
        · by_cases hslot : a.slot = b.slot
          · simp [*]
          · simp [*]
        · simp [*]
      · simp [*]
    · cases h : a.handler <;> cases h' : b.handler <;> simp_all
  · cases h : a.overBudget <;> cases h' : b.overBudget <;> simp_all

theorem before_eq_false_iff (a b : Cand) : a.before b = false ↔ b.key ≤ a.key := by
  rw [← Bool.not_eq_true, before_iff, not_lt]

theorem insert_perm (c : Cand) (l : List Cand) : (c.insert l).Perm (c :: l) := by
  induction l with
  | nil => exact .refl _
  | cons x r ih =>
    unfold Cand.insert
    split
    · exact (ih.cons x).trans (.swap c x r)
    · exact .refl _

theorem insert_pairwise {c : Cand} {l : List Cand} (h : l.Pairwise fun a b => a.key ≤ b.key) :
    (c.insert l).Pairwise fun a b => a.key ≤ b.key := by
  induction l with
  | nil => exact List.pairwise_singleton _ _
  | cons x r ih =>
    obtain ⟨hhead, htail⟩ := List.pairwise_cons.1 h
    unfold Cand.insert
    split
    case isTrue hb =>
      refine List.pairwise_cons.2 ⟨fun y hy => ?_, ih htail⟩
      rcases List.mem_cons.1 ((insert_perm c r).subset hy) with rfl | hr
      · exact ((before_iff ..).1 hb).le
      · exact hhead y hr
    case isFalse hb =>
      have hle : c.key ≤ x.key := (before_eq_false_iff ..).1 (Bool.not_eq_true _ ▸ hb)
      refine List.pairwise_cons.2 ⟨fun y hy => ?_, h⟩
      rcases List.mem_cons.1 hy with rfl | hr
      · exact hle
      · exact hle.trans (hhead y hr)

theorem rank_perm (l : List Cand) : (rank l).Perm l := by
  induction l with
  | nil => exact .refl _
  | cons c r ih => exact (insert_perm c (rank r)).trans (ih.cons c)

theorem rank_pairwise (l : List Cand) : (rank l).Pairwise fun a b => b.before a = false := by
  have hkeys : (rank l).Pairwise fun a b => a.key ≤ b.key := by
    induction l with
    | nil => exact .nil
    | cons c r ih => exact insert_pairwise ih
  exact hkeys.imp fun {a b} h => (before_eq_false_iff b a).2 h

/-! ## Candidates (R209) -/

theorem fetch_of_decode {k : Core} {ctx a n : Nat} {i : Instr} (h : decode (k.wordsAt ctx a) = .ok (i, n)) :
    k.fetch ctx a = .instr i := by
  simp only [Core.fetch, h]

theorem candidatesIf_mem {s : State} {core quad : Nat} {array : Bool} {w : Cand} (h : w ∈ s.candidatesIf core quad array) :
    ∃ key g f, (key, g) ∈ s.groups ∧ key / 128 = core ∧ key % 128 / 32 = quad ∧ w.slot = key % 128 ∧ (w.entry, f) ∈ g.split ∧
      g.mayIssue = true ∧ w.what = (s.core core).fetch (s.teamOf g).ctx f.pc.toNat := by
  obtain ⟨⟨key, g⟩, hissuer, hg⟩ := List.mem_flatMap.1 h
  obtain ⟨⟨e, f⟩, hsplit, hw⟩ := List.mem_filterMap.1 hg
  obtain ⟨hmem, hmay⟩ := List.mem_filter.1 hissuer
  simp only [Bool.and_eq_true, beq_iff_eq] at hmay
  obtain ⟨⟨⟨⟨⟨hcore, hquad⟩, hgroup⟩, -⟩, -⟩, -⟩ := hmay
  simp only [Option.ite_none_right_eq_some, Option.some.injEq] at hw
  obtain ⟨-, rfl⟩ := hw
  exact ⟨key, g, f, hmem, hcore, hquad, rfl, (List.mem_filter.1 hsplit).1, hgroup, rfl⟩

theorem candidates_eq (s : State) (core quad : Nat) : ∃ array, s.candidates core quad = s.candidatesIf core quad array := by
  unfold State.candidates
  split
  · exact ⟨_, rfl⟩
  · exact ⟨_, rfl⟩

/-! ## The step -/

/-- Settles O34: the step's match on the head of its schedule. -/
theorem stepRunsTheEvent : Obligations.StepRunsTheEvent := by
  intro s dt i rest h
  simp only [step, h]

theorem step_of_issue {s : State} {dt core quad : Nat} {rest : List (Nat × Act)} (h : s.sched = (dt, .issue core quad) :: rest) :
    step s = ({ s.elapse dt with sched := rest, cur := none } : State).issueSlot core quad := by
  simp only [step, h]

theorem issueSlot_free {s : State} {core quad : Nat}
    (h : ((s.settleJoins core quad).core core).pipeFree quad 4 (s.settleJoins core quad).time = true) : s.issueSlot core quad = (s.settleJoins core quad).issueFirst core quad (rank ((s.settleJoins core quad).candidates core quad)) := by
  have hfree : (s.core core).pipeFree quad 4 s.time = true := h
  simp [State.issueSlot, hfree]

theorem issueFirst_stalled {s t : State} {core quad : Nat} {w : Cand} {others : List Cand} {i : Instr} (hw : w.what = .instr i)
    (hexec : exec i (s.issuing core w.slot w.entry 0 false) = .next t)
    (hstall : stalledIn (s.issuing core w.slot w.entry 0 false) t core w.slot w.entry = true) :
    s.issueFirst core quad (w :: others) = t.issueFirst core quad others := by
  simp only [State.issueFirst, hw, hexec, hstall, if_true]

theorem issueFirst_alone {s t : State} {core quad : Nat} {w : Cand} {others : List Cand} {i : Instr} (hw : w.what = .instr i)
    (hexec : exec i (s.issuing core w.slot w.entry 0 false) = .next t)
    (hready : stalledIn (s.issuing core w.slot w.entry 0 false) t core w.slot w.entry = false)
    (halone : t.uni = true ∨ s.partners core quad w = []) :
    s.issueFirst core quad (w :: others) =
      .next ((t.followReads (s.issuing core w.slot w.entry 0 false) core w.slot i).slotUsed core quad) := by
  simp only [State.issueFirst, hw, hexec, hready, Bool.false_eq_true, if_false]
  rcases halone with huni | hnone
  · rw [if_pos huni]
  · rw [hnone]
    simp only [List.find?_nil, ite_self]

theorem issueFirst_illegal {s : State} {core quad sub : Nat} {w : Cand} {others : List Cand} (hw : w.what = .illegal sub) :
    s.issueFirst core quad (w :: others) =
      .next (((s.issuing core w.slot w.entry 0 false).issueIllegal sub).slotUsed core quad) := by
  simp only [State.issueFirst, hw]

/-- Settles O35: what stands at a PC, the candidates and their order, and the two ways in which the first in rank may issue. -/
theorem stepRunsTheDecodedInstruction : Obligations.StepRunsTheDecodedInstruction := by
  refine ⟨fun k ctx a i n => fetch_of_decode, fun s core quad w hw => ?_, fun l => ⟨rank_perm l, rank_pairwise l⟩, ?_, ?_⟩
  · obtain ⟨array, heq⟩ := candidates_eq s core quad
    exact candidatesIf_mem (heq ▸ hw)
  · intro s dt core quad rest w others i hsched s1 hfree hrank hw s0 t hexec
    have hstep : step s = s1.issueFirst core quad (w :: others) := 
      (step_of_issue hsched).trans ((issueSlot_free hfree).trans (congrArg _ hrank))
    exact ⟨fun hready halone => hstep.trans (issueFirst_alone hw hexec hready halone),
      fun hstall => hstep.trans (issueFirst_stalled hw hexec hstall)⟩
  · intro s dt core quad sub rest w others hsched s1 hfree hrank hw
    exact (step_of_issue hsched).trans (((issueSlot_free hfree).trans (congrArg _ hrank)).trans (issueFirst_illegal hw))

end Sys2Proof.Machine

/-! Every step answers a next state (log entry 13). -/
namespace Sys2Proof.Machine
open Sys2Proof

/-- The outcome is a next state. -/
def Answers (o : Host.Outcome State Fault Refusal) : Prop := ∃ t, o = .next t

theorem answers_next (t : State) : Answers (.next t) := ⟨t, rfl⟩

theorem answers_ite {p : Prop} [Decidable p] {x y : Host.Outcome State Fault Refusal} (hx : Answers x) (hy : Answers y) :
    Answers (if p then x else y) := by
  split
  · exact hx
  · exact hy

/-! ## Instructions and events -/

theorem runGroup_answers (op : Nat) (o : Operands) (tm : Ctx → Timing) (s : State) (body : Ctx → Except Trap (Group × Bool)) :
    Answers (runGroup op o tm s body) := by
  unfold runGroup
  split
  · exact answers_next s
  · extract_lets c
    refine answers_ite (answers_next _) (answers_ite (answers_next _) ?_)
    split
    · exact answers_next _
    · exact answers_next _

theorem runAlu_answers (op : Nat) (o : Operands) (tm : Ctx → Timing) (s : State) (body : Ctx → Except Trap Effect) :
    Answers (runAlu op o tm s body) :=
  runGroup_answers ..

theorem runState_answers (op : Nat) (o : Operands) (tm : Ctx → Timing) (s : State) (body : Ctx → Except Trap Done) :
    Answers (runState op o tm s body) := by
  unfold runState
  split
  · exact answers_next s
  · extract_lets c
    refine answers_ite (answers_next _) (answers_ite (answers_next _) ?_)
    split
    · exact answers_next _
    · exact answers_next _
    · exact answers_next _

theorem jumpTo_answers (op : Nat) (o : Operands) (s : State) : Answers (jumpTo op o s) := by
  unfold jumpTo
  exact runGroup_answers ..

theorem atomMem_answers (code : Nat) (dst : Code) (o : Operands) (s : State) : Answers (atomMem code dst o s) := by
  unfold atomMem
  exact runState_answers ..

theorem arriveInstr_answers (op : Nat) (grid : Bool) (o : Operands) (s : State) : Answers (arriveInstr op grid o s) := by
  unfold arriveInstr
  exact runState_answers ..

theorem asyncInstr_answers (code cls : Nat) (srcs : List Src) (o : Operands) (s : State) (body : Ctx → Except Trap AsyncStart) :
    Answers (asyncInstr code cls srcs o s body) := by
  unfold asyncInstr
  exact runState_answers ..

theorem gathInstr_answers (code : Nat) (scat : Bool) (o : Operands) (s : State) : Answers (gathInstr code scat o s) := by
  unfold gathInstr
  exact asyncInstr_answers ..

theorem decodeInstr_answers (code which : Nat) (o : Operands) (s : State) : Answers (decodeInstr code which o s) := by
  unfold decodeInstr
  exact asyncInstr_answers ..

theorem mmaInstr_answers (code : Nat) (scr : Bool) (o : Operands) (s : State) : Answers (mmaInstr code scr o s) := by
  unfold mmaInstr
  exact runState_answers ..

theorem serveInbound_answers (s : State) (port : Nat) (ops : List (BitVec 8)) (bytes : Packet → Nat)
    (act : State → Packet → State × Nat × List Byte) : Answers (s.serveInbound port ops bytes act) := by
  unfold State.serveInbound
  split
  · exact answers_next s
  · exact answers_ite (answers_next _) (answers_next _)

theorem execFlitReceive_answers (port : Nat) (flit : BitVec 640) (s : State) : Answers (execFlitReceive port flit s) := by
  unfold execFlitReceive
  refine answers_ite (answers_next s) ?_
  obtain ⟨body, fixed⟩ := fecBody flit
  exact answers_next _

/-- Every meaning ends in a next state: an instruction's through the course that it shares with its kind, an event's through the
leaves of its decisions. -/
theorem exec_answers (i : Instr) (s : State) : Answers (exec i s) := by
  unfold exec
  cases i with
  | nop | braLabel | br | join | brx | call | callLabel | yield | wrsr | boost | waitcnt | evclr | mfence => exact runGroup_answers ..
  | mode | rdsr | srseed | pset | plog | pmov | ballot | popm | shfl | bcast | lred | lscan | vote | matchLanes | perm | iadd |
    isub | imul | imulh | imad | imin | imax | iabs | ineg | icmp | icvt | bitAnd | bitOr | bitXor | bitNot | shl | shr | sar |
    rot | fshl | fshr | bfx | bfi | popc | clz | brev | sel | lea | adda | aff | fadd | fsub | fmul | fma | fmin | fmax | fneg |
    fabs | fcmp | fclass | frnd | fscale | frcp | frsq | fsqrt | fexp2 | flog2 | fsin | fcos | cvt | pack | unpack | flgrd |
    flgclr => exact runAlu_answers ..
  | exit | trap | rft | ld | st | lds | sts | ldx | stx | pref | atoms | commit | bar | dwait | gwait | evset | waitany |
    msend | mrecv | xshf | trig | launch | close | waitb | accnext | accrd | accwr | epi | coll => exact runState_answers ..
  | bra | ret => exact jumpTo_answers ..
  | atom | red => exact atomMem_answers ..
  | darrive | garrive => exact arriveInstr_answers ..
  | cpy | cpym | gcsr | stage | ldb | dchk => exact asyncInstr_answers ..
  | gath | scat => exact gathInstr_answers ..
  | dpfx | drle | dbit => exact decodeInstr_answers ..
  | mma | mmas => exact mmaInstr_answers ..
  | powerOnReset | standbyPowerRemoved | heldRecordWrite | recordFetchComplete | registerRelease | eventFiring |
    priStoppedClear | eventCounterWrap | atsInvalidation | flrPf | timerDeadline => exact answers_next _
  | peerLoad | peerStore | peerAtomic | peerAtomicNoReturn | peerBulkWrite | peerCheckpointPage => exact serveInbound_answers ..
  | flitReceive => exact execFlitReceive_answers ..
  | moduleReset | chipletReset | recoveryGo | baseStageDone | memoryStageDone | attnonceWrite | attestationGo |
    attestationDone | clusterRetentionEntry | sliceRetentionEntry | loopSample | permitRefill | exclusionSubperiodEnd |
    readToClear | portTrainingDone | goBackNReplay | portReplayLimit | portReceiveTimeout | ckctlGo | ckctlAbort |
    ckctlRestore | checkpointStreamDone | recordFetch | flrVf | flrQueueDestroy | budgetPeriodBoundary | teamRetire |
    parkEligible | parkSpillDone | dsuspSet | dsuspClear | elevatorRetireComplete | cutOffChipletReset | pinMoveDone |
    discardRequest | discardComplete | dfrespServiced | dfrespRefused | tlbInvalidateDone =>
    exact answers_ite (answers_next _) (answers_next _)
  | imageVerifyDone | sensorSample | boostBoundary | portEnable | portDisable | portRetrain | pwgtWrite | pdevidWrite |
    restoreDone | bar4Write | contextEnable | contextDisable | recordRingReadIndexWrite | qwinWrite | queueCreate |
    queueDestroy | queueStop | queueAbort | queueResume | parkGo | preemption | preemptionSpillDone | debugHalt |
    debugSnapshotDone | debugRelease =>
    exact answers_ite (answers_next _) (answers_ite (answers_next _) (answers_next _))
  | railFault | clusterCalibrationDone | laserModuleLoss | bar4Read | pinTableWrite | tlbInvalidate =>
    exact answers_ite (answers_next _) (answers_ite (answers_next _) (answers_ite (answers_next _) (answers_next _)))
  | unassignedOpcode | railUp | clusterWake | sliceWake | inletOutOfRange | loopRestored | registerWrite =>
    simp only [execUnassignedOpcode, execRailUp, execClusterWake, execSliceWake, execInletOutOfRange, execLoopRestored,
      execRegisterWrite]
    (repeat' split) <;> exact answers_next _
  | flitSlot | peerRequestSend | routeHoldRelease | transitPacket | peerCollectivePacket | peerReservedOp | peerResponse |
    checkpointQuiesceDone =>
    simp only [execFlitSlot, execPeerRequestSend, execRouteHoldRelease, execTransitPacket, execPeerCollectivePacket,
      execPeerReservedOp, execPeerResponse, execCheckpointQuiesceDone]
    (repeat' split) <;> exact answers_next _
  | atsInvalidationCompletion | atsTranslationCompletion | prgResponse | priTimeout | pageWalk | dftTimeout | icacheFill |
    recordStart | waitAddressPoll | recordCompletionActions | launchAppend =>
    simp only [execAtsInvalidationCompletion, execAtsTranslationCompletion, execPrgResponse, execPriTimeout, execPageWalk,
      execDftTimeout, execIcacheFill, execRecordStart, execWaitAddressPoll, execRecordCompletionActions, execLaunchAppend]
    (repeat' split) <;> exact answers_next _
  | gridStart | gridReady | accountCharge | placementDecision | placementReservation | groupReady | plazaParkArm |
    chipletFenceNotice | switchMarkerRelease | chipletArrayUncorrectable | yieldWaitEnd =>
    simp only [execGridStart, execGridReady, execAccountCharge, execPlacementDecision, execPlacementReservation, execGroupReady,
      execPlazaParkArm, execChipletFenceNotice, execSwitchMarkerRelease, execChipletArrayUncorrectable, execYieldWaitEnd]
    (repeat' split) <;> exact answers_next _
  | elevatorPacket | avenueTokenGrant | readRequest | writeRequest | writeCompletion | loadDataReturn | lineFree |
    dramReadReturn | dramWriteAck | patrolScrub | badLineClear =>
    simp only [execElevatorPacket, execAvenueTokenGrant, execReadRequest, execWriteRequest, execWriteCompletion, execLoadDataReturn,
      execLineFree, execDramReadReturn, execDramWriteAck, execPatrolScrub, execBadLineClear]
    (repeat' split) <;> exact answers_next _
  | writeThrough | writeThroughAck | tokenRecall | tokack | tokret | gone | inv | invAck =>
    simp only [execWriteThrough, execWriteThroughAck, execTokenRecall, execTokack, execTokret, execGone, execInv, execInvAck]
    (repeat' split) <;> exact answers_next _
  | cmtReq | cmtMark | cmtAck | mergeDone | versionLineWrite | versionOverflowTrap =>
    simp only [execCmtReq, execCmtMark, execCmtAck, execMergeDone, execVersionLineWrite, execVersionOverflowTrap]
    (repeat' split) <;> exact answers_next _
  | copyChunk | engineOperationComplete | junctionArrival | partialParkTimeout | roundaboutTimeout | collectiveNameExpiry |
    matrixAccept | tileComplete | epiStart =>
    simp only [execCopyChunk, execEngineOperationComplete, execJunctionArrival, execPartialParkTimeout, execRoundaboutTimeout,
      execCollectiveNameExpiry, execMatrixAccept, execTileComplete, execEpiStart]
    (repeat' split) <;> exact answers_next _
  | barrierRelease | districtArrival | gridArrival | flagSet | mailboxMessageArrival | xshfMatch | xshfTimeout | trigTaken |
    trigEffect =>
    simp only [execBarrierRelease, execDistrictArrival, execGridArrival, execFlagSet, execMailboxMessageArrival, execXshfMatch,
      execXshfTimeout, execTrigTaken, execTrigEffect]
    (repeat' split) <;> exact answers_next _

/-! ## The step -/

theorem issuePair_answers (s : State) (core quad : Nat) (i : Instr) (w p : Cand) (alone : State) :
    Answers (s.issuePair core quad i w p alone) := by
  obtain ⟨s1, hwinner⟩ := exec_answers i (s.issuingWith core i w p s false)
  simp only [State.issuePair, hwinner]
  refine answers_ite (answers_next _) ?_
  obtain ⟨s2, hsecond⟩ := exec_answers i
    ((s1.followReads (s.issuingWith core i w p s false) core w.slot i).issuingWith core i p w s true)
  simp only [hsecond]
  refine answers_ite (answers_next _) (answers_ite ?_ (answers_next _))
  obtain ⟨s3, hlone⟩ := exec_answers i (s.issuing core p.slot p.entry 0 false)
  simp only [hlone]
  exact answers_next _

theorem issueFirst_answers (s : State) (core quad : Nat) (l : List Cand) : Answers (s.issueFirst core quad l) := by
  induction l generalizing s with
  | nil => exact answers_next _
  | cons w rest ih =>
    unfold State.issueFirst
    split
    · exact ih s
    · exact answers_next _
    case h_3 i hw =>
      obtain ⟨s1, hexec⟩ := exec_answers i (s.issuing core w.slot w.entry 0 false)
      simp only [hexec]
      refine answers_ite (ih s1) (answers_ite (answers_next _) ?_)
      split
      · exact answers_next _
      · exact issuePair_answers ..

theorem issueSlot_answers (s : State) (core quad : Nat) : Answers (s.issueSlot core quad) :=
  answers_ite (answers_next s) (issueFirst_answers ..)

/-- Settles O36: the empty schedule, an event and an issue slot each answer. -/
theorem everyStepAnswers : Obligations.EveryStepAnswers := by
  intro s
  show Answers (step s)
  unfold step
  split
  · exact answers_next _
  · split
    · exact exec_answers ..
    · exact issueSlot_answers ..

end Sys2Proof.Machine
